-- ==== Sys2Proof/Word.lean ====
section
/-! DEFINITION. The word types of the Avsan S7 and their plainest arithmetic (spec/00_scope.md R3, R4). -/

set_option Elab.async false

namespace Sys2Proof

/-- A 32-bit word: an instruction word, a scalar register, one lane (R9, R30, R49). -/
abbrev Word := BitVec 32

/-- A byte of memory (R3). -/
abbrev Byte := BitVec 8

/-- A 64-bit value: an address, a program counter, a scalar pair (R30, R77, R138). -/
abbrev DWord := BitVec 64

/-- The four lanes of one vector register of a slice (R30). -/
structure Lanes where
  l0 : Word
  l1 : Word
  l2 : Word
  l3 : Word
deriving DecidableEq, Repr

/-- The same word in every lane. -/
def Lanes.all (x : Word) : Lanes := ⟨x, x, x, x⟩

/-- Lane `i`, 0 to 3. -/
def Lanes.get (l : Lanes) (i : Fin 4) : Word :=
  match i with
  | 0 => l.l0
  | 1 => l.l1
  | 2 => l.l2
  | 3 => l.l3

/-- The four lanes given by a function of the lane number. -/
def Lanes.ofFn (f : Fin 4 → Word) : Lanes := ⟨f 0, f 1, f 2, f 3⟩

/-- Lanes of `new` where the mask has a one, lanes of `old` elsewhere (R33). -/
def Lanes.merge (mask : BitVec 4) (new old : Lanes) : Lanes :=
  Lanes.ofFn fun i => if mask.getLsbD i then new.get i else old.get i

/-- `pair[N]`: low half `lo`, high half `hi` (R77). -/
def pairOf (lo hi : Word) : DWord := hi ++ lo

/-- The low half of a pair. -/
def DWord.lo (x : DWord) : Word := x.setWidth 32

/-- The high half of a pair. -/
def DWord.hi (x : DWord) : Word := x.extractLsb' 32 32

/-- `sext32` (R81): a 32-bit pattern read as a signed value, at 64 bits. -/
def sext32 (x : Word) : DWord := x.signExtend 64

end Sys2Proof
end

