-- ==== Sys2Proof/Syntax.lean ====
section
/-! DEFINITION. The syntax of the Avsan S7: operand forms, literals and modifier words, and `Instr`, one constructor for
each row of spec/opcode_table.json. A Fillyn instruction carries its decoded operands; a step of the package that has no
instruction word carries what names it (which core, which queue, which packet). -/

set_option Elab.async false

namespace Sys2Proof

/-! ### Register operands (R59, R60, R77, R107) -/

/-- A register a vector field may read (R59). -/
inductive VSrcReg where
  | v (n : Fin 96)
  | o (n : Fin 16)
  | w (n : Fin 4)
  | z
  | laneId
  | sliceIdx
deriving DecidableEq, Repr

/-- A vector source: the register and the empty policy of bit [7] (R35, R59). -/
structure VSrc where
  reg : VSrcReg
  trap : Bool
deriving DecidableEq, Repr

/-- A register a vector destination may name (R31). -/
inductive VReg where
  | v (n : Fin 96)
  | o (n : Fin 16)
deriving DecidableEq, Repr

/-- A vector destination; `shift` is bit [7], the shift into w0 (R31, R59). -/
structure VDst where
  reg : VReg
  shift : Bool
deriving DecidableEq, Repr

/-- An even-aligned pair a vector pair field may read: registers 2n and 2n+1 (R107). -/
inductive VPairSrcReg where
  | v (n : Fin 48)
  | o (n : Fin 8)
  | w (n : Fin 2)
deriving DecidableEq, Repr

/-- A vector pair source with its empty policy (R107). -/
structure VPairSrc where
  reg : VPairSrcReg
  trap : Bool
deriving DecidableEq, Repr

/-- An even-aligned pair a vector destination may name (R107). -/
inductive VPairReg where
  | v (n : Fin 48)
  | o (n : Fin 8)
deriving DecidableEq, Repr

/-- A vector pair destination (R107, R122). -/
structure VPairDst where
  reg : VPairReg
  shift : Bool
deriving DecidableEq, Repr

/-- A scalar register number s0–s63 (R60). -/
abbrev SReg := Fin 64

/-- A register a scalar field may read (R60). -/
inductive SSrcReg where
  | s (n : SReg)
  | z
  | sliceIdx
deriving DecidableEq, Repr

/-- A scalar source with its empty policy (R35, R60). -/
structure SSrc where
  reg : SSrcReg
  trap : Bool
deriving DecidableEq, Repr

/-- An even scalar register 2n naming the pair s[2n], s[2n+1] (R77). -/
abbrev SPairReg := Fin 32

/-- A scalar-pair source: a pair, or the value 0 (R77). -/
structure SPairSrc where
  reg : Option SPairReg
  trap : Bool
deriving DecidableEq, Repr

/-- A predicate p0–p7. -/
abbrev PReg := Fin 8

/-- An accumulator tile a0–a255 (R60, R202). -/
abbrev Tile := Fin 256

/-- An even accumulator tile 2n naming the pair a[2n], a[2n+1] (R202, R208). -/
abbrev TilePair := Fin 128

/-- A register with a full/empty bit, as FEMRK names it (R96). -/
inductive FullReg where
  | vec (r : VReg)
  | scl (r : SReg)
deriving DecidableEq, Repr

/-- The operand of FETST: a source field of the vector or the scalar class, whose bit [7] is ignored and kept (R95). -/
inductive FeSrc where
  | vec (x : VSrc)
  | scl (x : SSrc)
deriving DecidableEq, Repr

/-! ### Immediates -/

/-- The control and status registers of R82. -/
inductive Csr where
  | fstat | crews | gtmo | swpt | rgnpcl | rgnpch | rgncnt | slotid | waveid | nslice | quant
  | tcause | tdet0 | tdet1 | tdet2 | tpcl | tpch
deriving DecidableEq, Repr

/-- The conditions of VCMP (R112). -/
inductive ICond where
  | eq | ne | lt | le | gt | ge | ltu | leu | gtu | geu
deriving DecidableEq, Repr

/-- The D field of VCMP (R112). -/
structure ICmp where
  cond : ICond
  p : PReg
deriving DecidableEq, Repr

/-- The conditions of FCMP (R117). -/
inductive FCond where
  | eq | ne | lt | le | gt | ge | un | ord
deriving DecidableEq, Repr

/-- The D field of FCMP (R117). -/
structure FCmp where
  cond : FCond
  p : PReg
deriving DecidableEq, Repr

/-- The operations of PLOG (R114). -/
inductive PLogOp where
  | and | or | xor | andn | not | mov | set | clr
deriving DecidableEq, Repr

/-- The D field of PLOG (R114). -/
structure PLogD where
  op : PLogOp
  p : PReg
deriving DecidableEq, Repr

/-- The condition of BRP (R78, R87). -/
inductive BrCond where
  | pred (p : PReg)
  | predNot (p : PReg)
  | nz (s : SSrc)
  | zero (s : SSrc)
deriving DecidableEq, Repr

/-- The two word offsets of the BRA and BRP literal (R86). -/
structure BrOffsets where
  toff : BitVec 16
  joff : BitVec 16
deriving DecidableEq, Repr

/-- Floating-point element formats a conversion may name (R125). -/
inductive FpFmt where
  | fp32 | bf16 | fp16 | e4m3 | e5m2 | e2m1
deriving DecidableEq, Repr

/-- Integer element formats a conversion may name (R125). -/
inductive IntFmt where
  | i8 | i16 | i32
deriving DecidableEq, Repr

/-- The B field of FCVT and FTOI: part index and source format (R125). -/
structure CvtF where
  k : Fin 8
  src : FpFmt
deriving DecidableEq, Repr

/-- The B field of ITOF (R125). -/
structure CvtI where
  k : Fin 8
  src : IntFmt
deriving DecidableEq, Repr

/-- The B field of UNPK (R128). -/
structure UnpkB where
  zx : Bool
  h : Bool
deriving DecidableEq, Repr

/-- Targets of CBD and CBDC (R131, R240). -/
inductive CbFmt where
  | e4m3 | e5m2 | bf16
deriving DecidableEq, Repr

/-- The B field of CBD: target and part (R131). -/
structure CbdB where
  fmt : CbFmt
  k : Fin 4
deriving DecidableEq, Repr

/-- The operations of VRED and VSCAN (R135). -/
inductive RedOp where
  | add | min | max | and | or | xor | minu | maxu
deriving DecidableEq, Repr

/-- The B field of VSCAN (R135). -/
structure ScanB where
  gang : Bool
  excl : Bool
  op : RedOp
deriving DecidableEq, Repr

/-- The B field of VRED (R135). -/
structure RedB where
  gang : Bool
  op : RedOp
deriving DecidableEq, Repr

/-- The scopes of R148. -/
inductive Scope where
  | slice | crew | core | die | package | pod
deriving DecidableEq, Repr

/-- A home hint: none, or compute domain 0–3 (R143, R147). -/
abbrev Hint := Option (Fin 4)

/-- The memory immediate (R143). -/
structure MemImm where
  hint : Hint
  scope : Scope
deriving DecidableEq, Repr

/-- The prefetch levels (R146). -/
inductive PrefLevel where
  | l1 | l2 | l3
deriving DecidableEq, Repr

/-- The B field of PREF (R146). -/
structure PrefImm where
  hint : Hint
  level : PrefLevel
deriving DecidableEq, Repr

/-- ORD of an atomic (R156). -/
inductive AtomOrd where
  | relaxed | acq | rel | acqRel
deriving DecidableEq, Repr

/-- USE of an atomic (R156, R159). -/
inductive AtomUse where
  | unpaired | commutative | nonOrdering | quantum | speculative
deriving DecidableEq, Repr

/-- TYPE of an atomic (R156). -/
inductive AtomTy where
  | s32 | u32 | f32
deriving DecidableEq, Repr

/-- The atomic literal but for RET, which is the presence of the destination (R156). -/
structure AtomLit where
  off : VSrc
  scope : Scope
  hint : Hint
  ord : AtomOrd
  use : AtomUse
  ty : AtomTy
deriving DecidableEq, Repr

/-- The operations of the atomic instructions (R155). -/
inductive AtomOp where
  | add | min | max | and | or | xor | cas | xchg
deriving DecidableEq, Repr

/-- The command immediate of group 0xB without a shell table (R236). -/
structure CmdImm where
  chk : Bool
  queue : Fin 8
deriving DecidableEq, Repr

/-- The command immediate of SHLD (R236). -/
structure ShldImm where
  tbl : Fin 8
  chk : Bool
  queue : Fin 8
deriving DecidableEq, Repr

/-- The queue mask of QFENCE, 1–255 (R242); a mask of 0 is ill formed. -/
structure QMask where
  mask : BitVec 8
deriving DecidableEq, Repr

/-- The selectors of TRWQ (R231). -/
inductive RwSel where
  | match_ | removed | declperm | declchk | aband | flush
  | rule (x : Fin 64)
deriving DecidableEq, Repr

/-- The operations of AMX and AMXR (R352). -/
inductive AmOp where
  | addS32 | addF32 | minS32 | maxS32 | minU32 | maxU32 | and | or | xor | xchg
deriving DecidableEq, Repr

/-- The B field of AMX (R352). -/
structure AmxImm where
  op : AmOp
  mc : Bool
deriving DecidableEq, Repr

/-- The D field of WAKE (R352). -/
structure WakeD where
  mailbox : Fin 64
  deferred : Bool
deriving DecidableEq, Repr

/-- A modifier word with its reserved bits 0; `cls` is the clamp base as encoded: the pair is s[cls], s[cls+1] (R57). -/
structure Modifier where
  clmp : Bool
  cls : BitVec 6
  sat : Bool
  scale : BitVec 6
  negb : Bool
  absb : Bool
  nega : Bool
  absa : Bool
deriving DecidableEq, Repr

/-! ### What the steps without an instruction word carry -/

/-- A die of the package (R1). -/
inductive DieId where
  | trust
  | command
  | base (d : Fin 4)
  | compute (d : Fin 4)
deriving DecidableEq, Repr

/-- The units an error or a self-test may concern (R336, R337). -/
inductive ErrUnit where
  | core
  | l2WayGroup
  | l3Bank
  | hbmFrame
  | dieToDie
  | tuiquelLane
  | pageTable
  | computeDie
  | baseDie
deriving DecidableEq, Repr

/-- What consumed an uncorrected error (R197): nothing, or the slice at (core, slot) from a store of the core. -/
inductive ErrConsumer where
  | none
  | registerFile (core slot : Nat)
  | controlState (core slot : Nat)
  | storeWord (core slot : Nat) (addr : DWord)
  | bstackRow (core slot : Nat) (column : Fin 32) (row : Fin 512)
  | tileEntry (core octet : Nat) (addr : DWord)
deriving DecidableEq, Repr

/-- A detected error (R197, R336, R337). -/
structure ErrorEvent where
  unit : ErrUnit
  loc : Word
  uncorrected : Bool
  addr : DWord
  ctx : BitVec 16
  consumer : ErrConsumer
deriving DecidableEq, Repr

/-- The slice a debug operation names (R178). -/
structure DbgTarget where
  core : BitVec 8
  slot : BitVec 7
deriving DecidableEq, Repr

/-- The operation an entry of a landing bank carries (R357). -/
inductive LandOp where
  | stx
  | amx (op : AmOp)
  | amxr (op : AmOp)
deriving DecidableEq, Repr

/-- A remote write or atomic as it reaches its target (R344, R348, R357). -/
structure LandEntry where
  peer : BitVec 9
  ctx : Fin 17
  off : BitVec 47
  op : LandOp
  data : Word
  step : DWord
  seq : Nat
deriving DecidableEq, Repr

/-- A broadcast of a crossing: the step it completes and the pod reference time it carries (R343, R362). -/
structure CrossingMsg where
  step : DWord
  ref : DWord
deriving DecidableEq, Repr

/-- A remote load as it reaches its target (R351). -/
structure LdxRequest where
  peer : BitVec 9
  ctx : Fin 17
  off : BitVec 47
  step : DWord
  seq : Nat
deriving DecidableEq, Repr

/-- A WAKE as it reaches its target (R354). -/
structure WakeMsg where
  peer : BitVec 9
  ctx : Fin 17
  mailbox : Fin 64
  deferred : Bool
  value : Word
  step : DWord
  seq : Nat
deriving DecidableEq, Repr

/-- A UET packet as it reaches the device (R364, R366). -/
inductive NetPacket where
  | send (ep : BitVec 12) (matchBits : DWord) (data : List Byte)
  | write (ep : BitVec 12) (raddr : DWord) (data : List Byte)
  | readRequest (ep : BitVec 12) (raddr : DWord) (len : Nat) (reqId : Nat)
  | readReply (reqId : Nat) (data : List Byte)
deriving DecidableEq, Repr

/-- The algorithms an SPDM requester offers (R331). -/
structure SpdmOffer where
  ecdsaP384 : Bool
  sha384 : Bool
  aes256Gcm : Bool
deriving DecidableEq, Repr

/-- The instructions and steps of the Avsan S7: one constructor for each row of spec/opcode_table.json. -/
inductive Instr where
  /-- `NOP` (R63), opcode 0x00. -/
  | nop
  /-- `BRA` (R87), opcode 0x01. -/
  | bra (off : BrOffsets)
  /-- `BRP` (R87), opcode 0x02. -/
  | brp (c : BrCond) (off : BrOffsets)
  /-- `BRI` (R88), opcode 0x03. -/
  | bri (a : SPairSrc)
  /-- `CALL` (R88), opcode 0x04. -/
  | call (d : SPairReg) (lit : Word)
  /-- `CALLI` (R88), opcode 0x05. -/
  | calli (d : SPairReg) (a : SPairSrc)
  /-- `RET` (R88), opcode 0x06. -/
  | ret (a : SPairSrc)
  /-- `EXIT` (R89), opcode 0x07. -/
  | exit
  /-- `YIELD` (R90), opcode 0x08. -/
  | yield
  /-- `TRAP` (R91), opcode 0x09. -/
  | trap (code : BitVec 16)
  /-- `RGN` (R92), opcode 0x0A. -/
  | rgn
  /-- `REGANG` (R93), opcode 0x0B. -/
  | regang (a : Bool)
  /-- `FETST` (R95), opcode 0x0C. -/
  | fetst (p : PReg) (r : FeSrc)
  /-- `FEMRK` (R96), opcode 0x0D. -/
  | femrk (r : FullReg) (full : Bool)
  /-- `RETR` (R173), opcode 0x0E. -/
  | retr
  /-- `RETT` (R173), opcode 0x0F. -/
  | rett
  /-- `ADD` (R79), opcode 0x10. -/
  | add (d : SReg) (a : SSrc) (b : SSrc)
  /-- `SUB` (R79), opcode 0x11. -/
  | sub (d : SReg) (a : SSrc) (b : SSrc)
  /-- `MUL` (R79), opcode 0x12. -/
  | mul (d : SReg) (a : SSrc) (b : SSrc)
  /-- `MULHS` (R79), opcode 0x13. -/
  | mulhs (d : SReg) (a : SSrc) (b : SSrc)
  /-- `MULHU` (R79), opcode 0x14. -/
  | mulhu (d : SReg) (a : SSrc) (b : SSrc)
  /-- `DIVS` (R79), opcode 0x15. -/
  | divs (d : SReg) (a : SSrc) (b : SSrc)
  /-- `DIVU` (R79), opcode 0x16. -/
  | divu (d : SReg) (a : SSrc) (b : SSrc)
  /-- `AND` (R79), opcode 0x17. -/
  | andS (d : SReg) (a : SSrc) (b : SSrc)
  /-- `OR` (R79), opcode 0x18. -/
  | orS (d : SReg) (a : SSrc) (b : SSrc)
  /-- `XOR` (R79), opcode 0x19. -/
  | xorS (d : SReg) (a : SSrc) (b : SSrc)
  /-- `SHL` (R79), opcode 0x1A. -/
  | shl (d : SReg) (a : SSrc) (b : SSrc)
  /-- `SHR` (R79), opcode 0x1B. -/
  | shr (d : SReg) (a : SSrc) (b : SSrc)
  /-- `SAR` (R79), opcode 0x1C. -/
  | sar (d : SReg) (a : SSrc) (b : SSrc)
  /-- `MINS` (R79), opcode 0x1D. -/
  | mins (d : SReg) (a : SSrc) (b : SSrc)
  /-- `MAXS` (R79), opcode 0x1E. -/
  | maxs (d : SReg) (a : SSrc) (b : SSrc)
  /-- `SLT` (R79), opcode 0x1F. -/
  | slt (d : SReg) (a : SSrc) (b : SSrc)
  /-- `LI` (R80), opcode 0x20. -/
  | li (d : SReg) (lit : Word)
  /-- `ADDI` (R80), opcode 0x21. -/
  | addi (d : SReg) (a : SSrc) (lit : Word)
  /-- `ANDI` (R80), opcode 0x22. -/
  | andi (d : SReg) (a : SSrc) (lit : Word)
  /-- `ORI` (R80), opcode 0x23. -/
  | ori (d : SReg) (a : SSrc) (lit : Word)
  /-- `PTEW` (R177), opcode 0x24. -/
  | ptew (d : SReg) (a : SPairSrc) (b : SPairSrc)
  /-- `ADDP` (R81), opcode 0x25. -/
  | addp (d : SPairReg) (a : SPairSrc) (b : SSrc)
  /-- `ADDPI` (R81), opcode 0x26. -/
  | addpi (d : SPairReg) (a : SPairSrc) (lit : Word)
  /-- `CSRR` (R83), opcode 0x27. -/
  | csrr (d : SReg) (b : Csr)
  /-- `CSRW` (R83), opcode 0x28. -/
  | csrw (a : SSrc) (b : Csr)
  /-- `SETM` (R84), opcode 0x29. -/
  | setm (a : SSrc)
  /-- `SETMI` (R84), opcode 0x2A. -/
  | setmi (lit : Word)
  /-- `GETM` (R84), opcode 0x2B. -/
  | getm (d : SReg)
  /-- `RDTS` (R85), opcode 0x2C. -/
  | rdts (d : SPairReg)
  /-- `JOIN` (R43), opcode 0x2D. -/
  | join (a : Fin 32)
  /-- `LEAVE` (R43), opcode 0x2E. -/
  | leave (a : Fin 32)
  /-- `FPOOL` (R177), opcode 0x2F. -/
  | fpool (d : SPairReg) (a : Bool) (b : Fin 5)
  /-- `VADD` (R110), opcode 0x30. -/
  | vadd (d : VDst) (a : VSrc) (b : VSrc) (m : Option Modifier)
  /-- `VSUB` (R110), opcode 0x31. -/
  | vsub (d : VDst) (a : VSrc) (b : VSrc) (m : Option Modifier)
  /-- `VMUL` (R110), opcode 0x32. -/
  | vmul (d : VDst) (a : VSrc) (b : VSrc) (m : Option Modifier)
  /-- `VMULH` (R110), opcode 0x33. -/
  | vmulh (d : VDst) (a : VSrc) (b : VSrc) (m : Option Modifier)
  /-- `VMAD` (R110), opcode 0x34. -/
  | vmad (d : VDst) (a : VSrc) (b : VSrc) (m : Option Modifier)
  /-- `VMIN` (R110), opcode 0x35. -/
  | vmin (d : VDst) (a : VSrc) (b : VSrc) (m : Option Modifier)
  /-- `VMAX` (R110), opcode 0x36. -/
  | vmax (d : VDst) (a : VSrc) (b : VSrc) (m : Option Modifier)
  /-- `VMINU` (R110), opcode 0x37. -/
  | vminu (d : VDst) (a : VSrc) (b : VSrc) (m : Option Modifier)
  /-- `VMAXU` (R110), opcode 0x38. -/
  | vmaxu (d : VDst) (a : VSrc) (b : VSrc) (m : Option Modifier)
  /-- `VABSD` (R110), opcode 0x39. -/
  | vabsd (d : VDst) (a : VSrc) (b : VSrc) (m : Option Modifier)
  /-- `VAND` (R111), opcode 0x3A. -/
  | vand (d : VDst) (a : VSrc) (b : VSrc) (m : Option Modifier)
  /-- `VOR` (R111), opcode 0x3B. -/
  | vor (d : VDst) (a : VSrc) (b : VSrc) (m : Option Modifier)
  /-- `VXOR` (R111), opcode 0x3C. -/
  | vxor (d : VDst) (a : VSrc) (b : VSrc) (m : Option Modifier)
  /-- `VANDN` (R111), opcode 0x3D. -/
  | vandn (d : VDst) (a : VSrc) (b : VSrc) (m : Option Modifier)
  /-- `VSHL` (R111), opcode 0x3E. -/
  | vshl (d : VDst) (a : VSrc) (b : VSrc) (m : Option Modifier)
  /-- `VSHR` (R111), opcode 0x3F. -/
  | vshr (d : VDst) (a : VSrc) (b : VSrc) (m : Option Modifier)
  /-- `VSAR` (R111), opcode 0x40. -/
  | vsar (d : VDst) (a : VSrc) (b : VSrc) (m : Option Modifier)
  /-- `VROT` (R111), opcode 0x41. -/
  | vrot (d : VDst) (a : VSrc) (b : VSrc) (m : Option Modifier)
  /-- `VCMP` (R112), opcode 0x42. -/
  | vcmp (d : ICmp) (a : VSrc) (b : VSrc) (m : Option Modifier)
  /-- `VSEL` (R113), opcode 0x43. -/
  | vsel (d : VDst) (a : VSrc) (b : VSrc) (m : Option Modifier)
  /-- `VLI` (R113), opcode 0x44. -/
  | vli (d : VDst) (lit : Word) (m : Option Modifier)
  /-- `VBCS` (R113), opcode 0x45. -/
  | vbcs (d : VDst) (a : SSrc) (m : Option Modifier)
  /-- `VCLZ` (R111), opcode 0x46. -/
  | vclz (d : VDst) (a : VSrc) (m : Option Modifier)
  /-- `VBITC` (R111), opcode 0x47. -/
  | vbitc (d : VDst) (a : VSrc) (m : Option Modifier)
  /-- `PLOG` (R114), opcode 0x48. -/
  | plog (d : PLogD) (a : PReg) (b : PReg) (m : Option Modifier)
  /-- `VDOT4` (R110), opcode 0x49. -/
  | vdot4 (d : VDst) (a : VSrc) (b : VSrc) (m : Option Modifier)
  /-- `FADD` (R115), opcode 0x50. -/
  | fadd (d : VDst) (a : VSrc) (b : VSrc) (m : Option Modifier)
  /-- `FSUB` (R115), opcode 0x51. -/
  | fsub (d : VDst) (a : VSrc) (b : VSrc) (m : Option Modifier)
  /-- `FMUL` (R115), opcode 0x52. -/
  | fmul (d : VDst) (a : VSrc) (b : VSrc) (m : Option Modifier)
  /-- `FFMA` (R115), opcode 0x53. -/
  | ffma (d : VDst) (a : VSrc) (b : VSrc) (m : Option Modifier)
  /-- `FFMS` (R115), opcode 0x54. -/
  | ffms (d : VDst) (a : VSrc) (b : VSrc) (m : Option Modifier)
  /-- `FMIN` (R116), opcode 0x55. -/
  | fmin (d : VDst) (a : VSrc) (b : VSrc) (m : Option Modifier)
  /-- `FMAX` (R116), opcode 0x56. -/
  | fmax (d : VDst) (a : VSrc) (b : VSrc) (m : Option Modifier)
  /-- `FCMP` (R117), opcode 0x57. -/
  | fcmp (d : FCmp) (a : VSrc) (b : VSrc) (m : Option Modifier)
  /-- `FRCP` (R118), opcode 0x58. -/
  | frcp (d : VDst) (a : VSrc) (m : Option Modifier)
  /-- `FRSQ` (R118), opcode 0x59. -/
  | frsq (d : VDst) (a : VSrc) (m : Option Modifier)
  /-- `FEXP2` (R118), opcode 0x5A. -/
  | fexp2 (d : VDst) (a : VSrc) (m : Option Modifier)
  /-- `FLOG2` (R118), opcode 0x5B. -/
  | flog2 (d : VDst) (a : VSrc) (m : Option Modifier)
  /-- `FSIN` (R118), opcode 0x5C. -/
  | fsin (d : VDst) (a : VSrc) (m : Option Modifier)
  /-- `FCOS` (R118), opcode 0x5D. -/
  | fcos (d : VDst) (a : VSrc) (m : Option Modifier)
  /-- `FTANH` (R118), opcode 0x5E. -/
  | ftanh (d : VDst) (a : VSrc) (m : Option Modifier)
  /-- `FCLASS` (R119), opcode 0x5F. -/
  | fclass (d : VDst) (a : VSrc) (m : Option Modifier)
  /-- `CMUL` (R121), opcode 0x60. -/
  | cmul (d : VDst) (a : VSrc) (b : VSrc) (m : Option Modifier)
  /-- `CFMA` (R121), opcode 0x61. -/
  | cfma (d : VDst) (a : VSrc) (b : VSrc) (m : Option Modifier)
  /-- `CCONJ` (R121), opcode 0x62. -/
  | cconj (d : VDst) (a : VSrc) (m : Option Modifier)
  /-- `CBFLY` (R122), opcode 0x63. -/
  | cbfly (d : VPairDst) (a : VPairSrc) (b : VSrc) (m : Option Modifier)
  /-- `CTWID` (R123), opcode 0x64. -/
  | ctwid (d : VDst) (a : VSrc) (b : Fin 25) (m : Option Modifier)
  /-- `FCVT` (R126), opcode 0x70. -/
  | fcvt (d : VDst) (a : VSrc) (b : CvtF) (m : Option Modifier)
  /-- `FTOI` (R126), opcode 0x71. -/
  | ftoi (d : VDst) (a : VSrc) (b : CvtF) (m : Option Modifier)
  /-- `ITOF` (R126), opcode 0x72. -/
  | itof (d : VDst) (a : VSrc) (b : CvtI) (m : Option Modifier)
  /-- `PACK` (R128), opcode 0x73. -/
  | pack (d : VDst) (a : VSrc) (b : VSrc) (m : Option Modifier)
  /-- `UNPK` (R128), opcode 0x74. -/
  | unpk (d : VDst) (a : VSrc) (b : UnpkB) (m : Option Modifier)
  /-- `MXQ` (R129), opcode 0x75. -/
  | mxq (d : VDst) (a : VSrc) (m : Option Modifier)
  /-- `MXDQ` (R130), opcode 0x76. -/
  | mxdq (d : VDst) (a : VSrc) (m : Option Modifier)
  /-- `CBD` (R131), opcode 0x77. -/
  | cbd (d : VDst) (a : VSrc) (b : CbdB) (m : Option Modifier)
  /-- `VBALLOT` (R133), opcode 0x80. -/
  | vballot (d : VDst) (a : PReg) (b : Bool)
  /-- `VPOPC` (R133), opcode 0x81. -/
  | vpopc (d : VDst) (a : VSrc) (b : Bool)
  /-- `VSHUF` (R134), opcode 0x82. -/
  | vshuf (d : VDst) (a : VSrc) (b : VSrc)
  /-- `VSCAN` (R135), opcode 0x83. -/
  | vscan (d : VDst) (a : VSrc) (b : ScanB)
  /-- `VRED` (R135), opcode 0x84. -/
  | vred (d : VDst) (a : VSrc) (b : RedB)
  /-- `VBCAST` (R134), opcode 0x85. -/
  | vbcast (d : VDst) (a : VSrc) (b : Fin 32)
  /-- `VMOVS` (R134), opcode 0x86. -/
  | vmovs (d : SReg) (a : VSrc) (b : Fin 4)
  /-- `LD_B` (R145), opcode 0x90. -/
  | ldB (d : VReg) (a : SPairSrc) (b : VSrc)
  /-- `LD_H` (R145), opcode 0x91. -/
  | ldH (d : VReg) (a : SPairSrc) (b : VSrc)
  /-- `LD_W` (R145), opcode 0x92. -/
  | ldW (d : VReg) (a : SPairSrc) (b : VSrc)
  /-- `LD_ACQ` (R145), opcode 0x93. -/
  | ldAcq (d : VReg) (a : SPairSrc) (b : MemImm)
  /-- `ST_B` (R145), opcode 0x94. -/
  | stB (d : VSrc) (a : SPairSrc) (b : VSrc)
  /-- `ST_H` (R145), opcode 0x95. -/
  | stH (d : VSrc) (a : SPairSrc) (b : VSrc)
  /-- `ST_W` (R145), opcode 0x96. -/
  | stW (d : VSrc) (a : SPairSrc) (b : VSrc)
  /-- `ST_REL` (R145), opcode 0x97. -/
  | stRel (d : VSrc) (a : SPairSrc) (b : MemImm)
  /-- `LDS` (R145), opcode 0x98. -/
  | lds (d : SReg) (a : SPairSrc) (b : Hint)
  /-- `STS` (R145), opcode 0x99. -/
  | sts (d : SSrc) (a : SPairSrc) (b : Hint)
  /-- `LDP` (R145), opcode 0x9A. -/
  | ldp (d : VPairReg) (a : SPairSrc) (b : VSrc)
  /-- `STP` (R145), opcode 0x9B. -/
  | stp (d : VPairSrc) (a : SPairSrc) (b : VSrc)
  /-- `LDS_ACQ` (R145), opcode 0x9C. -/
  | ldsAcq (d : SReg) (a : SPairSrc) (b : MemImm)
  /-- `STS_REL` (R145), opcode 0x9D. -/
  | stsRel (d : SSrc) (a : SPairSrc) (b : MemImm)
  /-- `PREF` (R146), opcode 0x9E. -/
  | pref (a : SPairSrc) (b : PrefImm)
  /-- `ATOM_ADD` (R158), opcode 0xA0. -/
  | atomAdd (d : Option VReg) (a : SPairSrc) (b : VSrc) (l : AtomLit)
  /-- `ATOM_MIN` (R158), opcode 0xA1. -/
  | atomMin (d : Option VReg) (a : SPairSrc) (b : VSrc) (l : AtomLit)
  /-- `ATOM_MAX` (R158), opcode 0xA2. -/
  | atomMax (d : Option VReg) (a : SPairSrc) (b : VSrc) (l : AtomLit)
  /-- `ATOM_AND` (R158), opcode 0xA3. -/
  | atomAnd (d : Option VReg) (a : SPairSrc) (b : VSrc) (l : AtomLit)
  /-- `ATOM_OR` (R158), opcode 0xA4. -/
  | atomOr (d : Option VReg) (a : SPairSrc) (b : VSrc) (l : AtomLit)
  /-- `ATOM_XOR` (R158), opcode 0xA5. -/
  | atomXor (d : Option VReg) (a : SPairSrc) (b : VSrc) (l : AtomLit)
  /-- `ATOM_CAS` (R161), opcode 0xA6. -/
  | atomCas (d : Option VReg) (a : SPairSrc) (b : VPairSrc) (l : AtomLit)
  /-- `ATOM_XCHG` (R161), opcode 0xA7. -/
  | atomXchg (d : Option VReg) (a : SPairSrc) (b : VSrc) (l : AtomLit)
  /-- `AMAXX` (R162), opcode 0xA8. -/
  | amaxx (d : SReg) (a : SPairSrc) (b : SSrc)
  /-- `FENCE` (R152), opcode 0xA9. -/
  | fence (sc : Scope)
  /-- `FENCE_ACQ` (R152), opcode 0xA9. -/
  | fenceAcq (sc : Scope)
  /-- `FENCE_REL` (R152), opcode 0xA9. -/
  | fenceRel (sc : Scope)
  /-- `BARI` (R188), opcode 0xAA. -/
  | bari (d : Option (Fin 32)) (a : SPairSrc) (b : SSrc)
  /-- `BARR` (R189), opcode 0xAB. -/
  | barr (d : SReg) (a : SPairSrc) (b : Bool)
  /-- `BARW` (R191), opcode 0xAC. -/
  | barw (a : SPairSrc) (b : SSrc)
  /-- `BART` (R191), opcode 0xAD. -/
  | bart (d : SReg) (a : SPairSrc) (b : SSrc)
  /-- `WAITV` (R99), opcode 0xAE. -/
  | waitv (d : SReg) (a : SPairSrc) (b : SSrc)
  /-- `WAITW` (R98), opcode 0xAF. -/
  | waitw (d : SReg) (a : Fin 64)
  /-- `CPY` (R241), opcode 0xB0. -/
  | cpy (d : SReg) (a : SPairSrc) (b : CmdImm)
  /-- `CPYS` (R241), opcode 0xB1. -/
  | cpys (d : SReg) (a : SPairSrc) (b : CmdImm)
  /-- `CBDC` (R241), opcode 0xB2. -/
  | cbdc (d : SReg) (a : SPairSrc) (b : CmdImm)
  /-- `CPYAM` (R241), opcode 0xB3. -/
  | cpyam (d : SReg) (a : SPairSrc) (b : CmdImm)
  /-- `GATH` (R241), opcode 0xB4. -/
  | gath (d : SReg) (a : SPairSrc) (b : CmdImm)
  /-- `SCAT` (R241), opcode 0xB5. -/
  | scat (d : SReg) (a : SPairSrc) (b : CmdImm)
  /-- `QFENCE` (R242), opcode 0xB6. -/
  | qfence (b : QMask)
  /-- `SHLD` (R243), opcode 0xB7. -/
  | shld (d : SReg) (a : SPairSrc) (b : ShldImm)
  /-- `TLDB` (R205), opcode 0xC0. -/
  | tldb (a : SSrc) (b : SSrc)
  /-- `TMMA` (R206), opcode 0xC1. -/
  | tmma (d : Tile) (a : SSrc) (b : SSrc)
  /-- `TMMAT` (R206), opcode 0xC2. -/
  | tmmat (d : Tile) (a : SSrc) (b : SSrc)
  /-- `TTRN` (R208), opcode 0xC3. -/
  | ttrn (d : TilePair) (a : TilePair)
  /-- `TSCL` (R209), opcode 0xC4. -/
  | tscl (d : Tile) (a : Tile) (b : SSrc)
  /-- `TZERO` (R209), opcode 0xC5. -/
  | tzero (d : Tile) (b : Fin 16)
  /-- `TADD` (R209), opcode 0xC6. -/
  | tadd (d : Tile) (a : Tile) (b : Tile)
  /-- `TACCR` (R210), opcode 0xC7. -/
  | taccr (d : VReg) (a : Tile) (b : Fin 16)
  /-- `TACCW` (R210), opcode 0xC8. -/
  | taccw (d : Tile) (a : VSrc) (b : Fin 16)
  /-- `TACCS` (R211), opcode 0xC9. -/
  | taccs (d : Tile) (a : SSrc) (b : SSrc)
  /-- `TACCL` (R211), opcode 0xCA. -/
  | taccl (d : Tile) (a : SSrc)
  /-- `TMXS` (R207), opcode 0xCB. -/
  | tmxs (a : SSrc)
  /-- `TSYNC` (R214), opcode 0xCC. -/
  | tsync
  /-- `TRULE` (R230), opcode 0xCD. -/
  | trule (d : SReg) (a : SPairSrc) (b : SSrc)
  /-- `TRWQ` (R231), opcode 0xCE. -/
  | trwq (d : SReg) (a : Bool) (b : RwSel)
  /-- `STX` (R354), opcode 0xE0. -/
  | stx (d : VSrc) (a : SPairSrc) (b : Bool)
  /-- `LDX` (R354), opcode 0xE1. -/
  | ldx (d : VReg) (a : SPairSrc) (b : VSrc)
  /-- `AMX` (R354), opcode 0xE2. -/
  | amx (d : VSrc) (a : SPairSrc) (b : AmxImm)
  /-- `AMXR` (R354), opcode 0xE3. -/
  | amxr (d : VReg) (a : SPairSrc) (b : AmOp)
  /-- `WAKE` (R354), opcode 0xE4. -/
  | wake (d : WakeD) (a : SSrc) (b : SSrc)
  /-- `XARR` (R354), opcode 0xE5. -/
  | xarr (d : SReg)
  /-- `XWAIT` (R354), opcode 0xE6. -/
  | xwait (d : SReg) (a : SSrc)
  /-- `XFENCE` (R354), opcode 0xE7. -/
  | xfence (d : SReg) (a : SPairSrc)
  /-- `NSEND` (R366), opcode 0xE8. -/
  | nsend (d : SReg) (a : SPairSrc)
  /-- `NPOST` (R366), opcode 0xE9. -/
  | npost (d : SReg) (a : SPairSrc)
  /-- `QPUSH` (R100), opcode 0xEA. -/
  | qpush (d : SReg) (a : SPairSrc) (b : SSrc)
  /-- The step `PATH_END_POP` (R39). -/
  | pathEndPop (core slot : Nat)
  /-- The step `REGISTER_FILL` (R34). -/
  | registerFill (id : Nat)
  /-- The step `REGANG_TIMEOUT` (R42). -/
  | regangTimeout (id : Nat)
  /-- The step `GANG_SWAP_OUT` (R45). -/
  | gangSwapOut (core octet : Nat)
  /-- The step `GANG_RESTORE` (R45). -/
  | gangRestore (core : Nat)
  /-- The step `LATE_FAULT_REPORT` (R169). -/
  | lateFaultReport (id : Nat)
  /-- The step `TRAP_ENTRY` (R167). -/
  | trapEntry (core slot : Nat)
  /-- The step `PAGE_WALK` (R261). -/
  | pageWalk (asid : BitVec 16) (va : DWord)
  /-- The step `STORE_DIE_POINT` (R149). -/
  | storeDiePoint (id : Nat) (coreOnly : Bool)
  /-- The step `WRITE_APPLY_AT_DIE` (R270). -/
  | writeApplyAtDie (id : Nat) (die : Fin 5)
  /-- The step `REUSE_REPORT` (R268). -/
  | reuseReport (wave : Word) (range : Fin 16) (dom : Fin 4) (misses : Nat)
  /-- The step `COPY_SEGMENT` (R241). -/
  | copySegment (cluster : Fin 24)
  /-- The step `GATHER_BLOCK` (R241). -/
  | gatherBlock (cluster : Fin 24)
  /-- The step `COPY_COMPLETE` (R194). -/
  | copyComplete (id : Nat)
  /-- The step `TILE_PERFORM` (R212). -/
  | tilePerform (core : Nat)
  /-- The step `ERROR_DETECTED` (R336). -/
  | errorDetected (e : ErrorEvent)
  /-- The step `SELF_TEST_END` (R198). -/
  | selfTestEnd (unit : ErrUnit) (loc : Word) (pass : Bool)
  /-- The step `FREQUENCY_DECAY` (R278). -/
  | frequencyDecay (core : Nat)
  /-- The step `NODE_REFRESH` (R291). -/
  | nodeRefresh (node : BitVec 16)
  /-- The step `NODE_RELEASE` (R303). -/
  | nodeRelease (node : BitVec 16)
  /-- The step `PREEMPTION_STOP` (R310). -/
  | preemptionStop (node : BitVec 16)
  /-- The step `BLOCK_PLACE` (R276). -/
  | blockPlace (dom : Fin 4)
  /-- The step `STEAL_REQUEST` (R277). -/
  | stealRequest (dom : Fin 4) (wave : Word)
  /-- The step `WAVE_PREEMPTION` (R311). -/
  | wavePreemption (dom : Fin 4) (wave : Word)
  /-- The step `PRESENCE_RESTORE` (R305). -/
  | presenceRestore (core : Nat)
  /-- The step `STAGING_COPY` (R306). -/
  | stagingCopy (core : Nat)
  /-- The step `TASK_FINISH` (R299). -/
  | taskFinish (task : Nat)
  /-- The step `BUNDLE_PHASE_START` (R308). -/
  | bundlePhaseStart (node : BitVec 16)
  /-- The step `BUNDLE_PHASE_RETIRE` (R309). -/
  | bundlePhaseRetire (task : Nat)
  /-- The step `WORLD_SWITCH` (R327). -/
  | worldSwitch (dom : Fin 4)
  /-- The step `COUNTER_OVERFLOW` (R328). -/
  | counterOverflow (ctx : Fin 17) (k : Fin 8)
  /-- The step `QTAIL_DOORBELL` (R317). -/
  | qtailDoorbell (fn : Fin 17) (q : Fin 16) (tail : Word)
  /-- The step `QCFG_WRITE` (R317). -/
  | qcfgWrite (fn : Fin 17) (q : Fin 16) (val : Word)
  /-- The step `CQHEAD_WRITE` (R319). -/
  | cqheadWrite (fn : Fin 17) (q : Fin 16) (val : Word)
  /-- The step `PUSH` (R320). -/
  | push (fn : Fin 17) (q : Fin 16)
  /-- The step `LOAD` (R320). -/
  | load (fn : Fin 17) (q : Fin 16)
  /-- The step `DMA` (R320). -/
  | dma (fn : Fin 17) (q : Fin 16)
  /-- The step `FLUSH` (R320). -/
  | flush (fn : Fin 17) (q : Fin 16)
  /-- The step `NODE` (R320). -/
  | node (fn : Fin 17) (q : Fin 16)
  /-- The step `PROG` (R320). -/
  | prog (fn : Fin 17) (q : Fin 16)
  /-- The step `HOME` (R320). -/
  | home (fn : Fin 17) (q : Fin 16)
  /-- The step `PTE` (R320). -/
  | pte (fn : Fin 17) (q : Fin 16)
  /-- The step `POOL` (R320). -/
  | pool (fn : Fin 17) (q : Fin 16)
  /-- The step `RULES` (R320). -/
  | rules (fn : Fin 17) (q : Fin 16)
  /-- The step `CTX` (R325). -/
  | ctx (fn : Fin 17) (q : Fin 16)
  /-- The step `OFFLINE` (R281). -/
  | offline (fn : Fin 17) (q : Fin 16)
  /-- The step `ONLINE` (R320). -/
  | online (fn : Fin 17) (q : Fin 16)
  /-- The step `DBG_STOP` (R179). -/
  | dbgStop (fn : Fin 17) (at_ : DbgTarget)
  /-- The step `DBG_RESUME` (R179). -/
  | dbgResume (fn : Fin 17) (at_ : DbgTarget)
  /-- The step `DBG_STEP` (R179). -/
  | dbgStep (fn : Fin 17) (at_ : DbgTarget)
  /-- The step `DBG_READ` (R180). -/
  | dbgRead (fn : Fin 17) (at_ : DbgTarget) (scl : Bool) (reg : BitVec 7)
  /-- The step `DBG_WRITE` (R180). -/
  | dbgWrite (fn : Fin 17) (at_ : DbgTarget) (scl : Bool) (reg : BitVec 7) (lmask : BitVec 4) (force : Bool) (data : Word)
  /-- The step `DBG_ATTACH` (R179). -/
  | dbgAttach (fn : Fin 17) (at_ : DbgTarget)
  /-- The step `DBG_DETACH` (R179). -/
  | dbgDetach (fn : Fin 17) (at_ : DbgTarget)
  /-- The step `APERTURE_ACCESS` (R324). -/
  | apertureAccess (off : BitVec 39) (write : Option (List Byte)) (count : Nat)
  /-- The step `REGISTER_WRITE` (R5). -/
  | registerWrite (fn : Fin 17) (off : BitVec 32) (val : DWord)
  /-- The step `FXQUOTA_WRITE` (R342). -/
  | fxquotaWrite (val : Word)
  /-- The step `FXID_WRITE` (R342). -/
  | fxidWrite (val : Word)
  /-- The step `LW_DESCRIPTOR_WRITE` (R349). -/
  | lwDescriptorWrite (w : Fin 64) (val : BitVec 256)
  /-- The step `DEVICE_ARRIVAL` (R343). -/
  | deviceArrival
  /-- The step `CROSSING_APPLY` (R345). -/
  | crossingApply (b : CrossingMsg)
  /-- The step `PEER_CROSSING_COMPLETE` (R346). -/
  | peerCrossingComplete (peer : BitVec 9) (step : DWord)
  /-- The step `LANDING_ENTRY_RECEIPT` (R357). -/
  | landingEntryReceipt (e : LandEntry)
  /-- The step `LDX_REQUEST_RECEIPT` (R351). -/
  | ldxRequestReceipt (r : LdxRequest)
  /-- The step `WAKE_RECEIPT` (R354). -/
  | wakeReceipt (w : WakeMsg)
  /-- The step `FABRIC_ACK` (R343). -/
  | fabricAck (id : Nat) (peer : BitVec 9) (rejected : Bool) (reply : Option Word)
  /-- The step `PEER_UNREACHABLE` (R358). -/
  | peerUnreachable (peer : BitVec 9)
  /-- The step `INTEGRITY_RETRY` (R360). -/
  | integrityRetry (plane : Nat) (group : Nat)
  /-- The step `TIME_BEACON` (R362). -/
  | timeBeacon (ref : DWord)
  /-- The step `CHECKPOINT_GO` (R363). -/
  | checkpointGo
  /-- The step `CHECKPOINT_START` (R363). -/
  | checkpointStart (accepted : Bool)
  /-- The step `CHECKPOINT_DONE` (R363). -/
  | checkpointDone
  /-- The step `NETWORK_PACKET_RECEIPT` (R366). -/
  | networkPacketReceipt (p : NetPacket)
  /-- The step `NETWORK_REQUEST_COMPLETE` (R366). -/
  | networkRequestComplete (id : Nat) (failed : Bool)
  /-- The step `RECOVERY_GO` (R335). -/
  | recoveryGo (commit : Bool)
  /-- The step `POWER_ON` (R331). -/
  | powerOn
  /-- The step `BOOT_STEP_RESULT` (R334); the plane counts for step 11. -/
  | bootStepResult (step : Fin 13) (plane : Fin 144) (ok : Bool)
  /-- The step `DEVICE_RESET` (R5). -/
  | deviceReset
  /-- The step `FUNCTION_RESET` (R332). -/
  | functionReset (fn : Fin 17)
  /-- The step `TDISP_LOCK` (R323). -/
  | tdispLock (fn : Fin 17)
  /-- The step `TDISP_RUN` (R323). -/
  | tdispRun (fn : Fin 17)
  /-- The step `GET_VERSION` (R331). -/
  | getVersion
  /-- The step `GET_CAPABILITIES` (R331). -/
  | getCapabilities
  /-- The step `NEGOTIATE_ALGORITHMS` (R331). -/
  | negotiateAlgorithms (offer : SpdmOffer)
  /-- The step `GET_DIGESTS` (R331). -/
  | getDigests
  /-- The step `GET_CERTIFICATE` (R331). -/
  | getCertificate
  /-- The step `CHALLENGE` (R331). -/
  | challenge (nonce : BitVec 256)
  /-- The step `GET_MEASUREMENTS` (R331). -/
  | getMeasurements (index : BitVec 8)
  /-- The step `KEY_EXCHANGE` (R331). -/
  | keyExchange (share : BitVec 768)
  /-- The step `FINISH` (R331). -/
  | finish (verified : Bool)
  /-- The step `KEY_UPDATE` (R331). -/
  | keyUpdate
  /-- The step `BOOT_RECORD_CLEAR` (R334). -/
  | bootRecordClear
  /-- The step `FIRMWARE_UPDATE` (R338). -/
  | firmwareUpdate (image : List Byte)
  /-- The step `PCAP_SET` (R339). -/
  | pcapSet (watts : Nat)
  /-- The step `TEMP_THROTTLE` (R338). -/
  | tempThrottle (die : DieId)
  /-- The step `TEMP_SHUTDOWN` (R338). -/
  | tempShutdown (die : DieId)
  /-- The step `HBM_TEMP_REFRESH` (R338). -/
  | hbmTempRefresh (stack : Fin 8)
  /-- The step `DIE_TO_DIE_LINK_RETRAINING` (R275). -/
  | dieToDieLinkRetraining (a b : Fin 5)
  /-- The step `FABRIC_PACKET_SEND` (R305). -/
  | fabricPacketSend (group : Fin 9) (plane : Fin 144)
  /-- The step `NETWORK_PACKET_SEND` (R364). -/
  | networkPacketSend (port : Fin 4)
  /-- The step `MALFORMED_PACKET` (R320). -/
  | malformedPacket (fn : Fin 17) (q : Fin 16)
  /-- The step `PCAP_LIMIT_REACHED` (R339). -/
  | pcapLimitReached
  /-- The step `RECOVERY_FETCH_END` (R335). -/
  | recoveryFetchEnd (fetched passed : Bool)
  /-- The step `RETRY_REQUEST_RECEIPT` (R360). -/
  | retryRequestReceipt (group : Nat)
  /-- The step `WAITV_RECHECK` (R99). -/
  | waitvRecheck (id : Nat)
deriving DecidableEq, Repr

end Sys2Proof
end

