-- ==== Sys2Proof/WellFormed.lean ====
section
/-! DEFINITION. Which terms of `Instr` are instructions: the combinations of fields that the types of Syntax.lean do not
rule out by themselves (R32, R57, R108, R114, R131, R157, R242, R352). Every check here is an illegal-instruction trap
of the decoder. -/

set_option Elab.async false

namespace Sys2Proof

/-- The modifier fields an instruction accepts, one column of R108 each. -/
structure ModAccept where
  a : Bool
  b : Bool
  sat : Bool
  scale : Bool
  clmp : Bool
deriving DecidableEq, Repr

/-- R108, row 1 and row 3. -/
def ModAccept.full : ModAccept := ⟨true, true, true, true, true⟩
/-- R108: SAT alone. -/
def ModAccept.satOnly : ModAccept := ⟨false, false, true, false, false⟩
/-- R108: the sign fields of both sources. -/
def ModAccept.signs : ModAccept := ⟨true, true, false, false, false⟩
/-- R108: the sign fields of source A. -/
def ModAccept.signA : ModAccept := ⟨true, false, false, false, false⟩
/-- R108: FCVT and ITOF. -/
def ModAccept.cvt : ModAccept := ⟨false, false, true, true, true⟩
/-- R108: FTOI. -/
def ModAccept.scaleOnly : ModAccept := ⟨false, false, false, true, false⟩
/-- R108: all others of groups 0x3 to 0x7. -/
def ModAccept.nothing : ModAccept := ⟨false, false, false, false, false⟩

/-- A modifier word the instruction accepts: no non-zero field outside R108, and an even clamp base (R57). -/
def Modifier.ok (acc : ModAccept) (m : Modifier) : Bool :=
  (acc.a || (!m.nega && !m.absa)) && (acc.b || (!m.negb && !m.absb)) && (acc.sat || !m.sat) &&
  (acc.scale || m.scale == 0#6) && (acc.clmp || (!m.clmp && m.cls == 0#6)) && (!m.clmp || !m.cls.getLsbD 0)

/-- The check of an optional modifier word. -/
def modOk (acc : ModAccept) (m : Option Modifier) : Bool :=
  match m with
  | none => true
  | some m => m.ok acc

/-- A MODE value SETM and SETMI may write (R84). -/
def modeLegal (v : Word) : Bool :=
  v.extractLsb' 25 7 == 0#7 && (v.extractLsb' 5 4).toNat < 14 && (v.extractLsb' 9 3).toNat < 5

/-- The combinations R157 admits. -/
def AtomLit.ok (op : AtomOp) (l : AtomLit) : Bool :=
  (l.ord == .relaxed || l.use == .unpaired) &&
  (match l.use with
   | .commutative => op != .cas && op != .xchg
   | .speculative => op != .add && op != .xor && op != .cas && op != .xchg
   | _ => true) &&
  (l.ty == .s32 || op == .add || op == .min || op == .max)

/-- PLOG holds 0 in a predicate field its operation does not read (R114). -/
def plogOk (d : PLogD) (a b : PReg) : Bool :=
  match d.op with
  | .and | .or | .xor | .andn => true
  | .not | .mov => b == 0
  | .set | .clr => a == 0 && b == 0

/-- The part index of CBD (R131). -/
def CbdB.ok (b : CbdB) : Bool := b.fmt == .bf16 || b.k.val < 2

/-- The mask of QFENCE is not 0 (R242). -/
def QMask.ok (q : QMask) : Bool := q.mask != 0#8

/-- AMX does not admit XCHG (R352). -/
def AmxImm.ok (i : AmxImm) : Bool := i.op != .xchg

/-- A well-formed instruction. A step without an instruction word has no encoding to break. -/
def Instr.wf (i : Instr) : Bool :=
  match i with
  | .nop => true
  | .bra _ => true
  | .brp _ _ => true
  | .bri _ => true
  | .call _ _ => true
  | .calli _ _ => true
  | .ret _ => true
  | .exit => true
  | .yield => true
  | .trap _ => true
  | .rgn => true
  | .regang _ => true
  | .fetst _ _ => true
  | .femrk _ _ => true
  | .retr => true
  | .rett => true
  | .add _ _ _ => true
  | .sub _ _ _ => true
  | .mul _ _ _ => true
  | .mulhs _ _ _ => true
  | .mulhu _ _ _ => true
  | .divs _ _ _ => true
  | .divu _ _ _ => true
  | .andS _ _ _ => true
  | .orS _ _ _ => true
  | .xorS _ _ _ => true
  | .shl _ _ _ => true
  | .shr _ _ _ => true
  | .sar _ _ _ => true
  | .mins _ _ _ => true
  | .maxs _ _ _ => true
  | .slt _ _ _ => true
  | .li _ _ => true
  | .addi _ _ _ => true
  | .andi _ _ _ => true
  | .ori _ _ _ => true
  | .ptew _ _ _ => true
  | .addp _ _ _ => true
  | .addpi _ _ _ => true
  | .csrr _ _ => true
  | .csrw _ _ => true
  | .setm _ => true
  | .setmi lit => modeLegal lit
  | .getm _ => true
  | .rdts _ => true
  | .join _ => true
  | .leave _ => true
  | .fpool _ _ _ => true
  | .vadd _ _ _ m => modOk .full m
  | .vsub _ _ _ m => modOk .full m
  | .vmul _ _ _ m => modOk .full m
  | .vmulh _ _ _ m => modOk .nothing m
  | .vmad _ _ _ m => modOk .full m
  | .vmin _ _ _ m => modOk .nothing m
  | .vmax _ _ _ m => modOk .nothing m
  | .vminu _ _ _ m => modOk .nothing m
  | .vmaxu _ _ _ m => modOk .nothing m
  | .vabsd _ _ _ m => modOk .satOnly m
  | .vand _ _ _ m => modOk .nothing m
  | .vor _ _ _ m => modOk .nothing m
  | .vxor _ _ _ m => modOk .nothing m
  | .vandn _ _ _ m => modOk .nothing m
  | .vshl _ _ _ m => modOk .nothing m
  | .vshr _ _ _ m => modOk .nothing m
  | .vsar _ _ _ m => modOk .nothing m
  | .vrot _ _ _ m => modOk .nothing m
  | .vcmp _ _ _ m => modOk .nothing m
  | .vsel _ _ _ m => modOk .nothing m
  | .vli _ _ m => modOk .nothing m
  | .vbcs _ _ m => modOk .nothing m
  | .vclz _ _ m => modOk .nothing m
  | .vbitc _ _ m => modOk .nothing m
  | .plog d a b m => modOk .nothing m && plogOk d a b
  | .vdot4 _ _ _ m => modOk .satOnly m
  | .fadd _ _ _ m => modOk .full m
  | .fsub _ _ _ m => modOk .full m
  | .fmul _ _ _ m => modOk .full m
  | .ffma _ _ _ m => modOk .full m
  | .ffms _ _ _ m => modOk .full m
  | .fmin _ _ _ m => modOk .signs m
  | .fmax _ _ _ m => modOk .signs m
  | .fcmp _ _ _ m => modOk .signs m
  | .frcp _ _ m => modOk .signA m
  | .frsq _ _ m => modOk .signA m
  | .fexp2 _ _ m => modOk .signA m
  | .flog2 _ _ m => modOk .signA m
  | .fsin _ _ m => modOk .signA m
  | .fcos _ _ m => modOk .signA m
  | .ftanh _ _ m => modOk .signA m
  | .fclass _ _ m => modOk .nothing m
  | .cmul _ _ _ m => modOk .satOnly m
  | .cfma _ _ _ m => modOk .satOnly m
  | .cconj _ _ m => modOk .nothing m
  | .cbfly _ _ _ m => modOk .satOnly m
  | .ctwid _ _ _ m => modOk .nothing m
  | .fcvt _ _ _ m => modOk .cvt m
  | .ftoi _ _ _ m => modOk .scaleOnly m
  | .itof _ _ _ m => modOk .cvt m
  | .pack _ _ _ m => modOk .nothing m
  | .unpk _ _ _ m => modOk .nothing m
  | .mxq _ _ m => modOk .nothing m
  | .mxdq _ _ m => modOk .nothing m
  | .cbd _ _ b m => modOk .nothing m && b.ok
  | .vballot _ _ _ => true
  | .vpopc _ _ _ => true
  | .vshuf _ _ _ => true
  | .vscan _ _ _ => true
  | .vred _ _ _ => true
  | .vbcast _ _ _ => true
  | .vmovs _ _ _ => true
  | .ldB _ _ _ => true
  | .ldH _ _ _ => true
  | .ldW _ _ _ => true
  | .ldAcq _ _ _ => true
  | .stB _ _ _ => true
  | .stH _ _ _ => true
  | .stW _ _ _ => true
  | .stRel _ _ _ => true
  | .lds _ _ _ => true
  | .sts _ _ _ => true
  | .ldp _ _ _ => true
  | .stp _ _ _ => true
  | .ldsAcq _ _ _ => true
  | .stsRel _ _ _ => true
  | .pref _ _ => true
  | .atomAdd _ _ _ l => l.ok .add
  | .atomMin _ _ _ l => l.ok .min
  | .atomMax _ _ _ l => l.ok .max
  | .atomAnd _ _ _ l => l.ok .and
  | .atomOr _ _ _ l => l.ok .or
  | .atomXor _ _ _ l => l.ok .xor
  | .atomCas _ _ _ l => l.ok .cas
  | .atomXchg _ _ _ l => l.ok .xchg
  | .amaxx _ _ _ => true
  | .fence _ => true
  | .fenceAcq _ => true
  | .fenceRel _ => true
  | .bari _ _ _ => true
  | .barr _ _ _ => true
  | .barw _ _ => true
  | .bart _ _ _ => true
  | .waitv _ _ _ => true
  | .waitw _ _ => true
  | .cpy _ _ _ => true
  | .cpys _ _ _ => true
  | .cbdc _ _ _ => true
  | .cpyam _ _ _ => true
  | .gath _ _ _ => true
  | .scat _ _ _ => true
  | .qfence b => b.ok
  | .shld _ _ _ => true
  | .tldb _ _ => true
  | .tmma _ _ _ => true
  | .tmmat _ _ _ => true
  | .ttrn _ _ => true
  | .tscl _ _ _ => true
  | .tzero _ _ => true
  | .tadd _ _ _ => true
  | .taccr _ _ _ => true
  | .taccw _ _ _ => true
  | .taccs _ _ _ => true
  | .taccl _ _ => true
  | .tmxs _ => true
  | .tsync => true
  | .trule _ _ _ => true
  | .trwq _ _ _ => true
  | .stx _ _ _ => true
  | .ldx _ _ _ => true
  | .amx _ _ b => b.ok
  | .amxr _ _ _ => true
  | .wake _ _ _ => true
  | .xarr _ => true
  | .xwait _ _ => true
  | .xfence _ _ => true
  | .nsend _ _ => true
  | .npost _ _ => true
  | .qpush _ _ _ => true
  | .pathEndPop _ _ => true
  | .registerFill _ => true
  | .regangTimeout _ => true
  | .gangSwapOut _ _ => true
  | .gangRestore _ => true
  | .lateFaultReport _ => true
  | .trapEntry _ _ => true
  | .pageWalk _ _ => true
  | .storeDiePoint _ _ => true
  | .writeApplyAtDie _ _ => true
  | .reuseReport _ _ _ _ => true
  | .copySegment _ => true
  | .gatherBlock _ => true
  | .copyComplete _ => true
  | .tilePerform _ => true
  | .errorDetected _ => true
  | .selfTestEnd _ _ _ => true
  | .frequencyDecay _ => true
  | .nodeRefresh _ => true
  | .nodeRelease _ => true
  | .preemptionStop _ => true
  | .blockPlace _ => true
  | .stealRequest _ _ => true
  | .wavePreemption _ _ => true
  | .presenceRestore _ => true
  | .stagingCopy _ => true
  | .taskFinish _ => true
  | .bundlePhaseStart _ => true
  | .bundlePhaseRetire _ => true
  | .worldSwitch _ => true
  | .counterOverflow _ _ => true
  | .qtailDoorbell _ _ _ => true
  | .qcfgWrite _ _ _ => true
  | .cqheadWrite _ _ _ => true
  | .push _ _ => true
  | .load _ _ => true
  | .dma _ _ => true
  | .flush _ _ => true
  | .node _ _ => true
  | .prog _ _ => true
  | .home _ _ => true
  | .pte _ _ => true
  | .pool _ _ => true
  | .rules _ _ => true
  | .ctx _ _ => true
  | .offline _ _ => true
  | .online _ _ => true
  | .dbgStop _ _ => true
  | .dbgResume _ _ => true
  | .dbgStep _ _ => true
  | .dbgRead _ _ _ _ => true
  | .dbgWrite _ _ _ _ _ _ _ => true
  | .dbgAttach _ _ => true
  | .dbgDetach _ _ => true
  | .apertureAccess _ _ _ => true
  | .registerWrite _ _ _ => true
  | .fxquotaWrite _ => true
  | .fxidWrite _ => true
  | .lwDescriptorWrite _ _ => true
  | .deviceArrival => true
  | .crossingApply _ => true
  | .peerCrossingComplete _ _ => true
  | .landingEntryReceipt _ => true
  | .ldxRequestReceipt _ => true
  | .wakeReceipt _ => true
  | .fabricAck _ _ _ _ => true
  | .peerUnreachable _ => true
  | .integrityRetry _ _ => true
  | .timeBeacon _ => true
  | .checkpointGo => true
  | .checkpointStart _ => true
  | .checkpointDone => true
  | .networkPacketReceipt _ => true
  | .networkRequestComplete _ _ => true
  | .recoveryGo _ => true
  | .powerOn => true
  | .bootStepResult _ _ _ => true
  | .deviceReset => true
  | .functionReset _ => true
  | .tdispLock _ => true
  | .tdispRun _ => true
  | .getVersion => true
  | .getCapabilities => true
  | .negotiateAlgorithms _ => true
  | .getDigests => true
  | .getCertificate => true
  | .challenge _ => true
  | .getMeasurements _ => true
  | .keyExchange _ => true
  | .finish _ => true
  | .keyUpdate => true
  | .bootRecordClear => true
  | .firmwareUpdate _ => true
  | .pcapSet _ => true
  | .tempThrottle _ => true
  | .tempShutdown _ => true
  | .hbmTempRefresh _ => true
  | .dieToDieLinkRetraining _ _ => true
  | .fabricPacketSend _ _ => true
  | .networkPacketSend _ => true
  | .malformedPacket _ _ => true
  | .pcapLimitReached => true
  | .recoveryFetchEnd _ _ => true
  | .retryRequestReceipt _ => true
  | .waitvRecheck _ => true

end Sys2Proof
end

