-- ==== Sys2Proof/Decode.lean ====
section
/-! DEFINITION. The decoder (R56–R64 and the encoding tables of each chapter): total on any words, an illegal encoding is
rejected by the case code of R64; the encoder; and the line header (R50–R53). -/

set_option Elab.async false

namespace Sys2Proof

/-- An instruction word with the words that follow it under code 0b10 in its line (R52, R53, R56). -/
structure Raw where
  op : BitVec 8
  d : BitVec 8
  a : BitVec 8
  b : BitVec 8
  exts : List Word
deriving DecidableEq, Repr

/-- The fields of an instruction word (R61). -/
def Raw.ofWord (w : Word) (exts : List Word) : Raw :=
  ⟨w.extractLsb' 24 8, w.extractLsb' 16 8, w.extractLsb' 8 8, w.extractLsb' 0 8, exts⟩

/-- The instruction word of four bytes. -/
def Raw.word (op d a b : BitVec 8) : Word := op ++ d ++ a ++ b

/-- A decoded value, or the lowest case code of R64 that applies (R376 item 4). -/
abbrev Dec (α : Type) := Except Nat α

/-- The decoder of no field. -/
def Dec.fn {α : Type} (f : α) : Dec α := .ok f

/-- One more field: of two errors the lower case code stands (R376). -/
def Dec.ap {α β : Type} (f : Dec (α → β)) (x : Dec α) : Dec β :=
  match f, x with
  | .ok g, .ok v => .ok (g v)
  | .ok _, .error c => .error c
  | .error c, .ok _ => .error c
  | .error c, .error c' => .error (min c c')

/-- One more check that yields nothing. -/
def Dec.chk {α : Type} (x : Dec α) (c : Dec Unit) : Dec α :=
  match x, c with
  | .ok v, .ok _ => .ok v
  | .ok _, .error c => .error c
  | .error c, .ok _ => .error c
  | .error c, .error c' => .error (min c c')

/-- An unused field holds 0 (R60). -/
def Dec.zero (x : BitVec 8) : Dec Unit := if x = 0#8 then .ok () else .error 3

/-- [6:0] of a register field. -/
def fieldNum (x : BitVec 8) : Nat := (x.setWidth 7).toNat

/-- A vector source field (R59). -/
def Dec.vsrc (x : BitVec 8) : Dec VSrc :=
  let n := fieldNum x
  if h : n < 96 then .ok ⟨.v ⟨n, h⟩, x.msb⟩
  else if h : n - 96 < 16 then .ok ⟨.o ⟨n - 96, h⟩, x.msb⟩
  else if h : n - 112 < 4 then .ok ⟨.w ⟨n - 112, h⟩, x.msb⟩
  else if n = 116 then .ok ⟨.z, x.msb⟩
  else if n = 117 then .ok ⟨.laneId, x.msb⟩
  else if n = 118 then .ok ⟨.sliceIdx, x.msb⟩
  else .error 2

/-- A vector register a destination field names (R31, R59). -/
def Dec.vreg (x : BitVec 8) : Dec VReg :=
  let n := fieldNum x
  if h : n < 96 then .ok (.v ⟨n, h⟩)
  else if h : n - 96 < 16 then .ok (.o ⟨n - 96, h⟩)
  else if n < 119 then .error 5
  else .error 2

/-- A vector destination field (R31, R59). -/
def Dec.vdst (x : BitVec 8) : Dec VDst := (Dec.fn fun r => VDst.mk r x.msb).ap (Dec.vreg x)

/-- Bit [7] of a destination that may not shift (R31). -/
def Dec.noShift (x : BitVec 8) : Dec Unit := if x.msb then .error 5 else .ok ()

/-- The vector destination of a long-latency producer (R31). -/
def Dec.vfill (x : BitVec 8) : Dec VReg := (Dec.vreg x).chk (Dec.noShift x)

/-- A vector pair source (R107). -/
def Dec.vpair (x : BitVec 8) : Dec VPairSrc :=
  let n := fieldNum x
  if n % 2 = 1 then .error 2
  else if h : n / 2 < 48 then .ok ⟨.v ⟨n / 2, h⟩, x.msb⟩
  else if h : n / 2 - 48 < 8 then .ok ⟨.o ⟨n / 2 - 48, h⟩, x.msb⟩
  else if h : n / 2 - 56 < 2 then .ok ⟨.w ⟨n / 2 - 56, h⟩, x.msb⟩
  else .error 2

/-- A vector pair a destination field names (R31, R107). -/
def Dec.vpairReg (x : BitVec 8) : Dec VPairReg :=
  let n := fieldNum x
  if n % 2 = 1 then .error 2
  else if h : n / 2 < 48 then .ok (.v ⟨n / 2, h⟩)
  else if h : n / 2 - 48 < 8 then .ok (.o ⟨n / 2 - 48, h⟩)
  else if n < 116 then .error 5
  else .error 2

/-- A vector pair destination (R107, R122). -/
def Dec.vpairDst (x : BitVec 8) : Dec VPairDst := (Dec.fn fun r => VPairDst.mk r x.msb).ap (Dec.vpairReg x)

/-- The pair destination of LDP (R31, R107). -/
def Dec.vpairFill (x : BitVec 8) : Dec VPairReg := (Dec.vpairReg x).chk (Dec.noShift x)

/-- A scalar source field (R60). -/
def Dec.ssrc (x : BitVec 8) : Dec SSrc :=
  let n := fieldNum x
  if h : n < 64 then .ok ⟨.s ⟨n, h⟩, x.msb⟩
  else if n = 116 then .ok ⟨.z, x.msb⟩
  else if n = 118 then .ok ⟨.sliceIdx, x.msb⟩
  else .error 2

/-- A scalar register a destination field names (R31, R60). -/
def Dec.sreg (x : BitVec 8) : Dec SReg :=
  let n := fieldNum x
  if h : n < 64 then .ok ⟨n, h⟩
  else if n = 116 ∨ n = 118 then .error 5
  else .error 2

/-- A scalar destination field (R31, R60). -/
def Dec.sdst (x : BitVec 8) : Dec SReg := (Dec.sreg x).chk (Dec.noShift x)

/-- A scalar-pair source field (R77). -/
def Dec.spair (x : BitVec 8) : Dec SPairSrc :=
  let n := fieldNum x
  if n = 116 then .ok ⟨none, x.msb⟩
  else if n % 2 = 1 then .error 2
  else if h : n / 2 < 32 then .ok ⟨some ⟨n / 2, h⟩, x.msb⟩
  else .error 2

/-- A scalar-pair destination field (R77). -/
def Dec.spairDst (x : BitVec 8) : Dec SPairReg :=
  let n := fieldNum x
  (if n % 2 = 1 then .error 2
   else if h : n / 2 < 32 then .ok ⟨n / 2, h⟩
   else .error 2 : Dec SPairReg).chk (Dec.noShift x)

/-- An immediate or predicate in the range 0 to n − 1 (R60). -/
def Dec.imm (n : Nat) (x : BitVec 8) : Dec (Fin n) :=
  if h : x.toNat < n then .ok ⟨x.toNat, h⟩ else .error 3

/-- An immediate 0–1. -/
def Dec.bit (x : BitVec 8) : Dec Bool :=
  if x = 0#8 then .ok false else if x = 1#8 then .ok true else .error 3

/-- An accumulator tile (R60). -/
def Dec.tile (x : BitVec 8) : Dec Tile := .ok x.toFin

/-- An even accumulator tile (R202). -/
def Dec.tilePair (x : BitVec 8) : Dec TilePair :=
  if x.getLsbD 0 then .error 3 else .ok (x.extractLsb' 1 7).toFin

/-- A CSR number (R78, R82). -/
def Dec.csr (x : BitVec 8) : Dec Csr :=
  match x.toNat with
  | 0x00 => .ok .fstat | 0x01 => .ok .crews | 0x02 => .ok .gtmo | 0x03 => .ok .swpt
  | 0x04 => .ok .rgnpcl | 0x05 => .ok .rgnpch | 0x06 => .ok .rgncnt
  | 0x08 => .ok .slotid | 0x09 => .ok .waveid | 0x0A => .ok .nslice | 0x18 => .ok .quant
  | 0x30 => .ok .tcause | 0x31 => .ok .tdet0 | 0x32 => .ok .tdet1 | 0x33 => .ok .tdet2
  | 0x34 => .ok .tpcl | 0x35 => .ok .tpch
  | _ => .error 3

/-- The predicate [2:0] of a D field. -/
def predField (x : BitVec 8) : PReg := (x.extractLsb' 0 3).toFin

/-- [7:3] of a D field that names a predicate and a code. -/
def codeField (x : BitVec 8) : Nat := (x.extractLsb' 3 5).toNat

/-- The D field of VCMP (R112). -/
def Dec.icmp (x : BitVec 8) : Dec ICmp :=
  match codeField x with
  | 0 => .ok ⟨.eq, predField x⟩ | 1 => .ok ⟨.ne, predField x⟩
  | 2 => .ok ⟨.lt, predField x⟩ | 3 => .ok ⟨.le, predField x⟩
  | 4 => .ok ⟨.gt, predField x⟩ | 5 => .ok ⟨.ge, predField x⟩
  | 6 => .ok ⟨.ltu, predField x⟩ | 7 => .ok ⟨.leu, predField x⟩
  | 8 => .ok ⟨.gtu, predField x⟩ | 9 => .ok ⟨.geu, predField x⟩
  | _ => .error 3

/-- The D field of FCMP (R117). -/
def Dec.fcmp (x : BitVec 8) : Dec FCmp :=
  match codeField x with
  | 0 => .ok ⟨.eq, predField x⟩ | 1 => .ok ⟨.ne, predField x⟩
  | 2 => .ok ⟨.lt, predField x⟩ | 3 => .ok ⟨.le, predField x⟩
  | 4 => .ok ⟨.gt, predField x⟩ | 5 => .ok ⟨.ge, predField x⟩
  | 6 => .ok ⟨.un, predField x⟩ | 7 => .ok ⟨.ord, predField x⟩
  | _ => .error 3

/-- The D field of PLOG (R114). -/
def Dec.plogD (x : BitVec 8) : Dec PLogD :=
  match codeField x with
  | 0 => .ok ⟨.and, predField x⟩ | 1 => .ok ⟨.or, predField x⟩
  | 2 => .ok ⟨.xor, predField x⟩ | 3 => .ok ⟨.andn, predField x⟩
  | 4 => .ok ⟨.not, predField x⟩ | 5 => .ok ⟨.mov, predField x⟩
  | 6 => .ok ⟨.set, predField x⟩ | 7 => .ok ⟨.clr, predField x⟩
  | _ => .error 3

/-- The part index [6:4] of a conversion, where [7] is 0 (R125). -/
def partField (x : BitVec 8) : Fin 8 := (x.extractLsb' 4 3).toFin

/-- The B field of FCVT and FTOI (R125); code 0b0111 reads as plain E2M1. -/
def Dec.cvtF (x : BitVec 8) : Dec CvtF :=
  if x.msb then .error 3
  else match (x.extractLsb' 0 4).toNat with
  | 0b0000 => .ok ⟨partField x, .fp32⟩
  | 0b0001 => .ok ⟨partField x, .bf16⟩
  | 0b0010 => .ok ⟨partField x, .fp16⟩
  | 0b0011 => .ok ⟨partField x, .e4m3⟩
  | 0b0100 => .ok ⟨partField x, .e5m2⟩
  | 0b0111 => .ok ⟨partField x, .e2m1⟩
  | _ => .error 3

/-- The B field of ITOF (R125). -/
def Dec.cvtI (x : BitVec 8) : Dec CvtI :=
  if x.msb then .error 3
  else match (x.extractLsb' 0 4).toNat with
  | 0b1000 => .ok ⟨partField x, .i8⟩
  | 0b1001 => .ok ⟨partField x, .i16⟩
  | 0b1010 => .ok ⟨partField x, .i32⟩
  | _ => .error 3

/-- The B field of UNPK (R128). -/
def Dec.unpkB (x : BitVec 8) : Dec UnpkB :=
  if x.toNat < 4 then .ok ⟨x.getLsbD 1, x.getLsbD 0⟩ else .error 3

/-- The B field of CBD (R131); a part index out of range is case 0x03 too. -/
def Dec.cbdB (x : BitVec 8) : Dec CbdB :=
  match x.toNat with
  | 0 => .ok ⟨.e4m3, 0⟩ | 1 => .ok ⟨.e4m3, 1⟩
  | 4 => .ok ⟨.e5m2, 0⟩ | 5 => .ok ⟨.e5m2, 1⟩
  | 8 => .ok ⟨.bf16, 0⟩ | 9 => .ok ⟨.bf16, 1⟩ | 10 => .ok ⟨.bf16, 2⟩ | 11 => .ok ⟨.bf16, 3⟩
  | _ => .error 3

/-- OP of VRED and VSCAN (R135). -/
def redOpOf (x : BitVec 3) : RedOp :=
  match x.toNat with
  | 0 => .add | 1 => .min | 2 => .max | 3 => .and | 4 => .or | 5 => .xor | 6 => .minu | _ => .maxu

/-- The B field of VSCAN (R135). -/
def Dec.scanB (x : BitVec 8) : Dec ScanB :=
  if x.toNat < 32 then .ok ⟨x.getLsbD 4, x.getLsbD 3, redOpOf (x.extractLsb' 0 3)⟩ else .error 3

/-- The B field of VRED (R135). -/
def Dec.redB (x : BitVec 8) : Dec RedB :=
  if x.toNat < 32 ∧ x.getLsbD 3 = false then .ok ⟨x.getLsbD 4, redOpOf (x.extractLsb' 0 3)⟩ else .error 3

/-- SCOPE (R143). -/
def Dec.scope (n : Nat) : Dec Scope :=
  match n with
  | 0 => .ok .slice | 1 => .ok .crew | 2 => .ok .core | 3 => .ok .die | 4 => .ok .package | 5 => .ok .pod
  | _ => .error 3

/-- HINT (R143). -/
def Dec.hint (x : BitVec 3) : Dec Hint :=
  if x.msb then .ok (some (x.extractLsb' 0 2).toFin)
  else if x = 0#3 then .ok none else .error 3

/-- The memory immediate (R143). -/
def Dec.memImm (x : BitVec 8) : Dec MemImm :=
  if x.getLsbD 7 || x.getLsbD 3 then .error 3
  else ((Dec.fn MemImm.mk).ap (Dec.hint (x.extractLsb' 4 3))).ap (Dec.scope (x.extractLsb' 0 3).toNat)

/-- The memory immediate of LDS and STS, whose SCOPE is 0 (R143). -/
def Dec.hintOnly (x : BitVec 8) : Dec Hint :=
  if x.getLsbD 7 || x.extractLsb' 0 4 != 0#4 then .error 3 else Dec.hint (x.extractLsb' 4 3)

/-- The B field of PREF (R146). -/
def Dec.prefImm (x : BitVec 8) : Dec PrefImm :=
  if x.getLsbD 7 || x.getLsbD 3 then .error 3
  else ((Dec.fn PrefImm.mk).ap (Dec.hint (x.extractLsb' 4 3))).ap
    (match (x.extractLsb' 0 3).toNat with
     | 0 => .ok .l1 | 1 => .ok .l2 | 2 => .ok .l3 | _ => .error 3)

/-- The D field of BARI (R187). -/
def Dec.crewField (x : BitVec 8) : Dec (Option (Fin 32)) :=
  if x.toNat = 0 then .ok none
  else if x.extractLsb' 5 3 = 1#3 then .ok (some (x.extractLsb' 0 5).toFin) else .error 3

/-- The command immediate of the commands that name no shell table (R236). -/
def Dec.cmdImm (x : BitVec 8) : Dec CmdImm :=
  if x.toNat < 16 then .ok ⟨x.getLsbD 3, (x.extractLsb' 0 3).toFin⟩ else .error 3

/-- The command immediate of SHLD (R236). -/
def Dec.shldImm (x : BitVec 8) : Dec ShldImm :=
  if x.msb then .error 3
  else .ok ⟨(x.extractLsb' 4 3).toFin, x.getLsbD 3, (x.extractLsb' 0 3).toFin⟩

/-- The queue mask of QFENCE (R242). -/
def Dec.qmask (x : BitVec 8) : Dec QMask := if x = 0#8 then .error 3 else .ok ⟨x⟩

/-- The selector of TRWQ (R231). -/
def Dec.rwSel (x : BitVec 8) : Dec RwSel :=
  if x.extractLsb' 6 2 = 1#2 then .ok (.rule (x.extractLsb' 0 6).toFin)
  else match x.toNat with
  | 0 => .ok .match_ | 1 => .ok .removed | 2 => .ok .declperm | 3 => .ok .declchk | 4 => .ok .aband | 5 => .ok .flush
  | _ => .error 3

/-- OP of AMX and AMXR (R352). -/
def Dec.amOp (n : Nat) : Dec AmOp :=
  match n with
  | 0 => .ok .addS32 | 1 => .ok .addF32 | 2 => .ok .minS32 | 3 => .ok .maxS32 | 4 => .ok .minU32
  | 5 => .ok .maxU32 | 6 => .ok .and | 7 => .ok .or | 8 => .ok .xor | 9 => .ok .xchg
  | _ => .error 3

/-- The B field of AMXR (R352). -/
def Dec.amxrImm (x : BitVec 8) : Dec AmOp := Dec.amOp x.toNat

/-- The B field of AMX, which does not admit XCHG (R352). -/
def Dec.amxImm (x : BitVec 8) : Dec AmxImm :=
  if x.toNat < 32 then
    match Dec.amOp (x.extractLsb' 0 4).toNat with
    | .ok .xchg => .error 3
    | .ok o => .ok ⟨o, x.getLsbD 4⟩
    | .error c => .error c
  else .error 3

/-- The D field of WAKE (R352). -/
def Dec.wakeD (x : BitVec 8) : Dec WakeD :=
  if x.msb then .error 3 else .ok ⟨(x.extractLsb' 0 6).toFin, x.getLsbD 6⟩

/-! ### Extension words (R56, R57) -/

/-- An instruction without extension words. -/
def Dec.noExt (exts : List Word) : Dec Unit :=
  match exts with
  | [] => .ok ()
  | _ :: _ => .error 4

/-- The literal of an instruction that takes no modifier. -/
def Dec.lit (exts : List Word) : Dec Word :=
  match exts with
  | [w] => .ok w
  | _ => .error 4

/-- A modifier word under the column of R108 the instruction has (R57). -/
def Dec.modifier (acc : ModAccept) (w : Word) : Dec Modifier :=
  let m : Modifier := ⟨w.getLsbD 27, w.extractLsb' 21 6, w.getLsbD 20, w.extractLsb' 8 6,
    w.getLsbD 3, w.getLsbD 2, w.getLsbD 1, w.getLsbD 0⟩
  if w.extractLsb' 28 4 = 0#4 ∧ w.extractLsb' 14 6 = 0#6 ∧ w.extractLsb' 4 4 = 0#4 ∧ m.ok acc = true
  then .ok m else .error 3

/-- The optional modifier word. -/
def Dec.mod (acc : ModAccept) (exts : List Word) : Dec (Option Modifier) :=
  match exts with
  | [] => .ok none
  | [w] => (Dec.fn some).ap (Dec.modifier acc w)
  | w :: _ :: _ => ((Dec.fn some).ap (Dec.modifier acc w)).chk (.error 4)

/-- The literal of VLI, which a modifier word may follow. -/
def Dec.litFirst (exts : List Word) : Dec Word :=
  match exts with
  | w :: _ => .ok w
  | [] => .error 4

/-- The offsets of BRA and BRP (R86). -/
def Dec.offsets (exts : List Word) : Dec BrOffsets :=
  (Dec.fn fun w : Word => BrOffsets.mk (w.extractLsb' 16 16) (w.extractLsb' 0 16)).ap (Dec.lit exts)

/-- The literal of SETMI is checked with the fields: its bits are in the code (R84, R376 item 4). -/
def Dec.modeLit (exts : List Word) : Dec Word :=
  match Dec.lit exts with
  | .ok w => if modeLegal w then .ok w else .error 3
  | .error c => .error c

/-! ### Instructions with an encoding of their own -/

/-- BRP (R78, R87): the classes of D and B follow the mode in A. -/
def Dec.brp (r : Raw) : Dec Instr :=
  match r.a.toNat with
  | 0 => (((Dec.fn fun p o => Instr.brp (.pred p) o).ap (Dec.imm 8 r.d)).ap (Dec.offsets r.exts)).chk (Dec.zero r.b)
  | 1 => (((Dec.fn fun p o => Instr.brp (.predNot p) o).ap (Dec.imm 8 r.d)).ap (Dec.offsets r.exts)).chk (Dec.zero r.b)
  | 2 => (((Dec.fn fun s o => Instr.brp (.nz s) o).ap (Dec.ssrc r.b)).ap (Dec.offsets r.exts)).chk (Dec.zero r.d)
  | 3 => (((Dec.fn fun s o => Instr.brp (.zero s) o).ap (Dec.ssrc r.b)).ap (Dec.offsets r.exts)).chk (Dec.zero r.d)
  | _ => .error 3

/-- TRAP (R78, R91). -/
def Dec.trap (r : Raw) : Dec Instr :=
  (Dec.fn (Instr.trap (r.a ++ r.b))).chk (Dec.zero r.d) |>.chk (Dec.noExt r.exts)

/-- The register of FETST, a source of the class B gives (R95). -/
def Dec.feSrc (scl : Bool) (x : BitVec 8) : Dec FeSrc :=
  if scl then (Dec.fn FeSrc.scl).ap (Dec.ssrc x) else (Dec.fn FeSrc.vec).ap (Dec.vsrc x)

/-- FETST (R78, R95). -/
def Dec.fetst (r : Raw) : Dec Instr :=
  (((Dec.fn fun p x (_ : Bool) => Instr.fetst p x).ap (Dec.imm 8 r.d)).ap (Dec.feSrc (r.b.getLsbD 0) r.a)).ap (Dec.bit r.b)
    |>.chk (Dec.noExt r.exts)

/-- FEMRK (R78, R96): a destination class field, whose class is B[1]. -/
def Dec.femrk (r : Raw) : Dec Instr :=
  (((Dec.fn fun x (_ : Fin 4) => Instr.femrk x (r.b.getLsbD 0)).ap
    ((if r.b.getLsbD 1 then (Dec.fn FullReg.scl).ap (Dec.sreg r.d) else (Dec.fn FullReg.vec).ap (Dec.vreg r.d)).chk
      (Dec.noShift r.d))).ap (Dec.imm 4 r.b)).chk (Dec.zero r.a) |>.chk (Dec.noExt r.exts)

/-- FENCE (R152). -/
def Dec.fence (r : Raw) : Dec Instr :=
  ((((Dec.fn fun s (k : Fin 3) => match k with | 0 => Instr.fence s | 1 => Instr.fenceAcq s | 2 => Instr.fenceRel s).ap
    (Dec.scope r.a.toNat)).ap (Dec.imm 3 r.b)).chk (Dec.zero r.d)).chk (Dec.noExt r.exts)

/-- The literal of an atomic with its RET bit (R156), under the combinations of R157. -/
def Dec.atomWord (op : AtomOp) (w : Word) : Dec AtomLit :=
  let lit : Dec AtomLit :=
    ((((((Dec.fn AtomLit.mk).ap (Dec.vsrc (w.extractLsb' 24 8))).ap (Dec.scope (w.extractLsb' 16 3).toNat)).ap
      (Dec.hint (w.extractLsb' 13 3))).ap
      (.ok (match (w.extractLsb' 11 2).toNat with | 0 => .relaxed | 1 => .acq | 2 => .rel | _ => .acqRel))).ap
      (match (w.extractLsb' 8 3).toNat with
       | 0 => .ok .unpaired | 1 => .ok .commutative | 2 => .ok .nonOrdering | 3 => .ok .quantum | 4 => .ok .speculative
       | _ => .error 3)).ap
      (match (w.extractLsb' 6 2).toNat with
       | 0 => .ok .s32 | 1 => .ok .u32 | 2 => .ok .f32 | _ => .error 3)
  match lit with
  | .ok l => if l.ok op = true ∧ w.extractLsb' 19 5 = 0#5 ∧ w.extractLsb' 0 5 = 0#5 then .ok l else .error 3
  | .error c => .error c

/-- The destination of an atomic: a producer's when RET = 1, 0 when RET = 0 (R155, R157). -/
def Dec.atomDst (ret : Bool) (x : BitVec 8) : Dec (Option VReg) :=
  if ret then (Dec.fn some).ap (Dec.vfill x) else if x = 0#8 then .ok none else .error 3

/-- The literal of an atomic, or the case of a missing or second one (R56). -/
def Dec.atomLit (op : AtomOp) (exts : List Word) : Dec AtomLit :=
  match exts with
  | [w] => Dec.atomWord op w
  | [] => .error 4
  | w :: _ :: _ => (Dec.atomWord op w).chk (.error 4)

/-- RET of the literal (R156). -/
def atomRet (exts : List Word) : Bool :=
  match exts with
  | w :: _ => w.getLsbD 5
  | [] => false

/-- The destination of an atomic; without a literal there is no RET to judge the field by, but a value that no register has is none of
the class's in either case (R59). -/
def Dec.atomD (r : Raw) : Dec (Option VReg) :=
  match r.exts with
  | [] => if fieldNum r.d < 119 then .ok none else .error 2
  | _ :: _ => Dec.atomDst (atomRet r.exts) r.d

/-- The predicate fields the operation of PLOG does not read hold 0 (R60, R114). -/
def Dec.plogUnused (r : Raw) : Dec Unit :=
  match codeField r.d with
  | 4 => Dec.zero r.b
  | 5 => Dec.zero r.b
  | 6 => (Dec.zero r.a).chk (Dec.zero r.b)
  | 7 => (Dec.zero r.a).chk (Dec.zero r.b)
  | _ => .ok ()

/-! ### The opcode map (R61) -/

/-- Opcode group 0x0 (R61). -/
def decodeGroup0 (r : Raw) : Dec Instr :=
  match (r.op.extractLsb' 0 4).toNat with
  | 0x0 => (Dec.fn Instr.nop).chk (Dec.zero r.d) |>.chk (Dec.zero r.a) |>.chk (Dec.zero r.b) |>.chk (Dec.noExt r.exts)
  | 0x1 => (Dec.fn Instr.bra).ap (Dec.offsets r.exts) |>.chk (Dec.zero r.d) |>.chk (Dec.zero r.a) |>.chk (Dec.zero r.b)
  | 0x2 => Dec.brp r
  | 0x3 => (Dec.fn Instr.bri).ap (Dec.spair r.a) |>.chk (Dec.zero r.d) |>.chk (Dec.zero r.b) |>.chk (Dec.noExt r.exts)
  | 0x4 => (Dec.fn Instr.call).ap (Dec.spairDst r.d) |>.ap (Dec.lit r.exts) |>.chk (Dec.zero r.a) |>.chk (Dec.zero r.b)
  | 0x5 => (Dec.fn Instr.calli).ap (Dec.spairDst r.d) |>.ap (Dec.spair r.a) |>.chk (Dec.zero r.b) |>.chk (Dec.noExt r.exts)
  | 0x6 => (Dec.fn Instr.ret).ap (Dec.spair r.a) |>.chk (Dec.zero r.d) |>.chk (Dec.zero r.b) |>.chk (Dec.noExt r.exts)
  | 0x7 => (Dec.fn Instr.exit).chk (Dec.zero r.d) |>.chk (Dec.zero r.a) |>.chk (Dec.zero r.b) |>.chk (Dec.noExt r.exts)
  | 0x8 => (Dec.fn Instr.yield).chk (Dec.zero r.d) |>.chk (Dec.zero r.a) |>.chk (Dec.zero r.b) |>.chk (Dec.noExt r.exts)
  | 0x9 => Dec.trap r
  | 0xA => (Dec.fn Instr.rgn).chk (Dec.zero r.d) |>.chk (Dec.zero r.a) |>.chk (Dec.zero r.b) |>.chk (Dec.noExt r.exts)
  | 0xB => (Dec.fn Instr.regang).ap (Dec.bit r.a) |>.chk (Dec.zero r.d) |>.chk (Dec.zero r.b) |>.chk (Dec.noExt r.exts)
  | 0xC => Dec.fetst r
  | 0xD => Dec.femrk r
  | 0xE => (Dec.fn Instr.retr).chk (Dec.zero r.d) |>.chk (Dec.zero r.a) |>.chk (Dec.zero r.b) |>.chk (Dec.noExt r.exts)
  | _ => (Dec.fn Instr.rett).chk (Dec.zero r.d) |>.chk (Dec.zero r.a) |>.chk (Dec.zero r.b) |>.chk (Dec.noExt r.exts)

/-- Opcode group 0x1 (R61). -/
def decodeGroup1 (r : Raw) : Dec Instr :=
  match (r.op.extractLsb' 0 4).toNat with
  | 0x0 => (Dec.fn Instr.add).ap (Dec.sdst r.d) |>.ap (Dec.ssrc r.a) |>.ap (Dec.ssrc r.b) |>.chk (Dec.noExt r.exts)
  | 0x1 => (Dec.fn Instr.sub).ap (Dec.sdst r.d) |>.ap (Dec.ssrc r.a) |>.ap (Dec.ssrc r.b) |>.chk (Dec.noExt r.exts)
  | 0x2 => (Dec.fn Instr.mul).ap (Dec.sdst r.d) |>.ap (Dec.ssrc r.a) |>.ap (Dec.ssrc r.b) |>.chk (Dec.noExt r.exts)
  | 0x3 => (Dec.fn Instr.mulhs).ap (Dec.sdst r.d) |>.ap (Dec.ssrc r.a) |>.ap (Dec.ssrc r.b) |>.chk (Dec.noExt r.exts)
  | 0x4 => (Dec.fn Instr.mulhu).ap (Dec.sdst r.d) |>.ap (Dec.ssrc r.a) |>.ap (Dec.ssrc r.b) |>.chk (Dec.noExt r.exts)
  | 0x5 => (Dec.fn Instr.divs).ap (Dec.sdst r.d) |>.ap (Dec.ssrc r.a) |>.ap (Dec.ssrc r.b) |>.chk (Dec.noExt r.exts)
  | 0x6 => (Dec.fn Instr.divu).ap (Dec.sdst r.d) |>.ap (Dec.ssrc r.a) |>.ap (Dec.ssrc r.b) |>.chk (Dec.noExt r.exts)
  | 0x7 => (Dec.fn Instr.andS).ap (Dec.sdst r.d) |>.ap (Dec.ssrc r.a) |>.ap (Dec.ssrc r.b) |>.chk (Dec.noExt r.exts)
  | 0x8 => (Dec.fn Instr.orS).ap (Dec.sdst r.d) |>.ap (Dec.ssrc r.a) |>.ap (Dec.ssrc r.b) |>.chk (Dec.noExt r.exts)
  | 0x9 => (Dec.fn Instr.xorS).ap (Dec.sdst r.d) |>.ap (Dec.ssrc r.a) |>.ap (Dec.ssrc r.b) |>.chk (Dec.noExt r.exts)
  | 0xA => (Dec.fn Instr.shl).ap (Dec.sdst r.d) |>.ap (Dec.ssrc r.a) |>.ap (Dec.ssrc r.b) |>.chk (Dec.noExt r.exts)
  | 0xB => (Dec.fn Instr.shr).ap (Dec.sdst r.d) |>.ap (Dec.ssrc r.a) |>.ap (Dec.ssrc r.b) |>.chk (Dec.noExt r.exts)
  | 0xC => (Dec.fn Instr.sar).ap (Dec.sdst r.d) |>.ap (Dec.ssrc r.a) |>.ap (Dec.ssrc r.b) |>.chk (Dec.noExt r.exts)
  | 0xD => (Dec.fn Instr.mins).ap (Dec.sdst r.d) |>.ap (Dec.ssrc r.a) |>.ap (Dec.ssrc r.b) |>.chk (Dec.noExt r.exts)
  | 0xE => (Dec.fn Instr.maxs).ap (Dec.sdst r.d) |>.ap (Dec.ssrc r.a) |>.ap (Dec.ssrc r.b) |>.chk (Dec.noExt r.exts)
  | _ => (Dec.fn Instr.slt).ap (Dec.sdst r.d) |>.ap (Dec.ssrc r.a) |>.ap (Dec.ssrc r.b) |>.chk (Dec.noExt r.exts)

/-- Opcode group 0x2 (R61). -/
def decodeGroup2 (r : Raw) : Dec Instr :=
  match (r.op.extractLsb' 0 4).toNat with
  | 0x0 => (Dec.fn Instr.li).ap (Dec.sdst r.d) |>.ap (Dec.lit r.exts) |>.chk (Dec.zero r.a) |>.chk (Dec.zero r.b)
  | 0x1 => (Dec.fn Instr.addi).ap (Dec.sdst r.d) |>.ap (Dec.ssrc r.a) |>.ap (Dec.lit r.exts) |>.chk (Dec.zero r.b)
  | 0x2 => (Dec.fn Instr.andi).ap (Dec.sdst r.d) |>.ap (Dec.ssrc r.a) |>.ap (Dec.lit r.exts) |>.chk (Dec.zero r.b)
  | 0x3 => (Dec.fn Instr.ori).ap (Dec.sdst r.d) |>.ap (Dec.ssrc r.a) |>.ap (Dec.lit r.exts) |>.chk (Dec.zero r.b)
  | 0x4 => (Dec.fn Instr.ptew).ap (Dec.sdst r.d) |>.ap (Dec.spair r.a) |>.ap (Dec.spair r.b) |>.chk (Dec.noExt r.exts)
  | 0x5 => (Dec.fn Instr.addp).ap (Dec.spairDst r.d) |>.ap (Dec.spair r.a) |>.ap (Dec.ssrc r.b) |>.chk (Dec.noExt r.exts)
  | 0x6 => (Dec.fn Instr.addpi).ap (Dec.spairDst r.d) |>.ap (Dec.spair r.a) |>.ap (Dec.lit r.exts) |>.chk (Dec.zero r.b)
  | 0x7 => (Dec.fn Instr.csrr).ap (Dec.sdst r.d) |>.ap (Dec.csr r.b) |>.chk (Dec.zero r.a) |>.chk (Dec.noExt r.exts)
  | 0x8 => (Dec.fn Instr.csrw).ap (Dec.ssrc r.a) |>.ap (Dec.csr r.b) |>.chk (Dec.zero r.d) |>.chk (Dec.noExt r.exts)
  | 0x9 => (Dec.fn Instr.setm).ap (Dec.ssrc r.a) |>.chk (Dec.zero r.d) |>.chk (Dec.zero r.b) |>.chk (Dec.noExt r.exts)
  | 0xA => (Dec.fn Instr.setmi).ap (Dec.modeLit r.exts) |>.chk (Dec.zero r.d) |>.chk (Dec.zero r.a) |>.chk (Dec.zero r.b)
  | 0xB => (Dec.fn Instr.getm).ap (Dec.sdst r.d) |>.chk (Dec.zero r.a) |>.chk (Dec.zero r.b) |>.chk (Dec.noExt r.exts)
  | 0xC => (Dec.fn Instr.rdts).ap (Dec.spairDst r.d) |>.chk (Dec.zero r.a) |>.chk (Dec.zero r.b) |>.chk (Dec.noExt r.exts)
  | 0xD => (Dec.fn Instr.join).ap (Dec.imm 32 r.a) |>.chk (Dec.zero r.d) |>.chk (Dec.zero r.b) |>.chk (Dec.noExt r.exts)
  | 0xE => (Dec.fn Instr.leave).ap (Dec.imm 32 r.a) |>.chk (Dec.zero r.d) |>.chk (Dec.zero r.b) |>.chk (Dec.noExt r.exts)
  | _ => (Dec.fn Instr.fpool).ap (Dec.spairDst r.d) |>.ap (Dec.bit r.a) |>.ap (Dec.imm 5 r.b) |>.chk (Dec.noExt r.exts)

/-- Opcode group 0x3 (R61). -/
def decodeGroup3 (r : Raw) : Dec Instr :=
  match (r.op.extractLsb' 0 4).toNat with
  | 0x0 => (Dec.fn Instr.vadd).ap (Dec.vdst r.d) |>.ap (Dec.vsrc r.a) |>.ap (Dec.vsrc r.b) |>.ap (Dec.mod .full r.exts)
  | 0x1 => (Dec.fn Instr.vsub).ap (Dec.vdst r.d) |>.ap (Dec.vsrc r.a) |>.ap (Dec.vsrc r.b) |>.ap (Dec.mod .full r.exts)
  | 0x2 => (Dec.fn Instr.vmul).ap (Dec.vdst r.d) |>.ap (Dec.vsrc r.a) |>.ap (Dec.vsrc r.b) |>.ap (Dec.mod .full r.exts)
  | 0x3 => (Dec.fn Instr.vmulh).ap (Dec.vdst r.d) |>.ap (Dec.vsrc r.a) |>.ap (Dec.vsrc r.b) |>.ap (Dec.mod .nothing r.exts)
  | 0x4 => (Dec.fn Instr.vmad).ap (Dec.vdst r.d) |>.ap (Dec.vsrc r.a) |>.ap (Dec.vsrc r.b) |>.ap (Dec.mod .full r.exts)
  | 0x5 => (Dec.fn Instr.vmin).ap (Dec.vdst r.d) |>.ap (Dec.vsrc r.a) |>.ap (Dec.vsrc r.b) |>.ap (Dec.mod .nothing r.exts)
  | 0x6 => (Dec.fn Instr.vmax).ap (Dec.vdst r.d) |>.ap (Dec.vsrc r.a) |>.ap (Dec.vsrc r.b) |>.ap (Dec.mod .nothing r.exts)
  | 0x7 => (Dec.fn Instr.vminu).ap (Dec.vdst r.d) |>.ap (Dec.vsrc r.a) |>.ap (Dec.vsrc r.b) |>.ap (Dec.mod .nothing r.exts)
  | 0x8 => (Dec.fn Instr.vmaxu).ap (Dec.vdst r.d) |>.ap (Dec.vsrc r.a) |>.ap (Dec.vsrc r.b) |>.ap (Dec.mod .nothing r.exts)
  | 0x9 => (Dec.fn Instr.vabsd).ap (Dec.vdst r.d) |>.ap (Dec.vsrc r.a) |>.ap (Dec.vsrc r.b) |>.ap (Dec.mod .satOnly r.exts)
  | 0xA => (Dec.fn Instr.vand).ap (Dec.vdst r.d) |>.ap (Dec.vsrc r.a) |>.ap (Dec.vsrc r.b) |>.ap (Dec.mod .nothing r.exts)
  | 0xB => (Dec.fn Instr.vor).ap (Dec.vdst r.d) |>.ap (Dec.vsrc r.a) |>.ap (Dec.vsrc r.b) |>.ap (Dec.mod .nothing r.exts)
  | 0xC => (Dec.fn Instr.vxor).ap (Dec.vdst r.d) |>.ap (Dec.vsrc r.a) |>.ap (Dec.vsrc r.b) |>.ap (Dec.mod .nothing r.exts)
  | 0xD => (Dec.fn Instr.vandn).ap (Dec.vdst r.d) |>.ap (Dec.vsrc r.a) |>.ap (Dec.vsrc r.b) |>.ap (Dec.mod .nothing r.exts)
  | 0xE => (Dec.fn Instr.vshl).ap (Dec.vdst r.d) |>.ap (Dec.vsrc r.a) |>.ap (Dec.vsrc r.b) |>.ap (Dec.mod .nothing r.exts)
  | _ => (Dec.fn Instr.vshr).ap (Dec.vdst r.d) |>.ap (Dec.vsrc r.a) |>.ap (Dec.vsrc r.b) |>.ap (Dec.mod .nothing r.exts)

/-- Opcode group 0x4 (R61). -/
def decodeGroup4 (r : Raw) : Dec Instr :=
  match (r.op.extractLsb' 0 4).toNat with
  | 0x0 => (Dec.fn Instr.vsar).ap (Dec.vdst r.d) |>.ap (Dec.vsrc r.a) |>.ap (Dec.vsrc r.b) |>.ap (Dec.mod .nothing r.exts)
  | 0x1 => (Dec.fn Instr.vrot).ap (Dec.vdst r.d) |>.ap (Dec.vsrc r.a) |>.ap (Dec.vsrc r.b) |>.ap (Dec.mod .nothing r.exts)
  | 0x2 => (Dec.fn Instr.vcmp).ap (Dec.icmp r.d) |>.ap (Dec.vsrc r.a) |>.ap (Dec.vsrc r.b) |>.ap (Dec.mod .nothing r.exts)
  | 0x3 => (Dec.fn Instr.vsel).ap (Dec.vdst r.d) |>.ap (Dec.vsrc r.a) |>.ap (Dec.vsrc r.b) |>.ap (Dec.mod .nothing r.exts)
  | 0x4 => (Dec.fn Instr.vli).ap (Dec.vdst r.d) |>.ap (Dec.litFirst r.exts) |>.ap (Dec.mod .nothing r.exts.tail) |>.chk (Dec.zero r.a) |>.chk (Dec.zero r.b)
  | 0x5 => (Dec.fn Instr.vbcs).ap (Dec.vdst r.d) |>.ap (Dec.ssrc r.a) |>.ap (Dec.mod .nothing r.exts) |>.chk (Dec.zero r.b)
  | 0x6 => (Dec.fn Instr.vclz).ap (Dec.vdst r.d) |>.ap (Dec.vsrc r.a) |>.ap (Dec.mod .nothing r.exts) |>.chk (Dec.zero r.b)
  | 0x7 => (Dec.fn Instr.vbitc).ap (Dec.vdst r.d) |>.ap (Dec.vsrc r.a) |>.ap (Dec.mod .nothing r.exts) |>.chk (Dec.zero r.b)
  | 0x8 => (Dec.fn Instr.plog).ap (Dec.plogD r.d) |>.ap (Dec.imm 8 r.a) |>.ap (Dec.imm 8 r.b) |>.ap (Dec.mod .nothing r.exts) |>.chk (Dec.plogUnused r)
  | 0x9 => (Dec.fn Instr.vdot4).ap (Dec.vdst r.d) |>.ap (Dec.vsrc r.a) |>.ap (Dec.vsrc r.b) |>.ap (Dec.mod .satOnly r.exts)
  | _ => .error 1

/-- Opcode group 0x5 (R61). -/
def decodeGroup5 (r : Raw) : Dec Instr :=
  match (r.op.extractLsb' 0 4).toNat with
  | 0x0 => (Dec.fn Instr.fadd).ap (Dec.vdst r.d) |>.ap (Dec.vsrc r.a) |>.ap (Dec.vsrc r.b) |>.ap (Dec.mod .full r.exts)
  | 0x1 => (Dec.fn Instr.fsub).ap (Dec.vdst r.d) |>.ap (Dec.vsrc r.a) |>.ap (Dec.vsrc r.b) |>.ap (Dec.mod .full r.exts)
  | 0x2 => (Dec.fn Instr.fmul).ap (Dec.vdst r.d) |>.ap (Dec.vsrc r.a) |>.ap (Dec.vsrc r.b) |>.ap (Dec.mod .full r.exts)
  | 0x3 => (Dec.fn Instr.ffma).ap (Dec.vdst r.d) |>.ap (Dec.vsrc r.a) |>.ap (Dec.vsrc r.b) |>.ap (Dec.mod .full r.exts)
  | 0x4 => (Dec.fn Instr.ffms).ap (Dec.vdst r.d) |>.ap (Dec.vsrc r.a) |>.ap (Dec.vsrc r.b) |>.ap (Dec.mod .full r.exts)
  | 0x5 => (Dec.fn Instr.fmin).ap (Dec.vdst r.d) |>.ap (Dec.vsrc r.a) |>.ap (Dec.vsrc r.b) |>.ap (Dec.mod .signs r.exts)
  | 0x6 => (Dec.fn Instr.fmax).ap (Dec.vdst r.d) |>.ap (Dec.vsrc r.a) |>.ap (Dec.vsrc r.b) |>.ap (Dec.mod .signs r.exts)
  | 0x7 => (Dec.fn Instr.fcmp).ap (Dec.fcmp r.d) |>.ap (Dec.vsrc r.a) |>.ap (Dec.vsrc r.b) |>.ap (Dec.mod .signs r.exts)
  | 0x8 => (Dec.fn Instr.frcp).ap (Dec.vdst r.d) |>.ap (Dec.vsrc r.a) |>.ap (Dec.mod .signA r.exts) |>.chk (Dec.zero r.b)
  | 0x9 => (Dec.fn Instr.frsq).ap (Dec.vdst r.d) |>.ap (Dec.vsrc r.a) |>.ap (Dec.mod .signA r.exts) |>.chk (Dec.zero r.b)
  | 0xA => (Dec.fn Instr.fexp2).ap (Dec.vdst r.d) |>.ap (Dec.vsrc r.a) |>.ap (Dec.mod .signA r.exts) |>.chk (Dec.zero r.b)
  | 0xB => (Dec.fn Instr.flog2).ap (Dec.vdst r.d) |>.ap (Dec.vsrc r.a) |>.ap (Dec.mod .signA r.exts) |>.chk (Dec.zero r.b)
  | 0xC => (Dec.fn Instr.fsin).ap (Dec.vdst r.d) |>.ap (Dec.vsrc r.a) |>.ap (Dec.mod .signA r.exts) |>.chk (Dec.zero r.b)
  | 0xD => (Dec.fn Instr.fcos).ap (Dec.vdst r.d) |>.ap (Dec.vsrc r.a) |>.ap (Dec.mod .signA r.exts) |>.chk (Dec.zero r.b)
  | 0xE => (Dec.fn Instr.ftanh).ap (Dec.vdst r.d) |>.ap (Dec.vsrc r.a) |>.ap (Dec.mod .signA r.exts) |>.chk (Dec.zero r.b)
  | _ => (Dec.fn Instr.fclass).ap (Dec.vdst r.d) |>.ap (Dec.vsrc r.a) |>.ap (Dec.mod .nothing r.exts) |>.chk (Dec.zero r.b)

/-- Opcode group 0x6 (R61). -/
def decodeGroup6 (r : Raw) : Dec Instr :=
  match (r.op.extractLsb' 0 4).toNat with
  | 0x0 => (Dec.fn Instr.cmul).ap (Dec.vdst r.d) |>.ap (Dec.vsrc r.a) |>.ap (Dec.vsrc r.b) |>.ap (Dec.mod .satOnly r.exts)
  | 0x1 => (Dec.fn Instr.cfma).ap (Dec.vdst r.d) |>.ap (Dec.vsrc r.a) |>.ap (Dec.vsrc r.b) |>.ap (Dec.mod .satOnly r.exts)
  | 0x2 => (Dec.fn Instr.cconj).ap (Dec.vdst r.d) |>.ap (Dec.vsrc r.a) |>.ap (Dec.mod .nothing r.exts) |>.chk (Dec.zero r.b)
  | 0x3 => (Dec.fn Instr.cbfly).ap (Dec.vpairDst r.d) |>.ap (Dec.vpair r.a) |>.ap (Dec.vsrc r.b) |>.ap (Dec.mod .satOnly r.exts)
  | 0x4 => (Dec.fn Instr.ctwid).ap (Dec.vdst r.d) |>.ap (Dec.vsrc r.a) |>.ap (Dec.imm 25 r.b) |>.ap (Dec.mod .nothing r.exts)
  | _ => .error 1

/-- Opcode group 0x7 (R61). -/
def decodeGroup7 (r : Raw) : Dec Instr :=
  match (r.op.extractLsb' 0 4).toNat with
  | 0x0 => (Dec.fn Instr.fcvt).ap (Dec.vdst r.d) |>.ap (Dec.vsrc r.a) |>.ap (Dec.cvtF r.b) |>.ap (Dec.mod .cvt r.exts)
  | 0x1 => (Dec.fn Instr.ftoi).ap (Dec.vdst r.d) |>.ap (Dec.vsrc r.a) |>.ap (Dec.cvtF r.b) |>.ap (Dec.mod .scaleOnly r.exts)
  | 0x2 => (Dec.fn Instr.itof).ap (Dec.vdst r.d) |>.ap (Dec.vsrc r.a) |>.ap (Dec.cvtI r.b) |>.ap (Dec.mod .cvt r.exts)
  | 0x3 => (Dec.fn Instr.pack).ap (Dec.vdst r.d) |>.ap (Dec.vsrc r.a) |>.ap (Dec.vsrc r.b) |>.ap (Dec.mod .nothing r.exts)
  | 0x4 => (Dec.fn Instr.unpk).ap (Dec.vdst r.d) |>.ap (Dec.vsrc r.a) |>.ap (Dec.unpkB r.b) |>.ap (Dec.mod .nothing r.exts)
  | 0x5 => (Dec.fn Instr.mxq).ap (Dec.vdst r.d) |>.ap (Dec.vsrc r.a) |>.ap (Dec.mod .nothing r.exts) |>.chk (Dec.zero r.b)
  | 0x6 => (Dec.fn Instr.mxdq).ap (Dec.vdst r.d) |>.ap (Dec.vsrc r.a) |>.ap (Dec.mod .nothing r.exts) |>.chk (Dec.zero r.b)
  | 0x7 => (Dec.fn Instr.cbd).ap (Dec.vdst r.d) |>.ap (Dec.vsrc r.a) |>.ap (Dec.cbdB r.b) |>.ap (Dec.mod .nothing r.exts)
  | _ => .error 1

/-- Opcode group 0x8 (R61). -/
def decodeGroup8 (r : Raw) : Dec Instr :=
  match (r.op.extractLsb' 0 4).toNat with
  | 0x0 => (Dec.fn Instr.vballot).ap (Dec.vdst r.d) |>.ap (Dec.imm 8 r.a) |>.ap (Dec.bit r.b) |>.chk (Dec.noExt r.exts)
  | 0x1 => (Dec.fn Instr.vpopc).ap (Dec.vdst r.d) |>.ap (Dec.vsrc r.a) |>.ap (Dec.bit r.b) |>.chk (Dec.noExt r.exts)
  | 0x2 => (Dec.fn Instr.vshuf).ap (Dec.vdst r.d) |>.ap (Dec.vsrc r.a) |>.ap (Dec.vsrc r.b) |>.chk (Dec.noExt r.exts)
  | 0x3 => (Dec.fn Instr.vscan).ap (Dec.vdst r.d) |>.ap (Dec.vsrc r.a) |>.ap (Dec.scanB r.b) |>.chk (Dec.noExt r.exts)
  | 0x4 => (Dec.fn Instr.vred).ap (Dec.vdst r.d) |>.ap (Dec.vsrc r.a) |>.ap (Dec.redB r.b) |>.chk (Dec.noExt r.exts)
  | 0x5 => (Dec.fn Instr.vbcast).ap (Dec.vdst r.d) |>.ap (Dec.vsrc r.a) |>.ap (Dec.imm 32 r.b) |>.chk (Dec.noExt r.exts)
  | 0x6 => (Dec.fn Instr.vmovs).ap (Dec.sdst r.d) |>.ap (Dec.vsrc r.a) |>.ap (Dec.imm 4 r.b) |>.chk (Dec.noExt r.exts)
  | _ => .error 1

/-- Opcode group 0x9 (R61). -/
def decodeGroup9 (r : Raw) : Dec Instr :=
  match (r.op.extractLsb' 0 4).toNat with
  | 0x0 => (Dec.fn Instr.ldB).ap (Dec.vfill r.d) |>.ap (Dec.spair r.a) |>.ap (Dec.vsrc r.b) |>.chk (Dec.noExt r.exts)
  | 0x1 => (Dec.fn Instr.ldH).ap (Dec.vfill r.d) |>.ap (Dec.spair r.a) |>.ap (Dec.vsrc r.b) |>.chk (Dec.noExt r.exts)
  | 0x2 => (Dec.fn Instr.ldW).ap (Dec.vfill r.d) |>.ap (Dec.spair r.a) |>.ap (Dec.vsrc r.b) |>.chk (Dec.noExt r.exts)
  | 0x3 => (Dec.fn Instr.ldAcq).ap (Dec.vfill r.d) |>.ap (Dec.spair r.a) |>.ap (Dec.memImm r.b) |>.chk (Dec.noExt r.exts)
  | 0x4 => (Dec.fn Instr.stB).ap (Dec.vsrc r.d) |>.ap (Dec.spair r.a) |>.ap (Dec.vsrc r.b) |>.chk (Dec.noExt r.exts)
  | 0x5 => (Dec.fn Instr.stH).ap (Dec.vsrc r.d) |>.ap (Dec.spair r.a) |>.ap (Dec.vsrc r.b) |>.chk (Dec.noExt r.exts)
  | 0x6 => (Dec.fn Instr.stW).ap (Dec.vsrc r.d) |>.ap (Dec.spair r.a) |>.ap (Dec.vsrc r.b) |>.chk (Dec.noExt r.exts)
  | 0x7 => (Dec.fn Instr.stRel).ap (Dec.vsrc r.d) |>.ap (Dec.spair r.a) |>.ap (Dec.memImm r.b) |>.chk (Dec.noExt r.exts)
  | 0x8 => (Dec.fn Instr.lds).ap (Dec.sdst r.d) |>.ap (Dec.spair r.a) |>.ap (Dec.hintOnly r.b) |>.chk (Dec.noExt r.exts)
  | 0x9 => (Dec.fn Instr.sts).ap (Dec.ssrc r.d) |>.ap (Dec.spair r.a) |>.ap (Dec.hintOnly r.b) |>.chk (Dec.noExt r.exts)
  | 0xA => (Dec.fn Instr.ldp).ap (Dec.vpairFill r.d) |>.ap (Dec.spair r.a) |>.ap (Dec.vsrc r.b) |>.chk (Dec.noExt r.exts)
  | 0xB => (Dec.fn Instr.stp).ap (Dec.vpair r.d) |>.ap (Dec.spair r.a) |>.ap (Dec.vsrc r.b) |>.chk (Dec.noExt r.exts)
  | 0xC => (Dec.fn Instr.ldsAcq).ap (Dec.sdst r.d) |>.ap (Dec.spair r.a) |>.ap (Dec.memImm r.b) |>.chk (Dec.noExt r.exts)
  | 0xD => (Dec.fn Instr.stsRel).ap (Dec.ssrc r.d) |>.ap (Dec.spair r.a) |>.ap (Dec.memImm r.b) |>.chk (Dec.noExt r.exts)
  | 0xE => (Dec.fn Instr.pref).ap (Dec.spair r.a) |>.ap (Dec.prefImm r.b) |>.chk (Dec.zero r.d) |>.chk (Dec.noExt r.exts)
  | _ => .error 1

/-- Opcode group 0xA (R61). -/
def decodeGroupA (r : Raw) : Dec Instr :=
  match (r.op.extractLsb' 0 4).toNat with
  | 0x0 => (Dec.fn Instr.atomAdd).ap (Dec.atomD r) |>.ap (Dec.spair r.a) |>.ap (Dec.vsrc r.b) |>.ap (Dec.atomLit .add r.exts)
  | 0x1 => (Dec.fn Instr.atomMin).ap (Dec.atomD r) |>.ap (Dec.spair r.a) |>.ap (Dec.vsrc r.b) |>.ap (Dec.atomLit .min r.exts)
  | 0x2 => (Dec.fn Instr.atomMax).ap (Dec.atomD r) |>.ap (Dec.spair r.a) |>.ap (Dec.vsrc r.b) |>.ap (Dec.atomLit .max r.exts)
  | 0x3 => (Dec.fn Instr.atomAnd).ap (Dec.atomD r) |>.ap (Dec.spair r.a) |>.ap (Dec.vsrc r.b) |>.ap (Dec.atomLit .and r.exts)
  | 0x4 => (Dec.fn Instr.atomOr).ap (Dec.atomD r) |>.ap (Dec.spair r.a) |>.ap (Dec.vsrc r.b) |>.ap (Dec.atomLit .or r.exts)
  | 0x5 => (Dec.fn Instr.atomXor).ap (Dec.atomD r) |>.ap (Dec.spair r.a) |>.ap (Dec.vsrc r.b) |>.ap (Dec.atomLit .xor r.exts)
  | 0x6 => (Dec.fn Instr.atomCas).ap (Dec.atomD r) |>.ap (Dec.spair r.a) |>.ap (Dec.vpair r.b) |>.ap (Dec.atomLit .cas r.exts)
  | 0x7 => (Dec.fn Instr.atomXchg).ap (Dec.atomD r) |>.ap (Dec.spair r.a) |>.ap (Dec.vsrc r.b) |>.ap (Dec.atomLit .xchg r.exts)
  | 0x8 => (Dec.fn Instr.amaxx).ap (Dec.sdst r.d) |>.ap (Dec.spair r.a) |>.ap (Dec.ssrc r.b) |>.chk (Dec.noExt r.exts)
  | 0x9 => Dec.fence r
  | 0xA => (Dec.fn Instr.bari).ap (Dec.crewField r.d) |>.ap (Dec.spair r.a) |>.ap (Dec.ssrc r.b) |>.chk (Dec.noExt r.exts)
  | 0xB => (Dec.fn Instr.barr).ap (Dec.sdst r.d) |>.ap (Dec.spair r.a) |>.ap (Dec.bit r.b) |>.chk (Dec.noExt r.exts)
  | 0xC => (Dec.fn Instr.barw).ap (Dec.spair r.a) |>.ap (Dec.ssrc r.b) |>.chk (Dec.zero r.d) |>.chk (Dec.noExt r.exts)
  | 0xD => (Dec.fn Instr.bart).ap (Dec.sdst r.d) |>.ap (Dec.spair r.a) |>.ap (Dec.ssrc r.b) |>.chk (Dec.noExt r.exts)
  | 0xE => (Dec.fn Instr.waitv).ap (Dec.sdst r.d) |>.ap (Dec.spair r.a) |>.ap (Dec.ssrc r.b) |>.chk (Dec.noExt r.exts)
  | _ => (Dec.fn Instr.waitw).ap (Dec.sdst r.d) |>.ap (Dec.imm 64 r.a) |>.chk (Dec.zero r.b) |>.chk (Dec.noExt r.exts)

/-- Opcode group 0xB (R61). -/
def decodeGroupB (r : Raw) : Dec Instr :=
  match (r.op.extractLsb' 0 4).toNat with
  | 0x0 => (Dec.fn Instr.cpy).ap (Dec.sdst r.d) |>.ap (Dec.spair r.a) |>.ap (Dec.cmdImm r.b) |>.chk (Dec.noExt r.exts)
  | 0x1 => (Dec.fn Instr.cpys).ap (Dec.sdst r.d) |>.ap (Dec.spair r.a) |>.ap (Dec.cmdImm r.b) |>.chk (Dec.noExt r.exts)
  | 0x2 => (Dec.fn Instr.cbdc).ap (Dec.sdst r.d) |>.ap (Dec.spair r.a) |>.ap (Dec.cmdImm r.b) |>.chk (Dec.noExt r.exts)
  | 0x3 => (Dec.fn Instr.cpyam).ap (Dec.sdst r.d) |>.ap (Dec.spair r.a) |>.ap (Dec.cmdImm r.b) |>.chk (Dec.noExt r.exts)
  | 0x4 => (Dec.fn Instr.gath).ap (Dec.sdst r.d) |>.ap (Dec.spair r.a) |>.ap (Dec.cmdImm r.b) |>.chk (Dec.noExt r.exts)
  | 0x5 => (Dec.fn Instr.scat).ap (Dec.sdst r.d) |>.ap (Dec.spair r.a) |>.ap (Dec.cmdImm r.b) |>.chk (Dec.noExt r.exts)
  | 0x6 => (Dec.fn Instr.qfence).ap (Dec.qmask r.b) |>.chk (Dec.zero r.d) |>.chk (Dec.zero r.a) |>.chk (Dec.noExt r.exts)
  | 0x7 => (Dec.fn Instr.shld).ap (Dec.sdst r.d) |>.ap (Dec.spair r.a) |>.ap (Dec.shldImm r.b) |>.chk (Dec.noExt r.exts)
  | _ => .error 1

/-- Opcode group 0xC (R61). -/
def decodeGroupC (r : Raw) : Dec Instr :=
  match (r.op.extractLsb' 0 4).toNat with
  | 0x0 => (Dec.fn Instr.tldb).ap (Dec.ssrc r.a) |>.ap (Dec.ssrc r.b) |>.chk (Dec.zero r.d) |>.chk (Dec.noExt r.exts)
  | 0x1 => (Dec.fn Instr.tmma).ap (Dec.tile r.d) |>.ap (Dec.ssrc r.a) |>.ap (Dec.ssrc r.b) |>.chk (Dec.noExt r.exts)
  | 0x2 => (Dec.fn Instr.tmmat).ap (Dec.tile r.d) |>.ap (Dec.ssrc r.a) |>.ap (Dec.ssrc r.b) |>.chk (Dec.noExt r.exts)
  | 0x3 => (Dec.fn Instr.ttrn).ap (Dec.tilePair r.d) |>.ap (Dec.tilePair r.a) |>.chk (Dec.zero r.b) |>.chk (Dec.noExt r.exts)
  | 0x4 => (Dec.fn Instr.tscl).ap (Dec.tile r.d) |>.ap (Dec.tile r.a) |>.ap (Dec.ssrc r.b) |>.chk (Dec.noExt r.exts)
  | 0x5 => (Dec.fn Instr.tzero).ap (Dec.tile r.d) |>.ap (Dec.imm 16 r.b) |>.chk (Dec.zero r.a) |>.chk (Dec.noExt r.exts)
  | 0x6 => (Dec.fn Instr.tadd).ap (Dec.tile r.d) |>.ap (Dec.tile r.a) |>.ap (Dec.tile r.b) |>.chk (Dec.noExt r.exts)
  | 0x7 => (Dec.fn Instr.taccr).ap (Dec.vfill r.d) |>.ap (Dec.tile r.a) |>.ap (Dec.imm 16 r.b) |>.chk (Dec.noExt r.exts)
  | 0x8 => (Dec.fn Instr.taccw).ap (Dec.tile r.d) |>.ap (Dec.vsrc r.a) |>.ap (Dec.imm 16 r.b) |>.chk (Dec.noExt r.exts)
  | 0x9 => (Dec.fn Instr.taccs).ap (Dec.tile r.d) |>.ap (Dec.ssrc r.a) |>.ap (Dec.ssrc r.b) |>.chk (Dec.noExt r.exts)
  | 0xA => (Dec.fn Instr.taccl).ap (Dec.tile r.d) |>.ap (Dec.ssrc r.a) |>.chk (Dec.zero r.b) |>.chk (Dec.noExt r.exts)
  | 0xB => (Dec.fn Instr.tmxs).ap (Dec.ssrc r.a) |>.chk (Dec.zero r.d) |>.chk (Dec.zero r.b) |>.chk (Dec.noExt r.exts)
  | 0xC => (Dec.fn Instr.tsync).chk (Dec.zero r.d) |>.chk (Dec.zero r.a) |>.chk (Dec.zero r.b) |>.chk (Dec.noExt r.exts)
  | 0xD => (Dec.fn Instr.trule).ap (Dec.sdst r.d) |>.ap (Dec.spair r.a) |>.ap (Dec.ssrc r.b) |>.chk (Dec.noExt r.exts)
  | 0xE => (Dec.fn Instr.trwq).ap (Dec.sdst r.d) |>.ap (Dec.bit r.a) |>.ap (Dec.rwSel r.b) |>.chk (Dec.noExt r.exts)
  | _ => .error 1

/-- Opcode group 0xE (R61). -/
def decodeGroupE (r : Raw) : Dec Instr :=
  match (r.op.extractLsb' 0 4).toNat with
  | 0x0 => (Dec.fn Instr.stx).ap (Dec.vsrc r.d) |>.ap (Dec.spair r.a) |>.ap (Dec.bit r.b) |>.chk (Dec.noExt r.exts)
  | 0x1 => (Dec.fn Instr.ldx).ap (Dec.vfill r.d) |>.ap (Dec.spair r.a) |>.ap (Dec.vsrc r.b) |>.chk (Dec.noExt r.exts)
  | 0x2 => (Dec.fn Instr.amx).ap (Dec.vsrc r.d) |>.ap (Dec.spair r.a) |>.ap (Dec.amxImm r.b) |>.chk (Dec.noExt r.exts)
  | 0x3 => (Dec.fn Instr.amxr).ap (Dec.vfill r.d) |>.ap (Dec.spair r.a) |>.ap (Dec.amxrImm r.b) |>.chk (Dec.noExt r.exts)
  | 0x4 => (Dec.fn Instr.wake).ap (Dec.wakeD r.d) |>.ap (Dec.ssrc r.a) |>.ap (Dec.ssrc r.b) |>.chk (Dec.noExt r.exts)
  | 0x5 => (Dec.fn Instr.xarr).ap (Dec.sdst r.d) |>.chk (Dec.zero r.a) |>.chk (Dec.zero r.b) |>.chk (Dec.noExt r.exts)
  | 0x6 => (Dec.fn Instr.xwait).ap (Dec.sdst r.d) |>.ap (Dec.ssrc r.a) |>.chk (Dec.zero r.b) |>.chk (Dec.noExt r.exts)
  | 0x7 => (Dec.fn Instr.xfence).ap (Dec.sdst r.d) |>.ap (Dec.spair r.a) |>.chk (Dec.zero r.b) |>.chk (Dec.noExt r.exts)
  | 0x8 => (Dec.fn Instr.nsend).ap (Dec.sdst r.d) |>.ap (Dec.spair r.a) |>.chk (Dec.zero r.b) |>.chk (Dec.noExt r.exts)
  | 0x9 => (Dec.fn Instr.npost).ap (Dec.sdst r.d) |>.ap (Dec.spair r.a) |>.chk (Dec.zero r.b) |>.chk (Dec.noExt r.exts)
  | 0xA => (Dec.fn Instr.qpush).ap (Dec.sdst r.d) |>.ap (Dec.spair r.a) |>.ap (Dec.ssrc r.b) |>.chk (Dec.noExt r.exts)
  | _ => .error 1

/-- The instruction of an opcode byte, its fields and its extension words, or the case code of R64: 1 for an unassigned
opcode, else the lowest that applies. -/
def decodeRaw (r : Raw) : Dec Instr :=
  match (r.op.extractLsb' 4 4).toNat with
  | 0x0 => decodeGroup0 r
  | 0x1 => decodeGroup1 r
  | 0x2 => decodeGroup2 r
  | 0x3 => decodeGroup3 r
  | 0x4 => decodeGroup4 r
  | 0x5 => decodeGroup5 r
  | 0x6 => decodeGroup6 r
  | 0x7 => decodeGroup7 r
  | 0x8 => decodeGroup8 r
  | 0x9 => decodeGroup9 r
  | 0xA => decodeGroupA r
  | 0xB => decodeGroupB r
  | 0xC => decodeGroupC r
  | 0xE => decodeGroupE r
  | _ => .error 1

/-- Decode the words of one instruction: its word and its extension words. -/
def decodeWords (ws : List Word) : Dec Instr :=
  match ws with
  | [] => .error 1
  | w :: exts => decodeRaw (Raw.ofWord w exts)

/-- Whether the opcode carries a literal word († in R61). -/
def opTakesLiteral (op : BitVec 8) : Bool :=
  op.toNat == 0x01 || op.toNat == 0x02 || op.toNat == 0x04 || (0x20 ≤ op.toNat && op.toNat ≤ 0x23) ||
  op.toNat == 0x26 || op.toNat == 0x2A || op.toNat == 0x44 || op.extractLsb' 3 5 == 0b10100#5

/-- Whether MODE.SUP = 1 is needed (* in R61). -/
def opSupervisor (op : BitVec 8) : Bool :=
  op.toNat == 0x0E || op.toNat == 0x0F || op.toNat == 0x24 || op.toNat == 0x2F || op.toNat == 0xCD

/-! ### The encoder -/

/-- Bit [7] and a number (R59). -/
def regField (bit7 : Bool) (n : Nat) : BitVec 8 := BitVec.ofBool bit7 ++ BitVec.ofNat 7 n

/-- The number of a vector source (R59). -/
def VSrcReg.num (r : VSrcReg) : Nat :=
  match r with
  | .v n => n.val
  | .o n => 96 + n.val
  | .w n => 112 + n.val
  | .z => 116
  | .laneId => 117
  | .sliceIdx => 118

/-- The number of a vector destination (R59). -/
def VReg.num (r : VReg) : Nat :=
  match r with
  | .v n => n.val
  | .o n => 96 + n.val

/-- The number of a vector pair source (R107). -/
def VPairSrcReg.num (r : VPairSrcReg) : Nat :=
  match r with
  | .v n => 2 * n.val
  | .o n => 96 + 2 * n.val
  | .w n => 112 + 2 * n.val

/-- The number of a vector pair destination (R107). -/
def VPairReg.num (r : VPairReg) : Nat :=
  match r with
  | .v n => 2 * n.val
  | .o n => 96 + 2 * n.val

/-- The number of a scalar source (R60). -/
def SSrcReg.num (r : SSrcReg) : Nat :=
  match r with
  | .s n => n.val
  | .z => 116
  | .sliceIdx => 118

def encVSrc (x : VSrc) : BitVec 8 := regField x.trap x.reg.num
def encVDst (x : VDst) : BitVec 8 := regField x.shift x.reg.num
def encVFill (x : VReg) : BitVec 8 := regField false x.num
def encVPair (x : VPairSrc) : BitVec 8 := regField x.trap x.reg.num
def encVPairDst (x : VPairDst) : BitVec 8 := regField x.shift x.reg.num
def encVPairFill (x : VPairReg) : BitVec 8 := regField false x.num
def encSSrc (x : SSrc) : BitVec 8 := regField x.trap x.reg.num
def encSDst (x : SReg) : BitVec 8 := regField false x.val
def encSPair (x : SPairSrc) : BitVec 8 :=
  match x.reg with
  | some n => regField x.trap (2 * n.val)
  | none => regField x.trap 116
def encSPairDst (x : SPairReg) : BitVec 8 := regField false (2 * x.val)
def encImm {n : Nat} (x : Fin n) : BitVec 8 := BitVec.ofNat 8 x.val
def encBit (x : Bool) : BitVec 8 := if x then 1#8 else 0#8
def encTile (x : Tile) : BitVec 8 := BitVec.ofFin x
def encTilePair (x : TilePair) : BitVec 8 := BitVec.ofNat 8 (2 * x.val)

/-- The number of a CSR (R82). -/
def encCsr (c : Csr) : BitVec 8 :=
  match c with
  | .fstat => 0x00#8 | .crews => 0x01#8 | .gtmo => 0x02#8 | .swpt => 0x03#8 | .rgnpcl => 0x04#8 | .rgnpch => 0x05#8
  | .rgncnt => 0x06#8 | .slotid => 0x08#8 | .waveid => 0x09#8 | .nslice => 0x0A#8 | .quant => 0x18#8
  | .tcause => 0x30#8 | .tdet0 => 0x31#8 | .tdet1 => 0x32#8 | .tdet2 => 0x33#8 | .tpcl => 0x34#8 | .tpch => 0x35#8

/-- [7:3] code, [2:0] predicate. -/
def codePred (code : BitVec 5) (p : PReg) : BitVec 8 := code ++ (BitVec.ofFin p : BitVec 3)

def encICmp (x : ICmp) : BitVec 8 :=
  codePred (match x.cond with
    | .eq => 0#5 | .ne => 1#5 | .lt => 2#5 | .le => 3#5 | .gt => 4#5 | .ge => 5#5
    | .ltu => 6#5 | .leu => 7#5 | .gtu => 8#5 | .geu => 9#5) x.p

def encFCmp (x : FCmp) : BitVec 8 :=
  codePred (match x.cond with
    | .eq => 0#5 | .ne => 1#5 | .lt => 2#5 | .le => 3#5 | .gt => 4#5 | .ge => 5#5 | .un => 6#5 | .ord => 7#5) x.p

def encPLogD (x : PLogD) : BitVec 8 :=
  codePred (match x.op with
    | .and => 0#5 | .or => 1#5 | .xor => 2#5 | .andn => 3#5 | .not => 4#5 | .mov => 5#5 | .set => 6#5 | .clr => 7#5) x.p

/-- [7] 0, [6:4] part, [3:0] code (R125). -/
def partCode (k : Fin 8) (code : BitVec 4) : BitVec 8 := 0#1 ++ (BitVec.ofFin k : BitVec 3) ++ code

def encCvtF (x : CvtF) : BitVec 8 :=
  partCode x.k (match x.src with
    | .fp32 => 0b0000#4 | .bf16 => 0b0001#4 | .fp16 => 0b0010#4 | .e4m3 => 0b0011#4 | .e5m2 => 0b0100#4 | .e2m1 => 0b0111#4)

def encCvtI (x : CvtI) : BitVec 8 :=
  partCode x.k (match x.src with | .i8 => 0b1000#4 | .i16 => 0b1001#4 | .i32 => 0b1010#4)

def encUnpkB (x : UnpkB) : BitVec 8 := 0#6 ++ BitVec.ofBool x.zx ++ BitVec.ofBool x.h

def encCbdB (x : CbdB) : BitVec 8 :=
  0#4 ++ (match x.fmt with | .e4m3 => 0#2 | .e5m2 => 1#2 | .bf16 => 2#2) ++ (BitVec.ofFin x.k : BitVec 2)

/-- OP of VRED and VSCAN (R135). -/
def RedOp.code (o : RedOp) : BitVec 3 :=
  match o with
  | .add => 0#3 | .min => 1#3 | .max => 2#3 | .and => 3#3 | .or => 4#3 | .xor => 5#3 | .minu => 6#3 | .maxu => 7#3

def encScanB (x : ScanB) : BitVec 8 := 0#3 ++ BitVec.ofBool x.gang ++ BitVec.ofBool x.excl ++ x.op.code
def encRedB (x : RedB) : BitVec 8 := 0#3 ++ BitVec.ofBool x.gang ++ 0#1 ++ x.op.code

/-- SCOPE (R143). -/
def Scope.code (s : Scope) : BitVec 3 :=
  match s with
  | .slice => 0#3 | .crew => 1#3 | .core => 2#3 | .die => 3#3 | .package => 4#3 | .pod => 5#3

/-- HINT (R143). -/
def hintCode (h : Hint) : BitVec 3 :=
  match h with
  | none => 0#3
  | some d => 1#1 ++ (BitVec.ofFin d : BitVec 2)

def encMemImm (x : MemImm) : BitVec 8 := 0#1 ++ hintCode x.hint ++ 0#1 ++ x.scope.code
def encHintOnly (x : Hint) : BitVec 8 := 0#1 ++ hintCode x ++ 0#4
def encPrefImm (x : PrefImm) : BitVec 8 :=
  0#1 ++ hintCode x.hint ++ 0#1 ++ (match x.level with | .l1 => 0#3 | .l2 => 1#3 | .l3 => 2#3)
def encCrewField (x : Option (Fin 32)) : BitVec 8 :=
  match x with
  | none => 0#8
  | some c => 1#3 ++ (BitVec.ofFin c : BitVec 5)
def encCmdImm (x : CmdImm) : BitVec 8 := 0#4 ++ BitVec.ofBool x.chk ++ (BitVec.ofFin x.queue : BitVec 3)
def encShldImm (x : ShldImm) : BitVec 8 :=
  0#1 ++ (BitVec.ofFin x.tbl : BitVec 3) ++ BitVec.ofBool x.chk ++ (BitVec.ofFin x.queue : BitVec 3)
def encQMask (x : QMask) : BitVec 8 := x.mask
def encRwSel (x : RwSel) : BitVec 8 :=
  match x with
  | .match_ => 0#8 | .removed => 1#8 | .declperm => 2#8 | .declchk => 3#8 | .aband => 4#8 | .flush => 5#8
  | .rule n => 1#2 ++ (BitVec.ofFin n : BitVec 6)

/-- OP of AMX and AMXR (R352). -/
def AmOp.code (o : AmOp) : BitVec 4 :=
  match o with
  | .addS32 => 0#4 | .addF32 => 1#4 | .minS32 => 2#4 | .maxS32 => 3#4 | .minU32 => 4#4
  | .maxU32 => 5#4 | .and => 6#4 | .or => 7#4 | .xor => 8#4 | .xchg => 9#4

def encAmxrImm (x : AmOp) : BitVec 8 := 0#4 ++ x.code
def encAmxImm (x : AmxImm) : BitVec 8 := 0#3 ++ BitVec.ofBool x.mc ++ x.op.code
def encWakeD (x : WakeD) : BitVec 8 := 0#1 ++ BitVec.ofBool x.deferred ++ (BitVec.ofFin x.mailbox : BitVec 6)

/-- A modifier word (R57). -/
def encModifier (m : Modifier) : Word :=
  0#4 ++ BitVec.ofBool m.clmp ++ m.cls ++ BitVec.ofBool m.sat ++ 0#6 ++ m.scale ++ 0#4 ++
  BitVec.ofBool m.negb ++ BitVec.ofBool m.absb ++ BitVec.ofBool m.nega ++ BitVec.ofBool m.absa

/-- The extension words of an optional modifier. -/
def encMod (m : Option Modifier) : List Word :=
  match m with
  | none => []
  | some m => [encModifier m]

/-- The literal of BRA and BRP (R86). -/
def encOffsets (o : BrOffsets) : Word := o.toff ++ o.joff

/-- The literal of an atomic (R156). -/
def encAtomLit (ret : Bool) (l : AtomLit) : Word :=
  encVSrc l.off ++ 0#5 ++ l.scope.code ++ hintCode l.hint ++
  (match l.ord with | .relaxed => 0#2 | .acq => 1#2 | .rel => 2#2 | .acqRel => 3#2) ++
  (match l.use with
   | .unpaired => 0#3 | .commutative => 1#3 | .nonOrdering => 2#3 | .quantum => 3#3 | .speculative => 4#3) ++
  (match l.ty with | .s32 => 0#2 | .u32 => 1#2 | .f32 => 2#2) ++ BitVec.ofBool ret ++ 0#5

/-- The destination field of an atomic (R155). -/
def encAtomDst (d : Option VReg) : BitVec 8 :=
  match d with
  | none => 0#8
  | some r => encVFill r

/-- The register field of FEMRK. -/
def FullReg.num (r : FullReg) : Nat :=
  match r with
  | .vec r => r.num
  | .scl s => s.val

/-- Whether the register is of the scalar class (R96). -/
def FullReg.isScl (r : FullReg) : Bool :=
  match r with
  | .vec _ => false
  | .scl _ => true

/-- The register field of FETST. -/
def FeSrc.field (x : FeSrc) : BitVec 8 :=
  match x with
  | .vec x => encVSrc x
  | .scl x => encSSrc x

/-- Whether the operand is of the scalar class (R95). -/
def FeSrc.isScl (x : FeSrc) : Bool :=
  match x with
  | .vec _ => false
  | .scl _ => true

/-- The words of BRP (R78). -/
def encBrp (c : BrCond) (o : BrOffsets) : List Word :=
  match c with
  | .pred p => [Raw.word 0x02#8 (encImm p) 0#8 0#8, encOffsets o]
  | .predNot p => [Raw.word 0x02#8 (encImm p) 1#8 0#8, encOffsets o]
  | .nz s => [Raw.word 0x02#8 0#8 2#8 (encSSrc s), encOffsets o]
  | .zero s => [Raw.word 0x02#8 0#8 3#8 (encSSrc s), encOffsets o]

/-- The words of an instruction: its word and its extension words. A step without an encoding has none. -/
def encode (i : Instr) : List Word :=
  match i with
  | .nop => [Raw.word 0x00#8 0#8 0#8 0#8]
  | .bra off => [Raw.word 0x01#8 0#8 0#8 0#8, encOffsets off]
  | .brp c off => encBrp c off
  | .bri a => [Raw.word 0x03#8 0#8 (encSPair a) 0#8]
  | .call d lit => [Raw.word 0x04#8 (encSPairDst d) 0#8 0#8, lit]
  | .calli d a => [Raw.word 0x05#8 (encSPairDst d) (encSPair a) 0#8]
  | .ret a => [Raw.word 0x06#8 0#8 (encSPair a) 0#8]
  | .exit => [Raw.word 0x07#8 0#8 0#8 0#8]
  | .yield => [Raw.word 0x08#8 0#8 0#8 0#8]
  | .trap code => [Raw.word 0x09#8 0#8 (code.extractLsb' 8 8) (code.extractLsb' 0 8)]
  | .rgn => [Raw.word 0x0A#8 0#8 0#8 0#8]
  | .regang a => [Raw.word 0x0B#8 0#8 (encBit a) 0#8]
  | .fetst p r => [Raw.word 0x0C#8 (encImm p) r.field (encBit r.isScl)]
  | .femrk r full => [Raw.word 0x0D#8 (regField false r.num) 0#8 (0#6 ++ BitVec.ofBool r.isScl ++ BitVec.ofBool full)]
  | .retr => [Raw.word 0x0E#8 0#8 0#8 0#8]
  | .rett => [Raw.word 0x0F#8 0#8 0#8 0#8]
  | .add d a b => [Raw.word 0x10#8 (encSDst d) (encSSrc a) (encSSrc b)]
  | .sub d a b => [Raw.word 0x11#8 (encSDst d) (encSSrc a) (encSSrc b)]
  | .mul d a b => [Raw.word 0x12#8 (encSDst d) (encSSrc a) (encSSrc b)]
  | .mulhs d a b => [Raw.word 0x13#8 (encSDst d) (encSSrc a) (encSSrc b)]
  | .mulhu d a b => [Raw.word 0x14#8 (encSDst d) (encSSrc a) (encSSrc b)]
  | .divs d a b => [Raw.word 0x15#8 (encSDst d) (encSSrc a) (encSSrc b)]
  | .divu d a b => [Raw.word 0x16#8 (encSDst d) (encSSrc a) (encSSrc b)]
  | .andS d a b => [Raw.word 0x17#8 (encSDst d) (encSSrc a) (encSSrc b)]
  | .orS d a b => [Raw.word 0x18#8 (encSDst d) (encSSrc a) (encSSrc b)]
  | .xorS d a b => [Raw.word 0x19#8 (encSDst d) (encSSrc a) (encSSrc b)]
  | .shl d a b => [Raw.word 0x1A#8 (encSDst d) (encSSrc a) (encSSrc b)]
  | .shr d a b => [Raw.word 0x1B#8 (encSDst d) (encSSrc a) (encSSrc b)]
  | .sar d a b => [Raw.word 0x1C#8 (encSDst d) (encSSrc a) (encSSrc b)]
  | .mins d a b => [Raw.word 0x1D#8 (encSDst d) (encSSrc a) (encSSrc b)]
  | .maxs d a b => [Raw.word 0x1E#8 (encSDst d) (encSSrc a) (encSSrc b)]
  | .slt d a b => [Raw.word 0x1F#8 (encSDst d) (encSSrc a) (encSSrc b)]
  | .li d lit => [Raw.word 0x20#8 (encSDst d) 0#8 0#8, lit]
  | .addi d a lit => [Raw.word 0x21#8 (encSDst d) (encSSrc a) 0#8, lit]
  | .andi d a lit => [Raw.word 0x22#8 (encSDst d) (encSSrc a) 0#8, lit]
  | .ori d a lit => [Raw.word 0x23#8 (encSDst d) (encSSrc a) 0#8, lit]
  | .ptew d a b => [Raw.word 0x24#8 (encSDst d) (encSPair a) (encSPair b)]
  | .addp d a b => [Raw.word 0x25#8 (encSPairDst d) (encSPair a) (encSSrc b)]
  | .addpi d a lit => [Raw.word 0x26#8 (encSPairDst d) (encSPair a) 0#8, lit]
  | .csrr d b => [Raw.word 0x27#8 (encSDst d) 0#8 (encCsr b)]
  | .csrw a b => [Raw.word 0x28#8 0#8 (encSSrc a) (encCsr b)]
  | .setm a => [Raw.word 0x29#8 0#8 (encSSrc a) 0#8]
  | .setmi lit => [Raw.word 0x2A#8 0#8 0#8 0#8, lit]
  | .getm d => [Raw.word 0x2B#8 (encSDst d) 0#8 0#8]
  | .rdts d => [Raw.word 0x2C#8 (encSPairDst d) 0#8 0#8]
  | .join a => [Raw.word 0x2D#8 0#8 (encImm a) 0#8]
  | .leave a => [Raw.word 0x2E#8 0#8 (encImm a) 0#8]
  | .fpool d a b => [Raw.word 0x2F#8 (encSPairDst d) (encBit a) (encImm b)]
  | .vadd d a b m => Raw.word 0x30#8 (encVDst d) (encVSrc a) (encVSrc b) :: encMod m
  | .vsub d a b m => Raw.word 0x31#8 (encVDst d) (encVSrc a) (encVSrc b) :: encMod m
  | .vmul d a b m => Raw.word 0x32#8 (encVDst d) (encVSrc a) (encVSrc b) :: encMod m
  | .vmulh d a b m => Raw.word 0x33#8 (encVDst d) (encVSrc a) (encVSrc b) :: encMod m
  | .vmad d a b m => Raw.word 0x34#8 (encVDst d) (encVSrc a) (encVSrc b) :: encMod m
  | .vmin d a b m => Raw.word 0x35#8 (encVDst d) (encVSrc a) (encVSrc b) :: encMod m
  | .vmax d a b m => Raw.word 0x36#8 (encVDst d) (encVSrc a) (encVSrc b) :: encMod m
  | .vminu d a b m => Raw.word 0x37#8 (encVDst d) (encVSrc a) (encVSrc b) :: encMod m
  | .vmaxu d a b m => Raw.word 0x38#8 (encVDst d) (encVSrc a) (encVSrc b) :: encMod m
  | .vabsd d a b m => Raw.word 0x39#8 (encVDst d) (encVSrc a) (encVSrc b) :: encMod m
  | .vand d a b m => Raw.word 0x3A#8 (encVDst d) (encVSrc a) (encVSrc b) :: encMod m
  | .vor d a b m => Raw.word 0x3B#8 (encVDst d) (encVSrc a) (encVSrc b) :: encMod m
  | .vxor d a b m => Raw.word 0x3C#8 (encVDst d) (encVSrc a) (encVSrc b) :: encMod m
  | .vandn d a b m => Raw.word 0x3D#8 (encVDst d) (encVSrc a) (encVSrc b) :: encMod m
  | .vshl d a b m => Raw.word 0x3E#8 (encVDst d) (encVSrc a) (encVSrc b) :: encMod m
  | .vshr d a b m => Raw.word 0x3F#8 (encVDst d) (encVSrc a) (encVSrc b) :: encMod m
  | .vsar d a b m => Raw.word 0x40#8 (encVDst d) (encVSrc a) (encVSrc b) :: encMod m
  | .vrot d a b m => Raw.word 0x41#8 (encVDst d) (encVSrc a) (encVSrc b) :: encMod m
  | .vcmp d a b m => Raw.word 0x42#8 (encICmp d) (encVSrc a) (encVSrc b) :: encMod m
  | .vsel d a b m => Raw.word 0x43#8 (encVDst d) (encVSrc a) (encVSrc b) :: encMod m
  | .vli d lit m => Raw.word 0x44#8 (encVDst d) 0#8 0#8 :: lit :: encMod m
  | .vbcs d a m => Raw.word 0x45#8 (encVDst d) (encSSrc a) 0#8 :: encMod m
  | .vclz d a m => Raw.word 0x46#8 (encVDst d) (encVSrc a) 0#8 :: encMod m
  | .vbitc d a m => Raw.word 0x47#8 (encVDst d) (encVSrc a) 0#8 :: encMod m
  | .plog d a b m => Raw.word 0x48#8 (encPLogD d) (encImm a) (encImm b) :: encMod m
  | .vdot4 d a b m => Raw.word 0x49#8 (encVDst d) (encVSrc a) (encVSrc b) :: encMod m
  | .fadd d a b m => Raw.word 0x50#8 (encVDst d) (encVSrc a) (encVSrc b) :: encMod m
  | .fsub d a b m => Raw.word 0x51#8 (encVDst d) (encVSrc a) (encVSrc b) :: encMod m
  | .fmul d a b m => Raw.word 0x52#8 (encVDst d) (encVSrc a) (encVSrc b) :: encMod m
  | .ffma d a b m => Raw.word 0x53#8 (encVDst d) (encVSrc a) (encVSrc b) :: encMod m
  | .ffms d a b m => Raw.word 0x54#8 (encVDst d) (encVSrc a) (encVSrc b) :: encMod m
  | .fmin d a b m => Raw.word 0x55#8 (encVDst d) (encVSrc a) (encVSrc b) :: encMod m
  | .fmax d a b m => Raw.word 0x56#8 (encVDst d) (encVSrc a) (encVSrc b) :: encMod m
  | .fcmp d a b m => Raw.word 0x57#8 (encFCmp d) (encVSrc a) (encVSrc b) :: encMod m
  | .frcp d a m => Raw.word 0x58#8 (encVDst d) (encVSrc a) 0#8 :: encMod m
  | .frsq d a m => Raw.word 0x59#8 (encVDst d) (encVSrc a) 0#8 :: encMod m
  | .fexp2 d a m => Raw.word 0x5A#8 (encVDst d) (encVSrc a) 0#8 :: encMod m
  | .flog2 d a m => Raw.word 0x5B#8 (encVDst d) (encVSrc a) 0#8 :: encMod m
  | .fsin d a m => Raw.word 0x5C#8 (encVDst d) (encVSrc a) 0#8 :: encMod m
  | .fcos d a m => Raw.word 0x5D#8 (encVDst d) (encVSrc a) 0#8 :: encMod m
  | .ftanh d a m => Raw.word 0x5E#8 (encVDst d) (encVSrc a) 0#8 :: encMod m
  | .fclass d a m => Raw.word 0x5F#8 (encVDst d) (encVSrc a) 0#8 :: encMod m
  | .cmul d a b m => Raw.word 0x60#8 (encVDst d) (encVSrc a) (encVSrc b) :: encMod m
  | .cfma d a b m => Raw.word 0x61#8 (encVDst d) (encVSrc a) (encVSrc b) :: encMod m
  | .cconj d a m => Raw.word 0x62#8 (encVDst d) (encVSrc a) 0#8 :: encMod m
  | .cbfly d a b m => Raw.word 0x63#8 (encVPairDst d) (encVPair a) (encVSrc b) :: encMod m
  | .ctwid d a b m => Raw.word 0x64#8 (encVDst d) (encVSrc a) (encImm b) :: encMod m
  | .fcvt d a b m => Raw.word 0x70#8 (encVDst d) (encVSrc a) (encCvtF b) :: encMod m
  | .ftoi d a b m => Raw.word 0x71#8 (encVDst d) (encVSrc a) (encCvtF b) :: encMod m
  | .itof d a b m => Raw.word 0x72#8 (encVDst d) (encVSrc a) (encCvtI b) :: encMod m
  | .pack d a b m => Raw.word 0x73#8 (encVDst d) (encVSrc a) (encVSrc b) :: encMod m
  | .unpk d a b m => Raw.word 0x74#8 (encVDst d) (encVSrc a) (encUnpkB b) :: encMod m
  | .mxq d a m => Raw.word 0x75#8 (encVDst d) (encVSrc a) 0#8 :: encMod m
  | .mxdq d a m => Raw.word 0x76#8 (encVDst d) (encVSrc a) 0#8 :: encMod m
  | .cbd d a b m => Raw.word 0x77#8 (encVDst d) (encVSrc a) (encCbdB b) :: encMod m
  | .vballot d a b => [Raw.word 0x80#8 (encVDst d) (encImm a) (encBit b)]
  | .vpopc d a b => [Raw.word 0x81#8 (encVDst d) (encVSrc a) (encBit b)]
  | .vshuf d a b => [Raw.word 0x82#8 (encVDst d) (encVSrc a) (encVSrc b)]
  | .vscan d a b => [Raw.word 0x83#8 (encVDst d) (encVSrc a) (encScanB b)]
  | .vred d a b => [Raw.word 0x84#8 (encVDst d) (encVSrc a) (encRedB b)]
  | .vbcast d a b => [Raw.word 0x85#8 (encVDst d) (encVSrc a) (encImm b)]
  | .vmovs d a b => [Raw.word 0x86#8 (encSDst d) (encVSrc a) (encImm b)]
  | .ldB d a b => [Raw.word 0x90#8 (encVFill d) (encSPair a) (encVSrc b)]
  | .ldH d a b => [Raw.word 0x91#8 (encVFill d) (encSPair a) (encVSrc b)]
  | .ldW d a b => [Raw.word 0x92#8 (encVFill d) (encSPair a) (encVSrc b)]
  | .ldAcq d a b => [Raw.word 0x93#8 (encVFill d) (encSPair a) (encMemImm b)]
  | .stB d a b => [Raw.word 0x94#8 (encVSrc d) (encSPair a) (encVSrc b)]
  | .stH d a b => [Raw.word 0x95#8 (encVSrc d) (encSPair a) (encVSrc b)]
  | .stW d a b => [Raw.word 0x96#8 (encVSrc d) (encSPair a) (encVSrc b)]
  | .stRel d a b => [Raw.word 0x97#8 (encVSrc d) (encSPair a) (encMemImm b)]
  | .lds d a b => [Raw.word 0x98#8 (encSDst d) (encSPair a) (encHintOnly b)]
  | .sts d a b => [Raw.word 0x99#8 (encSSrc d) (encSPair a) (encHintOnly b)]
  | .ldp d a b => [Raw.word 0x9A#8 (encVPairFill d) (encSPair a) (encVSrc b)]
  | .stp d a b => [Raw.word 0x9B#8 (encVPair d) (encSPair a) (encVSrc b)]
  | .ldsAcq d a b => [Raw.word 0x9C#8 (encSDst d) (encSPair a) (encMemImm b)]
  | .stsRel d a b => [Raw.word 0x9D#8 (encSSrc d) (encSPair a) (encMemImm b)]
  | .pref a b => [Raw.word 0x9E#8 0#8 (encSPair a) (encPrefImm b)]
  | .atomAdd d a b l => [Raw.word 0xA0#8 (encAtomDst d) (encSPair a) (encVSrc b), encAtomLit d.isSome l]
  | .atomMin d a b l => [Raw.word 0xA1#8 (encAtomDst d) (encSPair a) (encVSrc b), encAtomLit d.isSome l]
  | .atomMax d a b l => [Raw.word 0xA2#8 (encAtomDst d) (encSPair a) (encVSrc b), encAtomLit d.isSome l]
  | .atomAnd d a b l => [Raw.word 0xA3#8 (encAtomDst d) (encSPair a) (encVSrc b), encAtomLit d.isSome l]
  | .atomOr d a b l => [Raw.word 0xA4#8 (encAtomDst d) (encSPair a) (encVSrc b), encAtomLit d.isSome l]
  | .atomXor d a b l => [Raw.word 0xA5#8 (encAtomDst d) (encSPair a) (encVSrc b), encAtomLit d.isSome l]
  | .atomCas d a b l => [Raw.word 0xA6#8 (encAtomDst d) (encSPair a) (encVPair b), encAtomLit d.isSome l]
  | .atomXchg d a b l => [Raw.word 0xA7#8 (encAtomDst d) (encSPair a) (encVSrc b), encAtomLit d.isSome l]
  | .amaxx d a b => [Raw.word 0xA8#8 (encSDst d) (encSPair a) (encSSrc b)]
  | .fence sc => [Raw.word 0xA9#8 0#8 (0#5 ++ sc.code) 0#8]
  | .fenceAcq sc => [Raw.word 0xA9#8 0#8 (0#5 ++ sc.code) 1#8]
  | .fenceRel sc => [Raw.word 0xA9#8 0#8 (0#5 ++ sc.code) 2#8]
  | .bari d a b => [Raw.word 0xAA#8 (encCrewField d) (encSPair a) (encSSrc b)]
  | .barr d a b => [Raw.word 0xAB#8 (encSDst d) (encSPair a) (encBit b)]
  | .barw a b => [Raw.word 0xAC#8 0#8 (encSPair a) (encSSrc b)]
  | .bart d a b => [Raw.word 0xAD#8 (encSDst d) (encSPair a) (encSSrc b)]
  | .waitv d a b => [Raw.word 0xAE#8 (encSDst d) (encSPair a) (encSSrc b)]
  | .waitw d a => [Raw.word 0xAF#8 (encSDst d) (encImm a) 0#8]
  | .cpy d a b => [Raw.word 0xB0#8 (encSDst d) (encSPair a) (encCmdImm b)]
  | .cpys d a b => [Raw.word 0xB1#8 (encSDst d) (encSPair a) (encCmdImm b)]
  | .cbdc d a b => [Raw.word 0xB2#8 (encSDst d) (encSPair a) (encCmdImm b)]
  | .cpyam d a b => [Raw.word 0xB3#8 (encSDst d) (encSPair a) (encCmdImm b)]
  | .gath d a b => [Raw.word 0xB4#8 (encSDst d) (encSPair a) (encCmdImm b)]
  | .scat d a b => [Raw.word 0xB5#8 (encSDst d) (encSPair a) (encCmdImm b)]
  | .qfence b => [Raw.word 0xB6#8 0#8 0#8 (encQMask b)]
  | .shld d a b => [Raw.word 0xB7#8 (encSDst d) (encSPair a) (encShldImm b)]
  | .tldb a b => [Raw.word 0xC0#8 0#8 (encSSrc a) (encSSrc b)]
  | .tmma d a b => [Raw.word 0xC1#8 (encTile d) (encSSrc a) (encSSrc b)]
  | .tmmat d a b => [Raw.word 0xC2#8 (encTile d) (encSSrc a) (encSSrc b)]
  | .ttrn d a => [Raw.word 0xC3#8 (encTilePair d) (encTilePair a) 0#8]
  | .tscl d a b => [Raw.word 0xC4#8 (encTile d) (encTile a) (encSSrc b)]
  | .tzero d b => [Raw.word 0xC5#8 (encTile d) 0#8 (encImm b)]
  | .tadd d a b => [Raw.word 0xC6#8 (encTile d) (encTile a) (encTile b)]
  | .taccr d a b => [Raw.word 0xC7#8 (encVFill d) (encTile a) (encImm b)]
  | .taccw d a b => [Raw.word 0xC8#8 (encTile d) (encVSrc a) (encImm b)]
  | .taccs d a b => [Raw.word 0xC9#8 (encTile d) (encSSrc a) (encSSrc b)]
  | .taccl d a => [Raw.word 0xCA#8 (encTile d) (encSSrc a) 0#8]
  | .tmxs a => [Raw.word 0xCB#8 0#8 (encSSrc a) 0#8]
  | .tsync => [Raw.word 0xCC#8 0#8 0#8 0#8]
  | .trule d a b => [Raw.word 0xCD#8 (encSDst d) (encSPair a) (encSSrc b)]
  | .trwq d a b => [Raw.word 0xCE#8 (encSDst d) (encBit a) (encRwSel b)]
  | .stx d a b => [Raw.word 0xE0#8 (encVSrc d) (encSPair a) (encBit b)]
  | .ldx d a b => [Raw.word 0xE1#8 (encVFill d) (encSPair a) (encVSrc b)]
  | .amx d a b => [Raw.word 0xE2#8 (encVSrc d) (encSPair a) (encAmxImm b)]
  | .amxr d a b => [Raw.word 0xE3#8 (encVFill d) (encSPair a) (encAmxrImm b)]
  | .wake d a b => [Raw.word 0xE4#8 (encWakeD d) (encSSrc a) (encSSrc b)]
  | .xarr d => [Raw.word 0xE5#8 (encSDst d) 0#8 0#8]
  | .xwait d a => [Raw.word 0xE6#8 (encSDst d) (encSSrc a) 0#8]
  | .xfence d a => [Raw.word 0xE7#8 (encSDst d) (encSPair a) 0#8]
  | .nsend d a => [Raw.word 0xE8#8 (encSDst d) (encSPair a) 0#8]
  | .npost d a => [Raw.word 0xE9#8 (encSDst d) (encSPair a) 0#8]
  | .qpush d a b => [Raw.word 0xEA#8 (encSDst d) (encSPair a) (encSSrc b)]
  | .pathEndPop _ _ => []
  | .registerFill _ => []
  | .regangTimeout _ => []
  | .gangSwapOut _ _ => []
  | .gangRestore _ => []
  | .lateFaultReport _ => []
  | .trapEntry _ _ => []
  | .pageWalk _ _ => []
  | .storeDiePoint _ _ => []
  | .writeApplyAtDie _ _ => []
  | .reuseReport _ _ _ _ => []
  | .copySegment _ => []
  | .gatherBlock _ => []
  | .copyComplete _ => []
  | .tilePerform _ => []
  | .errorDetected _ => []
  | .selfTestEnd _ _ _ => []
  | .frequencyDecay _ => []
  | .nodeRefresh _ => []
  | .nodeRelease _ => []
  | .preemptionStop _ => []
  | .blockPlace _ => []
  | .stealRequest _ _ => []
  | .wavePreemption _ _ => []
  | .presenceRestore _ => []
  | .stagingCopy _ => []
  | .taskFinish _ => []
  | .bundlePhaseStart _ => []
  | .bundlePhaseRetire _ => []
  | .worldSwitch _ => []
  | .counterOverflow _ _ => []
  | .qtailDoorbell _ _ _ => []
  | .qcfgWrite _ _ _ => []
  | .cqheadWrite _ _ _ => []
  | .push _ _ => []
  | .load _ _ => []
  | .dma _ _ => []
  | .flush _ _ => []
  | .node _ _ => []
  | .prog _ _ => []
  | .home _ _ => []
  | .pte _ _ => []
  | .pool _ _ => []
  | .rules _ _ => []
  | .ctx _ _ => []
  | .offline _ _ => []
  | .online _ _ => []
  | .dbgStop _ _ => []
  | .dbgResume _ _ => []
  | .dbgStep _ _ => []
  | .dbgRead _ _ _ _ => []
  | .dbgWrite _ _ _ _ _ _ _ => []
  | .dbgAttach _ _ => []
  | .dbgDetach _ _ => []
  | .apertureAccess _ _ _ => []
  | .registerWrite _ _ _ => []
  | .fxquotaWrite _ => []
  | .fxidWrite _ => []
  | .lwDescriptorWrite _ _ => []
  | .deviceArrival => []
  | .crossingApply _ => []
  | .peerCrossingComplete _ _ => []
  | .landingEntryReceipt _ => []
  | .ldxRequestReceipt _ => []
  | .wakeReceipt _ => []
  | .fabricAck _ _ _ _ => []
  | .peerUnreachable _ => []
  | .integrityRetry _ _ => []
  | .timeBeacon _ => []
  | .checkpointGo => []
  | .checkpointStart _ => []
  | .checkpointDone => []
  | .networkPacketReceipt _ => []
  | .networkRequestComplete _ _ => []
  | .recoveryGo _ => []
  | .powerOn => []
  | .bootStepResult _ _ _ => []
  | .deviceReset => []
  | .functionReset _ => []
  | .tdispLock _ => []
  | .tdispRun _ => []
  | .getVersion => []
  | .getCapabilities => []
  | .negotiateAlgorithms _ => []
  | .getDigests => []
  | .getCertificate => []
  | .challenge _ => []
  | .getMeasurements _ => []
  | .keyExchange _ => []
  | .finish _ => []
  | .keyUpdate => []
  | .bootRecordClear => []
  | .firmwareUpdate _ => []
  | .pcapSet _ => []
  | .tempThrottle _ => []
  | .tempShutdown _ => []
  | .hbmTempRefresh _ => []
  | .dieToDieLinkRetraining _ _ => []
  | .fabricPacketSend _ _ => []
  | .networkPacketSend _ => []
  | .malformedPacket _ _ => []
  | .pcapLimitReached => []
  | .recoveryFetchEnd _ _ => []
  | .retryRequestReceipt _ => []
  | .waitvRecheck _ => []

/-- A little-endian byte list of a word (R3). -/
def wordBytes (w : Word) : List Byte := [w.extractLsb' 0 8, w.extractLsb' 8 8, w.extractLsb' 16 8, w.extractLsb' 24 8]

/-- The instruction whose first words hold the bits `w`, every bit above `nbits` 0 (the host's numbering: the least
significant bit of the first word is bit 0). Every instruction word is one 32-bit word; the operand word that may follow
it is its literal, here 0 where the bits of `w` do not reach it. -/
def decodeTableWord (nbits w : Nat) : Option Instr :=
  let v := w % 2 ^ nbits
  let x : Word := BitVec.ofNat 32 v
  let lit : Word := BitVec.ofNat 32 (v / 2 ^ 32)
  let exts : List Word := if opTakesLiteral (x.extractLsb' 24 8) then [lit] else []
  (decodeWords (x :: exts)).toOption

/-! ### The line (R49–R53) -/

/-- The version of a line header: bit [30] of VER, or none where VER is 0b10 or 0b11 (R50). -/
def headerVersion (h : Word) : Option Bool := if h.getLsbD 31 then none else some (h.getLsbD 30)

/-- The control code of word i, 1 to 15 (R50); a word 0 has none and reads as 0b10, which no transfer may reach (R65). -/
def headerCode (h : Word) (i : Nat) : BitVec 2 := if i = 0 then 2#2 else h.extractLsb' (2 * i - 2) 2

/-- How many extension words follow word i: the words after it that carry code 0b10 in the same line (R52, R56). `fuel`
is at least the number of words left in the line. -/
def extCount (h : Word) (i fuel : Nat) : Nat :=
  match fuel with
  | 0 => 0
  | f + 1 => if i + 1 < 16 ∧ headerCode h (i + 1) = 2#2 then 1 + extCount h (i + 1) f else 0

end Sys2Proof
end

