-- ==== Sys2Proof/Machine/Arith.lean ====
section
/-! DEFINITION. Numbers (spec/01_number_formats.md R7–R29): exact values, decoding, rounding, the flags of FSTAT, the
conversions to integers, the CB2 codebook, the K-row sum, the butterfly and the twiddle pair. -/

set_option Elab.async false

namespace Sys2Proof.Machine

/-- MODE.RND (R7). -/
inductive Rnd where
  | rne | rtz | rup | rdn | rna
deriving DecidableEq, Repr

/-- MODE.ETYPE (R7). -/
inductive EType where
  | fp32 | bf16 | fp16 | e4m3 | e5m2 | mxE4m3 | mxE5m2 | mxfp4 | int8 | int16 | int32 | cf32 | cbf16 | cb2
deriving DecidableEq, Repr

/-- The exception flags of FSTAT (R21). -/
structure Flags where
  nv : Bool
  dz : Bool
  of : Bool
  uf : Bool
  nx : Bool
deriving DecidableEq, Repr

/-- No exception. -/
def Flags.none : Flags := ⟨false, false, false, false, false⟩
/-- Invalid operation. -/
def Flags.invalid : Flags := ⟨true, false, false, false, false⟩
/-- Division by zero. -/
def Flags.divZero : Flags := ⟨false, true, false, false, false⟩
/-- Overflow, which is inexact too (R22). -/
def Flags.overflow : Flags := ⟨false, false, true, false, true⟩
/-- Inexact. -/
def Flags.inexact : Flags := ⟨false, false, false, false, true⟩
/-- Underflow, which is inexact too (R20, R22). -/
def Flags.underflow : Flags := ⟨false, false, false, true, true⟩

/-- The exceptions of both (R21). -/
def Flags.or (a b : Flags) : Flags := ⟨a.nv || b.nv, a.dz || b.dz, a.of || b.of, a.uf || b.uf, a.nx || b.nx⟩

/-- FSTAT [4:0] (R21). -/
def Flags.bits (f : Flags) : Word :=
  0#27 ++ BitVec.ofBool f.nv ++ BitVec.ofBool f.dz ++ BitVec.ofBool f.of ++ BitVec.ofBool f.uf ++ BitVec.ofBool f.nx

/-- An exact value: NaN (signalling or quiet), ±∞, or (−1)^neg × m × 2^e, where m = 0 is a signed zero (R22). -/
inductive FVal where
  | nan (sig : Bool)
  | inf (neg : Bool)
  | fin (neg : Bool) (m : Nat) (e : Int)
deriving DecidableEq, Repr

/-- A quiet NaN. -/
def FVal.qnan : FVal := .nan false
/-- A zero of the given sign. -/
def FVal.zero (neg : Bool) : FVal := .fin neg 0 0

/-- The value of an integer; 0 is +0. -/
def FVal.ofInt (v : Int) : FVal := .fin (decide (v < 0)) v.natAbs 0

def FVal.isNan (v : FVal) : Bool :=
  match v with
  | .nan _ => true
  | _ => false

def FVal.isSig (v : FVal) : Bool :=
  match v with
  | .nan s => s
  | _ => false

def FVal.isInf (v : FVal) : Bool :=
  match v with
  | .inf _ => true
  | _ => false

def FVal.isZero (v : FVal) : Bool :=
  match v with
  | .fin _ m _ => m == 0
  | _ => false

/-- The sign of a value; a NaN has none. -/
def FVal.isNeg (v : FVal) : Bool :=
  match v with
  | .nan _ => false
  | .inf n => n
  | .fin n _ _ => n

/-- −v (R58): a NaN stays NaN. -/
def FVal.negate (v : FVal) : FVal :=
  match v with
  | .nan s => .nan s
  | .inf n => .inf (!n)
  | .fin n m e => .fin (!n) m e

/-- |v| (R58). -/
def FVal.abs (v : FVal) : FVal :=
  match v with
  | .nan s => .nan s
  | .inf _ => .inf false
  | .fin _ m e => .fin false m e

/-- v × 2^k, exact; ±∞, NaN and ±0 unchanged (R58). -/
def FVal.scale (v : FVal) (k : Int) : FVal :=
  match v with
  | .fin n m e => .fin n m (e + k)
  | w => w

/-- m × 2^e as an integer in units of 2^q, where q ≤ e. -/
def unitsAt (m : Nat) (e q : Int) : Nat := m * 2 ^ (e - q).toNat

/-- The signed mantissa in units of 2^q, where q ≤ e. -/
def signedAt (neg : Bool) (m : Nat) (e q : Int) : Int :=
  if neg then - (unitsAt m e q : Int) else (unitsAt m e q : Int)

/-- The sign of an exact zero sum (R23). -/
def zeroSumSign (rm : Rnd) (na nb : Bool) : Bool :=
  if na == nb then na else rm == .rdn

/-- a + b, exact, with the exceptions of R11 and R23. -/
def FVal.add (rm : Rnd) (a b : FVal) : FVal × Flags :=
  match a, b with
  | .nan s, .nan t => (.qnan, if s || t then .invalid else .none)
  | .nan s, _ => (.qnan, if s then .invalid else .none)
  | _, .nan t => (.qnan, if t then .invalid else .none)
  | .inf n, .inf k => if n == k then (.inf n, .none) else (.qnan, .invalid)
  | .inf n, .fin _ _ _ => (.inf n, .none)
  | .fin _ _ _, .inf k => (.inf k, .none)
  | .fin n m e, .fin k l f =>
    let q := min e f
    let v := signedAt n m e q + signedAt k l f q
    if v = 0 then (.zero (if m = 0 ∧ l = 0 then zeroSumSign rm n k else rm == .rdn), .none)
    else (.fin (decide (v < 0)) v.natAbs q, .none)

/-- a × b, exact (R11). -/
def FVal.mul (a b : FVal) : FVal × Flags :=
  match a, b with
  | .nan s, .nan t => (.qnan, if s || t then .invalid else .none)
  | .nan s, _ => (.qnan, if s then .invalid else .none)
  | _, .nan t => (.qnan, if t then .invalid else .none)
  | .inf n, .inf k => (.inf (n != k), .none)
  | .inf n, .fin k m _ => if m = 0 then (.qnan, .invalid) else (.inf (n != k), .none)
  | .fin n m _, .inf k => if m = 0 then (.qnan, .invalid) else (.inf (n != k), .none)
  | .fin n m e, .fin k l f => (.fin (n != k) (m * l) (e + f), .none)

/-- −1, 0 or 1 as a is below, equal to or above b; none if either is NaN. ±0 are equal. -/
def FVal.cmp (a b : FVal) : Option Int :=
  match a, b with
  | .nan _, _ => none
  | _, .nan _ => none
  | .inf n, .inf k => some (if n == k then 0 else if n then -1 else 1)
  | .inf n, .fin _ _ _ => some (if n then -1 else 1)
  | .fin _ _ _, .inf k => some (if k then 1 else -1)
  | .fin n m e, .fin k l f =>
    let q := min e f
    some (signedAt n m e q - signedAt k l f q).sign

/-- a < b, false for NaN. -/
def FVal.lt (a b : FVal) : Bool := a.cmp b == some (-1)

/-! ### Formats (R10) -/

/-- Width in bits. -/
def fmtWidth (f : FpFmt) : Nat :=
  match f with
  | .fp32 => 32 | .bf16 => 16 | .fp16 => 16 | .e4m3 => 8 | .e5m2 => 8 | .e2m1 => 4

/-- Width of F. -/
def fbits (f : FpFmt) : Nat :=
  match f with
  | .fp32 => 23 | .bf16 => 7 | .fp16 => 10 | .e4m3 => 3 | .e5m2 => 2 | .e2m1 => 1

/-- Width of E. -/
def ebits (f : FpFmt) : Nat := fmtWidth f - fbits f - 1

/-- The exponent bias. -/
def bias (f : FpFmt) : Nat :=
  match f with
  | .fp32 => 127 | .bf16 => 127 | .fp16 => 15 | .e4m3 => 7 | .e5m2 => 15 | .e2m1 => 1

/-- 1 − bias (R22). -/
def emin (f : FpFmt) : Int := 1 - (bias f : Int)

def hasInf (f : FpFmt) : Bool :=
  match f with
  | .fp32 | .bf16 | .fp16 | .e5m2 => true
  | .e4m3 | .e2m1 => false

/-- Whether R20 flushes subnormals of the format. -/
def ftzFmt (f : FpFmt) : Bool :=
  match f with
  | .fp32 | .bf16 | .fp16 => true
  | .e4m3 | .e5m2 | .e2m1 => false

/-- The pattern of the largest finite value (R10). -/
def maxBits (f : FpFmt) : Nat :=
  match f with
  | .fp32 => 0x7F7FFFFF | .bf16 => 0x7F7F | .fp16 => 0x7BFF | .e4m3 => 0x7E | .e5m2 => 0x7B | .e2m1 => 0x7

/-- The pattern of +∞, for the formats that have it (R10). -/
def infBits (f : FpFmt) : Nat :=
  match f with
  | .fp32 => 0x7F800000 | .bf16 => 0x7F80 | .fp16 => 0x7C00 | .e5m2 => 0x7C | .e4m3 => 0x7E | .e2m1 => 0x7

/-- qnan(f) (R10, R22); E2M1 has none, and +0 stands. -/
def qnanBits (f : FpFmt) : Nat :=
  match f with
  | .fp32 => 0x7FC00000 | .bf16 => 0x7FC0 | .fp16 => 0x7E00 | .e4m3 => 0x7F | .e5m2 => 0x7E | .e2m1 => 0

/-- The sign bit's weight. -/
def signWeight (f : FpFmt) (neg : Bool) : Nat := if neg then 2 ^ (fmtWidth f - 1) else 0

/-- The largest finite value (R10). -/
def maxFin (f : FpFmt) : Nat × Int :=
  match f with
  | .fp32 => (2 ^ 24 - 1, 104)
  | .bf16 => (2 ^ 8 - 1, 120)
  | .fp16 => (2 ^ 11 - 1, 5)
  | .e4m3 => (14, 5)
  | .e5m2 => (7, 13)
  | .e2m1 => (3, 1)

/-- dec(x, f) (R10, R11, R20, R22): the low bits of x as a pattern of f. -/
def decFp (f : FpFmt) (ftz : Bool) (x : Nat) : FVal :=
  let fr := x % 2 ^ fbits f
  let ex := x / 2 ^ fbits f % 2 ^ ebits f
  let neg := x / 2 ^ (fmtWidth f - 1) % 2 == 1
  let allOnes := ex == 2 ^ ebits f - 1
  if hasInf f && allOnes then
    if fr = 0 then .inf neg
    else .nan (ftzFmt f && decide (fr < 2 ^ (fbits f - 1)))
  else if f == .e4m3 && allOnes && fr == 7 then .nan false
  else if ex = 0 then
    if ftz && ftzFmt f then .zero neg
    else if fr = 0 then .zero neg
    else .fin neg fr (emin f - fbits f)
  else .fin neg (fr + 2 ^ fbits f) ((ex : Int) - bias f - fbits f)

/-- floor(log2 (m × 2^e)) for m ≠ 0 (R22). -/
def expoOf (m : Nat) (e : Int) : Int := (Nat.log2 m : Int) + e

/-- m × 2^e rounded to a multiple of 2^q in the direction of rm (R18), in units of 2^q, and whether that is exact. -/
def roundUnits (rm : Rnd) (neg : Bool) (m : Nat) (e q : Int) : Nat × Bool :=
  if q ≤ e then (unitsAt m e q, true)
  else
    let d := 2 ^ (q - e).toNat
    let t := m / d
    let r := m % d
    let up := match rm with
      | .rne => decide (d < 2 * r) || (decide (2 * r = d) && t % 2 == 1)
      | .rna => decide (d ≤ 2 * r)
      | .rtz => false
      | .rup => !neg && decide (r ≠ 0)
      | .rdn => neg && decide (r ≠ 0)
    (if up then t + 1 else t, decide (r = 0))

/-- The outcome of an overflow (R19). -/
def overflowBits (f : FpFmt) (rm : Rnd) (sat neg : Bool) : Nat :=
  let toInf := match rm with
    | .rne | .rna => true
    | .rtz => false
    | .rup => !neg
    | .rdn => neg
  if sat || f == .e2m1 || !toInf then signWeight f neg + maxBits f
  else if hasInf f then signWeight f neg + infBits f
  else qnanBits f

/-- The pattern of t × 2^q, where 2^q is the quantum round_fp uses and t × 2^q does not exceed the largest finite value. -/
def encodeUnits (f : FpFmt) (neg : Bool) (t : Nat) (q : Int) : Nat :=
  -- below 2^(fbits+1) units at the subnormal quantum, the pattern is the count of units; above, the exponent counts on
  let shift := (q - (emin f - fbits f)).toNat
  signWeight f neg + (if t = 0 then 0 else shift * 2 ^ fbits f + t)

/-- round_fp (R22). -/
def roundFp (f : FpFmt) (rm : Rnd) (sat ftz : Bool) (v : FVal) : Nat × Flags :=
  match v with
  | .nan _ => (qnanBits f, if f == .e2m1 then .invalid else .none)
  | .inf n =>
    if hasInf f then (signWeight f n + infBits f, .none)
    else if f == .e4m3 && !sat then (qnanBits f, .none)
    else (signWeight f n + maxBits f, .none)
  | .fin n m e =>
    if m = 0 then (signWeight f n, .none)
    else
      let ex := expoOf m e
      let tiny := decide (ex < emin f)
      let q := max ex (emin f) - fbits f
      let (t, exact) := roundUnits rm n m e q
      let (mm, me) := maxFin f
      let lo := min q me
      if unitsAt mm me lo < unitsAt t q lo then (overflowBits f rm sat n, .overflow)
      else
        let fl : Flags := ⟨false, false, false, tiny && !exact, !exact⟩
        if ftz && ftzFmt f && t != 0 && decide (q = emin f - fbits f ∧ t < 2 ^ fbits f) then (signWeight f n, fl.or .underflow)
        else (encodeUnits f n t q, fl)

/-! ### Integers (R13, R22, R24) -/

/-- wrap_int. -/
def wrapInt (v : Int) (n : Nat) : Int := (v + 2 ^ (n - 1)) % 2 ^ n - 2 ^ (n - 1)

/-- sat_int. -/
def satInt (v : Int) (n : Nat) : Int := max (-(2 ^ (n - 1))) (min v (2 ^ (n - 1) - 1))

/-- int_res. -/
def intRes (v : Int) (n : Nat) (sat : Bool) : Int := if sat then satInt v n else wrapInt v n

/-- The two's complement pattern of v in n bits. -/
def intBits (v : Int) (n : Nat) : Nat := (v % 2 ^ n).toNat

/-- The signed value of an n-bit pattern. -/
def intOfBits (x n : Nat) : Int :=
  let y := x % 2 ^ n
  if 2 ^ (n - 1) ≤ y then (y : Int) - 2 ^ n else y

/-- An exact dyadic (−1)^neg × m × 2^e rounded to an integer, and whether that is exact. -/
def roundToInt (rm : Rnd) (neg : Bool) (m : Nat) (e : Int) : Int × Bool :=
  let (t, exact) := roundUnits rm neg m e 0
  (if neg then -(t : Int) else t, exact)

/-- cvt_int (R22). -/
def cvtInt (n : Nat) (rm : Rnd) (v : FVal) : Int × Flags :=
  match v with
  | .nan _ => (0, .invalid)
  | .inf neg => (if neg then -(2 ^ (n - 1)) else 2 ^ (n - 1) - 1, .invalid)
  | .fin neg m e =>
    let (i, exact) := roundToInt rm neg m e
    let c := satInt i n
    if c = i then (i, if exact then .none else .inexact) else (c, .invalid)

/-! ### Block scales and the codebook (R12, R15–R17) -/

/-- A block scale with MODE.FSEL[16] applied (R12): none is NaN. -/
def scaleExp (s : Nat) (unit : Bool) : Option Int :=
  if unit then some 0 else if s = 255 then none else some ((s : Int) - 127)

/-- mx_dec (R22). -/
def mxDec (f : FpFmt) (unit : Bool) (s x : Nat) : FVal :=
  match scaleExp s unit with
  | none => .qnan
  | some k => (decFp f false x).scale k

/-- Weight i of a CB2 index under a shell-table entry and a block scale (R15). -/
def cb2Weight (entry : Word) (idx : BitVec 16) (s : Nat) (i : Nat) : FVal :=
  let half := if idx.getLsbD 0 then 1 else 0
  let sign := idx.extractLsb' 1 7
  let odd := (List.range 7).foldl (fun acc j => acc ^^ sign.getLsbD j) false
  let neg := if i < 7 then sign.getLsbD i else odd
  let m := 2 * (entry.extractLsb' (4 * i) 4).toNat + half
  if s = 255 then .qnan
  else if m = 0 then .zero false
  else .fin neg m ((s : Int) - 127 - 3)

/-- A CB2 weight rounded to FP8 or BF16 (R17): RNE, overflow to the largest finite value, and +0 below the smallest
subnormal. -/
def cb2Round (f : FpFmt) (v : FVal) : Nat :=
  let (x, _) := roundFp f .rne true false v
  if x = signWeight f true then 0 else x

/-! ### Reductions (R25) -/

/-- One level of the pairwise tree: an inactive position contributes nothing. -/
def treeLevel {α : Type} (op : α → α → α) (xs : List (Option α)) : List (Option α) :=
  match xs with
  | x :: y :: rest =>
    (match x, y with
     | some a, some b => some (op a b)
     | some a, none => some a
     | none, some b => some b
     | none, none => none) :: treeLevel op rest
  | [x] => [x]
  | [] => []

/-- tree_red over 2^lev positions (R25); none where no position is active. -/
def treeRed {α : Type} (op : α → α → α) (lev : Nat) (xs : List (Option α)) : Option α :=
  match lev with
  | 0 => xs.headD none
  | k + 1 => treeRed op k (treeLevel op xs)

/-! ### The matrix K-row sum (R26) -/

/-- trunc_at of a finite value, in units of 2^q. -/
def truncAt (v : FVal) (q : Int) : Int :=
  match v with
  | .fin n m e =>
    let t : Nat := if q ≤ e then unitsAt m e q else m / 2 ^ (q - e).toNat
    if n then -(t : Int) else t
  | _ => 0

/-- The largest expo over the non-zero terms. -/
def maxExpo (ts : List FVal) : Option Int :=
  ts.foldl (fun acc t => match t with
    | .fin _ m e => if m = 0 then acc else match acc with
      | none => some (expoOf m e)
      | some x => some (max x (expoOf m e))
    | _ => acc) none

/-- kro_sum (R26): the FP32 pattern. -/
def kroSum (rm : Rnd) (sat ftz : Bool) (c : FVal) (ps : List FVal) : Nat :=
  let ts := c :: ps
  if ts.any FVal.isNan || (ts.any (· == .inf true) && ts.any (· == .inf false)) then qnanBits .fp32
  else if ts.any (· == .inf true) then signWeight .fp32 true + infBits .fp32
  else if ts.any (· == .inf false) then infBits .fp32
  else match maxExpo ts with
  | none => if ts.all FVal.isNeg || rm == .rdn then signWeight .fp32 true else 0
  | some x =>
    let q := x - 36
    let s := ts.foldl (fun acc t => acc + truncAt t q) 0
    if s = 0 then (if rm == .rdn then signWeight .fp32 true else 0)
    else (roundFp .fp32 rm sat ftz (.fin (decide (s < 0)) s.natAbs q)).1

/-! ### Butterfly and twiddle (R29) -/

/-- a × b + c × d with one rounding at the end: exact here. -/
def FVal.dot2 (rm : Rnd) (a b c d : FVal) : FVal × Flags :=
  let (x, f) := a.mul b
  let (y, g) := c.mul d
  let (z, h) := FVal.add rm x y
  (z, (f.or g).or h)

/-- 2π × 2^200, rounded down. -/
def tau200 : Nat := 10096689509235987743946820282484873672429286842977325943070736

/-- cos and sin of x × 2^−200 in units of 2^−200, for x at most π/2: `k` more pairs of terms of the two series, the current
terms being c and s (of the signs of `neg`). -/
def cosSinSeries (x : Nat) (k i : Nat) (neg : Bool) (c s : Nat) (cs ss : Int) : Int × Int :=
  match k with
  | 0 => (cs, ss)
  | k + 1 =>
    let cs' := if neg then cs - c else cs + c
    let ss' := if neg then ss - s else ss + s
    let c' := s * x / 2 ^ 200 / (i + 2)
    let s' := c' * x / 2 ^ 200 / (i + 3)
    cosSinSeries x k (i + 2) (!neg) c' s' cs' ss'

/-- twiddle(k, n) (R29). The quarter turn is split off exactly; the series is taken to 200 bits, far below the distance of
any of its values from a rounding boundary. -/
def twiddle (k n : Nat) : Word × Word :=
  let j := k % 2 ^ n
  let quarter := 4 * j / 2 ^ n
  let r := 4 * j % 2 ^ n
  let x := tau200 * r / 2 ^ n / 4
  let (c, s) := if r = 0 then ((2 ^ 200 : Int), (0 : Int)) else cosSinSeries x 40 0 false (2 ^ 200) x 0 0
  let (co, si) := match quarter with
    | 0 => (c, s)
    | 1 => (-s, c)
    | 2 => (-c, -s)
    | _ => (s, -c)
  let bits (v : Int) : Word :=
    if v = 0 then 0#32
    else BitVec.ofNat 32 (roundFp .fp32 .rne false false (.fin (decide (v < 0)) v.natAbs (-200))).1
  (bits co, bits (-si))

end Sys2Proof.Machine
end

