-- ==== Sys2Proof/Config.lean ====
section
/-! DEFINITION. What one part fixes and the spec leaves open: free values, opaque so that no proof can use a value of them
(log 3). Each is applied to the operands it depends on, or to the counter `ticks` of State. -/

set_option Elab.async false

namespace Sys2Proof.Config

/-- How far the time-stamp counter has gone on since the last reading of it (R85, log 4). -/
opaque clockAdvance : Nat → BitVec 64

/-- The approximation instructions pick a value inside the bound of R118; which one is the part's own (log 13): the
operation's opcode byte and the source pattern give a candidate pattern. -/
opaque approx : BitVec 8 → BitVec 32 → BitVec 32

/-- The case code a failed check of RETR or RETT reports inside its double fault: supervisor segment, s62, s63, LATE (R173). -/
opaque retCase : Fin 4 → BitVec 8

/-- What the reply of a remote access holds whose word has no translation at its target (R349, R351). -/
opaque lostReply : Nat → BitVec 32

/-- Which pieces of a failing segment or block an engine has written all the same (R238), at a reading of `ticks`. -/
opaque partWritten : Nat → Nat → Bool

/-- The traffic class of a packet of the fabric or the network, by its number (R294). -/
opaque trafficClass : Nat → BitVec 16

/-- The length of a packet in flits, by its number (R294, R341). -/
opaque packetFlits : Nat → BitVec 16

/-- What a block of memory holds for a reader of another key than it was written under: the two keys, the block and its content
(R332). -/
opaque cipher : Nat → Nat → Nat → BitVec 128 → BitVec 128

/-- The translator of the pilot cores (R71): the native lines of a portable object under a firmware image, and for each record the
offset of its native instruction. -/
opaque translate : List (BitVec 8) → List (BitVec 8) → List (BitVec 8) × List (BitVec 32)

/-- How many granules an evacuation moves in the milliseconds it is allowed (R282), at a reading of `ticks`. -/
opaque evacuated : Nat → Nat → Nat

/-- Whether a report ring counts as full, at a reading of `ticks`: the spec names no register of its consumer (R268, R325). -/
opaque reportRingFull : Nat → Bool

/-- How long a head of an inner node has waited for room when it leaves, in ns (R311, log 17), at a reading of `ticks`. -/
opaque headWait : Nat → BitVec 48

/-- The clk a core stalled on an unboarded head until it was boarded (R311, log 17), at a reading of `ticks`. -/
opaque boardStall : Nat → BitVec 48

/-- What a counter of clk, stall or memory traffic has gone on by since it was last looked at, besides what the steps count (R328, log 17),
at a reading of `ticks`, for a context and a counter. -/
opaque timedCount : Nat → Nat → Nat → BitVec 48

/-- The bank of an L3 that a line goes to, by its number VA[55:7] (R254). -/
opaque l3Bank : Nat → Nat

/-- Which line, or which translation, a full cache gives up (R254, R261), at a reading of `ticks`. -/
opaque victim : Nat → Nat

/-- Whether a non-ordering or quantum atomic read is answered from its die's copy (R159), at a reading of `ticks`. -/
opaque fromCopy : Nat → Bool

/-- Which bytes of two DMAs of one function on their way to one range are the earlier one's (R340), at a reading of `ticks`. -/
opaque dmaEarlier : Nat → Nat → Bool

/-- The measurement of a part of the package by its index, under a firmware image (R331, log 20). -/
opaque measure : Nat → List (BitVec 8) → BitVec 384

/-- The SPDM message that answers a request, by the request's number, a reading of `ticks`, and what it reports (R331). -/
opaque spdmMessage : Nat → Nat → List (BitVec 8) → List (BitVec 8)

/-- The error-log index of a wave's end where the host, and no error, takes its domain away (R166, R281), at a reading of `ticks`. -/
opaque orderedIndex : Nat → BitVec 16

/-- Whether a compute die's thermal limits or the package limit stand against a step up (R278, R338, R339), at a reading of `ticks`, for a
die: the sensors are no state of the machine (log 78). -/
opaque overLimit : Nat → Nat → Bool

/-- What the log entry of a shutdown holds in LOC, UNIT, CLASS and KIND (R338), at a reading of `ticks`. -/
opaque shutdownEntry : Nat → BitVec 56

end Sys2Proof.Config
end

