-- ==== Sys2Proof/Machine/State.lean ====
section
/-! DEFINITION. The state of the machine as plain data: one Avsan S7 of a pod, with everything its manual names
(INVENTORY.md lists each field with its rule), the reasons a step can stop, and the state after reset. -/

set_option Elab.async false

namespace Sys2Proof.Machine

/-! ### Memory -/

/-- A memory: the bytes that differ from 0, by rising address. An unlisted address reads 0 (log 5). -/
abbrev Mem := List Host.Cell

/-! ### The slice (R30) -/

/-- A vector register with its full/empty bit (R30, R34). -/
structure VCell where
  val : Lanes
  full : Bool
deriving DecidableEq, Repr

/-- A scalar register with its full/empty bit and the check mark of an engine token (R30, R34, R239). -/
structure SCell where
  val : Word
  full : Bool
  mark : Bool
deriving DecidableEq, Repr

/-- A reconvergence-stack entry (R37). -/
structure StackEntry where
  mode : Word
  mask : BitVec 4
  pending : Bool
  pc : DWord
deriving DecidableEq, Repr

/-- A register that carries a full/empty bit, by its storage: `b` is the supervisor bank s60–s63 (R168). `gone` stands for a
destination that the debugger wrote over its pending fill (R180). -/
inductive RegName where
  | v (n : Fin 96)
  | o (n : Fin 16)
  | s (n : Fin 64)
  | b (n : Fin 4)
  | gone
deriving DecidableEq, Repr

/-- What a trap records (R164–R166); `ended` is a wave end that no handler takes. -/
structure TrapRec where
  group : BitVec 5
  case : BitVec 8
  field : BitVec 8
  mid : BitVec 16
  low : DWord
  lanes : BitVec 4
  tpc : DWord
  late : Bool
  reg : Option RegName
deriving DecidableEq, Repr

/-- Where a slice is: in its slot, or in an image of its context's save arena (R45, R310, R311, R327). -/
inductive Place where
  | resident
  | swapped
  | saved
deriving DecidableEq, Repr

/-- A slice (R30), with the registers an exception saves into (R165), its supervisor bank (R168), the hidden region state
(R170), the stamp of its latest acquire of die scope or wider (R159), and the debugger's hold on it (R179). `taken` is what the trap being
handled was, whatever its handler writes to the trap registers (R165): [15:8] CASE, [7] LATE, [4:0] GROUP. -/
structure Slice where
  sid : Nat
  wave : Word
  idx : Word
  core : Nat
  slot : Nat
  place : Place
  pc : DWord
  v : Vector VCell 96
  o : Vector VCell 16
  w : Vector Lanes 4
  s : Vector SCell 64
  bank : Vector SCell 4
  p : Vector (BitVec 4) 8
  mode : Word
  fstat : Word
  stack : List StackEntry
  sup : List StackEntry
  amask : BitVec 4
  crews : BitVec 32
  rgnpc : DWord
  rgncnt : Word
  rgnMask : BitVec 4
  rgnDepth : Nat
  tcause : Word
  tdet : BitVec 96
  tpc : DWord
  taken : BitVec 16
  pend : Option TrapRec
  late : Bool
  acqAt : Nat
  stopped : Bool
  stepping : Bool
deriving DecidableEq, Repr

/-! ### Gangs (R40–R48) -/

/-- Why a gang does not issue. -/
inductive GangWait where
  /-- It issues (R48). -/
  | ready
  /-- Parked on an empty register of a member (R35, R36, R45). -/
  | parked (sid : Nat) (reg : RegName)
  /-- In an open REGANG instance (R42). -/
  | regang (id : Nat)
  /-- Waiting at the BARW at `pc`: the slices registered as waiters, each with its word (R191). -/
  | barw (pc : DWord) (words : List (Nat × Nat))
  /-- Held by a full queue, a limit or a pending translation until the machine has moved on; it keeps its place in the order.
  `fresh` says that the step that held it is not over (R48, log 48). -/
  | held (fresh : Bool)
  /-- A member waits for its trap entry (R167). -/
  | trap
deriving DecidableEq, Repr

/-- A gang: the slices of one octet that issue together, by rising slot (R40). `since` is the stamp at which it became ready, or, while it
is parked or waits at a barrier, at which that wait began (R45, R48); `passed` counts the issues of its core that have passed it over (R48). -/
structure Gang where
  gid : Nat
  core : Nat
  octet : Nat
  members : List Nat
  wait : GangWait
  since : Nat
  passed : Nat
deriving DecidableEq, Repr

/-- An open REGANG instance (R42): its block is (wave, first index). -/
structure RegangInst where
  id : Nat
  wave : Word
  block : Word
  pc : DWord
  arrived : List Nat
  timed : Bool
deriving DecidableEq, Repr

/-- The instruction a gang issues: what fetch and decode latched. -/
structure Cur where
  gid : Nat
  pc : DWord
  nxt : DWord
  word : Word
  yields : Bool
deriving DecidableEq, Repr

/-! ### Outstanding accesses (R31, R144, R149, R154, R172) -/

/-- The four windows (R138). -/
inductive Window where
  | global | fabric | accum | scratch
deriving DecidableEq, Repr

/-- A leaf entry (R263). -/
structure Leaf where
  frame : Nat
  size : Fin 3
  glb : Bool
  x : Bool
  w : Bool
  r : Bool
deriving DecidableEq, Repr

/-- One access of one lane: `lane` is the lane of the slice, `addr` the generic address, `data` the bytes stored or the
operand, `cmp` the compare operand of CAS, `xlat` the translation the access keeps once its slice has relied on it (R92, R170, R172). -/
structure LaneAcc where
  sid : Nat
  slot : Nat
  lane : Fin 4
  addr : DWord
  data : DWord
  cmp : Word
  xlat : Option Leaf
deriving DecidableEq, Repr

/-- The part of one slice in an outstanding operation: its PC, the lanes that were active, the destination, and the region and the
MODE.SUP the slice was in (R170). -/
structure Part where
  sid : Nat
  slot : Nat
  pc : DWord
  mask : BitVec 4
  dst : List RegName
  region : Word
  sup : Bool
deriving DecidableEq, Repr

/-- What an outstanding operation does when it is performed. -/
inductive TxnKind where
  | load (acq : Option Scope)
  | store (rel : Option Scope)
  | atomic (op : AtomOp) (ty : AtomTy) (use : AtomUse) (ord : AtomOrd) (scope : Scope) (read : Bool)
  | amaxx
  | fence (acq rel : Bool) (scope : Scope) (after : List Nat)
  | barr (budg : Bool)
  | bart (phase : Bool)
  | waitw (mailbox : Fin 64)
  | waitv (threshold : Word)
  | qpush (record : DWord) (node : Word)
  | fpool (big : Bool) (dom : Fin 4)
  | ptew (va entry : DWord)
  | trule (index : Word)
  | trwq (sel : RwSel) (clr : Bool)
  | taccr (entry : Nat)
  | command (id : Nat)
  | token (id : Nat)
  | stx (mc : Bool)
  | amx (op : AmOp) (mc : Bool)
  | ldx
  | amxr (op : AmOp)
  | wake (mailbox : Fin 64) (deferred : Bool) (peer : BitVec 9) (value : Word)
  | xarr
  | xwait (step : Word)
  | xfence
  | nsend (req : DWord)
  | npost (req : DWord)
deriving DecidableEq, Repr

/-- An outstanding operation of a gang, of a scalar instruction of one slice, or a fence. `size` is the bytes of one lane's
access; `atCore` is the place of a store in the order of the core points once it has reached its own, `seen` the slices that have read it there
(R149); `step` is the fabric step it
issued in (R351), and `accepted` that the fabric engine has accepted it (R344). -/
structure Txn where
  id : Nat
  kind : TxnKind
  core : Nat
  ctx : Fin 17
  wave : Word
  size : Nat
  scalar : Bool
  parts : List Part
  lanes : List LaneAcc
  atCore : Option Nat
  seen : List Nat
  step : Nat
  accepted : Bool
deriving DecidableEq, Repr

/-- A page with its first faulter (R176): the slice that faulted, with the trap's group and case. Once its leaf is installed, others
are not held any more, and `installed` lists the operations of the slice that have faulted. -/
structure FirstFault where
  asid : BitVec 16
  page : Nat
  sid : Nat
  installed : Option (List Nat)
  group : BitVec 5
  case : BitVec 8
deriving DecidableEq, Repr

/-! ### Translation, lines and dies (R254–R275) -/

/-- A TLB entry: the controller whose TLB holds it, the ASID and address range it was walked for (R261). -/
structure TlbEntry where
  ctl : Nat
  asid : BitVec 16
  va : Nat
  leaf : Leaf
deriving DecidableEq, Repr

/-- A data cache that may hold a line (R254): the L1 of a core, the L2 of a domain, the L3 of the line's home. -/
inductive Cache where
  | l1 (core : Nat)
  | l2 (dom : Nat)
  | l3
deriving DecidableEq, Repr

/-- The permission bits a line carries in one cache (R255). -/
structure LineBits where
  cache : Cache
  x : Bool
  w : Bool
  r : Bool
deriving DecidableEq, Repr

/-- A location of 128 bytes that has been filled since its last range flush (R254, R255, R257): its tag, the frame bytes it was filled
from, whether its data differs from memory, and the caches that hold the line, each with its permission bits. Its data is in `cdata`;
it stays the location's data while no cache holds the line (R257, R324; log 10). -/
structure Line where
  asid : BitVec 16
  va : Nat
  pa : Nat
  dirty : Bool
  bits : List LineBits
deriving DecidableEq, Repr

/-- The copy of a word that a die keeps from an atomic read (R159): the value its home held at the stamp and the time named. `barred` are
the slices that have known a later value, or accessed the word since, to which it would show an older one (R149). -/
structure AtomCopy where
  die : Fin 5
  asid : BitVec 16
  va : Nat
  word : Word
  stamp : Nat
  time : DWord
  barred : List Nat
deriving DecidableEq, Repr

/-- A write to the global window on its way to the other dies (R269–R271): 0–3 are compute domains, 4 the command die.
`by_` are the slices whose own write it is, `seen` those that have read it; `hdie` is the home of its address, 4 for none, and `home`
its position in the home order, once known. -/
structure DieWrite where
  id : Nat
  asid : BitVec 16
  va : Nat
  bytes : List Byte
  die : Fin 5
  applied : BitVec 5
  deps : List Nat
  by_ : List Nat
  seen : List Nat
  hdie : Nat
  home : Option Nat
deriving DecidableEq, Repr

/-- A line of an instruction cache: a copy of 64 bytes of code as 16 words (R66). -/
structure ILine where
  core : Nat
  asid : BitVec 16
  va : Nat
  words : Vector Word 16
deriving DecidableEq, Repr

/-! ### The core (R182–R198) -/

/-- A wave's shares on a core, each a base and a length: scratchpad bytes, tiles, B-stack rows (R183). -/
structure Share where
  wave : Word
  spad : Nat
  spadLen : Nat
  acct : Nat
  acctLen : Nat
  rows : Nat
  rowsLen : Nat
deriving DecidableEq, Repr

/-- An entry of the crew barrier table: the wave the crew is bound to, the barrier word (an offset in the wave's scratchpad share)
it is bound to, and EXTRA (R43, R193). -/
structure CrewEntry where
  wave : Word
  word : Option Nat
  extra : Nat
deriving DecidableEq, Repr

/-- The times of the budgeted flips of a wave on a core, in ns, the first round first (R278). -/
structure FlipCount where
  wave : Word
  times : List DWord
deriving DecidableEq, Repr

/-- The rounds of budgeted flips that a wave has completed on a die (R278). -/
structure BudgetRounds where
  wave : Word
  dom : Nat
  rounds : Nat
deriving DecidableEq, Repr

/-- What one core holds besides its slices. `freq` is in units of 100 MHz, `decayed` the time of its last step back (R278). -/
structure CoreRec where
  gtmo : BitVec 20
  swpt : BitVec 20
  quant : BitVec 20
  retired : Bool
  testing : Bool
  freq : Nat
  decayed : DWord
  flips : List FlipCount
  shares : List Share
  spad : Mem
  accm : Mem
  bdata : Mem
  bside : Mem
  crews : Vector (Option CrewEntry) 32
deriving DecidableEq, Repr

/-! ### Waves (R44, R301) -/

/-- A range entry (R267). -/
structure RangeEntry where
  base : DWord
  len : Word
  cls : Fin 4
deriving DecidableEq, Repr

/-- A block of a wave that no distributor has placed, with the domain that owns it (R44, R277). -/
structure Block where
  j : Nat
  dom : Fin 4
deriving DecidableEq, Repr

/-- How firmware ended a wave (R164): the STAT word, and what the launch's completion reports besides: the detail, the PC and the
core; and RWV with RULE of the cause, where the replay of an abandoned tile group reported it (R229). -/
structure WaveEnd where
  stat : Word
  detail : BitVec 96
  pc : DWord
  core : Nat
  rule : Option (Fin 64)
deriving DecidableEq, Repr

/-- A wave: its launch record (R301) and what is left of it. `task` is the LAUNCH task it finishes; `live` counts the slices
that have neither ended nor been placed; `ended` is set when firmware ends it (R164, R302). -/
structure Wave where
  num : Word
  ctx : Fin 17
  task : Nat
  n : Nat
  dies : BitVec 4
  entry : DWord
  trapv : DWord
  mode : Word
  args : Vector Word 16
  spadU : Nat
  acctU : Nat
  browsU : Nat
  ranges : List RangeEntry
  blocks : List Block
  live : Nat
  rank : BitVec 16
  attached : Bool
  ended : Option WaveEnd
deriving DecidableEq, Repr

/-! ### The context (R325) -/

/-- A mailbox (R98). Its waiter queue is the outstanding WAITWs in the order they were issued. -/
structure Mailbox where
  value : Word
  pend : Bool
deriving DecidableEq, Repr

/-- The frames of one pool (R177): the domain, the size (2 MiB or 64 KiB), the free frames' addresses. -/
structure Pool where
  dom : Fin 4
  big : Bool
  frames : List Nat
deriving DecidableEq, Repr

/-- What a completion record says of a packet (R321). -/
structure Completion where
  status : BitVec 8
  detail : Word
  word : Word
  waveid : Word
deriving DecidableEq, Repr

/-- What a packet that has been performed still waits for (R319, R320): a PUSH for its task, the record for the writes of the action to be
visible at package scope. -/
inductive HostWait where
  | task (id : Nat)
  | writes (ids : List Nat) (k : Completion)
deriving DecidableEq, Repr

/-- A packet that has been performed and whose completion record is not written: its ring index, the record reserved for it, its slot
(R319). -/
structure HostJob where
  idx : Nat
  cq : Nat
  slot : BitVec 2560
  wait : HostWait
deriving DecidableEq, Repr

/-- A host queue's registers (R317), the next completion record to be reserved, the records written ahead of CQTAIL, and the packets
whose records are not written (R319). -/
structure HostQueue where
  qbase : DWord
  qcfg : Word
  qtail : Word
  qhead : Word
  cqbase : DWord
  cqcfg : Word
  cqtail : Word
  cqhead : Word
  cqnext : Nat
  ahead : List Nat
  jobs : List HostJob
deriving DecidableEq, Repr

/-- The TDISP state of a function (R323). -/
inductive Tdisp where
  | unlocked | locked | run | error
deriving DecidableEq, Repr

/-- A context with the tables it owns. `asid` is none until its record is written (R325); `key` names its memory key, 0 for none
(R332). -/
structure Ctx where
  asid : Option (BitVec 16)
  roots : Vector DWord 8
  rpta : DWord
  rpth : DWord
  rptn : Nat
  trapv : DWord
  gbase : DWord
  glen : DWord
  save : DWord
  savelen : DWord
  slice : Nat
  dmask : BitVec 4
  enc : Bool
  sched : Bool
  cvec : Nat
  rules : Vector (BitVec 256) 64
  rwcnt : Vector Word 6
  rwrule : Vector Word 64
  shells : Mem
  homes : Vector (BitVec 128) 64
  regions : List RangeEntry
  pools : List Pool
  failed : List (BitVec 9)
  mailboxes : Vector Mailbox 64
  pccnt : Vector DWord 8
  pcsel : Vector Word 8
  pcovf : BitVec 8
  queues : Vector HostQueue 16
  hwbase : DWord
  hwlen : DWord
  key : Nat
  tdisp : Tdisp
  progs : List (Fin 64 × BitVec 256)
deriving DecidableEq, Repr


/-! ### Tile state (R200, R218) -/

/-- A tile instruction with its captured fields (R200, R220): the low nibble of its opcode, the values of D, A and B (a tile number,
a captured scalar, an immediate), its MODE snapshot and its PC. -/
structure TileOp where
  op : BitVec 4
  d : Word
  a : Word
  b : Word
  mode : Word
  pc : DWord
deriving DecidableEq, Repr

/-- An entry of a tile queue (R200, R218). `later` counts the tile instructions that arrived after it, and `open_` says that no flush
point has closed it. A replacement has its rule in `rule`, its group in `group`, the originals in `origs` and, in `last`, whether
it completes the group (R225). `rows` are the lanes TACCW captured, `txn` the fill of TACCR, `row` the K rows performed. -/
structure TileEntry where
  id : Nat
  op : TileOp
  ctx : Fin 17
  wave : Word
  later : Nat
  open_ : Bool
  rule : Option (Fin 64)
  group : Nat
  origs : List TileOp
  last : Bool
  rows : List Lanes
  txn : Option Nat
deriving DecidableEq, Repr

/-- An octet's tile state: its queue, TSA and RESUME (R200), with the wave that used it last. -/
structure OctetRec where
  core : Nat
  oct : Nat
  wave : Word
  queue : List TileEntry
  tsa : Word
  resume : Nat
deriving DecidableEq, Repr

/-! ### Debug registers (R178) -/

/-- DBGSTAT and DBGDATA0–3 of a function; `last` is the wave of the slice DBGCMD last named, if it reached one. -/
structure DebugRegs where
  status : BitVec 8
  full : Bool
  reason : BitVec 4
  last : Option Word
  data : Lanes
deriving DecidableEq, Repr

/-! ### Engine commands (R233–R245) -/

/-- The commands of group 0xB. -/
inductive CmdKind where
  | cpy | cpys | cbdc | cpyam | gath | scat
  | shld (tbl : Fin 8)
deriving DecidableEq, Repr

/-- A command of a slice, or the copy of a COPY task (`task`). `txn` is its outstanding token; `desc` its descriptor, or SHLD's source,
once read; `entered` says that it stands in its queue (R237), `checked` that its fields were checked, when it took the `index` list of a
gather command (log 53); `unit` is its next segment or block. -/
structure Cmd where
  id : Nat
  core : Nat
  cluster : Nat
  queue : Fin 8
  ctx : Fin 17
  wave : Word
  sid : Nat
  kind : CmdKind
  chk : Bool
  txn : Nat
  task : Option Nat
  desc : List Byte
  index : List Byte
  entered : Bool
  checked : Bool
  unit : Nat
  err : BitVec 8
deriving DecidableEq, Repr

/-- A QFENCE of a core: the queues it names and its place in the issue order (R242). -/
structure QFenceRec where
  core : Nat
  mask : BitVec 8
  id : Nat
deriving DecidableEq, Repr

/-! ### The rank tree (R285–R311) -/

/-- What an entry of a node stands for (R299, R304, R305). A wave entry counts the 4 KiB segments staged; `staged` is none once it is
boarded (R306). -/
inductive EntryKind where
  | task (id : Nat)
  | wave (num : Word) (staged : Option Nat)
  | gang (gid : Nat)
  | presence (wave : Word)
  | octet (oct : Nat)
  | mxr (task : Nat) (next : Nat)
  | command (id : Nat)
  | packet (seq : Nat)
  | request (id : Nat)
deriving DecidableEq, Repr

/-- An entry of a node: its rank there, T0 and the fields F0–F7 (R293). -/
structure Entry where
  id : Nat
  kind : EntryKind
  rank : BitVec 16
  t0 : DWord
  f : BitVec 128
deriving DecidableEq, Repr

/-- A node: its descriptor with the live N0–N7 in it (R286), its entries from head to tail (R288), and PUSH, PREEMPT, BSTALL and HOLB
(R311). -/
structure NodeRec where
  node : BitVec 16
  desc : BitVec 512
  entries : List Entry
  pushes : BitVec 48
  preempts : BitVec 48
  bstall : BitVec 48
  holb : BitVec 48
deriving DecidableEq, Repr

/-- What an engine performs: the engine by its own leaf, the leaf it took the entry from, the entry, and the leaf whose new head has
passed the test of R300, so that the engine stops for it (R310). -/
structure Serving where
  engine : BitVec 16
  node : BitVec 16
  entry : Nat
  stop : Option (BitVec 16)
deriving DecidableEq, Repr

/-- Where a task stands (R299). -/
inductive Phase where
  /-- In a node of the tree. -/
  | waiting
  /-- Out of the tree: a launch whose wave lives, a copy being performed, an MXR, a bundle whose phase runs. -/
  | running
  /-- A finish with its STAT word is due. -/
  | ending (stat : Word)
deriving DecidableEq, Repr

/-- A task that is not finished (R296, R299). `body` holds its body once read; `host` is the queue of its function that pushed it; `bundle` the bundle and the place in
its member array; `chosen` a bundle's member records for the phase at hand (R307, R308), `done` the STAT words of the members that
have finished (R309), `phases` the phases retired. -/
structure Task where
  id : Nat
  ctx : Fin 17
  record : BitVec 512
  t0 : DWord
  entry : BitVec 16
  body : List Byte
  phase : Phase
  host : Option (Fin 16)
  wave : Word
  bundle : Option (Nat × Nat)
  chosen : List (BitVec 512)
  done : List (Nat × Word)
  phases : Nat
deriving DecidableEq, Repr

/-- A slice in an image of its context's save arena: the 4 KiB unit of the image space that holds it, and which of its registers the
image shows full (R45, R326). -/
structure SavedSlice where
  sid : Nat
  unit : Nat
  full : List Bool
deriving DecidableEq, Repr

/-- A swapped-out gang: its park-table entry (R45, R46), the slices in its gang image; `pushed` says that it stands in its wave leaf. -/
structure Park where
  gang : Gang
  ctx : Fin 17
  wave : Word
  entry : BitVec 128
  image : List SavedSlice
  pushed : Bool
deriving DecidableEq, Repr

/-- A presence image (R311, R326): the share sizes and contents, each slice's supervisor save area, the tile states, the gangs, and which
units of the image space hold them: `image` the slices, `units` all, in the order of R326. The slices themselves are marked saved.
`staged` is how far staging has come, `pushed` says that its return entry stands in the wave leaf. -/
structure Presence where
  wave : Word
  core : Nat
  ctx : Fin 17
  share : Share
  spad : Mem
  accm : Mem
  bdata : Mem
  bside : Mem
  areas : List (Nat × List Byte)
  octets : List OctetRec
  gangs : List Gang
  image : List SavedSlice
  staged : Option Nat
  units : List Nat
  pushed : Bool
deriving DecidableEq, Repr


/-! ### The fabric and the network (R341–R366) -/

/-- Where a fabric operation goes: a peer, or a multicast group (R138, R361). -/
inductive FabDest where
  | peer (p : BitVec 9)
  | group (g : BitVec 9)
deriving DecidableEq, Repr

/-- What a fabric operation does at its target (R354). -/
inductive FabKind where
  | stx
  | amx (op : AmOp)
  | amxr (op : AmOp)
  | ldx
  | wake (mailbox : Fin 64) (deferred : Bool)
deriving DecidableEq, Repr

/-- A fabric operation the engine has accepted (R344): `seq` is its place in the acceptance order, `step` its tag, `txn` and `lane`
where its reply goes. -/
structure FabOp where
  seq : Nat
  step : Nat
  ctx : Fin 17
  sid : Nat
  kind : FabKind
  dest : FabDest
  off : BitVec 47
  data : Word
  txn : Nat
  lane : Fin 4
  sent : Bool
  acked : Bool
deriving DecidableEq, Repr

/-- The reply of an LDX or AMXR that waits for a link (R294, R305): the peer, its operation's number there, and the word. -/
structure FabReply where
  id : Nat
  ctx : Fin 17
  peer : BitVec 9
  seq : Nat
  data : Word
deriving DecidableEq, Repr

/-- An entry of a landing bank; an early entry is not judged yet (R349, R357). -/
structure BankEntry where
  entry : LandEntry
  judged : Bool
deriving DecidableEq, Repr

/-- What the step status of a step will hold (R359): its flags and the peers with a failed operation. -/
structure StepAcc where
  ovf : Bool
  own : Bool
  conf : Bool
  trn : Bool
  rng : Bool
  bad : List (BitVec 9)
deriving DecidableEq, Repr

/-- The fabric engine. `arrived` counts XARR arrivals; `crossed` is the number of crossings completed, so that the last one is
`crossed − 1`; `arriving` says that the device has arrived at step − 1 and its arrival is not sent, `arrivalSent` that it is.
`ckstat` is CKCTL.STATUS. -/
structure Fabric where
  npeer : BitVec 9
  peer : BitVec 9
  quota : BitVec 16
  en : BitVec 17
  lbsz : BitVec 19
  bankSize : Nat
  step : Nat
  arrived : Nat
  crossed : Nat
  arriving : Bool
  arrivalSent : Bool
  stat : Word
  lwerr : DWord
  inForce : Vector (BitVec 256) 64
  written : Vector (BitVec 256) 64
  lwPending : BitVec 64
  banks : Vector (List BankEntry) 2
  accs : Vector StepAcc 2
  statuses : List (Nat × Word)
  ops : List FabOp
  replies : List FabReply
  peerCrossed : List (BitVec 9 × Nat)
  planes : BitVec 144
  ldxHeld : List LdxRequest
  wakes : List WakeMsg
  ckpeer : BitVec 9
  ckstat : BitVec 4
  ckgo : Bool
  copying : Bool
deriving DecidableEq, Repr

/-- What a network request does (R366). -/
inductive NetKind where
  | send | write | read | recv
deriving DecidableEq, Repr

/-- A work request of the network engine (R366): its packet was sent, its data stands in local memory, it has failed. -/
structure NetReq where
  id : Nat
  ctx : Fin 17
  kind : NetKind
  laddr : DWord
  raddr : DWord
  cntr : DWord
  len : Nat
  ep : BitVec 12
  sent : Bool
  placed : Bool
  failed : Bool
deriving DecidableEq, Repr

/-- A packet by which the network engine answers a READ, on its way out (R294, R364). -/
structure NetReply where
  id : Nat
  ctx : Fin 17
  packet : NetPacket
deriving DecidableEq, Repr

/-- What leaves the device: answers to peers, arrivals, crossings, packets, retry requests, interrupts, what an aperture read
returns, answers of the trust die, and what the completion of a PUSH reports besides its record: the TAG of the task record, and how
firmware ended the wave (R164, R296, log 54). -/
inductive OutMsg where
  | fabric (op : FabOp) (plane : Nat)
  | ack (peer : BitVec 9) (seq : Nat) (rejected : Bool)
  | reply (peer : BitVec 9) (seq : Nat) (value : Word)
  | arrival (step : Nat)
  | crossed (step : Nat)
  | retryRequest (plane group : Nat)
  | resend (group : Nat)
  | net (p : NetPacket)
  | netAnswer (p : NetPacket) (ok : Bool)
  | checkpoint (peer : BitVec 9) (hbm : Mem) (sealed : List (Nat × Nat)) (banks : List BankEntry)
  | interrupt (fn : Fin 17) (vector : Nat)
  | aperture (bytes : List Byte)
  | spdm (bytes : List Byte)
  | report (fn : Fin 17) (queue : Fin 16) (idx : Nat) (tag : BitVec 24) (e : Option WaveEnd)
deriving DecidableEq, Repr

/-! ### The command die's and the trust die's own state (R69, R331–R339) -/

/-- An object the translator has cached: its bytes stand for their hash (R71), with its native lines and, for each record, the
offset of its native instruction. -/
structure Cached where
  object : List Byte
  lines : List Byte
  offs : List Word
deriving DecidableEq, Repr

/-- An entry of the error log (R337). -/
structure LogEntry where
  tsc : DWord
  addr : DWord
  ctx : BitVec 16
  loc : Word
  unit : BitVec 8
  cls : BitVec 8
  kind : BitVec 8
deriving DecidableEq, Repr

/-- What of the package runs (R331, R334, R335, R338, R339): only the standby rail; the boot steps, up to the one named; the recovery
mailbox, for the step named; everything; only the trust die after a failed alternate; nothing after an over-temperature. -/
inductive Power where
  | standby
  | booting (step : Fin 13)
  | recovery (step : Fin 13)
  | up
  | halted (step : Fin 13)
  | shutdown
deriving DecidableEq, Repr

/-- The SPDM responder (R331): what has been negotiated, the session, how often its keys were updated, and the PCIe IDE stream keys set
through it. -/
structure Spdm where
  version : Bool
  caps : Bool
  algs : Bool
  opened : Bool
  finished : Bool
  updates : Nat
  ide : List (List Byte)
deriving DecidableEq, Repr

/-- The trust die with the Lockkeeper (R331–R339). `record` is the boot-progress record, `planeFails` the failures of each plane in
step 11, `measured` the measurement registers by index, `image` the firmware image that runs, `retired` the retirement record
with `overflow`, `retiredNow` the frames retired for the current power-on only, `tests` the structures under self-test with the count of
log entries at the test's start, `log` the error log with its newest entry first, `logged` the entries ever written and `wraps` the log's wrap count (R337), `hbmHot` the
stacks whose refresh rate is doubled. -/
structure Trust where
  power : Power
  record : BitVec 64
  planeFails : List (Nat × Nat)
  measured : List (Nat × BitVec 384)
  spdm : Spdm
  flash : List Byte
  image : List Byte
  rcvaddr : DWord
  rcvstat : BitVec 4
  commit : Bool
  rcvlen : Word
  retired : List (ErrUnit × Word)
  overflow : Bool
  retiredNow : List (ErrUnit × Word)
  tests : List (ErrUnit × Word × Nat)
  log : List LogEntry
  logged : Nat
  wraps : Nat
  pcap : Nat
  hbmHot : BitVec 8
deriving DecidableEq, Repr

/-! ### The machine -/

/-- What the next step does: a gang of a core issues an instruction, a step of Instr that has no instruction word happens, the host
writes its own memory (R315), a gang has stood ready without issue for 64 clk (R48), or a cache, a controller's TLB or an instruction
cache drops what it holds for an address (log 1, 2, 10). -/
inductive Turn where
  | issue (core : Nat)
  | waited (gid : Nat)
  | event (i : Instr)
  | hostWrite (addr : Nat) (bytes : List Byte)
  | evictLine (cache : Cache) (asid : BitVec 16) (va : Nat)
  | evictTlb (ctl : Nat) (asid : BitVec 16) (va : Nat)
  | evictCode (core : Nat) (asid : BitVec 16) (va : Nat)
deriving DecidableEq, Repr

/-- When an L3 last reported on a range of a wave (R268). -/
structure ReuseMark where
  wave : Word
  range : Fin 16
  dom : Fin 4
  tsc : DWord
deriving DecidableEq, Repr

/-- The whole machine. `tscPause` is how much of its advance the time-stamp counter has still to leave out (R362). `poison` lists the 128-byte units of physical memory whose data could not be read correctly (R280), `sealed`
the 16-byte units that were written under a key, with its name (R332). `cur`, `agenda`, `ticks`, `nextId` are the model's own fields (log 2, 3). -/
structure State where
  cur : Option Cur
  agenda : List Turn
  ticks : Nat
  nextId : Nat
  slices : List Slice
  gangs : List Gang
  regangs : List RegangInst
  txns : List Txn
  waves : List Wave
  cores : Vector CoreRec 192
  firstFaults : List FirstFault
  tlb : List TlbEntry
  lines : List Line
  copies : List AtomCopy
  cdata : Mem
  hbm : Mem
  poison : List Nat
  sealed : List (Nat × Nat)
  writes : List DieWrite
  ilines : List ILine
  octets : List OctetRec
  cmds : List Cmd
  qfences : List QFenceRec
  tokens : List (Nat × RegName × Nat)
  nodes : List NodeRec
  serving : List Serving
  tasks : List Task
  launches : Vector (List Entry) 4
  turns : Vector (Fin 17) 4
  parks : List Park
  presences : List Presence
  nextWave : Word
  online : BitVec 4
  ctxs : Vector Ctx 17
  dbg : Vector DebugRegs 17
  tsc : DWord
  tscPause : DWord
  hostMem : Mem
  fab : Fabric
  endpoints : Mem
  netReqs : List NetReq
  netReplies : List NetReply
  out : List OutMsg
  ldcfg : Word
  cached : List Cached
  apctl : Word
  skipped : BitVec 4
  reports : List ReuseMark
  rounds : List BudgetRounds
  trust : Trust
deriving DecidableEq, Repr

/-! ### Reset -/

/-- A vector register at reset and at slice creation (R34, R44). -/
def VCell.reset : VCell := ⟨Lanes.all 0#32, true⟩

/-- A scalar register at reset and at slice creation (R34, R44). -/
def SCell.reset : SCell := ⟨0#32, true, false⟩

/-- A core at reset (R47, R82, R278). -/
def CoreRec.reset : CoreRec where
  gtmo := 4096#20
  swpt := 2048#20
  quant := 1000#20
  retired := false
  testing := false
  freq := 27
  decayed := 0#64
  flips := []
  shares := []
  spad := []
  accm := []
  bdata := []
  bside := []
  crews := Vector.replicate 32 none

/-- A host queue at reset (R317). -/
def HostQueue.reset : HostQueue := ⟨0#64, 0#32, 0#32, 0#32, 0#64, 0#32, 0#32, 0#32, 0, [], []⟩

/-- A context whose record has never been written (R325). -/
def Ctx.reset : Ctx where
  asid := none
  roots := Vector.replicate 8 0#64
  rpta := 0#64
  rpth := 0#64
  rptn := 0
  trapv := 0#64
  gbase := 0#64
  glen := 0#64
  save := 0#64
  savelen := 0#64
  slice := 0
  dmask := 0#4
  enc := false
  sched := false
  cvec := 0
  rules := Vector.replicate 64 0#256
  rwcnt := Vector.replicate 6 0#32
  rwrule := Vector.replicate 64 0#32
  shells := []
  homes := Vector.replicate 64 0#128
  regions := []
  pools := []
  failed := []
  mailboxes := Vector.replicate 64 ⟨0#32, false⟩
  pccnt := Vector.replicate 8 0#64
  pcsel := Vector.replicate 8 0#32
  pcovf := 0#8
  queues := Vector.replicate 16 HostQueue.reset
  hwbase := 0#64
  hwlen := 0#64
  key := 0
  tdisp := .unlocked
  progs := []

/-- No failure of a step yet. -/
def StepAcc.reset : StepAcc := ⟨false, false, false, false, false, []⟩

/-- The fabric engine at reset (R342, R347, R363): disabled, no window active, every plane up. -/
def Fabric.reset : Fabric where
  npeer := 0#9
  peer := 0#9
  quota := 0#16
  en := 0#17
  lbsz := 1#19
  bankSize := 1
  step := 0
  arrived := 0
  crossed := 0
  arriving := false
  arrivalSent := false
  stat := 0#32
  lwerr := 0#64
  inForce := Vector.replicate 64 0#256
  written := Vector.replicate 64 0#256
  lwPending := 0#64
  banks := Vector.replicate 2 []
  accs := Vector.replicate 2 StepAcc.reset
  statuses := []
  ops := []
  replies := []
  peerCrossed := []
  planes := BitVec.allOnes 144
  ldxHeld := []
  wakes := []
  ckpeer := 0#9
  ckstat := 0#4
  ckgo := false
  copying := false

/-- The trust die of a machine whose boot steps have all succeeded the normal way: every die and the firmware image measured, nothing
failed, nothing retired (R331, R333, R335, R336). -/
def Trust.reset : Trust where
  power := .up
  record := 0#64
  planeFails := []
  measured := (List.range 11).map fun i => (i + 1, Config.measure (i + 1) [])
  spdm := ⟨false, false, false, false, false, 0, []⟩
  flash := []
  image := []
  rcvaddr := 0#64
  rcvstat := 0#4
  commit := false
  rcvlen := 0#32
  retired := []
  overflow := false
  retiredNow := []
  tests := []
  log := []
  logged := 0
  wraps := 0
  pcap := 3600
  hbmHot := 0#8

/-- The machine right after reset. A value the spec gives no reset for (the time-stamp counter's 0 among them, R2) is the model's choice:
log 4. -/
def State.reset : State where
  cur := none
  agenda := []
  ticks := 0
  nextId := 1
  slices := []
  gangs := []
  regangs := []
  txns := []
  waves := []
  cores := Vector.replicate 192 CoreRec.reset
  firstFaults := []
  tlb := []
  lines := []
  copies := []
  cdata := []
  hbm := []
  poison := []
  sealed := []
  writes := []
  ilines := []
  octets := []
  cmds := []
  qfences := []
  tokens := []
  nodes := []
  serving := []
  tasks := []
  launches := Vector.replicate 4 []
  turns := Vector.replicate 4 0
  parks := []
  presences := []
  nextWave := 1#32
  online := 0b1111#4
  ctxs := Vector.replicate 17 Ctx.reset
  dbg := Vector.replicate 17 ⟨0#8, false, 0#4, none, Lanes.all 0#32⟩
  tsc := 0#64
  tscPause := 0#64
  hostMem := []
  fab := Fabric.reset
  endpoints := []
  netReqs := []
  netReplies := []
  out := []
  ldcfg := 3#32
  cached := []
  apctl := 0#32
  skipped := 0#4
  reports := []
  rounds := []
  trust := Trust.reset

/-! ### The reasons a step can stop -/

/-- No step of this machine stops with a fault: every trap of the spec is taken by a handler or by firmware (R164), and the
package runs on. `noSuchState` is raised by nobody; it keeps the type inhabited. Safe. -/
inductive Fault where
  | noSuchState
deriving DecidableEq, Repr

/-- `notModelled` is raised by Dispatch.lean for an instruction that has no meaning yet (safe: it claims nothing). -/
inductive Refusal where
  | notModelled (mnemonic : String)
deriving DecidableEq, Repr

end Sys2Proof.Machine
end

