-- ==== Sys2Proof/Machine/Operands.lean ====
section
/-! DEFINITION. Operands: the fields of MODE (R7, R32), active lanes (R33), reading and writing the registers of a slice (R30,
R31, R34, R77, R107, R168), and the sources an instruction waits for or traps on (R35, R239). -/

set_option Elab.async false

namespace Sys2Proof.Machine

/-! ### MODE (R7, R32) -/

def modeSup (m : Word) : Bool := m.getLsbD 24
def modeGen (m : Word) : Bool := m.getLsbD 4
def modeGinv (m : Word) : Bool := m.getLsbD 3
def modeGsel (m : Word) : PReg := (m.extractLsb' 0 3).toFin
def modeFtz (m : Word) : Bool := m.getLsbD 15
def modeOsat (m : Word) : Bool := m.getLsbD 12
def modeRperm (m : Word) : Nat := (m.extractLsb' 13 2).toNat
/-- FSEL[16] (R12). -/
def modeUnitScale (m : Word) : Bool := m.getLsbD 16
/-- FSEL[18:16] (R16). -/
def modeTable (m : Word) : Fin 8 := (m.extractLsb' 16 3).toFin

/-- MODE.RND; a reserved code, which MODE never holds (R8), reads as RNE. -/
def modeRnd (m : Word) : Rnd :=
  match (m.extractLsb' 9 3).toNat with
  | 1 => .rtz
  | 2 => .rup
  | 3 => .rdn
  | 4 => .rna
  | _ => .rne

/-- MODE.ETYPE; a reserved code, which MODE never holds (R8), reads as FP32. -/
def modeEtype (m : Word) : EType :=
  match (m.extractLsb' 5 4).toNat with
  | 1 => .bf16 | 2 => .fp16 | 3 => .e4m3 | 4 => .e5m2 | 5 => .mxE4m3 | 6 => .mxE5m2 | 7 => .mxfp4
  | 8 => .int8 | 9 => .int16 | 10 => .int32 | 11 => .cf32 | 12 => .cbf16 | 13 => .cb2
  | _ => .fp32

/-! ### Lanes (R30, R33) -/

/-- The lanes the guard selects: p[GSEL] XOR GINV (R33). -/
def Slice.guardBits (sl : Slice) : BitVec 4 :=
  let g := sl.p.get (modeGsel sl.mode)
  if modeGinv sl.mode then ~~~g else g

/-- The active lanes of an instruction (R33). -/
def Slice.active (sl : Slice) : BitVec 4 :=
  if modeGen sl.mode then sl.amask &&& sl.guardBits else sl.amask

/-- The position of a slice in its octet. -/
def Slice.pos (sl : Slice) : Nat := sl.slot % 8

/-- The octet of a slice in its core. -/
def Slice.oct (sl : Slice) : Nat := sl.slot / 8

/-- The slice's values of one bit per lane as a list of lane numbers. -/
def lanesOf (m : BitVec 4) : List (Fin 4) := (List.finRange 4).filter fun i => m.getLsbD i.val

/-! ### Registers -/

/-- A vector source's value in every lane (R30, R59). -/
def Slice.readV (sl : Slice) (r : VSrcReg) : Lanes :=
  match r with
  | .v n => (sl.v.get n).val
  | .o n => (sl.o.get n).val
  | .w n => sl.w.get n
  | .z => Lanes.all 0#32
  | .laneId => Lanes.ofFn fun i => BitVec.ofNat 32 (4 * sl.pos + i.val)
  | .sliceIdx => Lanes.all sl.idx

/-- A vector register's value. -/
def Slice.readReg (sl : Slice) (r : VReg) : Lanes :=
  match r with
  | .v n => (sl.v.get n).val
  | .o n => (sl.o.get n).val

/-- The registers of a vector pair source (R107). -/
def vpairSrcRegs (r : VPairSrcReg) : VSrcReg × VSrcReg :=
  match r with
  | .v n => (.v ⟨2 * n.val, by omega⟩, .v ⟨2 * n.val + 1, by omega⟩)
  | .o n => (.o ⟨2 * n.val, by omega⟩, .o ⟨2 * n.val + 1, by omega⟩)
  | .w n => (.w ⟨2 * n.val, by omega⟩, .w ⟨2 * n.val + 1, by omega⟩)

/-- The registers of a vector pair destination (R107). -/
def vpairRegs (r : VPairReg) : VReg × VReg :=
  match r with
  | .v n => (.v ⟨2 * n.val, by omega⟩, .v ⟨2 * n.val + 1, by omega⟩)
  | .o n => (.o ⟨2 * n.val, by omega⟩, .o ⟨2 * n.val + 1, by omega⟩)

/-- The storage a scalar number names: the supervisor bank for 60–63 while MODE.SUP = 1 (R168). -/
def Slice.sname (sl : Slice) (n : SReg) : RegName :=
  if h : modeSup sl.mode ∧ 60 ≤ n.val then .b ⟨n.val - 60, by omega⟩ else .s n

/-- The cell of a scalar number (R168). -/
def Slice.scell (sl : Slice) (n : SReg) : SCell :=
  match sl.sname n with
  | .b k => sl.bank.get k
  | _ => sl.s.get n

/-- A scalar register's value. -/
def Slice.readS (sl : Slice) (n : SReg) : Word := (sl.scell n).val

/-- A scalar source's value (R60). -/
def Slice.readSrc (sl : Slice) (r : SSrcReg) : Word :=
  match r with
  | .s n => sl.readS n
  | .z => 0#32
  | .sliceIdx => sl.idx

/-- The low and the high register of a scalar pair (R77). -/
def pairLo (n : SPairReg) : SReg := ⟨2 * n.val, by omega⟩
def pairHi (n : SPairReg) : SReg := ⟨2 * n.val + 1, by omega⟩

/-- pair[N] (R77). -/
def Slice.readPair (sl : Slice) (r : Option SPairReg) : DWord :=
  match r with
  | none => 0#64
  | some n => pairOf (sl.readS (pairLo n)) (sl.readS (pairHi n))

/-- The storage of a vector register. -/
def vregName (r : VReg) : RegName :=
  match r with
  | .v n => .v n
  | .o n => .o n

/-- The full/empty bit of a register (R34). -/
def Slice.isFull (sl : Slice) (r : RegName) : Bool :=
  match r with
  | .v n => (sl.v.get n).full
  | .o n => (sl.o.get n).full
  | .s n => (sl.s.get n).full
  | .b n => (sl.bank.get n).full
  | .gone => true

/-- Set a register's full/empty bit; its value is unchanged. -/
def Slice.setFull (sl : Slice) (r : RegName) (f : Bool) : Slice :=
  match r with
  | .v n => { sl with v := sl.v.set n { sl.v.get n with full := f } }
  | .o n => { sl with o := sl.o.set n { sl.o.get n with full := f } }
  | .s n => { sl with s := sl.s.set n { sl.s.get n with full := f } }
  | .b n => { sl with bank := sl.bank.set n { sl.bank.get n with full := f } }
  | .gone => sl

/-- Write a vector register in the lanes of a mask; every write leaves it full (R33, R34). -/
def Slice.setReg (sl : Slice) (r : VReg) (mask : BitVec 4) (x : Lanes) : Slice :=
  match r with
  | .v n => { sl with v := sl.v.set n ⟨Lanes.merge mask x (sl.v.get n).val, true⟩ }
  | .o n => { sl with o := sl.o.set n ⟨Lanes.merge mask x (sl.o.get n).val, true⟩ }

/-- The shift into the last-result file in the lanes of a mask (R31). -/
def Slice.shiftW (sl : Slice) (mask : BitVec 4) (x : Lanes) : Slice :=
  { sl with w := #v[Lanes.merge mask x (sl.w.get 0), Lanes.merge mask (sl.w.get 0) (sl.w.get 1),
      Lanes.merge mask (sl.w.get 1) (sl.w.get 2), Lanes.merge mask (sl.w.get 2) (sl.w.get 3)] }

/-- Write a vector destination, with the shift bit [7] asks for (R31). -/
def Slice.setV (sl : Slice) (d : VDst) (mask : BitVec 4) (x : Lanes) : Slice :=
  let sl' := sl.setReg d.reg mask x
  if d.shift then sl'.shiftW mask x else sl'

/-- Write a scalar storage cell: full, and its check mark cleared (R34, R239). -/
def Slice.setCell (sl : Slice) (r : RegName) (x : Word) : Slice :=
  match r with
  | .s n => { sl with s := sl.s.set n ⟨x, true, false⟩ }
  | .b n => { sl with bank := sl.bank.set n ⟨x, true, false⟩ }
  | .v _ => sl
  | .o _ => sl
  | .gone => sl

/-- Write a scalar register (R60, R168). -/
def Slice.setS (sl : Slice) (n : SReg) (x : Word) : Slice := sl.setCell (sl.sname n) x

/-- Write a scalar pair as one unit (R77). -/
def Slice.setPair (sl : Slice) (n : SPairReg) (x : DWord) : Slice := (sl.setS (pairLo n) x.lo).setS (pairHi n) x.hi

/-- Write predicate bits in the lanes of a mask. -/
def Slice.setP (sl : Slice) (p : PReg) (mask bits : BitVec 4) : Slice :=
  { sl with p := sl.p.set p ((sl.p.get p &&& ~~~mask) ||| (bits &&& mask)) }

/-! ### Sources (R35, R239) -/

/-- One register an instruction reads through a source: its storage, its policy, the field's value and which field it is
(R166: 0 D, 1 A, 2 B, 3 OFF, 4 clamp pair). -/
structure SrcUse where
  reg : RegName
  trap : Bool
  field : BitVec 8
  which : Nat
deriving DecidableEq, Repr

/-- The registers of a vector source that carry a full/empty bit. -/
def vsUses (x : VSrc) (which : Nat) : List SrcUse :=
  match x.reg with
  | .v n => [⟨.v n, x.trap, encVSrc x, which⟩]
  | .o n => [⟨.o n, x.trap, encVSrc x, which⟩]
  | .w _ => []
  | .z => []
  | .laneId => []
  | .sliceIdx => []

/-- The registers of a vector pair source. -/
def vpUses (x : VPairSrc) (which : Nat) : List SrcUse :=
  let a := vpairSrcRegs x.reg
  (vsUses ⟨a.1, x.trap⟩ which ++ vsUses ⟨a.2, x.trap⟩ which).map fun u => { u with field := encVPair x }

/-- The register of a scalar source of a slice. -/
def Slice.ssUses (sl : Slice) (x : SSrc) (which : Nat) : List SrcUse :=
  match x.reg with
  | .s n => [⟨sl.sname n, x.trap, encSSrc x, which⟩]
  | .z => []
  | .sliceIdx => []

/-- The registers of a scalar pair source, s[N] then s[N+1] (R77). -/
def Slice.spUses (sl : Slice) (x : SPairSrc) (which : Nat) : List SrcUse :=
  match x.reg with
  | some n => [⟨sl.sname (pairLo n), x.trap, encSPair x, which⟩, ⟨sl.sname (pairHi n), x.trap, encSPair x, which⟩]
  | none => []

/-- The clamp pair of a modifier word, read under the block policy (R58). -/
def Slice.clampUses (sl : Slice) (m : Option Modifier) : List SrcUse :=
  match m with
  | some w =>
    if w.clmp then
      [⟨sl.sname w.cls.toFin, false, 0#2 ++ w.cls, 4⟩, ⟨sl.sname (w.cls + 1#6).toFin, false, 0#2 ++ w.cls, 4⟩]
    else []
  | none => []

/-- The mark and the value of a scalar cell. -/
def Slice.cellOf (sl : Slice) (r : RegName) : Option SCell :=
  match r with
  | .s n => some (sl.s.get n)
  | .b n => some (sl.bank.get n)
  | .v _ => none
  | .o _ => none
  | .gone => none

/-- A marked token whose ERR is not 0 (R238, R239). -/
def Slice.badToken (sl : Slice) (r : RegName) : Bool :=
  match sl.cellOf r with
  | some c => c.mark && c.val.extractLsb' 16 8 != 0#8
  | none => false

/-- Clear a register's check mark (R239). -/
def Slice.clearMark (sl : Slice) (r : RegName) : Slice :=
  match r with
  | .s n => { sl with s := sl.s.set n { sl.s.get n with mark := false } }
  | .b n => { sl with bank := sl.bank.set n { sl.bank.get n with mark := false } }
  | .v _ => sl
  | .o _ => sl
  | .gone => sl

/-- Reading the sources clears their check marks (R239). -/
def Slice.clearMarks (sl : Slice) (us : List SrcUse) : Slice := us.foldl (fun t u => t.clearMark u.reg) sl

end Sys2Proof.Machine
end

