-- ==== Sys2Proof/Machine/Flags.lean ====
section
/-! DEFINITION. FSTAT (R21): the sticky exceptions of a slice. -/

set_option Elab.async false

namespace Sys2Proof.Machine

/-- Accumulate exceptions into FSTAT (R21). -/
def Slice.raise (sl : Slice) (f : Flags) : Slice := { sl with fstat := sl.fstat ||| f.bits }

/-- The OR of the exceptions of the active lanes (R21, R103). -/
def flagsOf (mask : BitVec 4) (f : Fin 4 → Flags) : Flags :=
  (lanesOf mask).foldl (fun acc i => acc.or (f i)) Flags.none

/-- CSRW of FSTAT: reserved bits ignore the write (R21, R83). -/
def fstatWrite (x : Word) : Word := x &&& 0x1F#32

end Sys2Proof.Machine
end

