-- ==== Sys2Proof/Machine/Memory.lean ====
section
/-! DEFINITION. Memory: the canonical list of bytes, windows and their checks (R138–R141), translation (R261–R265), lines with
their permission bits (R254–R256), the dies' views of a location and the home order (R259, R260, R269–R271), flushes (R266). -/

set_option Elab.async false

namespace Sys2Proof.Machine

/-! ### Bytes -/

/-- The byte at an address; an unlisted address reads 0 (log 5). -/
def memRead (m : Mem) (a : Nat) : Byte :=
  match m with
  | [] => 0#8
  | (k, v) :: t => if k = a then v else memRead t a

/-- Write one byte, keeping addresses strictly rising and no entry 0. -/
def memWrite (m : Mem) (a : Nat) (b : Byte) : Mem :=
  match m with
  | [] => if b = 0#8 then [] else [(a, b)]
  | (k, v) :: t =>
    if a < k then (if b = 0#8 then (k, v) :: t else (a, b) :: (k, v) :: t)
    else if a = k then (if b = 0#8 then t else (a, b) :: t)
    else (k, v) :: memWrite t a b

/-- Every address of the list lies above `lo` in rising order, and no byte is 0. -/
def Mem.wfAbove (lo : Option Nat) (m : Mem) : Bool :=
  match m with
  | [] => true
  | (k, v) :: t => (match lo with | none => true | some l => decide (l < k)) && decide (v ≠ 0#8) && Mem.wfAbove (some k) t

/-- The canonical form: strictly rising addresses, no entry equal to what an unlisted address reads as. -/
def Mem.wf (m : Mem) : Bool := Mem.wfAbove none m

/-- The bytes at `a` on, the lowest address first. -/
def readBytes (m : Mem) (a n : Nat) : List Byte := (List.range n).map fun i => memRead m (a + i)

/-- Write the bytes at `a` on. -/
def writeBytes (m : Mem) (a : Nat) (bs : List Byte) : Mem :=
  match bs with
  | [] => m
  | b :: t => writeBytes (memWrite m a b) (a + 1) t

/-- The little-endian number of a list of bytes (R3). -/
def ofBytes (bs : List Byte) : Nat :=
  match bs with
  | [] => 0
  | b :: t => b.toNat + 256 * ofBytes t

/-- The `n` little-endian bytes of a number (R3). -/
def toBytes (n x : Nat) : List Byte :=
  match n with
  | 0 => []
  | k + 1 => BitVec.ofNat 8 x :: toBytes k (x / 256)

/-- The little-endian number of `n` bytes. -/
def readLE (m : Mem) (a n : Nat) : Nat := ofBytes (readBytes m a n)

/-- Write a number in `n` little-endian bytes. -/
def writeLE (m : Mem) (a n x : Nat) : Mem := writeBytes m a (toBytes n x)

/-- The entries with lo ≤ address < lo + len. -/
def memSlice (m : Mem) (lo len : Nat) : Mem := m.filter fun c => lo ≤ c.1 && c.1 < lo + len

/-- The memory without the entries of a range: zeros there. -/
def memClear (m : Mem) (lo len : Nat) : Mem := m.filter fun c => !(lo ≤ c.1 && c.1 < lo + len)

/-- Copy the range [src, src + len) of one memory over [dst, dst + len) of another. -/
def memCopy (from_ : Mem) (src : Nat) (into : Mem) (dst len : Nat) : Mem :=
  (memSlice from_ src len).foldl (fun m c => memWrite m (c.1 - src + dst) c.2) (memClear into dst len)

/-- The bytes from `a` on of a memory that lists nothing below `a`. -/
def denseFrom (m : Mem) (a n : Nat) : List Byte :=
  match n with
  | 0 => []
  | k + 1 => match m with
    | [] => 0#8 :: denseFrom [] (a + 1) k
    | (x, v) :: t => if x = a then v :: denseFrom t (a + 1) k else 0#8 :: denseFrom ((x, v) :: t) (a + 1) k

/-- The bytes at `a` on, of a memory in canonical form, in one pass. -/
def denseBytes (m : Mem) (a n : Nat) : List Byte := denseFrom (memSlice m a n) a n

/-- The memory that holds a list of bytes at `a` and nothing else. -/
def sparseBytes (a : Nat) (bs : List Byte) : Mem :=
  match bs with
  | [] => []
  | b :: t => if b = 0#8 then sparseBytes (a + 1) t else (a, b) :: sparseBytes (a + 1) t

/-- Write the bytes at `a` on, in one pass. -/
def memSplice (m : Mem) (a : Nat) (bs : List Byte) : Mem :=
  m.filter (fun c => decide (c.1 < a)) ++ (sparseBytes a bs ++ m.filter fun c => decide (a + bs.length ≤ c.1))

/-! ### Windows (R138) -/

/-- The window of an address. -/
def windowOf (a : DWord) : Option Window :=
  match (a.extractLsb' 56 8).toNat with
  | 0x00 => some .global
  | 0x01 => some .fabric
  | 0xFD => some .accum
  | 0xFE => some .scratch
  | _ => none

/-- [55:0]. -/
def offsetOf (a : DWord) : Nat := (a.extractLsb' 0 56).toNat

/-- The compute die of a core (R1). -/
def dieOfCore (core : Nat) : Nat := core / 48

/-- A core's record. -/
def State.core (s : State) (c : Nat) : CoreRec := s.cores.toList.getD c CoreRec.reset

/-- Replace a core's record. -/
def State.setCore (s : State) (c : Nat) (r : CoreRec) : State := { s with cores := s.cores.setIfInBounds c r }

/-- The share a wave holds on a core, or an empty one (R183). -/
def CoreRec.share (r : CoreRec) (wave : Word) : Share :=
  (r.shares.find? fun h => h.wave == wave).getD ⟨wave, 0, 0, 0, 0, 0, 0⟩

/-- The valid size of a window for a wave on a core (R138, R184). -/
def windowSize (s : State) (core : Nat) (wave : Word) (w : Window) : Nat :=
  match w with
  | .global => 2 ^ 56
  | .fabric => 2 ^ 56
  | .accum => 2048 * ((s.core core).share wave).acctLen
  | .scratch => ((s.core core).share wave).spadLen

/-- The check of an access of `b` bytes (R139): the case code it takes, if any. -/
def checkAccess (s : State) (core : Nat) (wave : Word) (x : DWord) (b : Nat) (admits : List Window) (align : Nat) :
    Option (BitVec 8) :=
  match windowOf x with
  | none => some 1#8
  | some w =>
    let last := x + BitVec.ofNat 64 (b - 1)
    if windowOf last ≠ some w ∨ windowSize s core wave w ≤ offsetOf last then some 2#8
    else if !admits.contains w then some 4#8
    else if x.toNat % align ≠ 0 then some 3#8
    else none

/-! ### Contexts and the home map (R259, R260) -/

/-- A context. -/
def State.ctx (s : State) (c : Fin 17) : Ctx := s.ctxs.get c

/-- Replace a context. -/
def State.setCtx (s : State) (c : Fin 17) (x : Ctx) : State := { s with ctxs := s.ctxs.set c x }

/-- A context's ASID; 0, the global ASID, while it holds none (R255, R325). -/
def State.asidOf (s : State) (c : Fin 17) : BitVec 16 := (s.ctx c).asid.getD 0#16

/-- The context that holds an ASID (R325). -/
def State.ctxOfAsid (s : State) (asid : BitVec 16) : Option (Fin 17) :=
  (List.finRange 17).find? fun c => (s.ctx c).asid == some asid

/-- The domains of a mask in ascending order. -/
def domainsOf (m : BitVec 4) : List Nat := (List.range 4).filter fun d => m.getLsbD d

/-- The home domain of a global address under a map of entries (R260); 4, the command die, stands only for "no domain online". -/
def homeIn (homes : List (BitVec 128)) (online : BitVec 4) (va : Nat) : Nat :=
  let g := va / 2 ^ 21
  let e := homes.find? fun h =>
    h.extractLsb' 122 2 != 0#2 && decide ((h.extractLsb' 21 35).toNat ≤ g) &&
    decide (g < (h.extractLsb' 21 35).toNat + (h.extractLsb' 64 35).toNat)
  let m := match e with
    | some h =>
      if h.extractLsb' 122 2 = 1#2 then
        (if online.getLsbD (h.extractLsb' 120 2).toNat then 1#4 <<< (h.extractLsb' 120 2).toNat else 0#4)
      else h.extractLsb' 124 4 &&& online
    | none => 0#4
  let ds := domainsOf (if m = 0#4 then online else m)
  ds.getD (g % ds.length) 4

/-- The home of a global address in an ASID. -/
def State.home (s : State) (asid : BitVec 16) (va : Nat) : Nat :=
  match s.ctxOfAsid asid with
  | some c => homeIn (s.ctx c).homes.toList s.online va
  | none => homeIn [] s.online va

/-! ### Time slices (R327) -/

/-- Whether a context takes turns on a domain (R325, R327). -/
def State.timeSliced (s : State) (c : Fin 17) (d : Nat) : Bool :=
  (s.ctx c).sched && (s.ctx c).asid.isSome && (s.ctx c).dmask.getLsbD d

/-- The context whose turn it is on a domain: the one recorded, or else the lowest that takes turns there. -/
def State.turnOf (s : State) (d : Nat) : Option (Fin 17) :=
  let t := s.turns.toList.getD d 0
  if s.timeSliced t d then some t else (List.finRange 17).find? fun c => s.timeSliced c d

/-- Whether a context is in on a domain (R327): a partitioned one always is. -/
def State.isIn (s : State) (c : Fin 17) (d : Nat) : Bool := !(s.ctx c).sched || s.turnOf d == some c

/-- Whether an inner node of a context releases now (R327): the context is in on some domain. -/
def State.releases (s : State) (c : Fin 17) : Bool := (List.range 4).any fun d => s.isIn c d

/-! ### Counters (R328) -/

/-- Whether a context is in where an event happens: on a domain, or anywhere for the command die. -/
def State.inAt (s : State) (c : Fin 17) (dom : Option Nat) : Bool :=
  match dom with
  | some d => s.isIn c d
  | none => s.releases c

/-- Counter k of a context goes on by n: at 2^48 it wraps, sets its PCOVF bit and interrupts once for the bit (R328). -/
def State.addCount (s : State) (c : Fin 17) (k : Fin 8) (n : Nat) : State :=
  let x := s.ctx c
  let v := (x.pccnt.get k).toNat + n
  let y := { x with pccnt := x.pccnt.set k (BitVec.ofNat 64 (v % 2 ^ 48)) }
  if v < 2 ^ 48 then s.setCtx c y
  else
    let t := s.setCtx c { y with pcovf := y.pcovf ||| (1#8 <<< k.val) }
    if x.pcovf.getLsbD k.val then t else { t with out := t.out ++ [.interrupt c x.cvec] }

/-- The events of the table that the steps of this model do not count one by one, or not all of them (log 17): clk, boarding stall and
memory traffic. -/
def timedEvent (e : BitVec 8) : Bool := [0x01#8, 0x06#8, 0x09#8].contains e

/-- Whether a counter counts such an event. -/
def Ctx.timed (c : Ctx) (k : Fin 8) : Bool := (c.pcsel.get k).getLsbD 8 && timedEvent ((c.pcsel.get k).extractLsb' 0 8)

/-- A counter of such an event goes on by a free amount while its context is in (R328, log 17); one of another kind stands. -/
def State.foldTimed (s : State) (c : Fin 17) (k : Fin 8) : State :=
  if (s.ctx c).timed k && s.releases c then
    { s.addCount c k (Config.timedCount s.ticks c.val k.val).toNat with ticks := s.ticks + 1 }
  else s

/-- An event of a context happens n times: the enabled counters that select it count, while the context is in (R328). -/
def State.countEvent (s : State) (c : Fin 17) (dom : Option Nat) (ev : BitVec 8) (n : Nat) : State :=
  let hit (k : Fin 8) : Bool := (((s.ctx c).pcsel.get k).getLsbD 8) && (((s.ctx c).pcsel.get k).extractLsb' 0 8) == ev
  if n = 0 || !s.inAt c dom then s
  else ((List.finRange 8).filter hit).foldl (fun x k => x.addCount c k n) s

/-- An event of an access of an ASID, on a domain: it is its context's, of a global line that of the physical function (R328). -/
def State.countOf (s : State) (asid : BitVec 16) (dom : Nat) (ev : BitVec 8) (n : Nat) : State :=
  match (if asid = 0#16 then some 0 else s.ctxOfAsid asid) with
  | some c => s.countEvent c (if dom < 4 then some dom else none) ev n
  | none => s

/-! ### Translation (R261–R264) -/

/-- What a walk of the page tables ends in (R264). -/
inductive Walk where
  | leaf (l : Leaf)
  | fault (group : BitVec 5) (case : BitVec 8)
  | malformed (pa : Nat)
deriving DecidableEq, Repr

/-- The leaf of an entry (R263). -/
def leafOf (e : DWord) : Leaf :=
  ⟨(e.extractLsb' 16 48).toNat * 65536,
   match (e.extractLsb' 6 2).toNat with | 0 => 0 | 1 => 1 | _ => 2,
   e.getLsbD 5, e.getLsbD 3, e.getLsbD 2, e.getLsbD 1⟩

/-- log2 of a leaf's page size (R262). -/
def pageShift (size : Fin 3) : Nat :=
  match size with
  | 0 => 16
  | 1 => 21
  | 2 => 30

/-- The domain whose stacks hold a frame (R1). -/
def frameDomain (pa : Nat) : Nat := pa / 2 ^ 37

/-! ### Memory keys (R332) -/

/-- The key of an ASID's accesses: its context's; that of context 0 for the global ASID. -/
def State.keyOf (s : State) (asid : BitVec 16) : Nat :=
  if asid = 0#16 then (s.ctx 0).key else ((s.ctxOfAsid asid).map fun c => (s.ctx c).key).getD 0

/-- The key a 16-byte block of memory was written under. -/
def State.sealOf (s : State) (block : Nat) : Nat := ((s.sealed.find? fun p => p.1 == block).map (·.2)).getD 0

/-- The bytes of a block as a reader with a key sees them. -/
def State.blockBytes (s : State) (key block : Nat) : List Byte :=
  let k := s.sealOf block
  if k = key then readBytes s.hbm (16 * block) 16
  else toBytes 16 (Config.cipher k key block (BitVec.ofNat 128 (readLE s.hbm (16 * block) 16))).toNat

/-- Bytes of physical memory as a reader with a key sees them. -/
def State.physRead (s : State) (key pa n : Nat) : List Byte :=
  if s.sealed.isEmpty && key == 0 then readBytes s.hbm pa n
  else (List.range n).map fun i => (s.blockBytes key ((pa + i) / 16)).getD ((pa + i) % 16) 0#8

/-- The bytes of a large range of physical memory as a reader with a key sees them. -/
def State.physGet (s : State) (key pa n : Nat) : List Byte :=
  if s.sealed.isEmpty && key == 0 then denseBytes s.hbm pa n else s.physRead key pa n

/-- The blocks of a range. -/
def blocksOf (pa n : Nat) : List Nat := (List.range ((pa + n + 15) / 16 - pa / 16)).map (pa / 16 + ·)

/-! ### Walks (R261–R264) -/

/-- The doubleword of a table entry as it is stored: tables are walked in plaintext, whatever key their memory was written under (R262, R332). -/
def State.tableWord (s : State) (pa : Nat) : DWord := BitVec.ofNat 64 (ofBytes (s.physRead 0 pa 8))

/-- The levels of the tree: where the index starts and how many bits it has (R262). -/
def levels : List (Nat × Nat × Option (Fin 3)) := [(39, 17, none), (30, 9, some 2), (21, 9, some 1), (16, 5, some 0)]

/-- A walk from a table, over the levels left (R262–R264). -/
def walkFrom (rd : Nat → DWord) (stack : Nat) (ls : List (Nat × Nat × Option (Fin 3))) (table va : Nat) : Walk :=
  match ls with
  | [] => .fault 6#5 1#8
  | (sh, w, sz) :: rest =>
    let pa := table + 8 * (va / 2 ^ sh % 2 ^ w)
    let e := rd pa
    if e.getLsbD 0 && e.extractLsb' 6 2 == 3#2 then
      let next := (e.extractLsb' 8 56).toNat * 256
      let size := match rest with | (_, w', _) :: _ => 8 * 2 ^ w' | [] => 1
      if rest = [] ∨ e.extractLsb' 1 5 ≠ 0#5 ∨ next / 2 ^ 36 ≠ stack ∨ next % size ≠ 0 then .malformed pa
      else walkFrom rd stack rest next va
    else if e.extractLsb' 10 6 ≠ 0#6 ∨ e.getLsbD 4 then .malformed pa
    else if !e.getLsbD 0 then
      if e.getLsbD 9 then .fault 7#5 1#8
      else if e.getLsbD 8 then .fault 6#5 2#8
      else .fault 6#5 1#8
    else
      let l := leafOf e
      if sz ≠ some l.size ∨ e.extractLsb' 8 2 ≠ 0#2 ∨ l.frame % 2 ^ pageShift l.size ≠ 0 ∨ 2 ^ 39 ≤ l.frame then .malformed pa
      else .leaf l

/-- The stack whose copy of the tree a page is walked in (R261). -/
def walkStack (asid : BitVec 16) (va : Nat) : Nat :=
  (BitVec.ofNat 3 (va / 2 ^ 16) ^^^ BitVec.ofNat 3 (va / 2 ^ 19) ^^^ asid.extractLsb' 0 3).toNat

/-- The walk of an address in a context's tree. -/
def State.walk (s : State) (asid : BitVec 16) (va : Nat) : Walk :=
  match s.ctxOfAsid asid with
  | none => .fault 6#5 1#8
  | some c =>
    let t := walkStack asid va
    walkFrom s.tableWord t levels ((s.ctx c).roots.toList.getD t 0#64).toNat va

/-! ### Lines and permissions (R254–R256) -/

/-- The kinds of access the permission bits tell apart (R256). -/
inductive Acc where
  | r | w | x
deriving DecidableEq, Repr

def LineBits.grants (l : LineBits) (a : Acc) : Bool :=
  match a with
  | .r => l.r
  | .w => l.w
  | .x => l.x

def Leaf.grants (l : Leaf) (a : Acc) : Bool :=
  match a with
  | .r => l.r
  | .w => l.w
  | .x => l.x

/-- The bits a line gets in a cache with a leaf (R255). -/
def Leaf.bits (l : Leaf) (c : Cache) : LineBits := ⟨c, l.x, l.w, l.r⟩

/-- The caches an access of a core looks into, the nearest first (R254). -/
def viaCore (core : Nat) : List Cache := [.l1 core, .l2 (dieOfCore core), .l3]

/-- The caches an access of another agent of a die looks into; the command die has no L2 (R254). -/
def viaDie (die : Fin 5) : List Cache := if die = 4 then [.l3] else [.l2 die.val, .l3]

/-- A location with a tag. -/
def State.tagged? (s : State) (tag : BitVec 16) (va : Nat) : Option Line :=
  s.lines.find? fun l => l.asid == tag && l.va == va / 128 * 128

/-- The location of an address: its own ASID's, else a global one (R255). -/
def State.loc? (s : State) (asid : BitVec 16) (va : Nat) : Option Line := (s.tagged? asid va).or (s.tagged? 0#16 va)

/-- A location's bits in a cache that holds its line. -/
def Line.in? (l : Line) (c : Cache) : Option (Line × LineBits) := (l.bits.find? fun b => b.cache == c).map fun b => (l, b)

/-- The line an access hits, with its bits, in the nearest cache that holds one of its own ASID or a global one (R255). -/
def State.hit? (s : State) (via : List Cache) (asid : BitVec 16) (va : Nat) : Option (Line × LineBits) :=
  via.findSome? fun c => ((s.tagged? asid va).bind (·.in? c)).or ((s.tagged? 0#16 va).bind (·.in? c))

/-! ### TLBs (R254, R261, R280) -/

/-- Whether a unit is retired, for the rest of its life or of this power-on (R280, R336). -/
def State.isRetired (s : State) (u : ErrUnit) (n : Nat) : Bool :=
  (s.trust.retired ++ s.trust.retiredNow).any fun r => r.1 == u && r.2.toNat == n

/-- The L3 bank of an address on a base die: the bank of its hash, or the next one online (R254, R280). Bank b of domain d has the
number 48d + b (log 10). -/
def State.bankOf (s : State) (dom va : Nat) : Nat :=
  let b := Config.l3Bank (va / 128)
  ((List.range 48).find? fun k => !s.isRetired .l3Bank (48 * dom + (b + k) % 48)).elim (b % 48) fun k => (b + k) % 48

/-- The controller whose TLB translates an address: that of its bank at its home (R254, R261). -/
def State.ctlOf (s : State) (asid : BitVec 16) (va : Nat) : Nat :=
  let d := s.home asid va
  4 * d + s.bankOf d va / 12

/-- Whether a TLB entry translates an address of an ASID. -/
def TlbEntry.covers (e : TlbEntry) (asid : BitVec 16) (va : Nat) : Bool :=
  (e.asid == asid || e.leaf.glb) && e.va == va / 2 ^ pageShift e.leaf.size * 2 ^ pageShift e.leaf.size

/-- The entry for an address in the TLB of its controller. -/
def State.tlb? (s : State) (asid : BitVec 16) (va : Nat) : Option TlbEntry :=
  s.tlb.find? fun e => e.covers asid va && e.ctl == s.ctlOf asid va

/-- Drop the TLB entries of an address in an ASID from every TLB (R265). -/
def State.dropTlb (s : State) (asid : BitVec 16) (va : Nat) : State := { s with tlb := s.tlb.filter fun e => !e.covers asid va }

/-- Drop the entries of an address from one TLB. -/
def State.dropTlbAt (s : State) (ctl : Nat) (asid : BitVec 16) (va : Nat) : State :=
  { s with tlb := s.tlb.filter fun e => !(e.ctl == ctl && e.covers asid va) }

/-- A list without the element that a full cache gives up. -/
def giveUp {α : Type} [DecidableEq α] (l all : List α) (n : Nat) : List α :=
  match all[n % all.length]? with
  | some v => l.filter fun x => x != v
  | none => l

/-- A TLB of 2,048 entries takes an entry in the place of those of the same page (R261). -/
def State.putTlb (s : State) (e : TlbEntry) : State :=
  let s := s.dropTlbAt e.ctl e.asid e.va
  let full := s.tlb.filter fun x => x.ctl == e.ctl
  { s with tlb := (if full.length < 2048 then s.tlb else giveUp s.tlb full (Config.victim s.ticks)) ++ [e] }

/-- Whether an access is granted without a walk: by the bits of the line it hits, or on a miss by its controller's TLB (R256, R261). -/
def State.granted (s : State) (via : List Cache) (asid : BitVec 16) (va : Nat) (a : Acc) : Bool :=
  match s.hit? via asid va with
  | some l => l.2.grants a
  | none => match s.tlb? asid va with
    | some e => e.leaf.grants a
    | none => false

/-! ### Physical memory (R332) -/

/-- Write bytes of physical memory under a key; the rest of a block of another key keeps what a reader of this key saw. -/
def State.physWrite (s : State) (key pa : Nat) (bs : List Byte) : State :=
  if s.sealed.isEmpty && key == 0 then { s with hbm := writeBytes s.hbm pa bs }
  else
    let bl := blocksOf pa bs.length
    let m := bl.foldl (fun m b => writeBytes m (16 * b) (s.blockBytes key b)) s.hbm
    let rest := s.sealed.filter fun p => !bl.contains p.1
    { s with hbm := writeBytes m pa bs, sealed := if key = 0 then rest else bl.map (fun b => (b, key)) ++ rest }

/-- Write a large range of physical memory under a key. -/
def State.physPut (s : State) (key pa : Nat) (bs : List Byte) : State :=
  if s.sealed.isEmpty && key == 0 then { s with hbm := memSplice s.hbm pa bs } else s.physWrite key pa bs

/-- The key of an address in `cdata`. -/
def lineKey (asid : BitVec 16) (va : Nat) : Nat := asid.toNat * 2 ^ 56 + va

/-- The lines a cache has room for (R254): 256 KiB in an L1; in an L2 96 banks of four way groups of 1 MiB, less those retired, numbered
384d + 4b + g for group g of bank b of domain d; in an L3 48 banks of 16 MiB, less those retired (R280; log 10). -/
def State.capacity (s : State) (c : Cache) (dom : Nat) : Nat :=
  let lost (u : ErrUnit) (n : Nat) : Nat := ((List.range n).filter fun k => s.isRetired u (n * dom + k)).length
  let any (u : ErrUnit) : Bool := (s.trust.retired ++ s.trust.retiredNow).any fun r => r.1 == u
  match c with
  | .l1 _ => 2048
  | .l2 _ => 8192 * (384 - if any .l2WayGroup then lost .l2WayGroup 384 else 0)
  | .l3 => 131072 * (48 - if any .l3Bank then lost .l3Bank 48 else 0)

/-- The locations whose lines a cache holds; of the L3s, that of one domain. -/
def State.heldIn (s : State) (c : Cache) (dom : Nat) : List Line :=
  s.lines.filter fun l => l.bits.any (fun b => b.cache == c) && (c != .l3 || s.home l.asid l.va == dom)

/-- A cache drops its copy of a location's line. -/
def State.evictBits (s : State) (c : Cache) (tag : BitVec 16) (va : Nat) : State :=
  { s with lines := s.lines.map fun l =>
      if l.asid == tag && l.va == va / 128 * 128 then { l with bits := l.bits.filter fun b => b.cache != c } else l }

/-- A full cache gives up a line before it takes another (R254). -/
def State.makeRoom (s : State) (c : Cache) (asid : BitVec 16) (va : Nat) : State :=
  let dom := match c with
    | .l1 _ => 0
    | .l2 d => d
    | .l3 => s.home asid va
  let ls := s.heldIn c dom
  if ls.length < s.capacity c dom then s
  else match ls[Config.victim s.ticks % ls.length]? with
    | some l => s.evictBits c l.asid l.va
    | none => s

/-- Caches take the line of a location, with the bits given (R255). -/
def State.hold (s : State) (tag : BitVec 16) (va : Nat) (bs : List LineBits) : State :=
  bs.foldl (fun t b =>
    let t := t.makeRoom b.cache tag va
    { t with lines := t.lines.map fun l =>
        if l.asid == tag && l.va == va / 128 * 128 then { l with bits := b :: l.bits.filter fun x => x.cache != b.cache } else l }) s

/-- The L2 an access looks into. -/
def viaL2 (via : List Cache) : Option Nat := via.findSome? fun c => match c with
  | .l2 d => some d
  | .l1 _ => none
  | .l3 => none

/-- An access that reaches its L2 (R328). -/
def State.countL2 (s : State) (via : List Cache) (asid : BitVec 16) : State := (viaL2 via).elim s fun d => s.countOf asid d 0x03#8 1

/-- An access that finds its line in the cache named, or in none: what it misses, and the two units of 64 bytes that come from HBM
where every cache misses (R328, log 17). -/
def State.countMisses (s : State) (via : List Cache) (asid : BitVec 16) (va : Nat) (at_ : Option Cache) : State :=
  let dom := s.home asid va
  let t := match viaL2 via, at_ with
    | some d, none | some d, some .l3 => s.countOf asid d 0x04#8 1
    | _, _ => s
  if at_.isNone then (t.countOf asid dom 0x05#8 1).countOf asid dom 0x06#8 2 else t

/-- Write a line's data back to its frame if it differs (R254). -/
def State.writeBack (s : State) (l : Line) : State :=
  if l.dirty then
    let t := (s.countOf l.asid (frameDomain l.pa) 0x06#8 2).physWrite (s.keyOf l.asid) l.pa (readBytes s.cdata (lineKey l.asid l.va) 128)
    { t with lines := t.lines.map fun x => if x.asid == l.asid && x.va == l.va then { x with dirty := false } else x }
  else s

/-- Drop a location: its data goes with it. -/
def State.dropLine (s : State) (l : Line) : State :=
  { s with
    lines := s.lines.filter fun x => !(x.asid == l.asid && x.va == l.va)
    cdata := memClear s.cdata (lineKey l.asid l.va) 128 }

/-- Write back and drop the locations of a list. -/
def State.dropLines (s : State) (ls : List Line) : State :=
  match ls with
  | [] => s
  | l :: t => State.dropLines ((s.writeBack l).dropLine l) t

/-- A location filled from memory, with the line in no cache yet. -/
def State.readLine (s : State) (tag : BitVec 16) (k pa : Nat) : State :=
  { s with
    lines := s.lines ++ [⟨tag, k, pa, false, []⟩]
    cdata := writeBytes s.cdata (lineKey tag k) (s.physRead (s.keyOf tag) pa 128) }

/-- The caches an access looks into take the line it needs (R254, R255, R261): from the nearest that holds it, with its bits, else by the
translation of its controller's TLB. A location whose data stands is not read anew, unless it is as its frame was, no cache holds its line
and the translation names another frame by now (R265; log 10). -/
def State.fillLine (s : State) (via : List Cache) (asid : BitVec 16) (va : Nat) : State :=
  match s.hit? via asid va with
  | some (l, b) =>
    (s.countMisses via asid va (some b.cache)).hold l.asid va ((via.takeWhile (· != b.cache)).map fun c => { b with cache := c })
  | none => match s.tlb? asid va with
    | none => s
    | some e =>
      let k := va / 128 * 128
      let tag := if e.leaf.glb then 0#16 else asid
      let pa := e.leaf.frame + k % 2 ^ pageShift e.leaf.size
      let s := s.countMisses via asid va none
      let t := match s.tagged? tag va with
        | some l => if l.pa = pa ∨ !l.bits.isEmpty ∨ l.dirty then s else (s.dropLine l).readLine tag k pa
        | none => s.readLine tag k pa
      t.hold tag va (via.map e.leaf.bits)

/-- The ASID an address's location is tagged with; the accessing ASID where it has none. -/
def State.tagOf (s : State) (asid : BitVec 16) (va : Nat) : BitVec 16 := (s.loc? asid va).elim asid (·.asid)

/-! ### The dies' views (R269–R271) -/

/-- Whether a write covers an address. -/
def DieWrite.covers (w : DieWrite) (tag : BitVec 16) (va : Nat) : Bool :=
  w.asid == tag && decide (w.va ≤ va) && decide (va < w.va + w.bytes.length)

/-- Whether two writes have a byte in common. -/
def DieWrite.overlaps (w x : DieWrite) : Bool :=
  w.asid == x.asid && decide (w.va < x.va + x.bytes.length) && decide (x.va < w.va + w.bytes.length)

/-- Of the writes that cover a byte and are applied at a die, the one it shows: the die's own last write without a home
position, else the one latest in the home order (R271). -/
def shownWrite (ws : List DieWrite) (die : Fin 5) (tag : BitVec 16) (va : Nat) : Option DieWrite :=
  ws.foldl (fun acc w =>
    if w.covers tag va && w.applied.getLsbD die.val then
      match acc with
      | none => some w
      | some x => match w.home, x.home with
        | none, _ => some w
        | some _, none => some x
        | some a, some b => if b < a then some w else some x
    else acc) none

/-- The byte a die reads at a global address whose line is present. -/
def State.viewByte (s : State) (die : Fin 5) (asid : BitVec 16) (va : Nat) : Byte :=
  let tag := s.tagOf asid va
  match shownWrite s.writes die tag va with
  | some w => w.bytes.getD (va - w.va) 0#8
  | none => memRead s.cdata (lineKey tag va)

/-- The bytes a die reads. -/
def State.viewBytes (s : State) (die : Fin 5) (asid : BitVec 16) (va n : Nat) : List Byte :=
  (List.range n).map fun i => s.viewByte die asid (va + i)

/-- The dies that apply every write: the online domains and the command die (R269, R275). -/
def State.diesUp (s : State) : BitVec 5 := 1#1 ++ s.online

/-- A write that every die has applied and that no overlapping write precedes in the home order is settled. -/
def State.settled (s : State) (w : DieWrite) : Bool :=
  w.applied &&& s.diesUp == s.diesUp && (match w.home with
    | none => false
    | some p => s.writes.all fun x => x.id == w.id || !w.overlaps x || (match x.home with | none => true | some q => decide (p < q)))

/-- Move the settled writes into the lines' data, up to `fuel` of them. -/
def State.settleWrites (fuel : Nat) (s : State) : State :=
  match fuel with
  | 0 => s
  | n + 1 => match s.writes.find? s.settled with
    | none => s
    | some w =>
      State.settleWrites n
        { s with
          writes := s.writes.filter fun x => x.id != w.id
          cdata := writeBytes s.cdata (lineKey w.asid w.va) w.bytes
          lines := s.lines.map fun l => if l.asid == w.asid && l.va == w.va / 128 * 128 then { l with dirty := true } else l }

/-- A write performed at a die (R269): applied there, with every write applied there as its causes (R270); its home position is
known at once when the die is its home (R271). -/
def State.dieWrite (s : State) (by_ seen : List Nat) (die : Fin 5) (asid : BitVec 16) (va : Nat) (bytes : List Byte) : State :=
  let home := s.home asid va
  let deps := (s.writes.filter fun w => w.applied.getLsbD die.val).map (·.id)
  let w : DieWrite := ⟨s.nextId, s.tagOf asid va, va, bytes, die, 1#5 <<< die.val, deps, by_, seen, home,
    if home = die.val then some s.nextId else none⟩
  State.settleWrites (s.writes.length + 1) { s with nextId := s.nextId + 1, writes := s.writes ++ [w] }

/-- Whether a write may take its place in the home order before its home applies it, so that the writes that wait for that place can be
applied (R271, R275): what it followed at its die with a common byte has its place. -/
def State.mayPlace (s : State) (w : DieWrite) (die : Fin 5) : Bool :=
  w.home.isNone && (w.hdie == die.val || !s.diesUp.getLsbD w.hdie) &&
  s.writes.all fun x => !(w.deps.contains x.id && x.overlaps w) || x.home.isSome

/-- A write takes the next place of the home order. -/
def State.placeWrite (s : State) (w : DieWrite) : State :=
  { s with
    nextId := s.nextId + 1
    writes := s.writes.map fun x => if x.id == w.id then { x with home := w.home.or (some s.nextId) } else x }

/-- Whether WRITE_APPLY_AT_DIE may happen: the write's causes are applied at the die, its home position is known or the die is
its home, or its home is gone, and no own write of the die to a common byte waits for its position (R270, R271). -/
def State.mayApply (s : State) (w : DieWrite) (die : Fin 5) : Bool :=
  !w.applied.getLsbD die.val && s.diesUp.getLsbD die.val &&
  s.writes.all (fun x => !w.deps.contains x.id || x.applied.getLsbD die.val) &&
  (w.home.isSome || w.hdie == die.val || !s.online.getLsbD w.hdie) &&
  s.writes.all (fun x => !(x.die == die && x.home.isNone && x.overlaps w))

/-- Apply a write at a die; at its home it takes the next place of the home order (R271). -/
def State.applyWrite (s : State) (w : DieWrite) (die : Fin 5) : State :=
  let w' := { w with applied := w.applied ||| (1#5 <<< die.val), home := w.home.or (some s.nextId) }
  State.settleWrites (s.writes.length + 1)
    { s with nextId := s.nextId + 1, writes := s.writes.map fun x => if x.id == w.id then w' else x }

/-- The writes of a list that a condition admits, with everything that caused them (R270): a cause stands before what it caused. -/
def withCauses (p : DieWrite → Bool) (ws : List DieWrite) : List Nat :=
  ws.foldr (fun w ids => if p w || ids.contains w.id then w.id :: (w.deps ++ ids) else ids) []

/-- Apply every write of a range everywhere, with its causes, in the order they stand (R266: the flush completes what is in flight). -/
def State.forceWrites (s : State) (tag : BitVec 16) (lo len : Nat) : State :=
  let ids := withCauses (fun w => w.asid == tag && decide (w.va < lo + len) && decide (lo < w.va + w.bytes.length)) s.writes
  let ws := s.writes.zipIdx.map fun (w, i) =>
    if ids.contains w.id then { w with applied := 0b11111#5, home := w.home.or (some (s.nextId + i)) } else w
  State.settleWrites (s.writes.length + 1) { s with nextId := s.nextId + s.writes.length, writes := ws }

/-- A range flush (R266) of one tag ASID: lines written back and invalidated, TLB entries dropped; the copies of atomic reads go too. -/
def State.flushTag (s : State) (tag : BitVec 16) (lo len : Nat) : State :=
  let s := s.forceWrites tag lo len
  let hit (l : Line) : Bool := l.asid == tag && decide (l.va < lo + len) && decide (lo < l.va + 128)
  let s := s.dropLines (s.lines.filter hit)
  { s with
    copies := s.copies.filter fun c => !(c.asid == tag && decide (c.va < lo + len) && decide (lo < c.va + 4))
    tlb := s.tlb.filter fun e =>
      !((e.asid == tag || (tag == 0#16 && e.leaf.glb)) && decide (e.va < lo + len) &&
        decide (lo < e.va + 2 ^ pageShift e.leaf.size)) }

/-- A range flush (R266) for an ASID, and for ASID 0. -/
def State.flushRange (s : State) (asid : BitVec 16) (lo len : Nat) : State := (s.flushTag asid lo len).flushTag 0#16 lo len

/-- An access that a walk grants brings the leaf into its controller's TLB, and gives the line it hits its permission bits in the
caches it looked into (R256, R261). -/
def State.installLeaf (s : State) (via : List Cache) (asid : BitVec 16) (va : Nat) (l : Leaf) : State :=
  let t := s.putTlb ⟨s.ctlOf asid va, asid, va / 2 ^ pageShift l.size * 2 ^ pageShift l.size, l⟩
  match s.hit? via asid va with
  | none => t
  | some (x, _) => { t with lines := t.lines.map fun y =>
      if y.asid == x.asid && y.va == x.va then
        { y with bits := y.bits.map fun b => if via.contains b.cache then l.bits b.cache else b }
      else y }

/-- Whether the first faulter of a page is outstanding (R176). -/
def State.pageHeld (s : State) (asid : BitVec 16) (va : Nat) : Bool :=
  s.firstFaults.any fun f => f.asid == asid && f.page == va / 65536 && f.installed.isNone

/-- Whether an access may be performed, walking where needed and where no first faulter holds the page (R256, R261, R176); the
state then holds what the walk brought. -/
def State.tryGrant (s : State) (via : List Cache) (asid : BitVec 16) (va : Nat) (a : Acc) : Option State :=
  if s.granted via asid va a then some ((s.countL2 via asid).fillLine via asid va)
  else if s.pageHeld asid va then none
  else match s.walk asid va with
    | .leaf l => if l.grants a then some (((s.installLeaf via asid va l).countL2 via asid).fillLine via asid va) else none
    | .fault _ _ => none
    | .malformed _ => none

/-- The fault of an access that is not granted (R171, R264): group and case. -/
def State.faultOf (s : State) (asid : BitVec 16) (va : Nat) (a : Acc) : Option (BitVec 5 × BitVec 8) :=
  match s.walk asid va with
  | .leaf l => if l.grants a then none else some (5#5, 5#8)
  | .fault g c => some (g, c)
  | .malformed _ => some (6#5, 1#8)

/-! ### Data that cannot be read correctly (R197, R280) -/

/-- The physical address of a global address: of the location it has, else by its translation. -/
def State.physical (s : State) (asid : BitVec 16) (va : Nat) : Option Nat :=
  match s.loc? asid va with
  | some l => some (l.pa + va % 128)
  | none => match s.tlb? asid va with
    | some e => some (e.leaf.frame + va % 2 ^ pageShift e.leaf.size)
    | none => match s.walk asid va with
      | .leaf l => some (l.frame + va % 2 ^ pageShift l.size)
      | .fault _ _ => none
      | .malformed _ => none

/-- The ring position of the newest entry of the error log that a condition admits; of the newest where none is admitted (R166, R337). -/
def Trust.entryIndex (t : Trust) (p : LogEntry → Bool) : BitVec 16 :=
  BitVec.ofNat 16 ((t.logged - 1 - (t.log.findIdx? p).getD 0) % 4096)

/-- The ring position of the log entry of the error behind a global address. -/
def State.errorIndex (s : State) (asid : BitVec 16) (va : Nat) : BitVec 16 :=
  s.trust.entryIndex fun e => e.kind == 2#8 && ((s.physical asid va).map (· / 128)) == some (e.addr.toNat / 128)

/-! ### Whole accesses of the command die and the engines -/

/-- The chunks of a range that do not cross a line: (address, length). -/
def lineChunks (fuel va n : Nat) : List (Nat × Nat) :=
  match fuel with
  | 0 => []
  | k + 1 =>
    if n = 0 then []
    else
      let len := min n (128 - va % 128)
      (va, len) :: lineChunks k (va + len) (n - len)

/-- Bring the lines of a range, granted for an access; none where one of them faults or is held. -/
def State.grantRange (s : State) (via : List Cache) (asid : BitVec 16) (va n : Nat) (a : Acc) : Option State :=
  (lineChunks (n + 1) va n).foldl (fun acc c => match acc with
    | none => none
    | some t => t.tryGrant via asid c.1 a) (some s)

/-- Read `n` bytes of the global window as an agent of a die; none where the range faults or is held. -/
def State.gRead (s : State) (die : Fin 5) (asid : BitVec 16) (va n : Nat) : Option (List Byte × State) :=
  match s.grantRange (viaDie die) asid va n .r with
  | none => none
  | some t => some (t.viewBytes die asid va n, t)

/-- Write bytes of the global window as an agent of a die; none where a line of the range faults or is held. -/
def State.gWrite (s : State) (die : Fin 5) (asid : BitVec 16) (va : Nat) (bs : List Byte) : Option State :=
  (lineChunks (bs.length + 1) va bs.length).foldl (fun acc c => match acc with
    | none => none
    | some t => match t.tryGrant (viaDie die) asid c.1 .w with
      | none => none
      | some u => some (u.dieWrite [] [] die asid c.1 ((bs.drop (c.1 - va)).take c.2))) (some s)

/-- The fault of the first byte of a range that is not granted. -/
def State.rangeFault (s : State) (die : Fin 5) (asid : BitVec 16) (va n : Nat) (a : Acc) : Option (BitVec 5 × BitVec 8) :=
  (lineChunks (n + 1) va n).findSome? fun c => if s.granted (viaDie die) asid c.1 a then none else s.faultOf asid c.1 a

/-- Whether an access to a range parks behind the first faulter of a page (R176): one of its pages needs a walk and is held. -/
def State.rangeHeld (s : State) (die : Fin 5) (asid : BitVec 16) (va n : Nat) (a : Acc) : Bool :=
  !s.firstFaults.isEmpty && (lineChunks (n + 1) va n).any fun c => !s.granted (viaDie die) asid c.1 a && s.pageHeld asid c.1

/-- Whether a range holds data that could not be read correctly (R280). -/
def State.poisoned (s : State) (asid : BitVec 16) (va n : Nat) : Bool :=
  !s.poison.isEmpty && (lineChunks (n + 1) va n).any fun c => match s.physical asid c.1 with
    | some p => s.poison.contains (p / 128)
    | none => false

/-! ### Time (R85) -/

/-- The time-stamp counter is read: it has gone on by a free amount since the last reading, less what it has to pause, and never
decreases (R85, R362; log 4). -/
def State.tick (s : State) : State :=
  let d := Config.clockAdvance s.ticks
  let p := if d.toNat < s.tscPause.toNat then d else s.tscPause
  let n := s.tsc + (d - p)
  { s with tsc := if n.toNat < s.tsc.toNat then s.tsc else n, tscPause := s.tscPause - p, ticks := s.ticks + 1 }

/-! ### The error log (R337) -/

/-- Write an entry: a full ring loses its oldest, and the wrap count goes up (R337). -/
def State.logError (s : State) (e : LogEntry) : State :=
  { s with trust := { s.trust with
      log := (e :: s.trust.log).take 4096
      logged := s.trust.logged + 1
      wraps := if s.trust.log.length < 4096 then s.trust.wraps else s.trust.wraps + 1 } }

/-- A page-table entry found malformed by a walk for a context (R264). -/
def State.logMalformed (s : State) (c : Fin 17) (pa : Nat) : State :=
  let t := s.tick
  t.logError ⟨t.tsc, BitVec.ofNat 64 pa, BitVec.ofNat 16 c.val, BitVec.ofNat 32 (pa / 2 ^ 36), 7#8, 4#8, 2#8⟩

/-- A walk for an address of a context, with the entry it logs where it meets a malformed one (R264). -/
def State.logWalk (s : State) (c : Fin 17) (va : Nat) : State :=
  match s.walk (s.asidOf c) va with
  | .malformed pa => s.logMalformed c pa
  | .leaf _ => s
  | .fault _ _ => s

/-- The walk of the first part of a range that is not granted to an agent of a die is logged (R264). -/
def State.logRange (s : State) (die : Fin 5) (c : Fin 17) (va n : Nat) (a : Acc) : State :=
  match (lineChunks (n + 1) va n).find? fun k => !s.granted (viaDie die) (s.asidOf c) k.1 a with
  | some k => s.logWalk c k.1
  | none => s

end Sys2Proof.Machine
end

