-- ==== Sys2Proof/Machine/Landing.lean ====
section
/-! DEFINITION. Landing windows (R347–R349), the receipt of an entry by a landing bank (R357, R359), and the capture of local
stores (R350). -/

set_option Elab.async false

namespace Sys2Proof.Machine

/-! ### Descriptors (R347) -/

def lwBase (d : BitVec 256) : Nat := (d.extractLsb' 192 64).toNat
def lwLen (d : BitVec 256) : Nat := (d.extractLsb' 128 64).toNat
def lwCtx (d : BitVec 256) : Nat := (d.extractLsb' 96 5).toNat
def lwOwner (d : BitVec 256) : BitVec 9 := d.extractLsb' 64 9
def lwRule (d : BitVec 256) : Nat := (d.extractLsb' 1 4).toNat
def lwEn (d : BitVec 256) : Bool := d.getLsbD 0

/-- Whether an active descriptor keeps the limits it can be checked for by itself (R347). -/
def lwFieldsOk (d : BitVec 256) : Bool :=
  d.extractLsb' 101 27 == 0#27 && d.extractLsb' 73 23 == 0#23 && d.extractLsb' 5 59 == 0#59 &&
  decide (lwBase d % 65536 = 0) && decide (lwBase d < 2 ^ 56) && decide (lwLen d % 65536 = 0) && decide (65536 ≤ lwLen d) &&
  decide (lwLen d ≤ 2 ^ 41) && decide (lwCtx d ≤ 16) && decide (lwRule d ≤ 10)

/-- Whether two descriptors' ranges overlap in one context. -/
def lwOverlap (d e : BitVec 256) : Bool :=
  lwCtx d == lwCtx e && decide (lwBase d < lwBase e + lwLen e) && decide (lwBase e < lwBase d + lwLen d)

/-- Whether a descriptor is an active window of a context that holds an address. -/
def lwCovers (d : BitVec 256) (cx : Fin 17) (va : Nat) : Bool :=
  lwEn d && lwCtx d == cx.val && decide (lwBase d ≤ va) && decide (va < lwBase d + lwLen d)

/-- The window in force that backs an address of a context. -/
def State.landing? (s : State) (cx : Fin 17) (va : Nat) : Option (Fin 64) :=
  (List.finRange 64).find? fun w => lwCovers (s.fab.inForce.get w) cx va

/-- Whether an address is in a window of this step or, once its descriptor takes effect, of the next (R349). -/
def State.nearLanding (s : State) (cx : Fin 17) (va : Nat) : Bool :=
  (s.landing? cx va).isSome ||
  (List.finRange 64).any fun w => lwCovers (s.fab.written.get w) cx va && lwFieldsOk (s.fab.written.get w)

/-! ### Failed operations (R358, R359) -/

/-- A context's failed-peer set gets a peer. -/
def State.failPeer (s : State) (cx : Fin 17) (p : BitVec 9) : State :=
  let c := s.ctx cx
  if c.failed.contains p then s else s.setCtx cx { c with failed := c.failed ++ [p] }

/-- The bank and the record of a step. -/
def stepBank (t : Nat) : Fin 2 := Fin.ofNat 2 t

/-- Change what the status of a step will hold. -/
def State.modAcc (s : State) (t : Nat) (f : StepAcc → StepAcc) : State :=
  { s with fab := { s.fab with accs := s.fab.accs.set (stepBank t) (f (s.fab.accs.get (stepBank t))) } }

/-- A peer has a failed operation in a step. -/
def StepAcc.blame (a : StepAcc) (p : BitVec 9) : StepAcc := { a with bad := if a.bad.contains p then a.bad else a.bad ++ [p] }

/-- What a receipt finds (R357, R359). -/
inductive Receipt where
  | accepted
  | range
  | owner
  | fault
  | full
deriving DecidableEq, Repr

/-- The judgment of an entry under the descriptors in force (R348, R357). -/
def State.judgeEntry (s : State) (e : LandEntry) : Receipt :=
  let d := s.fab.inForce.get (e.off.extractLsb' 41 6).toFin
  let byte := (e.off.extractLsb' 0 41).toNat
  let atomic := match e.op with
    | .stx => false
    | .amx _ => true
    | .amxr _ => true
  if !lwEn d || decide (lwLen d ≤ byte) || lwCtx d != e.ctx.val then .range
  else if lwRule d = 0 ∧ e.peer ≠ lwOwner d then .owner
  else if lwRule d == 10 && atomic then .fault
  else .accepted

/-- The entries a bank has room for (R357, R359). -/
def State.bankRoom (s : State) (t : Nat) : Bool :=
  decide ((s.fab.banks.get (stepBank t)).length < s.fab.bankSize * 256)

/-- Put an entry into its bank. -/
def State.pushEntry (s : State) (e : BankEntry) : State :=
  let b := stepBank e.entry.step.toNat
  { s with fab := { s.fab with banks := s.fab.banks.set b (s.fab.banks.get b ++ [e]) } }

/-- Record a rejection in the status of its step (R359); an overflow is counted (R328). -/
def State.noteReject (s : State) (t : Nat) (p : BitVec 9) (r : Receipt) : State :=
  match r with
  | .accepted => s
  | .range => s.modAcc t fun a => { a.blame p with rng := true }
  | .owner => s.modAcc t fun a => { a.blame p with own := true }
  | .fault => s.modAcc t fun a => a.blame p
  | .full => (s.countEvent 0 none 0x11#8 1).modAcc t fun a => { a.blame p with ovf := true }

/-- Receipt of an entry (R349, R357, R359): an entry ahead of the last crossing takes a place at once and is judged when that
crossing completes; none is answered before its judgment. -/
def State.receiveEntry (s : State) (e : LandEntry) : State × Option Receipt :=
  let t := e.step.toNat
  if s.fab.crossed < t then
    if s.bankRoom t then (s.pushEntry ⟨e, false⟩, none) else (s.noteReject t e.peer .full, some .full)
  else
    let r := match s.judgeEntry e with
      | .accepted => if s.bankRoom t then Receipt.accepted else .full
      | r => r
    if r = .accepted then (s.pushEntry ⟨e, true⟩, some r) else (s.noteReject t e.peer r, some r)

/-- The word at `va` with the bytes of a write put over it. -/
def mergeWord (old : Word) (va at_ : Nat) (bs : List Byte) : Word :=
  BitVec.ofNat 32 (ofBytes ((List.range 4).map fun i =>
    if at_ ≤ va + i ∧ va + i < at_ + bs.length then bs.getD (va + i - at_) 0#8 else old.extractLsb' (8 * i) 8))

/-- Capture one word stored into a window's backing range as an STX from this device's own peer id (R350). -/
def State.captureWord (s : State) (cx : Fin 17) (w : Fin 64) (va : Nat) (data : Word) : State :=
  let off : BitVec 47 := BitVec.ofNat 6 w.val ++ BitVec.ofNat 41 (va - lwBase (s.fab.inForce.get w))
  let e : LandEntry := ⟨s.fab.peer, cx, off, .stx, data, BitVec.ofNat 64 s.fab.step, s.nextId⟩
  let r := ({ s with nextId := s.nextId + 1 } : State).receiveEntry e
  match r.2 with
  | none => r.1
  | some .accepted => r.1
  | some _ => r.1.failPeer cx s.fab.peer

end Sys2Proof.Machine
end

