-- ==== Sys2Proof/Machine/Access.lean ====
section
/-! DEFINITION. Outstanding accesses of slices: when one is translated or faulted (R92, R171), the order in which they may be
performed (R149–R154, R172, R272, R273), and performing loads, stores and atomics (R145, R158–R162). -/

set_option Elab.async false

namespace Sys2Proof.Machine

/-! ### Slices and registers in the state -/

/-- A slice by its identity. -/
def State.slice? (s : State) (sid : Nat) : Option Slice := s.slices.find? fun x => x.sid == sid

/-- The slice that stands in a slot. -/
def State.sliceAt (s : State) (core slot : Nat) : Option Slice :=
  s.slices.find? fun x => x.core == core && x.slot == slot && x.place == .resident

/-- Replace a slice by its new value. -/
def State.putSlice (s : State) (sl : Slice) : State :=
  { s with slices := s.slices.map fun x => if x.sid == sl.sid then sl else x }

/-- Replace several slices. -/
def State.putSlices (s : State) (ls : List Slice) : State := ls.foldl State.putSlice s

/-- Change one slice. -/
def State.modSlice (s : State) (sid : Nat) (f : Slice → Slice) : State :=
  { s with slices := s.slices.map fun x => if x.sid == sid then f x else x }

/-- The wave with a number. -/
def State.wave? (s : State) (w : Word) : Option Wave := s.waves.find? fun x => x.num == w

/-- The context of a wave; a wave that is gone has none and reads as context 0. -/
def State.ctxOfWave (s : State) (w : Word) : Fin 17 :=
  match s.wave? w with
  | some x => x.ctx
  | none => 0

/-- The compute die of a core as a die of the memory model. -/
def coreDie (core : Nat) : Fin 5 := Fin.ofNat 5 (dieOfCore core)

/-! ### Commands and their descriptors (R238, R240) -/

def dSrc (d : BitVec 256) : DWord := d.extractLsb' 0 64
def dDst (d : BitVec 256) : DWord := d.extractLsb' 64 64
def dLen (d : BitVec 256) : Nat := (d.extractLsb' 128 32).toNat
def dW5 (d : BitVec 256) : Word := d.extractLsb' 160 32
def dW6 (d : BitVec 256) : Word := d.extractLsb' 192 32
def dCtl (d : BitVec 256) : Word := d.extractLsb' 224 32
def dNrow (d : BitVec 256) : Nat := (d.extractLsb' 148 12).toNat + 1
def dRowlen (d : BitVec 256) : Nat := (d.extractLsb' 128 20).toNat
/-- The address of a second operand: SCL of CBDC, AMA of CPYAM. -/
def dAux (d : BitVec 256) : DWord := d.extractLsb' 160 64
def dIdx (d : BitVec 256) : Nat := (d.extractLsb' 160 20).toNat
def dRowsz (d : BitVec 256) : Nat := (d.extractLsb' 192 13).toNat

/-- CTL (R240). -/
def ctlBen (w : Word) : Bool := w.getLsbD 31
def ctlTbl (w : Word) : Nat := (w.extractLsb' 28 3).toNat
def ctlFmt (w : Word) : Nat := (w.extractLsb' 26 2).toNat
def ctlElt (w : Word) : Nat := (w.extractLsb' 24 2).toNat
def ctlBoff (w : Word) : Nat := 4 * (w.extractLsb' 2 18).toNat

/-- The descriptor of a command. -/
def Cmd.d (c : Cmd) : BitVec 256 := BitVec.ofNat 256 (ofBytes (c.desc.take 32))

/-- The bytes of one element of CPYAM. -/
def amSize (elt : Nat) : Nat := if elt = 0 then 4 else 2

/-- The bytes CBDC writes for one index. -/
def cbdcBytes (fmt : Nat) : Nat := if fmt = 2 then 16 else 8

/-- The units of a command: segments, or blocks (R238). -/
def Cmd.units (c : Cmd) : Nat :=
  let d := c.d
  match c.kind with
  | .cpy | .cpyam => (dLen d + 4095) / 4096
  | .cpys => (dNrow d * dRowlen d + 4095) / 4096
  | .cbdc => (dLen d * cbdcBytes (ctlFmt (dCtl d)) + 4095) / 4096
  | .gath | .scat => (dLen d + 63) / 64
  | .shld _ => 1

/-- Whether a command has nothing left to do but to complete. -/
def Cmd.finished (c : Cmd) : Bool := c.checked && (c.err != 0#8 || decide (c.units ≤ c.unit))

/-! ### Which operations touch memory, and how -/

/-- The permission an operation needs (R256). -/
def TxnKind.acc (k : TxnKind) : Acc :=
  match k with
  | .store _ => .w
  | .atomic .. => .w
  | .amaxx => .w
  | _ => .r

/-- Loads, stores and atomics, the loads other instructions make (R92), and the commands of group 0xB until they have completed
(R152). -/
def TxnKind.isAccess (k : TxnKind) : Bool :=
  match k with
  | .load _ | .store _ | .atomic .. | .amaxx | .waitv _ | .trule _ | .qpush .. | .command _ | .token _ | .barr _ | .bart _ | .xfence
  | .nsend _ | .npost _ => true
  | _ => false

/-- The operations R172 lists. -/
def TxnKind.waitsTranslated (k : TxnKind) : Bool :=
  match k with
  | .store (some _) => true
  | .atomic _ _ use _ _ _ => use != .speculative
  | .amaxx => true
  | .barr _ => true
  | .command _ => true
  | .qpush .. => true
  | .stx _ | .amx .. | .ldx | .amxr _ | .wake .. | .xarr | .xwait _ | .xfence | .nsend _ | .npost _ => true
  | _ => false

/-- The operations the fabric engine accepts (R344). -/
def TxnKind.isFabric (k : TxnKind) : Bool :=
  match k with
  | .stx _ | .amx .. | .ldx | .amxr _ | .wake .. => true
  | _ => false

/-- A release (R150, R190, R100). -/
def TxnKind.release (k : TxnKind) : Option Scope :=
  match k with
  | .store r => r
  | .atomic _ _ _ o sc _ => if o == .rel || o == .acqRel then some sc else none
  | .barr _ => some .core
  | .qpush .. => some .package
  | .xarr => some .pod
  | _ => none

/-- The releases that leave the core only when the slice's stores are visible to every agent (R100, R354). -/
def TxnKind.publishes (k : TxnKind) : Bool :=
  match k with
  | .qpush .. | .xarr => true
  | _ => false

/-- An acquire that later accesses wait for (R150). -/
def TxnKind.acquire (k : TxnKind) : Bool :=
  match k with
  | .load (some _) => true
  | .atomic _ _ _ o _ _ => o == .acq || o == .acqRel
  | .bart _ => true
  | _ => false

/-- A load, a value-returning atomic, or another operation that reads memory (R152). -/
def TxnKind.reads (k : TxnKind) : Bool :=
  match k with
  | .load _ | .amaxx | .waitv _ | .trule _ | .command _ | .token _ | .qpush .. | .nsend _ | .npost _ => true
  | .atomic _ _ _ _ _ rd => rd
  | _ => false

/-- A store, an atomic, or a command of group 0xB (R152). -/
def TxnKind.writes (k : TxnKind) : Bool :=
  match k with
  | .store _ | .atomic .. | .amaxx | .xfence | .command _ | .token _ => true
  | _ => false

/-- An acquire of die scope or wider, the read of a WAITV and the fill of an XWAIT among them (R99, R159, R354). -/
def TxnKind.wideAcquire (k : TxnKind) : Bool :=
  match k with
  | .load (some sc) => !(sc == .slice || sc == .crew || sc == .core)
  | .atomic _ _ _ o sc _ => (o == .acq || o == .acqRel) && !(sc == .slice || sc == .crew || sc == .core)
  | .waitv _ => true
  | .xwait _ => true
  | _ => false

/-- A read that finds a store of its core at its core point (R149): not that of a record, nor an atomic's. -/
def TxnKind.readsCore (k : TxnKind) : Bool :=
  match k with
  | .qpush .. | .nsend _ | .npost _ => false
  | _ => k.acc == .r

/-- A commutative-use atomic (R159). -/
def TxnKind.commutative (k : TxnKind) : Bool :=
  match k with
  | .atomic _ _ u _ _ _ => u == .commutative
  | _ => false

/-- Whether a slice has a part in an operation. -/
def Txn.has (t : Txn) (sid : Nat) : Bool := t.parts.any fun p => p.sid == sid

/-- The ASID an operation runs in. -/
def State.txnAsid (s : State) (t : Txn) : BitVec 16 := s.asidOf t.ctx

/-- The address a lane accesses in its window. -/
def LaneAcc.off (l : LaneAcc) : Nat := offsetOf l.addr

/-- Whether an operation is an atomic, which is performed at the home of its address (R158). -/
def TxnKind.atHome (k : TxnKind) : Bool :=
  match k with
  | .atomic .. | .amaxx => true
  | _ => false

/-- The caches an access of an operation looks into: its core's, or those at the home for an atomic (R158, R254). -/
def State.txnVia (s : State) (t : Txn) (va : Nat) : List Cache :=
  if t.kind.atHome then viaDie (Fin.ofNat 5 (s.home (s.txnAsid t) va)) else viaCore t.core

/-- Whether the permission of an operation's access at a global address is granted (R92, R256). -/
def State.txnGranted (s : State) (t : Txn) (va : Nat) : Bool := s.granted (s.txnVia t va) (s.txnAsid t) va t.kind.acc

/-- Whether a lane's page is held by a fault of its own slice (R176); an access that keeps its translation has not faulted (R170). -/
def State.laneFaulted (s : State) (t : Txn) (l : LaneAcc) : Bool :=
  windowOf l.addr == some .global && l.xlat.isNone &&
  s.firstFaults.any fun f => f.asid == s.txnAsid t && f.page == l.off / 65536 && f.sid == l.sid &&
    (match f.installed with
     | none => !s.txnGranted t l.off
     | some ids => ids.contains t.id)

/-- Whether a lane's access is translated with its permission granted (R92, R171); other windows need no translation. -/
def State.laneGranted (s : State) (t : Txn) (l : LaneAcc) : Bool :=
  windowOf l.addr != some .global || l.xlat.isSome || (s.txnGranted t l.off && !s.laneFaulted t l)

/-- The leaf of a range of pages is installed: their accesses walk again, but for those that have faulted already (R176). -/
def State.installed (s : State) (asid : BitVec 16) (lo len : Nat) : State :=
  { s with firstFaults := s.firstFaults.map fun f =>
      if f.asid == asid && f.installed.isNone && decide (lo ≤ 65536 * f.page) && decide (65536 * f.page < lo + len) then
        { f with installed := some ((s.txns.filter fun t => t.lanes.any fun l =>
          l.sid == f.sid && l.off / 65536 == f.page && s.laneFaulted t l).map (·.id)) }
      else f }

/-- Whether every access a slice has issued is translated or has faulted (R92, R167). -/
def State.resolved (s : State) (sid : Nat) : Bool :=
  s.txns.all fun t => t.lanes.all fun l => l.sid != sid || s.laneGranted t l || s.laneFaulted t l

/-- The translation an access has now: that of the line it hits, as a leaf of 64 KiB, else its TLB entry's. -/
def State.leafFor (s : State) (t : Txn) (va : Nat) : Option Leaf :=
  match s.hit? (s.txnVia t va) (s.txnAsid t) va with
  | some (x, b) => some ⟨x.pa - x.va % 65536, 0, x.asid == 0#16, b.x, b.w, b.r⟩
  | none => (s.tlb? (s.txnAsid t) va).map (·.leaf)

/-- Whether a slice has relied on the translation of what an operation of it accesses: it has entered another region or a handler or has
ended since (R89, R167, R170), or an operation of R172 has been issued behind it. -/
def State.reliedOn (s : State) (t : Txn) (sid : Nat) : Bool :=
  (match s.slice? sid with
   | none => true
   | some x => (t.parts.find? fun p => p.sid == sid).any fun p => p.region != x.rgncnt || p.sup != modeSup x.mode) ||
  s.txns.any fun u => decide (t.id < u.id) && u.kind.waitsTranslated && u.has sid

/-- Accesses whose translation a slice has relied on keep it: none of them faults later (R92, R167, R170, R172; log 67). -/
def State.keepTranslations (s : State) : State :=
  let keeps (t : Txn) (l : LaneAcc) : Bool :=
    windowOf l.addr == some .global && l.xlat.isNone && s.laneGranted t l && s.reliedOn t l.sid
  let kept (t : Txn) (l : LaneAcc) : LaneAcc := if keeps t l then { l with xlat := s.leafFor t l.off } else l
  if s.txns.any fun t => t.lanes.any (keeps t) then { s with txns := s.txns.map fun t => { t with lanes := t.lanes.map (kept t) } }
  else s

/-- The operations of a slice that have faulted late, oldest first (R167, R171). -/
def State.faultedTxns (s : State) (sid : Nat) : List Txn :=
  s.txns.filter fun t => t.lanes.any fun l => l.sid == sid && s.laneFaulted t l

/-! ### Order (R149–R154, R172, R270–R273) -/

/-- The bytes an operation touches: for each access its window, offset and length; a record an instruction reads is one of them. -/
def Txn.spans (t : Txn) : List (Option Window × Nat × Nat) :=
  t.lanes.map (fun l => (windowOf l.addr, l.off, t.size)) ++
  (match t.kind with
   | .nsend a | .npost a => [(windowOf a, offsetOf a, 64)]
   | .qpush a _ => [(windowOf a, offsetOf a, 64)]
   | _ => [])

/-- Whether two operations touch a common byte. -/
def Txn.common (t u : Txn) : Bool :=
  t.spans.any fun a => u.spans.any fun b =>
    a.1 == b.1 && decide (a.2.1 < b.2.1 + b.2.2) && decide (b.2.1 < a.2.1 + a.2.2)

/-- The narrow scopes, whose agents sit on one core (R148). -/
def Scope.inCore (sc : Scope) : Bool :=
  match sc with
  | .slice | .crew | .core => true
  | .die | .package | .pod => false

/-- Whether an operation still has accesses to perform; a command has them until its last unit is done (R152, R194). -/
def State.pendingAccess (s : State) (t : Txn) : Bool :=
  t.kind.isAccess && match t.kind with
    | .token id => s.cmds.any fun c => c.id == id && !c.finished
    | _ => true

/-- Whether the fabric engine has, or may have, still to accept something of an operation: it takes a slice's in program order, an early
store to a window of the next step among them (R344, R349). -/
def State.unaccepted (s : State) (t : Txn) : Bool :=
  (t.kind.isFabric && !t.accepted) || t.kind == .xarr ||
  (t.kind.writes && t.lanes.any fun l => windowOf l.addr == some .global &&
    ((s.landing? t.ctx l.off).isSome || (decide (s.fab.crossed < t.step) && s.nearLanding t.ctx l.off)))

/-- Whether a command is one of a slice that a fence is for, its token not read yet. -/
def State.cmdOf (s : State) (f : Txn) (id : Nat) : Bool :=
  s.txns.any (fun u => u.kind == .token id && u.parts.any fun p => f.has p.sid) || s.tokens.any fun k => k.2.2 == id && f.has k.1

/-- Whether what the slices of a full fence of package or pod scope, and their commands, have written or read before it is so in every die
(R152, R273). -/
def State.knownEverywhere (s : State) (f : Txn) : Bool :=
  s.writes.all (fun w => !(w.by_.any fun i => f.has i || s.cmdOf f i) && !(w.seen.any fun i => f.has i) ||
    w.applied &&& s.diesUp == s.diesUp) &&
  s.txns.all fun u => u.atCore.isNone || !(u.seen.any fun i => f.has i)

/-- A fence is over when what it orders first is performed and the writes it waits for are everywhere (R152, R273). -/
def State.fenceDone (s : State) (f : Txn) : Bool :=
  match f.kind with
  | .fence acq rel sc after =>
    s.txns.all (fun u => u.id == f.id || decide (f.id < u.id) || !(f.parts.any fun p => u.has p.sid) || !s.pendingAccess u ||
      (acq && !rel && !u.kind.reads)) &&
    s.writes.all (fun w => !after.contains w.id || w.applied &&& s.diesUp == s.diesUp) &&
    (!(acq && rel && (sc == .package || sc == .pod)) || s.knownEverywhere f) &&
    (sc != .pod || (s.fab.ops.all (fun o => o.acked || decide (f.id < o.txn) || !f.has o.sid) &&
      s.txns.all fun u => decide (f.id < u.id) || !u.kind.isFabric || u.accepted || !(f.parts.any fun p => u.has p.sid)))
  | _ => true

/-- Whether an access of a landing window waits for a crossing (R349, R351): one issued after the device's arrival, and a store that a
window in force captures, while the arrival's crossing has not completed. -/
def State.waitsCrossing (s : State) (t : Txn) : Bool :=
  t.kind.isAccess && t.spans.any fun a => a.1 == some .global &&
    ((decide (s.fab.crossed < t.step) && s.nearLanding t.ctx a.2.1) ||
     (t.kind.acc == .w && decide (s.fab.crossed < s.fab.step) && (s.landing? t.ctx a.2.1).isSome))

/-- Whether a load finds the value of its step whatever becomes of a store that waits for the same crossing (R351): the store is captured
and leaves the location as it is. -/
def State.passesCapture (s : State) (u t : Txn) : Bool :=
  t.kind.acc == .r && decide (t.step ≤ s.fab.crossed) && s.waitsCrossing u &&
  u.lanes.all fun l => windowOf l.addr == some .global && (s.landing? u.ctx l.off).isSome

/-- Whether an earlier operation `u` of a common slice holds `t` back (R150, R152, R172, R344). A release waits for the slice's commands too,
their tokens read or not: R152 counts them as accesses for releases, where a row of R244 allows, and does not ask, that the release pass
them (DESIGN CHOICE, log 76). -/
def State.holdsBack (s : State) (u t : Txn) : Bool :=
  (match u.kind with
   | .fence acq rel _ _ => !s.fenceDone u && ((acq && rel) || (acq && t.kind.isAccess) || (rel && t.kind.writes) || (!acq && !rel))
   | _ =>
     s.pendingAccess u &&
     ((u.common t && !(u.kind.commutative && t.kind.commutative) && !(u.atCore.isSome && t.kind.readsCore) && !s.passesCapture u t) ||
      (match t.kind.release with
       | some sc => !(u.atCore.isSome && Scope.inCore sc)
       | none => false) ||
      (t.kind.waitsTranslated && u.lanes.any fun l => !s.laneGranted u l))) ||
  (u.kind.acquire && t.kind.isAccess) ||
  (s.unaccepted u && s.unaccepted t)

/-- The dies at which a lane of an operation is performed: its slice's die, and the home for an atomic (R158, R269). -/
def State.laneDies (s : State) (t : Txn) (l : LaneAcc) : List (Fin 5) :=
  if t.kind.atHome && windowOf l.addr == some .global then [coreDie t.core, Fin.ofNat 5 (s.home (s.txnAsid t) l.off)]
  else [coreDie t.core]

/-- The slices' own writes that an operation must find applied are: all of them for a release, those to its bytes otherwise
(R150, R272); the writes its slices have read are held to the same, so that no location goes backwards for them (R149, R274); an atomic
finds at its home what its die shows and what stands before it in the home order (R151, R271), and an acquiring one leaves nothing there
that its own die has not applied (R151, R270). -/
def State.writesReady (s : State) (t : Txn) : Bool :=
  s.writes.all fun w =>
    let mine := w.by_.any fun i => t.has i
    (!(mine && t.kind.publishes) || w.applied &&& s.diesUp == s.diesUp) && t.lanes.all fun l =>
    let ds := s.laneDies t l
    let hits := windowOf l.addr == some .global && w.asid == s.tagOf (s.txnAsid t) l.off &&
      decide (l.off < w.va + w.bytes.length) && decide (w.va < l.off + t.size)
    (!((mine || w.seen.any fun i => t.has i) && (t.kind.release.isSome || hits)) || ds.all fun d => w.applied.getLsbD d.val) &&
    (!(t.kind.atHome && hits && (w.home.isSome || w.applied.getLsbD (coreDie t.core).val)) ||
      w.applied.getLsbD (s.home (s.txnAsid t) l.off)) &&
    (!t.kind.acquire || w.applied.getLsbD (coreDie t.core).val || !(ds.any fun d => w.applied.getLsbD d.val))

/-- Whether two operations of a core touch a common byte of one location of the global window. -/
def State.sameBytes (s : State) (t u : Txn) : Bool :=
  t.spans.any fun a => a.1 == some .global && u.spans.any fun b => b.1 == some .global &&
    decide (a.2.1 < b.2.1 + b.2.2) && decide (b.2.1 < a.2.1 + a.2.2) && s.tagOf (s.txnAsid t) a.2.1 == s.tagOf (s.txnAsid u) b.2.1

/-- Stores of a core reach the die in the order of their core points, and what is performed past the core, an atomic, the read of a record
or a store without a core point of its own, passes none that touches its bytes: the values of a location never move backwards, and a slice
that has acquired at core scope finds what was stored before (R149, R151). -/
def State.coreOrder (s : State) (t : Txn) : Bool :=
  s.txns.all fun u => u.id == t.id || u.core != t.core || match u.atCore with
    | none => true
    | some m => !s.sameBytes t u || (match t.atCore with
      | some n => decide (n < m)
      | none => t.kind.readsCore)


/-- Whether an operation may be performed: no earlier one of its slices holds it back and the writes it needs are applied
(R150, R272), its core's stores keep their order (R149), and no crossing is awaited. -/
def State.mayPerform (s : State) (t : Txn) : Bool :=
  s.txns.all (fun u => !decide (u.id < t.id) || !(t.parts.any fun p => u.has p.sid) || !s.holdsBack u t) && s.writesReady t &&
  s.coreOrder t && !s.waitsCrossing t

/-! ### Reading and writing a lane -/

/-- Whether a lane of an operation covers a byte of a location. -/
def State.laneCovers (s : State) (t : Txn) (tag : BitVec 16) (va : Nat) (l : LaneAcc) : Bool :=
  windowOf l.addr == some .global && decide (l.off ≤ va) && decide (va < l.off + t.size) && s.tagOf (s.txnAsid t) l.off == tag

/-- The store of a core that a byte shows at its core point: the last to have reached it there (R149). -/
def State.coreStore? (s : State) (core : Nat) (tag : BitVec 16) (va : Nat) : Option Txn :=
  s.txns.foldl (fun acc t =>
    match t.atCore with
    | none => acc
    | some n =>
      if t.core == core && t.lanes.any (s.laneCovers t tag va) then
        match acc.bind (·.atCore) with
        | some m => if m < n then some t else acc
        | none => some t
      else acc) none

/-- The byte a core reads at a global address: a store of the core at its core point, else what its die shows (R149). -/
def State.coreByte (s : State) (core : Nat) (asid : BitVec 16) (va : Nat) : Byte :=
  let tag := s.tagOf asid va
  match s.coreStore? core tag va with
  | some t => match (t.lanes.filter (s.laneCovers t tag va)).getLast? with
    | some l => (toBytes 8 l.data.toNat).getD (va - l.off) 0#8
    | none => 0#8
  | none => s.viewByte (coreDie core) asid va

/-- The bytes a core reads at an address of a window. A load of bytes that a tile instruction or a rewritten group writes, with no TSYNC
between, finds what the stores hold at the step that performs it, which R213 and R225 allow among other values (DESIGN CHOICE, log 60). -/
def State.readWindow (s : State) (core : Nat) (wave : Word) (asid : BitVec 16) (a : DWord) (n : Nat) : List Byte :=
  let r := s.core core
  match windowOf a with
  | some .scratch => readBytes r.spad ((r.share wave).spad + offsetOf a) n
  | some .accum => readBytes r.accm (2048 * (r.share wave).acct + offsetOf a) n
  | _ => (List.range n).map fun i => s.coreByte core asid (offsetOf a + i)

/-- Write bytes of the scratchpad store of a core. -/
def State.writeSpad (s : State) (core a : Nat) (bs : List Byte) : State :=
  let r := s.core core
  s.setCore core { r with spad := writeBytes r.spad a bs }

/-- Write bytes at an address of a window as a store of a core (R149, R153, R269). -/
def State.writeWindow (s : State) (by_ seen : List Nat) (core : Nat) (wave : Word) (asid : BitVec 16) (a : DWord) (bs : List Byte) :
    State :=
  let r := s.core core
  match windowOf a with
  | some .scratch => s.writeSpad core ((r.share wave).spad + offsetOf a) bs
  | some .accum => s.setCore core { r with accm := writeBytes r.accm (2048 * (r.share wave).acct + offsetOf a) bs }
  | _ => (s.fillLine (viaCore core) asid (offsetOf a)).dieWrite by_ seen (coreDie core) asid (offsetOf a) bs

/-- The location of an access that keeps its translation: read from the frame of that translation where it is gone by now; no cache
keeps its line (R170, log 67). -/
def State.fillKept (s : State) (asid : BitVec 16) (va : Nat) (e : Leaf) : State :=
  let tag := if e.glb then 0#16 else asid
  let k := va / 128 * 128
  match s.loc? asid va with
  | some _ => s
  | none => s.readLine tag k (e.frame + k % 2 ^ pageShift e.size)

/-- Whether an access finds its line in its L1. -/
def State.inL1 (s : State) (via : List Cache) (asid : BitVec 16) (va : Nat) : Bool :=
  match s.hit? via asid va with
  | some (_, b) => (match b.cache with
    | .l1 _ => true
    | .l2 _ => false
    | .l3 => false)
  | none => false

/-- Fill the lines the lanes of an operation hit; what reaches the L2 counts: every store, as the L1 writes through, and what the L1 does
not hold (R254, R328). -/
def State.fillLanes (s : State) (t : Txn) (ls : List LaneAcc) : State :=
  ls.foldl (fun x l =>
    if windowOf l.addr == some .global then
      let via := x.txnVia t l.off
      let y := (if x.inL1 via (s.txnAsid t) l.off && t.kind.acc == .r then x else x.countL2 via (s.txnAsid t)).fillLine via (s.txnAsid t) l.off
      match l.xlat with
      | some e => y.fillKept (s.txnAsid t) l.off e
      | none => y
    else x) s

/-- Slices have read the bytes of a range that a die shows (R149): the writes that have not reached every die remember it. -/
def State.noteBytes (s : State) (sids : List Nat) (die : Fin 5) (asid : BitVec 16) (va n : Nat) : State :=
  if s.writes.isEmpty then s
  else
    let hits (w : DieWrite) : Bool := w.applied.getLsbD die.val && decide (va < w.va + w.bytes.length) && decide (w.va < va + n) &&
      w.asid == s.tagOf asid va
    { s with writes := s.writes.map fun w => if hits w then { w with seen := sids ++ w.seen } else w }

/-- The copies of atomic reads at a die answer the slices of an operation no more that has accessed their words (R149). -/
def State.barCopies (s : State) (t : Txn) : State :=
  if s.copies.isEmpty then s
  else
    let hits (c : AtomCopy) : Bool := c.die == coreDie t.core && t.spans.any fun a => a.1 == some .global &&
      decide (a.2.1 < c.va + 4) && decide (c.va < a.2.1 + a.2.2) && c.asid == s.tagOf (s.txnAsid t) a.2.1
    { s with copies := s.copies.map fun c => if hits c then { c with barred := t.parts.map (·.sid) ++ c.barred } else c }

/-- The slices of an operation have read the values its bytes show (R149): the stores at their core points and the writes that have not
reached every die remember it. -/
def State.noteRead (s : State) (t : Txn) (ls : List LaneAcc) : State :=
  let x := { t with lanes := ls }
  let s := s.barCopies x
  if s.writes.isEmpty && !s.txns.any (·.atCore.isSome) then s
  else
    let sids := t.parts.map (·.sid)
    let s := x.spans.foldl (fun y a => if a.1 == some .global then y.noteBytes sids (coreDie t.core) (s.txnAsid t) a.2.1 a.2.2 else y) s
    { s with txns := s.txns.map fun u =>
        if u.atCore.isSome && u.core == t.core && t.kind.readsCore && s.sameBytes x u then { u with seen := sids ++ u.seen } else u }

/-- An acquire has been performed for its slices: what is visible in their core by then is so to the engines that act for them (R151), and
one of die scope or wider leaves older copies behind (R159). -/
def State.noteAcquire (s : State) (t : Txn) : State :=
  if t.kind.acquire || t.kind.wideAcquire then
    let sids := t.parts.map (·.sid)
    let s : State := { s with txns := s.txns.map fun u => if u.atCore.isSome && u.core == t.core then { u with seen := sids ++ u.seen } else u }
    if t.kind.wideAcquire then
      t.parts.foldl (fun x p => x.modSlice p.sid fun sl => { sl with acqAt := s.nextId }) { s with nextId := s.nextId + 1 }
    else s
  else s

/-! ### Filling a destination (R34) -/

/-- Lane values written into a vector register under a mask, and the register full. -/
def Slice.fillCell (sl : Slice) (r : RegName) (mask : BitVec 4) (x : Lanes) : Slice :=
  match r with
  | .v n => { sl with v := sl.v.set n ⟨Lanes.merge mask x (sl.v.get n).val, true⟩ }
  | .o n => { sl with o := sl.o.set n ⟨Lanes.merge mask x (sl.o.get n).val, true⟩ }
  | .s n => { sl with s := sl.s.set n ⟨x.l0, true, false⟩ }
  | .b n => { sl with bank := sl.bank.set n ⟨x.l0, true, false⟩ }
  | .gone => sl

/-- The destinations of a part filled, the first with the low words and the second, if any, with the high words. -/
def Slice.fillPart (sl : Slice) (p : Part) (mask : BitVec 4) (lo hi : Lanes) : Slice :=
  match p.dst with
  | [] => sl
  | [a] => sl.fillCell a mask lo
  | a :: b :: _ => (sl.fillCell a mask lo).fillCell b mask hi

/-- The value of a lane in a list of lane results; 0 for a lane that has none. -/
def laneVal (vs : List (LaneAcc × Nat)) (sid : Nat) (i : Fin 4) : Nat :=
  match vs.find? fun v => v.1.sid == sid && v.1.lane == i with
  | some v => v.2
  | none => 0

/-- Whether a destination is a scalar register. -/
def RegName.scalar (r : RegName) : Bool :=
  match r with
  | .s _ => true
  | .b _ => true
  | .v _ => false
  | .o _ => false
  | .gone => false

/-- The lane results of a slice as it takes them: a scalar destination has the one value of its access, whichever lane carries it
(R34, R144). -/
def Part.results (p : Part) (vs : List (LaneAcc × Nat)) : Fin 4 → Nat :=
  if p.dst.any RegName.scalar then fun _ => ((vs.find? fun v => v.1.sid == p.sid).map (·.2)).getD 0 else laneVal vs p.sid

/-- Fill every part of an operation with the values of its lanes. -/
def State.fillParts (s : State) (ps : List Part) (vs : List (LaneAcc × Nat)) : State :=
  ps.foldl (fun t p => t.modSlice p.sid fun sl =>
    sl.fillPart p p.mask (Lanes.ofFn fun i => BitVec.ofNat 32 (p.results vs i))
      (Lanes.ofFn fun i => BitVec.ofNat 32 (p.results vs i / 2 ^ 32))) s

/-- Fill the destinations of a slice's part with one word. -/
def State.fillWord (s : State) (p : Part) (x : Word) : State :=
  s.modSlice p.sid fun sl => sl.fillPart p p.mask (Lanes.all x) (Lanes.all 0#32)

/-- Remove an operation. -/
def State.dropTxn (s : State) (id : Nat) : State := { s with txns := s.txns.filter fun t => t.id != id }

/-! ### Atomics (R158–R162) -/

/-- The smaller of two floats, or the larger (R116), and the exceptions. `−0` orders below `+0`. -/
def fminmax (f : FpFmt) (big : Bool) (a b : FVal) : FVal × Flags :=
  let fl : Flags := if a.isSig || b.isSig then .invalid else .none
  let below := a.lt b || (a.isZero && b.isZero && a.isNeg && !b.isNeg)
  let _ := f
  if a.isNan then (if b.isNan then (.qnan, fl) else (b, fl))
  else if b.isNan then (a, fl)
  else (if below == big then b else a, fl)

/-- The pattern of a value that needs no rounding in a format. -/
def bitsOf (f : FpFmt) (v : FVal) : Nat := (roundFp f .rne false false v).1

/-- FP32 addition of the atomics and of AMX (R158, R352): RNE, no saturation, no flush. -/
def addF32 (a b : Word) : Word :=
  BitVec.ofNat 32
    (roundFp .fp32 .rne false false (FVal.add .rne (decFp .fp32 false a.toNat) (decFp .fp32 false b.toNat)).1).1

/-- The new word of an atomic (R158); CAS is performed apart. -/
def atomNew (op : AtomOp) (ty : AtomTy) (o b : Word) : Word :=
  match op with
  | .add => (match ty with | .f32 => addF32 o b | _ => o + b)
  | .min => (match ty with
    | .s32 => if o.slt b then o else b
    | .u32 => if o.ult b then o else b
    | .f32 => BitVec.ofNat 32 (bitsOf .fp32 (fminmax .fp32 false (decFp .fp32 false o.toNat) (decFp .fp32 false b.toNat)).1))
  | .max => (match ty with
    | .s32 => if o.slt b then b else o
    | .u32 => if o.ult b then b else o
    | .f32 => BitVec.ofNat 32 (bitsOf .fp32 (fminmax .fp32 true (decFp .fp32 false o.toNat) (decFp .fp32 false b.toNat)).1))
  | .and => o &&& b
  | .or => o ||| b
  | .xor => o ^^^ b
  | .cas => o
  | .xchg => b

/-- The die at which an atomic to a global address is performed: its home (R158). -/
def State.homeDie (s : State) (asid : BitVec 16) (va : Nat) : Fin 5 := Fin.ofNat 5 (s.home asid va)

/-- When the quantum that is current on a core began (R82, R159); none where QUANT is 0 and every read is current. -/
def State.quantumStart (s : State) (core : Nat) : Option Nat :=
  let q := (s.core core).quant.toNat
  if q = 0 then none else some (s.tsc.toNat / q * q)

/-- Whether a die's copy of a word may answer an atomic read (R159): the value of a non-ordering read is no older than the reader's latest
acquire, that of a quantum read than the start of the quantum; and none is older than what the reader knows (R149). -/
def State.copyServes (s : State) (t : Txn) (c : AtomCopy) : Bool :=
  !(c.barred.any fun i => t.has i) && match t.kind with
  | .atomic _ _ .nonOrdering _ _ _ => t.lanes.all fun l => ((s.slice? l.sid).map (·.acqAt)).getD 0 < c.stamp
  | .atomic _ _ .quantum _ _ _ => match s.quantumStart t.core with
    | some q => decide (q ≤ c.time.toNat)
    | none => false
  | _ => false

/-- The copy that answers an atomic read, where the part lets one (R159). -/
def State.copyFor (s : State) (t : Txn) (va : Nat) : Option AtomCopy :=
  match s.copies.find? fun c => c.die == coreDie t.core && c.asid == s.tagOf (s.txnAsid t) va && c.va == va && s.copyServes t c with
  | some c => if Config.fromCopy s.ticks then some c else none
  | none => none

/-- The slices that know a value of a word that its home does not show (R149). -/
def State.knowLater (s : State) (die : Fin 5) (tag : BitVec 16) (va : Nat) (home : Nat) : List Nat :=
  (s.writes.filter fun w => w.asid == tag && decide (w.va < va + 4) && decide (va < w.va + w.bytes.length) && !w.applied.getLsbD home).flatMap
    (fun w => w.by_ ++ w.seen) ++
  (s.txns.filter fun u => u.atCore.isSome && coreDie u.core == die && u.lanes.any fun l => windowOf l.addr == some .global &&
    decide (l.off < va + 4) && decide (va < l.off + u.size) && s.tagOf (s.txnAsid u) l.off == tag).flatMap
    fun u => u.parts.map (·.sid) ++ u.seen

/-- The copy a die keeps from an atomic read that may be answered from one (R159). -/
def State.keepCopy (s : State) (t : Txn) (va : Nat) (o : Word) : State :=
  match t.kind with
  | .atomic _ _ use _ _ _ =>
    if use == .nonOrdering || use == .quantum then
      let tag := s.tagOf (s.txnAsid t) va
      { s with
        copies := ⟨coreDie t.core, tag, va, o, s.nextId, s.tsc, s.knowLater (coreDie t.core) tag va (s.home (s.txnAsid t) va)⟩ ::
          s.copies.filter fun c => !(c.die == coreDie t.core && c.asid == tag && c.va == va)
        nextId := s.nextId + 1 }
    else s
  | _ => s

/-- Slices have read a word from a die's copy: the writes that it may hold remember it (R149). -/
def State.noteCopy (s : State) (sids : List Nat) (c : AtomCopy) : State :=
  { s with writes := s.writes.map fun w =>
      if w.asid == c.asid && decide (w.id < c.stamp) && decide (w.va < c.va + 4) && decide (c.va < w.va + w.bytes.length) then
        { w with seen := sids ++ w.seen }
      else w }

/-- Read the old word of an atomic and write the new one (R158); an atomic read may be answered from a copy instead (R159). -/
def State.atomStep (s : State) (t : Txn) (a : DWord) (f : Word → Word) : Word × State :=
  let asid := s.txnAsid t
  match windowOf a with
  | some .global =>
    match s.copyFor t (offsetOf a) with
    | some c => (c.word, ({ s with ticks := s.ticks + 1 } : State).noteCopy (t.parts.map (·.sid)) c)
    | none =>
      let s := (s.fillLine (s.txnVia t (offsetOf a)) asid (offsetOf a)).barCopies t
      let die := s.homeDie asid (offsetOf a)
      let o : Word := BitVec.ofNat 32 (ofBytes (s.viewBytes die asid (offsetOf a) 4))
      (o, (s.dieWrite (t.parts.map (·.sid)) [] die asid (offsetOf a) (toBytes 4 (f o).toNat)).keepCopy t (offsetOf a) o)
  | _ =>
    let o : Word := BitVec.ofNat 32 (ofBytes (s.readWindow t.core t.wave asid a 4))
    (o, s.writeWindow [] [] t.core t.wave asid a (toBytes 4 (f o).toNat))

/-- The combined operand of the lanes of one address and the value each lane's prefix has before it (R160). -/
def prefixes (op : AtomOp) (ty : AtomTy) (ls : List LaneAcc) (c : Word) : List (LaneAcc × Option Word) × Word :=
  match ls with
  | [] => ([], c)
  | l :: t =>
    let r := prefixes op ty t (atomNew op ty c (l.data.lo))
    ((l, some c) :: r.1, r.2)

/-- The lanes of a list without repeating an address. -/
def distinctAddrs (ls : List LaneAcc) : List DWord :=
  ls.foldl (fun acc l => if acc.contains l.addr then acc else acc ++ [l.addr]) []

/-- A reducible atomic at one address (R160). -/
def State.reduceAt (s : State) (t : Txn) (op : AtomOp) (ty : AtomTy) (a : DWord) : State × List (LaneAcc × Nat) :=
  match t.lanes.filter fun l => l.addr == a with
  | [] => (s, [])
  | l :: rest =>
    let pr := prefixes op ty rest l.data.lo
    let r := s.atomStep t a fun o => atomNew op ty o pr.2
    (r.2, (l, r.1.toNat) :: pr.1.map fun x => (x.1, match x.2 with
      | some c => (atomNew op ty r.1 c).toNat
      | none => r.1.toNat))

/-- A reducible atomic: one request for each distinct address (R160). -/
def State.reduceAll (s : State) (t : Txn) (op : AtomOp) (ty : AtomTy) (as_ : List DWord) : State × List (LaneAcc × Nat) :=
  as_.foldl (fun acc a =>
    let r := acc.1.reduceAt t op ty a
    (r.1, acc.2 ++ r.2)) (s, [])

/-- The lanes of a pass of CAS or XCHG: the lowest remaining lane of each address (R161). -/
def passLanes (ls : List LaneAcc) : List LaneAcc :=
  ls.foldl (fun acc l => if acc.any fun m => m.addr == l.addr then acc else acc ++ [l]) []

/-- One pass of CAS or XCHG (R161). -/
def State.passAll (s : State) (t : Txn) (op : AtomOp) (ls : List LaneAcc) : State × List (LaneAcc × Nat) :=
  ls.foldl (fun acc l =>
    let r := acc.1.atomStep t l.addr fun o =>
      if op == .cas then (if o = l.cmp then l.data.lo else o) else l.data.lo
    (r.2, acc.2 ++ [(l, r.1.toNat)])) (s, [])

/-- Write lane results into a register that stays empty, for a pass that leaves lanes to come. -/
def State.keepLanes (s : State) (ps : List Part) (vs : List (LaneAcc × Nat)) : State :=
  ps.foldl (fun t p => t.modSlice p.sid fun sl =>
    p.dst.foldl (fun x r =>
      (x.fillCell r ((vs.filter fun v => v.1.sid == p.sid).foldl (fun m v => m ||| (1#4 <<< v.1.lane.val)) 0#4)
        (Lanes.ofFn fun i => BitVec.ofNat 32 (laneVal vs p.sid i))).setFull r false) sl) s

/-! ### Performing (R145, R149, R158) -/

/-- The lanes of a store whose bytes stand: of lanes with one address the highest octet lane's (R144). -/
def lastLanes (ls : List LaneAcc) : List LaneAcc :=
  match ls with
  | [] => []
  | l :: t => if t.any fun m => m.addr == l.addr then lastLanes t else l :: lastLanes t

/-- The values a load's lanes read. -/
def State.loadValues (s : State) (t : Txn) (ls : List LaneAcc) : List (LaneAcc × Nat) :=
  ls.map fun l => (l, ofBytes (s.readWindow t.core t.wave (s.txnAsid t) l.addr t.size))

/-- The words of a store captured by a landing window (R350); of one that is less than a word, issued before the window was in force, the
word it touches, merged with what stands there, as that of a partial host write is (DESIGN CHOICE, log 72). -/
def State.captureStore (s : State) (cx : Fin 17) (w : Fin 64) (va size : Nat) (data : DWord) (old : Nat → Word) : State :=
  if size < 4 then
    let k := va / 4 * 4
    s.captureWord cx w k (mergeWord (old k) k va (toBytes size data.toNat))
  else
    let s := s.captureWord cx w va data.lo
    if size = 8 then s.captureWord cx w (va + 4) data.hi else s

/-- A store performed at its die, or in its core's store (R149, R153); into the backing range of an active landing window it is
captured instead (R350). -/
def State.performStore (s : State) (t : Txn) (ls : List LaneAcc) : State :=
  let s := s.barCopies { t with lanes := ls }
  (lastLanes ls).foldl (fun x l =>
    match (if windowOf l.addr == some .global then x.landing? t.ctx l.off else none) with
    | some w => x.captureStore t.ctx w l.off t.size l.data fun k =>
      BitVec.ofNat 32 (ofBytes (x.viewBytes (coreDie t.core) (s.txnAsid t) k 4))
    | none => x.writeWindow (t.parts.map (·.sid)) t.seen t.core t.wave (s.txnAsid t) l.addr (toBytes t.size l.data.toNat)) s

/-- Perform a load, store or atomic for the lanes given, with the fills of the parts given; passes of CAS and XCHG run on. -/
def State.performLanes (s : State) (t : Txn) (ls : List LaneAcc) (ps : List Part) : State :=
  let s := s.fillLanes t ls
  match t.kind with
  | .store _ => s.performStore t ls
  | .atomic op ty _ _ _ _ =>
    if op == .cas || op == .xchg then
      let r := s.passAll t op ls
      r.1.fillParts ps r.2
    else
      let r := s.reduceAll { t with lanes := ls } op ty (distinctAddrs ls)
      r.1.fillParts ps r.2
  | .amaxx => match ls with
    | l :: _ =>
      let r := s.atomStep t l.addr fun _ => l.data.lo
      r.2.fillParts ps [(l, r.1.toNat)]
    | [] => s
  | _ => ((s.noteRead t ls).fillParts ps (s.loadValues t ls))

/-- Perform a whole load or atomic and take it off the list; CAS and XCHG go pass by pass (R161). -/
def State.completeAccess (s : State) (t : Txn) : State :=
  match t.kind with
  | .atomic op _ _ _ _ _ =>
    let now := passLanes t.lanes
    if (op == .cas || op == .xchg) && now.length < t.lanes.length then
      let s := s.fillLanes t now
      let r := s.passAll t op now
      let rest := t.lanes.filter fun l => !now.contains l
      { (r.1.keepLanes t.parts r.2) with txns := r.1.txns.map fun u => if u.id == t.id then { u with lanes := rest } else u }
    else if op == .cas || op == .xchg then
      -- the last pass: the lanes of earlier passes keep the values they got
      let s := s.fillLanes t now
      let r := s.passAll t op now
      let s1 := r.1.keepLanes t.parts r.2
      ((t.parts.foldl (fun x p => x.modSlice p.sid fun sl => p.dst.foldl (fun y d => y.setFull d true) sl) s1).dropTxn t.id).noteAcquire t
    else ((s.performLanes t t.lanes t.parts).dropTxn t.id).noteAcquire t
  | _ => ((s.performLanes t t.lanes t.parts).dropTxn t.id).noteAcquire t

end Sys2Proof.Machine
end

