-- ==== Sys2Proof/Machine/Ops.lean ====
section
/-! DEFINITION. The shared operations: gangs (R40–R45), crews and barrier words (R43, R186–R193), the end of slices and waves (R89,
R164), taking a trap (R164–R169) and coming back from it (R173, R174), and the issue of an instruction by a gang (R33–R36, R376). -/

set_option Elab.async false

namespace Sys2Proof.Machine

/-! ### The rewrite window (R228) -/

/-- An octet's tile state; empty if it has none. -/
def State.octet (s : State) (core oct : Nat) : OctetRec :=
  (s.octets.find? fun o => o.core == core && o.oct == oct).getD ⟨core, oct, 0#32, [], 0#32, 0⟩

/-- Replace an octet's tile state. -/
def State.setOctet (s : State) (o : OctetRec) : State :=
  { s with octets := o :: s.octets.filter fun x => !(x.core == o.core && x.oct == o.oct) }

/-- A flush point: every open original of the octet's window is closed, and FLUSH counts if there was one (R228, R231); an original with
two later arrivals is released and no longer open (R218, R252). -/
def State.flushPoint (s : State) (core oct : Nat) : State :=
  let o := s.octet core oct
  match o.queue.find? fun x => x.open_ && decide (x.later < 2) with
  | none => s
  | some e =>
    let c := s.ctx e.ctx
    (s.setOctet { o with queue := o.queue.map fun x => { x with open_ := false } }).setCtx e.ctx
      { c with rwcnt := c.rwcnt.set 5 (c.rwcnt.get 5 + 1#32) }

/-- A flush point of a slice's octet. -/
def State.flushSlice (s : State) (sl : Slice) : State := s.flushPoint sl.core sl.oct

/-! ### Gangs -/

/-- The slices of a gang that are in their slots, by rising slot. -/
def State.membersOf (s : State) (g : Gang) : List Slice :=
  (g.members.filterMap s.slice?).filter fun x => x.place == .resident && x.core == g.core

/-- A gang by its name. -/
def State.gang? (s : State) (gid : Nat) : Option Gang := s.gangs.find? fun g => g.gid == gid

/-- The gang a slice is in. -/
def State.gangOf (s : State) (sid : Nat) : Option Gang := s.gangs.find? fun g => g.members.contains sid

/-- Change a gang. -/
def State.modGang (s : State) (gid : Nat) (f : Gang → Gang) : State :=
  { s with gangs := s.gangs.map fun g => if g.gid == gid then f g else g }

/-- Put a gang into a wait. -/
def State.setWait (s : State) (gid : Nat) (w : GangWait) : State := s.modGang gid fun g => { g with wait := w }

/-- A gang begins to wait for a register or at a barrier, which SWPT counts from now on (R45, R191). -/
def State.startWait (s : State) (gid : Nat) (w : GangWait) : State :=
  { (s.modGang gid fun g => { g with wait := w, since := s.nextId }) with nextId := s.nextId + 1 }

/-- A gang becomes ready, at the tail of its rank's order (R48). -/
def State.wakeGang (s : State) (gid : Nat) : State :=
  { (s.modGang gid fun g => { g with wait := .ready, since := s.nextId, passed := 0 }) with nextId := s.nextId + 1 }

/-- Put a slice into a list of groups by its PC. -/
def groupByPc (gs : List (DWord × List Nat)) (pc : DWord) (sid : Nat) : List (DWord × List Nat) :=
  match gs with
  | [] => [(pc, [sid])]
  | (q, ids) :: t => if q = pc then (q, ids ++ [sid]) :: t else (q, ids) :: groupByPc t pc sid

/-- The groups of a gang's members by PC, in the order of their first member (R41). A gang whose members enter their handlers stays
whole until every one has entered (log 45). -/
def State.pcGroups (s : State) (g : Gang) : List (List Nat) :=
  let ms := s.membersOf g
  if g.wait = .trap then (if ms.isEmpty then [] else [ms.map (·.sid)])
  else (ms.foldl (fun acc sl => groupByPc acc sl.pc sl.sid) []).map (·.2)

/-- The gangs a gang parts into: none if no member is left, itself if its PCs agree, else one gang for each PC (R41). All of them have been
ready as long as the gang was, and R48 orders them no further: that the group of the lowest member stands first is the model's
(DESIGN CHOICE, log 65). -/
def State.partGang (s : State) (g : Gang) (next : Nat) : List Gang :=
  match s.pcGroups g with
  | [] => []
  | [ids] => [{ g with members := ids }]
  | gs => gs.zipIdx.map fun (ids, i) => { g with gid := next + i, members := ids, wait := .ready }

/-- Part every gang (R41). -/
def State.partAll (s : State) : List Gang → Nat → List Gang × Nat
  | [], next => ([], next)
  | g :: t, next =>
    let gs := s.partGang g next
    let r := s.partAll t (next + gs.length)
    (gs ++ r.1, r.2)

/-- Part the gangs whose members' PCs differ, and drop what has ended (R41); a parting is a flush point (R228). -/
def State.regroup (s : State) : State :=
  let s := (s.gangs.filter fun g => 1 < (s.pcGroups g).length).foldl (fun t g => t.flushPoint g.core g.octet) s
  let r := s.partAll s.gangs s.nextId
  { s with gangs := r.1, nextId := r.2 }

/-- Whether a gang that waits may be ready again: its register is full, or it was held (R45). -/
def State.mayWake (s : State) (g : Gang) : Bool :=
  match g.wait with
  | .parked sid reg => match s.slice? sid with
    | some sl => !g.members.contains sid || sl.isFull reg
    | none => true
  | .held fresh => !fresh
  | .barw _ ws => ws.isEmpty
  | _ => false

/-- A held gang tries again, in its place: it was ready all the while (R48). -/
def Gang.retry (g : Gang) : Gang :=
  match g.wait with
  | .held _ => { g with wait := .ready }
  | _ => g

/-- Wake every gang that may be ready again (R45, R48). After a step that only held a gang, the gangs held before it wait on, so that
the others of their core take their turns (log 48). -/
def State.wakeAll (s : State) : State :=
  if s.gangs.any fun g => g.wait == .held true then
    { s with gangs := s.gangs.map fun g => if g.wait == .held true then { g with wait := .held false } else g }
  else
    let t := (s.gangs.filter fun g => g.wait != .held false && s.mayWake g).foldl (fun t g => t.wakeGang g.gid) s
    if t.gangs.any fun g => g.wait == .held false then { t with gangs := t.gangs.map Gang.retry } else t

/-- Forget the fences that are over (R152). -/
def State.dropFences (s : State) : State :=
  { s with txns := s.txns.filter fun t => match t.kind with
      | .fence .. => !s.fenceDone t
      | _ => true }

/-- What follows every step at once: gangs part, waiting gangs wake, fences end. -/
def State.settle (s : State) : State := s.dropFences.wakeAll.regroup

/-- A wait without a slice: its registrations are withdrawn (R169). -/
def GangWait.without (w : GangWait) (sid : Nat) : GangWait :=
  match w with
  | .barw pc ws => .barw pc (ws.filter fun x => x.1 != sid)
  | .ready => .ready
  | .parked a r => .parked a r
  | .regang i => .regang i
  | .held f => .held f
  | .trap => .trap

/-- A gang without a slice. -/
def Gang.without (g : Gang) (sid : Nat) : Gang :=
  { g with members := g.members.filter (· != sid), wait := g.wait.without sid }

/-- Whether a gang counts as ready: it is neither parked nor waits in a REGANG instance or at a barrier (R48). -/
def GangWait.isReady (w : GangWait) : Bool :=
  match w with
  | .ready | .held _ | .trap => true
  | .parked _ _ | .regang _ | .barw _ _ => false

/-- Members of one gang leave it as one gang (R41; log 45); their REGANG arrivals and BARW registrations are withdrawn (R169). Out of a
ready gang they keep its place in the order (R48, log 65); out of a waiting one they are ready from now on. -/
def State.leaveGang (s : State) (sids : List Nat) (w : GangWait) : State :=
  match sids.findSome? s.gangOf with
  | none => s
  | some g =>
    { s with
      regangs := s.regangs.map fun r => { r with arrived := r.arrived.filter (!sids.contains ·) }
      gangs := (s.gangs.map fun x => if x.gid == g.gid then sids.foldl Gang.without x else x) ++
        [⟨s.nextId, g.core, g.octet, g.members.filter sids.contains, w, if g.wait.isReady then g.since else s.nextId, g.passed⟩]
      nextId := s.nextId + 1 }

/-! ### Barrier words (R186–R193) -/

/-- A barrier word. -/
def State.barWord (s : State) (core a : Nat) : Word := BitVec.ofNat 32 (readLE (s.core core).spad a 4)

/-- PHASE of a barrier word. -/
def barPhase (w : Word) : Bool := w.getLsbD 24

/-- ARR and EXP of a barrier word. -/
def barArr (w : Word) : Nat := (w.extractLsb' 12 12).toNat
def barExp (w : Word) : Nat := (w.extractLsb' 0 12).toNat

/-- A barrier word with new PHASE, ARR and EXP; [31:25] are kept. -/
def barMake (w : Word) (phase : Bool) (arr exp : Nat) : Word :=
  w.extractLsb' 25 7 ++ BitVec.ofBool phase ++ BitVec.ofNat 12 arr ++ BitVec.ofNat 12 exp

/-- Whether a wait has no registration left. -/
def GangWait.idle (w : GangWait) : Bool :=
  match w with
  | .barw _ ws => ws.isEmpty
  | _ => false

/-- Write a barrier word. -/
def State.setBar (s : State) (core a : Nat) (w : Word) : State := s.writeSpad core a (toBytes 4 w.toNat)

/-- A gang of a core without its registrations on a word. -/
def Gang.released (g : Gang) (core a : Nat) : Gang :=
  match g.wait with
  | .barw pc ws => if g.core = core then { g with wait := .barw pc (ws.filter fun w => w.2 != a) } else g
  | _ => g

/-- Release the waiters of a word: a gang whose last registered word is released is ready, and a swapped-out one is due back (R191). -/
def State.releaseWaiters (s : State) (core a : Nat) : State :=
  let waits (g : Gang) : Bool := match g.wait with
    | .barw _ ws => g.core == core && ws.any fun w => w.2 == a
    | _ => false
  let t : State := { s with
    gangs := s.gangs.map fun g => g.released core a
    parks := s.parks.map fun p => { p with gang := p.gang.released core a } }
  (s.gangs.filter fun g => waits g && (g.released core a).wait.idle).foldl (fun x g => x.wakeGang g.gid) t

/-- The phase of a word completes: ARR := 0, PHASE flips, waiters are released (R189). -/
def State.flipBar (s : State) (core a : Nat) : State :=
  let w := s.barWord core a
  (s.setBar core a (barMake w (!barPhase w) 0 (barExp w))).releaseWaiters core a

/-- One arrival (R189). -/
def State.arrive (s : State) (core a : Nat) : State :=
  let w := s.barWord core a
  let arr := barArr w + 1
  if barExp w ≤ arr then s.flipBar core a else s.setBar core a (barMake w (barPhase w) arr (barExp w))

/-! ### Crews (R43, R193) -/

/-- Whether an arrival completes the phase of the word, so that a budgeted one is a flip (R189, R278). -/
def State.arrivalFlips (s : State) (core a : Nat) : Bool :=
  let w := s.barWord core a
  decide (barExp w ≤ barArr w + 1)

/-- The members of a crew of a core, wherever their slices are (R43). -/
def State.crewCount (s : State) (core : Nat) (c : Fin 32) : Nat :=
  (s.slices.filter fun x => x.core == core && x.crews.getLsbD c.val).length

/-- A crew's entry. -/
def State.crew (s : State) (core : Nat) (c : Fin 32) : Option CrewEntry := (s.core core).crews.get c

/-- The address of the word a crew is bound to, in its wave's share as it lies now (R193). -/
def State.crewWord (s : State) (core : Nat) (e : CrewEntry) : Option Nat :=
  match e.word, (s.core core).shares.find? fun h => h.wave == e.wave with
  | some off, some h => some (h.spad + off)
  | _, _ => none

/-- Replace a crew's entry. -/
def State.setCrew (s : State) (core : Nat) (c : Fin 32) (e : Option CrewEntry) : State :=
  let r := s.core core
  s.setCore core { r with crews := r.crews.set c e }

/-- JOIN of a new member: the crew is bound to the wave and a bound word expects one more (R43, R193). -/
def State.joinCrew (s : State) (sl : Slice) (c : Fin 32) : State :=
  if sl.crews.getLsbD c.val then s
  else
    let s := s.modSlice sl.sid fun x => { x with crews := x.crews ||| (1#32 <<< c.val) }
    match s.crew sl.core c with
    | none => s.setCrew sl.core c (some ⟨sl.wave, none, 0⟩)
    | some e => match s.crewWord sl.core e with
      | none => s
      | some a =>
        let w := s.barWord sl.core a
        s.setBar sl.core a (barMake w (barPhase w) (barArr w) (min (barExp w + 1) 4095))

/-- A member leaves a crew: a bound word expects one less and may complete; the last member frees the entry (R43, R193). An EXP that
software has set to 0 stays 0 (log 49). -/
def State.leaveCrew (s : State) (sl : Slice) (c : Fin 32) : State :=
  if !sl.crews.getLsbD c.val then s
  else
    let s := s.modSlice sl.sid fun x => { x with crews := x.crews &&& ~~~(1#32 <<< c.val) }
    let s := match (s.crew sl.core c).bind (s.crewWord sl.core) with
      | none => s
      | some a =>
        let w := s.barWord sl.core a
        let e := barExp w - 1
        if barArr w ≠ 0 ∧ e ≤ barArr w then (s.setBar sl.core a (barMake w (barPhase w) (barArr w) e)).flipBar sl.core a
        else s.setBar sl.core a (barMake w (barPhase w) (barArr w) e)
    if s.crewCount sl.core c = 0 then s.setCrew sl.core c none else s

/-- A slice leaves all its crews (R89). -/
def State.leaveCrews (s : State) (sl : Slice) : State :=
  (List.finRange 32).foldl (fun t c => match t.slice? sl.sid with
    | some x => t.leaveCrew x c
    | none => t) s

/-! ### REGANG instances (R42) -/

/-- The first index of a slice's block. -/
def Slice.block (sl : Slice) : Word := sl.idx &&& ~~~7#32

/-- The slices of a block that exist. -/
def State.blockSlices (s : State) (wave block : Word) : List Slice :=
  s.slices.filter fun x => x.wave == wave && x.block == block

/-- Whether every expected slice has arrived (R42). -/
def State.regangFull (s : State) (i : RegangInst) : Bool :=
  (s.blockSlices i.wave i.block).all fun x => i.arrived.contains x.sid

/-- Put a slice into a list that rises by slot. -/
def insertSlot (x : Slice) (l : List Slice) : List Slice :=
  match l with
  | [] => [x]
  | y :: t => if x.slot ≤ y.slot then x :: y :: t else y :: insertSlot x t

/-- Slices by rising slot. -/
def bySlot (l : List Slice) : List Slice := l.foldr insertSlot []

/-- Close an instance: its arrived slices form one gang for each octet, past their REGANG, and are ready; closing is a flush point
(R42, R228). `nxt` of a slice is its PC already. -/
def State.closeRegang (s : State) (i : RegangInst) : State :=
  let ms := (i.arrived.filterMap s.slice?).filter fun x => x.place == .resident
  let octs := ms.foldl (fun acc x => if acc.contains (x.core, x.oct) then acc else acc ++ [(x.core, x.oct)]) []
  let s : State := { s with
    regangs := s.regangs.filter fun r => r.id != i.id
    gangs := (s.gangs.map fun g => { g with members := g.members.filter fun m => !i.arrived.contains m }) }
  octs.foldl (fun (t : State) o =>
    let ids := (bySlot (ms.filter fun x => x.core == o.1 && x.oct == o.2)).map (·.sid)
    let t' : State := { t with gangs := t.gangs ++ [⟨t.nextId, o.1, o.2, ids, .ready, t.nextId, 0⟩], nextId := t.nextId + 1 }
    t'.flushPoint o.1 o.2) s

/-- Close the instances all of whose expected slices have arrived (R42). -/
def State.closeRegangs (s : State) : State :=
  (s.regangs.filter s.regangFull).foldl (fun t i => t.closeRegang i) s

/-! ### Ends (R89, R164, R183) -/

/-- Whether a command writes into its wave's share: its destination lies there, or its amax word, or it arrives on a barrier word
there (R183, R194, R241); one whose descriptor is not read yet may. -/
def Cmd.intoShare (c : Cmd) : Bool :=
  let d := c.d
  c.task.isNone && match c.kind with
    | .shld _ => false
    | .cbdc => true
    | .cpyam => !c.entered || ctlBen (dCtl d) || windowOf (dDst d) == some .scratch || windowOf (dAux d) == some .scratch
    | .cpy | .cpys | .gath | .scat => !c.entered || ctlBen (dCtl d) || windowOf (dDst d) == some .scratch

/-- Whether an operation accesses a store of its core. -/
def Txn.inShare (t : Txn) : Bool := t.lanes.any fun l => windowOf l.addr == some .scratch || windowOf l.addr == some .accum

/-- Free the shares of waves that have no slice left on a core, no copy into it, no outstanding access to it and no tile instruction
queued (R89, R163, R183, R216). -/
def State.freeShares (s : State) (core : Nat) : State :=
  let r := s.core core
  let used (h : Share) : Bool :=
    s.slices.any (fun x => x.core == core && x.wave == h.wave && x.place != .saved) ||
    s.cmds.any (fun c => c.core == core && c.wave == h.wave && c.intoShare) ||
    s.txns.any (fun t => t.core == core && t.wave == h.wave && t.inShare) ||
    s.octets.any (fun o => o.core == core && o.queue.any fun e => e.wave == h.wave)
  if r.shares.all used then s else s.setCore core { r with shares := r.shares.filter used }

/-- Release the pages a slice faulted on first (R176). -/
def State.releaseFaults (s : State) (sid : Nat) : State :=
  { s with firstFaults := s.firstFaults.filter fun f => f.sid != sid }

/-- A slice that ends without a slot leaves none behind that its outstanding fills could keep busy (R89). -/
def State.forgetSlot (s : State) (sl : Slice) : State :=
  if sl.place == .resident then s
  else { s with txns := s.txns.map fun t =>
    { t with parts := t.parts.map fun p => if p.sid == sl.sid then { p with slot := 128 } else p } }

/-- A slice ends (R89): it leaves its gang, crews and REGANG instances, its waits are withdrawn, its other outstanding operations go
on without it. Where it stands in its octet its end is a flush point (R228). -/
def State.endSlice (s : State) (sid : Nat) : State :=
  match s.slice? sid with
  | none => s
  | some sl =>
    let s := ((s.leaveCrews sl).releaseFaults sid).forgetSlot sl
    let s : State := { s with
      slices := s.slices.filter fun x => x.sid != sid
      gangs := s.gangs.map fun g => g.without sid
      regangs := s.regangs.map fun r => { r with arrived := r.arrived.filter (· != sid) }
      txns := s.txns.filter fun t => match t.kind with
        | .waitw _ | .waitv _ => !t.has sid
        | _ => true
      parks := (s.parks.map fun p => { p with gang := p.gang.without sid }).filter fun p => !p.gang.members.isEmpty
      waves := s.waves.map fun w => if w.num == sl.wave then { w with live := w.live - 1 } else w }
    let s := (s.closeRegangs).freeShares sl.core
    if sl.place == .resident then s.flushPoint sl.core sl.oct else s

/-- STAT of a wave that firmware ends (R302). -/
def endStat (group : BitVec 5) (case : BitVec 8) : Word := 0#8 ++ case ++ (0#3 ++ group) ++ 1#8

/-- A wave end that no trap record describes: its STAT word and the core it happened on. -/
def WaveEnd.plain (stat : Word) (core : Nat) : WaveEnd := ⟨stat, 0#96, 0#64, core, none⟩

/-- The end by a hardware error, group 0x0E (R166, R197): the case, the index of its log entry, the address, the PC and the core. -/
def WaveEnd.hardware (case : BitVec 8) (index : BitVec 16) (a pc : DWord) (core : Nat) : WaveEnd :=
  ⟨endStat 0xE#5 case, case ++ 0#8 ++ index ++ a, pc, core, none⟩

/-- Commands are discarded, all but those a condition keeps: so are their tokens, and the pages they faulted on first are released
(R176, R245). -/
def State.keepCmds (s : State) (kept : Cmd → Bool) : State :=
  let gone (t : Txn) : Bool := match t.kind with
    | .command id | .token id => s.cmds.any fun c => c.id == id && !kept c
    | _ => false
  { s with
    cmds := s.cmds.filter kept
    firstFaults := s.firstFaults.filter fun f => s.cmds.all fun c => c.id != f.sid || kept c
    txns := s.txns.filter fun t => !gone t }

/-- Firmware ends a wave (R164): every slice of it stops, its unplaced blocks go, its accesses are performed and their fills are
discarded. The first end stands. -/
def State.endWave (s : State) (wave : Word) (e : WaveEnd) : State :=
  let close (w : Wave) : Wave :=
    if w.num == wave then { w with ended := w.ended.or (some e), blocks := [], live := 0 } else w
  let kept (c : Cmd) : Bool := c.wave != wave || c.task.isSome || !s.presences.any fun p => p.wave == wave && p.core == c.core
  let s := ({ s with waves := s.waves.map close, presences := s.presences.filter fun p => p.wave != wave } : State).keepCmds kept
  (s.slices.filter fun x => x.wave == wave).foldl (fun t x => t.endSlice x.sid) s

/-- The waves with slices on some cores end because those go out of service: group 0x0E, CASE 0x02, with the log position of the error,
and the PC of a wave's lowest slice there, which the spec names no further (R166, R198, R281; DESIGN CHOICE, log 68). -/
def State.endOnCores (s : State) (on : Nat → Bool) (index : BitVec 16) : State :=
  s.waves.foldl (fun x w =>
    match s.slices.find? fun y => y.wave == w.num && on y.core with
    | some y => x.endWave w.num (WaveEnd.hardware 2#8 index 0#64 y.pc y.core)
    | none => x) s

/-! ### Traps (R164–R169) -/

/-- The slot of an instruction in its line. -/
def wordIndex (pc : DWord) : BitVec 8 := 0#4 ++ pc.extractLsb' 2 4

/-- A trap record at the instruction being issued. -/
def trapAt (sl : Slice) (c : Cur) (group : BitVec 5) (case field : BitVec 8) (mid : BitVec 16) (low : DWord) : TrapRec :=
  ⟨group, case, field, mid, low, sl.active, c.pc, false, none⟩

/-- An illegal instruction, line or target at the instruction being issued (R64, R166). -/
def trapIllegal (sl : Slice) (c : Cur) (case : Nat) : TrapRec :=
  trapAt sl c 1#5 (BitVec.ofNat 8 case) (wordIndex c.pc) 0#16 (c.word.setWidth 64)

/-- An illegal target: the detail holds the target (R64, R65). -/
def trapTarget (sl : Slice) (c : Cur) (case : Nat) (target : DWord) : TrapRec :=
  trapAt sl c 1#5 (BitVec.ofNat 8 case) (wordIndex c.pc) 0#16 target

/-- A supervisor-only opcode with MODE.SUP = 0 (R61, R166). -/
def trapPrivilege (sl : Slice) (c : Cur) (case field : BitVec 8) : TrapRec :=
  trapAt sl c 8#5 case field 0#16 (c.word.setWidth 64)

/-- The arithmetic trap (R105, R166). -/
def trapArith (sl : Slice) (c : Cur) : TrapRec :=
  trapAt sl c 4#5 1#8 (0#4 ++ sl.mode.extractLsb' 5 4) 0#16 (sl.mode.setWidth 64)

/-- A memory-access fault at issue (R139, R166): the lanes that failed, the lowest of them and its address. -/
def trapAccess (sl : Slice) (c : Cur) (case : BitVec 8) (write : Bool) (lanes : BitVec 4) (lane : Nat) (a : DWord) : TrapRec :=
  ⟨5#5, case, 0#1 ++ BitVec.ofBool write ++ 0#1 ++ BitVec.ofNat 5 (4 * sl.pos + lane), 0#16, a, lanes, c.pc, false, none⟩

/-- The detail of a trap (R166). -/
def TrapRec.detail (r : TrapRec) : BitVec 96 := r.case ++ r.field ++ r.mid ++ r.low

/-- The trap vector of a slice (R167). -/
def State.vectorOf (s : State) (sl : Slice) : DWord :=
  match s.wave? sl.wave with
  | some w => if w.trapv = 0#64 then (s.ctx w.ctx).trapv else w.trapv
  | none => 0#64

/-- The supervisor save area of a slot (R168, R326). -/
def State.saveArea (s : State) (sl : Slice) : DWord :=
  (s.ctx (s.ctxOfWave sl.wave)).save + BitVec.ofNat 64 (512 * (128 * sl.core + sl.slot))

/-- TCAUSE of a trap (R165). -/
def causeWord (r : TrapRec) (amask : BitVec 4) (more : Bool) : Word :=
  0#8 ++ BitVec.ofBool more ++ BitVec.ofBool r.late ++ 0#2 ++ amask ++ r.lanes ++ 0#7 ++ r.group

/-- The registers trap entry writes (R167, R168). -/
def Slice.enter (sl : Slice) (r : TrapRec) (more : Bool) (save vector : DWord) : Slice :=
  let sl := match r.reg with
    | some n => sl.clearMark n
    | none => sl
  { sl with
    tcause := causeWord r sl.amask more
    tdet := r.detail
    tpc := r.tpc
    taken := r.case ++ BitVec.ofBool r.late ++ 0#2 ++ r.group
    bank := #v[⟨save.lo, true, false⟩, ⟨save.hi, true, false⟩, ⟨sl.mode, true, false⟩, ⟨sl.amask.setWidth 32, true, false⟩]
    mode := (sl.mode ||| (1#32 <<< 24)) &&& ~~~(1#32 <<< 4)
    amask := r.lanes
    sup := []
    pc := vector
    pend := none
    late := false }

/-- The lanes of a slice that faulted in an operation; for a scalar access the lanes active when it issued (R167). -/
def State.faultLanes (s : State) (t : Txn) (sid : Nat) : BitVec 4 :=
  if t.scalar then ((t.parts.find? fun p => p.sid == sid).map (·.mask)).getD 0#4
  else (t.lanes.filter fun l => l.sid == sid && s.laneFaulted t l).foldl (fun m l => m ||| (1#4 <<< l.lane.val)) 0#4

/-- The lowest lane of a mask. -/
def lowLane (m : BitVec 4) : Nat := ((List.range 4).find? fun i => m.getLsbD i).getD 0

/-- The signed distance in words from one PC to another, 0x8000 where it does not fit (R166). -/
def rdist (frm into : DWord) : BitVec 16 :=
  let d := (into - frm).sshiftRight 2
  if d.toInt < -32767 ∨ 32767 < d.toInt then 0x8000#16 else d.setWidth 16

/-- The late trap of a slice's oldest faulted operation, with the operation dropped first behind it, if any (R166, R171, R172). -/
def State.lateRec (s : State) (sl : Slice) (t : Txn) (drop : Option Txn) : TrapRec :=
  let lanes := s.faultLanes t sl.sid
  let lane := lowLane lanes
  let acc := t.lanes.find? fun l => l.sid == sl.sid && s.laneFaulted t l
  let a := (acc.map (·.addr)).getD 0#64
  let f := s.firstFaults.find? fun f => f.asid == s.txnAsid t && f.page == offsetOf a / 65536 && f.sid == sl.sid
  let tpc := ((t.parts.find? fun p => p.sid == sl.sid).map (·.pc)).getD sl.pc
  let dpc := (drop.bind fun u => (u.parts.find? fun p => p.sid == sl.sid).map (·.pc)).getD tpc
  ⟨(f.map (·.group)).getD 6#5, (f.map (·.case)).getD 1#8,
   BitVec.ofBool drop.isSome ++ BitVec.ofBool (t.kind.acc == .w) ++ 0#1 ++ BitVec.ofNat 5 (4 * sl.pos + lane),
   if drop.isSome then rdist tpc dpc else 0#16, a, lanes, tpc, true, none⟩

/-- Remove a slice's part from an operation; an operation without parts goes. -/
def State.removePart (s : State) (id sid : Nat) : State :=
  { s with txns := (s.txns.map fun t =>
      if t.id == id then { t with parts := t.parts.filter (fun p => p.sid != sid), lanes := t.lanes.filter fun l => l.sid != sid }
      else t).filter fun t => !(t.id == id && t.parts.isEmpty) }

/-- The status a dropped operation leaves in its destination: 0, but CODE 0x05 for QPUSH, NSEND and NPOST (R172). -/
def TxnKind.dropWord (k : TxnKind) : Word :=
  match k with
  | .qpush .. | .nsend _ | .npost _ => 5#32
  | _ => 0#32

/-- Drop a slice's operation unperformed (R172). -/
def State.dropOp (s : State) (sid : Nat) (t : Txn) : State :=
  let s := (t.parts.filter fun p => p.sid == sid).foldl (fun x p => x.fillWord p t.kind.dropWord) s
  let s := match t.kind with
    | .command c => { s with cmds := s.cmds.filter fun x => x.id != c }
    | _ => s
  s.removePart t.id sid

/-- Whether a faulted operation of a slice can be concluded at its trap entry: what it fills needs the lanes that were translated, and they
may be performed only in their order (R150, R167). -/
def State.mayConclude (s : State) (sid : Nat) (t : Txn) : Bool :=
  let good := t.lanes.filter fun l => l.sid == sid && s.laneGranted t l
  let ps := t.parts.filter fun p => p.sid == sid
  !t.kind.isAccess || good.isEmpty || (ps.all fun p => p.dst.isEmpty) || s.mayPerform { t with lanes := good, parts := ps }

/-- Conclude a faulted operation of a slice (R167): the lanes that faulted give 0 and its destination is full. Where it has a destination,
the lanes that were translated are performed now; those of a store stay outstanding, in their order. -/
def State.concludeFault (s : State) (sid : Nat) (t : Txn) : State :=
  let good := t.lanes.filter fun l => l.sid == sid && s.laneGranted t l
  let ps := t.parts.filter fun p => p.sid == sid
  let stays := ps.all (fun p => p.dst.isEmpty) && !good.isEmpty
  let s := match t.kind with
    | .load _ | .store _ | .atomic .. | .amaxx => if stays then s else s.performLanes t good ps
    | .command c => ps.foldl (fun (x : State) p => x.fillWord p 0#32) { s with cmds := s.cmds.filter fun x => x.id != c }
    | _ => ps.foldl (fun (x : State) p => x.fillWord p 0#32) s
  if stays then
    { s with txns := s.txns.map fun (u : Txn) => if u.id == t.id then { u with lanes := u.lanes.filter fun l => l.sid != sid || good.contains l } else u }
  else s.removePart t.id sid

/-- The address of a translated lane that the conclusion of a slice's faulted operations would access where data could not be read correctly,
with the PC of its operation (R167, R280). -/
def State.poisonedLane (s : State) (sid : Nat) (ts : List Txn) : Option (DWord × DWord) :=
  if s.poison.isEmpty then none
  else ts.findSome? fun t =>
    let ps := t.parts.filter fun p => p.sid == sid
    let performs := match t.kind with
      | .load _ | .store _ | .atomic .. | .amaxx => true
      | _ => false
    if !performs || ps.all fun p => p.dst.isEmpty then none
    else (t.lanes.find? fun l => l.sid == sid && s.laneGranted t l && windowOf l.addr == some .global &&
      s.poisoned (s.txnAsid t) l.off t.size).map fun l => (l.addr, (ps.head?.map (·.pc)).getD 0#64)

/-- A gang whose members enter their handlers issues once every one has entered, from the place it has in the order (R48, log 45). -/
def State.entryDone (s : State) (gid : Nat) : State :=
  match s.gang? gid with
  | none => s
  | some g => if (s.membersOf g).any (·.pend.isSome) then s else s.setWait gid .ready

/-- A member's entry is over. -/
def State.entryOver (s : State) (sid : Nat) : State :=
  match s.gangOf sid with
  | none => s
  | some g => s.entryDone g.gid

/-- The slices behind whose first faults accesses of a slice are parked (R176): its trap entry waits for their handlers. -/
def State.holders (s : State) (sid : Nat) : List Nat :=
  s.txns.flatMap fun t => (t.lanes.filter fun l => l.sid == sid && windowOf l.addr == some .global && !s.laneGranted t l &&
    !s.laneFaulted t l).flatMap fun l =>
      (s.firstFaults.filter fun f => f.asid == s.txnAsid t && f.page == l.off / 65536 && f.installed.isNone).map (·.sid)

/-- Whether the entries of a gang wait for a handler of another, in a chain of at most `fuel` gangs that all enter (R176). -/
def State.entryChain (s : State) (fuel : Nat) (g : Gang) (into : Nat) : Bool :=
  match fuel with
  | 0 => false
  | n + 1 => g.wait == .trap && (s.membersOf g).any fun m => m.pend.isSome && (s.holders m.sid).any fun h =>
      match s.gangOf h with
      | some x => x.gid == into || s.entryChain n x into
      | none => false

/-- Whether a slice's entry waits for a handler that its own gang holds back, itself or through the entries of other gangs: neither could
go on. -/
def State.entryHeld (s : State) (sid : Nat) : Bool :=
  match s.gangOf sid with
  | none => false
  | some g => (s.holders sid).any fun h => match s.gangOf h with
    | some x => x.gid == g.gid || s.entryChain s.gangs.length x g.gid
    | none => false

/-- A member whose entry is held in that way does not hold the others: it stands alone (log 45). -/
def State.partHeld (s : State) (sid : Nat) : State :=
  match s.gangOf sid with
  | none => s
  | some g => if (s.membersOf g).length ≤ 1 then s else (s.leaveGang [sid] .trap).entryDone g.gid

/-- The operations of R172 that a slice has issued behind its oldest fault: they are dropped unperformed, wherever they stand. -/
def State.dropsOf (s : State) (sid : Nat) : List Txn :=
  match s.faultedTxns sid with
  | [] => []
  | t :: _ => s.txns.filter fun u => u.has sid && u.kind.waitsTranslated && !u.accepted && decide (t.id < u.id)

/-- The faults a slice reports: those of its operations that are not dropped (R172, R181). -/
def State.faultsOf (s : State) (sid : Nat) : List Txn :=
  (s.faultedTxns sid).filter fun t => !(s.dropsOf sid).any fun u => u.id == t.id

/-- Conclude the faulted operations of a slice, the oldest first; none while one of them has to wait for its order. -/
def State.concludeAll (s : State) (sid : Nat) (ts : List Txn) : Option State :=
  match ts with
  | [] => some s
  | t :: rest => if s.mayConclude sid t then State.concludeAll (s.concludeFault sid t) sid rest else none

/-- A wave ends because one of its slices consumed data that could not be read correctly: `a` is its address, in the global window
(R166, R197, R280). -/
def State.endPoisoned (s : State) (wave : Word) (core : Nat) (a pc : DWord) : State :=
  s.endWave wave (WaveEnd.hardware 3#8 (s.errorIndex (s.asidOf (s.ctxOfWave wave)) (offsetOf a)) a pc core)

/-- Trap entry (R167): a late fault found now replaces the trap; the operations dropped behind it and the destinations of faulted
operations are filled; then the registers are written, and a late fault counts (R328). A report whose faults are gone enters
nothing. Entry waits while a translated lane of a faulted load has to be performed first (log 50); one that meets data which could not be
read correctly ends the wave (R197, R280). -/
def State.doEntry (s : State) (sl : Slice) (r : TrapRec) : State :=
  match s.faultsOf sl.sid with
  | [] =>
    if r.late then
      (s.modSlice sl.sid fun x => { x with pend := none, late := false }).entryOver sl.sid
    else
      ((s.flushSlice sl).modSlice sl.sid fun x => x.enter r false (s.saveArea sl) (s.vectorOf sl)).entryOver sl.sid
  | t :: rest =>
    let drops := s.dropsOf sl.sid
    let rec_ := s.lateRec sl t drops.head?
    match (drops.foldl (fun x u => x.dropOp sl.sid u) s).concludeAll sl.sid (t :: rest), s.poisonedLane sl.sid (t :: rest) with
    | none, _ => s
    | some _, some a => s.endPoisoned sl.wave sl.core a.1 a.2
    | some s2, none =>
      let s2 := s2.countEvent (s2.ctxOfWave sl.wave) (some (dieOfCore sl.core)) 0x07#8 1
      ((s2.flushSlice sl).modSlice sl.sid fun x => x.enter rec_ (!rest.isEmpty) (s.saveArea sl) (s.vectorOf sl)).entryOver sl.sid

/-- Bits [79:64] of a double fault's detail: CASE and GROUP of the trap being handled (R166), as it was taken (R165). -/
def doubleMid (sl : Slice) : BitVec 16 := sl.taken.extractLsb' 8 8 ++ 0#3 ++ sl.taken.extractLsb' 0 5

/-- The end by a trap that no handler takes: the trap's own group and case, or with MODE.SUP = 1 the double fault, whose detail names
the nested trap and the one being handled (R164, R166, R175). -/
def Slice.trapEnd (sl : Slice) (r : TrapRec) : WaveEnd :=
  if modeSup sl.mode then ⟨endStat 0xF#5 r.case, r.case ++ (0#3 ++ r.group) ++ doubleMid sl ++ r.tpc, r.tpc, sl.core, none⟩
  else ⟨endStat r.group r.case, r.detail, r.tpc, sl.core, none⟩

/-- Enter the pending trap of a slice if it may be entered now (R164, R167, R175): with MODE.SUP = 1 or without a vector, firmware
ends the wave; otherwise entry waits until every access of the slice is translated or has faulted, alone where it waits for a handler that its own
gang holds back. A hardware error ends the wave at once, with group 0x0E in a handler too (DESIGN CHOICE, log 51). A wave without a vector waits in the same way, and a late fault found then is the one reported (log 51). -/
def State.tryEnter (s : State) (sid : Nat) : State :=
  match s.slice? sid with
  | none => s
  | some sl => match sl.pend with
    | none => s
    | some r =>
      if r.group == 0xE#5 then s.endPoisoned sl.wave sl.core r.low r.tpc
      else if modeSup sl.mode && !r.late then s.endWave sl.wave (sl.trapEnd r)
      else if s.resolved sid then
        let faults := s.faultsOf sid
        if r.late && faults.isEmpty then s.doEntry sl r
        else if modeSup sl.mode || s.vectorOf sl = 0#64 then
          s.endWave sl.wave (sl.trapEnd ((faults.head?.map fun t => s.lateRec sl t (s.dropsOf sid).head?).getD r))
        else s.doEntry sl r
      else if s.entryHeld sid then s.partHeld sid
      else s

/-- A precise fault of a fetch makes its slice the first faulter of the page (R176, R377); a malformed entry is logged (R264). -/
def State.noteFetchFault (s : State) (sid : Nat) (r : TrapRec) : State :=
  match s.slice? sid with
  | none => s
  | some sl =>
    let asid := s.asidOf (s.ctxOfWave sl.wave)
    if !r.late && (r.group == 6#5 || r.group == 7#5 || (r.group == 5#5 && r.case == 5#8)) &&
        !s.pageHeld asid (offsetOf r.low) then
      let t := s.logWalk (s.ctxOfWave sl.wave) (offsetOf r.low)
      { t with firstFaults := t.firstFaults ++ [⟨asid, offsetOf r.low / 65536, sid, none, r.group, r.case⟩] }
    else s

/-- Raise the traps of some members of a gang: they leave it as one gang, and each enters its own handler, at once where it may; the
others issue again as their own gang (R41, R167; log 45). -/
def State.raiseAll (s : State) (ts : List (Nat × TrapRec)) : State :=
  let t0 := (ts.foldl (fun t x => t.noteFetchFault x.1 x.2) s).leaveGang (ts.map (·.1)) .trap
  let t1 := ts.foldl (fun t x => t.modSlice x.1 fun y => { y with pend := some x.2 }) t0
  ts.foldl (fun t x => t.tryEnter x.1) t1

/-- Raise the trap of one slice. -/
def State.raiseTrap (s : State) (sid : Nat) (r : TrapRec) : State := s.raiseAll [(sid, r)]

/-- The record a slice waits with when a late fault has been reported to it (R169). -/
def lateReport (sl : Slice) : TrapRec := ⟨6#5, 1#8, 0#8, 0#16, 0#64, sl.amask, sl.pc, true, none⟩

/-! ### Regions (R170) -/

/-- The depth of a slice's reconvergence stack (R37). -/
def Slice.depth (sl : Slice) : Nat := sl.stack.length + sl.sup.length

/-- A region entry with the resume PC given (R170). -/
def Slice.regionEntry (sl : Slice) (pc : DWord) : Slice :=
  { sl with rgnpc := pc, rgncnt := sl.rgncnt + 1#32, rgnMask := sl.amask, rgnDepth := sl.depth }

/-! ### Creation (R44, R170) -/

/-- A slice at its creation (R44): every lane active, s0–s15 the arguments, every other register 0 and full; its first region begins at
the kernel entry with RGNCNT = 0 (R170). -/
def Slice.create (sid : Nat) (wave idx : Word) (core slot : Nat) (entry : DWord) (mode : Word) (args : Vector Word 16) : Slice where
  sid := sid
  wave := wave
  idx := idx
  core := core
  slot := slot
  place := .resident
  pc := entry
  v := Vector.replicate 96 VCell.reset
  o := Vector.replicate 16 VCell.reset
  w := Vector.replicate 4 (Lanes.all 0#32)
  s := Vector.ofFn fun i : Fin 64 => if h : i.val < 16 then ⟨args.get ⟨i.val, h⟩, true, false⟩ else SCell.reset
  bank := Vector.replicate 4 SCell.reset
  p := Vector.replicate 8 0#4
  mode := mode
  fstat := 0#32
  stack := []
  sup := []
  amask := 0b1111#4
  crews := 0#32
  rgnpc := entry
  rgncnt := 0#32
  rgnMask := 0b1111#4
  rgnDepth := 0
  tcause := 0#32
  tdet := 0#96
  tpc := 0#64
  taken := 0#16
  pend := none
  late := false
  acqAt := 0
  stopped := false
  stepping := false

/-! ### Issue (R33–R36, R376) -/

/-- Which lanes decide whether a slice acts: those active under R33, in a scalar-class instruction or in a per-lane or whole-mask one;
none (the instruction is lane-independent, or a branch); or the active mask alone (R76, R87, R113). -/
inductive LaneKind where
  | guarded
  | perLane
  | always
  | maskOnly
deriving DecidableEq, Repr

/-- What issue has to know of an instruction: its lanes, whether it is supervisor-only, the registers it reads through sources and
the registers it writes, the checks decided whatever the lanes hold, and its own checks (R376 items 3 to 5 and 7 to 9). -/
structure Issue where
  kind : LaneKind
  sup : Bool
  srcs : Slice → List SrcUse
  dst : Slice → List RegName
  gate : Cur → Slice → Option TrapRec
  early : Cur → Slice → Option TrapRec

/-- Whether a slice acts in an instruction. -/
def LaneKind.acts (k : LaneKind) (sl : Slice) : Bool :=
  match k with
  | .guarded => sl.active != 0#4
  | .perLane => sl.active != 0#4
  | .always => true
  | .maskOnly => sl.amask != 0#4

/-- Whether a slice in which the instruction does not act still waits for empty registers: only a scalar-class instruction does not
(R36, R76; log 12). -/
def LaneKind.waits (k : LaneKind) : Bool :=
  match k with
  | .guarded => false
  | .perLane => true
  | .always => true
  | .maskOnly => true

/-- What stops a slice from issuing. -/
inductive Verdict where
  | go
  | wait (r : RegName)
  | trap (t : TrapRec)
deriving DecidableEq, Repr

/-- The full/empty trap of a source (R35, R166). -/
def trapEmpty (sl : Slice) (c : Cur) (u : SrcUse) : TrapRec :=
  trapAt sl c 2#5 1#8 u.field (BitVec.ofNat 16 u.which) 0#64

/-- The engine-status trap of a source (R166, R239). -/
def trapToken (sl : Slice) (c : Cur) (u : SrcUse) : TrapRec :=
  { trapAt sl c 0xA#5 1#8 u.field 0#16 (((sl.cellOf u.reg).map fun x => x.val.setWidth 64).getD 0#64) with reg := some u.reg }

/-- Full/empty and engine status of the sources in field order, and the destination (R35, R36, R239, R376 item 6). -/
def Slice.regVerdict (sl : Slice) (c : Cur) (dst : List RegName) (us : List SrcUse) : Verdict :=
  match dst.find? fun r => !sl.isFull r with
  | some r => .wait r
  | none =>
    if us.any fun u => !sl.isFull u.reg && u.trap then
      match us.find? fun u => (!sl.isFull u.reg && u.trap) || (sl.isFull u.reg && sl.badToken u.reg) with
      | some u => .trap (if sl.isFull u.reg then trapToken sl c u else trapEmpty sl c u)
      | none => .go
    else match us.find? fun u => !sl.isFull u.reg with
      | some u => .wait u.reg
      | none => match us.find? fun u => sl.badToken u.reg with
        | some u => .trap (trapToken sl c u)
        | none => .go

/-- The trap of a slice that is decided by the code, MODE.SUP and the gang alone (R376 items 3 to 5). -/
def Issue.gateTrap (k : Issue) (c : Cur) (sl : Slice) : Option TrapRec :=
  if k.sup && !modeSup sl.mode then some (trapPrivilege sl c 1#8 0#8) else k.gate c sl

/-- The slice as its instruction sees its lanes: VSEL is not masked by the guard (R113). -/
def LaneKind.view (k : LaneKind) (sl : Slice) : Slice :=
  match k with
  | .maskOnly => { sl with mode := sl.mode &&& ~~~(1#32 <<< 4) }
  | .guarded => sl
  | .perLane => sl
  | .always => sl

/-- What a slice waits for that raises nothing: an empty destination, then an empty source under the block policy (R35, R36). -/
def Slice.waitVerdict (sl : Slice) (dst : List RegName) (us : List SrcUse) : Verdict :=
  match dst.find? fun r => !sl.isFull r with
  | some r => .wait r
  | none => match us.find? fun u => !sl.isFull u.reg && !u.trap with
    | some u => .wait u.reg
    | none => .go

/-- The verdict on a slice after the gate (R376 items 6 to 9): a slice in which the instruction does not act raises nothing, and waits
where its kind waits. -/
def Issue.verdict (k : Issue) (c : Cur) (sl0 : Slice) : Verdict :=
  let sl := k.kind.view sl0
  if k.kind.acts sl then
    match sl.regVerdict c (k.dst sl) (k.srcs sl) with
    | .go => match k.early c sl with
      | some t => .trap t
      | none => .go
    | v => v
  else if k.kind.waits then sl.waitVerdict (k.dst sl) (k.srcs sl)
  else .go

/-- The trap of a verdict. -/
def Verdict.trap? (v : Verdict) : Option TrapRec :=
  match v with
  | .trap t => some t
  | _ => none

/-- The register a verdict waits for. -/
def Verdict.wait? (v : Verdict) : Option RegName :=
  match v with
  | .wait r => some r
  | _ => none

/-- The debug cause of a stop (R166, R179): with MODE.SUP = 0 the trap registers take it. -/
def Slice.debugStop (sl : Slice) (case : BitVec 8) : Slice :=
  let sl := { sl with stopped := true, stepping := false }
  if modeSup sl.mode then sl
  else { sl with tcause := causeWord ⟨0xC#5, case, 0#8, 0#16, 0#64, sl.active, sl.pc, false, none⟩ sl.amask false,
                 tdet := (⟨0xC#5, case, 0#8, 0#16, 0#64, sl.active, sl.pc, false, none⟩ : TrapRec).detail, tpc := sl.pc }

/-- Reading a filled token makes the command's writes the slice's own (R244). -/
def State.readTokens (s : State) (sid : Nat) (us : List SrcUse) : State :=
  let hit (t : Nat × RegName × Nat) : Bool := t.1 == sid && us.any fun u => u.reg == t.2.1
  let ids := (s.tokens.filter hit).map (·.2.2)
  if ids.isEmpty then s
  else { s with
    tokens := s.tokens.filter fun t => !hit t
    writes := s.writes.map fun w => if w.by_.any fun i => ids.contains i then { w with by_ := sid :: w.by_ } else w }

/-- Every member moves on to the next instruction, and the sources the acting members read lose their check marks (R51, R239). -/
def State.advance (s : State) (k : Issue) (c : Cur) (ms : List Slice) : State :=
  ms.foldl (fun t m => (if k.kind.acts m then t.readTokens m.sid (k.srcs m) else t).modSlice m.sid fun sl =>
    { (if k.kind.acts m then sl.clearMarks (k.srcs m) else sl) with pc := c.nxt }) s

/-- Stop a slice for the debugger (R179): DBGSTAT.REASON takes the case in the functions that reach the slice, and the stop is a
flush point (R228). -/
def State.stopSlice (s : State) (sid : Nat) (case : BitVec 8) : State :=
  match s.slice? sid with
  | none => s
  | some sl =>
    let cx := s.ctxOfWave sl.wave
    let note (d : DebugRegs) : DebugRegs := { d with reason := case.setWidth 4 }
    let dbg := s.dbg.set 0 (note (s.dbg.get 0))
    let s : State := { s with dbg := if cx = 0 then dbg else dbg.set cx (note (dbg.get cx)) }
    (s.flushSlice sl).modSlice sid fun x => x.debugStop case

/-- Whether the debugger steps a slice (R179). -/
def State.steps (s : State) (sid : Nat) : Bool := ((s.slice? sid).map (·.stepping)).getD false

/-- After an instruction: a stepped slice stops (R179), a yielding gang goes to the tail of its rank (R52), the latch is empty. A stepped
instruction that traps has not issued: the slice stops after the first instruction of its handler (DESIGN CHOICE, log 66). -/
def State.afterIssue (s : State) (c : Cur) (ms : List Slice) : State :=
  let s := ms.foldl (fun t m => if t.steps m.sid then t.stopSlice m.sid 3#8 else t) s
  let s := if c.yields then (match s.gang? c.gid with
    | some g => if g.wait = .ready then s.wakeGang c.gid else s
    | none => s) else s
  { s with cur := none }

/-- What becomes of the issue of an instruction by a gang. -/
inductive Issued where
  | traps (ts : List (Nat × TrapRec))
  | parks (sid : Nat) (r : RegName)
  | holds
  | goes
deriving DecidableEq, Repr

/-- The first member that waits, with the register it waits for. -/
def firstWait (vs : List (Nat × Verdict)) : Option (Nat × RegName) := vs.findSome? fun v => v.2.wait?.map fun r => (v.1, r)

/-- The members that trap. -/
def trapsOf (vs : List (Nat × Verdict)) : List (Nat × TrapRec) := vs.filterMap fun v => v.2.trap?.map fun t => (v.1, t)

/-- The decision on a gang (R41, R376): the traps decided by the code first; then a wait of any member holds the gang; then the traps
of its members; then a full queue. -/
def Issue.decide_ (k : Issue) (c : Cur) (hold : Bool) (ms : List Slice) : Issued :=
  let gates := ms.filterMap fun m => (k.gateTrap c m).map fun t => (m.sid, t)
  let vs := ms.map fun m => (m.sid, k.verdict c m)
  if !gates.isEmpty then .traps gates
  else match firstWait vs with
    | some w => .parks w.1 w.2
    | none =>
      if !(trapsOf vs).isEmpty then .traps (trapsOf vs)
      else if hold then .holds
      else .goes

/-- Issue an instruction for the gang of the latch. `perform` is given the members in which it acts, as they stood at issue; every
member has moved on to the next instruction by then. -/
def State.issue (s : State) (k : Issue) (hold : Cur → List Slice → State → Bool) (perform : Cur → List Slice → State → State) :
    State :=
  match s.cur with
  | none => s
  | some c => match s.gang? c.gid with
    | none => { s with cur := none }
    | some g =>
      let ms := s.membersOf g
      match k.decide_ c (hold c (ms.filter k.kind.acts) s) ms with
      | .traps ts => { s.raiseAll ts with cur := none }
      | .parks sid r => { (ms.foldl State.flushSlice s).startWait c.gid (.parked sid r) with cur := none }
      | .holds => { s.setWait c.gid (.held true) with cur := none }
      | .goes => (perform c (ms.filter k.kind.acts) (s.advance k c ms)).afterIssue c ms

/-- An instruction that only changes its own slices: `f` is given a slice as it stood at issue and as it stands now. -/
def State.issueLocal (s : State) (k : Issue) (f : Slice → Slice → Slice) : State :=
  s.issue k (fun _ _ _ => false) fun _ ms t => ms.foldl (fun x m => x.modSlice m.sid (f m)) t

/-- No check of this kind. -/
def noCheck : Cur → Slice → Option TrapRec := fun _ _ => none

/-- No queue to be full. -/
def noHold : Cur → List Slice → State → Bool := fun _ _ _ => false

/-- The issue of a scalar-class instruction with sources and destinations of its own (R33). -/
def Issue.regs (srcs : Slice → List SrcUse) (dst : Slice → List RegName) : Issue := ⟨.guarded, false, srcs, dst, noCheck, noCheck⟩

end Sys2Proof.Machine
end

