-- ==== Sys2Proof/Machine/Hazard.lean ====
section
/-! DEFINITION. What an instruction word reads and writes through its fields, as R54 and R55 judge a version 1 group: of any assigned
opcode, whether or not its fields decode (R376). -/

set_option Elab.async false

namespace Sys2Proof.Machine

/-- A piece of state that fields of an instruction name (R54); `w` is the last-result file as a whole. -/
inductive Res where
  | v (n : Fin 96)
  | o (n : Fin 16)
  | s (n : Fin 64)
  | p (n : Fin 8)
  | a (n : Fin 256)
  | w
deriving DecidableEq, Repr

def resVSrc (x : VSrc) : List Res :=
  match x.reg with
  | .v n => [.v n]
  | .o n => [.o n]
  | .w _ => [.w]
  | .z => []
  | .laneId => []
  | .sliceIdx => []

def resVReg (r : VReg) : List Res :=
  match r with
  | .v n => [.v n]
  | .o n => [.o n]

def resVPair (x : VPairSrc) : List Res :=
  resVSrc ⟨(vpairSrcRegs x.reg).1, false⟩ ++ resVSrc ⟨(vpairSrcRegs x.reg).2, false⟩

def resVPairReg (r : VPairReg) : List Res := resVReg (vpairRegs r).1 ++ resVReg (vpairRegs r).2

def resSSrc (x : SSrc) : List Res :=
  match x.reg with
  | .s n => [.s n]
  | .z => []
  | .sliceIdx => []

def resPairReg (n : SPairReg) : List Res := [.s (pairLo n), .s (pairHi n)]

def resSPair (x : SPairSrc) : List Res :=
  match x.reg with
  | some n => resPairReg n
  | none => []

def resTilePair (n : TilePair) : List Res := [.a ⟨2 * n.val, by omega⟩, .a ⟨2 * n.val + 1, by omega⟩]

/-- What a field names that decodes; a value its class does not name is no piece of state. -/
def named {α : Type} (x : Dec α) (f : α → List Res) : List Res :=
  match x with
  | .ok v => f v
  | .error _ => []

/-! ### Fields by class (R59, R60) -/

/-- The class of a D, A or B field, as far as it names state: a vector, vector pair, scalar, scalar pair source; a vector, producer,
vector pair, producer pair, scalar, scalar pair or predicate destination; a tile or tile pair read; one written. -/
inductive Operand where
  | none
  | vs | vps | ss | sps
  | vd | vl | vpd | vpl | sd | spd | pd
  | tile | tiles | tileD | tilesD
deriving DecidableEq, Repr

/-- What a field of a class reads. -/
def Operand.reads (k : Operand) (x : BitVec 8) : List Res :=
  match k with
  | .vs => named (Dec.vsrc x) resVSrc
  | .vps => named (Dec.vpair x) resVPair
  | .ss => named (Dec.ssrc x) resSSrc
  | .sps => named (Dec.spair x) resSPair
  | .tile => [.a x.toFin]
  | .tiles => named (Dec.tilePair x) resTilePair
  | .none | .vd | .vl | .vpd | .vpl | .sd | .spd | .pd | .tileD | .tilesD => []

/-- What a field of a class writes; the last-result file with bit [7] (R31). -/
def Operand.writes (k : Operand) (x : BitVec 8) : List Res :=
  match k with
  | .vd => named (Dec.vreg x) resVReg ++ (if x.msb then [.w] else [])
  | .vl => named (Dec.vreg x) resVReg
  | .vpd => named (Dec.vpairReg x) resVPairReg ++ (if x.msb then [.w] else [])
  | .vpl => named (Dec.vpairReg x) resVPairReg
  | .sd => named (Dec.sreg x) fun n => [.s n]
  | .spd => named (Dec.spairDst x) resPairReg
  | .pd => [.p (predField x)]
  | .tileD => [.a x.toFin]
  | .tilesD => named (Dec.tilePair x) resTilePair
  | .none | .vs | .vps | .ss | .sps | .tile | .tiles => []

/-- The classes of the D, A and B fields of an opcode (R61, and the encoding tables of each chapter). The tile D that TMMA and TMMAT
accumulate into counts as written, not as read through a source field (DESIGN CHOICE, log 69). -/
def operandsOf (op : BitVec 8) : Operand × Operand × Operand :=
  match op.toNat with
  | 0x03 | 0x06 | 0x9E => (.none, .sps, .none)
  | 0x04 | 0x2C | 0x2F => (.spd, .none, .none)
  | 0x05 | 0x26 => (.spd, .sps, .none)
  | 0x10 | 0x11 | 0x12 | 0x13 | 0x14 | 0x15 | 0x16 | 0x17 | 0x18 | 0x19 | 0x1A | 0x1B | 0x1C | 0x1D | 0x1E | 0x1F => (.sd, .ss, .ss)
  | 0x20 | 0x27 | 0x2B | 0xAF | 0xCE | 0xE5 => (.sd, .none, .none)
  | 0x21 | 0x22 | 0x23 | 0xE6 => (.sd, .ss, .none)
  | 0x24 => (.sd, .sps, .sps)
  | 0x25 => (.spd, .sps, .ss)
  | 0x28 | 0x29 | 0xCB => (.none, .ss, .none)
  | 0x30 | 0x31 | 0x32 | 0x33 | 0x34 | 0x35 | 0x36 | 0x37 | 0x38 | 0x39 | 0x3A | 0x3B | 0x3C | 0x3D | 0x3E | 0x3F
  | 0x40 | 0x41 | 0x43 | 0x49 | 0x50 | 0x51 | 0x52 | 0x53 | 0x54 | 0x55 | 0x56 | 0x60 | 0x61 | 0x73 | 0x82 => (.vd, .vs, .vs)
  | 0x42 | 0x57 => (.pd, .vs, .vs)
  | 0x44 | 0x80 => (.vd, .none, .none)
  | 0x45 => (.vd, .ss, .none)
  | 0x46 | 0x47 | 0x58 | 0x59 | 0x5A | 0x5B | 0x5C | 0x5D | 0x5E | 0x5F | 0x62 | 0x64 | 0x70 | 0x71 | 0x72 | 0x74
  | 0x75 | 0x76 | 0x77 | 0x81 | 0x83 | 0x84 | 0x85 => (.vd, .vs, .none)
  | 0x48 => (.pd, .none, .none)
  | 0x63 => (.vpd, .vps, .vs)
  | 0x86 => (.sd, .vs, .none)
  | 0x90 | 0x91 | 0x92 | 0xE1 => (.vl, .sps, .vs)
  | 0x93 | 0xE3 => (.vl, .sps, .none)
  | 0x94 | 0x95 | 0x96 => (.vs, .sps, .vs)
  | 0x97 | 0xE0 | 0xE2 => (.vs, .sps, .none)
  | 0x98 | 0x9C | 0xAB | 0xB0 | 0xB1 | 0xB2 | 0xB3 | 0xB4 | 0xB5 | 0xB7 | 0xE7 | 0xE8 | 0xE9 => (.sd, .sps, .none)
  | 0x99 | 0x9D => (.ss, .sps, .none)
  | 0x9A => (.vpl, .sps, .vs)
  | 0x9B => (.vps, .sps, .vs)
  | 0xA0 | 0xA1 | 0xA2 | 0xA3 | 0xA4 | 0xA5 | 0xA7 => (.none, .sps, .vs)
  | 0xA6 => (.none, .sps, .vps)
  | 0xA8 | 0xAD | 0xAE | 0xCD | 0xEA => (.sd, .sps, .ss)
  | 0xAA | 0xAC => (.none, .sps, .ss)
  | 0xC0 | 0xE4 => (.none, .ss, .ss)
  | 0xC1 | 0xC2 => (.tileD, .ss, .ss)
  | 0xC3 => (.tilesD, .tiles, .none)
  | 0xC4 => (.tileD, .tile, .ss)
  | 0xC6 => (.tileD, .tile, .tile)
  | 0xC7 => (.vl, .tile, .none)
  | 0xC8 => (.tileD, .vs, .none)
  | 0xC9 => (.tile, .ss, .ss)
  | 0xCA => (.tileD, .ss, .none)
  | _ => (.none, .none, .none)

/-! ### Groups (R53–R55) -/

/-- The width in bits of a destination element type (R7, R125). CB2, of which R15 gives the eight weights and no element width,
counts as 16 (log 52); a conversion to it traps (R105). -/
def etypeWidth (t : EType) : Nat :=
  match t with
  | .fp32 => 32 | .bf16 => 16 | .fp16 => 16 | .e4m3 => 8 | .e5m2 => 8 | .mxE4m3 => 8 | .mxE5m2 => 8 | .mxfp4 => 4
  | .int8 => 8 | .int16 => 16 | .int32 => 32 | .cf32 => 32 | .cbf16 => 16 | .cb2 => 16

/-- The width of a conversion's source (R125). -/
def intFmtWidth (f : IntFmt) : Nat :=
  match f with
  | .i8 => 8 | .i16 => 16 | .i32 => 32

/-- Whether a conversion reads its destination (R106). -/
def narrows (mode : Word) (ws : Nat) : Bool := decide (etypeWidth (modeEtype mode) < ws)

/-- The clamp pair of the modifier word, where one stands behind the literal the opcode takes (R56, R58). -/
def clampReads (r : Raw) : List Res :=
  match r.exts.drop (if opTakesLiteral r.op then 1 else 0) with
  | m :: _ => if m.getLsbD 27 then [.s (m.extractLsb' 21 6).toFin, .s (m.extractLsb' 21 6 + 1#6).toFin] else []
  | [] => []

/-- What an opcode reads besides its plain fields: the accumulating forms, the narrowing conversions and AMXR their destination, VSEL and
PLOG predicates, a branch its condition, FETST its register, an atomic its offsets (R54, R87, R95, R106, R113, R114, R156, R354). -/
def extraReads (mode : Word) (r : Raw) : List Res :=
  match r.op.toNat with
  | 0x02 => (match r.a.toNat with
    | 0 | 1 => named (Dec.imm 8 r.d) fun p => [.p p]
    | 2 | 3 => named (Dec.ssrc r.b) resSSrc
    | _ => [])
  | 0x0C => if r.b.getLsbD 0 then named (Dec.ssrc r.a) resSSrc else named (Dec.vsrc r.a) resVSrc
  | 0x34 | 0x49 | 0x53 | 0x54 | 0x61 | 0xE3 => named (Dec.vreg r.d) resVReg
  | 0x43 => [.p (modeGsel mode)]
  | 0x48 =>
    (if codeField r.d < 6 then named (Dec.imm 8 r.a) fun p => [.p p] else []) ++
    (if codeField r.d < 4 then named (Dec.imm 8 r.b) fun p => [.p p] else [])
  | 0x70 | 0x71 => named (Dec.cvtF r.b) fun b => if narrows mode (fmtWidth b.src) then named (Dec.vreg r.d) resVReg else []
  | 0x72 => named (Dec.cvtI r.b) fun b => if narrows mode (intFmtWidth b.src) then named (Dec.vreg r.d) resVReg else []
  | 0x80 => named (Dec.imm 8 r.a) fun p => [.p p]
  | 0xA0 | 0xA1 | 0xA2 | 0xA3 | 0xA4 | 0xA5 | 0xA6 | 0xA7 => (match r.exts with
    | l :: _ => named (Dec.vsrc (l.extractLsb' 24 8)) resVSrc
    | [] => [])
  | _ => []

/-- What an opcode writes besides its plain fields: FETST a predicate, FEMRK a register's mark, an atomic that returns its destination,
TZERO every tile of its range (R95, R96, R156, R209). -/
def extraWrites (r : Raw) : List Res :=
  match r.op.toNat with
  | 0x0C => named (Dec.imm 8 r.d) fun p => [.p p]
  | 0x0D => if r.b.getLsbD 1 then named (Dec.sreg r.d) fun n => [.s n] else named (Dec.vreg r.d) resVReg
  | 0xA0 | 0xA1 | 0xA2 | 0xA3 | 0xA4 | 0xA5 | 0xA6 | 0xA7 => if atomRet r.exts then named (Dec.vreg r.d) resVReg else []
  | 0xC5 => named (Dec.imm 16 r.b) fun n => (List.range (n.val + 1)).map fun i => .a (Fin.ofNat 256 (r.d.toNat + i))
  | _ => []

/-- Whether an opcode reads the guard where MODE.GEN = 1 (R33, R76): those performed whatever the lanes hold do not, FENCE, BARR, BARW, TSYNC
and XARR among them (R152, R189, R191, R214, R354). -/
def readsGuard (op : BitVec 8) : Bool :=
  !([0x00#8, 0x08#8, 0x0A#8, 0x0B#8, 0x0E#8, 0x0F#8, 0x43#8, 0xA9#8, 0xAB#8, 0xAC#8, 0xCC#8, 0xE5#8].contains op)

/-- The guard predicate (R33, R54). -/
def resGuard (mode : Word) : List Res := if modeGen mode then [.p (modeGsel mode)] else []

/-- What an instruction reads through its source fields and as its guard (R54), given MODE. -/
def fieldReads (mode : Word) (r : Raw) : List Res :=
  let k := operandsOf r.op
  k.1.reads r.d ++ k.2.1.reads r.a ++ k.2.2.reads r.b ++ extraReads mode r ++ clampReads r ++
  (if readsGuard r.op then resGuard mode else [])

/-- What a source A that is a vector or vector pair reads of the last-result file: a read through the bypass is exempt (R54, R55). -/
def bypassReads (r : Raw) : List Res := ((operandsOf r.op).2.1.reads r.a).filter (· == .w)

/-- What an instruction writes through its fields (R54). -/
def fieldWrites (r : Raw) : List Res :=
  let k := operandsOf r.op
  k.1.writes r.d ++ k.2.1.writes r.a ++ k.2.2.writes r.b ++ extraWrites r

/-- Whether source A of an instruction is w0 with the block policy (R55). The pair that CBFLY names with 0x70 is one that may take the
bypass (DESIGN CHOICE, log 69). -/
def bypassesA (r : Raw) : Bool :=
  ((operandsOf r.op).2.1 == .vs || (operandsOf r.op).2.1 == .vps) && r.a == 0x70#8

/-- Whether an instruction carries destination bit [7] and shifts its result into w0 (R31, R55). -/
def shiftsResult (r : Raw) : Bool := ((operandsOf r.op).1 == .vd || (operandsOf r.op).1 == .vpd) && r.d.msb

/-- Whether an opcode must end its version 1 group (R54): opcode group 0x0 but for NOP, SETM, SETMI and CSRW. -/
def endsGroup (op : BitVec 8) : Bool := (op.extractLsb' 4 4 == 0#4 && op != 0#8) || [0x28#8, 0x29#8, 0x2A#8].contains op

end Sys2Proof.Machine
end

