-- ==== Sys2Proof/Machine/Fetch.lean ====
section
/-! DEFINITION. Instruction fetch: the instruction cache (R66), fetch faults (R377), the check of a control transfer's target (R65),
and what a gang finds at its PC: a header, a line, an instruction, or the trap that one of them raises (R49–R56, R64, R376). -/

set_option Elab.async false

namespace Sys2Proof.Machine

/-! ### Code lines (R49, R66, R377) -/

/-- What reading a line of code comes to. -/
inductive CodeRes where
  | line (l : ILine) (s : State)
  | held
  | fault (group : BitVec 5) (case : BitVec 8)

/-- The line of an address in a core's instruction cache: the context's own, or a global one (R66, R255). -/
def State.iline? (s : State) (core : Nat) (asid : BitVec 16) (va : Nat) : Option ILine :=
  s.ilines.find? fun l => l.core == core && (l.asid == asid || l.asid == 0#16) && l.va == va / 64 * 64

/-- An instruction cache of 64 KiB takes a line: a full one gives another up (R2; log 10). -/
def State.putCode (s : State) (l : ILine) : State :=
  let full := s.ilines.filter fun x => x.core == l.core
  { s with ilines := (if full.length < 1024 then s.ilines else giveUp s.ilines full (Config.victim s.ticks)) ++ [l] }

/-- The sixteen words of 64 bytes. -/
def lineWords (bs : List Byte) : Vector Word 16 :=
  Vector.ofFn fun i : Fin 16 => BitVec.ofNat 32 (ofBytes ((bs.drop (4 * i.val)).take 4))

/-- Read the line of code at an address (R377): through the instruction cache, else as a load that needs X. A page that another
agent's fault holds makes the fetch wait (R176); a line that cannot be read correctly is a hardware error (R197, R280). -/
def State.codeLine (s : State) (core : Nat) (asid : BitVec 16) (pc : DWord) : CodeRes :=
  match windowOf pc with
  | some .global =>
    let va := offsetOf pc
    match s.iline? core asid va with
    | some l => .line l s
    | none => match s.tryGrant (viaDie (coreDie core)) asid (va / 64 * 64) .x with
      | some t =>
        if t.poisoned asid (va / 64 * 64) 64 then .fault 0xE#5 3#8
        else
        let l : ILine := ⟨core, t.tagOf asid va, va / 64 * 64,
          lineWords (t.viewBytes (coreDie core) asid (va / 64 * 64) 64)⟩
        .line l (t.putCode l)
      | none =>
        if s.pageHeld asid va then .held
        else match s.faultOf asid (va / 64 * 64) .x with
          | some f => .fault f.1 f.2
          | none => .held
  | some _ => .fault 5#5 4#8
  | none => .fault 5#5 1#8

/-- The slot of a PC in its line. -/
def slotOf (pc : DWord) : Fin 16 := (pc.extractLsb' 2 4).toFin

/-- The trap of a fetch (R377): the lanes are the active mask, the address is the one fetched. -/
def trapFetch (sl : Slice) (group : BitVec 5) (case : BitVec 8) (tpc a : DWord) : TrapRec :=
  ⟨group, case, BitVec.ofNat 8 (4 * sl.pos + lowLane sl.amask), 0#16, a, sl.amask, tpc, false, none⟩

/-- The ASID a slice runs in. -/
def State.sliceAsid (s : State) (sl : Slice) : BitVec 16 := s.asidOf (s.ctxOfWave sl.wave)

/-- The check of a target (R65): the trap it raises, if any. -/
def State.targetTrap (s : State) (sl : Slice) (c : Cur) (t : DWord) : Option TrapRec :=
  if t.extractLsb' 0 2 ≠ 0#2 then some (trapTarget sl c 0x0D t)
  else match s.codeLine sl.core (s.sliceAsid sl) t with
    | .fault g k => some (trapFetch sl g k c.pc t)
    | .held => none
    | .line l _ => if headerCode (l.words.get 0) (slotOf t).val = 2#2 then some (trapTarget sl c 0x0C t) else none

/-- Whether the check of a target has to wait for a page (R176). -/
def State.targetHeld (s : State) (sl : Slice) (t : DWord) : Bool :=
  t.extractLsb' 0 2 == 0#2 && (match s.codeLine sl.core (s.sliceAsid sl) t with
    | .held => true
    | _ => false)

/-- The line of a checked target comes into the instruction cache. -/
def State.targetRead (s : State) (sl : Slice) (t : DWord) : State :=
  match s.codeLine sl.core (s.sliceAsid sl) t with
  | .line _ t' => t'
  | _ => s

/-! ### Version 1 groups (R53–R55) -/

/-- The fields of the instruction at word i of a line. -/
def lineRaw (l : ILine) (i : Nat) : Raw :=
  Raw.ofWord (l.words.toList.getD i 0#32) ((List.range (extCount (l.words.get 0) i 15)).map fun j => l.words.toList.getD (i + 1 + j) 0#32)

/-- The words of a line at which its instructions stand, from word i on. -/
def instrSlots (h : Word) (i fuel : Nat) : List Nat :=
  match fuel with
  | 0 => []
  | f + 1 => if 15 < i then [] else i :: instrSlots h (i + extCount h i 15 + 1) f

/-- The earlier members of the group of word i of a version 1 line: those since the last group end (R53). -/
def groupBefore (l : ILine) (i : Nat) : List Nat :=
  ((instrSlots (l.words.get 0) 1 15).filter (· < i)).foldl
    (fun acc j => if headerCode (l.words.get 0) j = 3#2 then [] else acc ++ [j]) []

/-- What an instruction reads under R54; what source A reads through the bypass code is exempt. -/
def groupReads (mode : Word) (byp : Bool) (r : Raw) : List Res :=
  if byp then (fieldReads mode r).diff (bypassReads r) else fieldReads mode r

/-- Whether word i breaks a restriction of its version 1 group (R54), or is a bypass on the first instruction of its line (R55, R75):
whatever its other fields hold (R376). -/
def groupBreach (l : ILine) (i : Nat) (mode : Word) : Bool :=
  let h := l.words.get 0
  let code := headerCode h i
  let last := 15 < i + extCount h i 15 + 1
  let r := lineRaw l i
  (decide (i = 1) && code == 1#2) || (endsGroup r.op && code != 3#2 && !last) ||
  (let ws := (groupBefore l i).flatMap fun j => fieldWrites (lineRaw l j)
   (groupReads mode (code == 1#2) r).any ws.contains)

/-- Whether the bypass code of word i is misused (R55, R75): source A is not w0 with the block policy, or the instruction before it does
not shift. -/
def bypassMisuse (l : ILine) (i : Nat) : Bool :=
  headerCode (l.words.get 0) i == 1#2 &&
  !(bypassesA (lineRaw l i) &&
    (match ((instrSlots (l.words.get 0) 1 15).filter (· < i)).getLast? with
     | some j => shiftsResult (lineRaw l j)
     | none => false))

/-! ### What a gang finds at its PC -/

/-- What a member of a gang finds. -/
inductive Found where
  | instr (i : Instr)
  | trap (case : Nat)
  | privilege
deriving DecidableEq, Repr

/-- The instruction a member finds at word i of a line, or its trap (R376 items 1 to 4). -/
def findAt (l : ILine) (i : Nat) (mode : Word) : Found :=
  let h := l.words.get 0
  let w := l.words.toList.getD i 0#32
  let op := w.extractLsb' 24 8
  match headerVersion h with
  | none => .trap 8
  | some v1 =>
    if headerCode h i = 2#2 then .trap (if i = 1 then 9 else 0x0C)
    else if v1 && groupBreach l i mode then .trap 0x0A
    else match decodeRaw (lineRaw l i) with
      | .ok ins => if opSupervisor op && !modeSup mode then .privilege
        else if v1 && bypassMisuse l i then .trap 6
        else .instr ins
      | .error e => if e ≠ 1 ∧ opSupervisor op ∧ !modeSup mode then .privilege else .trap e

/-- The next PC (R51): behind the extension words, or word 1 of the next line. -/
def nextPc (h : Word) (pc : DWord) : DWord :=
  let i := (slotOf pc).val
  let k := extCount h i 15
  if i + k + 1 ≤ 15 then pc + BitVec.ofNat 64 (4 * (k + 1)) else (pc &&& ~~~63#64) + 68#64

/-- The latch of a gang at a line. -/
def latchOf (g : Gang) (l : ILine) (pc : DWord) : Cur :=
  let h := l.words.get 0
  ⟨g.gid, pc, nextPc h pc, l.words.get (slotOf pc), headerVersion h == some false && headerCode h (slotOf pc).val == 1#2⟩

/-- What a gang does next. -/
inductive FetchRes where
  | traps (ts : List (Nat × TrapRec)) (s : State)
  | held
  | instr (c : Cur) (i : Instr) (s : State)

/-- The trap of a found thing. -/
def Found.trap? (f : Found) (sl : Slice) (c : Cur) : Option TrapRec :=
  match f with
  | .instr _ => none
  | .trap k => if k = 0x0C then some (trapTarget sl c k c.pc) else some (trapIllegal sl c k)
  | .privilege => some (trapPrivilege sl c 1#8 0#8)

/-- Fetch and decode for a gang (R49, R51, R64, R376, R377); the members agree in PC and context. -/
def State.fetch (s : State) (g : Gang) : FetchRes :=
  match s.membersOf g with
  | [] => .held
  | m :: rest =>
    let ms := m :: rest
    let c0 : Cur := ⟨g.gid, m.pc, m.pc, 0#32, false⟩
    if m.pc.extractLsb' 0 2 ≠ 0#2 then .traps (ms.map fun x => (x.sid, trapTarget x c0 0x0D m.pc)) s
    else match s.codeLine m.core (s.sliceAsid m) m.pc with
      | .held => .held
      | .fault gr k => .traps (ms.map fun x => (x.sid, trapFetch x gr k m.pc m.pc)) s
      | .line l t =>
        let c := latchOf g l m.pc
        let fs := ms.map fun x => (x, findAt l (slotOf m.pc).val x.mode)
        match fs.filterMap fun f => (f.2.trap? f.1 c).map fun r => (f.1.sid, r) with
        | [] => match findAt l (slotOf m.pc).val m.mode with
          | .instr i => .instr c i t
          | _ => .held
        | ts => .traps ts t

end Sys2Proof.Machine
end

