-- ==== Sys2Proof/Machine/Scalar.lean ====
section
/-! DEFINITION. Groups 0x1 and 0x2: scalar integers, literals, address pairs, control registers, MODE, time and crews
(R76–R85, R94). Each is performed once per slice when a lane is active (R76). -/

set_option Elab.async false

namespace Sys2Proof.Machine

/-- (as × bs)[63:32] (R79). -/
def mulHighS (a b : Word) : Word := (a.signExtend 64 * b.signExtend 64).extractLsb' 32 32

/-- (a × b)[63:32] (R79). -/
def mulHighU (a b : Word) : Word := (a.setWidth 64 * b.setWidth 64).extractLsb' 32 32

/-- DIVS (R79): truncated toward zero, all ones for a zero divisor; −2^31 ÷ −1 wraps to 0x8000_0000. -/
def divSigned (a b : Word) : Word := if b = 0#32 then 0xFFFFFFFF#32 else a.sdiv b

/-- DIVU (R79). -/
def divUnsigned (a b : Word) : Word := if b = 0#32 then 0xFFFFFFFF#32 else a / b

/-- What issue knows of a two-source scalar instruction: sources A, B and the destination (R77, R79). -/
def scalarIssue (d : SReg) (a b : SSrc) : Issue :=
  Issue.regs (fun sl => sl.ssUses a 1 ++ sl.ssUses b 2) (fun sl => [sl.sname d])

/-- A group 0x1 instruction: s[D] := f(s[A], s[B]) (R79). -/
def State.scalarOp (s : State) (d : SReg) (a b : SSrc) (f : Word → Word → Word) : State :=
  s.issueLocal (scalarIssue d a b) fun m sl => sl.setS d (f (m.readSrc a.reg) (m.readSrc b.reg))

/-- `add` (R79): (a + b) mod 2^32. -/
def execAdd (d : SReg) (a b : SSrc) (s : State) : Host.Outcome State Fault Refusal :=
  .next (s.scalarOp d a b fun a b => a + b)

/-- `sub` (R79): (a − b) mod 2^32. -/
def execSub (d : SReg) (a b : SSrc) (s : State) : Host.Outcome State Fault Refusal :=
  .next (s.scalarOp d a b fun a b => a - b)

/-- `mul` (R79): (a × b) mod 2^32. -/
def execMul (d : SReg) (a b : SSrc) (s : State) : Host.Outcome State Fault Refusal :=
  .next (s.scalarOp d a b fun a b => a * b)

/-- `mulhs` (R79): bits [63:32] of the signed product. -/
def execMulhs (d : SReg) (a b : SSrc) (s : State) : Host.Outcome State Fault Refusal :=
  .next (s.scalarOp d a b fun a b => mulHighS a b)

/-- `mulhu` (R79): bits [63:32] of the unsigned product. -/
def execMulhu (d : SReg) (a b : SSrc) (s : State) : Host.Outcome State Fault Refusal :=
  .next (s.scalarOp d a b fun a b => mulHighU a b)

/-- `divs` (R79): the signed quotient, truncated. -/
def execDivs (d : SReg) (a b : SSrc) (s : State) : Host.Outcome State Fault Refusal :=
  .next (s.scalarOp d a b fun a b => divSigned a b)

/-- `divu` (R79): the unsigned quotient. -/
def execDivu (d : SReg) (a b : SSrc) (s : State) : Host.Outcome State Fault Refusal :=
  .next (s.scalarOp d a b fun a b => divUnsigned a b)

/-- `andS` (R79): a AND b. -/
def execAndS (d : SReg) (a b : SSrc) (s : State) : Host.Outcome State Fault Refusal :=
  .next (s.scalarOp d a b fun a b => a &&& b)

/-- `orS` (R79): a OR b. -/
def execOrS (d : SReg) (a b : SSrc) (s : State) : Host.Outcome State Fault Refusal :=
  .next (s.scalarOp d a b fun a b => a ||| b)

/-- `xorS` (R79): a XOR b. -/
def execXorS (d : SReg) (a b : SSrc) (s : State) : Host.Outcome State Fault Refusal :=
  .next (s.scalarOp d a b fun a b => a ^^^ b)

/-- `shl` (R79): a × 2^b, 0 for b ≥ 32. -/
def execShl (d : SReg) (a b : SSrc) (s : State) : Host.Outcome State Fault Refusal :=
  .next (s.scalarOp d a b fun a b => a <<< b.toNat)

/-- `shr` (R79): floor(a ÷ 2^b), 0 for b ≥ 32. -/
def execShr (d : SReg) (a b : SSrc) (s : State) : Host.Outcome State Fault Refusal :=
  .next (s.scalarOp d a b fun a b => a >>> b.toNat)

/-- `sar` (R79): the arithmetic shift by min(b, 31). -/
def execSar (d : SReg) (a b : SSrc) (s : State) : Host.Outcome State Fault Refusal :=
  .next (s.scalarOp d a b fun a b => a.sshiftRight (min b.toNat 31))

/-- `mins` (R79): the smaller signed value. -/
def execMins (d : SReg) (a b : SSrc) (s : State) : Host.Outcome State Fault Refusal :=
  .next (s.scalarOp d a b fun a b => if a.slt b then a else b)

/-- `maxs` (R79): the larger signed value. -/
def execMaxs (d : SReg) (a b : SSrc) (s : State) : Host.Outcome State Fault Refusal :=
  .next (s.scalarOp d a b fun a b => if a.slt b then b else a)

/-- `slt` (R79): 1 if a < b signed, else 0. -/
def execSlt (d : SReg) (a b : SSrc) (s : State) : Host.Outcome State Fault Refusal :=
  .next (s.scalarOp d a b fun a b => if a.slt b then 1#32 else 0#32)

/-! ### Literals and pairs (R80, R81) -/

/-- What issue knows of a scalar instruction with one source. -/
def unaryIssue (d : SReg) (a : SSrc) : Issue := Issue.regs (fun sl => sl.ssUses a 1) (fun sl => [sl.sname d])

/-- What issue knows of a scalar instruction without a source. -/
def nullaryIssue (d : SReg) : Issue := Issue.regs (fun _ => []) (fun sl => [sl.sname d])

/-- LI (R80). -/
def execLi (d : SReg) (lit : Word) (s : State) : Host.Outcome State Fault Refusal :=
  .next (s.issueLocal (nullaryIssue d) fun _ sl => sl.setS d lit)

/-- ADDI (R80). -/
def execAddi (d : SReg) (a : SSrc) (lit : Word) (s : State) : Host.Outcome State Fault Refusal :=
  .next (s.issueLocal (unaryIssue d a) fun m sl => sl.setS d (m.readSrc a.reg + lit))

/-- ANDI (R80). -/
def execAndi (d : SReg) (a : SSrc) (lit : Word) (s : State) : Host.Outcome State Fault Refusal :=
  .next (s.issueLocal (unaryIssue d a) fun m sl => sl.setS d (m.readSrc a.reg &&& lit))

/-- ORI (R80). -/
def execOri (d : SReg) (a : SSrc) (lit : Word) (s : State) : Host.Outcome State Fault Refusal :=
  .next (s.issueLocal (unaryIssue d a) fun m sl => sl.setS d (m.readSrc a.reg ||| lit))

/-- The storage of a scalar pair (R77). -/
def Slice.pairNames (sl : Slice) (d : SPairReg) : List RegName := [sl.sname (pairLo d), sl.sname (pairHi d)]

/-- ADDP (R81). -/
def execAddp (d : SPairReg) (a : SPairSrc) (b : SSrc) (s : State) : Host.Outcome State Fault Refusal :=
  .next (s.issueLocal (Issue.regs (fun sl => sl.spUses a 1 ++ sl.ssUses b 2) (fun sl => sl.pairNames d))
    fun m sl => sl.setPair d (m.readPair a.reg + sext32 (m.readSrc b.reg)))

/-- ADDPI (R81). -/
def execAddpi (d : SPairReg) (a : SPairSrc) (lit : Word) (s : State) : Host.Outcome State Fault Refusal :=
  .next (s.issueLocal (Issue.regs (fun sl => sl.spUses a 1) (fun sl => sl.pairNames d))
    fun m sl => sl.setPair d (m.readPair a.reg + sext32 lit))

/-! ### Control registers (R82, R83) -/

/-- The trap registers, which need MODE.SUP = 1 to be read or written (R82, R165). -/
def csrTrap (r : Csr) : Bool :=
  match r with
  | .tcause | .tdet0 | .tdet1 | .tdet2 | .tpcl | .tpch => true
  | _ => false

/-- The registers whose writing needs MODE.SUP = 1 (R82). -/
def csrWriteSup (r : Csr) : Bool := r == .gtmo || r == .swpt || r == .quant || csrTrap r

/-- The number of slices of a wave, NSLICE (R82). -/
def State.nslice (s : State) (wave : Word) : Word :=
  match s.wave? wave with
  | some w => BitVec.ofNat 32 w.n
  | none => 0#32

/-- A control register's value (R82, R165). -/
def State.readCsr (s : State) (sl : Slice) (r : Csr) : Word :=
  match r with
  | .fstat => sl.fstat
  | .crews => sl.crews
  | .gtmo => (s.core sl.core).gtmo.setWidth 32
  | .swpt => (s.core sl.core).swpt.setWidth 32
  | .rgnpcl => sl.rgnpc.lo
  | .rgnpch => sl.rgnpc.hi
  | .rgncnt => sl.rgncnt
  | .slotid => 0#16 ++ BitVec.ofNat 8 sl.core ++ 0#1 ++ BitVec.ofNat 7 sl.slot
  | .waveid => sl.wave
  | .nslice => s.nslice sl.wave
  | .quant => (s.core sl.core).quant.setWidth 32
  | .tcause => sl.tcause
  | .tdet0 => sl.tdet.extractLsb' 0 32
  | .tdet1 => sl.tdet.extractLsb' 32 32
  | .tdet2 => sl.tdet.extractLsb' 64 32
  | .tpcl => sl.tpc.lo
  | .tpch => sl.tpc.hi

/-- A write to a control register under its access codes (R5, R21, R47, R82, R165); a read-only register ignores it. -/
def State.writeCsr (s : State) (sl : Slice) (r : Csr) (x : Word) : State :=
  let rec_ := s.core sl.core
  match r with
  | .fstat => s.modSlice sl.sid fun y => { y with fstat := fstatWrite x }
  | .gtmo => s.setCore sl.core { rec_ with gtmo := x.setWidth 20 }
  | .swpt => s.setCore sl.core { rec_ with swpt := x.setWidth 20 }
  | .quant => s.setCore sl.core { rec_ with quant := x.setWidth 20 }
  | .tcause => s.modSlice sl.sid fun y => { y with tcause := x &&& 0x7FCFF01F#32 }
  | .tdet0 => s.modSlice sl.sid fun y => { y with tdet := y.tdet.extractLsb' 32 64 ++ x }
  | .tdet1 => s.modSlice sl.sid fun y => { y with tdet := y.tdet.extractLsb' 64 32 ++ x ++ y.tdet.extractLsb' 0 32 }
  | .tdet2 => s.modSlice sl.sid fun y => { y with tdet := x ++ y.tdet.extractLsb' 0 64 }
  | .tpcl => s.modSlice sl.sid fun y => { y with tpc := pairOf x y.tpc.hi }
  | .tpch => s.modSlice sl.sid fun y => { y with tpc := pairOf y.tpc.lo x }
  | .crews | .rgnpcl | .rgnpch | .rgncnt | .slotid | .waveid | .nslice => s

/-- The capability trap of a control register (R83, R166): the detail names the register. -/
def csrCheck (r : Csr) (needs : Bool) (c : Cur) (sl : Slice) : Option TrapRec :=
  if needs && !modeSup sl.mode then some (trapPrivilege sl c 2#8 (encCsr r)) else none

/-- CSRR (R83). -/
def execCsrr (d : SReg) (b : Csr) (s : State) : Host.Outcome State Fault Refusal :=
  .next (s.issue ⟨.guarded, false, fun _ => [], fun sl => [sl.sname d], noCheck, csrCheck b (csrTrap b)⟩ noHold
    fun _ ms t => ms.foldl (fun x m => x.modSlice m.sid fun sl => sl.setS d (t.readCsr m b)) t)

/-- CSRW (R83). -/
def execCsrw (a : SSrc) (b : Csr) (s : State) : Host.Outcome State Fault Refusal :=
  .next (s.issue ⟨.guarded, false, fun sl => sl.ssUses a 1, fun _ => [], noCheck, csrCheck b (csrWriteSup b)⟩ noHold
    fun _ ms t => ms.foldl (fun x m => x.writeCsr m b (m.readSrc a.reg)) t)

/-! ### MODE (R32, R84) -/

/-- The new MODE of SETM and SETMI: bit [24] is kept (R84). -/
def modeWrite (old v : Word) : Word := (v &&& ~~~(1#32 <<< 24)) ||| (old &&& (1#32 <<< 24))

/-- Write MODE; a change of RPERM is a flush point (R84, R228). -/
def State.writeMode (s : State) (sl : Slice) (v : Word) : State :=
  let s := if modeRperm sl.mode = modeRperm v then s else s.flushSlice sl
  s.modSlice sl.sid fun x => { x with mode := modeWrite sl.mode v }

/-- SETM (R84): a reserved bit or code raises the illegal-instruction trap. -/
def execSetm (a : SSrc) (s : State) : Host.Outcome State Fault Refusal :=
  .next (s.issue ⟨.guarded, false, fun sl => sl.ssUses a 1, fun _ => [], noCheck,
      fun c sl => if modeLegal (sl.readSrc a.reg) then none else some (trapIllegal sl c 3)⟩ noHold
    fun _ ms t => ms.foldl (fun x m => x.writeMode m (m.readSrc a.reg)) t)

/-- SETMI (R84): its literal is checked by the decoder. -/
def execSetmi (lit : Word) (s : State) : Host.Outcome State Fault Refusal :=
  .next (s.issue (Issue.regs (fun _ => []) fun _ => []) noHold
    fun _ ms t => ms.foldl (fun x m => x.writeMode m lit) t)

/-- GETM (R84). -/
def execGetm (d : SReg) (s : State) : Host.Outcome State Fault Refusal :=
  .next (s.issueLocal (nullaryIssue d) fun m sl => sl.setS d m.mode)

/-! ### Time (R85) -/

/-- RDTS (R85): every member samples the counter at issue. -/
def execRdts (d : SPairReg) (s : State) : Host.Outcome State Fault Refusal :=
  .next (s.issue (Issue.regs (fun _ => []) (fun sl => sl.pairNames d)) noHold
    fun _ ms t =>
      let t := t.tick
      ms.foldl (fun x m => x.modSlice m.sid fun sl => sl.setPair d t.tsc) t)

/-! ### Crews (R43, R94) -/

/-- JOIN (R43): a crew bound to another wave raises the capability trap, case 0x03. -/
def execJoin (a : Fin 32) (s : State) : Host.Outcome State Fault Refusal :=
  .next (s.issue ⟨.guarded, false, fun _ => [], fun _ => [], noCheck, fun c sl =>
      match s.crew sl.core a with
      | some e => if e.wave = sl.wave then none else some (trapPrivilege sl c 3#8 (BitVec.ofNat 8 a.val))
      | none => none⟩ noHold
    fun _ ms t => ms.foldl (fun x m => x.joinCrew m a) t)

/-- LEAVE (R43). -/
def execLeave (a : Fin 32) (s : State) : Host.Outcome State Fault Refusal :=
  .next (s.issue (Issue.regs (fun _ => []) fun _ => []) noHold
    fun _ ms t => ms.foldl (fun x m => x.leaveCrew m a) t)

end Sys2Proof.Machine
end

