-- ==== Sys2Proof/Machine/Control.lean ====
section
/-! DEFINITION. Group 0x0: branches, calls, ends, yields, traps, regions, REGANG, full/empty test and mark, returns from a handler
(R86–R96, R170, R173, R174), the path-end pop of R39, and waits on mailboxes and counters (R97–R99). -/

set_option Elab.async false

namespace Sys2Proof.Machine

/-! ### The reconvergence stack (R37–R39) -/

/-- The current segment of a slice's stack, top first (R37): the supervisor segment while MODE.SUP = 1. -/
def Slice.segment (sl : Slice) : List StackEntry := if modeSup sl.mode then sl.sup else sl.stack

/-- Replace the current segment. -/
def Slice.setSegment (sl : Slice) (es : List StackEntry) : Slice :=
  if modeSup sl.mode then { sl with sup := es } else { sl with stack := es }

/-- The free entries of the current segment (R38). -/
def Slice.freeEntries (sl : Slice) : Nat := (if modeSup sl.mode then 4 else 12) - sl.segment.length

/-- The PC of the topmost join entry of the current segment. -/
def Slice.joinPc (sl : Slice) : Option DWord := (sl.segment.find? fun e => !e.pending).map (·.pc)

/-- Whether a slice's path ends at its PC (R39). -/
def Slice.pathEnds (sl : Slice) : Bool := sl.joinPc == some sl.pc

/-- One pop of R39. The supervisor bit and the segment agree, since every entry of a segment was pushed with that bit. A pop that
leaves the depth below the recorded one is a region entry (R170). -/
def Slice.pop (sl : Slice) : Slice :=
  match sl.segment with
  | [] => sl
  | e :: rest =>
    let t := sl.setSegment rest
    let u := { t with amask := e.mask, mode := e.mode, pc := e.pc }
    if u.depth < sl.rgnDepth then u.regionEntry e.pc else u

/-- Whether a pop is a region entry (R170). -/
def Slice.popEnters (sl : Slice) : Bool := sl.segment != [] && decide (sl.depth - 1 < sl.rgnDepth)

/-- Pop until a lane is active or the segment is empty (R39, R89). -/
def Slice.popAll (fuel : Nat) (sl : Slice) : Slice :=
  match fuel with
  | 0 => sl
  | n + 1 => if sl.segment = [] ∨ sl.amask ≠ 0#4 then sl else Slice.popAll n sl.pop

/-- Whether a run of popAll makes a region entry. -/
def Slice.popAllEnters (sl : Slice) (t : Slice) : Bool := t.rgncnt != sl.rgncnt

/-- The pops of one path end (R39): the top entry, and again at once while the restored mask is 0. -/
def Slice.endPath (sl : Slice) : Slice := sl.pop.popAll 16

/-- The step PATH_END_POP for a gang (R39, R41): every member whose path ends pops. A pop that is a region entry waits as R92 does,
and a late fault it brings to light is taken instead (R169, R170). -/
def State.popGang (s : State) (g : Gang) : State :=
  let ms := (s.membersOf g).filter fun m => m.pathEnds && (!m.stopped || m.stepping)
  let enters := ms.filter fun m => m.popAllEnters m.endPath
  let faulty := enters.filter fun m => !(s.faultedTxns m.sid).isEmpty
  if ms.isEmpty then s
  else if !faulty.isEmpty then s.raiseAll (faulty.map fun m => (m.sid, lateReport m))
  else if enters.any fun m => !s.resolved m.sid then s.setWait g.gid (.held true)
  else ms.foldl (fun t m => t.modSlice m.sid Slice.endPath) s

/-- PATH_END_POP of the slice in a slot, for its gang. -/
def execPathEndPop (core slot : Nat) (s : State) : Host.Outcome State Fault Refusal :=
  .next (match (s.sliceAt core slot).bind fun sl => s.gangOf sl.sid with
    | some g => if g.wait = .ready then s.popGang g else s
    | none => s)

/-! ### Illegal convergence (R101, R166) -/

/-- The members of the issuing gang, one bit for each slot of the octet. -/
def State.memberBits (s : State) (c : Cur) : BitVec 8 :=
  match s.gang? c.gid with
  | some g => (s.membersOf g).foldl (fun m x => m ||| (1#8 <<< x.pos)) 0#8
  | none => 0#8

/-- The illegal-convergence trap (R101, R166). -/
def State.trapConv (s : State) (sl : Slice) (c : Cur) (case : BitVec 8) (low : DWord) : TrapRec :=
  trapAt sl c 3#5 case (s.memberBits c) (0#12 ++ (sl.amask &&& ~~~sl.active)) low

/-! ### Branches (R86, R87) -/

/-- A target given by a signed word offset (R86). -/
def offTarget (pc : DWord) (off : DWord) : DWord := pc + (off <<< 2)

/-- The lanes of the active lanes that take a branch (R87). -/
def Slice.takes (sl : Slice) (c : BrCond) : BitVec 4 :=
  match c with
  | .pred p => sl.active &&& sl.p.get p
  | .predNot p => sl.active &&& ~~~(sl.p.get p)
  | .nz x => if sl.readSrc x.reg ≠ 0#32 then sl.active else 0#4
  | .zero x => if sl.readSrc x.reg = 0#32 then sl.active else 0#4

/-- What a branch does to a slice whose PC is already at the next instruction (R87, R38): `taken` are its lanes T. -/
def Slice.branch (sl : Slice) (taken : BitVec 4) (target rpc nxt : DWord) : Slice :=
  let n := sl.amask &&& ~~~taken
  if taken = 0#4 then { sl with pc := nxt }
  else if n = 0#4 then { sl with pc := target }
  else
    let t := sl.setSegment (⟨sl.mode, n, true, nxt⟩ :: ⟨sl.mode, sl.amask, false, rpc⟩ :: sl.segment)
    { t with amask := taken, pc := target }

/-- The checks of a branch in their order (R87). -/
def State.branchTrap (s : State) (sl : Slice) (c : Cur) (taken : BitVec 4) (off : BrOffsets) : Option TrapRec :=
  let target := offTarget c.pc (off.toff.signExtend 64)
  let rpc := offTarget c.pc (off.joff.signExtend 64)
  if taken = 0#4 then none
  else match s.targetTrap sl c target with
    | some r => some r
    | none =>
      if sl.amask &&& ~~~taken = 0#4 then none
      else if off.joff = 0#16 then some (s.trapConv sl c 2#8 target)
      else match s.targetTrap sl c rpc with
        | some r => some r
        | none => if sl.freeEntries < 2 then some (s.trapConv sl c 1#8 target) else none

/-- The targets a branch reads. -/
def branchTargets (sl : Slice) (c : Cur) (taken : BitVec 4) (off : BrOffsets) : List DWord :=
  if taken = 0#4 then []
  else offTarget c.pc (off.toff.signExtend 64) ::
    (if sl.amask &&& ~~~taken = 0#4 then [] else [offTarget c.pc (off.joff.signExtend 64)])

/-- A branch on a condition; none is BRA. -/
def State.branchOp (s : State) (cond : Slice → BitVec 4) (srcs : Slice → List SrcUse) (off : BrOffsets) : State :=
  s.issue ⟨.always, false, srcs, fun _ => [], noCheck, fun c sl => s.branchTrap sl c (cond sl) off⟩
    (fun c ms t => ms.any fun m => (branchTargets m c (cond m) off).any (t.targetHeld m))
    fun c ms t => ms.foldl (fun x m =>
      ((branchTargets m c (cond m) off).foldl (fun y a => y.targetRead m a) x).modSlice m.sid fun sl =>
        sl.branch (cond m) (offTarget c.pc (off.toff.signExtend 64)) (offTarget c.pc (off.joff.signExtend 64)) c.nxt) t

/-- The condition's source uses (R78). -/
def Slice.condUses (sl : Slice) (c : BrCond) : List SrcUse :=
  match c with
  | .pred _ => []
  | .predNot _ => []
  | .nz x => sl.ssUses x 2
  | .zero x => sl.ssUses x 2

/-- BRA (R87). -/
def execBra (off : BrOffsets) (s : State) : Host.Outcome State Fault Refusal :=
  .next (s.branchOp (fun sl => sl.active) (fun _ => []) off)

/-- BRP (R87). -/
def execBrp (c : BrCond) (off : BrOffsets) (s : State) : Host.Outcome State Fault Refusal :=
  .next (s.branchOp (fun sl => sl.takes c) (fun sl => sl.condUses c) off)

/-! ### Whole-mask transfers (R88) -/

/-- The checks of BRI, CALL, CALLI and RET (R88 steps 1 and 3). -/
def State.wholeTrap (s : State) (sl : Slice) (c : Cur) (target : DWord) : Option TrapRec :=
  if sl.amask &&& ~~~sl.active ≠ 0#4 then some (s.trapConv sl c 3#8 0#64) else s.targetTrap sl c target

/-- A transfer of the whole mask (R88): `target` is read before `link` is written. -/
def State.wholeOp (s : State) (srcs : Slice → List SrcUse) (dst : Slice → List RegName) (target : Cur → Slice → DWord)
    (link : Cur → Slice → Slice) : State :=
  s.issue ⟨.perLane, false, srcs, dst, noCheck, fun c sl => s.wholeTrap sl c (target c sl)⟩
    (fun c ms t => ms.any fun m => t.targetHeld m (target c m))
    fun c ms t => ms.foldl (fun x m =>
      (x.targetRead m (target c m)).modSlice m.sid fun sl => { link c sl with pc := target c m }) t

/-- BRI (R88). -/
def execBri (a : SPairSrc) (s : State) : Host.Outcome State Fault Refusal :=
  .next (s.wholeOp (fun sl => sl.spUses a 1) (fun _ => []) (fun _ sl => sl.readPair a.reg) fun _ sl => sl)

/-- CALL (R86, R88). -/
def execCall (d : SPairReg) (lit : Word) (s : State) : Host.Outcome State Fault Refusal :=
  .next (s.wholeOp (fun _ => []) (fun sl => sl.pairNames d) (fun c _ => offTarget c.pc (sext32 lit))
    fun c sl => sl.setPair d c.nxt)

/-- CALLI (R88). -/
def execCalli (d : SPairReg) (a : SPairSrc) (s : State) : Host.Outcome State Fault Refusal :=
  .next (s.wholeOp (fun sl => sl.spUses a 1) (fun sl => sl.pairNames d) (fun _ sl => sl.readPair a.reg)
    fun c sl => sl.setPair d c.nxt)

/-- RET (R88). -/
def execRet (a : SPairSrc) (s : State) : Host.Outcome State Fault Refusal :=
  .next (s.wholeOp (fun sl => sl.spUses a 1) (fun _ => []) (fun _ sl => sl.readPair a.reg) fun _ sl => sl)

/-! ### Returns from a handler (R173) -/

/-- Where RETR (`region`) or RETT resumes. -/
def Slice.retTarget (sl : Slice) (region : Bool) : DWord := if region then sl.rgnpc else sl.tpc

/-- Whether the trap being handled is a late one (R165, R173). -/
def Slice.causeLate (sl : Slice) : Bool := sl.taken.getLsbD 7

/-- s63 of the supervisor bank, and s62. -/
def Slice.savedMask (sl : Slice) : Word := (sl.bank.get 3).val
def Slice.savedMode (sl : Slice) : Word := (sl.bank.get 2).val

/-- The check of RETR or RETT that fails first (R173), by its place: the supervisor segment, s62, s63, LATE. -/
def Slice.retFail (sl : Slice) (region : Bool) : Option (Fin 4) :=
  if sl.sup ≠ [] then some 0
  else if !modeLegal sl.savedMode then some 1
  else if sl.savedMask.extractLsb' 4 28 ≠ 0#28 then some 2
  else if !region && sl.causeLate then some 3
  else none

/-- The trap of a failed check of RETR or RETT; the spec gives the checks no case code of their own, so it is free (log 3). -/
def trapRet (sl : Slice) (c : Cur) (k : Fin 4) : TrapRec :=
  trapAt sl c 1#5 (Config.retCase k) (wordIndex c.pc) 0#16 (c.word.setWidth 64)

/-- The checks of RETR and RETT (R173); a late fault the wait of the region entry brings to light comes first (R170). -/
def State.retTrap (s : State) (sl : Slice) (c : Cur) (region : Bool) : Option TrapRec :=
  match sl.retFail region with
  | some k => some (trapRet sl c k)
  | none => match s.targetTrap sl c (sl.retTarget region) with
    | some r => some r
    | none => if (s.faultedTxns sl.sid).isEmpty then none else some (lateReport sl)

/-- The registers RETR and RETT restore (R173). -/
def Slice.ret (sl : Slice) (region : Bool) : Slice :=
  let mask := sl.savedMask.extractLsb' 0 4
  let t : Slice := if region then
      { sl with stack := sl.stack.drop (sl.stack.length - sl.rgnDepth), amask := sl.rgnMask &&& mask }
    else { sl with amask := mask }
  ({ t with mode := sl.savedMode &&& ~~~(1#32 <<< 24), pc := sl.retTarget region }).regionEntry (sl.retTarget region)

/-- Perform RETR or RETT for a slice: the page it faulted on first is released (R176). -/
def State.retSlice (s : State) (sl : Slice) (region : Bool) : State :=
  ((s.targetRead sl (sl.retTarget region)).releaseFaults sl.sid).modSlice sl.sid fun x => x.ret region

/-- RETR and RETT. -/
def State.retOp (s : State) (region : Bool) : State :=
  s.issue ⟨.always, true, fun _ => [], fun _ => [], noCheck, fun c sl => s.retTrap sl c region⟩
    (fun _ ms t => ms.any fun m => t.targetHeld m (m.retTarget region) || !t.resolved m.sid)
    fun _ ms t => ms.foldl (fun x m => x.retSlice m region) t

/-- RETR (R173). -/
def execRetr (s : State) : Host.Outcome State Fault Refusal := .next (s.retOp true)

/-- RETT (R173). -/
def execRett (s : State) : Host.Outcome State Fault Refusal := .next (s.retOp false)

/-! ### EXIT (R89, R170, R174) -/

/-- Remove lanes from every entry of a stack. -/
def stripLanes (x : BitVec 4) (es : List StackEntry) : List StackEntry := es.map fun e => { e with mask := e.mask &&& ~~~x }

/-- A slice with lanes removed from the mask, every stack entry and, in a handler, s63 (R89, R174). -/
def Slice.strip (sl : Slice) (x : BitVec 4) : Slice :=
  { sl with
    amask := sl.amask &&& ~~~x
    stack := stripLanes x sl.stack
    sup := stripLanes x sl.sup
    bank := if modeSup sl.mode then
        sl.bank.set 3 { sl.bank.get 3 with val := (sl.bank.get 3).val &&& ~~~(x.setWidth 32) }
      else sl.bank }

/-- What EXIT comes to for a slice (R89, R174). -/
inductive ExitPlan where
  /-- A lane is left; the PC is the next instruction. -/
  | goesOn (sl : Slice)
  /-- Another path of the slice goes on. -/
  | popped (sl : Slice)
  /-- The handler's lanes are gone: RETR or RETT. -/
  | returns (sl : Slice) (region : Bool)
  | ends

/-- The plan of EXIT; an EXIT that leaves a lane active is a region entry (R170), in a handler too (log 29). -/
def Slice.exitPlan (sl : Slice) (nxt : DWord) : ExitPlan :=
  let t := sl.strip sl.active
  if t.amask ≠ 0#4 then
    .goesOn (({ t with pc := nxt }).regionEntry nxt)
  else
    let u := t.popAll 16
    if u.amask ≠ 0#4 then .popped u
    else if modeSup sl.mode && u.savedMask.extractLsb' 0 4 ≠ 0#4 then .returns u u.causeLate
    else .ends

/-- Whether an EXIT has to wait as R92 does: it enters a region, or the slice ends (R169, R170). -/
def Slice.exitWaits (sl : Slice) (nxt : DWord) : Bool :=
  match sl.exitPlan nxt with
  | .goesOn u => u.rgncnt != sl.rgncnt
  | .popped u => u.rgncnt != sl.rgncnt
  | .returns _ _ => true
  | .ends => true

/-- The traps of EXIT: a late fault its wait brings to light, and in a handler the checks of the return it makes. -/
def State.exitTrap (s : State) (sl : Slice) (c : Cur) : Option TrapRec :=
  if sl.exitWaits c.nxt && !(s.faultedTxns sl.sid).isEmpty then some (lateReport sl)
  else match sl.exitPlan c.nxt with
    | .returns u region => s.retTrap u c region
    | _ => none

/-- Perform EXIT for a slice (R89). -/
def State.exitSlice (s : State) (sl : Slice) (c : Cur) : State :=
  match sl.exitPlan c.nxt with
  | .goesOn u => s.putSlice u
  | .popped u => s.putSlice u
  | .returns u region => (s.putSlice u).retSlice u region
  | .ends => s.endSlice sl.sid

/-- EXIT (R89, R174). -/
def execExit (s : State) : Host.Outcome State Fault Refusal :=
  .next (s.issue ⟨.guarded, false, fun _ => [], fun _ => [], noCheck, fun c sl => s.exitTrap sl c⟩
    (fun c ms t => ms.any fun m =>
      (m.exitWaits c.nxt && !t.resolved m.sid) ||
      (match m.exitPlan c.nxt with
       | .returns u region => t.targetHeld u (u.retTarget region)
       | _ => false))
    fun c ms t => ms.foldl (fun x m => x.exitSlice m c) t)

/-! ### NOP, YIELD, TRAP, RGN, REGANG -/

/-- NOP (R63): the PC moves on. -/
def execNop (s : State) : Host.Outcome State Fault Refusal :=
  .next (s.issueLocal ⟨.always, false, fun _ => [], fun _ => [], noCheck, noCheck⟩ fun _ sl => sl)

/-- YIELD (R90, R52): the gang goes to the tail of its rank. -/
def execYield (s : State) : Host.Outcome State Fault Refusal :=
  .next (s.issue ⟨.always, false, fun _ => [], fun _ => [], noCheck, noCheck⟩ noHold fun c _ t => t.wakeGang c.gid)

/-- Whether a debugger is attached to a slice's wave (R179). -/
def State.attached (s : State) (sl : Slice) : Bool :=
  match s.wave? sl.wave with
  | some w => w.attached
  | none => false

/-- The software TRAP (R91, R166): TPC is the next instruction, the detail holds the code. -/
def trapSoft (sl : Slice) (c : Cur) (code : BitVec 16) : TrapRec :=
  { trapAt sl c 0xD#5 0#8 0#8 code 0#64 with tpc := c.nxt }

/-- TRAP (R91): the trap is taken; TRAP 0xFFFF in an attached wave stops the slice as a breakpoint instead (R179). -/
def execTrap (code : BitVec 16) (s : State) : Host.Outcome State Fault Refusal :=
  .next (s.issue ⟨.guarded, false, fun _ => [], fun _ => [], noCheck, fun c sl =>
      if code = 0xFFFF#16 ∧ s.attached sl then none else some (trapSoft sl c code)⟩ noHold
    fun _ ms t => ms.foldl (fun x m => x.stopSlice m.sid 2#8) t)

/-- RGN (R92): waits until every earlier access is translated, then enters a region. -/
def execRgn (s : State) : Host.Outcome State Fault Refusal :=
  .next (s.issue ⟨.always, false, fun _ => [], fun _ => [], noCheck, fun _ sl =>
      if (s.faultedTxns sl.sid).isEmpty then none else some (lateReport sl)⟩
    (fun _ ms t => ms.any fun m => !t.resolved m.sid)
    fun c ms t => ms.foldl (fun x m => x.modSlice m.sid fun sl => sl.regionEntry c.nxt) t)

/-- A gang arrives at the REGANG at a PC: its block's instance is opened or joined, and closes if all have arrived (R42). A timed
instance of a core with GTMO = 0 closes at its first arrival (R47). -/
def State.arriveRegang (s : State) (c : Cur) (ms : List Slice) (timed : Bool) : State :=
  match ms with
  | [] => s
  | m :: _ =>
    let ids := ms.map (·.sid)
    let inst := s.regangs.find? fun r => r.wave == m.wave && r.block == m.block && r.pc == c.pc
    let (s, i) : State × RegangInst := match inst with
      | some r =>
        let r' := { r with arrived := r.arrived ++ ids, timed := r.timed || timed }
        ({ s with regangs := s.regangs.map fun x => if x.id == r.id then r' else x }, r')
      | none =>
        let r : RegangInst := ⟨s.nextId, m.wave, m.block, c.pc, ids, timed⟩
        ({ s with regangs := s.regangs ++ [r], nextId := s.nextId + 1 }, r)
    let s := s.setWait c.gid (.regang i.id)
    if s.regangFull i || (i.timed && (s.core m.core).gtmo == 0#20) then s.closeRegang i else s

/-- REGANG (R93, R42). -/
def execRegang (timed : Bool) (s : State) : Host.Outcome State Fault Refusal :=
  .next (s.issue ⟨.always, false, fun _ => [], fun _ => [], noCheck, noCheck⟩ noHold
    fun c ms t => t.arriveRegang c ms timed)

/-- The step REGANG_TIMEOUT (R42): a timed instance has been open for GTMO clk; the count stands still while a slice that has arrived is
in a saved presence. -/
def execRegangTimeout (id : Nat) (s : State) : Host.Outcome State Fault Refusal :=
  .next (match s.regangs.find? fun r => r.id == id && r.timed with
    | some i => if i.arrived.all fun a => s.slices.any fun x => x.sid == a && x.place == .resident then s.closeRegang i else s
    | none => s)

/-! ### Full/empty test and mark (R95, R96) -/

/-- The storage FEMRK names. -/
def Slice.fullName (sl : Slice) (r : FullReg) : RegName :=
  match r with
  | .vec x => vregName x
  | .scl n => sl.sname n

/-- The register with a full/empty bit that FETST names; one without such a bit is never empty (R34, R95). -/
def Slice.feUses (sl : Slice) (r : FeSrc) : List SrcUse :=
  match r with
  | .vec x => vsUses x 1
  | .scl x => sl.ssUses x 1

/-- FETST (R95). -/
def execFetst (p : PReg) (r : FeSrc) (s : State) : Host.Outcome State Fault Refusal :=
  .next (s.issueLocal (Issue.regs (fun _ => []) fun _ => []) fun m sl =>
    sl.setP p m.active (if (m.feUses r).all fun u => m.isFull u.reg then 0b1111#4 else 0#4))

/-- Whether a long-latency producer aimed at a register of a slice is outstanding (R31, R96). -/
def State.producing (s : State) (sid : Nat) (r : RegName) : Bool :=
  s.txns.any fun t => t.parts.any fun p => p.sid == sid && p.dst.contains r

/-- FEMRK (R96): waits for a producer aimed at the register, never for its full/empty bit. -/
def execFemrk (r : FullReg) (full : Bool) (s : State) : Host.Outcome State Fault Refusal :=
  .next (s.issue (Issue.regs (fun _ => []) fun _ => [])
    (fun _ ms t => ms.any fun m => t.producing m.sid (m.fullName r))
    fun _ ms t => ms.foldl (fun x m => x.modSlice m.sid fun sl => sl.setFull (m.fullName r) full) t)

/-! ### Waits (R97–R99) -/

/-- Add an outstanding operation. -/
def State.addTxn (s : State) (kind : TxnKind) (sl : Slice) (size : Nat) (scalar : Bool) (parts : List Part)
    (lanes : List LaneAcc) : State :=
  { s with
    txns := s.txns ++ [⟨s.nextId, kind, sl.core, s.ctxOfWave sl.wave, sl.wave, size, scalar, parts, lanes, none, [], s.fab.step,
      false⟩]
    nextId := s.nextId + 1 }

/-- The part of a slice in an operation that issues now. -/
def Slice.part (sl : Slice) (c : Cur) (dst : List RegName) : Part := ⟨sl.sid, sl.slot, c.pc, sl.active, dst, sl.rgncnt, modeSup sl.mode⟩

/-- Mark destinations empty (R34). -/
def State.markEmpty (s : State) (sid : Nat) (dst : List RegName) : State :=
  s.modSlice sid fun sl => dst.foldl (fun x r => x.setFull r false) sl

/-- The waits a slice has outstanding (R97, R354). -/
def State.waitCount (s : State) (sid : Nat) : Nat :=
  (s.txns.filter fun t => t.has sid && (match t.kind with
    | .waitw _ | .waitv _ | .xwait _ | .xfence => true
    | _ => false)).length

/-- A wait instruction beyond four of a slice does not issue (R97). -/
def waitHold : Cur → List Slice → State → Bool := fun _ ms t => ms.any fun m => decide (4 ≤ t.waitCount m.sid)

/-- WAITW (R98). -/
def execWaitw (d : SReg) (a : Fin 64) (s : State) : Host.Outcome State Fault Refusal :=
  .next (s.issue (nullaryIssue d) waitHold fun c ms t => ms.foldl (fun x m =>
    (x.markEmpty m.sid [m.sname d]).addTxn (.waitw a) m 4 true [m.part c [m.sname d]] []) t)

/-- The memory check of a scalar access of a slice (R139): its trap, if any. -/
def State.scalarAccess (s : State) (sl : Slice) (c : Cur) (x : DWord) (b : Nat) (admits : List Window) (align : Nat)
    (write : Bool) : Option TrapRec :=
  (checkAccess s sl.core sl.wave x b admits align).map fun k =>
    trapAccess sl c k write sl.active (lowLane sl.active) x

/-- The access of a scalar instruction of a slice, carried by its lowest active lane (R142). -/
def Slice.scalarLane (sl : Slice) (x : DWord) (data : DWord) (cmp : Word) : LaneAcc :=
  ⟨sl.sid, sl.slot, Fin.ofNat 4 (lowLane sl.active), x, data, cmp, none⟩

/-- WAITV (R99). -/
def execWaitv (d : SReg) (a : SPairSrc) (b : SSrc) (s : State) : Host.Outcome State Fault Refusal :=
  .next (s.issue ⟨.guarded, false, fun sl => sl.spUses a 1 ++ sl.ssUses b 2, fun sl => [sl.sname d], noCheck, fun c sl =>
      s.scalarAccess sl c (sl.readPair a.reg) 4 [.global, .scratch] 4 false⟩ waitHold
    fun c ms t => ms.foldl (fun x m =>
      (x.markEmpty m.sid [m.sname d]).addTxn (.waitv (m.readSrc b.reg)) m 4 true [m.part c [m.sname d]]
        [m.scalarLane (m.readPair a.reg) 0#64 0#32]) t)

end Sys2Proof.Machine
end

