-- ==== Sys2Proof/Machine/MemOps.lean ====
section
/-! DEFINITION. Groups 0x9 and 0xA: loads, stores, prefetch, atomics, AMAXX, fences and barriers (R138–R163, R186–R193, R273,
R278). -/

set_option Elab.async false

namespace Sys2Proof.Machine

/-! ### Checks and addresses (R139, R144, R350, R353) -/

/-- A mask from a list of lanes. -/
def maskOf (ls : List (Fin 4)) : BitVec 4 := ls.foldl (fun m i => m ||| (1#4 <<< i.val)) 0#4

/-- The memory check of the active lanes of a slice (R139): the trap names the lanes that fail and the lowest of them. -/
def State.laneAccess (s : State) (sl : Slice) (c : Cur) (addr : Fin 4 → DWord) (b : Nat) (admits : List Window) (align : Nat)
    (write : Bool) : Option TrapRec :=
  let bad := (lanesOf sl.active).filter fun i => (checkAccess s sl.core sl.wave (addr i) b admits align).isSome
  match bad with
  | [] => none
  | i :: _ => (checkAccess s sl.core sl.wave (addr i) b admits align).map fun k =>
      trapAccess sl c k write (maskOf bad) i.val (addr i)

/-- The fabric trap (R353). -/
def trapFabric (sl : Slice) (c : Cur) (case : BitVec 8) (lane : Nat) (peer : BitVec 9) (a : DWord) : TrapRec :=
  trapAt sl c 0xB#5 case (BitVec.ofNat 8 (4 * sl.pos + lane)) (peer.setWidth 16) a

/-- Whether an address of a slice is in an active landing window of its own context (R350). -/
def State.inLanding (s : State) (sl : Slice) (a : DWord) : Bool :=
  windowOf a == some .global && (s.landing? (s.ctxOfWave sl.wave) (offsetOf a)).isSome

/-- The fabric trap of a store or atomic that an active landing window does not take (R350, R353). -/
def State.landingTrap (s : State) (sl : Slice) (c : Cur) (addr : Fin 4 → DWord) (case : BitVec 8) : Option TrapRec :=
  match (lanesOf sl.active).find? fun i => s.inLanding sl (addr i) with
  | some i => some (trapFabric sl c case i.val 0#9 (addr i))
  | none => none

/-- Lane i accesses pair[A] + sext32(B[i]) (R144). -/
def Slice.vecAddr (sl : Slice) (a : SPairSrc) (b : VSrc) (i : Fin 4) : DWord := sl.readPair a.reg + sext32 ((sl.readV b.reg).get i)

/-- Lane i accesses pair[A] + 4i (R144, R352). -/
def Slice.stepAddr (sl : Slice) (a : SPairSrc) (i : Fin 4) : DWord := sl.readPair a.reg + BitVec.ofNat 64 (4 * i.val)

/-- The windows of loads and stores (R145), of atomics (R157) and of barriers (R187). -/
def memWindows : List Window := [.global, .scratch, .accum]
def atomWindows : List Window := [.global, .scratch]

/-- The lanes of an access of several slices, by rising octet lane. -/
def gangLanes (ms : List Slice) (addr data : Slice → Fin 4 → DWord) (cmp : Slice → Fin 4 → Word) : List LaneAcc :=
  ms.flatMap fun m => (lanesOf m.active).map fun i => ⟨m.sid, m.slot, i, addr m i, data m i, cmp m i, none⟩

/-- Issue an access of a gang as one outstanding operation: destinations are marked empty (R34). -/
def State.gangTxn (s : State) (c : Cur) (ms : List Slice) (kind : TxnKind) (size : Nat) (dst : Slice → List RegName)
    (lanes : List LaneAcc) : State :=
  match ms with
  | [] => s
  | m :: _ => (ms.foldl (fun x k => x.markEmpty k.sid (dst k)) s).addTxn kind m size false (ms.map fun k => k.part c (dst k)) lanes

/-- Issue an access of each slice as an outstanding operation of its own. -/
def State.sliceTxns (s : State) (c : Cur) (ms : List Slice) (kind : Slice → TxnKind) (size : Nat) (dst : Slice → List RegName)
    (lanes : Slice → List LaneAcc) : State :=
  ms.foldl (fun x m => (x.markEmpty m.sid (dst m)).addTxn (kind m) m size true [m.part c (dst m)] (lanes m)) s

/-- A per-lane load (R144, R145). -/
def State.loadOp (s : State) (acq : Option Scope) (size : Nat) (srcs : Slice → List SrcUse) (dst : List RegName)
    (addr : Slice → Fin 4 → DWord) : State :=
  s.issue ⟨.perLane, false, srcs, fun _ => dst, noCheck, fun c sl => s.laneAccess sl c (addr sl) size memWindows size false⟩ noHold
    fun c ms t => t.gangTxn c ms (.load acq) size (fun _ => dst) (gangLanes ms addr (fun _ _ => 0#64) fun _ _ => 0#32)

/-- A per-lane store (R144, R145, R350). -/
def State.storeOp (s : State) (rel : Option Scope) (size : Nat) (srcs : Slice → List SrcUse)
    (addr data : Slice → Fin 4 → DWord) : State :=
  s.issue ⟨.perLane, false, srcs, fun _ => [], noCheck, fun c sl =>
      (s.laneAccess sl c (addr sl) size memWindows size true).or
        (if size < 4 then s.landingTrap sl c (addr sl) 3#8 else none)⟩ noHold
    fun c ms t => t.gangTxn c ms (.store rel) size (fun _ => []) (gangLanes ms addr data fun _ _ => 0#32)

/-- The source uses of pair[A] and a vector B. -/
def Slice.abUses (sl : Slice) (a : SPairSrc) (b : VSrc) : List SrcUse := sl.spUses a 1 ++ vsUses b 2

/-! ### Loads (R145) -/

/-- LD.B. -/
def execLdB (d : VReg) (a : SPairSrc) (b : VSrc) (s : State) : Host.Outcome State Fault Refusal :=
  .next (s.loadOp none 1 (fun sl => sl.abUses a b) [vregName d] fun sl => sl.vecAddr a b)

/-- LD.H. -/
def execLdH (d : VReg) (a : SPairSrc) (b : VSrc) (s : State) : Host.Outcome State Fault Refusal :=
  .next (s.loadOp none 2 (fun sl => sl.abUses a b) [vregName d] fun sl => sl.vecAddr a b)

/-- LD.W. -/
def execLdW (d : VReg) (a : SPairSrc) (b : VSrc) (s : State) : Host.Outcome State Fault Refusal :=
  .next (s.loadOp none 4 (fun sl => sl.abUses a b) [vregName d] fun sl => sl.vecAddr a b)

/-- LD.ACQ. -/
def execLdAcq (d : VReg) (a : SPairSrc) (b : MemImm) (s : State) : Host.Outcome State Fault Refusal :=
  .next (s.loadOp (some b.scope) 4 (fun sl => sl.spUses a 1) [vregName d] fun sl => sl.stepAddr a)

/-- LDP. -/
def execLdp (d : VPairReg) (a : SPairSrc) (b : VSrc) (s : State) : Host.Outcome State Fault Refusal :=
  .next (s.loadOp none 8 (fun sl => sl.abUses a b) [vregName (vpairRegs d).1, vregName (vpairRegs d).2] fun sl => sl.vecAddr a b)

/-- A scalar load (R144, R145). -/
def State.scalarLoad (s : State) (acq : Option Scope) (d : SReg) (a : SPairSrc) : State :=
  s.issue ⟨.guarded, false, fun sl => sl.spUses a 1, fun sl => [sl.sname d], noCheck, fun c sl =>
      s.scalarAccess sl c (sl.readPair a.reg) 4 memWindows 4 false⟩ noHold
    fun c ms t => t.sliceTxns c ms (fun _ => .load acq) 4 (fun m => [m.sname d]) fun m =>
      [m.scalarLane (m.readPair a.reg) 0#64 0#32]

/-- LDS; a hint changes nothing (R147). -/
def execLds (d : SReg) (a : SPairSrc) (_ : Hint) (s : State) : Host.Outcome State Fault Refusal := .next (s.scalarLoad none d a)

/-- LDS.ACQ. -/
def execLdsAcq (d : SReg) (a : SPairSrc) (b : MemImm) (s : State) : Host.Outcome State Fault Refusal :=
  .next (s.scalarLoad (some b.scope) d a)

/-! ### Stores (R145) -/

/-- A vector source's lane as the data of a store. -/
def Slice.laneData (sl : Slice) (d : VSrc) (i : Fin 4) : DWord := ((sl.readV d.reg).get i).setWidth 64

/-- The uses of a store: D, A, B (R144). -/
def Slice.storeUses (sl : Slice) (d : VSrc) (a : SPairSrc) (b : VSrc) : List SrcUse := vsUses d 0 ++ sl.abUses a b

/-- ST.B. -/
def execStB (d : VSrc) (a : SPairSrc) (b : VSrc) (s : State) : Host.Outcome State Fault Refusal :=
  .next (s.storeOp none 1 (fun sl => sl.storeUses d a b) (fun sl => sl.vecAddr a b) fun sl => sl.laneData d)

/-- ST.H. -/
def execStH (d : VSrc) (a : SPairSrc) (b : VSrc) (s : State) : Host.Outcome State Fault Refusal :=
  .next (s.storeOp none 2 (fun sl => sl.storeUses d a b) (fun sl => sl.vecAddr a b) fun sl => sl.laneData d)

/-- ST.W. -/
def execStW (d : VSrc) (a : SPairSrc) (b : VSrc) (s : State) : Host.Outcome State Fault Refusal :=
  .next (s.storeOp none 4 (fun sl => sl.storeUses d a b) (fun sl => sl.vecAddr a b) fun sl => sl.laneData d)

/-- ST.REL. -/
def execStRel (d : VSrc) (a : SPairSrc) (b : MemImm) (s : State) : Host.Outcome State Fault Refusal :=
  .next (s.storeOp (some b.scope) 4 (fun sl => vsUses d 0 ++ sl.spUses a 1) (fun sl => sl.stepAddr a) fun sl => sl.laneData d)

/-- A pair source's lane, D+1 above D (R145). -/
def Slice.pairData (sl : Slice) (d : VPairSrc) (i : Fin 4) : DWord :=
  let r := vpairSrcRegs d.reg
  pairOf ((sl.readV r.1).get i) ((sl.readV r.2).get i)

/-- STP. -/
def execStp (d : VPairSrc) (a : SPairSrc) (b : VSrc) (s : State) : Host.Outcome State Fault Refusal :=
  .next (s.storeOp none 8 (fun sl => vpUses d 0 ++ sl.abUses a b) (fun sl => sl.vecAddr a b) fun sl => sl.pairData d)

/-- A scalar store (R144, R145, R350). -/
def State.scalarStore (s : State) (rel : Option Scope) (d : SSrc) (a : SPairSrc) : State :=
  s.issue ⟨.guarded, false, fun sl => sl.ssUses d 0 ++ sl.spUses a 1, fun _ => [], noCheck, fun c sl =>
      s.scalarAccess sl c (sl.readPair a.reg) 4 memWindows 4 true⟩ noHold
    fun c ms t => t.sliceTxns c ms (fun _ => .store rel) 4 (fun _ => []) fun m =>
      [m.scalarLane (m.readPair a.reg) ((m.readSrc d.reg).setWidth 64) 0#32]

/-- STS. -/
def execSts (d : SSrc) (a : SPairSrc) (_ : Hint) (s : State) : Host.Outcome State Fault Refusal := .next (s.scalarStore none d a)

/-- STS.REL. -/
def execStsRel (d : SSrc) (a : SPairSrc) (b : MemImm) (s : State) : Host.Outcome State Fault Refusal :=
  .next (s.scalarStore (some b.scope) d a)

/-- PREF (R146): it changes no register and no memory value, never faults, and waits only for an empty source. -/
def execPref (a : SPairSrc) (_ : PrefImm) (s : State) : Host.Outcome State Fault Refusal :=
  .next (s.issueLocal (Issue.regs (fun sl => sl.spUses a 1) fun _ => []) fun _ sl => sl)

/-! ### Atomics (R155–R162) -/

/-- Whether an atomic is an atomic read (R158): ADD, OR or XOR with B = z and RET = 1. -/
def atomIsRead (op : AtomOp) (ret : Bool) (b : VSrcReg) : Bool := ret && (op == .add || op == .or || op == .xor) && b == .z

/-- The use an atomic is performed with: only an atomic read may be answered from a copy (R159). -/
def atomUse (read : Bool) (u : AtomUse) : AtomUse :=
  match u with
  | .nonOrdering => if read then .nonOrdering else .unpaired
  | .quantum => if read then .quantum else .unpaired
  | .unpaired => .unpaired
  | .commutative => .commutative
  | .speculative => .speculative

/-- An atomic of a gang: `data` is the operand b, or the new value of CAS, `cmp` the compare value (R158). -/
def State.atomOp (s : State) (op : AtomOp) (d : Option VReg) (a : SPairSrc) (l : AtomLit) (read : Bool)
    (bUses : List SrcUse) (data cmp : Slice → Fin 4 → Word) : State :=
  let dst := match d with
    | some r => [vregName r]
    | none => []
  let addr (sl : Slice) : Fin 4 → DWord := sl.vecAddr a l.off
  s.issue ⟨.perLane, false, fun sl => sl.spUses a 1 ++ bUses ++ vsUses l.off 3, fun _ => dst, noCheck, fun c sl =>
      (s.laneAccess sl c (addr sl) 4 atomWindows 4 true).or (s.landingTrap sl c (addr sl) 4#8)⟩ noHold
    fun c ms t => t.gangTxn c ms (.atomic op l.ty (atomUse read l.use) l.ord l.scope (d.isSome || read)) 4 (fun _ => dst)
      (gangLanes ms addr (fun m i => (data m i).setWidth 64) cmp)

/-- An atomic whose operand is one vector. -/
def State.atomVec (s : State) (op : AtomOp) (d : Option VReg) (a : SPairSrc) (b : VSrc) (l : AtomLit) : State :=
  s.atomOp op d a l (atomIsRead op d.isSome b.reg) (vsUses b 2) (fun sl i => (sl.readV b.reg).get i) fun _ _ => 0#32

/-- ATOM.ADD. -/
def execAtomAdd (d : Option VReg) (a : SPairSrc) (b : VSrc) (l : AtomLit) (s : State) : Host.Outcome State Fault Refusal :=
  .next (s.atomVec .add d a b l)

/-- ATOM.MIN. -/
def execAtomMin (d : Option VReg) (a : SPairSrc) (b : VSrc) (l : AtomLit) (s : State) : Host.Outcome State Fault Refusal :=
  .next (s.atomVec .min d a b l)

/-- ATOM.MAX. -/
def execAtomMax (d : Option VReg) (a : SPairSrc) (b : VSrc) (l : AtomLit) (s : State) : Host.Outcome State Fault Refusal :=
  .next (s.atomVec .max d a b l)

/-- ATOM.AND. -/
def execAtomAnd (d : Option VReg) (a : SPairSrc) (b : VSrc) (l : AtomLit) (s : State) : Host.Outcome State Fault Refusal :=
  .next (s.atomVec .and d a b l)

/-- ATOM.OR. -/
def execAtomOr (d : Option VReg) (a : SPairSrc) (b : VSrc) (l : AtomLit) (s : State) : Host.Outcome State Fault Refusal :=
  .next (s.atomVec .or d a b l)

/-- ATOM.XOR. -/
def execAtomXor (d : Option VReg) (a : SPairSrc) (b : VSrc) (l : AtomLit) (s : State) : Host.Outcome State Fault Refusal :=
  .next (s.atomVec .xor d a b l)

/-- ATOM.CAS: register B compares, B+1 is the new value (R155, R158). -/
def execAtomCas (d : Option VReg) (a : SPairSrc) (b : VPairSrc) (l : AtomLit) (s : State) : Host.Outcome State Fault Refusal :=
  let r := vpairSrcRegs b.reg
  .next (s.atomOp .cas d a l false (vpUses b 2) (fun sl i => (sl.readV r.2).get i) fun sl i => (sl.readV r.1).get i)

/-- ATOM.XCHG. -/
def execAtomXchg (d : Option VReg) (a : SPairSrc) (b : VSrc) (l : AtomLit) (s : State) : Host.Outcome State Fault Refusal :=
  .next (s.atomVec .xchg d a b l)

/-- The fabric trap of a scalar atomic (R350). -/
def State.scalarLandingTrap (s : State) (sl : Slice) (c : Cur) (x : DWord) : Option TrapRec :=
  if s.inLanding sl x then some (trapFabric sl c 4#8 (lowLane sl.active) 0#9 x) else none

/-- AMAXX (R162). -/
def execAmaxx (d : SReg) (a : SPairSrc) (b : SSrc) (s : State) : Host.Outcome State Fault Refusal :=
  .next (s.issue ⟨.guarded, false, fun sl => sl.spUses a 1 ++ sl.ssUses b 2, fun sl => [sl.sname d], noCheck, fun c sl =>
      (s.scalarAccess sl c (sl.readPair a.reg) 4 atomWindows 4 true).or (s.scalarLandingTrap sl c (sl.readPair a.reg))⟩ noHold
    fun c ms t => t.sliceTxns c ms (fun _ => .amaxx) 4 (fun m => [m.sname d]) fun m =>
      [m.scalarLane (m.readPair a.reg) ((m.readSrc b.reg).setWidth 64) 0#32])

/-! ### Fences (R152, R273) -/

/-- The writes a full fence of package or pod scope waits for: those applied at its slice's die when it issues (R273). -/
def State.fenceWrites (s : State) (sl : Slice) (full : Bool) (sc : Scope) : List Nat :=
  if full && (sc == .package || sc == .pod) then
    (s.writes.filter fun w => w.applied.getLsbD (coreDie sl.core).val).map (·.id)
  else []

/-- A fence of every member, whatever its mask; a flush point (R152, R228). -/
def State.fenceOp (s : State) (acq rel : Bool) (sc : Scope) : State :=
  s.issue ⟨.always, false, fun _ => [], fun _ => [], noCheck, noCheck⟩ noHold fun c ms t =>
    ms.foldl (fun x m =>
      (x.flushSlice m).addTxn (.fence acq rel sc (x.fenceWrites m (acq && rel) sc)) m 4 true [m.part c []] []) t

/-- FENCE, full. -/
def execFence (sc : Scope) (s : State) : Host.Outcome State Fault Refusal := .next (s.fenceOp true true sc)

/-- FENCE, acquire. -/
def execFenceAcq (sc : Scope) (s : State) : Host.Outcome State Fault Refusal := .next (s.fenceOp true false sc)

/-- FENCE, release. -/
def execFenceRel (sc : Scope) (s : State) : Host.Outcome State Fault Refusal := .next (s.fenceOp false true sc)

/-! ### Barriers (R186–R193) -/

/-- The word of a scratchpad address of a slice, as an address of the core's scratchpad store (R138, R183). -/
def State.spadAddr (s : State) (core : Nat) (wave : Word) (a : DWord) : Nat := ((s.core core).share wave).spad + offsetOf a

/-- The check of a barrier word's address (R187, R192). -/
def State.barTrap (s : State) (sl : Slice) (c : Cur) (a : SPairSrc) : Option TrapRec :=
  s.scalarAccess sl c (sl.readPair a.reg) 4 [.scratch] 4 false

/-- An access made at issue: it waits for what is ordered before it (R150, R152, R154). -/
def State.mustWait (s : State) (kind : TxnKind) (m : Slice) (a : DWord) : Bool :=
  !s.mayPerform ⟨s.nextId, kind, m.core, s.ctxOfWave m.wave, m.wave, 4, true, [⟨m.sid, m.slot, m.pc, m.active, [], m.rgncnt, modeSup m.mode⟩],
    [m.scalarLane a 0#64 0#32], none, [], s.fab.step, false⟩

/-- BARI on the word at an offset of the wave's scratchpad share (R188, R193). -/
def State.initBar (s : State) (m : Slice) (crew : Option (Fin 32)) (off count : Nat) : State :=
  let a := ((s.core m.core).share m.wave).spad + off
  match crew with
  | none => s.setBar m.core a (BitVec.ofNat 32 count)
  | some k => match s.crew m.core k with
    | none => s.setBar m.core a 0#32
    | some e =>
      (s.setCrew m.core k (some { e with word := some off, extra := count })).setBar m.core a
        (BitVec.ofNat 32 (min (s.crewCount m.core k + count) 4095))

/-- BARI. -/
def execBari (d : Option (Fin 32)) (a : SPairSrc) (b : SSrc) (s : State) : Host.Outcome State Fault Refusal :=
  .next (s.issue ⟨.guarded, false, fun sl => sl.spUses a 1 ++ sl.ssUses b 2, fun _ => [], noCheck, fun c sl =>
      (s.barTrap sl c a).or (match d with
        | none => none
        | some k => match s.crew sl.core k with
          | some e => if e.wave = sl.wave then none else some (trapPrivilege sl c 3#8 (BitVec.ofNat 8 k.val))
          | none => none)⟩
    (fun _ ms t => ms.any fun m => t.mustWait (.store none) m (m.readPair a.reg))
    fun _ ms t => ms.foldl (fun x m =>
      (x.flushSlice m).initBar m d (offsetOf (m.readPair a.reg)) ((m.readSrc b.reg).extractLsb' 0 12).toNat) t)

/-- BARR (R189): every member arrives, whatever its mask; one operation, a release at core scope (R190). -/
def execBarr (d : SReg) (a : SPairSrc) (b : Bool) (s : State) : Host.Outcome State Fault Refusal :=
  .next (s.issue ⟨.always, false, fun sl => sl.spUses a 1, fun sl => [sl.sname d], noCheck, fun c sl => s.barTrap sl c a⟩ noHold
    fun c ms t => (ms.foldl State.flushSlice t).gangTxn c ms (.barr b) 4 (fun m => [m.sname d])
      (ms.map fun m => m.scalarLane (m.readPair a.reg) 0#64 0#32))

/-- BARW (R191): a member whose word shows the phase named registers as its waiter, and the gang waits for all of them. -/
def execBarw (a : SPairSrc) (b : SSrc) (s : State) : Host.Outcome State Fault Refusal :=
  .next (s.issue ⟨.always, false, fun sl => sl.spUses a 1 ++ sl.ssUses b 2, fun _ => [], noCheck, fun c sl => s.barTrap sl c a⟩
    (fun _ ms t => ms.any fun m => t.mustWait (.load none) m (m.readPair a.reg))
    fun c ms t =>
      let t := ms.foldl State.flushSlice t
      let waits := ms.filter fun m =>
        barPhase (t.barWord m.core (t.spadAddr m.core m.wave (m.readPair a.reg))) == (m.readSrc b.reg).getLsbD 0
      if waits.isEmpty then t
      else t.startWait c.gid (.barw c.pc (waits.map fun m => (m.sid, t.spadAddr m.core m.wave (m.readPair a.reg)))))

/-- BART (R191). -/
def execBart (d : SReg) (a : SPairSrc) (b : SSrc) (s : State) : Host.Outcome State Fault Refusal :=
  .next (s.issue ⟨.guarded, false, fun sl => sl.spUses a 1 ++ sl.ssUses b 2, fun sl => [sl.sname d], noCheck,
      fun c sl => s.barTrap sl c a⟩ noHold
    fun c ms t => (ms.foldl State.flushSlice t).sliceTxns c ms (fun m => .bart ((m.readSrc b.reg).getLsbD 0)) 4
      (fun m => [m.sname d]) fun m => [m.scalarLane (m.readPair a.reg) 0#64 0#32])

/-! ### Performing a barrier operation (R189, R191, R278) -/

/-- The times of a wave's budgeted flips on a core. -/
def CoreRec.flipTimes (r : CoreRec) (wave : Word) : List DWord :=
  ((r.flips.find? fun f => f.wave == wave).map (·.times)).getD []

/-- Move a core by one frequency step of 100 MHz within 2.2–3.0 GHz (R278). -/
def State.shiftFreq (s : State) (core : Nat) (up : Bool) : State :=
  let r := s.core core
  s.setCore core { r with freq := if up then r.freq + 1 else r.freq - 1 }

/-- The cores of a die that may take part in a wave's rounds (R278). -/
def State.sharers (s : State) (die : Nat) : List Nat :=
  ((List.range 48).map fun i => 48 * die + i).filter fun k => !(s.core k).testing && !(s.core k).retired

/-- The cores a wave's rounds wait for: those that hold resident slices of it (R278). -/
def State.roundCores (s : State) (die : Nat) (wave : Word) : List Nat :=
  (s.sharers die).filter fun k => s.slices.any fun x => x.core == k && x.wave == wave && x.place == .resident

/-- The rounds a wave has completed on a die. -/
def State.roundsDone (s : State) (die : Nat) (wave : Word) : Nat :=
  ((s.rounds.find? fun r => r.wave == wave && r.dom == die).map (·.rounds)).getD 0

/-- When a core flipped for the n-th time, counted from 0. -/
def State.flipTime (s : State) (wave : Word) (n core : Nat) : DWord := ((s.core core).flipTimes wave).getD n 0#64

/-- Of some cores the one whose n-th flip came last. -/
def State.laggard (s : State) (wave : Word) (n : Nat) (cs : List Nat) : Option Nat :=
  cs.foldl (fun acc k => match acc with
    | none => some k
    | some a => if (s.flipTime wave n a).toNat ≤ (s.flipTime wave n k).toNat then some k else some a) none

/-- A round is complete (R278): every core that flipped at least 2 µs before the laggard moves one step to it, unless a limit of the die
or the package overrides the shift. -/
def State.shiftRound (s : State) (die : Nat) (wave : Word) (n lag : Nat) (cs : List Nat) : State :=
  let t : State := { s with ticks := s.ticks + 1 }
  if Config.overLimit s.ticks die then t
  else cs.foldl (fun x k =>
    if k ≠ lag ∧ (s.flipTime wave n k).toNat + 2000 ≤ (s.flipTime wave n lag).toNat ∧ 22 < (x.core k).freq ∧ (x.core lag).freq < 30 then
      (x.shiftFreq k false).shiftFreq lag true
    else x) t

/-- Close the rounds of a wave on a die that every core of it with resident slices has completed, up to `fuel` of them; a core whose slices
have ended since it flipped takes part in the shift (R278, R284). -/
def State.closeRounds (fuel : Nat) (s : State) (die : Nat) (wave : Word) : State :=
  match fuel with
  | 0 => s
  | m + 1 =>
    let n := s.roundsDone die wave
    let flipped (k : Nat) : Bool := decide (n < ((s.core k).flipTimes wave).length)
    let cs := (s.sharers die).filter flipped
    match (if (s.roundCores die wave).all flipped then s.laggard wave n cs else none) with
    | none => s
    | some lag =>
      let t := s.shiftRound die wave n lag cs
      State.closeRounds m { t with rounds := ⟨wave, die, n + 1⟩ :: t.rounds.filter fun r => !(r.wave == wave && r.dom == die) } die wave

/-- Close every round that is complete: a flip, and a core that takes no part any more, may have completed one (R278, R284). The waves that
are gone are forgotten. -/
def State.closeAllRounds (s : State) : State :=
  let t : State := { s with rounds := s.rounds.filter fun r => (s.wave? r.wave).isSome }
  t.rounds.foldl (fun x r => x.closeRounds (((List.range 48).map fun i => ((x.core (48 * r.dom + i)).flipTimes r.wave).length).sum) r.dom r.wave) t

/-- One budgeted flip (R278): it is numbered on its core. -/
def State.budgetFlip (s : State) (core : Nat) (wave : Word) : State :=
  let s := s.tick
  let r := s.core core
  let s := s.setCore core { r with flips := ⟨wave, r.flipTimes wave ++ [s.tsc]⟩ :: r.flips.filter fun f => f.wave != wave }
  if s.rounds.any fun x => x.wave == wave && x.dom == dieOfCore core then s
  else { s with rounds := ⟨wave, dieOfCore core, 0⟩ :: s.rounds }

/-- Apply the arrivals of a BARR (R189): members in their order, each filled with the phase it arrived in. -/
def State.performBarr (s : State) (t : Txn) (budg : Bool) : State :=
  t.lanes.foldl (fun x l =>
    let a := x.spadAddr t.core t.wave l.addr
    let ph := barPhase (x.barWord t.core a)
    let flips := x.arrivalFlips t.core a
    let y := x.arrive t.core a
    let y := if budg && flips then y.budgetFlip t.core t.wave else y
    match t.parts.find? fun p => p.sid == l.sid with
    | some p => y.fillWord p (if ph then 1#32 else 0#32)
    | none => y) s

/-- Perform a BART (R191). -/
def State.performBart (s : State) (t : Txn) (phase : Bool) : State :=
  t.lanes.foldl (fun x l =>
    let w := x.barWord t.core (x.spadAddr t.core t.wave l.addr)
    match t.parts.find? fun p => p.sid == l.sid with
    | some p => x.fillWord p (if barPhase w = phase then 0#32 else 1#32)
    | none => x) s

end Sys2Proof.Machine
end

