-- ==== Sys2Proof/Machine/Fabric.lean ====
section
/-! DEFINITION. Group 0xE but for QPUSH: remote writes, atomics and loads, wakes, arrivals and waits at the crossing, network requests
(R344, R352–R355, R366), their acceptance by the fabric engine, and their completion. -/

set_option Elab.async false

namespace Sys2Proof.Machine

/-! ### Checks (R353) -/

/-- The peer id an address names, and its offset (R138). -/
def fabPeer (a : DWord) : BitVec 9 := a.extractLsb' 47 9
def fabOff (a : DWord) : BitVec 47 := a.extractLsb' 0 47

/-- Whether a slice's context may not issue fabric operations now (R353, case 0x01). -/
def State.fabOff? (s : State) (sl : Slice) : Bool := s.fab.quota == 0#16 || !s.fab.en.getLsbD (s.ctxOfWave sl.wave).val

/-- Case 0x01 of a slice (R353): `a` is the address it names, `peer` the peer, both 0 where it names none. -/
def State.trapOff (s : State) (sl : Slice) (c : Cur) (peer : BitVec 9) (a : DWord) : Option TrapRec :=
  if s.fabOff? sl then some (trapFabric sl c 1#8 (lowLane sl.active) peer a) else none

/-- Case 0x02 of a per-lane instruction: the lowest lane whose peer id is above NPEER (R353). -/
def State.trapPeer (s : State) (sl : Slice) (c : Cur) (addr : Fin 4 → DWord) : Option TrapRec :=
  match (lanesOf sl.active).find? fun i => decide (s.fab.npeer < fabPeer (addr i)) with
  | some i => some (trapFabric sl c 2#8 i.val (fabPeer (addr i)) (addr i))
  | none => none

/-- The checks of STX, AMX, AMXR and LDX in their order (R353). -/
def State.remoteTrap (s : State) (sl : Slice) (c : Cur) (addr : Fin 4 → DWord) (mc write : Bool) : Option TrapRec :=
  let a := addr (Fin.ofNat 4 (lowLane sl.active))
  ((s.trapOff sl c (fabPeer a) a).or (s.laneAccess sl c addr 4 [.fabric] 4 write)).or
    (if mc then none else s.trapPeer sl c addr)

/-- A remote access of a gang (R354). -/
def State.remoteOp (s : State) (kind : TxnKind) (mc write : Bool) (srcs : Slice → List SrcUse) (dst : List RegName)
    (addr data : Slice → Fin 4 → DWord) : State :=
  s.issue ⟨.perLane, false, srcs, fun _ => dst, noCheck, fun c sl => s.remoteTrap sl c (addr sl) mc write⟩ noHold
    fun c ms t => t.gangTxn c ms kind 4 (fun _ => dst) (gangLanes ms addr data fun _ _ => 0#32)

/-- STX (R354). -/
def execStx (d : VSrc) (a : SPairSrc) (b : Bool) (s : State) : Host.Outcome State Fault Refusal :=
  .next (s.remoteOp (.stx b) b true (fun sl => vsUses d 0 ++ sl.spUses a 1) [] (fun sl => sl.stepAddr a) fun sl => sl.laneData d)

/-- AMX (R354). -/
def execAmx (d : VSrc) (a : SPairSrc) (b : AmxImm) (s : State) : Host.Outcome State Fault Refusal :=
  .next (s.remoteOp (.amx b.op b.mc) b.mc true (fun sl => vsUses d 0 ++ sl.spUses a 1) [] (fun sl => sl.stepAddr a)
    fun sl => sl.laneData d)

/-- AMXR (R354): D is read under the block policy, then empty. -/
def execAmxr (d : VReg) (a : SPairSrc) (b : AmOp) (s : State) : Host.Outcome State Fault Refusal :=
  .next (s.remoteOp (.amxr b) false true (fun sl => sl.spUses a 1) [vregName d] (fun sl => sl.stepAddr a)
    fun sl i => ((sl.readReg d).get i).setWidth 64)

/-- LDX (R354). -/
def execLdx (d : VReg) (a : SPairSrc) (b : VSrc) (s : State) : Host.Outcome State Fault Refusal :=
  .next (s.remoteOp .ldx false false (fun sl => sl.abUses a b) [vregName d] (fun sl => sl.vecAddr a b) fun _ _ => 0#64)

/-- WAKE (R354). -/
def execWake (d : WakeD) (a b : SSrc) (s : State) : Host.Outcome State Fault Refusal :=
  .next (s.issue ⟨.guarded, false, fun sl => sl.ssUses a 1 ++ sl.ssUses b 2, fun _ => [], noCheck, fun c sl =>
      let p := sl.readSrc a.reg
      (s.trapOff sl c (p.setWidth 9) 0#64).or
        (if p.extractLsb' 9 23 ≠ 0#23 ∨ s.fab.npeer < p.setWidth 9 then
          some (trapFabric sl c 2#8 (lowLane sl.active) (p.setWidth 9) 0#64)
        else none)⟩ noHold
    fun c ms t => t.sliceTxns c ms (fun m => .wake d.mailbox d.deferred ((m.readSrc a.reg).setWidth 9) (m.readSrc b.reg)) 4
      (fun _ => []) fun _ => [])

/-- Whether an XARR of n slices may not issue (R346): with those issued before it, its arrivals would complete the quota of a step while
the crossing of the step before it has not completed. -/
def State.xarrHold (s : State) (n : Nat) : Bool :=
  let q := s.fab.quota.toNat
  let all := s.fab.arrived + (s.txns.filter fun t => t.kind == .xarr).length + n
  decide (q ≤ all) && (decide (s.fab.crossed < s.fab.step) || decide (2 * q ≤ all))

/-- XARR (R354): once per slice, whatever its mask; a flush point (R228). -/
def execXarr (d : SReg) (s : State) : Host.Outcome State Fault Refusal :=
  .next (s.issue ⟨.always, false, fun _ => [], fun sl => [sl.sname d], noCheck, fun c sl => s.trapOff sl c 0#9 0#64⟩
    (fun _ ms t => t.xarrHold ms.length)
    fun c ms t => (ms.foldl State.flushSlice t).sliceTxns c ms (fun _ => .xarr) 4 (fun m => [m.sname d]) fun _ => [])

/-- XWAIT (R354). -/
def execXwait (d : SReg) (a : SSrc) (s : State) : Host.Outcome State Fault Refusal :=
  .next (s.issue ⟨.guarded, false, fun sl => sl.ssUses a 1, fun sl => [sl.sname d], noCheck, fun c sl => s.trapOff sl c 0#9 0#64⟩
    waitHold
    fun c ms t => t.sliceTxns c ms (fun m => .xwait (m.readSrc a.reg)) 4 (fun m => [m.sname d]) fun _ => [])

/-- XFENCE (R354); a flush point (R228). -/
def execXfence (d : SReg) (a : SPairSrc) (s : State) : Host.Outcome State Fault Refusal :=
  .next (s.issue ⟨.guarded, false, fun sl => sl.spUses a 1, fun sl => [sl.sname d], noCheck, fun c sl =>
      (s.trapOff sl c 0#9 (sl.readPair a.reg)).or (s.scalarAccess sl c (sl.readPair a.reg) 64 [.scratch] 64 true)⟩ waitHold
    fun c ms t => (ms.foldl State.flushSlice t).sliceTxns c ms (fun _ => .xfence) 64 (fun m => [m.sname d]) fun m =>
      [m.scalarLane (m.readPair a.reg) 0#64 0#32])

/-- A network request (R366): a bad address gives CODE 0x03, not a trap. -/
def State.netOp (s : State) (kind : DWord → TxnKind) (d : SReg) (a : SPairSrc) : State :=
  s.issue ⟨.guarded, false, fun sl => sl.spUses a 1, fun sl => [sl.sname d], noCheck,
      fun c sl => s.trapOff sl c 0#9 (sl.readPair a.reg)⟩ noHold
    fun c ms t => t.sliceTxns c ms (fun m => kind (m.readPair a.reg)) 64 (fun m => [m.sname d]) fun _ => []

/-- NSEND (R366). -/
def execNsend (d : SReg) (a : SPairSrc) (s : State) : Host.Outcome State Fault Refusal := .next (s.netOp .nsend d a)

/-- NPOST (R366). -/
def execNpost (d : SReg) (a : SPairSrc) (s : State) : Host.Outcome State Fault Refusal := .next (s.netOp .npost d a)

/-! ### Acceptance (R344) -/

/-- The operation a lane of a fabric instruction sends. -/
def TxnKind.fabOp (k : TxnKind) : Option (FabKind × Bool) :=
  match k with
  | .stx mc => some (.stx, mc)
  | .amx op mc => some (.amx op, mc)
  | .amxr op => some (.amxr op, false)
  | .ldx => some (.ldx, false)
  | _ => none

/-- Put an operation on the engine's list: its place in the acceptance order is the next number. -/
def State.addFabOp (s : State) (o : FabOp) : State :=
  { s with fab := { s.fab with ops := s.fab.ops ++ [{ o with seq := s.nextId, step := s.fab.step }] }, nextId := s.nextId + 1 }

/-- Accept a fabric operation of a slice or gang, one operation for each lane (R344, R354): one that returns nothing is done with
its acceptance, as far as the slice's registers go. -/
def State.acceptFabric (s : State) (t : Txn) : State :=
  match t.kind with
  | .wake m d p x =>
    ((t.parts.foldl (fun y q => y.addFabOp ⟨0, 0, t.ctx, q.sid, .wake m d, .peer p, 0#47, x, t.id, 0, false, false⟩) s)).dropTxn t.id
  | k => match k.fabOp with
    | none => s
    | some (f, mc) =>
      let y := t.lanes.foldl (fun y l => y.addFabOp ⟨0, 0, t.ctx, l.sid, f,
        if mc then .group (fabPeer l.addr) else .peer (fabPeer l.addr), fabOff l.addr, l.data.lo, t.id, l.lane, false, false⟩) s
      if t.parts.all fun p => p.dst.isEmpty then y.dropTxn t.id
      else { y with txns := y.txns.map fun u => if u.id == t.id then { u with accepted := true } else u }

/-! ### Lanes that return (R354) -/

/-- The value of one lane of an AMXR or LDX arrives: its register is full once every lane of it has returned, and
the slice has no part in the operation any more. -/
def State.laneReturn (s : State) (o : FabOp) (x : Word) : State :=
  match s.txns.find? fun t => t.id == o.txn with
  | none => s
  | some t => match t.lanes.find? fun l => l.sid == o.sid && l.lane == o.lane with
    | none => s
    | some l =>
      let s := s.keepLanes (t.parts.filter fun p => p.sid == o.sid) [(l, x.toNat)]
      let rest := t.lanes.filter fun m => m != l
      let s : State := { s with txns := s.txns.map fun u => if u.id == t.id then { u with lanes := rest } else u }
      if rest.any fun m => m.sid == o.sid then s
      else
        ((t.parts.filter fun p => p.sid == o.sid).foldl (fun y p => y.modSlice p.sid fun sl =>
          p.dst.foldl (fun z d => z.setFull d true) sl) s).removePart t.id o.sid

/-- Whether an operation returns a value to its slice. -/
def FabKind.returns (k : FabKind) : Bool :=
  match k with
  | .amxr _ | .ldx => true
  | .stx | .amx _ | .wake .. => false

/-- Change an operation of the engine. -/
def State.modFabOp (s : State) (seq : Nat) (f : FabOp → FabOp) : State :=
  { s with fab := { s.fab with ops := s.fab.ops.map fun o => if o.seq == seq then f o else o } }

/-- Take an operation off the engine's list. -/
def State.dropFabOp (s : State) (seq : Nat) : State :=
  { s with fab := { s.fab with ops := s.fab.ops.filter fun o => o.seq != seq } }

/-- Forget the operations no answer can come for any more: acknowledged, and of a step whose crossing and the next are past. -/
def State.dropOldOps (s : State) : State :=
  { s with fab := { s.fab with ops := s.fab.ops.filter fun o => !(o.acked && !o.kind.returns && decide (o.step + 2 ≤ s.fab.crossed)) } }

/-! ### Completion of XARR, XWAIT, XFENCE (R354) -/

/-- Whether every fabric operation a slice issued before an instruction is acknowledged. -/
def State.opsAcked (s : State) (sid before_ : Nat) : Bool :=
  s.fab.ops.all (fun o => o.acked || o.sid != sid || decide (before_ < o.txn)) &&
  s.txns.all fun t => decide (before_ ≤ t.id) || !t.has sid || !t.kind.isFabric || t.accepted

/-- Whether an XARR may be accepted: its slice's operations are acknowledged, R346 does not forbid the arrival, and no checkpoint
holds it (R346, R354, R363). -/
def State.mayArrive (s : State) (t : Txn) : Bool :=
  t.parts.all (fun p => s.opsAcked p.sid t.id) && s.fab.quota != 0#16 &&
  (decide (s.fab.arrived + 1 < s.fab.quota.toNat) || (decide (s.fab.step ≤ s.fab.crossed) && !s.fab.copying))

/-- One arrival; the one that reaches QUOTA is the device's (R343). -/
def State.arriveOne (s : State) : State :=
  if s.fab.arrived + 1 < s.fab.quota.toNat then { s with fab := { s.fab with arrived := s.fab.arrived + 1 } }
  else { s with fab := { s.fab with arrived := 0, step := s.fab.step + 1, arriving := true } }

/-- Accept an XARR: s[D] is the step arrived in. -/
def State.completeXarr (s : State) (t : Txn) : State :=
  let s := t.parts.foldl (fun x p => x.fillWord p (BitVec.ofNat 32 s.fab.step)) s
  s.arriveOne.dropTxn t.id

/-- Whether the last completed crossing stands at or after a step, in serial order (R354); before crossing 0 it counts as −1 (R373). -/
def State.crossedAt (s : State) (step : Word) : Bool := decide ((BitVec.ofNat 32 s.fab.crossed - 1#32 - step).toNat < 2 ^ 31)

/-- The word an XWAIT fills with: the status of its crossing, or OLD (R354, R359). -/
def State.crossingWord (s : State) (step : Word) : Word :=
  match s.fab.statuses.find? fun x => BitVec.ofNat 32 x.1 == step with
  | some x => x.2
  | none => 0x80020000#32

/-- Fill an XWAIT: an acquire at pod scope (R354). -/
def State.completeXwait (s : State) (t : Txn) (step : Word) : State :=
  ((t.parts.foldl (fun x p => x.fillWord p (s.crossingWord step)) s).dropTxn t.id).noteAcquire t

/-- The 64 bytes of a failed-peer set: bit p at byte p/8, bit p mod 8 (R354). -/
def failedBytes (ps : List (BitVec 9)) : List Byte :=
  (List.range 64).map fun i => ps.foldl (fun b p => if p.toNat / 8 = i then b ||| (1#8 <<< (p.toNat % 8)) else b) 0#8

/-- XFENCE: the failed-peer set is read, cleared, written and counted in one step (R354). -/
def State.completeXfence (s : State) (t : Txn) : State :=
  let ps := (s.ctx t.ctx).failed
  let s := s.setCtx t.ctx { s.ctx t.ctx with failed := [] }
  let s := t.lanes.foldl (fun x l => x.writeWindow [] [] t.core t.wave (s.txnAsid t) l.addr (failedBytes ps)) s
  (t.parts.foldl (fun x p => x.fillWord p (BitVec.ofNat 32 ps.length)) s).dropTxn t.id

/-! ### Network requests (R365, R366) -/

/-- The bytes of a record as a number of 512 bits (R3). -/
def recordOf (bs : List Byte) : BitVec 512 := BitVec.ofNat 512 (ofBytes bs)

/-- The endpoint entry e (R365). -/
def State.endpoint (s : State) (e : Nat) : BitVec 256 := BitVec.ofNat 256 (readLE s.endpoints (32 * e) 32)

/-- Whether an endpoint entry is valid for a context (R365). -/
def endpointOk (e : BitVec 256) (c : Fin 17) : Bool :=
  e.getLsbD 0 && e.extractLsb' 125 3 == 0#3 && e.extractLsb' 1 95 == 0#95 && (e.extractLsb' 120 5).toNat == c.val

/-- The kind of a request, for NSEND or NPOST (R366). -/
def netKind (post : Bool) (k : Nat) : Option NetKind :=
  match post, k with
  | false, 0 => some .send
  | false, 1 => some .write
  | false, 2 => some .read
  | true, 8 => some .recv
  | _, _ => none

/-- The byte offset of the first bad field of a request, if any (R366). -/
def netBadField (post : Bool) (r : BitVec 512) : Option Nat :=
  if netKind post (r.extractLsb' 0 4).toNat = none ∨ r.extractLsb' 4 252 ≠ 0#252 then some 0
  else if r.extractLsb' 268 20 ≠ 0#20 then some 33
  else if r.extractLsb' 320 3 ≠ 0#3 then some 40
  else none

/-- A status word: CODE and DETAIL (R100, R366). -/
def statusWord (code detail : Nat) : Word := 0#16 ++ BitVec.ofNat 8 detail ++ BitVec.ofNat 8 code

/-- Read a 64-byte record of the global window as an agent of a die: none where its address is unaligned or outside the window, or
the read faults (R100, R366). -/
def State.readRecord (s : State) (die : Fin 5) (c : Fin 17) (a : DWord) : Option (List Byte × State) :=
  if windowOf a = some .global ∧ a.toNat % 64 = 0 then s.gRead die (s.asidOf c) (offsetOf a) 64 else none

/-- A record that cannot be read: a malformed entry the walk met is logged (R264). -/
def State.logRecord (s : State) (die : Fin 5) (c : Fin 17) (a : DWord) : State :=
  if windowOf a = some .global ∧ a.toNat % 64 = 0 then s.logRange die c (offsetOf a) 64 .r else s

/-- Whether the request queue is full (R366): it holds as many requests as the network leaf, 64; a posted receive is none (log 55). -/
def State.netFull (s : State) (k : NetKind) : Bool :=
  k != .recv && decide (64 ≤ (s.netReqs.filter fun r => r.kind != .recv).length)

/-- Take a network request: its status, and its place in the queue (R366). -/
def State.takeNet (s : State) (die : Fin 5) (c : Fin 17) (post : Bool) (a : DWord) : Word × State :=
  match s.readRecord die c a with
  | none => (statusWord 3 0, s.logRecord die c a)
  | some (bs, t) =>
    let r := recordOf bs
    match netBadField post r, netKind post (r.extractLsb' 0 4).toNat with
    | none, some k =>
      let ep := r.extractLsb' 256 12
      if !endpointOk (t.endpoint ep.toNat) c then (statusWord 1 0, t)
      else if t.netFull k then (statusWord 2 0, t)
      else
        (statusWord 0 0, { t with
          netReqs := t.netReqs ++ [⟨t.nextId, c, k, r.extractLsb' 448 64, r.extractLsb' 384 64, r.extractLsb' 320 64,
            (r.extractLsb' 288 32).toNat, ep, false, false, false⟩]
          nextId := t.nextId + 1 })
    | some k, _ => (statusWord 4 k, t)
    | none, none => (statusWord 4 0, t)

/-- NSEND or NPOST done. -/
def State.completeNet (s : State) (t : Txn) (post : Bool) (a : DWord) : State :=
  let r := s.takeNet (coreDie t.core) t.ctx post a
  (t.parts.foldl (fun x p => x.fillWord p r.1) r.2).dropTxn t.id

end Sys2Proof.Machine
end

