-- ==== Sys2Proof/Machine/Crossing.lean ====
section
/-! DEFINITION. The steps of the fabric engine: arrivals, crossings and their apply, receipts, answers, errors, time and checkpoints
(R341–R351, R356–R363). -/

set_option Elab.async false

namespace Sys2Proof.Machine

/-! ### Mailboxes (R98, R354) -/

/-- Whether a slice of an operation is in a saved presence, which cancels its waits (R97). -/
def State.inSaved (s : State) (t : Txn) : Bool := s.slices.any fun x => t.has x.sid && x.place == .saved

/-- The waiters of a mailbox, in the order they reached it (R98). -/
def State.waiters (s : State) (c : Fin 17) (m : Fin 64) : List Txn :=
  s.txns.filter fun t => t.ctx == c && t.kind == .waitw m && !s.inSaved t

/-- Deliver a word to a mailbox: the head waiter takes it, else it stands there, ORed into a word that stands there (R98, R354). -/
def State.deliverWord (s : State) (c : Fin 17) (m : Fin 64) (x : Word) : State :=
  match if ((s.ctx c).mailboxes.get m).pend then none else (s.waiters c m).head? with
  | some t => (t.parts.foldl (fun y p => y.fillWord p x) s).dropTxn t.id
  | none =>
    let b := (s.ctx c).mailboxes.get m
    let v := if b.pend then b.value ||| x else x
    s.setCtx c { s.ctx c with mailboxes := (s.ctx c).mailboxes.set m ⟨v, true⟩ }

/-- Send something out of the device. -/
def State.send (s : State) (o : OutMsg) : State := { s with out := s.out ++ [o] }

/-! ### Applying a bank (R356, R357) -/

/-- Rounding addition in BF16 of one half (R356). -/
def addBf16 (a b : BitVec 16) : BitVec 16 :=
  BitVec.ofNat 16
    (roundFp .bf16 .rne false false (FVal.add .rne (decFp .bf16 false a.toNat) (decFp .bf16 false b.toNat)).1).1

/-- What an STX does to a word under the rules that combine, 3 to 9 (R356). -/
def ruleOp (rule : Nat) (v w : Word) : Word :=
  match rule with
  | 3 => v + w
  | 4 => addF32 v w
  | 5 => addBf16 (v.extractLsb' 16 16) (w.extractLsb' 16 16) ++ addBf16 (v.setWidth 16) (w.setWidth 16)
  | 6 => if v.slt w then w else v
  | 7 => if w.slt v then w else v
  | 8 => v ||| w
  | 9 => v ^^^ w
  | _ => w

/-- n of R352. -/
def amNew (op : AmOp) (v b : Word) : Word :=
  match op with
  | .addS32 => v + b
  | .addF32 => addF32 v b
  | .minS32 => if v.slt b then v else b
  | .maxS32 => if v.slt b then b else v
  | .minU32 => if v.ult b then v else b
  | .maxU32 => if v.ult b then b else v
  | .and => v &&& b
  | .or => v ||| b
  | .xor => v ^^^ b
  | .xchg => b

/-- Entry a before entry b: by sender's peer id, then by the sender's acceptance order (R357). -/
def entryBefore (a b : LandEntry) : Bool := decide (a.peer < b.peer) || (a.peer == b.peer && decide (a.seq ≤ b.seq))

/-- Insert an entry into a sorted list. -/
def insertLand (a : LandEntry) (l : List LandEntry) : List LandEntry :=
  match l with
  | [] => [a]
  | b :: t => if entryBefore a b then a :: b :: t else b :: insertLand a t

/-- The entries of a word in their order of application. -/
def sortEntries (l : List LandEntry) : List LandEntry := l.foldr insertLand []

/-- The value one entry leaves, and the reply of an AMXR: the value before it (R357). `rule` is none where STX does not act. -/
def entryStep (rule : Option Nat) (v : Word) (a : LandEntry) : Word × List (LandEntry × Word) :=
  match a.op with
  | .stx => (match rule with
    | some r => ruleOp r v a.data
    | none => v, [])
  | .amx op => (amNew op v a.data, [])
  | .amxr op => (amNew op v a.data, [(a, v)])

/-- Entries applied one after the other. -/
def entrySteps (rule : Option Nat) (es : List LandEntry) (v : Word) : Word × List (LandEntry × Word) :=
  match es with
  | [] => (v, [])
  | a :: t =>
    let r := entryStep rule v a
    let u := entrySteps rule t r.1
    (u.1, r.2 ++ u.2)

/-- The peers of a list of entries without repeats. -/
def peersOf (es : List LandEntry) : List (BitVec 9) :=
  es.foldl (fun acc e => if acc.contains e.peer then acc else acc ++ [e.peer]) []

/-- The winner's last write under OWNER, LOWPEER, HIGHPEER and FAULT, of entries sorted by peer (R357). -/
def winner (rule : Nat) (stx : List LandEntry) : Option LandEntry :=
  let p := if rule = 2 then stx.getLast?.map (·.peer) else stx.head?.map (·.peer)
  p.bind fun q => (stx.filter fun e => e.peer == q).getLast?

/-- A word after its entries, the replies, and the STX entries dropped by a FAULT conflict (R357). -/
def applyWord (rule : Nat) (x : Word) (es : List LandEntry) : Word × List (LandEntry × Word) × List LandEntry :=
  if rule ≤ 2 ∨ rule = 10 then
    let stx := es.filter fun e => e.op == .stx
    let conf := decide (rule = 10) && decide (2 ≤ (peersOf stx).length)
    let kept := if conf then [] else stx
    let v := match winner rule kept with
      | some e => e.data
      | none => x
    let r := entrySteps none es v
    (r.1, r.2, if conf then stx else [])
  else
    let r := entrySteps (some rule) es x
    (r.1, r.2, [])

/-- The offsets of a bank's entries without repeats. -/
def entryOffs (es : List LandEntry) : List (BitVec 47) :=
  es.foldl (fun acc e => if acc.contains e.off then acc else acc ++ [e.off]) []

/-- Whether an entry is a local store this device captured, which no operation waits for (R350). -/
def State.isCaptured (s : State) (e : LandEntry) : Bool := e.peer == s.fab.peer && s.fab.ops.all fun o => o.seq != e.seq

/-- Tell a sender that its entry was dropped or rejected: for a captured store this device's own set at once (R350, R358). -/
def State.tellFailed (s : State) (e : LandEntry) : State :=
  if s.isCaptured e then s.failPeer e.ctx e.peer else s.send (.ack e.peer e.seq true)

/-- The line of an address with its writes applied: the word at its location as every cache of the device shows it. -/
def State.ownLine (s : State) (asid : BitVec 16) (va : Nat) : State :=
  let tag := s.tagOf asid va
  s.forceWrites tag (va / 128 * 128) 128

/-- Write bytes to a location and drop every cached copy of the line (R345). -/
def State.writeThrough (s : State) (asid : BitVec 16) (va : Nat) (bs : List Byte) : State :=
  match s.loc? asid va with
  | none => s
  | some l =>
    let s : State := { s with
      cdata := writeBytes s.cdata (lineKey l.asid va) bs
      copies := s.copies.filter fun c => !(c.asid == l.asid && c.va / 128 * 128 == l.va)
      ilines := s.ilines.filter fun x => !(x.asid == l.asid && x.va / 128 * 128 == l.va) }
    (s.writeBack { l with dirty := true }).dropLine l

/-- Apply the entries of one word (R345, R349, R357): a word without a translation is dropped, and TRN is set. -/
def State.applyAt (s : State) (t : Nat) (es : List LandEntry) (off : BitVec 47) : State × List (LandEntry × Word) :=
  let d := s.fab.inForce.get (off.extractLsb' 41 6).toFin
  let mine := sortEntries (es.filter fun e => e.off == off)
  let cx : Fin 17 := Fin.ofNat 17 (lwCtx d)
  let asid := s.asidOf cx
  let va := lwBase d + (off.extractLsb' 0 41).toNat
  match (s.tryGrant (viaDie 4) asid va .r).bind fun u => u.tryGrant (viaDie 4) asid va .w with
  | none =>
    let lost := mine.filterMap fun e => match e.op with
      | .amxr _ => some (e, Config.lostReply s.ticks)
      | .amx _ => none
      | .stx => none
    let s := if s.pageHeld asid va then s else s.logWalk cx va
    ({ s.modAcc t fun a => { a with trn := true } with ticks := s.ticks + 1 }, lost)
  | some u =>
    let u := u.ownLine asid va
    let x : Word := BitVec.ofNat 32 (ofBytes (u.viewBytes 4 asid va 4))
    let r := applyWord (lwRule d) x mine
    let u := u.writeThrough asid va (toBytes 4 r.1.toNat)
    let u := if r.2.2.isEmpty then u else u.modAcc t fun a => { r.2.2.foldl (fun b e => b.blame e.peer) a with conf := true }
    (r.2.2.foldl State.tellFailed u, r.2.1)

/-- Apply a bank, word by word. -/
def State.applyBank (s : State) (t : Nat) : State × List (LandEntry × Word) :=
  let es := ((s.fab.banks.get (stepBank t)).filter (·.judged)).map (·.entry)
  (entryOffs es).foldl (fun acc off =>
    let r := acc.1.applyAt t es off
    (r.1, acc.2 ++ r.2)) (s, [])

/-! ### The step status (R359) -/

/-- The lowest of some peer ids; 0 if there is none. -/
def lowestPeer (ps : List (BitVec 9)) : BitVec 9 :=
  match ps with
  | [] => 0#9
  | p :: t => t.foldl (fun a b => if b < a then b else a) p

/-- The step status word. -/
def StepAcc.word (a : StepAcc) : Word :=
  1#1 ++ BitVec.ofBool a.ovf ++ BitVec.ofBool a.own ++ BitVec.ofBool a.conf ++ BitVec.ofBool a.trn ++ BitVec.ofBool a.rng ++
    BitVec.ofNat 8 (min a.bad.length 255) ++ 0#9 ++ lowestPeer a.bad

/-! ### Descriptors that take effect (R347, R349) -/

/-- The first page of a range that is not present with R and W, if there is one. -/
def State.unmapped? (s : State) (asid : BitVec 16) (fuel va hi : Nat) : Option Nat :=
  match fuel with
  | 0 => none
  | n + 1 =>
    if hi ≤ va then none
    else match s.walk asid va with
      | .leaf l => if l.r && l.w then State.unmapped? s asid n ((va / 2 ^ pageShift l.size + 1) * 2 ^ pageShift l.size) hi else some va
      | .fault _ _ => some va
      | .malformed _ => some va

/-- The first page of a descriptor's range that is not present with R and W. -/
def State.lwUnmapped? (s : State) (d : BitVec 256) : Option Nat :=
  s.unmapped? (s.asidOf (Fin.ofNat 17 (lwCtx d))) (lwLen d / 65536 + 1) (lwBase d) (lwBase d + lwLen d)

/-- Whether a descriptor with EN = 1 is sound as it stands by itself (R347). -/
def State.lwSound (s : State) (d : BitVec 256) : Bool := lwFieldsOk d && (s.lwUnmapped? d).isNone

/-- What a descriptor holds next: its written value if a write waits for its effect. -/
def Fabric.nextLw (f : Fabric) (w : Fin 64) : BitVec 256 := if f.lwPending.getLsbD w.val then f.written.get w else f.inForce.get w

/-- Whether a descriptor overlaps the active window of another number among those given. -/
def Fabric.overlapsAny (f : Fabric) (w : Fin 64) (among : Fin 64 → Bool) : Bool :=
  (List.finRange 64).any fun x => x != w && among x && lwEn (f.nextLw x) && lwOverlap (f.nextLw w) (f.nextLw x)

/-- Whether a descriptor that is about to take effect is an active window beside those that stand (R347). -/
def State.lwStands (s : State) (w : Fin 64) : Bool :=
  s.fab.lwPending.getLsbD w.val && lwEn (s.fab.written.get w) && s.lwSound (s.fab.written.get w) &&
    !s.fab.overlapsAny w fun x => !s.fab.lwPending.getLsbD x.val

/-- Whether a descriptor that is about to take effect is malformed (R347, R349); those that overlap each other and no window that stands
are both (DESIGN CHOICE, log 74). -/
def State.lwMalformed (s : State) (w : Fin 64) : Bool :=
  s.fab.lwPending.getLsbD w.val && lwEn (s.fab.written.get w) && (!s.lwStands w || s.fab.overlapsAny w s.lwStands)

/-- The walks of the descriptors that are about to take effect: a malformed table entry one of them meets is logged (R264, R347). -/
def State.logDescriptors (s : State) : State :=
  (List.finRange 64).foldl (fun x w =>
    let d := s.fab.written.get w
    if s.fab.lwPending.getLsbD w.val && lwEn d && lwFieldsOk d then
      match s.lwUnmapped? d with
      | some va => x.logWalk (Fin.ofNat 17 (lwCtx d)) va
      | none => x
    else x) s

/-- The written descriptors take effect; a malformed one counts as inactive, and its LWERR bit is set (R349). -/
def State.takeDescriptors (s : State) : State :=
  let s := s.logDescriptors
  let f := s.fab
  let bad (w : Fin 64) : Bool := s.lwMalformed w
  { s with fab := { f with
      inForce := Vector.ofFn fun w => if bad w then f.written.get w &&& ~~~1#256 else f.nextLw w
      lwerr := (List.finRange 64).foldl (fun e w => if bad w then e ||| (1#64 <<< w.val) else e) f.lwerr
      lwPending := 0#64 } }

/-! ### Entries and loads held for a crossing (R349, R351) -/

/-- Judge the early entries of the next step, in arrival order; an entry rejected gives its place back (R349). -/
def State.judgeEarly (s : State) (t : Nat) : State :=
  let b := stepBank t
  let es := s.fab.banks.get b
  let s0 : State := { s with fab := { s.fab with banks := s.fab.banks.set b [] } }
  es.foldl (fun x e =>
    if e.judged then x.pushEntry e
    else match x.judgeEntry e.entry with
      | .accepted =>
        let y := x.pushEntry { e with judged := true }
        if x.isCaptured e.entry then y else y.send (.ack e.entry.peer e.entry.seq false)
      | r => (x.noteReject t e.entry.peer r).tellFailed e.entry) s0

/-- The reply of an LDX or AMXR waits for a link, as every packet does (R294, R305). -/
def State.queueReply (s : State) (c : Fin 17) (peer : BitVec 9) (seq : Nat) (x : Word) : State :=
  { s with nextId := s.nextId + 1, fab := { s.fab with replies := s.fab.replies ++ [⟨s.nextId, c, peer, seq, x⟩] } }

/-- Serve an LDX (R351): the reply, or its rejection. -/
def State.serveLdx (s : State) (r : LdxRequest) : State :=
  let d := s.fab.inForce.get (r.off.extractLsb' 41 6).toFin
  let byte := (r.off.extractLsb' 0 41).toNat
  if !lwEn d || decide (lwLen d ≤ byte) || lwCtx d != r.ctx.val then
    (s.noteReject r.step.toNat r.peer .range).send (.ack r.peer r.seq true)
  else
    let asid := s.asidOf r.ctx
    match s.gRead 4 asid (lwBase d + byte) 4 with
    | some (bs, t) => t.queueReply r.ctx r.peer r.seq (BitVec.ofNat 32 (ofBytes bs))
    | none =>
      let t := (s.logRange 4 r.ctx (lwBase d + byte) 4 .r).queueReply r.ctx r.peer r.seq (Config.lostReply s.ticks)
      { t with ticks := t.ticks + 1 }

/-- Whether an LDX is held: a crossing is awaited (R351), or its page is held by another's fault (R176). -/
def State.ldxWaits (s : State) (r : LdxRequest) : Bool :=
  let d := s.fab.inForce.get (r.off.extractLsb' 41 6).toFin
  decide (s.fab.crossed < r.step.toNat) || s.rangeHeld 4 (s.asidOf r.ctx) (lwBase d + (r.off.extractLsb' 0 41).toNat) 4 .r

/-- Serve the remote loads that are held no more. -/
def State.serveHeld (s : State) : State :=
  let now := s.fab.ldxHeld.filter fun r => !s.ldxWaits r
  let s : State := { s with fab := { s.fab with ldxHeld := s.fab.ldxHeld.filter s.ldxWaits } }
  now.foldl State.serveLdx s

/-- Fill the XWAITs whose crossing has come; one that waits for an earlier access, or that a save has cancelled, fills later (R97, R172). -/
def State.fillXwaits (s : State) : State :=
  s.txns.foldl (fun x t => match t.kind with
    | .xwait k => if x.mayPerform t && x.crossedAt k && !x.inSaved t then x.completeXwait t k else x
    | _ => x) s

/-- Deliver the deferred wakes of the steps crossed, in the order they were recorded (R354). -/
def State.deliverDeferred (s : State) : State :=
  let now := s.fab.wakes.filter fun w => decide (w.step.toNat < s.fab.crossed)
  let s : State := { s with fab := { s.fab with wakes := s.fab.wakes.filter fun w => decide (s.fab.crossed ≤ w.step.toNat) } }
  now.foldl (fun x w => x.deliverWord w.ctx w.mailbox w.value) s

/-- The replies of AMXR entries. -/
def State.sendReplies (s : State) (rs : List (LandEntry × Word)) : State := rs.foldl (fun x r => x.queueReply r.1.ctx r.1.peer r.1.seq r.2) s

/-! ### The crossing (R343, R345) -/

/-- The step DEVICE_ARRIVAL (R343): every operation tagged with the step arrived at is acknowledged, and the arrival is sent. -/
def execDeviceArrival (s : State) : Host.Outcome State Fault Refusal :=
  .next (if s.fab.arriving && !s.fab.copying && s.fab.ops.all (fun o => o.acked || o.step + 1 != s.fab.step) then
    { s.send (.arrival (s.fab.step - 1)) with fab := { s.fab with arriving := false, arrivalSent := true } }
  else s)

/-- Whether an operation reads memory once; a WAITV reads again and again, and waits for no crossing (R99, R351). -/
def TxnKind.readsOnce (k : TxnKind) : Bool :=
  match k with
  | .waitv _ => false
  | _ => k.reads

/-- Whether an operation waits behind one of a common slice that waits for the crossing itself, with or without a fence between them: it
reads after the crossing (DESIGN CHOICE, log 73). -/
def State.behindCrossing (s : State) (u : Txn) : Bool :=
  s.txns.any fun w => decide (w.id < u.id) && (w.parts.any fun p => u.has p.sid) && s.waitsCrossing w &&
    (s.holdsBack w u || s.txns.any fun f => decide (w.id < f.id) && decide (f.id < u.id) && (f.parts.any fun p => u.has p.sid && w.has p.sid) &&
      !s.fenceDone f && s.holdsBack f u)

/-- Whether a load tagged with a step not after `t` still has to read a window (R351), unless it has faulted. -/
def State.loadsBefore (s : State) (t : Nat) : Bool :=
  s.txns.any fun u => u.kind.readsOnce && decide (u.step ≤ t) && !s.behindCrossing u &&
    ((u.lanes.any fun l => windowOf l.addr == some .global && !s.laneFaulted u l && (s.landing? u.ctx l.off).isSome) ||
     (u.lanes.isEmpty && u.spans.any fun p => p.1 == some .global && (s.landing? u.ctx p.2.1).isSome))

/-- A checkpoint armed before this crossing begins with it (R363): the device is held, unless fewer than 72 planes are up. -/
def State.beginCheckpoint (s : State) : State :=
  if !s.fab.ckgo then s
  else if ((List.range 144).filter fun p => s.fab.planes.getLsbD p).length < 72 then
    { s with fab := { s.fab with ckgo := false, ckstat := 5#4 } }
  else { s with fab := { s.fab with ckgo := false, copying := true } }

/-- Crossing t completes (R345). -/
def State.crossing (s : State) (t : Nat) : State :=
  let r := s.applyBank t
  let s := r.1
  let word := (s.fab.accs.get (stepBank t)).word
  let s : State := { s with fab := { s.fab with
    stat := word
    statuses := ((t, word) :: s.fab.statuses).take 16
    accs := s.fab.accs.set (stepBank t) StepAcc.reset
    banks := s.fab.banks.set (stepBank t) []
    arrivalSent := false
    crossed := t + 1 } }
  let s := (s.send (.crossed t)).takeDescriptors
  let s := (s.serveHeld.fillXwaits.deliverDeferred.sendReplies r.2).judgeEarly (t + 1)
  s.dropOldOps.beginCheckpoint

/-- The time-stamp counter is adjusted towards the reference (R362): an offset above 1 µs by stepping forward, or by pausing; a smaller one
by slewing the rate, which is free (log 4). The counter never decreases. -/
def State.adjustTime (s : State) (ref : DWord) : State :=
  if s.tsc.toNat + 1000 < ref.toNat then { s with tsc := ref, tscPause := 0#64 }
  else if ref.toNat + 1000 < s.tsc.toNat then { s with tscPause := s.tsc - ref }
  else s.tick

/-- The step CROSSING_APPLY (R345): the first broadcast of the crossing the device has arrived at, with its reference time (R362). -/
def execCrossingApply (b : CrossingMsg) (s : State) : Host.Outcome State Fault Refusal :=
  .next (if s.fab.arrivalSent && b.step.toNat == s.fab.crossed && decide (s.fab.crossed < s.fab.step) && !s.loadsBefore s.fab.crossed
    then (s.adjustTime b.ref).crossing s.fab.crossed
  else s)

/-- The crossings a peer has completed, as far as this device was told (R346). -/
def State.peerCount (s : State) (p : BitVec 9) : Nat := ((s.fab.peerCrossed.find? fun x => x.1 == p).map (·.2)).getD 0

/-- The step PEER_CROSSING_COMPLETE (R346). -/
def execPeerCrossingComplete (peer : BitVec 9) (step : DWord) (s : State) : Host.Outcome State Fault Refusal :=
  .next { s with fab := { s.fab with
    peerCrossed := (peer, max (s.peerCount peer) (step.toNat + 1)) :: s.fab.peerCrossed.filter fun x => x.1 != peer } }

/-! ### Receipts (R348, R349, R351, R354, R357) -/

/-- Whether a step tag can reach this device: of the step in progress or of the next (R346). -/
def State.tagOk (s : State) (t : DWord) : Bool := decide (s.fab.crossed ≤ t.toNat) && decide (t.toNat ≤ s.fab.crossed + 1)

/-- The step LANDING_ENTRY_RECEIPT (R357): the answer follows the judgment. -/
def execLandingEntryReceipt (e : LandEntry) (s : State) : Host.Outcome State Fault Refusal :=
  .next (if s.tagOk e.step then
    let r := s.receiveEntry e
    match r.2 with
    | none => r.1
    | some k => r.1.send (.ack e.peer e.seq (k != .accepted))
  else s)

/-- The step LDX_REQUEST_RECEIPT (R351). -/
def execLdxRequestReceipt (r : LdxRequest) (s : State) : Host.Outcome State Fault Refusal :=
  .next (if s.tagOk r.step then
    if s.ldxWaits r then { s with fab := { s.fab with ldxHeld := s.fab.ldxHeld ++ [r] } } else s.serveLdx r
  else s)

/-- The step WAKE_RECEIPT (R354). -/
def execWakeReceipt (w : WakeMsg) (s : State) : Host.Outcome State Fault Refusal :=
  .next (if s.tagOk w.step then
    if (s.ctx w.ctx).asid.isNone then (s.noteReject w.step.toNat w.peer .range).send (.ack w.peer w.seq true)
    else
      let s := s.send (.ack w.peer w.seq false)
      if w.deferred then { s with fab := { s.fab with wakes := s.fab.wakes ++ [w] } } else s.deliverWord w.ctx w.mailbox w.value
  else s)

/-! ### Answers (R343, R354, R358, R361) -/

/-- An operation ends without a value: a lane that returns takes 0 (R354, R358). -/
def State.failOp (s : State) (o : FabOp) (p : BitVec 9) : State :=
  let s := s.failPeer o.ctx p
  if o.kind.returns then (s.laneReturn o 0#32).dropFabOp o.seq else s.modFabOp o.seq fun x => { x with acked := true }

/-- Whether an answer of a peer belongs to an operation. -/
def FabOp.sentTo (o : FabOp) (p : BitVec 9) : Bool :=
  match o.dest with
  | .peer q => q == p
  | .group _ => true

/-- The answer a peer gives to an operation: for a multicast, `reply` marks the last replica's (log 33). -/
def State.answer (s : State) (o : FabOp) (p : BitVec 9) (rejected : Bool) (reply : Option Word) : State :=
  match o.dest with
  | .group _ =>
    let s := if rejected then s.failPeer o.ctx p else s
    if reply.isSome then s.modFabOp o.seq fun x => { x with acked := true } else s
  | .peer _ =>
    if rejected then s.failOp o p
    else match o.kind, reply with
      | .ldx, some x => (s.laneReturn o x).dropFabOp o.seq
      | .ldx, none => s
      | .amxr _, some x => (s.laneReturn o x).dropFabOp o.seq
      | _, _ => s.modFabOp o.seq fun x => { x with acked := true }

/-- The step FABRIC_ACK (R343): an acknowledgement, a rejection, or a reply. -/
def execFabricAck (id : Nat) (peer : BitVec 9) (rejected : Bool) (reply : Option Word) (s : State) :
    Host.Outcome State Fault Refusal :=
  .next (match s.fab.ops.find? fun o => o.seq == id with
    | some o => if o.sent && o.sentTo peer then s.answer o peer rejected reply else s
    | none => s)

/-- The step PEER_UNREACHABLE (R358): the operations to a peer that no plane reaches are abandoned; one whose packet has not left never
leaves. -/
def execPeerUnreachable (peer : BitVec 9) (s : State) : Host.Outcome State Fault Refusal :=
  .next ((s.fab.ops.filter fun o => !o.acked && o.dest == .peer peer).foldl (fun x o =>
    (x.modFabOp o.seq fun y => { y with sent := true }).failOp o peer) s)

/-! ### Integrity (R360), time (R362) -/

/-- The step INTEGRITY_RETRY (R360): a group of flits whose tag fails is void, and its retry is requested. What reaches the other
steps has passed its tag. -/
def execIntegrityRetry (plane group : Nat) (s : State) : Host.Outcome State Fault Refusal := .next (s.send (.retryRequest plane group))

/-- The step RETRY_REQUEST_RECEIPT (R360): the flits of a group are sent again from the replay buffer. -/
def execRetryRequestReceipt (group : Nat) (s : State) : Host.Outcome State Fault Refusal := .next (s.send (.resend group))

/-- The step TIME_BEACON (R362). -/
def execTimeBeacon (ref : DWord) (s : State) : Host.Outcome State Fault Refusal := .next (s.adjustTime ref)

/-! ### Registers with steps of their own (R342, R347, R349) -/

/-- The step FXQUOTA_WRITE (R342): enabling the fabric sets STEP and the arrival count to 0, the banks take their size, and the
descriptors written take effect. -/
def execFxquotaWrite (val : Word) (s : State) : Host.Outcome State Fault Refusal :=
  .next (
    let q : BitVec 16 := val.setWidth 16
    let s1 : State := if q ≠ 0#16 then { s with fab := { s.fab with bankSize := s.fab.lbsz.toNat } } else s
    if q ≠ 0#16 ∧ s.fab.quota = 0#16 then
      let f := s1.fab
      ({ s1 with fab := { f with
          quota := q
          step := 0
          arrived := 0
          crossed := 0
          arriving := false
          arrivalSent := false
          banks := Vector.replicate 2 []
          accs := Vector.replicate 2 StepAcc.reset
          statuses := []
          peerCrossed := []
          ldxHeld := []
          wakes := [] } } : State).takeDescriptors
    else { s1 with fab := { s1.fab with quota := q } })

/-- The step FXID_WRITE (R342): only while QUOTA = 0; a PEER above NPEER reads back NPEER. -/
def execFxidWrite (val : Word) (s : State) : Host.Outcome State Fault Refusal :=
  .next (if s.fab.quota = 0#16 then
    let n := val.extractLsb' 16 9
    let p := val.extractLsb' 0 9
    { s with fab := { s.fab with npeer := n, peer := if n < p then n else p } }
  else s)

/-- The step LW_DESCRIPTOR_WRITE (R349): the write waits for the next crossing, or for the fabric to be enabled. -/
def execLwDescriptorWrite (w : Fin 64) (val : BitVec 256) (s : State) : Host.Outcome State Fault Refusal :=
  .next { s with fab := { s.fab with
    written := s.fab.written.set w val, lwPending := s.fab.lwPending ||| (1#64 <<< w.val) } }

/-! ### Checkpoints (R363) -/

/-- The step CHECKPOINT_GO (R363): CKCTL.GO arms a copy for the next crossing. -/
def execCheckpointGo (s : State) : Host.Outcome State Fault Refusal :=
  .next (if s.fab.copying then s else { s with fab := { s.fab with ckgo := true, ckstat := 1#4 } })

/-- Write every line that differs back to its frame, with what is on its way to it; it stays cached. -/
def State.writeBackAll (s : State) : State :=
  let t := s.writes.foldl (fun x w => x.forceWrites w.asid w.va w.bytes.length) s
  t.lines.foldl State.writeBack t

/-- The step CHECKPOINT_START (R363): the peer accepts or refuses the copy; the caches are written back and the frames leave. -/
def execCheckpointStart (accepted : Bool) (s : State) : Host.Outcome State Fault Refusal :=
  .next (if s.fab.copying && s.fab.ckstat == 1#4 then
    if accepted then
      let s := s.writeBackAll -- frames under a key leave as stored, with their keys' names (R332)
      { s.send (.checkpoint s.fab.ckpeer s.hbm s.sealed (s.fab.banks.toList.flatMap id)) with fab := { s.fab with ckstat := 2#4 } }
    else { s with fab := { s.fab with ckstat := 4#4, copying := false } }
  else s)

/-- The step CHECKPOINT_DONE (R363): the device resumes. -/
def execCheckpointDone (s : State) : Host.Outcome State Fault Refusal :=
  .next (if s.fab.copying && s.fab.ckstat == 2#4 then { s with fab := { s.fab with ckstat := 3#4, copying := false } } else s)

end Sys2Proof.Machine
end

