-- ==== Sys2Proof/Machine/Approx.lean ====
section
/-! DEFINITION. The approximation instructions of R118: their special inputs, an enclosure of the exact result, and the choice of a
result inside the bound. Which result inside the bound a part gives is `Config.approx`, a free value (log 13). -/

set_option Elab.async false

namespace Sys2Proof.Machine

/-- The functions of R118. -/
inductive ApproxOp where
  | rcp | rsq | exp2 | log2 | sin | cos | tanh
deriving DecidableEq, Repr

/-- The opcode byte of an approximation (R61). -/
def ApproxOp.code (o : ApproxOp) : BitVec 8 :=
  match o with
  | .rcp => 0x58#8 | .rsq => 0x59#8 | .exp2 => 0x5A#8 | .log2 => 0x5B#8 | .sin => 0x5C#8 | .cos => 0x5D#8 | .tanh => 0x5E#8

/-- ln 2 × 2^200, rounded down. -/
def ln2At200 : Nat := 1113844574712631719546256151097547306333272293549090750737802

/-- log2 e × 2^200, rounded down. -/
def log2eAt200 : Nat := 2318321547468254865173387471183990171487108758923299108729110

/-- The integer part of v × 2^200, toward −∞. -/
def fixed200 (neg : Bool) (m : Nat) (e : Int) : Int :=
  let t : Int := if -200 ≤ e then (unitsAt m e (-200) : Int) else (m / 2 ^ (-200 - e).toNat : Nat)
  if neg then -t else t

/-- The terms of e^y from term i on, y and the terms in units of 2^−200. -/
def expTerms (y k i term acc : Nat) : Nat :=
  match k with
  | 0 => acc
  | k + 1 =>
    let t := term * y / 2 ^ 200 / (i + 1)
    expTerms y k (i + 1) t (acc + t)

/-- 2^f × 2^200 for f × 2^200 below 2^200. -/
def exp2Frac (f : Nat) : Nat := expTerms (f * ln2At200 / 2 ^ 200) 50 0 (2 ^ 200) (2 ^ 200)

/-- The odd terms z^(2i+1) / (2i+1), in units of 2^−200. -/
def atanhTerms (zz k i pow acc : Nat) : Nat :=
  match k with
  | 0 => acc
  | k + 1 => atanhTerms zz k (i + 1) (pow * zz / 2 ^ 200) (acc + pow / (2 * i + 1))

/-- log2 of m / 2^(Nat.log2 m) × 2^200. -/
def log2Frac (m : Nat) : Nat :=
  let p := 2 ^ Nat.log2 m
  let z := (m - p) * 2 ^ 200 / (m + p)
  2 * atanhTerms (z * z / 2 ^ 200) 70 0 z 0 * 2 ^ 200 / ln2At200

/-- The integer square root, bit by bit from bit k − 1 down. -/
def sqrtBits (v k r : Nat) : Nat :=
  match k with
  | 0 => r
  | k + 1 => sqrtBits v k (if (r + 2 ^ k) * (r + 2 ^ k) ≤ v then r + 2 ^ k else r)

/-- cos and sin of 2π × j / 2^n in units of 2^−200, and whether the angle is a multiple of a quarter turn. -/
def cosSinTurn (j n : Nat) : Int × Int × Bool :=
  let quarter := 4 * j / 2 ^ n
  let r := 4 * j % 2 ^ n
  let x := tau200 * r / 2 ^ n / 4
  let (c, s) := if r = 0 then ((2 ^ 200 : Int), (0 : Int)) else cosSinSeries x 40 0 false (2 ^ 200) x 0 0
  match quarter with
  | 0 => (c, s, r == 0)
  | 1 => (-s, c, r == 0)
  | 2 => (-c, -s, r == 0)
  | _ => (s, -c, r == 0)

/-- A number of units of 2^−200 as a value. -/
def ofFixed (v : Int) : FVal := .fin (decide (v < 0)) v.natAbs (-200)

/-- The special inputs of R118. -/
def approxSpecial (op : ApproxOp) (x : FVal) : Option (FVal × Flags) :=
  match x with
  | .nan sig => some (.qnan, if sig then .invalid else .none)
  | .inf neg => match op with
    | .rcp => some (.zero neg, .none)
    | .rsq => some (if neg then (.qnan, .invalid) else (.zero false, .none))
    | .exp2 => some (if neg then .zero false else .inf false, .none)
    | .log2 => some (if neg then (.qnan, .invalid) else (.inf false, .none))
    | .sin => some (.qnan, .invalid)
    | .cos => some (.qnan, .invalid)
    | .tanh => some (.fin neg 1 0, .none)
  | .fin neg m e =>
    let whole (k : Int) : Bool := decide (m * 2 ^ (e + k).toNat % 2 ^ (-(e + k)).toNat = 0)
    match op with
    | .rcp => if m = 0 then some (.inf neg, .divZero) else none
    | .rsq => if m = 0 then some (.inf neg, .divZero) else if neg then some (.qnan, .invalid) else none
    | .exp2 =>
      if whole 0 then
        let i := (if neg then -1 else 1) * ((m * 2 ^ e.toNat / 2 ^ (-e).toNat : Nat) : Int)
        if -126 ≤ i ∧ i ≤ 127 then some (.fin false 1 i, .none) else none
      else none
    | .log2 =>
      if m = 0 then some (.inf true, .divZero)
      else if neg then some (.qnan, .invalid)
      else if m = 2 ^ Nat.log2 m ∧ expoOf m e = 0 then some (.zero false, .none)
      else none
    | .sin => if whole 1 then some (.zero false, .none) else none
    | .cos =>
      if whole 0 then some (.fin false 1 0, .none)
      else if whole 2 && !whole 1 then some (.zero false, .none)
      else none
    | .tanh => if m = 0 then some (.zero neg, .none) else none

/-- The exact result to 190 bits and more, for an input that is not special; the cosine of such an input stays below 1. -/
def approxMid (op : ApproxOp) (neg : Bool) (m : Nat) (e : Int) : FVal :=
  match op with
  | .rcp => .fin neg (2 ^ 250 / m) (-250 - e)
  | .rsq =>
    let odd := e % 2 = 1
    let m' := if odd then 2 * m else m
    let e' := if odd then e - 1 else e
    .fin false (sqrtBits (2 ^ 400 / m') 201 0) (-200 - e' / 2)
  | .exp2 =>
    if 9 < expoOf m e then (if neg then .fin false 1 (-300) else .fin false 1 300)
    else
      let x := fixed200 neg m e
      .fin false (exp2Frac (x % 2 ^ 200).toNat) (x / 2 ^ 200 - 200)
  | .log2 => ofFixed (expoOf m e * 2 ^ 200 + log2Frac m)
  | .sin =>
    let n := (-e).toNat
    let r := cosSinTurn (m % 2 ^ n) n
    ofFixed (if neg then -r.2.1 else r.2.1)
  | .cos =>
    let n := (-e).toNat
    ofFixed (min (cosSinTurn (m % 2 ^ n) n).1 (2 ^ 200 - 1))
  | .tanh =>
    if 4 < expoOf m e then .fin neg (2 ^ 200 - 2 ^ 110) (-200)
    else
      let t := 2 * (fixed200 false m e).toNat * log2eAt200 / 2 ^ 200
      let y := exp2Frac (t % 2 ^ 200) * 2 ^ (t / 2 ^ 200)
      .fin neg ((y - 2 ^ 200) * 2 ^ 200 / (y + 2 ^ 200)) (-200)

/-- The bound of R118 as m × 2^e. -/
def approxBound (op : ApproxOp) (x mid : FVal) : Nat × Int :=
  let ulp : Int := match mid with
    | .fin _ m e => (if m = 0 then emin .fp32 else max (expoOf m e) (emin .fp32)) - 23
    | _ => 0
  match op with
  | .rcp => (1, ulp)
  | .rsq => (2, ulp)
  | .exp2 => (2, ulp)
  | .log2 => if x.lt (.fin false 1 (-1)) || FVal.lt (.fin false 2 0) x then (2, ulp) else (1, -22)
  | .sin => (1, -22)
  | .cos => (1, -22)
  | .tanh => (1, -21)

/-- Whether the exact result is below (−1), equal to or above (1) a finite value z: by the equation it solves for 1/x and 1/√x, else by its
first 190 bits (log 13). -/
def cmpExact (op : ApproxOp) (x mid z : FVal) : Option Int :=
  let one : FVal := .fin false 1 0
  match op with
  | .rcp => if x.isNeg then FVal.cmp (z.mul x).1 one else FVal.cmp one (z.mul x).1
  | .rsq => if FVal.lt (.zero false) z then FVal.cmp one ((z.mul z).1.mul x).1 else some 1
  | .exp2 | .log2 | .sin | .cos | .tanh => FVal.cmp mid z

/-- Whether the exact result is at most b away from a finite value y. -/
def withinBound (op : ApproxOp) (x mid y : FVal) (b : Nat × Int) : Bool :=
  let low := cmpExact op x mid (FVal.add .rne y (.fin true b.1 b.2)).1
  let high := cmpExact op x mid (FVal.add .rne y (.fin false b.1 b.2)).1
  (match y with
   | .fin _ _ _ => true
   | _ => false) && low != some (-1) && high != some 1

/-- Whether an FP32 value is a result R118 allows: inside the bound, and at most 1 in magnitude for FTANH. -/
def approxAllows (op : ApproxOp) (x mid y : FVal) : Bool :=
  withinBound op x mid y (approxBound op x mid) && (op != .tanh || !(FVal.lt (.fin false 1 0) y.abs))

/-- Whether y is the exact result of an input that is not special. -/
def approxExact (op : ApproxOp) (x mid y : FVal) : Bool :=
  cmpExact op x mid y == some 0 && (match x with
  | .fin _ m e => (match op with
    | .rcp => true
    | .rsq => true
    | .exp2 => decide (m * 2 ^ e.toNat % 2 ^ (-e).toNat = 0)
    | .log2 => decide (m = 2 ^ Nat.log2 m)
    | .sin => (cosSinTurn (m % 2 ^ (-e).toNat) (-e).toNat).2.2
    | .cos => (cosSinTurn (m % 2 ^ (-e).toNat) (-e).toNat).2.2
    | .tanh => false)
  | _ => false)

/-- The FP32 value an approximation gives: the part's own where R118 allows it, else the exact value rounded (log 13); a value
past the largest finite one overflows in the rounding that follows (R19). -/
def approxValue (op : ApproxOp) (x mid : FVal) : FVal :=
  let own := decFp .fp32 false (Config.approx op.code (bitsFp32 x)).toNat
  let m := maxFin .fp32
  if FVal.lt (.fin false m.1 m.2) mid.abs then mid
  else if approxAllows op x mid own then own
  else decFp .fp32 false (roundFp .fp32 .rne true false mid).1
where
  /-- The FP32 pattern of a value of FP32, BF16 or FP16. -/
  bitsFp32 (v : FVal) : Word := BitVec.ofNat 32 (roundFp .fp32 .rne false false v).1

/-- An approximation instruction on one element (R118): the pattern in f, and the exceptions; the exact result decides whether it is
tiny (R21). -/
def approx (op : ApproxOp) (f : FpFmt) (rm : Rnd) (sat ftz : Bool) (x : FVal) : Nat × Flags :=
  match approxSpecial op x with
  | some r =>
    let y := roundFp f rm sat ftz r.1
    (y.1, r.2.or y.2)
  | none => match x with
    | .fin neg m e =>
      let mid := approxMid op neg m e
      let v := approxValue op x mid
      let y := roundFp f rm sat ftz v
      let tiny := match mid with
        | .fin _ k l => k == 0 || decide (expoOf k l < emin f)
        | _ => false
      (y.1, if approxExact op x mid v then y.2 else y.2.or (if tiny then .underflow else .inexact))
    | _ => (qnanBits f, .invalid)

end Sys2Proof.Machine
end

