-- ==== Sys2Proof/Machine/Elem.lean ====
section
/-! DEFINITION. Shared operations of the vector instructions: packed elements (R9), modifier words (R57, R58), the arithmetic trap
(R105), complex elements (R14), and the issue of a vector instruction (R103). -/

set_option Elab.async false

namespace Sys2Proof.Machine

/-! ### Packed elements (R9) -/

/-- Element j of width w of a lane. -/
def elem (w : Nat) (x : Word) (j : Nat) : Nat := x.toNat / 2 ^ (w * j) % 2 ^ w

/-- The elements of a lane, element 0 first. -/
def laneElems (w : Nat) (x : Word) : List Nat := (List.range (32 / w)).map (elem w x)

/-- A lane of elements of width w. -/
def packElems (w : Nat) (es : List Nat) : Word := BitVec.ofNat 32 (es.foldr (fun e acc => e % 2 ^ w + 2 ^ w * acc) 0)

/-- An operation on each element of three lanes. -/
def elemOp (w : Nat) (a b d : Word) (f : Nat → Nat → Nat → Nat × Flags) : Word × Flags :=
  let rs := (List.range (32 / w)).map fun j => f (elem w a j) (elem w b j) (elem w d j)
  (packElems w (rs.map (·.1)), rs.foldl (fun acc r => acc.or r.2) Flags.none)

/-- A lane without an exception. -/
def quiet (x : Word) : Word × Flags := (x, Flags.none)

/-! ### Element types (R104, R105) -/

/-- The integer width of MODE.ETYPE (R104). -/
def intWidth (t : EType) : Nat :=
  match t with
  | .int8 => 8
  | .int16 => 16
  | .fp32 | .bf16 | .fp16 | .e4m3 | .e5m2 | .mxE4m3 | .mxE5m2 | .mxfp4 | .int32 | .cf32 | .cbf16 | .cb2 => 32

/-- The real float formats (R104). -/
def realFmt (t : EType) : Option FpFmt :=
  match t with
  | .fp32 => some .fp32
  | .bf16 => some .bf16
  | .fp16 => some .fp16
  | .e4m3 | .e5m2 | .mxE4m3 | .mxE5m2 | .mxfp4 | .int8 | .int16 | .int32 | .cf32 | .cbf16 | .cb2 => none

/-- The component format of the complex types (R104, R120). -/
def complexFmt (t : EType) : Option FpFmt :=
  match t with
  | .cf32 => some .fp32
  | .cbf16 => some .bf16
  | .fp32 | .bf16 | .fp16 | .e4m3 | .e5m2 | .mxE4m3 | .mxE5m2 | .mxfp4 | .int8 | .int16 | .int32 | .cb2 => none

/-- The formats a conversion writes (R125). -/
def cvtFmt (t : EType) : Option FpFmt :=
  match t with
  | .fp32 => some .fp32 | .bf16 => some .bf16 | .fp16 => some .fp16
  | .e4m3 => some .e4m3 | .e5m2 => some .e5m2 | .mxfp4 => some .e2m1
  | .mxE4m3 | .mxE5m2 | .int8 | .int16 | .int32 | .cf32 | .cbf16 | .cb2 => none

/-- The widths of the integer types a conversion writes (R125). -/
def cvtInts (t : EType) : Option Nat :=
  match t with
  | .int8 => some 8 | .int16 => some 16 | .int32 => some 32
  | .fp32 | .bf16 | .fp16 | .e4m3 | .e5m2 | .mxE4m3 | .mxE5m2 | .mxfp4 | .cf32 | .cbf16 | .cb2 => none

/-- The element format of the MX types (R12, R129). -/
def mxFmt (t : EType) : Option FpFmt :=
  match t with
  | .mxE4m3 => some .e4m3 | .mxE5m2 => some .e5m2 | .mxfp4 => some .e2m1
  | .fp32 | .bf16 | .fp16 | .e4m3 | .e5m2 | .int8 | .int16 | .int32 | .cf32 | .cbf16 | .cb2 => none

/-- The arithmetic check of an instruction that admits the element types with a format (R105). -/
def arithCheck {α : Type} (admits : EType → Option α) : Cur → Slice → Option TrapRec :=
  fun c sl => if (admits (modeEtype sl.mode)).isSome then none else some (trapArith sl c)

/-! ### Modifier words (R57, R58) -/

/-- The modifier word in force: all fields 0 where there is none. -/
def modOf (m : Option Modifier) : Modifier := m.getD ⟨false, 0#6, false, 0#6, false, false, false, false⟩

/-- Saturation (R58). -/
def satOf (mode : Word) (m : Option Modifier) : Bool := modeOsat mode || (modOf m).sat

/-- SCALE as a signed number. -/
def scaleOf (m : Option Modifier) : Int := (modOf m).scale.toInt

/-- Absolute value, then negation (R58). -/
def signFp (abs neg : Bool) (v : FVal) : FVal :=
  let v := if abs then v.abs else v
  if neg then v.negate else v

def signInt (abs neg : Bool) (v : Int) : Int :=
  let v := if abs then (v.natAbs : Int) else v
  if neg then -v else v

/-- The clamp registers' values (R58). -/
def Slice.clampPair (sl : Slice) (m : Option Modifier) : Word × Word :=
  (sl.readS (modOf m).cls.toFin, sl.readS ((modOf m).cls + 1#6).toFin)

/-- The clamp of a float result (R58): the bounds are FP32 values, rounded into f where they are taken. -/
def clampFp (sl : Slice) (m : Option Modifier) (f : FpFmt) (y : Nat) : Nat :=
  let ftz := modeFtz sl.mode
  let rnd (v : FVal) : Nat := (roundFp f (modeRnd sl.mode) (satOf sl.mode m) ftz v).1
  let lo := decFp .fp32 ftz (sl.clampPair m).1.toNat
  let hi := decFp .fp32 ftz (sl.clampPair m).2.toNat
  if !(modOf m).clmp || (decFp f false y).isNan then y
  else
    let y := if (decFp f false y).lt lo then rnd lo else y
    if hi.lt (decFp f false y) then rnd hi else y

/-- The clamp of an integer result (R58): the bounds are INT32 values. -/
def clampInt (sl : Slice) (m : Option Modifier) (n : Nat) (y : Int) : Int :=
  let lo := (sl.clampPair m).1.toInt
  let hi := (sl.clampPair m).2.toInt
  let sat := satOf sl.mode m
  if !(modOf m).clmp then y
  else
    let y := if y < lo then intRes lo n sat else y
    if hi < y then intRes hi n sat else y

/-- Scale, round and clamp a float result (R58). -/
def finishFp (sl : Slice) (m : Option Modifier) (f : FpFmt) (v : FVal × Flags) : Nat × Flags :=
  let y := roundFp f (modeRnd sl.mode) (satOf sl.mode m) (modeFtz sl.mode) (v.1.scale (scaleOf m))
  (clampFp sl m f y.1, v.2.or y.2)

/-- Scale, round and clamp an integer result (R58). -/
def finishInt (sl : Slice) (m : Option Modifier) (n : Nat) (v : Int) : Nat :=
  let r := (roundToInt (modeRnd sl.mode) (decide (v < 0)) v.natAbs (scaleOf m)).1
  intBits (clampInt sl m n (intRes r n (satOf sl.mode m))) n

/-! ### Issue of a vector instruction -/

/-- What issue knows of a vector instruction with destination d. -/
def vecIssue (srcs : Slice → List SrcUse) (d : VDst) (early : Cur → Slice → Option TrapRec) : Issue :=
  ⟨.perLane, false, srcs, fun _ => [vregName d.reg], noCheck, early⟩

/-- A vector instruction: `f` gives the result and the exceptions of each lane of the slice as it stood at issue (R103). -/
def State.vecOp (s : State) (srcs : Slice → List SrcUse) (d : VDst) (early : Cur → Slice → Option TrapRec)
    (f : Slice → Fin 4 → Word × Flags) : State :=
  s.issueLocal (vecIssue srcs d early) fun m sl =>
    (sl.setV d m.active (Lanes.ofFn fun i => (f m i).1)).raise (flagsOf m.active fun i => (f m i).2)

/-- The uses of two sources and a modifier's clamp pair. -/
def twoUses (a b : VSrc) (m : Option Modifier) : Slice → List SrcUse :=
  fun sl => vsUses a 1 ++ vsUses b 2 ++ sl.clampUses m

/-- The uses of one source and a modifier's clamp pair. -/
def oneUse (a : VSrc) (m : Option Modifier) : Slice → List SrcUse := fun sl => vsUses a 1 ++ sl.clampUses m

/-- A two-source instruction on the lanes' words. -/
def State.vec2 (s : State) (d : VDst) (a b : VSrc) (m : Option Modifier) (early : Cur → Slice → Option TrapRec)
    (f : Slice → Word → Word → Word → Word × Flags) : State :=
  s.vecOp (twoUses a b m) d early fun sl i =>
    f sl ((sl.readV a.reg).get i) ((sl.readV b.reg).get i) ((sl.readReg d.reg).get i)

/-- A one-source instruction on the lanes' words. -/
def State.vec1 (s : State) (d : VDst) (a : VSrc) (m : Option Modifier) (early : Cur → Slice → Option TrapRec)
    (f : Slice → Word → Word → Word × Flags) : State :=
  s.vecOp (oneUse a m) d early fun sl i => f sl ((sl.readV a.reg).get i) ((sl.readReg d.reg).get i)

/-- A comparison: each active lane's bit of a predicate, and the exceptions. -/
def State.vecCmp (s : State) (p : PReg) (a b : VSrc) (m : Option Modifier) (early : Cur → Slice → Option TrapRec)
    (f : Slice → Word → Word → Bool × Flags) : State :=
  s.issueLocal (Issue.mk .perLane false (twoUses a b m) (fun _ => []) noCheck early) fun sl t =>
    let r (i : Fin 4) := f sl ((sl.readV a.reg).get i) ((sl.readV b.reg).get i)
    (t.setP p sl.active ((List.finRange 4).foldl (fun acc i => acc ||| ((BitVec.ofBool (r i).1).setWidth 4 <<< i.val)) 0#4)).raise
      (flagsOf sl.active fun i => (r i).2)

/-! ### Integer and float forms -/

/-- An integer operation per element with the full modifier word (R110). -/
def intForm (m : Option Modifier) (op : Int → Int → Int → Int) (sl : Slice) (a b d : Word) : Word × Flags :=
  let n := intWidth (modeEtype sl.mode)
  let w := modOf m
  elemOp n a b d fun x y z =>
    (finishInt sl m n (op (signInt w.absa w.nega (intOfBits x n)) (signInt w.absb w.negb (intOfBits y n)) (intOfBits z n)),
     Flags.none)

/-- An operation on element patterns, which takes no modifier. -/
def patForm (op : Nat → Nat → Nat → Nat) (sl : Slice) (a b d : Word) : Word × Flags :=
  let n := intWidth (modeEtype sl.mode)
  elemOp n a b d fun x y _ => (op n x y, Flags.none)

/-- The format of a slice's real float type; the arithmetic trap has seen to it that there is one. -/
def Slice.realFmt (sl : Slice) : FpFmt := (Sys2Proof.Machine.realFmt (modeEtype sl.mode)).getD .fp32

/-- A float operation per element with the full modifier word (R115). -/
def fpForm (m : Option Modifier) (op : Rnd → FVal → FVal → FVal → FVal × Flags) (sl : Slice) (a b d : Word) : Word × Flags :=
  let f := sl.realFmt
  let ftz := modeFtz sl.mode
  let w := modOf m
  elemOp (fmtWidth f) a b d fun x y z =>
    finishFp sl m f (op (modeRnd sl.mode) (signFp w.absa w.nega (decFp f ftz x)) (signFp w.absb w.negb (decFp f ftz y))
      (decFp f ftz z))

/-- A product and a sum, exact (R23). -/
def fmaExact (rm : Rnd) (a b d : FVal) : FVal × Flags :=
  let p := a.mul b
  let r := FVal.add rm p.1 d
  (r.1, p.2.or r.2)

/-! ### Complex forms (R14, R120) -/

/-- The even and the odd lane of the pair a lane belongs to. -/
def evenLane (i : Fin 4) : Fin 4 := ⟨i.val / 2 * 2, by omega⟩
def oddLane (i : Fin 4) : Fin 4 := ⟨i.val / 2 * 2 + 1, by omega⟩

/-- A complex value: real and imaginary part. -/
structure Cplx where
  re : FVal
  im : FVal
deriving DecidableEq, Repr

/-- Complex element j of the pair of lane i. -/
def cplxAt (f : FpFmt) (ftz : Bool) (x : Lanes) (i : Fin 4) (j : Nat) : Cplx :=
  ⟨decFp f ftz (elem (fmtWidth f) (x.get (evenLane i)) j), decFp f ftz (elem (fmtWidth f) (x.get (oddLane i)) j)⟩

/-- The component format of a slice's complex type. -/
def Slice.complexFmt (sl : Slice) : FpFmt := (Sys2Proof.Machine.complexFmt (modeEtype sl.mode)).getD .fp32

/-- One lane of a complex result: the real parts in an even lane, the imaginary parts in an odd one. -/
def cplxLane (f : FpFmt) (i : Fin 4) (op : Nat → Bool → Nat × Flags) : Word × Flags :=
  let rs := (List.range (32 / fmtWidth f)).map fun j => op j (i.val % 2 == 1)
  (packElems (fmtWidth f) (rs.map (·.1)), rs.foldl (fun acc r => acc.or r.2) Flags.none)

end Sys2Proof.Machine
end

