-- ==== Sys2Proof/Machine/Lanewise.lean ====
section
/-! DEFINITION. Groups 0x7 and 0x8: conversions (R124–R131) and cross-lane instructions (R132–R136). -/

set_option Elab.async false

namespace Sys2Proof.Machine

/-! ### FCVT, FTOI, ITOF (R125, R126) -/

/-- r of R125. -/
def partCount (ws wd : Nat) : Nat := max ws wd / min ws wd

/-- The destination width of a conversion. -/
def Slice.cvtWidth (sl : Slice) : Nat := etypeWidth (modeEtype sl.mode)

/-- The checks of a conversion: the destination type, then the part index against r (R125, R376). -/
def cvtCheck {α : Type} (admits : EType → Option α) (ws k : Nat) : Cur → Slice → Option TrapRec := fun c sl =>
  match arithCheck admits c sl with
  | some t => some t
  | none => if partCount ws sl.cvtWidth ≤ k then some (trapIllegal sl c 3) else none

/-- The elements of a conversion with part index k (R125): source and destination lanes, and conv with its exceptions. -/
def convLane (ws wd k : Nat) (a d : Word) (conv : Nat → Nat × Flags) : Word × Flags :=
  if wd ≤ ws then
    let n := 32 / ws
    let rs := (List.range n).map fun j => conv (elem ws a j)
    let es := (laneElems wd d).zipIdx.map fun (x, i) => if k * n ≤ i ∧ i < k * n + n then (rs.map (·.1)).getD (i - k * n) 0 else x
    (packElems wd es, rs.foldl (fun acc r => acc.or r.2) Flags.none)
  else
    let n := 32 / wd
    let rs := (List.range n).map fun j => conv (elem ws a (k * n + j))
    (packElems wd (rs.map (·.1)), rs.foldl (fun acc r => acc.or r.2) Flags.none)

/-- A conversion instruction. It reads its destination exactly when it narrows (R106), and waits for it anyway (R36). -/
def State.cvtOp {α : Type} (s : State) (d : VDst) (a : VSrc) (m : Option Modifier) (admits : EType → Option α) (ws k : Nat)
    (conv : Slice → Nat → Nat × Flags) : State :=
  s.vec1 d a m (cvtCheck admits ws k) fun sl x z => convLane ws sl.cvtWidth k x z (conv sl)

/-- FCVT (R126). -/
def execFcvt (d : VDst) (a : VSrc) (b : CvtF) (m : Option Modifier) (s : State) : Host.Outcome State Fault Refusal :=
  .next (s.cvtOp d a m cvtFmt (fmtWidth b.src) b.k.val fun sl x =>
    let v := decFp b.src (modeFtz sl.mode) x
    finishFp sl m ((cvtFmt (modeEtype sl.mode)).getD .fp32) (v, if v.isSig then Flags.invalid else Flags.none))

/-- FTOI (R126): the result always clamps. -/
def execFtoi (d : VDst) (a : VSrc) (b : CvtF) (m : Option Modifier) (s : State) : Host.Outcome State Fault Refusal :=
  .next (s.cvtOp d a m cvtInts (fmtWidth b.src) b.k.val fun sl x =>
    let n := sl.cvtWidth
    let r := cvtInt n (modeRnd sl.mode) ((decFp b.src (modeFtz sl.mode) x).scale (scaleOf m))
    (intBits r.1 n, r.2))

/-- ITOF (R126): the rounding does not flush. -/
def execItof (d : VDst) (a : VSrc) (b : CvtI) (m : Option Modifier) (s : State) : Host.Outcome State Fault Refusal :=
  .next (s.cvtOp d a m cvtFmt (intFmtWidth b.src) b.k.val fun sl x =>
    let f := (cvtFmt (modeEtype sl.mode)).getD .fp32
    let y := roundFp f (modeRnd sl.mode) (satOf sl.mode m) false
      ((FVal.ofInt (intOfBits x (intFmtWidth b.src))).scale (scaleOf m))
    (clampFp sl m f y.1, y.2))

/-! ### PACK, UNPK (R128) -/

/-- The width of PACK (R128). -/
def packWidth (t : EType) : Option Nat :=
  match t with
  | .bf16 | .fp16 | .int16 => some 16
  | .e4m3 | .e5m2 | .int8 | .mxE4m3 | .mxE5m2 => some 8
  | .mxfp4 => some 4
  | .fp32 | .int32 | .cf32 | .cbf16 | .cb2 => none

/-- PACK (R128): the even elements of A, then those of B. -/
def execPack (d : VDst) (a b : VSrc) (m : Option Modifier) (s : State) : Host.Outcome State Fault Refusal :=
  .next (s.vec2 d a b m (arithCheck packWidth) fun sl x y _ =>
    let w := (packWidth (modeEtype sl.mode)).getD 16
    let evens (z : Word) := (List.range (16 / w)).map fun j => elem w z (2 * j)
    quiet (packElems w (evens x ++ evens y)))

/-- The width of UNPK (R128). -/
def unpkWidth (t : EType) : Option Nat :=
  match t with
  | .int8 => some 8
  | .int16 => some 16
  | .fp32 | .bf16 | .fp16 | .e4m3 | .e5m2 | .mxE4m3 | .mxE5m2 | .mxfp4 | .int32 | .cf32 | .cbf16 | .cb2 => none

/-- UNPK (R128): half h, sign-extended or zero-extended. -/
def execUnpk (d : VDst) (a : VSrc) (b : UnpkB) (m : Option Modifier) (s : State) : Host.Outcome State Fault Refusal :=
  .next (s.vec1 d a m (arithCheck unpkWidth) fun sl x _ =>
    let w := (unpkWidth (modeEtype sl.mode)).getD 8
    let h := if b.h then 16 / w else 0
    let widen (e : Nat) : Nat := if b.zx then e else intBits (intOfBits e w) (2 * w)
    quiet (packElems (2 * w) ((List.range (16 / w)).map fun j => widen (elem w x (h + j)))))

/-! ### MXQ, MXDQ, CBD (R129–R131) -/

/-- The members of the issuing gang as they stand. -/
def State.gangMembers (s : State) (c : Cur) : List Slice :=
  match s.gang? c.gid with
  | some g => s.membersOf g
  | none => []

/-- emax_g of R129. -/
def mxEmax (f : FpFmt) : Int :=
  match f with
  | .e4m3 => 8 | .e5m2 => 15 | .e2m1 => 2
  | .fp32 => 127 | .bf16 => 127 | .fp16 => 15

/-- The block scale of MXQ (R129), for a member's mode. -/
def mxScale (mode : Word) (f : FpFmt) (xs : List FVal) : Nat :=
  if modeUnitScale mode then 0x7F
  else if xs.any fun x => x.isNan || x.isInf then 0xFF
  else match maxExpo xs with
    | none => 0x7F
    | some e => (min (max (e - mxEmax f + 127) 0) 254).toNat

/-- One lane of MXQ (R129). -/
def mxqLane (mode : Word) (f : FpFmt) (sc : Nat) (x : FVal) : Word × Flags :=
  let sig : Flags := if x.isSig then .invalid else .none
  let e : Nat × Flags :=
    if sc = 0xFF ∨ x.isNan then (qnanBits f, if f == .e2m1 then .invalid else .none)
    else roundFp f (modeRnd mode) true false (x.scale (127 - sc))
  (BitVec.ofNat 32 (256 * sc + e.1), sig.or e.2)

/-- MXQ (R129): the block is the active lanes of the gang. -/
def execMxq (d : VDst) (a : VSrc) (m : Option Modifier) (s : State) : Host.Outcome State Fault Refusal :=
  .next (s.issue (vecIssue (oneUse a m) d (arithCheck mxFmt)) noHold fun _ ms t =>
    let xs (mode : Word) : List FVal := ms.flatMap fun o =>
      (lanesOf o.active).map fun i => decFp .fp32 (modeFtz mode) ((o.readV a.reg).get i).toNat
    ms.foldl (fun y o => y.modSlice o.sid fun sl =>
      let f := (mxFmt (modeEtype o.mode)).getD .e4m3
      let sc := mxScale o.mode f (xs o.mode)
      let r (i : Fin 4) := mxqLane o.mode f sc (decFp .fp32 (modeFtz o.mode) ((o.readV a.reg).get i).toNat)
      (sl.setV d o.active (Lanes.ofFn fun i => (r i).1)).raise (flagsOf o.active fun i => (r i).2)) t)

/-- MXDQ (R130). -/
def execMxdq (d : VDst) (a : VSrc) (m : Option Modifier) (s : State) : Host.Outcome State Fault Refusal :=
  .next (s.vec1 d a m (arithCheck mxFmt) fun sl x _ =>
    let f := (mxFmt (modeEtype sl.mode)).getD .e4m3
    let y := roundFp .fp32 (modeRnd sl.mode) (modeOsat sl.mode) (modeFtz sl.mode)
      (mxDec f (modeUnitScale sl.mode) (elem 8 x 1) (elem (fmtWidth f) x 0))
    (BitVec.ofNat 32 y.1, y.2))

/-- An entry of a context's shell table (R16). -/
def State.shellEntry (s : State) (cx : Fin 17) (table : Nat) (shell : Nat) : Word :=
  BitVec.ofNat 32 (readLE (s.ctx cx).shells (1024 * table + 4 * shell) 4)

/-- The rounded pattern of a CB2 weight in a target (R17, R131). A BF16 result below the smallest normal stays, whatever MODE.FTZ: R17
gives the whole rounding, R20's flush would set flags that CBD never sets, and CBDC, which has no MODE, writes the same bytes (R241;
DEDUCED, log 70). -/
def cbdPattern (f : FpFmt) (v : FVal) : Nat := if v.isNan then qnanBits f else cb2Round f v

/-- CBD (R131): ETYPE is not read; no flag. -/
def execCbd (d : VDst) (a : VSrc) (b : CbdB) (m : Option Modifier) (s : State) : Host.Outcome State Fault Refusal :=
  .next (s.vec1 d a m noCheck fun sl x _ =>
    let idx := x.extractLsb' 0 16
    let entry := s.shellEntry (s.ctxOfWave sl.wave) (modeTable sl.mode).val (idx.extractLsb' 8 8).toNat
    let w (i : Nat) : FVal := cb2Weight entry idx (elem 8 x 2) i
    quiet (match b.fmt with
      | .e4m3 => packElems 8 ((List.range 4).map fun j => cbdPattern .e4m3 (w (4 * b.k.val + j)))
      | .e5m2 => packElems 8 ((List.range 4).map fun j => cbdPattern .e5m2 (w (4 * b.k.val + j)))
      | .bf16 => packElems 16 ((List.range 2).map fun j => cbdPattern .bf16 (w (2 * b.k.val + j)))))

/-! ### Cross-lane (R132–R136) -/

/-- The slices whose lanes are in the scope of an instruction of a member: the gang, or itself (R132). -/
def scopeOf (gang : Bool) (all : List Slice) (m : Slice) : List Slice := if gang then all else [m]

/-- A cross-lane instruction with a vector result: `f` is given the gang's members, the member and its lane (R132). -/
def State.crossOp (s : State) (d : VDst) (srcs : Slice → List SrcUse) (early : Cur → Slice → Option TrapRec)
    (hold : Cur → List Slice → State → Bool) (f : List Slice → Slice → Fin 4 → Word × Flags) : State :=
  s.issue (vecIssue srcs d early) hold fun c ms t =>
    let all := t.gangMembers c
    ms.foldl (fun x m => x.modSlice m.sid fun sl =>
      (sl.setV d m.active (Lanes.ofFn fun i => (f all m i).1)).raise (flagsOf m.active fun i => (f all m i).2)) t

/-- The bits of a ballot (R133): the active lanes in scope whose bit of the predicate is set. -/
def ballotBits (p : PReg) (ms : List Slice) : Word :=
  ms.foldl (fun acc m => acc ||| (((m.active &&& m.p.get p).setWidth 32 : Word) <<< (4 * m.pos))) 0#32

/-- VBALLOT (R133). -/
def execVballot (d : VDst) (a : PReg) (b : Bool) (s : State) : Host.Outcome State Fault Refusal :=
  .next (s.crossOp d (fun _ => []) noCheck noHold fun all m _ => quiet (ballotBits a (scopeOf b all m)))

/-- VPOPC (R133): the set bits below the lane's own position, or all of them. -/
def execVpopc (d : VDst) (a : VSrc) (b : Bool) (s : State) : Host.Outcome State Fault Refusal :=
  .next (s.crossOp d (fun _ => vsUses a 1) noCheck noHold fun _ m i =>
    let x := ((m.readV a.reg).get i).toNat
    quiet (BitVec.ofNat 32 (popcount' (if b then 32 else 4 * m.pos + i.val) x)))
where
  /-- The set bits among the lowest n. -/
  popcount' (n x : Nat) : Nat := ((List.range n).filter fun k => x.testBit k).length

/-- The value of a source in an octet lane of a gang; 0 where no member stands there (R134). -/
def laneOf (all : List Slice) (r : VSrcReg) (j : Nat) : Word :=
  match all.find? fun m => m.pos == j / 4 with
  | some m => if 32 ≤ j then 0#32 else (m.readV r).get (Fin.ofNat 4 j)
  | none => 0#32

/-- A member of the gang, active or not, has an empty source register: the shuffle waits for it (R136, R137). -/
def gangEmpty (a : VSrc) : Cur → List Slice → State → Bool := fun c ms t =>
  !ms.isEmpty && (t.gangMembers c).any fun m => (vsUses a 1).any fun u => !m.isFull u.reg

/-- VSHUF (R134). -/
def execVshuf (d : VDst) (a b : VSrc) (s : State) : Host.Outcome State Fault Refusal :=
  .next (s.crossOp d (fun _ => vsUses a 1 ++ vsUses b 2) noCheck (gangEmpty a) fun all m i =>
    quiet (laneOf all a.reg ((m.readV b.reg).get i).toNat))

/-- VBCAST (R134): VSHUF with one lane number. -/
def execVbcast (d : VDst) (a : VSrc) (b : Fin 32) (s : State) : Host.Outcome State Fault Refusal :=
  .next (s.crossOp d (fun _ => vsUses a 1) noCheck (gangEmpty a) fun all _ _ => quiet (laneOf all a.reg b.val))

/-- VMOVS (R134): a lane of the slice into a scalar, active or not. -/
def execVmovs (d : SReg) (a : VSrc) (b : Fin 4) (s : State) : Host.Outcome State Fault Refusal :=
  .next (s.issueLocal (Issue.regs (fun _ => vsUses a 1) fun sl => [sl.sname d]) fun m sl =>
    sl.setS d ((m.readV a.reg).get b))

/-- Whether VRED and VSCAN admit an element type under an operation (R135); the format chosen, or integers. -/
def redAdmits (op : RedOp) (t : EType) : Option (Option FpFmt) :=
  match t with
  | .cf32 | .cbf16 => none
  | .fp32 | .bf16 | .fp16 => (match op with
    | .minu | .maxu => none
    | .add | .min | .max | .and | .or | .xor => some (realFmt t))
  | .e4m3 | .e5m2 | .mxE4m3 | .mxE5m2 | .mxfp4 | .int8 | .int16 | .int32 | .cb2 => some none

/-- The bitwise operations, which work on the lane's 32 bits whatever the element type (R135). -/
def redBitwise (op : RedOp) : Bool :=
  match op with
  | .and | .or | .xor => true
  | .add | .min | .max | .minu | .maxu => false

/-- The element width of a reduction. -/
def redWidth (op : RedOp) (t : EType) : Nat :=
  if redBitwise op then 32
  else match realFmt t with
    | some f => fmtWidth f
    | none => intWidth t

/-- The operation of a reduction on two elements, with its exceptions (R135). -/
def redStep (mode : Word) (op : RedOp) (x y : Nat) : Nat × Flags :=
  let t := modeEtype mode
  let n := redWidth op t
  match op with
  | .and => (x &&& y, Flags.none)
  | .or => (x ||| y, Flags.none)
  | .xor => (x ^^^ y, Flags.none)
  | .minu => (min x y, Flags.none)
  | .maxu => (max x y, Flags.none)
  | .add => (match realFmt t with
    | some f =>
      let v := FVal.add (modeRnd mode) (decFp f (modeFtz mode) x) (decFp f (modeFtz mode) y)
      let r := roundFp f (modeRnd mode) (modeOsat mode) (modeFtz mode) v.1
      (r.1, v.2.or r.2)
    | none => (intBits (intRes (intOfBits x n + intOfBits y n) n (modeOsat mode)) n, Flags.none))
  | .min => (match realFmt t with
    | some f =>
      let r := fminmax f false (decFp f (modeFtz mode) x) (decFp f (modeFtz mode) y)
      (bitsOf f r.1, r.2)
    | none => (if intOfBits x n < intOfBits y n then x else y, Flags.none))
  | .max => (match realFmt t with
    | some f =>
      let r := fminmax f true (decFp f (modeFtz mode) x) (decFp f (modeFtz mode) y)
      (bitsOf f r.1, r.2)
    | none => (if intOfBits x n < intOfBits y n then y else x, Flags.none))

/-- The identity of an operation (R135). -/
def redIdentity (mode : Word) (op : RedOp) : Nat :=
  let t := modeEtype mode
  let n := redWidth op t
  match op with
  | .add | .or | .xor | .maxu => 0
  | .and | .minu => 2 ^ n - 1
  | .min => (match realFmt t with
    | some f => infBits f
    | none => 2 ^ (n - 1) - 1)
  | .max => (match realFmt t with
    | some f => signWeight f true + infBits f
    | none => 2 ^ (n - 1))

/-- The operation on two lanes, element by element; exceptions accumulate with those the operands carry. -/
def redLane (mode : Word) (op : RedOp) (a b : Word × Flags) : Word × Flags :=
  let w := redWidth op (modeEtype mode)
  let r := elemOp w a.1 b.1 0#32 fun x y _ => redStep mode op x y
  (r.1, (a.2.or b.2).or r.2)

/-- The 32 octet lanes of the slices in scope: the value of an active lane, none elsewhere (R132). -/
def activeLanes (ms : List Slice) (r : VSrcReg) : List (Option Word) :=
  (List.range 32).map fun j => match ms.find? fun m => m.pos == j / 4 with
    | some m => if m.active.getLsbD (j % 4) then some ((m.readV r).get (Fin.ofNat 4 j)) else none
    | none => none

/-- The value and the exceptions of a reduction for a member (R25, R135): the tree over the lanes in scope, the identity where no lane is
active. -/
def redTree (b : RedB) (r : VSrcReg) (all : List Slice) (m : Slice) : Word × Flags :=
  (treeRed (redLane m.mode b.op) 5 ((activeLanes (scopeOf b.gang all m) r).map fun x => x.map quiet)).getD
    (packElems (redWidth b.op (modeEtype m.mode))
      (List.replicate (32 / redWidth b.op (modeEtype m.mode)) (redIdentity m.mode b.op)), Flags.none)

/-- What VRED does to a slice: an active lane is written; in gang scope a member without an active lane gains the exceptions too
(R135, R137). -/
def redSlice (d : VDst) (a : VSrc) (b : RedB) (all : List Slice) (m sl : Slice) : Slice :=
  let r := redTree b a.reg all m
  if m.active != 0#4 then (sl.setV d m.active (Lanes.all r.1)).raise r.2
  else if b.gang && (redAdmits b.op (modeEtype m.mode)).isSome then sl.raise r.2
  else sl

/-- VRED (R135): every member gains the exceptions of every node (R137). -/
def execVred (d : VDst) (a : VSrc) (b : RedB) (s : State) : Host.Outcome State Fault Refusal :=
  .next (s.issue (vecIssue (fun _ => vsUses a 1) d (arithCheck (redAdmits b.op))) noHold fun c _ t =>
    (t.gangMembers c).foldl (fun x m => x.modSlice m.sid (redSlice d a b (t.gangMembers c) m)) t)

/-- The scan up to each lane: what VSCAN writes there and the exceptions of the steps up to it (R135). -/
def scanList (mode : Word) (op : RedOp) (excl : Bool) (ident : Word) (acc : Option (Word × Flags)) (xs : List (Option Word)) :
    List (Word × Flags) :=
  match xs with
  | [] => []
  | none :: t => (0#32, Flags.none) :: scanList mode op excl ident acc t
  | some x :: t =>
    let next := match acc with
      | none => quiet x
      | some v => redLane mode op v (quiet x)
    (if excl then (acc.getD (quiet ident)) else next) :: scanList mode op excl ident (some next) t

/-- VSCAN (R135): strictly in lane order. -/
def execVscan (d : VDst) (a : VSrc) (b : ScanB) (s : State) : Host.Outcome State Fault Refusal :=
  .next (s.crossOp d (fun _ => vsUses a 1) (arithCheck (redAdmits b.op)) noHold fun all m i =>
    let w := redWidth b.op (modeEtype m.mode)
    let ident := packElems w (List.replicate (32 / w) (redIdentity m.mode b.op))
    (scanList m.mode b.op b.excl ident none (activeLanes (scopeOf b.gang all m) a.reg)).getD (4 * m.pos + i.val) (quiet ident))

end Sys2Proof.Machine
end

