-- ==== Sys2Proof/Machine/Handler.lean ====
section
/-! DEFINITION. FPOOL and PTEW, with which a handler maps a page without the host (R177, R265). -/

set_option Elab.async false

namespace Sys2Proof.Machine

/-! ### PTEW (R177) -/

/-- The bytes a leaf of a size maps. -/
def pageBytes (size : Fin 3) : Nat := 2 ^ pageShift size

/-- Whether an entry operand is invalid (R177, status 0x03): [15:8], SIZE, [4], V, the frame's alignment and PA[63:39]. -/
def ptewInvalid (e : DWord) : Bool :=
  e.extractLsb' 8 8 != 0#8 || e.extractLsb' 6 2 == 3#2 || e.getLsbD 4 || !e.getLsbD 0 ||
  decide ((leafOf e).frame % pageBytes (leafOf e).size ≠ 0) || e.extractLsb' 39 25 != 0#25

/-- The walk of PTEW in one copy of the tree: the status, or the entry to write (R177). -/
def ptewWalk (rd : Nat → DWord) (ls : List (Nat × Nat × Option (Fin 3))) (size : Fin 3) (table va : Nat) : Nat ⊕ Nat :=
  match ls with
  | [] => .inl 2
  | (sh, w, sz) :: rest =>
    let pa := table + 8 * (va / 2 ^ sh % 2 ^ w)
    let e := rd pa
    let ptr := e.getLsbD 0 && e.extractLsb' 6 2 == 3#2
    if sz = some size then
      if ptr then .inl 2
      else if e.getLsbD 0 then .inl (if e.extractLsb' 6 2 = BitVec.ofNat 2 size.val then 1 else 2)
      else .inr pa
    else if ptr then ptewWalk rd rest size ((e.extractLsb' 8 56).toNat * 256) va
    else .inl 2

/-- The root of a context's copy in a stack. -/
def State.root (s : State) (c : Fin 17) (stack : Nat) : Nat := ((s.ctx c).roots.toList.getD stack 0#64).toNat

/-- Write a leaf entry into every copy of the tree that has a place for it (R265). -/
def State.writeLeaf (s : State) (c : Fin 17) (size : Fin 3) (va : Nat) (e : DWord) : State :=
  (List.range 8).foldl (fun t k => match ptewWalk t.tableWord levels size (t.root c k) va with
    | .inr pa => t.physWrite 0 pa (toBytes 8 e.toNat)
    | .inl _ => t) s

/-- PTEW in a context: its status and its effect. -/
def State.ptew (s : State) (c : Fin 17) (va entry : DWord) : Word × State :=
  if ptewInvalid entry then (3#32, s)
  else if windowOf va ≠ some .global then (4#32, s)
  else
    let size := (leafOf entry).size
    let asid := s.asidOf c
    let base := offsetOf va / pageBytes size * pageBytes size
    match ptewWalk s.tableWord levels size (s.root c (walkStack asid base)) base with
    | .inl k => (BitVec.ofNat 32 k, s)
    | .inr _ => (0#32, (((s.writeLeaf c size base entry).dropTlb asid (offsetOf va)).installed asid base (pageBytes size)))

/-- PTEW (R177): supervisor-only, scalar; its status fills later. -/
def execPtew (d : SReg) (a b : SPairSrc) (s : State) : Host.Outcome State Fault Refusal :=
  .next (s.issue ⟨.guarded, true, fun sl => sl.spUses a 1 ++ sl.spUses b 2, fun sl => [sl.sname d], noCheck, noCheck⟩ noHold
    fun c ms t => ms.foldl (fun x m =>
      (x.markEmpty m.sid [m.sname d]).addTxn (.ptew (m.readPair a.reg) (m.readPair b.reg)) m 8 true [m.part c [m.sname d]] []) t)

/-! ### FPOOL (R177) -/

/-- The entry value of a frame: V = 1, SIZE, no permission. -/
def frameEntry (frame : Nat) (big : Bool) : DWord := BitVec.ofNat 64 frame ||| (if big then 0x41#64 else 1#64)

/-- The pool of a size in a domain (R177). -/
def Ctx.pool (c : Ctx) (big : Bool) (dom : Fin 4) : List Nat :=
  ((c.pools.find? fun p => p.big == big && p.dom == dom).map (·.frames)).getD []

/-- Replace the frames of a pool. -/
def Ctx.setPool (c : Ctx) (big : Bool) (dom : Fin 4) (fs : List Nat) : Ctx :=
  { c with pools := ⟨dom, big, fs⟩ :: c.pools.filter fun p => !(p.big == big && p.dom == dom) }

/-- Take a frame from a pool: its entry value, or 0 where the pool is empty. -/
def State.takeFrame (s : State) (c : Fin 17) (big : Bool) (dom : Fin 4) : DWord × State :=
  match (s.ctx c).pool big dom with
  | [] => (0#64, s)
  | f :: t => (frameEntry f big, s.setCtx c ((s.ctx c).setPool big dom t))

/-- FPOOL (R177): `a` is the size 2 MiB, `b` the domain, or 4 for the slice's own. -/
def execFpool (d : SPairReg) (a : Bool) (b : Fin 5) (s : State) : Host.Outcome State Fault Refusal :=
  .next (s.issue ⟨.guarded, true, fun _ => [], fun sl => sl.pairNames d, noCheck, noCheck⟩ noHold
    fun c ms t => ms.foldl (fun x m =>
      (x.markEmpty m.sid (m.pairNames d)).addTxn
        (.fpool a (if b.val = 4 then Fin.ofNat 4 (dieOfCore m.core) else Fin.ofNat 4 b.val)) m 8 true
        [m.part c (m.pairNames d)] []) t)

end Sys2Proof.Machine
end

