-- ==== Sys2Proof/Machine/Tree.lean ====
section
/-! DEFINITION. The rank tree (R285–R300): nodes and their descriptors, rank order, rank programs, refresh, task records and their
checks, pushing a task, and QPUSH (R100). -/

set_option Elab.async false

namespace Sys2Proof.Machine

/-! ### Node ids (R285) -/

/-- What a node id names. -/
inductive NodeKind where
  | inner
  | wave (core : Nat)
  | matrix (core : Nat)
  | copy (core : Nat)
  | copyEngine (cluster : Nat)
  | gather (cluster : Nat)
  | fabric (group : Nat)
  | network
deriving DecidableEq, Repr

/-- The node an id names, if any (R285). -/
def nodeKind (node : BitVec 16) : Option NodeKind :=
  let i := node.toNat
  if i < 0x100 then some .inner
  else if i < 0x400 then
    match (i - 0x100) % 4 with
    | 0 => some (.wave ((i - 0x100) / 4))
    | 1 => some (.matrix ((i - 0x100) / 4))
    | 2 => some (.copy ((i - 0x100) / 4))
    | _ => none
  else if i < 0x430 then (if i % 2 = 0 then some (.copyEngine ((i - 0x400) / 2)) else some (.gather ((i - 0x400) / 2)))
  else if 0x500 ≤ i ∧ i < 0x509 then some (.fabric (i - 0x500))
  else if i = 0x580 then some .network
  else none

/-- The leaves of a core (R285). -/
def waveLeaf (core : Nat) : BitVec 16 := BitVec.ofNat 16 (0x100 + 4 * core)
def matrixLeaf (core : Nat) : BitVec 16 := BitVec.ofNat 16 (0x100 + 4 * core + 1)
def copyLeaf (core : Nat) : BitVec 16 := BitVec.ofNat 16 (0x100 + 4 * core + 2)

/-- The leaves of a cluster, of a link group, and of the network engine (R285). -/
def engineLeaf (cluster : Nat) : BitVec 16 := BitVec.ofNat 16 (0x400 + 2 * cluster)
def gatherLeaf (cluster : Nat) : BitVec 16 := BitVec.ofNat 16 (0x400 + 2 * cluster + 1)
def fabricLeaf (group : Nat) : BitVec 16 := BitVec.ofNat 16 (0x500 + group)
def networkLeaf : BitVec 16 := 0x580#16

/-- Whether an id names an inner node. -/
def isInner (node : BitVec 16) : Bool := nodeKind node == some .inner

/-! ### Descriptors (R286) -/

def descK (d : BitVec 512) : BitVec 128 := d.extractLsb' 384 128
def descN (d : BitVec 512) : BitVec 128 := d.extractLsb' 256 128
def descM (d : BitVec 512) : Nat := (d.extractLsb' 64 16).toNat
def descDepth (d : BitVec 512) : Nat := (d.extractLsb' 58 6).toNat
def descProg (d : BitVec 512) : Fin 64 := (d.extractLsb' 48 6).toFin
def descCap (d : BitVec 512) : Nat := (d.extractLsb' 32 16).toNat
def descParent (d : BitVec 512) : BitVec 16 := d.extractLsb' 16 16
def descCtx (d : BitVec 512) : Nat := (d.extractLsb' 0 5).toNat
def descRefresh (d : BitVec 512) : Nat := (d.extractLsb' 54 4).toNat

/-- The owner of a node (R286). -/
def descOwner (d : BitVec 512) : Fin 17 := Fin.ofNat 17 (descCtx d)

/-- Put N0–N7 into a descriptor. -/
def descWithN (d : BitVec 512) (n : BitVec 128) : BitVec 512 := d.extractLsb' 384 128 ++ n ++ d.extractLsb' 0 256

/-- The descriptor at reset: PROG 1 for a leaf, 0 for a fabric leaf and an inner node; no parent (R286). -/
def descReset (node : BitVec 16) : BitVec 512 :=
  let prog : BitVec 512 := match nodeKind node with
    | some .inner => 0#512
    | some (.fabric _) => 0#512
    | _ => 1#512 <<< 48
  prog ||| (0xFFFF#512 <<< 16)

/-- A node; as at reset if nothing has changed it. -/
def State.node (s : State) (node : BitVec 16) : NodeRec :=
  (s.nodes.find? fun n => n.node == node).getD ⟨node, descReset node, [], 0#48, 0#48, 0#48, 0#48⟩

/-- Replace a node. -/
def State.setNode (s : State) (n : NodeRec) : State := { s with nodes := n :: s.nodes.filter fun x => x.node != n.node }

/-- A node's entries, head first. -/
def State.entries (s : State) (node : BitVec 16) : List Entry := (s.node node).entries

/-- Change a node's entries. -/
def State.modEntries (s : State) (node : BitVec 16) (f : List Entry → List Entry) : State :=
  let n := s.node node
  s.setNode { n with entries := f n.entries }

/-- Take an entry out of a node. -/
def State.dropEntry (s : State) (node : BitVec 16) (id : Nat) : State := s.modEntries node fun es => es.filter fun e => e.id != id

/-- The head of an inner node leaves it (R303); how long it has waited for room is free (log 17), and counted in HOLB (R311). -/
def State.releaseEntry (s : State) (node : BitVec 16) (id : Nat) : State :=
  let n := s.node node
  { (s.setNode { n with
      entries := n.entries.filter fun e => e.id != id
      holb := n.holb + Config.headWait s.ticks }) with ticks := s.ticks + 1 }

/-- Whether a node has room for one more entry (R285): a leaf holds 64, an inner node CAP. -/
def State.nodeRoom (s : State) (node : BitVec 16) : Bool :=
  let n := s.node node
  decide (n.entries.length < if isInner node then descCap n.desc else 64)

/-- Whether an id names a node in use: an inner node with CAP = 0 counts as unknown (R285). -/
def State.nodeKnown (s : State) (node : BitVec 16) : Bool :=
  match nodeKind node with
  | none => false
  | some .inner => descCap (s.node node).desc != 0
  | some _ => true

/-! ### Rank order (R287, R288) -/

/-- Rank a precedes rank b (R287). -/
def rankPrecedes (a b : BitVec 16) : Bool := decide (1 ≤ (b - a).toNat ∧ (b - a).toNat ≤ 32767)

/-- The scan of R288, on the entries from tail to head. -/
def insertFromTail (e : Entry) (es : List Entry) : List Entry :=
  match es with
  | [] => [e]
  | x :: t => if rankPrecedes e.rank x.rank then x :: insertFromTail e t else e :: x :: t

/-- Insert an entry into a node's entries, head first (R288). -/
def insertEntry (es : List Entry) (e : Entry) : List Entry := (insertFromTail e es.reverse).reverse

/-! ### Rank programs (R292–R295) -/

/-- A context's rank program (R292): as loaded, else as at reset. -/
def Ctx.prog (c : Ctx) (i : Fin 64) : BitVec 256 :=
  match c.progs.find? fun p => p.1 == i with
  | some p => p.2
  | none => if i = 0 then 0xE200684004013006#256 else if i = 1 then 0xE0000000#256 else 0xE000#256

/-- A step of a rank program (R292, R293). -/
def progStep (p : BitVec 256) (i : Nat) : BitVec 16 := p.extractLsb' (16 * i) 16

def stepOp (w : BitVec 16) : Nat := (w.extractLsb' 12 4).toNat
def stepD (w : BitVec 16) : Fin 4 := (w.extractLsb' 10 2).toFin
def stepA (w : BitVec 16) : Fin 4 := (w.extractLsb' 8 2).toFin
def stepB (w : BitVec 16) : Fin 4 := (w.extractLsb' 6 2).toFin
def stepImm (w : BitVec 16) : Nat := (w.extractLsb' 0 6).toNat

/-- Field i of eight 16-bit fields. -/
def field16 (x : BitVec 128) (i : Nat) : BitVec 16 := x.extractLsb' (16 * i) 16

/-- Replace field i of eight 16-bit fields. -/
def setField16 (x : BitVec 128) (i : Nat) (v : BitVec 16) : BitVec 128 :=
  (x &&& ~~~(0xFFFF#128 <<< (16 * i))) ||| (v.setWidth 128 <<< (16 * i))

/-- What a run reads (R293): the task's fields, the node's state and constants, the time and T0. -/
structure RunIn where
  f : BitVec 128
  n : BitVec 128
  k : BitVec 128
  tsc : DWord
  t0 : DWord
deriving DecidableEq, Repr

/-- The smaller of a number and 0xFFFF, as 16 bits. -/
def sat16 (x : Nat) : BitVec 16 := BitVec.ofNat 16 (min x 0xFFFF)

/-- The value a step gives to x[D], for the steps that give one (R293). -/
def stepValue (r : RunIn) (x : Vector (BitVec 16) 4) (w : BitVec 16) : Option (BitVec 16) :=
  let a := x.get (stepA w)
  let b := x.get (stepB w)
  let imm := stepImm w
  match stepOp w with
  | 0x0 => some (field16 r.f imm)
  | 0x1 => some (field16 r.n imm)
  | 0x2 => some (field16 r.k imm)
  | 0x3 => some (BitVec.ofNat 16 (r.tsc.toNat / 2 ^ imm))
  | 0x4 => some (sat16 ((r.tsc - r.t0).toNat / 2 ^ imm))
  | 0x5 => some (a + b)
  | 0x6 => some (a - b)
  | 0x7 => some (if rankPrecedes b a then b else a)
  | 0x8 => some (if rankPrecedes a b then b else a)
  | 0x9 => some (sat16 (a.toNat * (field16 r.k (imm / 8)).toNat / 2 ^ (2 * (imm % 8))))
  | 0xA => some (a <<< imm)
  | 0xB => some (a >>> imm)
  | 0xC => some (if x.get (Fin.ofNat 4 imm) ≠ 0#16 then a else b)
  | _ => none

/-- Run the steps left of a program (R293): the rank, and the node's state with the STN writes. -/
def runSteps (r : RunIn) (ws : List (BitVec 16)) (x : Vector (BitVec 16) 4) (n : BitVec 128) : BitVec 16 × BitVec 128 :=
  match ws with
  | [] => (0#16, n)
  | w :: t =>
    if stepOp w = 0xE then (x.get (stepA w), n)
    else if stepOp w = 0xD then runSteps r t x (setField16 n (stepImm w) (x.get (stepA w)))
    else match stepValue r x w with
      | some v => runSteps r t (x.set (stepD w) v) n
      | none => runSteps r t x n

/-- Run a program (R293). -/
def runProg (p : BitVec 256) (r : RunIn) : BitVec 16 × BitVec 128 :=
  runSteps r ((List.range 16).map (progStep p)) (Vector.replicate 4 0#16) r.n

/-- The program a node runs: an inner node its owner's, a leaf one of context 0 (R286). -/
def State.nodeProg (s : State) (n : NodeRec) : BitVec 256 :=
  (s.ctx (if isInner n.node then descOwner n.desc else 0)).prog (descProg n.desc)

/-- Whether a step's fields keep the limits of R293. -/
def stepOk (w : BitVec 16) : Bool :=
  let d := stepD w == 0
  let a := stepA w == 0
  let b := stepB w == 0
  let imm := stepImm w
  match stepOp w with
  | 0x0 | 0x1 | 0x2 => a && b && decide (imm ≤ 7)
  | 0x3 | 0x4 => a && b && decide (imm ≤ 48)
  | 0x5 | 0x6 | 0x7 | 0x8 => decide (imm = 0)
  | 0x9 => b
  | 0xA | 0xB => b && decide (imm ≤ 15)
  | 0xC => decide (imm < 4)
  | 0xD => d && b && decide (imm ≤ 7)
  | 0xE => d && b && decide (imm = 0)
  | _ => false

/-- Whether a program may be loaded (R292): every step within its limits, an EMIT, and nothing but 0 after the first. -/
def progOk (p : BitVec 256) : Bool :=
  let ws := (List.range 16).map (progStep p)
  ws.all stepOk && (match ws.dropWhile fun w => stepOp w != 0xE with
    | [] => false
    | _ :: t => t.all fun w => w == 0#16)

/-! ### Entering a node (R289, R290) -/

/-- The context whose work an entry is. -/
def State.kindCtx (s : State) (node : BitVec 16) (k : EntryKind) : Fin 17 :=
  match k with
  | .task id | .mxr id _ => ((s.tasks.find? fun t => t.id == id).map (·.ctx)).getD 0
  | .wave w _ | .presence w => s.ctxOfWave w
  | .gang gid => ((s.parks.find? fun p => p.gang.gid == gid).map (·.ctx)).getD 0
  | .octet o => match nodeKind node with
    | some (.matrix core) => s.ctxOfWave (s.octet core o).wave
    | _ => 0
  | .command id => ((s.cmds.find? fun c => c.id == id).map (·.ctx)).getD 0
  | .packet n => (((s.fab.ops.find? fun o => o.seq == n).map (·.ctx)).or ((s.fab.replies.find? fun r => r.id == n).map (·.ctx))).getD 0
  | .request id => (((s.netReqs.find? fun r => r.id == id).map (·.ctx)).or ((s.netReplies.find? fun r => r.id == id).map (·.ctx))).getD 0

/-- An insertion is counted (R328). -/
def State.countInsert (s : State) (node : BitVec 16) (k : EntryKind) : State := s.countEvent (s.kindCtx node k) none 0x08#8 1

/-! ### The test of R300 -/

/-- The engine of a leaf that runs work of its own between steps: the matrix array, a copy engine, a gather engine. -/
def leafEngine (node : BitVec 16) : Option (BitVec 16) :=
  match nodeKind node with
  | some (.matrix k) => some (matrixLeaf k)
  | some (.copy k) => some (engineLeaf (k / 8))
  | some (.copyEngine u) => some (engineLeaf u)
  | some (.gather u) => some (gatherLeaf u)
  | _ => none

/-- What an engine performs. -/
def State.serving? (s : State) (engine : BitVec 16) : Option Serving := s.serving.find? fun v => v.engine == engine

/-- The entry an engine performs, where it still stands. -/
def State.servedEntry (s : State) (v : Serving) : Option Entry := (s.entries v.node).find? fun e => e.id == v.entry

/-- An engine takes an entry, or none. -/
def State.serve (s : State) (engine : BitVec 16) (v : Option (BitVec 16 × Nat)) : State :=
  let rest := s.serving.filter fun x => x.engine != engine
  { s with serving := match v with
      | some (n, e) => ⟨engine, n, e, none⟩ :: rest
      | none => rest }

/-- The test of R300: M ≠ 0 and (running − new) mod 2^16 in M..32,767. -/
def preemptPasses (m : Nat) (running new : BitVec 16) : Bool :=
  m != 0 && decide (m ≤ (running - new).toNat) && decide ((running - new).toNat ≤ 32767)

/-- The test of a leaf whose head has come to stand there by insertion or refresh, against what its engine performs (R300): where it
passes, the engine is to stop, and a pre-emption that is not in progress yet is counted (R311). -/
def State.testHead (s : State) (leaf : BitVec 16) : State :=
  match (s.entries leaf).head?, (leafEngine leaf).bind s.serving? with
  | some e, some v => match s.servedEntry v with
    | some r =>
      if r.id != e.id && preemptPasses (descM (s.node leaf).desc) r.rank e.rank then
        let t : State := { s with serving := s.serving.map fun x => if x.engine == v.engine then { x with stop := some leaf } else x }
        let n := t.node leaf
        if v.stop.isNone then t.setNode { n with preempts := n.preempts + 1#48 } else t
      else s
    | none => s
  | _, _ => s

/-- The head of a node by name. -/
def State.headId (s : State) (node : BitVec 16) : Option Nat := (s.entries node).head?.map (·.id)

/-- The test of a leaf into which an entry was inserted, where it has become the head (R300). -/
def State.testInsert (s : State) (leaf : BitVec 16) (id : Nat) : State := if s.headId leaf = some id then s.testHead leaf else s

/-- A task enters a node (R289, R290): the node's program runs, its state writes take effect, and the entry is inserted. `t0` is the
time it was first pushed, or now. -/
def State.enterNode (s : State) (node : BitVec 16) (kind : EntryKind) (f : BitVec 128) (t0 : Option DWord) : State :=
  let s := (s.countInsert node kind).tick
  let n := s.node node
  let t := t0.getD s.tsc
  let r := runProg (s.nodeProg n) ⟨f, descN n.desc, descK n.desc, s.tsc, t⟩
  let u : State := { (s.setNode { n with
      desc := descWithN n.desc r.2
      entries := insertEntry n.entries ⟨s.nextId, kind, r.1, t, f⟩
      pushes := n.pushes + 1#48 }) with nextId := s.nextId + 1 }
  u.testInsert node s.nextId

/-- An entry takes a rank without a run and stands behind it in ties (R304). -/
def State.enterAt (s : State) (node : BitVec 16) (kind : EntryKind) (rank : BitVec 16) (f : BitVec 128) : State :=
  let s := (s.countInsert node kind).tick
  let n := s.node node
  let u : State := { (s.setNode { n with
      entries := insertEntry n.entries ⟨s.nextId, kind, rank, s.tsc, f⟩
      pushes := n.pushes + 1#48 }) with nextId := s.nextId + 1 }
  u.testInsert node s.nextId

/-- Re-rank the entries of a node and rebuild it (R291); STN steps do nothing; a leaf's new head is tested (R300). -/
def State.refreshNode (s : State) (node : BitVec 16) : State :=
  let s := s.tick
  let n := s.node node
  let p := s.nodeProg n
  let es := n.entries.map fun e => { e with rank := (runProg p ⟨e.f, descN n.desc, descK n.desc, s.tsc, e.t0⟩).1 }
  (s.setNode { n with entries := es.foldl insertEntry [] }).testHead node

/-- The step NODE_REFRESH (R291): the refresh period of a node has expired. -/
def execNodeRefresh (node : BitVec 16) (s : State) : Host.Outcome State Fault Refusal :=
  .next (if s.nodeKnown node && descRefresh (s.node node).desc != 0 then s.refreshNode node else s)

/-! ### Writing a descriptor (R286) -/

/-- Whether following PARENT links from a node reaches a node again. -/
def reaches (parent : BitVec 16 → BitVec 16) (goal : BitVec 16) (fuel : Nat) (n : BitVec 16) : Bool :=
  match fuel with
  | 0 => false
  | k + 1 => n != 0xFFFF#16 && (n == goal || reaches parent goal k (parent n))

/-- The PARENT link of a node, as it would be with a descriptor written. -/
def State.parentWith (s : State) (node : BitVec 16) (d : BitVec 512) (n : BitVec 16) : BitVec 16 :=
  if n = node then descParent d else descParent (s.node n).desc

/-- The leaves of a core ignore PARENT (R286). -/
def usesParent (node : BitVec 16) : Bool :=
  match nodeKind node with
  | some (.wave _) | some (.matrix _) | some (.copy _) => false
  | _ => true

/-- The sum of the CAP values of the inner nodes but one. -/
def State.capSum (s : State) (node : BitVec 16) : Nat :=
  ((s.nodes.filter fun n => isInner n.node && n.node != node).map fun n => descCap n.desc).sum

/-- Whether a descriptor write is refused (R286). -/
def State.descRefused (s : State) (node : BitVec 16) (d : BitVec 512) : Bool :=
  (nodeKind node).isNone || d.extractLsb' 80 176 != 0#176 || d.extractLsb' 5 11 != 0#11 || decide (16 < descCtx d) ||
  (isInner node && decide (4096 < s.capSum node + descCap d)) ||
  (usesParent node && descParent d != 0xFFFF#16 && !isInner (descParent d)) ||
  (isInner node && reaches (s.parentWith node d) node 257 (descParent d))

/-- Write a node's descriptor; the CTX of a leaf stays 0 (R286). -/
def State.writeDesc (s : State) (node : BitVec 16) (d : BitVec 512) : State :=
  s.setNode { s.node node with desc := if isInner node then d else d &&& ~~~0x1F#512 }

/-! ### Task records (R296–R298) -/

def recBody (r : BitVec 512) : DWord := r.extractLsb' 448 64
def recStg (r : BitVec 512) (k : Nat) : DWord := r.extractLsb' (192 + 64 * k) 64
def recF (r : BitVec 512) : BitVec 128 := r.extractLsb' 64 128
def recTgt (r : BitVec 512) : BitVec 16 := r.extractLsb' 48 16
def recSub (r : BitVec 512) : Nat := (r.extractLsb' 40 8).toNat
def recNstg (r : BitVec 512) : Nat := (r.extractLsb' 32 4).toNat
def recKind (r : BitVec 512) : Nat := (r.extractLsb' 24 4).toNat
def recTag (r : BitVec 512) : BitVec 24 := r.extractLsb' 0 24

def stgSrc (x : DWord) : Nat := (x.extractLsb' 20 44).toNat * 4096
def stgLen (x : DWord) : Nat := ((x.extractLsb' 12 8).toNat + 1) * 4096
def stgDoff (x : DWord) : Nat := (x.extractLsb' 4 8).toNat * 4096

/-- Whether a staging descriptor keeps R297. -/
def stgOk (x : DWord) (used : Bool) : Bool := if used then x.getLsbD 0 && x.extractLsb' 1 3 == 0#3 else x == 0#64

/-- Whether an id names a cluster copy-engine leaf. -/
def isCopyEngine (node : BitVec 16) : Bool :=
  match nodeKind node with
  | some (.copyEngine _) => true
  | _ => false

/-- Whether a COPY may enter at a node: its TGT or an ancestor of it (R298). -/
def State.onPath (s : State) (node tgt : BitVec 16) : Bool := reaches (fun n => descParent (s.node n).desc) node 258 tgt

/-- The checks of a record (R298), in ascending byte order: the byte offset of the first bad field. `entry` is none for a member of a
bundle. -/
def State.recordBad (s : State) (r : BitVec 512) (entry : Option (BitVec 16)) : Option Nat :=
  let k := recKind r
  let kindOk := match entry with
    | none => k == 0 || k == 1 || k == 3
    | some _ => k == 0 || k == 1 || k == 2
  let entryOk := match entry with
    | none => true
    | some e => k == 1 || isInner e
  let tgtOk := if k = 1 then
      isCopyEngine (recTgt r) && (match entry with
        | none => true
        | some e => s.onPath e (recTgt r))
    else recTgt r == 0xFFFF#16
  if r.extractLsb' 28 4 ≠ 0#4 ∨ !kindOk ∨ !entryOk then some 3
  else if r.extractLsb' 36 4 ≠ 0#4 ∨ (if k = 0 then decide (4 < recNstg r) else recNstg r != 0) then some 4
  else if (if k = 1 then decide (1 < recSub r) else recSub r != 0) then some 5
  else if !tgtOk then some 6
  else match (List.range 4).find? fun i => !stgOk (recStg r i) (i < recNstg r) with
    | some i => some (24 + 8 * i)
    | none => if (recBody r).toNat % 64 ≠ 0 ∨ windowOf (recBody r) ≠ some .global then some 56 else none

/-! ### Pushing a task (R100, R298) -/

/-- A task by its name. -/
def State.task? (s : State) (id : Nat) : Option Task := s.tasks.find? fun t => t.id == id

/-- Change a task. -/
def State.modTask (s : State) (id : Nat) (f : Task → Task) : State :=
  { s with tasks := s.tasks.map fun t => if t.id == id then f t else t }

/-- A new task with its record, first pushed now. -/
def State.newTask (s : State) (c : Fin 17) (r : BitVec 512) (entry : BitVec 16) (host : Option (Fin 16)) (bundle : Option (Nat × Nat))
    (phase : Phase) : State :=
  let s := s.tick
  { s with
    tasks := s.tasks ++ [⟨s.nextId, c, r, s.tsc, entry, [], phase, host, 0#32, bundle, [], [], 0⟩]
    nextId := s.nextId + 1 }

/-- Push a task record into a node as an agent of a die (R100, R298): the status, and the task's name if it was pushed. -/
def State.pushTask (s : State) (die : Fin 5) (c : Fin 17) (a : DWord) (node : Word) (host : Option (Fin 16)) : Word × Option Nat × State :=
  let e : BitVec 16 := node.setWidth 16
  let d := (s.node e).desc
  if node.extractLsb' 16 16 ≠ 0#16 ∨ !s.nodeKnown e ∨ (if isInner e then descCtx d != c.val else c != 0) then (statusWord 1 0, none, s)
  else match s.readRecord die c a with
    | none => (statusWord 3 0, none, s.logRecord die c a)
    | some (bs, t) =>
      let r := recordOf bs
      match t.recordBad r (some e) with
      | some k => (statusWord 4 k, none, t)
      | none =>
        if !t.nodeRoom e then (statusWord 2 0, none, t)
        else
          let id := t.nextId
          let u := t.newTask c r e host none .waiting
          (0#32, some id, u.enterNode e (.task id) (recF r) (some u.tsc))

/-- Each core has at most 16 QPUSH outstanding (R97). -/
def pushHold : Cur → List Slice → State → Bool := fun _ ms t =>
  match ms with
  | [] => false
  | m :: _ => decide (16 < ms.length + (t.txns.filter fun u => u.core == m.core && (match u.kind with
    | .qpush .. => true
    | _ => false)).length)

/-- QPUSH (R100). -/
def execQpush (d : SReg) (a : SPairSrc) (b : SSrc) (s : State) : Host.Outcome State Fault Refusal :=
  .next (s.issue ⟨.guarded, false, fun sl => sl.spUses a 1 ++ sl.ssUses b 2, fun sl => [sl.sname d], noCheck, noCheck⟩ pushHold
    fun c ms t => t.sliceTxns c ms (fun m => .qpush (m.readPair a.reg) (m.readSrc b.reg)) 64 (fun m => [m.sname d]) fun _ => [])

/-- Perform a QPUSH: its status fills. -/
def State.completeQpush (s : State) (t : Txn) (a : DWord) (node : Word) : State :=
  let r := s.pushTask (coreDie t.core) t.ctx a node none
  (t.parts.foldl (fun x p => x.fillWord p r.1) r.2.2).dropTxn t.id

end Sys2Proof.Machine
end

