-- ==== Sys2Proof/Machine/Tasks.lean ====
section
/-! DEFINITION. Tasks from their release to their finish (R299, R301–R303, R307–R309): reads of the command die and their error codes
(R238), launches and waves (R44, R301), bundles, finish writes, and the completion of a host packet with its "after" work
(R319, R321, R322). -/

set_option Elab.async false

namespace Sys2Proof.Machine

/-! ### Reads of the command die and the engines (R238, R299) -/

/-- The ERR code of a failed translation (R238). -/
def errCode (f : BitVec 5 × BitVec 8) : BitVec 8 :=
  if f.1 = 7#5 then 7#8 else if f.1 = 5#5 then 6#8 else 5#8

/-- Read a range of the global window of a context as an agent of a die: the bytes, or the ERR code of the failure (R238); a malformed
entry its walk meets is logged (R264). -/
def State.readErr (s : State) (die : Fin 5) (c : Fin 17) (va n : Nat) : Except (BitVec 8 × State) (List Byte × State) :=
  match s.gRead die (s.asidOf c) va n with
  | some r => if s.poisoned (s.asidOf c) va n then .error (8#8, s) else .ok r
  | none => .error (((s.rangeFault die (s.asidOf c) va n .r).map errCode).getD 5#8, s.logRange die c va n .r)

/-- Read an object of a context at a device address for the command die (R299, R301). -/
def State.readObject (s : State) (c : Fin 17) (a : DWord) (n : Nat) : Except (BitVec 8 × State) (List Byte × State) :=
  if windowOf a = some .global ∧ offsetOf a + n ≤ 2 ^ 56 then s.readErr 4 c (offsetOf a) n else .error (5#8, s)

/-- Whether an object's read parks behind the first faulter of a page (R176). -/
def State.objectHeld (s : State) (c : Fin 17) (a : DWord) (n : Nat) : Bool :=
  windowOf a == some .global && s.rangeHeld 4 (s.asidOf c) (offsetOf a) n .r

/-- A slice of a list of bytes as a number of `w` bits. -/
def fieldOf (bs : List Byte) (off n w : Nat) : BitVec w := BitVec.ofNat w (ofBytes ((bs.drop off).take n))

/-! ### Launches (R44, R301, R303) -/

/-- STAT of a task that is refused (R302). -/
def refusedStat (err : BitVec 8) : Word := err ++ 0#16 ++ 3#8

/-- The words of a launch record's range list (R267). -/
def rangeOf (e : BitVec 128) : RangeEntry := ⟨e.extractLsb' 0 64, e.extractLsb' 64 32, (e.extractLsb' 96 2).toFin⟩

/-- Whether a range entry keeps R267. -/
def rangeOk (e : BitVec 128) : Bool :=
  e.extractLsb' 98 30 == 0#30 && e.extractLsb' 56 8 == 0#8 && e.extractLsb' 0 16 == 0#16

/-- The fields of a launch record that refuse it whatever memory holds (R301). -/
def launchBad (r : BitVec 1024) (rec : BitVec 512) : Bool :=
  let n := (r.extractLsb' 128 32).toNat
  let spad := (r.extractLsb' 164 9).toNat
  r.extractLsb' 896 128 != 0#128 || r.extractLsb' 189 3 != 0#3 || n == 0 || decide (2 ^ 31 < n) ||
  decide (256 < spad) || decide (16 < (r.extractLsb' 173 5).toNat) || decide (32 < (r.extractLsb' 178 6).toNat) ||
  decide (16 < (r.extractLsb' 184 5).toNat) || !modeLegal (r.extractLsb' 192 32) ||
  (List.range (recNstg rec)).any fun k => decide (4096 * spad < stgDoff (recStg rec k) + stgLen (recStg rec k))

/-- The entries of a range list of n entries. -/
def rangeWords (bs : List Byte) (n : Nat) : List (BitVec 128) := (List.range n).map fun i => fieldOf bs (16 * i) 16 128

/-- What becomes of a LAUNCH that would leave the tree (R301, R303). -/
inductive LaunchPlan where
  | refused (stat : Word) (body : List Byte) (s : State)
  | waits
  | goes (r : BitVec 1024) (body : List Byte) (ranges : List RangeEntry)

/-- The launches with unplaced blocks that a domain holds (R303): of those it lists, the ones with a block it owns. -/
def State.launchCount (s : State) (d : Nat) : Nat :=
  ((s.launches.toList.getD d []).filter fun e => match e.kind with
    | .wave w _ => s.waves.any fun x => x.num == w && x.blocks.any fun b => b.dom.val == d
    | _ => false).length

/-- The range list of a launch record. -/
def State.rangeList (s : State) (c : Fin 17) (r : BitVec 1024) : Except (BitVec 8 × State) (List RangeEntry) :=
  let n := (r.extractLsb' 184 5).toNat
  let a : DWord := r.extractLsb' 256 64
  if n = 0 then .ok []
  else if a.toNat % 16 ≠ 0 ∨ windowOf a ≠ some .global then .error (0#8, s)
  else match s.readObject c a (16 * n) with
    | .error e => .error e
    | .ok (bs, _) => if (rangeWords bs n).all rangeOk then .ok ((rangeWords bs n).map rangeOf) else .error (0#8, s)

/-- Whether a launch record's range list is on a page whose first faulter is outstanding (R176). -/
def State.rangesHeld (s : State) (c : Fin 17) (r : BitVec 1024) : Bool :=
  (r.extractLsb' 184 5) != 0#5 && s.objectHeld c (r.extractLsb' 256 64) (16 * (r.extractLsb' 184 5).toNat)

/-- Read and check the launch record of a task (R301). -/
def State.launchPlan (s : State) (c : Fin 17) (rec : BitVec 512) : LaunchPlan :=
  if s.objectHeld c (recBody rec) 128 then .waits
  else match s.readObject c (recBody rec) 128 with
  | .error e => .refused (refusedStat e.1) [] e.2
  | .ok (bs, _) =>
    let r : BitVec 1024 := BitVec.ofNat 1024 (ofBytes bs)
    let dies := r.extractLsb' 160 4
    if launchBad r rec ∨ dies &&& s.online = 0#4 ∨ dies &&& ~~~(s.ctx c).dmask ≠ 0#4 then .refused (refusedStat 0#8) bs s
    else if s.rangesHeld c r then .waits
    else match s.rangeList c r with
      | .error e => .refused (refusedStat e.1) bs e.2
      | .ok rs => if (domainsOf (dies &&& s.online)).all fun d => s.launchCount d < 32 then .goes r bs rs else .waits

/-- Pass the blocks owned by domains that are not online to those of the mask that are, round-robin in ascending j (R281). -/
def passBlocks (online dies : BitVec 4) (bs : List Block) : List Block :=
  let ds := domainsOf (dies &&& online)
  (bs.foldl (fun (acc : List Block × Nat) b =>
    if online.getLsbD b.dom.val then (acc.1 ++ [b], acc.2)
    else (acc.1 ++ [{ b with dom := Fin.ofNat 4 (ds.getD (acc.2 % ds.length) 0) }], acc.2 + 1)) ([], 0)).1

/-- The blocks of a launch: block j is first owned by the (j mod k)-th domain of the mask (R44). -/
def firstBlocks (n : Nat) (dies : BitVec 4) : List Block :=
  let sel := domainsOf dies
  (List.range ((n + 7) / 8)).map fun j => ⟨j, Fin.ofNat 4 (sel.getD (j % sel.length) 0)⟩

/-- A launch leaves the tree (R303): its wave is made, and it joins the launch lists at its rank. -/
def State.launch (s : State) (task : Nat) (c : Fin 17) (rec : BitVec 512) (rank : BitVec 16) (r : BitVec 1024) (body : List Byte)
    (ranges : List RangeEntry) : State :=
  let num := s.nextWave
  let n := (r.extractLsb' 128 32).toNat
  let dies := r.extractLsb' 160 4
  let w : Wave :=
    { num := num, ctx := c, task := task, n := n, dies := dies
      entry := r.extractLsb' 0 64, trapv := r.extractLsb' 64 64, mode := r.extractLsb' 192 32 &&& ~~~(1#32 <<< 24)
      args := Vector.ofFn fun k : Fin 16 => r.extractLsb' (384 + 32 * k.val) 32
      spadU := (r.extractLsb' 164 9).toNat, acctU := (r.extractLsb' 173 5).toNat, browsU := (r.extractLsb' 178 6).toNat
      ranges := ranges, blocks := passBlocks s.online dies (firstBlocks n dies), live := n
      rank := rank, attached := false, ended := none }
  let e : Entry := ⟨s.nextId, .wave num none, rank, s.tsc, recF rec⟩
  ({ s with
    nextWave := num + 1#32
    nextId := s.nextId + 1
    waves := s.waves ++ [w]
    launches := Vector.ofFn fun d : Fin 4 =>
      if (dies &&& s.online).getLsbD d.val then insertEntry (s.launches.get d) e else s.launches.get d } : State).modTask task
    fun t => { t with phase := .running, wave := num, body := body }

/-- A task is to finish with a STAT word. -/
def State.endTask (s : State) (id : Nat) (stat : Word) (body : List Byte) : State :=
  s.modTask id fun t => { t with phase := .ending stat, body := body }

/-- The fields F0–F7 of a wave's LAUNCH record (R304). -/
def State.waveFields (s : State) (w : Word) : BitVec 128 :=
  match s.wave? w with
  | some x => match s.task? x.task with
    | some t => recF t.record
    | none => 0#128
  | none => 0#128

/-! ### Release (R303) -/

/-- The chain of PARENT links from a node. -/
def State.chain (s : State) (fuel : Nat) (n : BitVec 16) : List (BitVec 16) :=
  match fuel with
  | 0 => []
  | k + 1 => n :: (if descParent (s.node n).desc = 0xFFFF#16 then [] else s.chain k (descParent (s.node n).desc))

/-- The next node of a COPY held at a node (R303). -/
def State.nextNode (s : State) (node tgt : BitVec 16) : BitVec 16 :=
  ((s.chain 258 tgt).find? fun n => descParent (s.node n).desc == node).getD tgt

/-- The domain of a cluster's copy-engine leaf. -/
def engineDomain (tgt : BitVec 16) : Nat := (tgt.toNat - 0x400) / 12

/-- Whether the head of an inner node may be released into a node now (R303). -/
def State.goesInto (s : State) (n : NodeRec) (into : BitVec 16) : Bool :=
  isInner n.node && s.nodeKnown n.node && (match n.entries with
    | [] => false
    | e :: _ => match e.kind with
      | .task id => (match s.task? id with
        | some t => recKind t.record == 1 && s.releases t.ctx && s.nextNode n.node (recTgt t.record) == into && s.nodeRoom into &&
            s.isIn t.ctx (engineDomain (recTgt t.record))
        | none => false)
      | _ => false)

/-- Whether the head of some inner node may be released into a node now: a release comes before a push there (R289, R312). -/
def State.releaseDue (s : State) (node : BitVec 16) : Bool := s.nodes.any fun n => s.goesInto n node

/-- Release the head of an inner node, if it may go (R303); of several that go into one node that of the lowest node id first (R289). -/
def State.releaseHead (s : State) (node : BitVec 16) : State :=
  match s.entries node with
  | [] => s
  | e :: _ => match e.kind with
    | .task id => match s.task? id with
      | none => s
      | some t =>
        if !s.releases t.ctx then s
        else if recKind t.record = 1 then
          let next := s.nextNode node (recTgt t.record)
          if s.nodeRoom next && s.isIn t.ctx (engineDomain (recTgt t.record)) && s.nodes.all (fun n => !(n.node < node && s.goesInto n next)) then
            (s.releaseEntry node e.id).enterNode next e.kind e.f (some e.t0)
          else s
        else if recKind t.record = 0 then
          match s.launchPlan t.ctx t.record with
          | .waits => s
          | .refused st b t => (t.releaseEntry node e.id).endTask id st b
          | .goes r b rs => (s.releaseEntry node e.id).launch id t.ctx t.record e.rank r b rs
        else s
    | _ => s

/-- The step NODE_RELEASE (R303). -/
def execNodeRelease (node : BitVec 16) (s : State) : Host.Outcome State Fault Refusal :=
  .next (if isInner node && s.nodeKnown node then s.releaseHead node else s)

/-! ### Bundles (R307–R309) -/

def bunNmem (b : BitVec 1280) : Nat := (b.extractLsb' 0 8).toNat
def bunNvar (b : BitVec 1280) : Nat := (b.extractLsb' 8 4).toNat
def bunPhases (b : BitVec 1280) : Nat := (b.extractLsb' 16 16).toNat + 1
def bunSizea (b : BitVec 1280) : DWord := b.extractLsb' 64 64
def bunMema (b : BitVec 1280) : DWord := b.extractLsb' 192 64
def bunVarMema (b : BitVec 1280) (v : Nat) : DWord := b.extractLsb' (256 + 128 * v + 64) 64
def bunLimit (b : BitVec 1280) (v : Nat) : Word := b.extractLsb' (256 + 128 * v) 32

/-- Whether a bundle's own fields are refused (R307). -/
def bundleBad (b : BitVec 1280) : Bool :=
  b.extractLsb' 12 4 != 0#4 || decide (8 < bunNvar b) || decide (bunNmem b < 1) || decide (8 < bunNmem b)

/-- The variant for a size: the smallest LIMIT that is not below it, the lowest index winning a tie (R308). -/
def bunVariant (b : BitVec 1280) (z : Word) : Option Nat :=
  (List.range (bunNvar b)).foldl (fun acc v =>
    if z.ule (bunLimit b v) then
      match acc with
      | none => some v
      | some x => if (bunLimit b v).ult (bunLimit b x) then some v else some x
    else acc) none

/-- Whether a member array is refused (R298, R307). -/
def State.membersBad (s : State) (ms : List (BitVec 512)) : Bool :=
  (ms.any fun r => (s.recordBad r none).isSome) ||
  decide (1 < (ms.filter fun r => recKind r == 0).length) ||
  ((ms.any fun r => recKind r == 3) && !ms.any fun r => recKind r == 0)

/-- The address of a phase's member array, or the STAT of the failure to find one (R308 step 1). -/
def State.memberArray (s : State) (c : Fin 17) (b : BitVec 1280) : Except (Word × State) (DWord × State) :=
  if bunNvar b = 0 then .ok (bunMema b, s)
  else if (bunSizea b).toNat % 4 ≠ 0 then .error (refusedStat 0#8, s)
  else match s.readObject c (bunSizea b) 4 with
    | .error e => .error (refusedStat e.1, e.2)
    | .ok (bs, t) => match bunVariant b (fieldOf bs 0 4 32) with
      | none => .error (4#32, t)
      | some v => .ok (bunVarMema b v, t)

/-- The STAT of a failed read or check, else the member records of the phase (R308 steps 1 and 2), with the state after the reads. -/
def State.chooseMembers (s : State) (c : Fin 17) (b : BitVec 1280) : Except (Word × State) (List (BitVec 512) × State) :=
  if bundleBad b then .error (refusedStat 0#8, s)
  else match s.memberArray c b with
    | .error e => .error e
    | .ok (a, t) => match t.readObject c a (64 * bunNmem b) with
      | .error e => .error (refusedStat e.1, e.2)
      | .ok (bs, u) =>
        let ms := (List.range (bunNmem b)).map fun i => fieldOf bs (64 * i) 64 512
        if u.membersBad ms then .error (refusedStat 0#8, u) else .ok (ms, u)

/-- Whether a read of a bundle's phase parks behind the first faulter of a page (R176). -/
def State.bundleHeld (s : State) (c : Fin 17) (b : BitVec 1280) : Bool :=
  (bunNvar b != 0 && s.objectHeld c (bunSizea b) 4) || (match s.memberArray c b with
    | .ok (a, t) => t.objectHeld c a (64 * bunNmem b)
    | .error _ => false)

/-- The cores of an MXR body, if it can be read and its reserved bytes are 0 (R299). -/
def State.mxrCores (s : State) (c : Fin 17) (r : BitVec 512) : Except (BitVec 8 × State) (List Nat) :=
  match s.readObject c (recBody r) 64 with
  | .error e => .error e
  | .ok (bs, _) =>
    if (bs.drop 24).all (· == 0#8) then
      .ok ((List.range 192).filter fun k => (bs.getD (k / 8) 0#8).getLsbD (k % 8))
    else .error (0#8, s)

/-- The entries a member needs free, by leaf (R308). -/
def State.memberLeaves (s : State) (c : Fin 17) (r : BitVec 512) : List (BitVec 16) :=
  if recKind r = 1 then [recTgt r]
  else if recKind r = 3 then
    match s.mxrCores c r with
    | .ok ks => ks.map matrixLeaf
    | .error _ => []
  else []

/-- Whether a launch meets R303, so far as it is not refused. -/
def State.launchReady (s : State) (c : Fin 17) (r : BitVec 512) : Bool :=
  match s.launchPlan c r with
  | .waits => false
  | .refused .. => true
  | .goes _ _ _ => true

/-- Whether every member's destination has room at the same moment (R308 step 3); the read of an MXR body may park (R176). -/
def State.membersRoom (s : State) (c : Fin 17) (ms : List (BitVec 512)) : Bool :=
  let ls := ms.flatMap (s.memberLeaves c)
  ms.all (fun r => recKind r != 3 || !s.objectHeld c (recBody r) 64) &&
  ls.all (fun n => decide ((s.entries n).length + (ls.filter (· == n)).length ≤ 64)) &&
  ms.all fun r => recKind r != 0 || s.launchReady c r

/-- Insert one member of a bundle (R308 step 4). -/
def State.startMember (s : State) (c : Fin 17) (b i : Nat) (rank : BitVec 16) (r : BitVec 512) : State :=
  let id := s.nextId
  let s := s.newTask c r 0xFFFF#16 none (some (b, i)) .running
  if recKind r = 0 then
    match s.launchPlan c r with
    | .goes x body rs => s.launch id c r rank x body rs
    | .refused st body t => t.endTask id st body
    | .waits => s
  else if recKind r = 1 then s.enterNode (recTgt r) (.task id) (recF r) (some s.tsc)
  else match s.mxrCores c r with
    | .ok ks => ks.foldl (fun t k => t.enterNode (matrixLeaf k) (.mxr id 0) (recF r) (some s.tsc)) s
    | .error e => e.2.endTask id (refusedStat e.1) []

/-- The body of a bundle, read when its first phase starts (R299). -/
def State.bundleBody (s : State) (t : Task) : Except (BitVec 8 × State) (List Byte × State) :=
  if t.body.isEmpty then s.readObject t.ctx (recBody t.record) 160 else .ok (t.body, s)

/-- Start the phase of a bundle that stands as head of a node (R308). -/
def State.startPhase (s : State) (node : BitVec 16) (e : Entry) (t : Task) : State :=
  if t.body.isEmpty && s.objectHeld t.ctx (recBody t.record) 160 then s
  else match s.bundleBody t with
  | .error x => (x.2.releaseEntry node e.id).endTask t.id (refusedStat x.1) []
  | .ok (body, u) =>
    let b : BitVec 1280 := BitVec.ofNat 1280 (ofBytes body)
    let picked : Except (Word × State) (List (BitVec 512) × State) :=
      if t.chosen.isEmpty then u.chooseMembers t.ctx b else .ok (t.chosen, u)
    if t.chosen.isEmpty && !bundleBad b && u.bundleHeld t.ctx b then s
    else match picked with
    | .error st => (st.2.releaseEntry node e.id).endTask t.id st.1 body
    | .ok (ms, v) =>
      let v := v.modTask t.id fun x => { x with body := body, chosen := ms }
      if v.membersRoom t.ctx ms then
        ms.zipIdx.foldl (fun (x : State) m => x.startMember t.ctx t.id m.2 e.rank m.1)
          ((v.releaseEntry node e.id).modTask t.id fun x => { x with phase := .running, done := [] })
      else v

/-- The step BUNDLE_PHASE_START (R308). -/
def execBundlePhaseStart (node : BitVec 16) (s : State) : Host.Outcome State Fault Refusal :=
  .next (match isInner node && s.nodeKnown node, s.entries node with
    | true, e :: _ => (match e.kind with
      | .task id => (match s.task? id with
        | some t => if recKind t.record = 2 ∧ s.releases t.ctx then s.startPhase node e t else s
        | none => s)
      | _ => s)
    | _, _ => s)

/-- Whether a member finished with a failure (R309): a COPY with ERR ≠ 0, another with CODE ≠ 0. -/
def memberFailed (r : BitVec 512) (stat : Word) : Bool :=
  if recKind r = 1 then stat.extractLsb' 16 8 != 0#8 else stat.extractLsb' 0 8 != 0#8

/-- The STAT of the first failed member, in member order. -/
def Task.firstFailure (t : Task) : Option Word :=
  t.chosen.zipIdx.findSome? fun m => match t.done.find? fun d => d.1 == m.2 with
    | some d => if memberFailed m.1 d.2 then some d.2 else none
    | none => none

/-- The step BUNDLE_PHASE_RETIRE (R309). -/
def execBundlePhaseRetire (task : Nat) (s : State) : Host.Outcome State Fault Refusal :=
  .next (match s.task? task with
    | some t =>
      if recKind t.record = 2 ∧ t.phase = .running ∧ t.done.length = t.chosen.length then
        match t.firstFailure with
        | some st => s.endTask t.id st t.body
        | none =>
          if t.phases + 1 < bunPhases (BitVec.ofNat 1280 (ofBytes t.body)) then
            if s.nodeRoom t.entry then
              (s.modTask t.id fun x => { x with phase := .waiting, phases := x.phases + 1, chosen := [], done := [] }).enterNode
                t.entry (.task t.id) (recF t.record) (some t.t0)
            else s
          else s.endTask t.id 0#32 t.body
      else s
    | none => s)

/-! ### Buffer lists (R322) -/

/-- A buffer-list entry of a packet slot (R316, R322). -/
def slotEntry (slot : BitVec 2560) (i : Nat) : BitVec 128 := slot.extractLsb' (512 + 128 * i) 128

def blBase (e : BitVec 128) : DWord := e.extractLsb' 0 64
def blLen (e : BitVec 128) : Nat := (e.extractLsb' 64 32).toNat
def blMode (e : BitVec 128) : Nat := (e.extractLsb' 96 3).toNat

/-- The first page of a range without a translation, if there is one. -/
def State.absent? (s : State) (asid : BitVec 16) (fuel va hi : Nat) : Option Nat :=
  match fuel with
  | 0 => none
  | n + 1 =>
    if hi ≤ va then none
    else match s.walk asid va with
      | .leaf l => State.absent? s asid n ((va / 2 ^ pageShift l.size + 1) * 2 ^ pageShift l.size) hi
      | .fault _ _ => some va
      | .malformed _ => some va

/-- Write back every dirty line of a range of an ASID (R322). -/
def State.writeBackRange (s : State) (asid : BitVec 16) (lo len : Nat) : State :=
  let s := (s.forceWrites asid lo len).forceWrites 0#16 lo len
  let hit (l : Line) : Bool := (l.asid == asid || l.asid == 0#16) && decide (l.va < lo + len) && decide (lo < l.va + 128)
  let t := (s.lines.filter hit).foldl State.writeBack s
  { t with lines := t.lines.map fun l => if hit l then { l with dirty := false } else l }

/-- Invalidate a range (R66, R266, R322): the range flush, and every instruction cache. -/
def State.invalidateRange (s : State) (asid : BitVec 16) (lo len : Nat) : State :=
  let t := s.flushRange asid lo len
  { t with ilines := t.ilines.filter fun l =>
      !((l.asid == asid || l.asid == 0#16) && decide (l.va < lo + len) && decide (lo < l.va + 64)) }

/-- The work of one entry (R322), if it belongs before or after the action. -/
def State.bufferWork (s : State) (asid : BitVec 16) (e : BitVec 128) (after : Bool) : State :=
  let lo := offsetOf (blBase e)
  match after, blMode e with
  | false, 1 | true, 3 => s.writeBackRange asid lo (blLen e)
  | false, 2 | true, 4 | true, 5 => s.invalidateRange asid lo (blLen e)
  | _, _ => s

/-- Whether an entry has work before or after the action. -/
def blActs (e : BitVec 128) (after : Bool) : Bool :=
  blLen e != 0 && (if after then blMode e == 3 || blMode e == 4 || blMode e == 5 else blMode e == 1 || blMode e == 2)

/-- The entries of a packet, in index order: the state, and the index of the first whose range has no translation (R322); a malformed table
entry its walk meets is logged (R264). -/
def State.bufferList (s : State) (c : Fin 17) (slot : BitVec 2560) (after : Bool) : State × Option Nat :=
  (List.range (slot.extractLsb' 12 5).toNat).foldl (fun (acc : State × Option Nat) i =>
    let e := slotEntry slot i
    match acc.2 with
    | some k => (acc.1, some k)
    | none =>
      let asid := acc.1.asidOf c
      if !blActs e after then acc
      else if windowOf (blBase e) ≠ some .global then (acc.1, some i)
      else match acc.1.absent? asid (blLen e / 65536 + 2) (offsetOf (blBase e)) (offsetOf (blBase e) + blLen e) with
        | none => (acc.1.bufferWork asid e after, none)
        | some va => (acc.1.logWalk c va, some i)) (s, none)

/-! ### Completions (R319, R321) -/

/-- The slots of a queue's rings: 2^LOG, LOG 2–12, other values 2 (R317). -/
def ringSize (log : BitVec 4) : Nat := if 2 ≤ log.toNat ∧ log.toNat ≤ 12 then 2 ^ log.toNat else 4

/-- A completion with nothing but a status. -/
def Completion.plain (status : Nat) : Completion := ⟨BitVec.ofNat 8 status, 0#32, 0#32, 0#32⟩

/-- The completion record of a packet (R321). -/
def completionWord (q : Fin 16) (idx : Nat) (slot : BitVec 2560) (k : Completion) : BitVec 256 :=
  0#64 ++ k.detail ++ k.waveid ++ k.word ++ BitVec.ofNat 32 idx ++ 0#8 ++ BitVec.ofNat 8 q.val ++ slot.extractLsb' 0 8 ++ k.status ++
    slot.extractLsb' 32 32

/-- The records of the completion ring (R317). -/
def HostQueue.csize (h : HostQueue) : Nat := ringSize (h.cqcfg.extractLsb' 0 4)

/-- CQTAIL moves on over the records that are written (R317, R319). -/
def HostQueue.passWritten (h : HostQueue) (fuel : Nat) : HostQueue :=
  match fuel with
  | 0 => h
  | n + 1 =>
    if h.ahead.contains h.cqtail.toNat then
      HostQueue.passWritten { h with
        ahead := h.ahead.filter (· != h.cqtail.toNat)
        cqtail := BitVec.ofNat 32 ((h.cqtail.toNat + 1) % h.csize) } n
    else h

/-- Reserve the next completion record of a queue (R319). -/
def HostQueue.reserve (h : HostQueue) : HostQueue := { h with cqnext := (h.cqnext + 1) % h.csize }

/-- Write the completion record reserved for a packet, and interrupt if it asks for it (R316, R319, R321). -/
def State.writeCompletion (s : State) (fn : Fin 17) (q : Fin 16) (idx cq : Nat) (slot : BitVec 2560) (k : Completion) : State :=
  let c := s.ctx fn
  let hq := c.queues.get q
  let hq' := ({ hq with ahead := cq :: hq.ahead } : HostQueue).passWritten (hq.ahead.length + 1)
  let s := s.setCtx fn { c with queues := c.queues.set q hq' }
  { s with
    hostMem := writeLE s.hostMem (hq.cqbase.toNat + 32 * cq) 32 (completionWord q idx slot k).toNat
    out := if slot.getLsbD 18 then s.out ++ [.interrupt fn (hq.qcfg.extractLsb' 8 8).toNat] else s.out }

/-- Change a queue of a function. -/
def State.modQueue (s : State) (fn : Fin 17) (q : Fin 16) (f : HostQueue → HostQueue) : State :=
  let c := s.ctx fn
  s.setCtx fn { c with queues := c.queues.set q (f (c.queues.get q)) }

/-- The writes that are not applied everywhere yet, but for those under way before. -/
def State.writesSince (s : State) (before : List Nat) : List Nat :=
  (s.writes.filter fun w => !before.contains w.id && w.applied &&& s.diesUp != s.diesUp).map (·.id)

/-- The writes under way. -/
def State.writeIds (s : State) : List Nat := s.writes.map (·.id)

/-- What follows a packet's action, before which the writes named were under way: the "after" work, and the completion once the action's
own writes are visible (R319 steps 4 and 5). -/
def State.finishPacket (s : State) (fn : Fin 17) (q : Fin 16) (idx cq : Nat) (slot : BitVec 2560) (k : Completion) (before : List Nat) :
    State :=
  let r := s.bufferList fn slot true
  let k := match r.2 with
    | some i => { k with status := 5#8, detail := BitVec.ofNat 32 i }
    | none => k
  match r.1.writesSince before with
  | [] => r.1.writeCompletion fn q idx cq slot k
  | ids => r.1.modQueue fn q fun h => { h with jobs := h.jobs ++ [⟨idx, cq, slot, .writes ids k⟩] }

/-- Whether a job waits for nothing any more. -/
def State.jobDone (s : State) (j : HostJob) : Bool :=
  match j.wait with
  | .task _ => false
  | .writes ids _ => s.writes.all fun w => !ids.contains w.id || w.applied &&& s.diesUp == s.diesUp

/-- The jobs of a queue that wait for nothing any more give their records (R319). -/
def State.closeJobs (s : State) (fn : Fin 17) (q : Fin 16) : State :=
  (((s.ctx fn).queues.get q).jobs.filter s.jobDone).foldl (fun x j => match j.wait with
    | .writes _ k => (x.modQueue fn q fun h => { h with jobs := h.jobs.filter (· != j) }).writeCompletion fn q j.idx j.cq j.slot k
    | .task _ => x) s

/-- The jobs of every queue. -/
def State.closeAllJobs (s : State) : State :=
  (List.finRange 17).foldl (fun x fn =>
    if (x.ctx fn).queues.toList.all fun h => h.jobs.isEmpty then x
    else (List.finRange 16).foldl (fun y q => y.closeJobs fn q) x) s

/-! ### Finish (R299) -/

/-- Write STAT with a plain store; a write that cannot be performed is left out, and nothing is logged (R299). -/
def State.writeStat (s : State) (c : Fin 17) (a : DWord) (stat : Word) : State :=
  if windowOf a = some .global then
    match s.gWrite 4 (s.asidOf c) (offsetOf a) (toBytes 4 stat.toNat) with
    | some t => t.forceWrites (t.tagOf (s.asidOf c) (offsetOf a)) (offsetOf a) 4
    | none => s
  else s

/-- Whether an address may name a counter. -/
def counterAddr (a : DWord) : Bool := decide (a.toNat % 4 = 0) && windowOf a == some .global

/-- Add 1 to a counter at its home, if that can be performed: what stands before it in the home order is applied there first (R271). -/
def State.addAt? (s : State) (c : Fin 17) (a : DWord) : Option State :=
  let asid := s.asidOf c
  let va := offsetOf a
  if !counterAddr a then none
  else
    let die := s.homeDie asid va
    (s.tryGrant (viaDie die) asid va .w).map fun t =>
      let t := t.forceWrites (t.tagOf asid va) va 4
      let o : Word := BitVec.ofNat 32 (ofBytes (t.viewBytes die asid va 4))
      t.dieWrite [] [] die asid va (toBytes 4 (o + 1#32).toNat)

/-- Add 1 to a counter at its home; an addition that cannot be performed is left out, and a malformed table entry its walk meets is logged
(R264). -/
def State.addOne (s : State) (c : Fin 17) (a : DWord) : State :=
  (s.addAt? c a).getD (if counterAddr a then s.logRange (s.homeDie (s.asidOf c) (offsetOf a)) c (offsetOf a) 4 .w else s)

/-- Whether an addition of `addOne` parks behind the first faulter of a page (R176). -/
def State.addHeld (s : State) (c : Fin 17) (a : DWord) : Bool :=
  let asid := s.asidOf c
  windowOf a == some .global && s.rangeHeld (s.homeDie asid (offsetOf a)) asid (offsetOf a) 4 .w

/-- Add 1 to CMPL, unless the body names none; one that cannot be performed is left out, and nothing is logged (R299, R301). -/
def State.bumpCmpl (s : State) (c : Fin 17) (a : DWord) : State := if a = 0#64 then s else (s.addAt? c a).getD s

/-- Where STAT stands in a task's body, and the CMPL the body names (R299, R301, R307). -/
def Task.finishAt (t : Task) : Option (Nat × DWord) :=
  if t.body.isEmpty then none
  else if recKind t.record = 0 then some (28, fieldOf t.body 40 8 64)
  else if recKind t.record = 1 then some (40, fieldOf t.body 32 8 64)
  else if recKind t.record = 2 then some (4, fieldOf t.body 16 8 64)
  else none

/-- The finish writes of a task. -/
def State.finishWrites (s : State) (t : Task) (stat : Word) : State :=
  match t.finishAt with
  | some (off, cmpl) => (s.writeStat t.ctx (recBody t.record + BitVec.ofNat 64 off) stat).bumpCmpl t.ctx cmpl
  | none => s

/-- Whether a finish write parks behind the first faulter of a page (R176). -/
def State.finishHeld (s : State) (t : Task) : Bool :=
  match t.finishAt with
  | some (off, cmpl) =>
    let stat := recBody t.record + BitVec.ofNat 64 off
    (windowOf stat == some .global && s.rangeHeld 4 (s.asidOf t.ctx) (offsetOf stat) 4 .w) || (cmpl != 0#64 && s.addHeld t.ctx cmpl)
  | none => false

/-- The MXR members of a bundle finish with its LAUNCH member, and their entries go (R299). -/
def State.finishMxr (s : State) (b : Nat) : State :=
  let ids := (s.tasks.filter fun t => recKind t.record == 3 && t.phase == .running &&
    (match t.bundle with
     | some x => x.1 == b
     | none => false)).map (·.id)
  let gone (e : Entry) : Bool := match e.kind with
    | .mxr id _ => ids.contains id
    | _ => false
  { s with
    nodes := s.nodes.map fun n => { n with entries := n.entries.filter fun e => !gone e }
    tasks := s.tasks.map fun t => if ids.contains t.id then { t with phase := .ending 0#32 } else t }

/-- A finished launch takes its wave with it. -/
def State.dropWave (s : State) (w : Word) : State :=
  let stays (e : Entry) : Bool := match e.kind with
    | .wave x _ => x != w
    | _ => true
  { s with
    waves := s.waves.filter fun x => x.num != w
    launches := Vector.ofFn fun d : Fin 4 => (s.launches.get d).filter stays }

/-- The queue of a host packet whose task has finished gives its completion, once the task's finish writes are visible. What the record
has no field for, the TAG of the task record and how firmware ended the wave, leaves beside it (R164, R296; log 54). -/
def State.completeHost (s : State) (t : Task) (stat : Word) (ended : Option WaveEnd) (before : List Nat) : State :=
  match t.host with
  | none => s
  | some q => match ((s.ctx t.ctx).queues.get q).jobs.find? fun j => j.wait == .task t.id with
    | none => s
    | some j =>
      let u := s.modQueue t.ctx q fun h => { h with jobs := h.jobs.filter fun x => x.wait != .task t.id }
      State.finishPacket { u with out := u.out ++ [.report t.ctx q j.idx (recTag t.record) ended] } t.ctx q j.idx j.cq j.slot
        ⟨0#8, 0#32, stat, t.wave⟩ before

/-- Finish a task, once (R299). -/
def State.finishTask (s : State) (t : Task) (stat : Word) : State :=
  let before := s.writeIds
  let ended := if recKind t.record = 0 then (s.wave? t.wave).bind (·.ended) else none
  let s := s.finishWrites t stat
  let s := if recKind t.record = 0 then s.dropWave t.wave else s
  let s : State := { s with tasks := s.tasks.filter fun x => x.id != t.id }
  let s := match t.bundle with
    | some (b, i) => (if recKind t.record = 0 then s.finishMxr b else s).modTask b fun x => { x with done := x.done ++ [(i, stat)] }
    | none => s
  s.completeHost t stat ended before

/-- Whether every slice of a wave has ended, its tile queues have drained and its copies have completed (R299); its stores are
performed. -/
def State.waveOver (s : State) (w : Wave) : Bool :=
  w.blocks.isEmpty && w.live == 0 && s.slices.all (fun x => x.wave != w.num) && s.txns.all (fun t => t.wave != w.num) &&
  s.octets.all (fun o => o.queue.all fun e => e.wave != w.num) && s.cmds.all fun c => c.wave != w.num || c.task.isSome

/-- The STAT a task is to finish with now, if it is to finish. -/
def State.dueStat (s : State) (t : Task) : Option Word :=
  match t.phase with
  | .ending st => some st
  | .running =>
    if recKind t.record = 0 then
      match s.wave? t.wave with
      | some w => if s.waveOver w then some ((w.ended.map (·.stat)).getD 0#32) else none
      | none => none
    else none
  | .waiting => none

/-- The step TASK_FINISH (R299): as a release, it follows every write of the package. -/
def execTaskFinish (task : Nat) (s : State) : Host.Outcome State Fault Refusal :=
  .next (match s.task? task with
    | some t => (match s.dueStat t with
      | some st => if s.writes.all (fun w => w.applied &&& s.diesUp == s.diesUp) && !s.finishHeld t then s.finishTask t st else s
      | none => s)
    | none => s)

end Sys2Proof.Machine
end

