-- ==== Sys2Proof/Machine/Engines.lean ====
section
/-! DEFINITION. Group 0xB and the cluster engines (R194, R195, R233–R245): issue of commands, their descriptors and checks, the order
of the named queues, segments and blocks, completion, COPY tasks, and staging (R306). -/

set_option Elab.async false

namespace Sys2Proof.Machine

/-! ### Issue (R233, R236, R237) -/

/-- The commands of a queue of a core that have not completed. -/
def State.queueCmds (s : State) (core : Nat) (q : Fin 8) : List Cmd :=
  s.cmds.filter fun c => c.core == core && c.queue == q && c.task.isNone

/-- Put a slice's command into the issue order, its token empty and its descriptor still to be read. -/
def State.issueCmd (s : State) (c : Cur) (kind : CmdKind) (chk : Bool) (q : Fin 8) (size : Nat) (m : Slice) (d : SReg) (a : DWord) :
    State :=
  let id := s.nextId + 1
  let lanes := (List.range ((size + 63) / 64)).map fun i => m.scalarLane (a + BitVec.ofNat 64 (64 * i)) 0#64 0#32
  let t := (s.markEmpty m.sid [m.sname d]).addTxn (.command id) m (min size 64) true [m.part c [m.sname d]] lanes
  { t with
    cmds := t.cmds ++ [⟨id, m.core, m.core / 8, q, t.ctxOfWave m.wave, m.wave, m.sid, kind, chk, s.nextId, none, [], [], false, false, 0, 0#8⟩]
    nextId := id + 1 }

/-- A command of group 0xB (R237): the descriptor's address is checked, then each member's command is issued, in ascending octet
position; the gang waits until the queue has room for all of them (R233). -/
def State.engineOp (s : State) (kind : CmdKind) (chk : Bool) (q : Fin 8) (size align : Nat) (d : SReg) (a : SPairSrc) : State :=
  s.issue ⟨.guarded, false, fun sl => sl.spUses a 1, fun sl => [sl.sname d], noCheck, fun c sl =>
      s.scalarAccess sl c (sl.readPair a.reg) size [.global, .scratch] align false⟩
    (fun _ ms t => match ms with
      | [] => false
      | m :: _ => decide (16 < (t.queueCmds m.core q).length + ms.length))
    fun c ms t => ms.foldl (fun x m => x.issueCmd c kind chk q size m d (m.readPair a.reg)) t

/-- CPY (R241). -/
def execCpy (d : SReg) (a : SPairSrc) (b : CmdImm) (s : State) : Host.Outcome State Fault Refusal :=
  .next (s.engineOp .cpy b.chk b.queue 32 32 d a)

/-- CPYS (R241). -/
def execCpys (d : SReg) (a : SPairSrc) (b : CmdImm) (s : State) : Host.Outcome State Fault Refusal :=
  .next (s.engineOp .cpys b.chk b.queue 32 32 d a)

/-- CBDC (R241). -/
def execCbdc (d : SReg) (a : SPairSrc) (b : CmdImm) (s : State) : Host.Outcome State Fault Refusal :=
  .next (s.engineOp .cbdc b.chk b.queue 32 32 d a)

/-- CPYAM (R241). -/
def execCpyam (d : SReg) (a : SPairSrc) (b : CmdImm) (s : State) : Host.Outcome State Fault Refusal :=
  .next (s.engineOp .cpyam b.chk b.queue 32 32 d a)

/-- GATH (R241). -/
def execGath (d : SReg) (a : SPairSrc) (b : CmdImm) (s : State) : Host.Outcome State Fault Refusal :=
  .next (s.engineOp .gath b.chk b.queue 32 32 d a)

/-- SCAT (R241). -/
def execScat (d : SReg) (a : SPairSrc) (b : CmdImm) (s : State) : Host.Outcome State Fault Refusal :=
  .next (s.engineOp .scat b.chk b.queue 32 32 d a)

/-- SHLD (R237, R243): its source is read at issue. -/
def execShld (d : SReg) (a : SPairSrc) (b : ShldImm) (s : State) : Host.Outcome State Fault Refusal :=
  .next (s.engineOp (.shld b.tbl) b.chk b.queue 1024 64 d a)

/-- QFENCE (R242): it takes its place in the issue order of the core; a flush point (R228). -/
def execQfence (b : QMask) (s : State) : Host.Outcome State Fault Refusal :=
  .next (s.issue ⟨.guarded, false, fun _ => [], fun _ => [], noCheck, noCheck⟩ noHold fun _ ms t => ms.foldl (fun x m =>
    let y := x.flushSlice m
    { y with qfences := y.qfences ++ [⟨m.core, b.mask, y.nextId⟩], nextId := y.nextId + 1 }) t)

/-- The descriptor, or SHLD's source, is read as a load of the slice, and the command enters its queue (R237 steps 3 and 4). -/
def State.enterCommand (s : State) (t : Txn) (id : Nat) : State :=
  let s := s.fillLanes t t.lanes
  let bs := t.lanes.flatMap fun l => s.readWindow t.core t.wave (s.txnAsid t) l.addr t.size
  { s with
    cmds := s.cmds.map fun c => if c.id == id then { c with desc := bs, entered := true } else c
    txns := s.txns.map fun u => if u.id == t.id then { u with kind := .token id, lanes := [] } else u }

/-! ### Order (R234, R235, R242) -/

/-- Whether every QFENCE in front of a command is satisfied (R242). -/
def State.fencesPassed (s : State) (c : Cmd) : Bool :=
  s.qfences.all fun f => f.core != c.core || !f.mask.getLsbD c.queue.val || decide (c.id < f.id) ||
    s.cmds.all fun x => x.core != c.core || x.task.isSome || !f.mask.getLsbD x.queue.val || decide (f.id < x.id)

/-- Whether the stores and atomics its slice issued before a command, and those it has seen in its core, are performed and applied at its
die (R151, R244). -/
def State.storesSeen (s : State) (c : Cmd) : Bool :=
  s.txns.all (fun t => (!t.has c.sid || t.kind.acc != .w || decide (c.txn < t.id)) && (t.atCore.isNone || t.core != c.core || !t.seen.contains c.sid)) &&
  s.writes.all fun w => !w.by_.contains c.sid || w.applied.getLsbD (coreDie c.core).val

/-- Whether a presence is saved, so that its copies do not run (R195). -/
def State.isSaved (s : State) (core : Nat) (wave : Word) : Bool := s.presences.any fun p => p.core == core && p.wave == wave

/-- Whether a command may start (R234, R242): it is the first of its queue, and nothing in front of it holds it. The commands of a
saved wave keep their places and hold the queue until they complete (log 56). -/
def State.mayStart (s : State) (c : Cmd) : Bool :=
  c.entered && c.task.isNone && !s.isSaved c.core c.wave &&
  (s.queueCmds c.core c.queue).all (fun x => decide (c.id ≤ x.id)) && s.fencesPassed c && s.storesSeen c

/-- Whether a command is gather-kind (R235). -/
def CmdKind.gathers (k : CmdKind) : Bool := k == .gath || k == .scat

/-- The leaf a command's entry stands in (R235). -/
def Cmd.leaf (c : Cmd) : BitVec 16 := if c.kind.gathers then gatherLeaf c.cluster else copyLeaf c.core

/-- Whether a node holds the entry of a command. -/
def State.hasCommand (s : State) (node : BitVec 16) (id : Nat) : Bool := (s.entries node).any fun e => e.kind == .command id

/-- The commands that may start enter their leaves (R235), and the QFENCEs that are satisfied are forgotten. -/
def State.feedCommands (s : State) : State :=
  let s := s.cmds.foldl (fun x c =>
    if x.mayStart c && !x.hasCommand c.leaf c.id && x.nodeRoom c.leaf then
      x.enterNode c.leaf (.command c.id) (x.waveFields c.wave) none
    else x) s
  { s with qfences := s.qfences.filter fun f =>
      s.cmds.any fun x => x.core == f.core && x.task.isNone && f.mask.getLsbD x.queue.val && decide (x.id < f.id) }

/-! ### Checks of a descriptor (R240) -/

/-- Whether a field of the descriptor is outside its limits (R240): ERR 0x01. -/
def Cmd.fieldBad (c : Cmd) : Bool :=
  let d := c.d
  let w := dCtl d
  let rsv := w.extractLsb' 20 4 != 0#4 || w.extractLsb' 0 2 != 0#2 || (c.task.isSome && w != 0#32)
  let tbl0 := ctlTbl w != 0
  let fmt0 := ctlFmt w != 0
  let elt0 := ctlElt w != 0
  match c.kind with
  | .cpy => rsv || tbl0 || fmt0 || elt0 || dW5 d != 0#32 || dW6 d != 0#32
  | .cpys => rsv || tbl0 || fmt0 || elt0 || dRowlen d == 0
  | .cbdc => rsv || elt0 || ctlFmt w == 3 || dLen d % 4 != 0
  | .cpyam => rsv || tbl0 || fmt0 || ctlElt w == 3 || dLen d % amSize (ctlElt w) != 0
  | .gath | .scat => rsv || tbl0 || fmt0 || elt0 || dIdx d % 4 != 0 || (dW5 d).extractLsb' 20 12 != 0#12 ||
      (dW6 d).extractLsb' 13 19 != 0#19 || decide (dRowsz d < 4) || decide (4096 < dRowsz d) || dRowsz d % 4 != 0
  | .shld _ => false

/-- A data range of a command: its address, its length, the alignment of its elements, whether only the scratchpad admits it, and
whether it is written. -/
structure DataRange where
  addr : DWord
  len : Nat
  align : Nat
  spadOnly : Bool
  written : Bool
deriving DecidableEq, Repr

/-- The bytes of the index list of GATH and SCAT as the scratchpad holds them. -/
def State.indexBytes (s : State) (c : Cmd) : List Byte :=
  if c.kind.gathers then readBytes (s.core c.core).spad (((s.core c.core).share c.wave).spad + dIdx c.d) (4 * dLen c.d) else []

/-- Indices of a list, from one on. -/
def indexWords (bs : List Byte) (from_ n : Nat) : List Word := (List.range n).map fun i => fieldOf bs (4 * (from_ + i)) 4 32

/-- Row `k` of an array of rows. -/
def rowAddr (base : DWord) (k size : Nat) : DWord := base + BitVec.ofNat 64 (k * size)

/-- The data ranges of a command that do not depend on an index list (R240, R241). The unindexed side of GATH and SCAT is checked
whole, the rows no index names with it (log 57). -/
def Cmd.ranges (c : Cmd) : List DataRange :=
  let d := c.d
  let n := dLen d
  match c.kind with
  | .cpy => [⟨dSrc d, n, 1, false, false⟩, ⟨dDst d, n, 1, false, true⟩]
  | .cpys => (List.range (dNrow d)).flatMap fun (r : Nat) =>
      [⟨dSrc d + BitVec.ofInt 64 ((r : Int) * (dW5 d).toInt), dRowlen d, 1, false, false⟩,
       ⟨dDst d + BitVec.ofInt 64 ((r : Int) * (dW6 d).toInt), dRowlen d, 1, false, true⟩]
  | .cbdc => [⟨dSrc d, 2 * n, 2, false, false⟩, ⟨dAux d, n / 4, 1, false, false⟩,
      ⟨dDst d, n * cbdcBytes (ctlFmt (dCtl d)), 1, true, true⟩]
  | .cpyam =>
      let e := amSize (ctlElt (dCtl d))
      [⟨dSrc d, n, e, false, false⟩, ⟨dDst d, n, e, false, true⟩, ⟨dAux d, if n = 0 then 0 else 4, 4, false, true⟩]
  | .gath => [⟨dSrc d, min n 1, 4, false, false⟩, ⟨dDst d, n * dRowsz d, 4, false, true⟩]
  | .scat => [⟨dSrc d, n * dRowsz d, 4, false, false⟩, ⟨dDst d, min n 1, 4, false, true⟩]
  | .shld _ => []

/-- Whether a range of a context's addresses meets an active landing window (R350). -/
def State.meetsLanding (s : State) (c : Fin 17) (va n : Nat) : Bool :=
  (List.finRange 64).any fun w =>
    let d := s.fab.inForce.get w
    lwEn d && lwCtx d == c.val && decide (va < lwBase d + lwLen d) && decide (lwBase d < va + n)

/-- The ERR of one data range: 0 if it has none (R238). An empty range has none (log). -/
def State.rangeErr (s : State) (c : Cmd) (r : DataRange) : List Nat :=
  if r.len = 0 then []
  else match windowOf r.addr with
    | some .global =>
      (if r.spadOnly then [2] else []) ++
      (if 2 ^ 56 < offsetOf r.addr + r.len then [3] else []) ++
      (if r.written && s.meetsLanding c.ctx (offsetOf r.addr) r.len then [2] else []) ++
      (if r.addr.toNat % r.align ≠ 0 then [4] else [])
    | some .scratch =>
      if c.task.isSome then [2]
      else (if ((s.core c.core).share c.wave).spadLen < offsetOf r.addr + r.len then [3] else []) ++
        (if r.addr.toNat % r.align ≠ 0 then [4] else [])
    | _ => [2]

/-- A row an index names that leaves the window of its array, or the share (R241): ERR 0x03. -/
def State.rowBad (s : State) (c : Cmd) (base : DWord) (j : Word) : Bool :=
  let len := dRowsz c.d
  let off := offsetOf base + j.toNat * len
  match windowOf base with
  | some .scratch => decide (((s.core c.core).share c.wave).spadLen < off + len)
  | _ => decide (2 ^ 56 < off + len)

/-- The side of GATH or SCAT that indices address. -/
def Cmd.indexed (c : Cmd) : DWord := if c.kind == .gath then dSrc c.d else dDst c.d

/-- The errors of an index list and its rows (R240, R241). -/
def State.listErr (s : State) (c : Cmd) : List Nat :=
  if !c.kind.gathers then []
  else if ((s.core c.core).share c.wave).spadLen < dIdx c.d + 4 * dLen c.d then [3]
  else
    let js := (indexWords (s.indexBytes c) 0 (dLen c.d)).filter (· != 0xFFFFFFFF#32)
    (if js.any fun j => s.rowBad c c.indexed j then [3] else []) ++
    (if c.kind == .scat && js.any fun j => windowOf c.indexed == some .global &&
        s.meetsLanding c.ctx (offsetOf c.indexed + j.toNat * dRowsz c.d) (dRowsz c.d) then [2] else [])

/-- Whether a command's barrier offset lies outside the share (R238, ERR 0x09). -/
def State.boffBad (s : State) (c : Cmd) : Bool :=
  let w := dCtl c.d
  (match c.kind with
   | .shld _ => false
   | _ => ctlBen w) && c.task.isNone && decide (((s.core c.core).share c.wave).spadLen < ctlBoff w + 4)

/-- The ERR found before any data moves (R238): the lowest of 0x01 to 0x04, else 0x09. -/
def State.checkCmd (s : State) (c : Cmd) : BitVec 8 :=
  if c.fieldBad then 1#8
  else match c.ranges.flatMap (s.rangeErr c) ++ s.listErr c with
    | e :: t => BitVec.ofNat 8 (t.foldl min e)
    | [] => if s.boffBad c then 9#8 else 0#8

/-! ### Data (R241) -/

/-- The fault of a command's access makes it the page's first faulter, until the command completes (R176). -/
def State.noteEngine (s : State) (c : Cmd) (va n : Nat) (a : Acc) : State :=
  let asid := s.asidOf c.ctx
  match (lineChunks (n + 1) va n).findSome? fun k =>
      if s.granted (viaDie (coreDie c.core)) asid k.1 a then none else (s.faultOf asid k.1 a).map fun f => (k.1, f) with
  | some (x, f) => { s with firstFaults := s.firstFaults ++ [⟨asid, x / 65536, c.id, none, f.1, f.2⟩] }
  | none => s

/-- Read bytes for a command: an ERR if the range cannot be read. Of a share that has been freed, as R183 frees it for copies into it alone,
a copy out of it reads the store from its first byte on (DESIGN CHOICE, log 75). -/
def State.engRead (s : State) (c : Cmd) (a : DWord) (n : Nat) : Except (BitVec 8 × State) (List Byte × State) :=
  match windowOf a with
  | some .scratch =>
    let r := s.core c.core
    .ok (readBytes r.spad ((r.share c.wave).spad + offsetOf a) n, s)
  | _ => match s.readErr (coreDie c.core) c.ctx (offsetOf a) n with
    | .ok r => .ok (r.1, if c.task.isSome then r.2 else r.2.noteBytes [c.sid] (coreDie c.core) (s.asidOf c.ctx) (offsetOf a) n)
    | .error e => .error (e.1, e.2.noteEngine c (offsetOf a) n .r)

/-- Write a list of pieces that lie each in a line, those of them that `keep` says. -/
def State.writePieces (s : State) (c : Cmd) (ps : List (Nat × List Byte)) (keep : Nat → Bool) : State :=
  let die := coreDie c.core
  (ps.zipIdx.foldl (fun (x : State) p =>
    if keep p.2 then
      match x.tryGrant (viaDie die) (s.asidOf c.ctx) p.1.1 .w with
      | some y => y.dieWrite [c.id] [] die (s.asidOf c.ctx) p.1.1 p.1.2
      | none => x
    else x) s)

/-- Write bytes for a command: an ERR if a part of the range cannot be written, or stands on data that could not be read correctly; which
other parts of it then are is free (R238, R280). -/
def State.engWrite (s : State) (c : Cmd) (a : DWord) (bs : List Byte) : Except (BitVec 8 × State) State :=
  match windowOf a with
  | some .scratch => .ok (s.writeSpad c.core (((s.core c.core).share c.wave).spad + offsetOf a) bs)
  | _ =>
    let va := offsetOf a
    let ps := (lineChunks (bs.length + 1) va bs.length).map fun k => (k.1, (bs.drop (k.1 - va)).take k.2)
    match s.rangeFault (coreDie c.core) (s.asidOf c.ctx) va bs.length .w with
    | none =>
      if s.poisoned (s.asidOf c.ctx) va bs.length then
        .error (8#8, s.writePieces c (ps.filter fun p => !s.poisoned (s.asidOf c.ctx) p.1 p.2.length) (Config.partWritten s.ticks))
      else .ok (s.writePieces c ps fun _ => true)
    | some f =>
      let t := s.writePieces c ps (Config.partWritten s.ticks)
      .error (errCode f, (t.logRange (coreDie c.core) c.ctx va bs.length .w).noteEngine c va bs.length .w)

/-- Read a list of pieces. -/
def State.readPieces (s : State) (c : Cmd) (ps : List (DWord × Nat)) : Except (BitVec 8 × State) (List (List Byte) × State) :=
  ps.foldl (fun acc p => match acc with
    | .error e => .error e
    | .ok (bss, t) => match t.engRead c p.1 p.2 with
      | .error e => .error e
      | .ok (bs, u) => .ok (bss ++ [bs], u)) (.ok ([], s))

/-- Write a list of pieces. -/
def State.writeAll (s : State) (c : Cmd) (ps : List (DWord × List Byte)) : Except (BitVec 8 × State) State :=
  ps.foldl (fun acc p => match acc with
    | .error e => .error e
    | .ok t => t.engWrite c p.1 p.2) (.ok s)

/-- The pieces of segment k of rows laid end to end: (row, offset in the row, length) (R241). -/
def rowPieces (rowlen nrow k : Nat) : List (Nat × Nat × Nat) :=
  (List.range nrow).filterMap fun r =>
    let lo := max (r * rowlen) (4096 * k)
    let hi := min ((r + 1) * rowlen) (4096 * (k + 1))
    if lo < hi then some (r, lo - r * rowlen, hi - lo) else none

/-- The copies of segment k of CPY, CPYS and CPYAM: source, destination, length. -/
def Cmd.segment (c : Cmd) (k : Nat) : List (DWord × DWord × Nat) :=
  let d := c.d
  match c.kind with
  | .cpys => (rowPieces (dRowlen d) (dNrow d) k).map fun p =>
      (dSrc d + BitVec.ofInt 64 (p.1 * (dW5 d).toInt) + BitVec.ofNat 64 p.2.1,
       dDst d + BitVec.ofInt 64 (p.1 * (dW6 d).toInt) + BitVec.ofNat 64 p.2.1, p.2.2)
  | _ => [(dSrc d + BitVec.ofNat 64 (4096 * k), dDst d + BitVec.ofNat 64 (4096 * k), min 4096 (dLen d - 4096 * k))]

/-- The ERR of a segment that fails, and the state it leaves; or the bytes read and the state after its writes. -/
def State.copySegment (s : State) (c : Cmd) (k : Nat) : Except (BitVec 8 × State) (List Byte × State) :=
  match s.readPieces c ((c.segment k).map fun p => (p.1, p.2.2)) with
  | .error e => .error e
  | .ok (bss, t) => match t.writeAll c (((c.segment k).map fun p => p.2.1).zip bss) with
    | .error e => .error e
    | .ok u => .ok (bss.flatten, u)

/-- The indices of segment k of a CBDC: the first, and how many. -/
def Cmd.cbdcSpan (c : Cmd) (k : Nat) : Nat × Nat :=
  let per := 4096 / cbdcBytes (ctlFmt (dCtl c.d))
  (per * k, min per (dLen c.d - per * k))

/-- The ranges segment k of a CBDC reads: its indices, its scales. -/
def Cmd.cbdcReads (c : Cmd) (k : Nat) : List (DWord × Nat) :=
  let x := c.cbdcSpan k
  [(dSrc c.d + BitVec.ofNat 64 (2 * x.1), 2 * x.2), (dAux c.d + BitVec.ofNat 64 (x.1 / 4), (x.2 + 3) / 4)]

/-- The bytes CBDC writes for the indices of a segment (R131, R241). -/
def State.cbdcSegment (s : State) (c : Cmd) (k : Nat) : Except (BitVec 8 × State) (List Byte × State) :=
  let d := c.d
  let fmt := ctlFmt (dCtl d)
  let i0 := (c.cbdcSpan k).1
  let n := (c.cbdcSpan k).2
  match s.readPieces c (c.cbdcReads k) with
  | .ok ([is, ss], t) =>
    let f : FpFmt := if fmt = 0 then .e4m3 else if fmt = 1 then .e5m2 else .bf16
    let bs := (List.range n).flatMap fun i =>
      let idx : BitVec 16 := fieldOf is (2 * i) 2 16
      let e := t.shellEntry c.ctx (ctlTbl (dCtl d)) (idx.extractLsb' 8 8).toNat
      (List.range 8).flatMap fun j => toBytes (cbdcBytes fmt / 8) (cbdPattern f (cb2Weight e idx (ss.getD (i / 4) 0#8).toNat j))
    match t.engWrite c (dDst d + BitVec.ofNat 64 (i0 * cbdcBytes fmt)) bs with
    | .error e => .error e
    | .ok u => .ok (bs, u)
  | .ok (_, t) => .ok ([], t)
  | .error e => .error e

/-- An element of CPYAM as an FP32 magnitude pattern (R241). -/
def amMagnitude (elt x : Nat) : Nat :=
  let v : FVal := if elt = 0 then decFp .fp32 false x else if elt = 1 then decFp .bf16 false x else decFp .fp16 false x
  if v.isNan then 0x7FC00000 else bitsOf .fp32 v % 2 ^ 31

/-- The amax of the bytes of a segment. -/
def amaxOf (elt : Nat) (bs : List Byte) : Nat :=
  (List.range (bs.length / amSize elt)).foldl (fun m i =>
    max m (amMagnitude elt (ofBytes ((bs.drop (amSize elt * i)).take (amSize elt))))) 0

/-- Fold a segment's amax into AMA with an ATOM.MAX .u32 (R241, R158). -/
def State.foldAmax (s : State) (c : Cmd) (x : Nat) : Except (BitVec 8 × State) State :=
  let a := dAux c.d
  match windowOf a with
  | some .scratch =>
    let k := ((s.core c.core).share c.wave).spad + offsetOf a
    .ok (s.writeSpad c.core k (toBytes 4 (max x (readLE (s.core c.core).spad k 4))))
  | _ =>
    let asid := s.asidOf c.ctx
    let die := s.homeDie asid (offsetOf a)
    match s.tryGrant (viaDie die) asid (offsetOf a) .w with
    | none => .error (((s.rangeFault die asid (offsetOf a) 4 .w).map errCode).getD 5#8,
        (s.logRange die c.ctx (offsetOf a) 4 .w).noteEngine c (offsetOf a) 4 .w)
    | some t =>
      if t.poisoned asid (offsetOf a) 4 then .error (8#8, t)
      else .ok (t.dieWrite [c.id] [] die asid (offsetOf a) (toBytes 4 (max x (ofBytes (t.viewBytes die asid (offsetOf a) 4)))))

/-- Where row n of GATH or SCAT with index j comes from and goes to. -/
def Cmd.rowEnds (c : Cmd) (n : Nat) (j : Word) : DWord × DWord :=
  let z := dRowsz c.d
  if c.kind == .gath then (rowAddr (dSrc c.d) j.toNat z, rowAddr (dDst c.d) n z)
  else (rowAddr (dSrc c.d) n z, rowAddr (dDst c.d) j.toNat z)

/-- One row of GATH or SCAT. -/
def State.moveRow (s : State) (c : Cmd) (n : Nat) (j : Word) : Except (BitVec 8 × State) State :=
  if j = 0xFFFFFFFF#32 then .ok s
  else match s.engRead c (c.rowEnds n j).1 (dRowsz c.d) with
    | .error e => .error e
    | .ok (bs, t) => t.engWrite c (c.rowEnds n j).2 bs

/-- The rows of block k: their places with their indices, as the check found them (log 53). -/
def Cmd.blockRows (c : Cmd) (k : Nat) : List (Nat × Word) :=
  (indexWords c.index (64 * k) (min 64 (dLen c.d - 64 * k))).zipIdx.map fun p => (64 * k + p.2, p.1)

/-- A block of 64 indices, ascending (R241). -/
def State.gatherBlock (s : State) (c : Cmd) (k : Nat) : Except (BitVec 8 × State) State :=
  (c.blockRows k).foldl (fun acc p => match acc with
    | .error e => .error e
    | .ok t => t.moveRow c p.1 p.2) (.ok s)

/-- Load a shell table (R243). -/
def State.loadShell (s : State) (c : Cmd) (tbl : Fin 8) : State :=
  let x := s.ctx c.ctx
  s.setCtx c.ctx { x with shells := writeBytes x.shells (1024 * tbl.val) c.desc }

/-- Perform unit k of a command. -/
def State.performUnit (s : State) (c : Cmd) (k : Nat) : Except (BitVec 8 × State) State :=
  match c.kind with
  | .cpy | .cpys => (s.copySegment c k).map (·.2)
  | .cbdc => (s.cbdcSegment c k).map (·.2)
  | .cpyam => match s.copySegment c k with
    | .error e => .error e
    | .ok (bs, t) => t.foldAmax c (amaxOf (ctlElt (dCtl c.d)) bs)
  | .gath | .scat => s.gatherBlock c k
  | .shld tbl => .ok (s.loadShell c tbl)

/-- The accesses of unit k of a command: address, length, and what they need. -/
def Cmd.unitRanges (c : Cmd) (k : Nat) : List (DWord × Nat × Acc) :=
  match c.kind with
  | .cpy | .cpys | .cpyam => (c.segment k).flatMap fun p => [(p.1, p.2.2, .r), (p.2.1, p.2.2, .w)]
  | .cbdc => (c.cbdcReads k).map fun p => (p.1, p.2, .r)
  | .gath | .scat => ((c.blockRows k).filter (·.2 != 0xFFFFFFFF#32)).flatMap fun p =>
      [((c.rowEnds p.1 p.2).1, dRowsz c.d, .r), ((c.rowEnds p.1 p.2).2, dRowsz c.d, .w)]
  | .shld _ => []

/-- Whether a unit has to wait: one of its accesses parks behind the first faulter of a page (R176), or what the engine's die shows of the
amax word, a store of its slice or an earlier command's write among it, is not applied at the word's home yet (R234, R244, R271). -/
def State.unitHeld (s : State) (c : Cmd) (k : Nat) : Bool :=
  let asid := s.asidOf c.ctx
  let held (die : Fin 5) (a : DWord) (n : Nat) (acc : Acc) : Bool :=
    windowOf a == some .global && s.rangeHeld die asid (offsetOf a) n acc
  (c.unitRanges k).any (fun p => held (coreDie c.core) p.1 p.2.1 p.2.2) ||
  (c.kind == .cpyam && windowOf (dAux c.d) == some .global &&
    (let va := offsetOf (dAux c.d)
     let die := s.homeDie asid va
     held die (dAux c.d) 4 .w || s.writes.any fun w => (w.home.isSome || w.applied.getLsbD (coreDie c.core).val) &&
       !w.applied.getLsbD die.val && w.asid == s.tagOf asid va && decide (w.va < va + 4) && decide (va < w.va + w.bytes.length)))

/-- Change a command. -/
def State.modCmd (s : State) (id : Nat) (f : Cmd → Cmd) : State :=
  { s with cmds := s.cmds.map fun c => if c.id == id then f c else c }

/-- Check a command once, with its index list taken then (log 53), and perform its next unit if nothing holds it. -/
def State.runCmd (s : State) (c : Cmd) : State :=
  let e := if c.checked then c.err else s.checkCmd c
  if !c.checked ∧ e ≠ 0#8 then s.modCmd c.id fun x => { x with checked := true, err := e }
  else
    let c := if c.checked then c else { c with checked := true, index := s.indexBytes c }
    let s := s.modCmd c.id fun _ => c
    if e ≠ 0#8 ∨ c.units ≤ c.unit ∨ s.unitHeld c c.unit then s
    else match s.performUnit c c.unit with
      | .ok t => t.modCmd c.id fun x => { x with unit := c.unit + 1 }
      | .error (k, t) => { t.modCmd c.id fun x => { x with err := k } with ticks := t.ticks + 1 }

/-! ### COPY tasks (R299) -/

/-- The status word of a command (R238). -/
def doneWord (err : BitVec 8) (units : Nat) : Word := 0x80#8 ++ err ++ BitVec.ofNat 16 (min units 0xFFFF)

/-- Take a COPY task up: its body is read and its copy made, or it finishes with the ERR of the failure. -/
def State.takeCopy (s : State) (cluster : Nat) (node : BitVec 16) (e : Entry) (id : Nat) : State :=
  match s.task? id with
  | none => s.dropEntry node e.id
  | some t =>
    if s.objectHeld t.ctx (recBody t.record) 44 then s
    else match s.readObject t.ctx (recBody t.record) 44 with
    | .error k => (k.2.dropEntry node e.id).endTask id (doneWord k.1 0) []
    | .ok (bs, u) =>
      { (u.modTask id fun x => { x with phase := .running, body := bs }) with
        cmds := u.cmds ++ [⟨u.nextId, 8 * cluster, cluster, 0, t.ctx, 0#32, 0, if recSub t.record = 0 then .cpy else .cpys, false, 0,
          some id, bs.take 32, [], true, false, 0, 0#8⟩]
        nextId := u.nextId + 1 }

/-- The command an entry stands for. -/
def State.entryCmd (s : State) (e : Entry) : Option Cmd :=
  match e.kind with
  | .command id => s.cmds.find? fun c => c.id == id
  | .task id => s.cmds.find? fun c => c.task == some id
  | _ => none

/-! ### Staging (R306) -/

/-- The wave entries of a core, in leaf order. -/
def State.waveEntries (s : State) (core : Nat) : List Entry :=
  (s.entries (waveLeaf core)).filter fun e => match e.kind with
    | .wave _ _ => true
    | _ => false

/-- The first wave entry of a core that is to be staged: it stands at the boarding depth or nearer the head, and is not boarded. -/
def State.stagingEntry (s : State) (core : Nat) : Option (Entry × Word × Nat) :=
  ((s.waveEntries core).take (descDepth (s.node (waveLeaf core)).desc + 1)).findSome? fun e => match e.kind with
    | .wave w (some n) => some (e, w, n)
    | _ => none

/-- The descriptors that staging still has to copy from segment n on: the source, the place in the share, the segments of each. -/
def stagingPieces (r : BitVec 512) : List (Nat × Nat) :=
  (List.range (recNstg r)).flatMap fun k =>
    (List.range (stgLen (recStg r k) / 4096)).map fun i => (stgSrc (recStg r k) + 4096 * i, stgDoff (recStg r k) + 4096 * i)

/-- The record of a wave's LAUNCH task. -/
def State.waveRecord (s : State) (w : Word) : BitVec 512 :=
  match s.wave? w with
  | some x => ((s.task? x.task).map (·.record)).getD 0#512
  | none => 0#512

/-- Boarding is over: how many clk the leaf stalled is free (log 17), and counted in BSTALL (R306, R311). -/
def State.countStall (s : State) (core : Nat) : State :=
  let n := s.node (waveLeaf core)
  { (s.setNode { n with bstall := n.bstall + Config.boardStall s.ticks }) with ticks := s.ticks + 1 }

/-- A wave entry of a core has staged another segment, or is boarded. -/
def State.setStaged (s : State) (core : Nat) (w : Word) (n : Option Nat) : State :=
  let t := s.modEntries (waveLeaf core) fun es => es.map fun e => match e.kind with
    | .wave x (some _) => if x = w then { e with kind := .wave x n } else e
    | _ => e
  if n.isNone then t.countStall core else t

/-- Stage one 4 KiB segment for a core; a failure ends the wave (R306). -/
def State.stage (s : State) (core : Nat) : State :=
  match s.stagingEntry core with
  | none => s
  | some (_, w, n) =>
    let ps := stagingPieces (s.waveRecord w)
    match ps[n]? with
    | none => s.setStaged core w none
    | some (src, dst) =>
      if s.rangeHeld (coreDie core) (s.asidOf (s.ctxOfWave w)) src 4096 .r then s
      else match s.readErr (coreDie core) (s.ctxOfWave w) src 4096 with
      | .error e => e.2.endWave w (WaveEnd.plain (e.1 ++ 0#16 ++ 2#8) core)
      | .ok (bs, t) =>
        (t.writeSpad core (((t.core core).share w).spad + dst) bs).setStaged core w (if n + 1 < ps.length then some (n + 1) else none)

/-- The step STAGING_COPY (R306): one segment of a core's staging; the engine is not in the middle of a segment between steps. -/
def execStagingCopy (core : Nat) (s : State) : Host.Outcome State Fault Refusal :=
  .next (if (s.core core).retired || s.fab.copying then s else s.stage core)

/-- Whether a cluster has boarding work, which its copy engine serves first (R305). -/
def State.boardingDue (s : State) (cluster : Nat) : Bool := (List.range 8).any fun k => (s.stagingEntry (8 * cluster + k)).isSome

/-! ### The engines (R305, R300, R310) -/

/-- The leaves an engine takes work from, in ascending node id (R305). -/
def engineLeaves (engine : BitVec 16) : List (BitVec 16) :=
  match nodeKind engine with
  | some (.copyEngine u) => (List.range 8).map (fun k => copyLeaf (8 * u + k)) ++ [engine]
  | _ => [engine]

/-- The head an engine would take (R305): the first in ascending node id, unless a later one precedes the one kept. -/
def State.pick (s : State) (engine : BitVec 16) : Option (BitVec 16 × Entry) :=
  (engineLeaves engine).foldl (fun acc n => match (s.entries n).head?, acc with
    | some e, some k => if rankPrecedes e.rank k.2.rank then some (n, e) else some k
    | some e, none => some (n, e)
    | none, k => k) none

/-- The entry an engine runs now, with the state in which it has taken one; none while it is to stop (R300). -/
def State.running (s : State) (engine : BitVec 16) : Option (BitVec 16 × Entry × State) :=
  match (s.serving? engine).bind fun v => (s.servedEntry v).map fun e => (v, e) with
  | some (v, e) => if v.stop.isSome then none else some (v.node, e, s)
  | none => match s.pick engine with
    | some (n, e) => some (n, e, s.serve engine (some (n, e.id)))
    | none => none

/-- Perform one unit at an engine; a checkpoint has stopped it (R363). -/
def State.runEngine (s : State) (cluster : Nat) (engine : BitVec 16) : State :=
  match if s.fab.copying then none else s.running engine with
  | none => s
  | some (n, e, t) => match t.entryCmd e with
    | some c => if c.finished then t else t.runCmd c
    | none => match e.kind with
      | .task id => t.takeCopy cluster n e id
      | _ => t

/-- The step COPY_SEGMENT (R241): boarding work first (R305). -/
def execCopySegment (cluster : Fin 24) (s : State) : Host.Outcome State Fault Refusal :=
  .next (if s.boardingDue cluster.val then s else s.runEngine cluster.val (engineLeaf cluster.val))

/-- The step GATHER_BLOCK (R241). -/
def execGatherBlock (cluster : Fin 24) (s : State) : Host.Outcome State Fault Refusal :=
  .next (s.runEngine cluster.val (gatherLeaf cluster.val))

/-! ### Completion (R194, R238, R239) -/

/-- Fill the token of a command, with its check mark if it has one. -/
def State.fillToken (s : State) (c : Cmd) : State :=
  match s.txns.find? fun t => t.id == c.txn && t.kind == .token c.id with
  | none => s
  | some t =>
    let x := doneWord c.err c.unit
    let mark (sl : Slice) (r : RegName) : Slice := match r with
      | .s n => { sl with s := sl.s.set n { sl.s.get n with mark := true } }
      | .b n => { sl with bank := sl.bank.set n { sl.bank.get n with mark := true } }
      | _ => sl
    let s := t.parts.foldl (fun y p => y.fillWord p x) s
    let s := if c.chk then t.parts.foldl (fun y p => y.modSlice p.sid fun sl => p.dst.foldl mark sl) s else s
    { s.dropTxn t.id with tokens := s.tokens ++ t.parts.flatMap fun p => p.dst.map fun r => (p.sid, r, c.id) }

/-- Take a finished command from its leaf and its engine. -/
def State.retireEntry (s : State) (c : Cmd) : State :=
  let hit (e : Entry) : Bool := match c.task with
    | some id => e.kind == .task id
    | none => e.kind == .command c.id
  let gone := s.nodes.flatMap fun n => (n.entries.filter hit).map (·.id)
  { s with
    nodes := s.nodes.map fun n => if n.entries.any hit then { n with entries := n.entries.filter fun e => !hit e } else n
    serving := s.serving.filter fun v => !gone.contains v.entry }

/-- Whether the writes of a command are visible at the scope of R194, so that the commands after it see them (R234). -/
def State.writesShown (s : State) (c : Cmd) : Bool :=
  s.writes.all fun w => !w.by_.contains c.id || w.applied.getLsbD (coreDie c.core).val

/-- Complete a command (R194): its token, then its arrival; a COPY task ends with its status word (R299). The accesses parked behind its
fault walk again (R176). -/
def State.completeCmd (s : State) (c : Cmd) : State :=
  let s := { (s.retireEntry c).releaseFaults c.id with cmds := s.cmds.filter fun x => x.id != c.id }
  match c.task with
  | some id => s.modTask id fun t => { t with phase := .ending (doneWord c.err c.unit) }
  | none =>
    let s := s.fillToken c
    let arrives := (match c.kind with
      | .shld _ => false
      | _ => ctlBen (dCtl c.d)) && !s.boffBad c
    let s := if arrives then s.arrive c.core (((s.core c.core).share c.wave).spad + ctlBoff (dCtl c.d)) else s
    s.freeShares c.core

/-- The step COPY_COMPLETE (R194). -/
def execCopyComplete (id : Nat) (s : State) : Host.Outcome State Fault Refusal :=
  .next (match s.cmds.find? fun c => c.id == id with
    | some c => if c.finished && !s.isSaved c.core c.wave && s.writesShown c then s.completeCmd c else s
    | none => s)

end Sys2Proof.Machine
end

