-- ==== Sys2Proof/Machine/Image.lean ====
section
/-! DEFINITION. Images in a context's save arena (R37, R45, R46, R311, R326): the command die's reads and writes of the arena, the units
of the image space, and what the image of a slice, of an octet's tile state and of a presence holds, byte by byte (log 15). -/

set_option Elab.async false

namespace Sys2Proof.Machine

/-! ### The arena (R326) -/

/-- The global address of a place in a context's save arena. -/
def State.arenaVa (s : State) (c : Fin 17) (off : Nat) : Nat := offsetOf (s.ctx c).save + off

/-- Write bytes of the arena for the command die, visible to every agent at once; left out where the page cannot be written (log 15). -/
def State.writeArena (s : State) (c : Fin 17) (off : Nat) (bs : List Byte) : State :=
  let va := s.arenaVa c off
  match s.walk (s.asidOf c) va with
  | .leaf l =>
    if l.w then
      let t := s.flushRange (s.asidOf c) va bs.length
      t.physPut (t.keyOf (if l.glb then 0#16 else t.asidOf c)) (l.frame + va % 2 ^ pageShift l.size) bs
    else s
  | .fault _ _ => s
  | .malformed _ => s

/-- Read bytes of the arena for the command die, with every write to them complete; none where the page cannot be read. -/
def State.readArena (s : State) (c : Fin 17) (off n : Nat) : Option (List Byte × State) :=
  let va := s.arenaVa c off
  match s.walk (s.asidOf c) va with
  | .leaf l =>
    if l.r then
      let t := s.flushRange (s.asidOf c) va n
      some (t.physGet (t.keyOf (if l.glb then 0#16 else t.asidOf c)) (l.frame + va % 2 ^ pageShift l.size) n, t)
    else none
  | .fault _ _ => none
  | .malformed _ => none

/-- The place of a unit of the image space in the arena. -/
def unitOff (unit : Nat) : Nat := 0xC10000 + 4096 * unit

/-- The 4 KiB units of a context's image space. -/
def Ctx.imageUnits (c : Ctx) : Nat := (c.savelen.toNat - 0xC10000) / 4096

/-- The units a context's images hold. -/
def State.unitsUsed (s : State) (c : Fin 17) : List Nat :=
  (s.parks.filter fun p => p.ctx == c).flatMap (fun p => p.image.map (·.unit)) ++
  (s.presences.filter fun p => p.ctx == c).flatMap (·.units)

/-- Whether a context has room for more units. -/
def State.unitsFit (s : State) (c : Fin 17) (n : Nat) : Bool := decide ((s.unitsUsed c).length + n ≤ (s.ctx c).imageUnits)

/-- The units a save of n units takes: the lowest free ones (log 15). -/
def State.takeUnits (s : State) (c : Fin 17) (n : Nat) : List Nat :=
  let used := s.unitsUsed c
  ((List.range (used.length + n)).filter fun u => !used.contains u).take n

/-! ### Words and bits -/

/-- The lanes of a register as 16 bytes. -/
def lanesBytes (l : Lanes) : List Byte := (List.finRange 4).flatMap fun i => toBytes 4 (l.get i).toNat

/-- The lanes that stand in 16 bytes. -/
def lanesAt (bs : List Byte) (off : Nat) : Lanes := Lanes.ofFn fun i => fieldOf bs (off + 4 * i.val) 4 32

/-- A list of bits as a number, the first the lowest. -/
def bitsNum (bs : List Bool) : Nat := bs.foldr (fun b x => (if b then 1 else 0) + 2 * x) 0

/-- Bytes with zeros behind them, up to a length. -/
def padTo (n : Nat) (bs : List Byte) : List Byte := bs ++ List.replicate (n - bs.length) 0#8

/-! ### The reconvergence stack (R37) -/

/-- An entry in the saved image. -/
def StackEntry.word (e : StackEntry) : BitVec 96 :=
  e.mode ++ e.mask ++ BitVec.ofBool e.pending ++ 0#3 ++ e.pc.extractLsb' 2 54 ++ 0#2

/-- The entry an image holds; reserved bits are ignored. -/
def StackEntry.ofWord (w : BitVec 96) : StackEntry :=
  ⟨w.extractLsb' 64 32, w.extractLsb' 60 4, w.getLsbD 59, (w.extractLsb' 2 54 ++ 0#2 : BitVec 56).setWidth 64⟩

/-! ### The image of a slice (R30, R45, R168, R170, R239) -/

/-- The full/empty bits of a slice: v0–v95, o0–o15, s0–s63, the supervisor bank. -/
def Slice.fullBits (x : Slice) : List Bool :=
  x.v.toList.map (·.full) ++ x.o.toList.map (·.full) ++ x.s.toList.map (·.full) ++ x.bank.toList.map (·.full)

/-- The check marks of a slice: s0–s63, the supervisor bank. -/
def Slice.marks (x : Slice) : List Bool := x.s.toList.map (·.mark) ++ x.bank.toList.map (·.mark)

/-- The bits of an image: 24 bytes of full/empty bits, 16 of check marks. -/
def Slice.flagBytes (x : Slice) : List Byte := toBytes 24 (bitsNum x.fullBits) ++ toBytes 16 (bitsNum x.marks)

/-- The eight single bytes of an image. -/
def Slice.smallBytes (x : Slice) : List Byte :=
  [x.amask.setWidth 8, x.rgnMask.setWidth 8, BitVec.ofNat 8 x.rgnDepth, if x.late then 1#8 else 0#8, BitVec.ofNat 8 x.stack.length,
   BitVec.ofNat 8 x.sup.length, x.taken.extractLsb' 0 8, x.taken.extractLsb' 8 8]

/-- The stack of an image: sixteen entries, each segment from its bottom. -/
def Slice.stackBytes (x : Slice) : List Byte :=
  padTo 144 (x.stack.reverse.flatMap fun e => toBytes 12 e.word.toNat) ++
  padTo 48 (x.sup.reverse.flatMap fun e => toBytes 12 e.word.toNat)

/-- The image of a slice: registers, bits from byte 2,128 on, control state from 2,168, the stack from 2,240. -/
def Slice.imageBytes (x : Slice) : List Byte :=
  x.v.toList.flatMap (fun c => lanesBytes c.val) ++ x.o.toList.flatMap (fun c => lanesBytes c.val) ++ x.w.toList.flatMap lanesBytes ++
  x.s.toList.flatMap (fun c => toBytes 4 c.val.toNat) ++ x.bank.toList.flatMap (fun c => toBytes 4 c.val.toNat) ++ x.flagBytes ++
  x.p.toList.map (fun m => m.setWidth 8) ++ toBytes 4 x.mode.toNat ++ toBytes 4 x.fstat.toNat ++ toBytes 8 x.pc.toNat ++
  toBytes 8 x.rgnpc.toNat ++ toBytes 8 x.tpc.toNat ++ toBytes 4 x.rgncnt.toNat ++ toBytes 4 x.crews.toNat ++ toBytes 4 x.tcause.toNat ++
  toBytes 12 x.tdet.toNat ++ x.smallBytes ++ x.stackBytes

/-- The place of the supervisor save area in a slice's unit of a presence image. -/
def areaOff : Nat := 2560

/-- A full/empty bit of an image. -/
def imageFull (bs : List Byte) (i : Nat) : Bool := (bs.getD (2128 + i / 8) 0#8).getLsbD (i % 8)

/-- A check mark of an image. -/
def imageMark (bs : List Byte) (i : Nat) : Bool := (bs.getD (2152 + i / 8) 0#8).getLsbD (i % 8)

/-- A vector register as an image gives it back; one whose fill is outstanding keeps the lanes that have returned. -/
def VCell.ofImage (c : VCell) (full : Bool) (val : Lanes) : VCell := ⟨if c.full || full then val else c.val, full⟩

/-- A scalar register as an image gives it back. -/
def SCell.ofImage (c : SCell) (full mark : Bool) (val : Word) : SCell := ⟨if c.full || full then val else c.val, full, mark⟩

/-- A segment of the stack of an image. -/
def stackOf (bs : List Byte) (off n : Nat) : List StackEntry :=
  ((List.range n).map fun i => StackEntry.ofWord (fieldOf bs (off + 12 * i) 12 96)).reverse

/-- A slice with what its image holds. -/
def Slice.ofImage (x : Slice) (bs : List Byte) : Slice :=
  let byte (i : Nat) : Byte := bs.getD i 0#8
  { x with
    v := Vector.ofFn fun i : Fin 96 => (x.v.get i).ofImage (imageFull bs i.val) (lanesAt bs (16 * i.val))
    o := Vector.ofFn fun i : Fin 16 => (x.o.get i).ofImage (imageFull bs (96 + i.val)) (lanesAt bs (1536 + 16 * i.val))
    w := Vector.ofFn fun i : Fin 4 => lanesAt bs (1792 + 16 * i.val)
    s := Vector.ofFn fun i : Fin 64 => (x.s.get i).ofImage (imageFull bs (112 + i.val)) (imageMark bs i.val) (fieldOf bs (1856 + 4 * i.val) 4 32)
    bank := Vector.ofFn fun i : Fin 4 =>
      (x.bank.get i).ofImage (imageFull bs (176 + i.val)) (imageMark bs (64 + i.val)) (fieldOf bs (2112 + 4 * i.val) 4 32)
    p := Vector.ofFn fun i : Fin 8 => (byte (2168 + i.val)).setWidth 4
    mode := fieldOf bs 2176 4 32
    fstat := fieldOf bs 2180 4 32
    pc := fieldOf bs 2184 8 64
    rgnpc := fieldOf bs 2192 8 64
    tpc := fieldOf bs 2200 8 64
    rgncnt := fieldOf bs 2208 4 32
    crews := fieldOf bs 2212 4 32
    tcause := fieldOf bs 2216 4 32
    tdet := fieldOf bs 2220 12 96
    amask := (byte 2232).setWidth 4
    rgnMask := (byte 2233).setWidth 4
    rgnDepth := (byte 2234).toNat
    late := byte 2235 != 0#8
    taken := fieldOf bs 2238 2 16
    stack := stackOf bs 2240 (min (byte 2236).toNat 12)
    sup := stackOf bs 2384 (min (byte 2237).toNat 4) }

/-! ### Open REGANG membership and armed waits (R42, R97, R326; log 15) -/

/-- Whether an operation is a wait on a mailbox or a word (R97). -/
def TxnKind.isWait (k : TxnKind) : Bool :=
  match k with
  | .waitw _ | .waitv _ => true
  | _ => false

/-- The armed waits of a slice, in the order of their issue. -/
def State.waitsOf (s : State) (sid : Nat) : List Txn := s.txns.filter fun t => t.kind.isWait && t.has sid

/-- An armed wait as 16 bytes: its kind, the mailbox, the register it fills, then the threshold and the address of its word. -/
def Txn.waitBytes (t : Txn) (sid : Nat) : List Byte :=
  let reg : Byte := match (t.parts.find? fun p => p.sid == sid).bind (·.dst.head?) with
    | some r => 0#1 ++ (match r with
      | .v n => BitVec.ofNat 7 n.val
      | .o n => BitVec.ofNat 7 (96 + n.val)
      | .s n => BitVec.ofNat 7 n.val
      | .b n => BitVec.ofNat 7 (64 + n.val)
      | .gone => 0x7F#7)
    | none => 0xFF#8
  let addr := ((t.lanes.head?).map (·.addr)).getD 0#64
  match t.kind with
  | .waitw m => [1#8, BitVec.ofNat 8 m.val, reg, 0#8] ++ toBytes 12 0
  | .waitv x => [2#8, 0#8, reg, 0#8] ++ toBytes 4 x.toNat ++ toBytes 8 addr.toNat
  | _ => toBytes 16 0

/-- An armed wait with what 16 bytes of an image hold; the register it fills stays. -/
def Txn.ofWaitBytes (t : Txn) (bs : List Byte) (off : Nat) : Txn :=
  match t.kind with
  | .waitw _ => { t with kind := .waitw (Fin.ofNat 64 (bs.getD (off + 1) 0#8).toNat) }
  | .waitv _ => { t with
      kind := .waitv (fieldOf bs (off + 4) 4 32)
      lanes := t.lanes.map fun l => { l with addr := fieldOf bs (off + 8) 8 64 } }
  | _ => t

/-- The membership of a slice in an open REGANG instance, as 16 bytes: whether it is in one, whether that is timed, the PC. -/
def State.regangBytes (s : State) (sid : Nat) : List Byte :=
  match s.regangs.find? fun r => r.arrived.contains sid with
  | some r => [1#8, if r.timed then 1#8 else 0#8] ++ toBytes 6 0 ++ toBytes 8 r.pc.toNat
  | none => toBytes 16 0

/-- The place of the REGANG membership and of the armed waits in a slice's image. -/
def regangOff : Nat := 2432
def waitsOff : Nat := 3072

/-- The armed waits of a slice as they stand in its image. -/
def State.waitsBytes (s : State) (sid : Nat) : List Byte := padTo 1024 (((s.waitsOf sid).take 64).flatMap fun t => t.waitBytes sid)

/-- The open instance and the armed waits of a slice take back what its image holds; a slice is in the instance it was in, and has as
many waits as it had. -/
def State.takeLinks (s : State) (sid : Nat) (bs : List Byte) : State :=
  let ids := ((s.waitsOf sid).take 64).map (·.id)
  { s with
    regangs := s.regangs.map fun r =>
      if r.arrived.contains sid then { r with pc := fieldOf bs (regangOff + 8) 8 64, timed := bs.getD (regangOff + 1) 0#8 != 0#8 } else r
    txns := s.txns.map fun t => match ids.findIdx? fun i => i == t.id with
      | some k => t.ofWaitBytes bs (waitsOff + 16 * k)
      | none => t }

/-- The place and the bytes of a register in an image, by the place of its full/empty bit. -/
def Slice.regPiece (x : Slice) (i : Nat) : Nat × List Byte :=
  if i < 96 then (16 * i, lanesBytes (x.v.get (Fin.ofNat 96 i)).val)
  else if i < 112 then (16 * i, lanesBytes (x.o.get (Fin.ofNat 16 (i - 96))).val)
  else if i < 176 then (1856 + 4 * (i - 112), toBytes 4 (x.s.get (Fin.ofNat 64 (i - 112))).val.toNat)
  else (2112 + 4 * (i - 176), toBytes 4 (x.bank.get (Fin.ofNat 4 (i - 176))).val.toNat)

/-! ### Fills and reports that land in an image (R45, R163, R169) -/

/-- What an image is known to show of a slice: its full/empty bits, and its pending report. -/
def Slice.shown (x : Slice) : List Bool := x.fullBits ++ [x.late]

/-- Save a slice in a unit of its context's image space. -/
def State.saveSlice (s : State) (c : Fin 17) (unit : Nat) (x : Slice) : State :=
  (s.writeArena c (unitOff unit) (x.imageBytes ++ s.regangBytes x.sid)).writeArena c (unitOff unit + waitsOff) (s.waitsBytes x.sid)

/-- Bring an image up to what its slice has by now: the registers whose fills have come, the bits, the report. -/
def State.syncSlice (s : State) (c : Fin 17) (i : SavedSlice) : State × SavedSlice :=
  match s.slice? i.sid with
  | none => (s, i)
  | some x =>
    if x.shown = i.full then (s, i)
    else
      let news := (List.range 180).filter fun k => x.shown.getD k false && !i.full.getD k false
      let t := news.foldl (fun (y : State) k => y.writeArena c (unitOff i.unit + (x.regPiece k).1) (x.regPiece k).2) s
      let t := (t.writeArena c (unitOff i.unit + 2128) x.flagBytes).writeArena c (unitOff i.unit + 2232) x.smallBytes
      let t := t.writeArena c (unitOff i.unit + waitsOff) (s.waitsBytes x.sid)
      (t, { i with full := x.shown })

/-- Bring a list of images up to date. -/
def State.syncAll (s : State) (c : Fin 17) (is : List SavedSlice) : State × List SavedSlice :=
  is.foldl (fun acc i =>
    let r := acc.1.syncSlice c i
    (r.1, acc.2 ++ [r.2])) (s, [])

/-- Whether some image of a list is behind its slice. -/
def State.behind (s : State) (is : List SavedSlice) : Bool :=
  is.any fun i => match s.slice? i.sid with
    | some x => x.shown != i.full
    | none => false

/-- Fills that have come since the last step land in the images (R45, R163). -/
def State.syncImages (s : State) : State :=
  let s := (s.parks.filter fun p => s.behind p.image).foldl (fun x p =>
    let r := x.syncAll p.ctx p.image
    { r.1 with parks := r.1.parks.map fun q => if q.gang.gid == p.gang.gid then { q with image := r.2 } else q }) s
  (s.presences.filter fun p => s.behind p.image).foldl (fun x p =>
    let r := x.syncAll p.ctx p.image
    { r.1 with presences := r.1.presences.map fun q => if q.core == p.core && q.wave == p.wave then { q with image := r.2 } else q }) s

/-- Slices take back what their images hold. -/
def State.readImages (s : State) (c : Fin 17) (is : List SavedSlice) : State :=
  is.foldl (fun x i => match x.readArena c (unitOff i.unit) 4096 with
    | some (bs, y) => (y.modSlice i.sid fun sl => sl.ofImage bs).takeLinks i.sid bs
    | none => x) s

/-! ### The park table (R46) -/

/-- A register as a register field names it. -/
def RegName.field (r : RegName) : BitVec 7 :=
  match r with
  | .v n => BitVec.ofNat 7 n.val
  | .o n => BitVec.ofNat 7 (96 + n.val)
  | .s n => BitVec.ofNat 7 n.val
  | .b n => BitVec.ofNat 7 (60 + n.val)
  | .gone => 0#7

/-- The park-table entry of a gang whose image begins at an address; a wait at a barrier names no register (log 15). -/
def State.parkEntry (s : State) (g : Gang) (save : DWord) : BitVec 128 :=
  let ms := s.membersOf g
  let index := (ms.head?.map Slice.block).getD 0#32
  let memb := ms.foldl (fun (m : Byte) x => m ||| (1#8 <<< (x.slot % 8))) 0#8
  let wait : BitVec 7 × BitVec 3 := match g.wait with
    | .parked sid r => (r.field, ((s.slice? sid).map fun x => BitVec.ofNat 3 x.slot).getD 0#3)
    | _ => (0#7, 0#3)
  index ++ memb ++ wait.1 ++ wait.2 ++ 0#6 ++ BitVec.ofNat 8 g.core ++ save.extractLsb' 6 58 ++ 0#6

/-! ### Tile state and shares in a presence image (R216, R326) -/

/-- A queued tile instruction as 32 bytes. -/
def TileOp.imageBytes (o : TileOp) : List Byte :=
  [o.op.setWidth 8, 0#8, 0#8, 0#8] ++ toBytes 4 o.d.toNat ++ toBytes 4 o.a.toNat ++ toBytes 4 o.b.toNat ++ toBytes 4 o.mode.toNat ++
  toBytes 8 o.pc.toNat ++ toBytes 4 0

/-- A queued tile instruction with what 32 bytes of an image hold. -/
def TileOp.ofImage (bs : List Byte) (off : Nat) : TileOp :=
  ⟨(bs.getD off 0#8).setWidth 4, fieldOf bs (off + 4) 4 32, fieldOf bs (off + 8) 4 32, fieldOf bs (off + 12) 4 32,
   fieldOf bs (off + 16) 4 32, fieldOf bs (off + 20) 8 64⟩

/-- An octet's tile state: TSA, RESUME, the queue's length and its instructions. -/
def OctetRec.imageBytes (o : OctetRec) : List Byte :=
  padTo 4096 (toBytes 4 o.tsa.toNat ++ toBytes 4 o.resume ++ toBytes 4 o.queue.length ++ toBytes 20 0 ++
    o.queue.flatMap fun e => e.op.imageBytes)

/-- An octet's tile state with what its image holds; the queue keeps its length. -/
def OctetRec.ofImage (o : OctetRec) (bs : List Byte) : OctetRec :=
  { o with
    tsa := fieldOf bs 0 4 32
    resume := (fieldOf bs 4 4 32 : Word).toNat
    queue := o.queue.zipIdx.map fun p => { p.1 with op := TileOp.ofImage bs (32 + 32 * p.2) } }

/-- A command that is queued again, as 48 bytes: its descriptor, its next unit, its ERR (R195). -/
def Cmd.imageBytes (c : Cmd) : List Byte :=
  padTo 32 (c.desc.take 32) ++ toBytes 4 c.unit ++ [c.err, if c.checked then 1#8 else 0#8] ++ toBytes 10 0

/-- A command with what its image holds; a shell table's words do not fit there (log 15). -/
def Cmd.ofImage (c : Cmd) (bs : List Byte) (off : Nat) : Cmd :=
  if c.desc.length ≠ 32 then c
  else { c with desc := (bs.drop off).take 32, unit := (fieldOf bs (off + 32) 4 32 : Word).toNat, err := bs.getD (off + 36) 0#8 }

/-- The commands of a wave on a core. -/
def State.waveCmds (s : State) (core : Nat) (w : Word) : List Cmd :=
  s.cmds.filter fun c => c.core == core && c.wave == w && c.task.isNone

/-- Cut bytes into units of 4 KiB. -/
def cutUnits (n : Nat) (bs : List Byte) : List (List Byte) :=
  match n with
  | 0 => []
  | k + 1 => bs.take 4096 :: cutUnits k (bs.drop 4096)

/-- The shares of a presence as units: scratchpad, accumulators, B-stack data and side arrays, column by column (R207, R326). -/
def Presence.shareUnits (p : Presence) : List (List Byte) :=
  let h := p.share
  let cols (m : Mem) (size : Nat) (at_ : Nat → Nat) : List Byte :=
    (List.range 32).flatMap fun j => denseBytes m (at_ j) (size * h.rowsLen)
  cutUnits (h.spadLen / 4096) (denseBytes p.spad 0 h.spadLen) ++ cutUnits (h.acctLen / 2) (denseBytes p.accm 0 (2048 * h.acctLen)) ++
  cutUnits (13 * (h.rowsLen / 16)) (cols p.bdata 96 (fun j => 49152 * j) ++ cols p.bside 8 fun j => 4096 * j)

/-- The header of a presence image: 8 KiB with the share sizes, the counts and the commands. -/
def State.presenceHeader (s : State) (p : Presence) : List Byte :=
  padTo 8192 (toBytes 4 p.wave.toNat ++ toBytes 4 p.core ++ toBytes 4 p.share.spadLen ++ toBytes 4 p.share.acctLen ++
    toBytes 4 p.share.rowsLen ++ toBytes 4 p.image.length ++ toBytes 4 p.octets.length ++ toBytes 36 0 ++
    (s.waveCmds p.core p.wave).flatMap Cmd.imageBytes)

/-- The units of a presence image in their order: header, slices with their save areas, octets, shares (R326). -/
def State.presenceBytes (s : State) (p : Presence) : List (List Byte) :=
  cutUnits 2 (s.presenceHeader p) ++
  p.image.map (fun i => match s.slice? i.sid with
    | some x => padTo areaOff (x.imageBytes ++ s.regangBytes x.sid) ++
        padTo 512 ((p.areas.find? fun a => a.1 == i.sid).elim [] (·.2)) ++ s.waitsBytes x.sid
    | none => []) ++
  p.octets.map OctetRec.imageBytes ++ p.shareUnits

/-- Write a presence image. -/
def State.writePresence (s : State) (p : Presence) : State :=
  (p.units.zip (s.presenceBytes p)).foldl (fun x u => x.writeArena p.ctx (unitOff u.1) u.2) s

/-- The units of a range of an image, as far as they can be read; the rest as the device keeps it. -/
def State.readUnits (s : State) (c : Fin 17) (us : List (Nat × List Byte)) : List Byte × State :=
  us.foldl (fun acc u => match acc.2.readArena c (unitOff u.1) 4096 with
    | some (bs, t) => (acc.1 ++ bs, t)
    | none => (acc.1 ++ padTo 4096 u.2, acc.2)) ([], s)

/-- A presence with what its image holds of octets and shares, and the state with its commands and slices taken back. -/
def State.readPresence (s : State) (p : Presence) : Presence × State :=
  let us := p.units.zip (s.presenceBytes p)
  let n := p.image.length
  let k := p.octets.length
  let h := p.share
  let head := s.readUnits p.ctx (us.take 2)
  let cmds := head.2.waveCmds p.core p.wave
  let t : State := { head.2 with cmds := head.2.cmds.map fun c => match cmds.findIdx? fun x => x.id == c.id with
    | some i => c.ofImage head.1 (64 + 48 * i)
    | none => c }
  let t := t.readImages p.ctx p.image
  let areas := (p.image.zip (us.drop 2)).foldl (fun (acc : List (Nat × List Byte) × State) i =>
    let r := acc.2.readUnits p.ctx [i.2]
    (acc.1 ++ [(i.1.sid, (r.1.drop areaOff).take 512)], r.2)) ([], t)
  let octs := (p.octets.zip (us.drop (2 + n))).foldl (fun (acc : List OctetRec × State) o =>
    let r := acc.2.readUnits p.ctx [o.2]
    (acc.1 ++ [o.1.ofImage r.1], r.2)) ([], areas.2)
  let rest := octs.2.readUnits p.ctx (us.drop (2 + n + k))
  let spad := rest.1.take h.spadLen
  let accm := (rest.1.drop h.spadLen).take (2048 * h.acctLen)
  let rows := rest.1.drop (h.spadLen + 2048 * h.acctLen)
  let cols (from_ : Nat) (size : Nat) (at_ : Nat → Nat) : Mem :=
    (List.range 32).flatMap fun j => sparseBytes (at_ j) ((rows.drop (from_ + size * h.rowsLen * j)).take (size * h.rowsLen))
  ({ p with
     areas := areas.1
     octets := octs.1
     spad := sparseBytes 0 spad
     accm := sparseBytes 0 accm
     bdata := cols 0 96 fun j => 49152 * j
     bside := cols (32 * 96 * h.rowsLen) 8 fun j => 4096 * j }, rest.2)

end Sys2Proof.Machine
end

