-- ==== Sys2Proof/Machine/Waves.lean ====
section
/-! DEFINITION. Waves on cores: shares and the placement of blocks (R44, R183, R276), stealing (R277), swap-out and return of gangs
(R45), presences saved and restored (R195, R304, R305, R311, R326), pre-emption at leaves (R300, R310), the world switch (R327). -/

set_option Elab.async false

namespace Sys2Proof.Machine

/-! ### Shares (R183) -/

/-- Whether a range is clear of the ranges in use. -/
def clearOf (used : List (Nat × Nat)) (base len : Nat) : Bool := used.all fun u => decide (base + len ≤ u.1 ∨ u.1 + u.2 ≤ base)

/-- The lowest place for a range of `len` in a store of `total` (log 16). -/
def firstFit (used : List (Nat × Nat)) (len total : Nat) : Option Nat :=
  if len = 0 then some 0
  else ((0 :: used.map fun u => u.1 + u.2).filter fun b => decide (b + len ≤ total) && clearOf used b len).foldl (fun acc b =>
    match acc with
    | none => some b
    | some a => some (min a b)) none

/-- The shares a wave would take on a core, where they fit: scratchpad bytes, tiles, B-stack rows. -/
def CoreRec.newShare (r : CoreRec) (w : Word) (spadU acctU browsU : Nat) : Option Share :=
  match firstFit (r.shares.map fun h => (h.spad, h.spadLen)) (4096 * spadU) (2 ^ 20),
      firstFit (r.shares.map fun h => (h.acct, h.acctLen)) (16 * acctU) 256,
      firstFit (r.shares.map fun h => (h.rows, h.rowsLen)) (16 * browsU) 512 with
  | some a, some b, some c => some ⟨w, a, 4096 * spadU, b, 16 * acctU, c, 16 * browsU⟩
  | _, _, _ => none

/-- The address of a B-stack data byte (R185) and of a side byte (R207) in their stores. -/
def bAddr (col row byte : Nat) : Nat := 49152 * col + 96 * row + byte
def sideAddr (col row byte : Nat) : Nat := 4096 * col + 8 * row + byte

/-- Allocate a share and zero it (R183, R207). -/
def CoreRec.takeShare (r : CoreRec) (h : Share) : CoreRec :=
  { r with
    shares := r.shares ++ [h]
    spad := memClear r.spad h.spad h.spadLen
    accm := memClear r.accm (2048 * h.acct) (2048 * h.acctLen)
    bdata := (List.range 32).foldl (fun m j => memClear m (bAddr j h.rows 0) (96 * h.rowsLen)) r.bdata
    bside := (List.range 32).foldl (fun m j => memClear m (sideAddr j h.rows 0) (8 * h.rowsLen)) r.bside }

/-- Whether a wave holds shares on a core. -/
def CoreRec.holds (r : CoreRec) (w : Word) : Bool := r.shares.any fun h => h.wave == w

/-! ### Placement (R40, R276) -/

/-- Whether a fill of a slice that has ended is still to return to a slot of an octet (R89). -/
def State.slotBusy (s : State) (core oct : Nat) : Bool :=
  s.txns.any fun t => t.core == core && t.parts.any fun p => p.slot / 8 == oct && !p.dst.isEmpty && (s.slice? p.sid).isNone

/-- Whether an octet is free (R40): no slice stands in its slots, none of them waits for a fill, and its tile queue is empty. -/
def State.octetFree (s : State) (core oct : Nat) : Bool :=
  s.slices.all (fun x => !(x.core == core && x.place == .resident && x.slot / 8 == oct)) && !s.slotBusy core oct &&
  (s.octet core oct).queue.isEmpty

/-- The lowest free octet of a core. -/
def State.freeOct (s : State) (core : Nat) : Option Nat := (List.range 16).find? fun o => s.octetFree core o

/-- Whether a wave has its entry in a core's wave leaf. -/
def State.hasWaveEntry (s : State) (core : Nat) (w : Word) : Bool :=
  (s.waveEntries core).any fun e => match e.kind with
    | .wave x _ => x == w
    | _ => false

/-- Whether a core can take a block of a wave (R183, R276, R304). -/
def State.canPlace (s : State) (core : Nat) (w : Wave) : Bool :=
  let r := s.core core
  !r.retired && s.online.getLsbD (dieOfCore core) && (s.freeOct core).isSome && !s.isSaved core w.num &&
  (r.holds w.num || (r.newShare w.num w.spadU w.acctU w.browsU).isSome) && (s.hasWaveEntry core w.num || s.nodeRoom (waveLeaf core))

/-- The cores of a domain. -/
def coresOf (d : Nat) : List Nat := (List.range 48).map fun i => 48 * d + i

/-- Place a block of a wave on a core that can take it (R40, R44): its slices, in one gang. -/
def State.placeOn (s : State) (core : Nat) (w : Wave) (b : Block) : State :=
  let r := s.core core
  let oct := (s.freeOct core).getD 0
  let n := min 8 (w.n - 8 * b.j)
  let id := s.nextId
  let s := match if r.holds w.num then none else r.newShare w.num w.spadU w.acctU w.browsU with
    | some h => s.setCore core (r.takeShare h)
    | none => s
  let ids := (List.range n).map (id + ·)
  let s : State := { s with
    slices := s.slices ++ (List.range n).map fun k =>
      Slice.create (id + k) w.num (BitVec.ofNat 32 (8 * b.j + k)) core (8 * oct + k) w.entry w.mode w.args
    gangs := s.gangs ++ [⟨id + 8, core, oct, ids, .ready, id + 8, 0⟩]
    waves := s.waves.map fun x => if x.num == w.num then { x with blocks := x.blocks.filter fun y => y.j != b.j } else x
    nextId := id + 9 }
  if s.hasWaveEntry core w.num then s
  else s.enterNode (waveLeaf core) (.wave w.num (if recNstg (s.waveRecord w.num) = 0 then none else some 0)) (s.waveFields w.num) none

/-- The lowest of a wave's unplaced blocks that a domain owns. -/
def Wave.lowBlock (w : Wave) (d : Nat) : Option Block :=
  (w.blocks.filter fun b => b.dom.val == d).foldl (fun acc b => match acc with
    | none => some b
    | some x => if b.j < x.j then some b else some x) none

/-- The waves a domain lists, in the order it serves them (R276), that are in and own a block there. -/
def State.listed (s : State) (d : Nat) : List (Wave × Block) :=
  (s.launches.toList.getD d []).filterMap fun e => match e.kind with
    | .wave n _ => (s.wave? n).bind fun w => if s.isIn w.ctx d then (w.lowBlock d).map fun b => (w, b) else none
    | _ => none

/-- The step BLOCK_PLACE (R276): the first wave in launch order with a block that some core of the domain takes. -/
def execBlockPlace (dom : Fin 4) (s : State) : Host.Outcome State Fault Refusal :=
  .next (match (s.listed dom.val).findSome? fun p =>
      ((coresOf dom.val).find? fun k => s.canPlace k p.1).map fun k => (k, p) with
    | some (k, w, b) => s.placeOn k w b
    | none => s)

/-- The unplaced blocks of a wave that a domain owns. -/
def Wave.owned (w : Wave) (d : Nat) : List Block := w.blocks.filter fun b => b.dom.val == d

/-- The domain a steal request goes to (R277): of the wave's die mask the one with the most unplaced blocks, the lowest on a tie. -/
def Wave.richest (w : Wave) (thief : Nat) : Nat :=
  (domainsOf w.dies).foldl (fun a d => if d ≠ thief ∧ (w.owned a).length < (w.owned d).length then d else a) thief

/-- Whether block j is among the n highest of a list. -/
def amongHighest (bs : List Block) (n j : Nat) : Bool := decide ((bs.filter fun b => j < b.j).length < n)

/-- The entry of a launch in a list of launches. -/
def launchEntry (wave : Word) (es : List Entry) : Option Entry := es.find? fun e => match e.kind with
  | .wave x _ => x == wave
  | _ => false

/-- A domain that has come to own blocks of a launch lists it, at its rank (R276, R303). -/
def State.listAt (s : State) (dom : Fin 4) (wave : Word) : State :=
  match launchEntry wave (s.launches.get dom), (List.finRange 4).findSome? fun k => launchEntry wave (s.launches.get k) with
  | none, some e => { s with launches := s.launches.set dom (insertEntry (s.launches.get dom) e) }
  | _, _ => s

/-- The step STEAL_REQUEST (R277). -/
def execStealRequest (dom : Fin 4) (wave : Word) (s : State) : Host.Outcome State Fault Refusal :=
  .next (match s.wave? wave with
    | some w =>
      if w.dies.getLsbD dom.val ∧ s.isIn w.ctx dom.val ∧ (w.owned dom.val).isEmpty ∧
          (coresOf dom.val).any fun k => s.canPlace k w then
        let bs := w.owned (w.richest dom.val)
        let give (b : Block) : Block :=
          if bs.contains b ∧ amongHighest bs ((bs.length + 1) / 2) b.j then { b with dom := dom } else b
        ({ s with waves := s.waves.map fun x => if x.num == wave then { x with blocks := x.blocks.map give } else x } : State).listAt
          dom wave
      else s
    | none => s)

/-! ### Swap-out and return of a gang (R45, R46) -/

/-- Whether a gang waits so that it may be swapped out: parked on a register, or waiting at a barrier (R45, R191). -/
def GangWait.parks (w : GangWait) : Bool :=
  match w with
  | .parked _ _ | .barw _ _ => true
  | .ready | .regang _ | .held _ | .trap => false

/-- Whether a gang may be swapped out now (R45, R191). -/
def State.maySwap (s : State) (g : Gang) : Bool :=
  let ms := s.membersOf g
  g.wait.parks && !s.mayWake g && (s.core g.core).swpt != 0#20 && !ms.isEmpty && (ms.all fun m => !modeSup m.mode) &&
  (s.octet g.core g.octet).queue.isEmpty && s.unitsFit (s.ctxOfWave (ms.head?.map (·.wave) |>.getD 0#32)) ms.length

/-- Swap a gang out: its slices go to a gang image, and its park-table entry is written (R45, R46). -/
def State.swapOut (s : State) (g : Gang) : State :=
  let ms := s.membersOf g
  let w := (ms.head?.map (·.wave)).getD 0#32
  let c := s.ctxOfWave w
  let us := s.takeUnits c ms.length
  let img := (ms.zip us).map fun m => (⟨m.1.sid, m.2, m.1.shown⟩ : SavedSlice)
  let save := (s.ctx c).save + BitVec.ofNat 64 (unitOff (us.getD 0 0))
  let entry := s.parkEntry g save
  let s := (ms.zip us).foldl (fun x m => x.saveSlice c m.2 m.1) s
  { s with
    gangs := s.gangs.filter fun x => x.gid != g.gid
    parks := s.parks ++ [⟨g, c, w, entry, img, false⟩]
    slices := s.slices.map fun x => if g.members.contains x.sid then { x with place := .swapped } else x }

/-- The gang of a list that has waited longest. -/
def longest (gs : List Gang) : Option Gang :=
  gs.foldl (fun acc g => match acc with
    | none => some g
    | some h => if g.since < h.since then some g else some h) none

/-- The step GANG_SWAP_OUT (R45): the park time of a parked gang has passed, of the one parked longest first. -/
def execGangSwapOut (core octet : Nat) (s : State) : Host.Outcome State Fault Refusal :=
  .next (match longest (s.gangs.filter fun g => g.core == core && g.octet == octet && s.maySwap g) with
    | some g => (s.flushPoint core octet).swapOut g
    | none => s)

/-- Whether a swapped-out gang is due back: the awaited register is full, or a late fault was reported to a member (R45). -/
def State.returnDue (s : State) (p : Park) : Bool :=
  s.mayWake p.gang || (p.gang.members.filterMap s.slice?).any (·.late)

/-- Push the return entry of a saved presence whose context is in into its wave leaf, where it has room (R304, R327). -/
def State.pushPresence (s : State) (p : Presence) : State :=
  let leaf := waveLeaf p.core
  if !p.pushed && s.isIn p.ctx (dieOfCore p.core) && s.nodeRoom leaf then
    let y : State := { s with presences := s.presences.map fun q =>
      if q.core == p.core && q.wave == p.wave then { q with pushed := true } else q }
    y.enterNode leaf (.presence p.wave) (s.waveFields p.wave) none
  else s

/-- Push the gangs that are due and the presences whose context is in into their wave leaves (R45, R304, R327). -/
def State.feedReturns (s : State) : State :=
  let s := s.parks.foldl (fun x p =>
    let leaf := waveLeaf p.gang.core
    if !p.pushed && x.returnDue p && x.isIn p.ctx (dieOfCore p.gang.core) && !x.isSaved p.gang.core p.wave && x.nodeRoom leaf then
      let y : State := { x with parks := x.parks.map fun q => if q.gang.gid == p.gang.gid then { q with pushed := true } else q }
      match (x.waveEntries p.gang.core).find? fun e => (match e.kind with
          | .wave w _ => w == p.wave
          | _ => false) with
      | some e => y.enterAt leaf (.gang p.gang.gid) e.rank e.f
      | none => y.enterNode leaf (.gang p.gang.gid) (x.waveFields p.wave) none
    else x) s
  s.presences.foldl State.pushPresence s

/-- Slices come back into slots: what they have outstanding fills from there (R45, R89). -/
def State.seatSlices (s : State) (back : Slice → Bool) (slot : Slice → Nat) : State :=
  let seat (sid n : Nat) : Nat := match s.slice? sid with
    | some x => if back x then slot x else n
    | none => n
  { s with
    slices := s.slices.map fun x => if back x then { x with place := .resident, slot := slot x } else x
    txns := s.txns.map fun t => { t with
      parts := t.parts.map fun p => { p with slot := seat p.sid p.slot }
      lanes := t.lanes.map fun l => { l with slot := seat l.sid l.slot } } }

/-- What a gang that comes back does: it tries its instruction again, but one whose waiters at BARW are not released, back for a late
fault of a member, waits on (R45, R169, R191). -/
def GangWait.back (w : GangWait) : GangWait :=
  match w with
  | .barw pc ws => if ws.isEmpty then .ready else .barw pc ws
  | _ => .ready

/-- Bring a gang back into an octet from its image: each member keeps its slot mod 8 (R45, R46). -/
def State.returnGang (s : State) (p : Park) (oct : Nat) : State :=
  let s := (s.readImages p.ctx p.image).seatSlices (fun x => p.gang.members.contains x.sid) fun x => 8 * oct + x.slot % 8
  { s with
    parks := s.parks.filter fun q => q.gang.gid != p.gang.gid
    gangs := s.gangs ++ [{ p.gang with octet := oct, wait := p.gang.wait.back, since := s.nextId, passed := 0 }]
    nextId := s.nextId + 1 }

/-! ### Saving a presence (R195, R311, R326) -/

/-- The slices of a wave that are resident on a core. -/
def State.presenceSlices (s : State) (core : Nat) (w : Word) : List Slice :=
  s.slices.filter fun x => x.core == core && x.wave == w && x.place == .resident

/-- The gangs of a wave on a core. -/
def State.presenceGangs (s : State) (core : Nat) (w : Word) : List Gang :=
  s.gangs.filter fun g => g.core == core && (s.membersOf g).any fun m => m.wave == w

/-- The octets of a wave on a core that hold tile state, wherever its slices are (R216). -/
def State.presenceOctets (s : State) (core : Nat) (w : Word) : List OctetRec :=
  s.octets.filter fun o => o.core == core && o.wave == w && (!o.queue.isEmpty || o.tsa != 0#32)

/-- The units of a presence image (R326). -/
def State.presenceUnits (s : State) (core : Nat) (w : Wave) : Nat :=
  2 + (s.presenceSlices core w.num).length + (s.presenceOctets core w.num).length + w.spadU + 8 * w.acctU + 13 * w.browsU

/-- Whether a presence may be saved now: no trap entry is in progress, and the accesses to its shares are complete (R163, R311). -/
def State.saveReady (s : State) (core : Nat) (w : Word) : Bool :=
  (s.presenceGangs core w).all (fun g => g.wait != .trap) &&
  s.txns.all fun t => t.core != core || t.wave != w || (match t.kind with
    | .waitv _ => true
    | .barr _ | .bart _ | .xfence | .command _ => false
    | _ => t.lanes.all fun l => windowOf l.addr == some .global || windowOf l.addr == some .fabric)

/-- The place of the supervisor save area of a slice's slot in the arena (R168, R326). -/
def Slice.areaOff (sl : Slice) : Nat := 512 * (128 * sl.core + sl.slot)

/-- The supervisor save area of a slice, as bytes of memory (R168, R326), and the state after the read. -/
def State.readArea (s : State) (sl : Slice) : List Byte × State :=
  (s.readArena (s.ctxOfWave sl.wave) sl.areaOff 512).getD ([], s)

/-- Write a save area back to the slot the slice occupies. -/
def State.writeArea (s : State) (sl : Slice) (bs : List Byte) : State := s.writeArena (s.ctxOfWave sl.wave) sl.areaOff bs

/-- A gang as it is saved: a waiter at BARW is an unissued BARW (R199). -/
def Gang.unissued (g : Gang) : Gang :=
  match g.wait with
  | .barw _ _ => { g with wait := .ready }
  | .held _ => { g with wait := .ready }
  | _ => g

/-- The PC a member of a gang is saved with. -/
def Gang.savedPc (g : Gang) (pc : DWord) : DWord :=
  match g.wait with
  | .barw q _ => q
  | _ => pc

/-- The swapped-out gangs of a wave that wait at a barrier of its share: they are saved as BARWs not yet issued too, in their images, and
issue them again once the presence is back (R191, R199). -/
def State.unissueParks (s : State) (core : Nat) (w : Word) : State :=
  let mine (p : Park) : Bool := p.gang.core == core && p.wave == w && match p.gang.wait with
    | .barw _ ws => !ws.isEmpty
    | _ => false
  (s.parks.filter mine).foldl (fun x p =>
    let pc := p.gang.savedPc 0#64
    let y := p.image.foldl (fun y i => y.writeArena p.ctx (unitOff i.unit + 2184) (toBytes 8 pc.toNat)) x
    { y with
      slices := y.slices.map fun m => if p.gang.members.contains m.sid then { m with pc := pc } else m
      parks := y.parks.map fun q => if q.gang.gid == p.gang.gid then { q with gang := { q.gang with wait := .barw pc [] } } else q }) s

/-- The rows of a share, moved from one place of a column store to another. -/
def moveRows (from_ : Mem) (row : Nat) (into : Mem) (row' len size : Nat) (at_ : Nat → Nat → Nat) : Mem :=
  (List.range 32).foldl (fun m j => memCopy from_ (at_ j row) m (at_ j row') (size * len)) into

/-- Take the entries of a wave's work out of the leaves of a core: its wave entry, its octets' entries, its commands' (R311). -/
def State.pullEntries (s : State) (core : Nat) (w : Word) : State :=
  let octs := (s.presenceSlices core w).map Slice.oct ++ (s.presenceOctets core w).map (·.oct)
  let cids := (s.cmds.filter fun c => c.core == core && c.wave == w && c.task.isNone).map (·.id)
  let mine (e : Entry) : Bool := match e.kind with
    | .wave x _ => x == w
    | .command id => cids.contains id
    | _ => false
  let octMine (e : Entry) : Bool := match e.kind with
    | .octet o => octs.contains o
    | _ => false
  let cut (n : NodeRec) (p : Entry → Bool) : NodeRec := { n with entries := n.entries.filter fun e => !p e }
  let at_ (n : NodeRec) : NodeRec :=
    if [waveLeaf core, copyLeaf core, gatherLeaf (core / 8)].contains n.node then cut n mine
    else if n.node = matrixLeaf core then cut n octMine
    else n
  let s : State := { s with nodes := s.nodes.map at_ }
  { s with serving := s.serving.filter fun v => (s.servedEntry v).isSome }

/-- How far the staging of a wave's entry on a core has come. -/
def State.stagedOf (s : State) (core : Nat) (w : Word) : Option Nat :=
  ((s.waveEntries core).findSome? fun e => match e.kind with
    | .wave x n => if x = w then some n else none
    | _ => none).getD none

/-- The presence image of a wave on a core, before it is written (R326). -/
def State.presenceImage (s : State) (core : Nat) (w : Wave) (ms : List Slice) (areas : List (Nat × List Byte)) : Presence :=
  let r := s.core core
  let h := r.share w.num
  let us := s.takeUnits w.ctx (s.presenceUnits core w)
  { wave := w.num, core := core, ctx := w.ctx, share := h
    spad := memCopy r.spad h.spad [] 0 h.spadLen
    accm := memCopy r.accm (2048 * h.acct) [] 0 (2048 * h.acctLen)
    bdata := moveRows r.bdata h.rows [] 0 h.rowsLen 96 fun j k => bAddr j k 0
    bside := moveRows r.bside h.rows [] 0 h.rowsLen 8 fun j k => sideAddr j k 0
    areas := areas
    octets := s.presenceOctets core w.num
    gangs := (s.presenceGangs core w.num).map Gang.unissued
    image := (ms.zip (us.drop 2)).map fun m => ⟨m.1.sid, m.2, m.1.shown⟩
    staged := s.stagedOf core w.num
    units := us
    pushed := false }

/-- Save a wave's presence on a core (R311 steps 1 to 4): its shares are freed. -/
def State.savePresence (s : State) (core : Nat) (w : Wave) : State :=
  let gs := s.presenceGangs core w.num
  let s := gs.foldl (fun x g => x.flushPoint g.core g.octet) s
  let gangOfSid (sid : Nat) : Option Gang := gs.find? fun g => g.members.contains sid
  let ids := (s.presenceSlices core w.num).map (·.sid)
  let back (x : Slice) : Slice :=
    if ids.contains x.sid then { x with pc := ((gangOfSid x.sid).map fun g => g.savedPc x.pc).getD x.pc } else x
  let s : State := { s with slices := s.slices.map back }
  let ms := s.presenceSlices core w.num
  let read := ms.foldl (fun (acc : List (Nat × List Byte) × State) m =>
    let r := acc.2.readArea m
    (acc.1 ++ [(m.sid, r.1)], r.2)) ([], s)
  let img := read.2.presenceImage core w ms read.1
  let s := ((read.2.writePresence img).unissueParks core w.num).pullEntries core w.num
  let s := s.setCore core { s.core core with shares := (s.core core).shares.filter fun x => x.wave != w.num }
  { s with
    gangs := s.gangs.filter fun g => !gs.any fun x => x.gid == g.gid
    octets := s.octets.filter fun o => !(o.core == core && o.wave == w.num)
    presences := s.presences ++ [img]
    slices := s.slices.map fun x => if ids.contains x.sid then { x with place := .saved } else x }

/-! ### Restoring (R304, R305, R326) -/

/-- The octets a presence needs: those its saved slices stood in, each with whether a member there runs a handler, and those that hold
its tile instructions alone (R216). -/
def State.savedOcts (s : State) (p : Presence) : List (Nat × Bool) :=
  let os := (s.slices.filter fun x => x.core == p.core && x.wave == p.wave && x.place == .saved).foldl (fun acc x =>
    if acc.any (fun a => a.1 == x.oct) then acc.map fun a => if a.1 = x.oct then (a.1, a.2 || modeSup x.mode) else a
    else acc ++ [(x.oct, modeSup x.mode)]) []
  os ++ (p.octets.filter fun o => !os.any fun a => a.1 == o.oct).map fun o => (o.oct, false)

/-- Where each octet of a presence goes: one with a handler back to its own, another to its own or the lowest free one. -/
def State.assignOcts (s : State) (core : Nat) (os : List (Nat × Bool)) : Option (List (Nat × Nat)) :=
  (os.filter (·.2) ++ os.filter fun o => !o.2).foldl (fun acc o => match acc with
    | none => none
    | some m =>
      let ok (x : Nat) : Bool := s.octetFree core x && !m.any fun y => y.2 == x
      if ok o.1 then some (m ++ [(o.1, o.1)])
      else if o.2 then none
      else match (List.range 16).find? fun x => ok x && !os.any fun y => y.2 && y.1 == x with
        | some x => some (m ++ [(o.1, x)])
        | none => none) (some [])

/-- The octet an old one maps to. -/
def octMap (m : List (Nat × Nat)) (o : Nat) : Nat := ((m.find? fun x => x.1 == o).map (·.2)).getD o

/-- Waits a save has cancelled are issued again at the tail (R97). -/
def State.rearm (s : State) (sids : List Nat) : State :=
  let waits (t : Txn) : Bool := t.kind.isWait && sids.any t.has
  { s with
    txns := s.txns.filter (fun t => !waits t) ++ ((s.txns.filter waits).zipIdx.map fun (t, i) => { t with id := s.nextId + i })
    nextId := s.nextId + s.txns.length }

/-! ### Which gangs may issue (R48, R305, R306) -/

/-- The wave of a gang. -/
def State.gangWave (s : State) (g : Gang) : Word := ((s.membersOf g).head?.map (·.wave)).getD 0#32

/-- The place of a wave's entry in its core's wave leaf, and the entry. -/
def State.wavePlace (s : State) (core : Nat) (w : Word) : Option (Nat × Entry) :=
  (s.waveEntries core).zipIdx.findSome? fun e => match e.1.kind with
    | .wave x _ => if x == w then some (e.2, e.1) else none
    | _ => none

/-- Whether a wave entry is boarded (R306). -/
def Entry.boarded (e : Entry) : Bool :=
  match e.kind with
  | .wave _ st => st.isNone
  | _ => true

/-- Whether a core issues at all: the package runs, no checkpoint holds the cores, no self-test runs, the core is not retired, and
the head of its wave leaf is boarded (R198, R306, R363). -/
def State.coreIssues (s : State) (core : Nat) : Bool :=
  s.trust.power == .up && !s.fab.copying && !(s.core core).retired && !(s.core core).testing &&
  ((s.waveEntries core).head?.map Entry.boarded).getD true

/-- Whether a gang may issue: it is ready, its core issues, its wave's entry is boarded, no member is held by the debugger (R48, R179,
R306). -/
def State.mayIssue (s : State) (g : Gang) : Bool :=
  g.wait == .ready && !(s.membersOf g).isEmpty && (s.membersOf g).all (fun m => !m.stopped || m.stepping) && s.coreIssues g.core &&
  ((s.wavePlace g.core (s.gangWave g)).map fun p => p.2.boarded).getD true

/-- Reports that have reached slices are taken at once where their gang issues nothing (R169): the debugger alone holds one back. -/
def State.takeReports (s : State) : State :=
  if s.slices.all fun x => !x.late then s
  else
    (s.gangs.filter fun g => g.wait != .trap && !s.mayIssue g).foldl (fun x g =>
      match (x.membersOf g).filter fun m => m.late && m.pend.isNone && !m.stopped with
      | [] => x
      | ms => x.raiseAll (ms.map fun m => (m.sid, lateReport m))) s

/-- Restore a presence from its image, with its shares and its octets given (R183, R304, R326). -/
def State.restorePresence (s : State) (p : Presence) (h : Share) (m : List (Nat × Nat)) (entry : Nat) : State :=
  let read := s.readPresence p
  let p := read.1
  let s := read.2
  let r := (s.core p.core).takeShare h
  let r : CoreRec := { r with
    spad := memCopy p.spad 0 r.spad h.spad h.spadLen
    accm := memCopy p.accm 0 r.accm (2048 * h.acct) (2048 * h.acctLen)
    bdata := moveRows p.bdata 0 r.bdata h.rows h.rowsLen 96 fun j k => bAddr j k 0
    bside := moveRows p.bside 0 r.bside h.rows h.rowsLen 8 fun j k => sideAddr j k 0 }
  let back (x : Slice) : Bool := x.core == p.core && x.wave == p.wave && x.place == .saved
  let sids := (s.slices.filter back).map (·.sid)
  let s := ((s.setCore p.core r).rearm sids).seatSlices back fun x => 8 * octMap m x.oct + x.slot % 8
  let s : State := { s with
    presences := s.presences.filter fun q => !(q.core == p.core && q.wave == p.wave)
    gangs := s.gangs ++ p.gangs.map fun g => { g with octet := octMap m g.octet, since := s.nextId, passed := 0 }
    octets := s.octets.filter (fun o => !(o.core == p.core && p.octets.any fun q => octMap m q.oct == o.oct)) ++
      p.octets.map fun o => { o with oct := octMap m o.oct }
    nextId := s.nextId + 1 }
  let s := s.modEntries (waveLeaf p.core) fun es => es.map fun e => if e.id = entry then { e with kind := .wave p.wave p.staged } else e
  (p.areas.foldl (fun x a => match x.slice? a.1 with
    | some sl => x.writeArea sl a.2
    | none => x) s)

/-- How a return entry comes back. -/
inductive Return where
  | gang (p : Park) (oct : Nat) (entry : Nat)
  | presence (p : Presence) (h : Share) (m : List (Nat × Nat)) (entry : Nat)
deriving DecidableEq, Repr

/-- Whether a return entry can be restored now (R305). -/
def State.canReturn (s : State) (core : Nat) (e : Entry) : Option Return :=
  match e.kind with
  | .gang gid => (s.parks.find? fun p => p.gang.gid == gid && s.isIn p.ctx (dieOfCore core) && !s.isSaved core p.wave).bind fun p => (s.freeOct core).map fun o => .gang p o e.id
  | .presence w => (s.presences.find? fun p => p.core == core && p.wave == w && s.isIn p.ctx (dieOfCore core)).bind fun p =>
      ((s.core core).newShare w (p.share.spadLen / 4096) (p.share.acctLen / 16) (p.share.rowsLen / 16)).bind fun h =>
        (s.assignOcts core (s.savedOcts p)).map fun m => .presence p h m e.id
  | _ => none

/-- The first return entry of a core, in leaf order, that can be restored (R305). -/
def State.nextReturn (s : State) (core : Nat) : Option Return := (s.entries (waveLeaf core)).findSome? (s.canReturn core)

/-- The step GANG_RESTORE (R45). -/
def execGangRestore (core : Nat) (s : State) : Host.Outcome State Fault Refusal :=
  .next (match s.nextReturn core with
    | some (.gang p o e) => (s.dropEntry (waveLeaf core) e).returnGang p o
    | _ => s)

/-- The step PRESENCE_RESTORE (R305). -/
def execPresenceRestore (core : Nat) (s : State) : Host.Outcome State Fault Refusal :=
  .next (match s.nextReturn core with
    | some (.presence p h m e) => s.restorePresence p h m e
    | _ => s)

/-! ### Pre-emption (R300, R310, R311) -/

/-- Count a wave pre-emption at a core's wave leaf. -/
def State.countPreempt (s : State) (leaf : BitVec 16) : State :=
  let n := s.node leaf
  s.setNode { n with preempts := n.preempts + 1#48 }

/-- The victim of a wave pre-emption at a core: the wave whose entry stands at the tail of its leaf. -/
def State.victim (s : State) (core : Nat) : Option (Wave × Entry) :=
  (s.waveEntries core).getLast?.bind fun e => match e.kind with
    | .wave w _ => (s.wave? w).map fun x => (x, e)
    | _ => none

/-- Whether a wave pre-emption passes at a core (R300, R311). -/
def State.wavePasses (s : State) (core : Nat) (w : Wave) : Bool :=
  let m := descM (s.node (waveLeaf core)).desc
  match s.victim core with
  | some (v, e) =>
    !(s.core core).retired && preemptPasses m e.rank w.rank && s.unitsFit v.ctx (s.presenceUnits core v)
  | none => false

/-- The return entry of a victim takes the place of its wave entry, before any other enters the leaf (R311). -/
def State.returnVictim (s : State) (core : Nat) (w : Word) : State :=
  match s.presences.find? fun p => p.core == core && p.wave == w with
  | some p => (s.pushPresence p).feedReturns
  | none => s.feedReturns

/-- The step WAVE_PREEMPTION (R311): the lowest-numbered core where the test passes; its victim is saved once it can be, its return entry
takes the place of its wave entry, and the block is placed. -/
def execWavePreemption (dom : Fin 4) (wave : Word) (s : State) : Host.Outcome State Fault Refusal :=
  .next (match s.wave? wave with
    | some w => (match w.lowBlock dom.val with
      | some b =>
        if s.isIn w.ctx dom.val ∧ s.online.getLsbD dom.val ∧ !(coresOf dom.val).any fun k => s.canPlace k w then
          match (coresOf dom.val).find? fun k => s.wavePasses k w with
          | some k => (match s.victim k with
            | some (v, _) =>
              if s.saveReady k v.num then
                let t := ((s.savePresence k v).countPreempt (waveLeaf k)).returnVictim k v.num
                if t.canPlace k w then t.placeOn k w b else t
              else s
            | none => s)
          | none => s
        else s
      | none => s)
    | none => s)

/-- The flush point a stop of the matrix array is: for the octet it performs (R228; log 58). -/
def State.flushServed (s : State) (node : BitVec 16) (e : Entry) : State :=
  match nodeKind node, e.kind with
  | some (.matrix k), .octet o => s.flushPoint k o
  | _, _ => s

/-- The step PREEMPTION_STOP (R310): between steps every engine stands at a boundary of its unit, so a task that is to stop for the head
of a leaf stops, and its engine takes the head that stands there now (R312). Issue, fabric and network engines hold nothing between
steps. -/
def execPreemptionStop (node : BitVec 16) (s : State) : Host.Outcome State Fault Refusal :=
  .next (match leafEngine node with
    | some g => (match (s.serving? g).bind fun v => (s.servedEntry v).map fun e => (v, e) with
      | some (v, e) =>
        if v.stop = some node then
          let t := s.flushServed v.node e
          t.serve g ((t.headId node).map fun id => (node, id))
        else s
      | none => s)
    | none => s)

/-! ### The world switch (R327) -/

/-- The presences of a context on a domain: each core with each wave that has slices in its slots or holds shares there. -/
def State.presencesOn (s : State) (c : Fin 17) (d : Nat) : List (Nat × Wave) :=
  (s.waves.filter fun w => w.ctx == c).flatMap fun w =>
    ((coresOf d).filter fun k => (s.core k).holds w.num || !(s.presenceSlices k w.num).isEmpty).map fun k => (k, w)

/-- The context that follows another on a domain, in ascending order and around (R327). -/
def State.nextTurn (s : State) (d : Nat) (c : Fin 17) : Option (Fin 17) :=
  let cs := (List.finRange 17).filter fun x => s.timeSliced x d
  ((cs.filter fun x => c.val < x.val) ++ cs).head?

/-- Save a context's counters to its arena, with what they have counted by now (R326–R328). -/
def State.saveCounters (s : State) (c : Fin 17) : State :=
  let s := (List.finRange 8).foldl (fun x k => x.foldTimed c k) s
  let x := s.ctx c
  s.writeArena c 0xC00000 ((List.finRange 8).flatMap (fun k => toBytes 8 (x.pccnt.get k).toNat) ++ toBytes 4 x.pcovf.toNat)

/-- Restore a context's counters from its arena. -/
def State.loadCounters (s : State) (c : Fin 17) : State :=
  match s.readArena c 0xC00000 68 with
  | some (bs, t) =>
    let x := t.ctx c
    t.setCtx c { x with
      pccnt := Vector.ofFn fun k : Fin 8 => (fieldOf bs (8 * k.val) 6 48 : BitVec 48).setWidth 64
      pcovf := fieldOf bs 64 1 8 }
  | none => s

/-- Whether a LAUNCH task's record names a domain in its die mask, or cannot be read. -/
def State.launchReaches (s : State) (t : Task) (d : Nat) : Bool :=
  match s.readObject t.ctx (recBody t.record) 128 with
  | .ok (bs, _) => ((fieldOf bs 20 1 4) : BitVec 4).getLsbD d
  | .error _ => true

/-- Whether a task that waits in an inner node could do work on a domain (R327). -/
def State.taskReaches (s : State) (t : Task) (d : Nat) : Bool :=
  t.phase == .waiting && (match recKind t.record with
    | 0 => s.launchReaches t d
    | 1 => engineDomain (recTgt t.record) == d && s.nodes.any fun n => isInner n.node && n.entries.any fun e => e.kind == .task t.id
    | _ => true)

/-- Whether a context has something that could run on a domain (R327). -/
def State.couldRun (s : State) (c : Fin 17) (d : Nat) : Bool :=
  (s.waves.any fun w => w.ctx == c && ((s.slices.any fun x => x.wave == w.num && dieOfCore x.core == d) ||
    w.blocks.any (fun b => b.dom.val == d) || (coresOf d).any (fun k => (s.core k).holds w.num) ||
    (launchEntry w.num (s.launches.toList.getD d [])).isSome && !w.blocks.isEmpty)) ||
  s.tasks.any fun t => t.ctx == c && s.taskReaches t d

/-- Whether a turn ends early (R327): the context that is in has nothing that could run on the domain, and another one has. -/
def State.turnIdle (s : State) (d : Nat) : Bool :=
  match s.turnOf d with
  | some c => !s.couldRun c d && (List.finRange 17).any fun x => s.timeSliced x d && s.couldRun x d
  | none => false

/-- The step WORLD_SWITCH (R327): a turn ends once the outgoing context's image space has room for all its presences. -/
def execWorldSwitch (dom : Fin 4) (s : State) : Host.Outcome State Fault Refusal :=
  .next (match s.turnOf dom.val with
    | some c => (match s.nextTurn dom.val c with
      | some n =>
        let ps := s.presencesOn c dom.val
        if n ≠ c ∧ ps.all (fun p => s.saveReady p.1 p.2.num) ∧ s.unitsFit c (ps.map fun p => s.presenceUnits p.1 p.2).sum then
          let t := ps.foldl (fun x p => x.savePresence p.1 p.2) s
          { ((t.saveCounters c).loadCounters n) with turns := t.turns.set dom n }
        else s
      | none => s)
    | none => s)

end Sys2Proof.Machine
end

