-- ==== Sys2Proof/Machine/Tile.lean ====
section
/-! DEFINITION. Tile instructions on the stores of a core (R200–R211): the classes of their fields, the element types they admit, the
operand checks, and what each of them does to accumulators, B-stack and scratchpad. -/

set_option Elab.async false

namespace Sys2Proof.Machine

/-! ### Element types (R203, R206, R211) -/

/-- Integer mode (R203). -/
def intMode (t : EType) : Bool :=
  match t with
  | .int8 | .int16 | .int32 => true
  | .fp32 | .bf16 | .fp16 | .e4m3 | .e5m2 | .mxE4m3 | .mxE5m2 | .mxfp4 | .cf32 | .cbf16 | .cb2 => false

/-- An operand element of the matrix array: an INT8, or a float, scaled by blocks or not (R206). -/
inductive MatFmt where
  | int8
  | fp (f : FpFmt) (mx : Bool)
deriving DecidableEq, Repr

/-- The operand formats of TMMA and TMMAT (R203, R206). -/
def matFmt (t : EType) : Option MatFmt :=
  match t with
  | .bf16 => some (.fp .bf16 false)
  | .fp16 => some (.fp .fp16 false)
  | .e4m3 => some (.fp .e4m3 false)
  | .e5m2 => some (.fp .e5m2 false)
  | .mxE4m3 => some (.fp .e4m3 true)
  | .mxE5m2 => some (.fp .e5m2 true)
  | .mxfp4 => some (.fp .e2m1 true)
  | .int8 => some .int8
  | .fp32 | .int16 | .int32 | .cf32 | .cbf16 | .cb2 => none

/-- Whether products carry block scales (R207). -/
def MatFmt.isMx (m : MatFmt) : Bool :=
  match m with
  | .int8 => false
  | .fp _ x => x

/-- The width of an operand element. -/
def MatFmt.width (m : MatFmt) : Nat :=
  match m with
  | .int8 => 8
  | .fp f _ => fmtWidth f

/-- The formats TACCS stores and TACCL loads (R203): a float format, or an integer width. -/
def imageFmt (t : EType) : Option (FpFmt ⊕ Nat) :=
  match t with
  | .fp32 => some (.inl .fp32) | .bf16 => some (.inl .bf16) | .fp16 => some (.inl .fp16)
  | .e4m3 => some (.inl .e4m3) | .e5m2 => some (.inl .e5m2)
  | .int8 => some (.inr 8) | .int16 => some (.inr 16) | .int32 => some (.inr 32)
  | .mxE4m3 | .mxE5m2 | .mxfp4 | .cf32 | .cbf16 | .cb2 => none

/-- The width of an image element. -/
def imageWidth (f : FpFmt ⊕ Nat) : Nat :=
  match f with
  | .inl f => fmtWidth f
  | .inr w => w

/-- The bytes of an image (R211). -/
def tileImageBytes (t : EType) : Nat :=
  match imageFmt t with
  | some f => 64 * imageWidth f
  | none => 0

/-! ### Opcodes and fields (R202) -/

def opTldb : BitVec 4 := 0x0#4
def opTmma : BitVec 4 := 0x1#4
def opTmmat : BitVec 4 := 0x2#4
def opTtrn : BitVec 4 := 0x3#4
def opTscl : BitVec 4 := 0x4#4
def opTzero : BitVec 4 := 0x5#4
def opTadd : BitVec 4 := 0x6#4
def opTaccr : BitVec 4 := 0x7#4
def opTaccw : BitVec 4 := 0x8#4
def opTaccs : BitVec 4 := 0x9#4
def opTaccl : BitVec 4 := 0xA#4
def opTmxs : BitVec 4 := 0xB#4

/-- The class of a field of a queued tile instruction (R202). -/
inductive FieldClass where
  | unused | tile | pair | scalar | imm
deriving DecidableEq, Repr

/-- The classes of the fields D, A, B of an opcode (R202), for the instructions a rule may name (R222). -/
def fieldClasses (op : BitVec 4) : FieldClass × FieldClass × FieldClass :=
  match op.toNat with
  | 0x0 => (.unused, .scalar, .scalar)
  | 0x1 | 0x2 => (.tile, .scalar, .scalar)
  | 0x3 => (.pair, .pair, .unused)
  | 0x4 => (.tile, .tile, .scalar)
  | 0x5 => (.tile, .unused, .imm)
  | 0x6 => (.tile, .tile, .tile)
  | 0x9 => (.tile, .scalar, .scalar)
  | 0xA => (.tile, .scalar, .unused)
  | 0xB => (.unused, .scalar, .unused)
  | _ => (.unused, .unused, .unused)

/-- Whether a value may stand in a field of a class (R202, R224). -/
def FieldClass.fits (c : FieldClass) (x : Word) : Bool :=
  match c with
  | .unused => x == 0#32
  | .tile => decide (x.toNat < 256)
  | .pair => decide (x.toNat < 256) && !x.getLsbD 0
  | .scalar => true
  | .imm => decide (x.toNat < 16)

/-- Whether the opcode multiplies matrices. -/
def isMma (op : BitVec 4) : Bool := op == opTmma || op == opTmmat

/-- Whether MODE.ETYPE is admitted by an opcode (R203). -/
def tileAdmits (op : BitVec 4) (mode : Word) : Bool :=
  if isMma op then (matFmt (modeEtype mode)).isSome
  else if op == opTaccs || op == opTaccl then (imageFmt (modeEtype mode)).isSome
  else true

/-! ### Descriptors (R205, R206) -/

def tdSide (d : Word) : Bool := d.getLsbD 22
/-- The number of K rows. -/
def tdRows (d : Word) : Nat := (d.extractLsb' 16 6).toNat + 1
def tdBrow (d : Word) : Nat := (d.extractLsb' 0 9).toNat

/-- The number of K rows of an instruction that works row by row; 1 for the others (R216). -/
def TileOp.rows (o : TileOp) : Nat := if o.op == opTldb || isMma o.op then tdRows o.b else 1

/-! ### Operand checks (R204–R208, R211) -/

/-- A failed check: case, OPND, INDEX and VALUE (R204). -/
structure TileFault where
  case : BitVec 8
  opnd : BitVec 8
  index : BitVec 16
  value : Word
deriving DecidableEq, Repr

/-- A range of tiles must lie in the share (case 0x01). The offender is a tile, no scalar: VALUE is 0 (DESIGN CHOICE, log 59). -/
def tileRange (h : Share) (opnd : BitVec 8) (t : Word) (n : Nat) : Option TileFault :=
  if h.acctLen < t.toNat + n then some ⟨1#8, opnd, BitVec.ofNat 16 (max t.toNat h.acctLen), 0#32⟩ else none

/-- A scratchpad operand: its offset a multiple of 64 (case 0x03), its range in the share (case 0x02). -/
def spadRange (h : Share) (o : Word) (n : Nat) : Option TileFault :=
  if o.toNat % 64 ≠ 0 then some ⟨3#8, 1#8, 0#16, o⟩
  else if h.spadLen < o.toNat + n then some ⟨2#8, 1#8, 0#16, o⟩
  else none

/-- A range of B rows must lie in the share (case 0x04). -/
def rowRange (h : Share) (d : Word) : Option TileFault :=
  if h.rowsLen < tdBrow d + tdRows d then some ⟨4#8, 2#8, BitVec.ofNat 16 (max (tdBrow d) h.rowsLen), d⟩ else none

/-- The A scales of an MX instruction must lie in the share (case 0x06). -/
def scaleRange (h : Share) (tsa : Word) (rows : Nat) : Option TileFault :=
  if tsa.toNat % 8 ≠ 0 ∨ h.spadLen < tsa.toNat + 128 * rows then some ⟨6#8, 3#8, 0#16, tsa⟩ else none

/-- The reserved bits of a descriptor (case 0x05). -/
def descRsv (op : BitVec 4) (d : Word) : Bool :=
  d.extractLsb' 23 9 != 0#9 || d.extractLsb' 9 7 != 0#7 || (isMma op && tdSide d)

/-- Whether an instruction reads A scales (R207). -/
def TileOp.readsScales (o : TileOp) : Bool :=
  isMma o.op && ((matFmt (modeEtype o.mode)).map (·.isMx)).getD false && !modeUnitScale o.mode

/-- The operand checks of a tile instruction, in their order (R204). -/
def TileOp.check (o : TileOp) (h : Share) (tsa : Word) : Option TileFault :=
  match o.op.toNat with
  | 0x0 =>
    if descRsv o.op o.b then some ⟨5#8, 2#8, 0#16, o.b⟩
    else (spadRange h o.a ((if tdSide o.b then 256 else 3072) * tdRows o.b)).or (rowRange h o.b)
  | 0x1 | 0x2 =>
    if descRsv o.op o.b then some ⟨5#8, 2#8, 0#16, o.b⟩
    else (((tileRange h 0#8 o.d 1).or (spadRange h o.a (1536 * tdRows o.b))).or (rowRange h o.b)).or
      (if o.readsScales then scaleRange h tsa (tdRows o.b) else none)
  | 0x3 => (tileRange h 0#8 o.d 2).or (tileRange h 1#8 o.a 2)
  | 0x4 => (tileRange h 0#8 o.d 1).or (tileRange h 1#8 o.a 1)
  | 0x5 => tileRange h 0#8 o.d (o.b.toNat + 1)
  | 0x6 => ((tileRange h 0#8 o.d 1).or (tileRange h 1#8 o.a 1)).or (tileRange h 2#8 o.b 1)
  | 0x7 => tileRange h 1#8 o.a 1
  | 0x8 => tileRange h 0#8 o.d 1
  | 0x9 | 0xA => (tileRange h 0#8 o.d 1).or (spadRange h o.a (tileImageBytes (modeEtype o.mode)))
  | _ => none

/-! ### The stores (R184, R185, R206, R207) -/

/-- `w` bits at bit `p` of the memory from `base` on, in the packed order of R9. -/
def readBits (m : Mem) (base p w : Nat) : Nat := readLE m (base + p / 8) ((w + 7) / 8) / 2 ^ (p % 8) % 2 ^ w

/-- Element (i, j) of a tile of a share. -/
def CoreRec.tileElem (r : CoreRec) (h : Share) (t i j : Nat) : Nat := readLE r.accm (2048 * (h.acct + t) + 128 * i + 4 * j) 4

/-- A row of a tile as bytes, from its elements. -/
def rowBytes (size : Nat) (f : Nat → Nat) : List Byte := (List.range 32).flatMap fun j => toBytes size (f j)

/-- A tile or an image of one as bytes, row-major. -/
def gridBytes (size : Nat) (f : Nat → Nat → Nat) : List Byte := (List.range 16).flatMap fun i => rowBytes size (f i)

/-- Write a whole tile of a share. -/
def CoreRec.setTile (r : CoreRec) (h : Share) (t : Nat) (f : Nat → Nat → Nat) : CoreRec :=
  { r with accm := writeBytes r.accm (2048 * (h.acct + t)) (gridBytes 4 f) }

/-- Element (i, e) of A in a K row (R206). -/
def CoreRec.aElem (r : CoreRec) (h : Share) (o : TileOp) (row w i e : Nat) : Nat :=
  readBits r.spad (h.spad + o.a.toNat + 1536 * row) (if o.op == opTmmat then w * (16 * e + i) else 768 * i + w * e) w

/-- Element e of column j of a B row (R205, R206). -/
def CoreRec.bElem (r : CoreRec) (h : Share) (o : TileOp) (row w j e : Nat) : Nat :=
  readBits r.bdata (bAddr j (h.rows + tdBrow o.b + row) 0) (w * e) w

/-- The A scale and the B scale of block b (R207). -/
def CoreRec.aScale (r : CoreRec) (h : Share) (tsa : Word) (row i b : Nat) : Nat :=
  (memRead r.spad (h.spad + tsa.toNat + 128 * row + 8 * i + b)).toNat
def CoreRec.bScale (r : CoreRec) (h : Share) (o : TileOp) (row j b : Nat) : Nat :=
  (memRead r.bside (sideAddr j (h.rows + tdBrow o.b + row) b)).toNat

/-! ### What the instructions do (R205–R211) -/

/-- One K row of TLDB (R205). -/
def CoreRec.loadRow (r : CoreRec) (h : Share) (o : TileOp) (row : Nat) : CoreRec :=
  let at_ := h.rows + tdBrow o.b + row
  if tdSide o.b then
    { r with bside := (List.range 32).foldl (fun m j =>
        writeBytes m (sideAddr j at_ 0) (readBytes r.spad (h.spad + o.a.toNat + 256 * row + 8 * j) 8)) r.bside }
  else
    { r with bdata := (List.range 32).foldl (fun m j =>
        writeBytes m (bAddr j at_ 0) (readBytes r.spad (h.spad + o.a.toNat + 3072 * row + 96 * j) 96)) r.bdata }

/-- The product of A(i, e) and B(e, j), exact (R206, R207). -/
def CoreRec.product (r : CoreRec) (h : Share) (tsa : Word) (o : TileOp) (f : FpFmt) (mx : Bool) (row i j e : Nat) : FVal :=
  let w := fmtWidth f
  let a := r.aElem h o row w i e
  let b := r.bElem h o row w j e
  let unit := modeUnitScale o.mode
  if mx then
    ((mxDec f unit (r.aScale h tsa row i (e / 32)) a).mul (mxDec f unit (r.bScale h o row j (e / 32)) b)).1
  else ((decFp f false a).mul (decFp f false b)).1

/-- An element of a tile after one K row of TMMA or TMMAT (R206). -/
def CoreRec.mmaElem (r : CoreRec) (h : Share) (tsa : Word) (o : TileOp) (row i j : Nat) : Nat :=
  let c := r.tileElem h o.d.toNat i j
  match matFmt (modeEtype o.mode) with
  | some .int8 =>
    let sum := (List.range 96).foldl (fun (acc : Int) e =>
      acc + intOfBits (r.aElem h o row 8 i e) 8 * intOfBits (r.bElem h o row 8 j e) 8) (intOfBits c 32)
    intBits (intRes sum 32 (modeOsat o.mode)) 32
  | some (.fp f mx) =>
    kroSum (modeRnd o.mode) (modeOsat o.mode) (modeFtz o.mode) (decFp .fp32 false c)
      ((List.range (768 / fmtWidth f)).map (r.product h tsa o f mx row i j))
  | none => c

/-- One K row of TMMA or TMMAT. -/
def CoreRec.mmaRow (r : CoreRec) (h : Share) (tsa : Word) (o : TileOp) (row : Nat) : CoreRec :=
  r.setTile h o.d.toNat (r.mmaElem h tsa o row)

/-- Element (i, j) of the 32 × 32 matrix of a tile pair (R208). -/
def CoreRec.pairElem (r : CoreRec) (h : Share) (t i j : Nat) : Nat := r.tileElem h (t + i / 16) (i % 16) j

/-- TTRN (R208). -/
def CoreRec.transpose (r : CoreRec) (h : Share) (o : TileOp) : CoreRec :=
  let y (k i j : Nat) : Nat := r.pairElem h o.a.toNat j (16 * k + i)
  (r.setTile h o.d.toNat (y 0)).setTile h (o.d.toNat + 1) (y 1)

/-- Whether an instruction works in integer mode (R203). -/
def TileOp.ints (o : TileOp) : Bool := intMode (modeEtype o.mode)

/-- Round to FP32 as MODE says. -/
def TileOp.round (o : TileOp) (f : FpFmt) (v : FVal) : Nat :=
  (roundFp f (modeRnd o.mode) (modeOsat o.mode) (modeFtz o.mode) v).1

/-- TSCL (R209). -/
def CoreRec.scaleTile (r : CoreRec) (h : Share) (o : TileOp) : CoreRec :=
  r.setTile h o.d.toNat fun i j =>
    let c := r.tileElem h o.a.toNat i j
    if o.ints then intBits (intRes (intOfBits c 32 * o.b.toInt) 32 (modeOsat o.mode)) 32
    else o.round .fp32 ((decFp .fp32 false c).mul (decFp .fp32 (modeFtz o.mode) o.b.toNat)).1

/-- TZERO (R209). -/
def CoreRec.zeroTiles (r : CoreRec) (h : Share) (o : TileOp) : CoreRec :=
  { r with accm := memClear r.accm (2048 * (h.acct + o.d.toNat)) (2048 * (o.b.toNat + 1)) }

/-- TADD (R209). -/
def CoreRec.addTiles (r : CoreRec) (h : Share) (o : TileOp) : CoreRec :=
  r.setTile h o.d.toNat fun i j =>
    let a := r.tileElem h o.a.toNat i j
    let b := r.tileElem h o.b.toNat i j
    if o.ints then intBits (intRes (intOfBits a 32 + intOfBits b 32) 32 (modeOsat o.mode)) 32
    else o.round .fp32 (FVal.add (modeRnd o.mode) (decFp .fp32 false a) (decFp .fp32 false b)).1

/-- TACCW (R210). -/
def CoreRec.writeRow (r : CoreRec) (h : Share) (o : TileOp) (rows : List Lanes) : CoreRec :=
  let lane (j : Nat) : Nat := ((rows.getD (j / 4) (Lanes.all 0#32)).get (Fin.ofNat 4 j)).toNat
  { r with accm := writeBytes r.accm (2048 * (h.acct + o.d.toNat) + 128 * o.b.toNat) (rowBytes 4 lane) }

/-- The element TACCS stores (R211). -/
def TileOp.stored (o : TileOp) (f : FpFmt ⊕ Nat) (c : Nat) : Nat :=
  let k := decFp .fp32 (modeFtz o.mode) o.b.toNat
  if o.ints then
    let w := imageWidth f
    intBits (cvtInt w (modeRnd o.mode) ((FVal.ofInt (intOfBits c 32)).mul k).1).1 w
  else match f with
    | .inl f => o.round f ((decFp .fp32 false c).mul k).1
    | .inr _ => 0

/-- TACCS (R211). -/
def CoreRec.storeTile (r : CoreRec) (h : Share) (o : TileOp) : CoreRec :=
  match imageFmt (modeEtype o.mode) with
  | some f =>
    let bs := gridBytes (imageWidth f / 8) fun i j => o.stored f (r.tileElem h o.d.toNat i j)
    { r with spad := writeBytes r.spad (h.spad + o.a.toNat) bs }
  | none => r

/-- The element TACCL loads (R211). -/
def loadedElem (f : FpFmt ⊕ Nat) (x : Nat) : Nat :=
  match f with
  | .inl f => bitsOf .fp32 (decFp f false x)
  | .inr w => intBits (intOfBits x w) 32

/-- TACCL (R211). -/
def CoreRec.loadTile (r : CoreRec) (h : Share) (o : TileOp) : CoreRec :=
  match imageFmt (modeEtype o.mode) with
  | some f =>
    let n := imageWidth f / 8
    r.setTile h o.d.toNat fun i j => loadedElem f (readLE r.spad (h.spad + o.a.toNat + n * (32 * i + j)) n)
  | none => r

/-- One unit of a tile instruction on the stores of its core (R212): K row `row` of one that works row by row, else the whole.
TACCR and TMXS change no store. -/
def CoreRec.tileUnit (r : CoreRec) (h : Share) (tsa : Word) (o : TileOp) (rows : List Lanes) (row : Nat) : CoreRec :=
  match o.op.toNat with
  | 0x0 => r.loadRow h o row
  | 0x1 | 0x2 => r.mmaRow h tsa o row
  | 0x3 => r.transpose h o
  | 0x4 => r.scaleTile h o
  | 0x5 => r.zeroTiles h o
  | 0x6 => r.addTiles h o
  | 0x8 => r.writeRow h o rows
  | 0x9 => r.storeTile h o
  | 0xA => r.loadTile h o
  | _ => r

/-! ### The matrix array (R212, R215, R216, R225) -/

/-- Whether an original is still held (R218). -/
def TileEntry.held (e : TileEntry) : Bool := e.rule.isNone && e.open_ && decide (e.later < 2)

/-- The entries dispatched: those in front of the first held one (R218). -/
def OctetRec.dispatched (o : OctetRec) : Nat := (o.queue.takeWhile fun e => !e.held).length

/-- Whether an octet has work for the array (R215). -/
def OctetRec.released (o : OctetRec) : Bool := decide (0 < o.dispatched)

/-- TSA as an instruction at the end of a queue will find it (R207). -/
def tsaAfter (tsa : Word) (es : List TileOp) : Word := es.foldl (fun x o => if o.op == opTmxs then o.a else x) tsa

/-- Fill the destinations of a TACCR with a row of its tile (R210). -/
def State.fillTaccr (s : State) (core : Nat) (e : TileEntry) : State :=
  match e.txn.bind fun id => s.txns.find? fun t => t.id == id with
  | none => s
  | some t =>
    let r := s.core core
    let h := r.share e.wave
    (t.parts.foldl (fun x p => x.modSlice p.sid fun sl =>
      sl.fillPart p 0b1111#4
        (Lanes.ofFn fun i => BitVec.ofNat 32 (r.tileElem h e.op.a.toNat e.op.b.toNat (4 * (p.slot % 8) + i.val)))
        (Lanes.all 0#32)) s).dropTxn t.id

/-- Perform one unit of the head of an octet's queue; it leaves the queue when it completes (R212). K rows are counted (R328). -/
def State.tileStep (s : State) (core oct : Nat) : State :=
  let o := s.octet core oct
  match o.queue with
  | [] => s
  | e :: rest =>
    let r := s.core core
    let s := s.setCore core (r.tileUnit (r.share e.wave) o.tsa e.op e.rows o.resume)
    let s := if e.op.op == opTmma || e.op.op == opTmmat then s.countEvent e.ctx (some (dieOfCore core)) 0x02#8 1 else s
    if o.resume + 1 < e.op.rows then s.setOctet { o with resume := o.resume + 1 }
    else
      let s := s.setOctet { o with queue := rest, resume := 0, tsa := if e.op.op == opTmxs then e.op.a else o.tsa }
      if e.op.op == opTaccr then s.fillTaccr core e else s

/-- Whether the unit just performed at an octet is not the end of its instruction or of its replacement group (R216, R225). -/
def OctetRec.continues (before after_ : OctetRec) : Bool :=
  after_.resume != 0 || (match before.queue with
    | e :: _ => e.rule.isSome && !e.last
    | [] => false)

/-- The wave of the bundle an MXR member belongs to (R299). -/
def State.mxrWave (s : State) (task : Nat) : Word :=
  match (s.task? task).bind (·.bundle) with
  | some (b, _) => ((s.tasks.find? fun t => recKind t.record == 0 && (t.bundle.map (·.1)) == some b).map (·.wave)).getD 0#32
  | none => 0#32

/-- The octet position an entry of the matrix leaf gives the array (R305). -/
def State.servedOctet (s : State) (core : Nat) (e : Entry) : Option Nat :=
  match e.kind with
  | .octet o => if (s.octet core o).released then some o else none
  | .mxr task next => ((List.range 16).map fun i => (next + i) % 16).find? fun o =>
      (s.octet core o).wave == s.mxrWave task && (s.octet core o).released
  | _ => none

/-- An MXR entry's next octet position. -/
def State.setNext (s : State) (core : Nat) (e : Entry) (next : Nat) : State :=
  match e.kind with
  | .mxr task _ => s.modEntries (matrixLeaf core) fun es => es.map fun x =>
      if x.id == e.id then { x with kind := .mxr task (next % 16) } else x
  | _ => s

/-- One unit of the matrix array of a core (R215): at a boundary the array takes the head of its leaf. -/
def State.runArray (s : State) (core : Nat) : State :=
  match if s.fab.copying then none else s.running (matrixLeaf core) with
  | none => s
  | some (_, e, t) => match t.servedOctet core e with
    | none => s
    | some o =>
      let u := t.tileStep core o
      if (t.octet core o).continues (u.octet core o) then u.setNext core e o
      else ((u.setNext core e (o + 1)).serve (matrixLeaf core) none).freeShares core

/-- The step TILE_PERFORM (R212, R215): one K row, or one whole instruction, of the array of a core. -/
def execTilePerform (core : Nat) (s : State) : Host.Outcome State Fault Refusal := .next (s.runArray core)

end Sys2Proof.Machine
end

