-- ==== Sys2Proof/Machine/Rewrite.lean ====
section
/-! DEFINITION. Group 0xC: who issues a tile instruction and what it captures (R200–R204, R213), the rewrite stage with its window,
its rules and their replacements (R218–R229), TSYNC (R214), TRULE (R230) and TRWQ (R231). -/

set_option Elab.async false

namespace Sys2Proof.Machine

/-! ### Rule entries (R221–R223) -/

/-- Word k of a rule entry. -/
def ruleWord (e : BitVec 256) (k : Nat) : Word := e.extractLsb' (32 * k) 32

def ruleV (e : BitVec 256) : Bool := e.getLsbD 31
def ruleClass (e : BitVec 256) : Nat := (e.extractLsb' 29 2).toNat
def ruleNpat (e : BitVec 256) : Nat := (e.extractLsb' 27 2).toNat
def ruleNrep (e : BitVec 256) : Nat := (e.extractLsb' 25 2).toNat
def ruleEmode (e : BitVec 256) : Nat := (e.extractLsb' 23 2).toNat
def ruleCop (e : BitVec 256) : Nat := (e.extractLsb' 20 3).toNat
def ruleCx (e : BitVec 256) : Nat := (e.extractLsb' 17 3).toNat
def ruleCy (e : BitVec 256) : Nat := (e.extractLsb' 14 3).toNat
def ruleNen (e : BitVec 256) : Bool := e.getLsbD 13
def ruleNx (e : BitVec 256) : Nat := (e.extractLsb' 10 3).toNat
def ruleNy (e : BitVec 256) : Nat := (e.extractLsb' 7 3).toNat
/-- The test code of a variable (R222). -/
def ruleTest (e : BitVec 256) (v : Nat) : Nat := (e.extractLsb' (128 + 4 * v) 4).toNat

/-- OPL of a pattern or replacement word. -/
def wordOpl (w : Word) : BitVec 4 := w.extractLsb' 28 4

/-- The variables a pattern word binds, for the fields D, A, B (R222). -/
def patVars (w : Word) : List (Option Nat) :=
  [(23, 20), (19, 16), (15, 12)].map fun p =>
    if w.getLsbD p.1 then some (w.extractLsb' p.2 3).toNat else none

/-- The field sources of a replacement word, for D, A, B (R223). -/
def repSources (w : Word) : List (BitVec 8) := [w.extractLsb' 16 8, w.extractLsb' 8 8, w.extractLsb' 0 8]

/-- Opcodes no rule may name (R222). -/
def oplRefused (x : BitVec 4) : Bool := x == 0x7#4 || x == 0x8#4 || decide (0xC ≤ x.toNat)

/-- The variables the pattern of an entry binds. -/
def ruleBound (e : BitVec 256) : List Nat :=
  (List.range (ruleNpat e + 1)).flatMap fun m => (patVars (ruleWord e (1 + m))).filterMap id

/-- Whether word 0 of an entry is refused (R221, R223). -/
def word0Refused (e : BitVec 256) : Bool :=
  let bound := ruleBound e
  ruleNpat e == 3 || ruleNrep e == 3 || ruleEmode e == 3 || decide (1 < ruleCop e) || e.extractLsb' 0 7 != 0#7 ||
  (ruleCop e != 0 && !(bound.contains (ruleCx e) && bound.contains (ruleCy e))) ||
  (ruleNen e && !(bound.contains (ruleNx e) && bound.contains (ruleNy e)))

/-- Whether pattern word m is refused (R222); the reserved bits of a used word are ignored (R6). -/
def patRefused (e : BitVec 256) (m : Nat) : Bool :=
  let w := ruleWord e (1 + m)
  if m ≤ ruleNpat e then oplRefused (wordOpl w) else w != 0#32

/-- Whether a field source is refused (R223). -/
def sourceRefused (e : BitVec 256) (x : BitVec 8) : Bool :=
  match (x.extractLsb' 6 2).toNat with
  | 0 => x.extractLsb' 0 6 != 0#6
  | 1 => x.extractLsb' 3 3 != 0#3 || !(ruleBound e).contains (x.extractLsb' 0 3).toNat
  | 2 => x.extractLsb' 0 6 != 0#6 || ruleCop e == 0
  | _ => false

/-- Whether replacement word m is refused (R223); the reserved bits of a used word are ignored (R6). -/
def repRefused (e : BitVec 256) (m : Nat) : Bool :=
  let w := ruleWord e (5 + m)
  if m < ruleNrep e then oplRefused (wordOpl w) || (repSources w).any (sourceRefused e) else w != 0#32

/-- The first word of an entry in which a refusal is found (R221–R223, R230); an entry with V = 0 is not refused. -/
def ruleRefused (e : BitVec 256) : Option Nat :=
  if !ruleV e then none
  else (List.range 8).find? fun k => match k with
    | 0 => word0Refused e
    | 1 | 2 | 3 => patRefused e (k - 1)
    | 4 => (List.range 8).any fun v => decide (5 < ruleTest e v)
    | 5 | 6 => repRefused e (k - 5)
    | _ => ruleWord e 7 != 0#32

/-! ### Matching (R219, R220) -/

/-- The values of the fields D, A, B of an instruction (R220). -/
def TileOp.fields (o : TileOp) : List Word := [o.d, o.a, o.b]

/-- Bind the variables of one instruction's fields; none if a bound one differs. -/
def bindFields (vs : List (Nat × Word)) (ps : List (Option Nat × Word)) : Option (List (Nat × Word)) :=
  match ps with
  | [] => some vs
  | (none, _) :: t => bindFields vs t
  | (some v, x) :: t => match vs.find? fun p => p.1 == v with
    | some p => if p.2 = x then bindFields vs t else none
    | none => bindFields (vs ++ [(v, x)]) t

/-- Bind the variables of a pattern (R220). -/
def bindAll (e : BitVec 256) (g : List TileOp) : Option (List (Nat × Word)) :=
  bindFields [] (g.zipIdx.flatMap fun p => (patVars (ruleWord e (1 + p.2))).zip p.1.fields)

/-- A test code holds of a value (R222). -/
def testHolds (code : Nat) (x : Word) : Bool :=
  let ex := (x.extractLsb' 23 8).toNat
  let fr := x.extractLsb' 0 23
  match code with
  | 1 => x == 0x3F800000#32
  | 2 => !x.getLsbD 31 && fr == 0#23 && decide (127 ≤ ex ∧ ex ≤ 254)
  | 3 => !x.getLsbD 31 && fr == 0#23 && decide (1 ≤ ex ∧ ex ≤ 254)
  | 4 => ex != 255 && !(ex == 0 && fr == 0#23)
  | 5 => !x.getLsbD 0
  | _ => true

/-- The value of a bound variable. -/
def varOf (vs : List (Nat × Word)) (v : Nat) : Word := ((vs.find? fun p => p.1 == v).map (·.2)).getD 0#32

/-- The snapshot of a group: that of its last instruction. -/
def groupMode (g : List TileOp) : Word := (g.getLast?.map (·.mode)).getD 0#32

/-- Whether a rule's pattern, mode and tests match a group; the bindings if they do (R219, R220). -/
def ruleMatches (e : BitVec 256) (g : List TileOp) : Option (List (Nat × Word)) :=
  let mode := groupMode g
  let ints := intMode (modeEtype mode)
  if g.zipIdx.all (fun p => p.1.op == wordOpl (ruleWord e (1 + p.2))) &&
      g.all (fun o => o.mode.extractLsb' 5 19 == mode.extractLsb' 5 19) &&
      !(ruleEmode e == 1 && ints) && !(ruleEmode e == 2 && !ints) then
    match bindAll e g with
    | none => none
    | some vs =>
      if vs.all (fun p => testHolds (ruleTest e p.1) p.2) && !(ruleNen e && varOf vs (ruleNx e) == varOf vs (ruleNy e)) then some vs
      else none
  else none

/-! ### Forming the replacement (R224) -/

/-- The computed value (R224); none where it is zero, subnormal, infinite or NaN. A subnormal factor is not flushed, whatever the common
MODE snapshot's FTZ: the step works with ftz = 0 throughout (DESIGN CHOICE, log 71). -/
def computed (e : BitVec 256) (vs : List (Nat × Word)) : Option Word :=
  if ruleCop e = 0 then some 0#32
  else
    let v := ((decFp .fp32 false (varOf vs (ruleCx e)).toNat).mul (decFp .fp32 false (varOf vs (ruleCy e)).toNat)).1
    let x : Word := BitVec.ofNat 32 (roundFp .fp32 .rne false false v).1
    if x.extractLsb' 23 8 = 0#8 ∨ x.extractLsb' 23 8 = 255#8 then none else some x

/-- The value of a field source (R223). -/
def sourceValue (vs : List (Nat × Word)) (c : Word) (x : BitVec 8) : Word :=
  match (x.extractLsb' 6 2).toNat with
  | 0 => 0#32
  | 1 => varOf vs (x.extractLsb' 0 3).toNat
  | 2 => c
  | _ => (x.extractLsb' 0 6).setWidth 32

/-- One replacement instruction. -/
def formOp (vs : List (Nat × Word)) (c : Word) (last : TileOp) (w : Word) : TileOp :=
  ⟨wordOpl w, sourceValue vs c (w.extractLsb' 16 8), sourceValue vs c (w.extractLsb' 8 8), sourceValue vs c (w.extractLsb' 0 8),
   last.mode, last.pc⟩

/-- Whether an instruction passes the checks of its issue (R224). -/
def TileOp.issues (o : TileOp) (h : Share) (tsa : Word) : Bool :=
  let k := fieldClasses o.op
  k.1.fits o.d && k.2.1.fits o.a && k.2.2.fits o.b && tileAdmits o.op o.mode && (o.check h tsa).isNone

/-- Whether a list of instructions passes the checks of issue one after the other. -/
def opsIssue (h : Share) (tsa : Word) (os : List TileOp) : Bool :=
  match os with
  | [] => true
  | o :: t => o.issues h tsa && opsIssue h (tsaAfter tsa [o]) t

/-- Form the replacement of a group; none if forming fails. -/
def formAll (e : BitVec 256) (vs : List (Nat × Word)) (g : List TileOp) (h : Share) (tsa : Word) : Option (List TileOp) :=
  match computed e vs, g.getLast? with
  | some c, some last =>
    let os := (List.range (ruleNrep e)).map fun m => formOp vs c last (ruleWord e (5 + m))
    if opsIssue h tsa os then some os else none
  | _, _ => none

/-! ### The match attempt (R219) -/

/-- What the attempt of one rule comes to. -/
inductive Tried where
  | skip
  | declPerm
  | declChk
  | found (n : Nat) (os : List TileOp)
deriving DecidableEq, Repr

/-- The last n entries of a queue, where they are all open undispatched originals (R219). -/
def OctetRec.group (o : OctetRec) (n : Nat) : Option (List TileEntry) :=
  let g := o.queue.drop (o.queue.length - n)
  if n ≤ o.queue.length ∧ g.dropLast.all (fun e => e.rule.isNone && e.open_) ∧ o.dispatched ≤ o.queue.length - n then some g else none

/-- One rule against the newest arrival of an octet. -/
def tryRule (o : OctetRec) (h : Share) (e : BitVec 256) : Tried :=
  if !ruleV e then .skip
  else
    let n := ruleNpat e + 1
    match o.group n with
    | none => .skip
    | some g =>
      let ops := g.map (·.op)
      match ruleMatches e ops with
      | none => .skip
      | some vs =>
        if modeRperm (groupMode ops) < ruleClass e then .declPerm
        else
          let tsa := tsaAfter o.tsa ((o.queue.take (o.queue.length - n)).map (·.op))
          match formAll e vs ops h tsa with
          | none => .declChk
          | some os => .found n os

/-- The first rule that is applied, with the declined ones before it: permission, check. -/
def tryRules (o : OctetRec) (h : Share) (rules : List (Fin 64 × BitVec 256)) (perm chk : Nat) :
    Option (Fin 64 × Nat × List TileOp) × Nat × Nat :=
  match rules with
  | [] => (none, perm, chk)
  | (x, e) :: t => match tryRule o h e with
    | .skip => tryRules o h t perm chk
    | .declPerm => tryRules o h t (perm + 1) chk
    | .declChk => tryRules o h t perm (chk + 1)
    | .found n os => (some (x, n, os), perm, chk)

/-- Add to a rewrite counter of a context, which wraps (R231). -/
def Ctx.addRw (c : Ctx) (k : Fin 6) (n : Int) : Ctx := { c with rwcnt := c.rwcnt.set k (c.rwcnt.get k + BitVec.ofInt 32 n) }

/-- The entries of a replacement (R218, R224). -/
def replacements (id : Nat) (x : Fin 64) (g : List TileEntry) (os : List TileOp) : List TileEntry :=
  match g.getLast? with
  | none => []
  | some l => os.zipIdx.map fun p =>
      { id := id + p.2, op := p.1, ctx := l.ctx, wave := l.wave, later := 0, open_ := false, rule := some x, group := id,
        origs := g.map (·.op), last := p.2 + 1 == os.length, rows := [], txn := none }

/-- The match attempt of the newest arrival of an octet (R219). -/
def State.attempt (s : State) (core oct : Nat) (cx : Fin 17) (wave : Word) : State :=
  let o := s.octet core oct
  let c := s.ctx cx
  let r := tryRules o ((s.core core).share wave) ((List.finRange 64).map fun x => (x, c.rules.get x)) 0 0
  let c := (c.addRw 2 r.2.1).addRw 3 r.2.2
  match r.1 with
  | none => s.setCtx cx c
  | some (x, n, os) =>
    let g := o.queue.drop (o.queue.length - n)
    let c := { (c.addRw 0 1).addRw 1 ((n : Int) - os.length) with rwrule := c.rwrule.set x (c.rwrule.get x + 1#32) }
    let s := (s.setCtx cx c).setOctet
      { o with queue := o.queue.take (o.queue.length - n) ++ replacements s.nextId x g os }
    { s with nextId := s.nextId + 4 }

/-! ### Issue (R200, R201, R204, R213) -/

/-- What a field of a tile instruction holds. -/
inductive TileField where
  | unused
  | num (n : Nat)
  | scal (x : SSrc)
deriving DecidableEq, Repr

/-- The value a field captures at issue, from the member at octet position 0 (R201, R220). -/
def TileField.capture (f : TileField) (sl : Slice) : Word :=
  match f with
  | .unused => 0#32
  | .num n => BitVec.ofNat 32 n
  | .scal x => sl.readSrc x.reg

/-- The registers a field reads. -/
def TileField.uses (f : TileField) (sl : Slice) (which : Nat) : List SrcUse :=
  match f with
  | .scal x => sl.ssUses x which
  | .unused => []
  | .num _ => []

/-- A tile instruction as it stands in the code: opcode, fields, a vector source (TACCW) or destination (TACCR). -/
structure TileForm where
  op : BitVec 4
  d : TileField
  a : TileField
  b : TileField
  vec : Option VSrc
  dst : Option VReg
deriving DecidableEq, Repr

/-- The instruction as it would enter the queue. -/
def TileForm.capture (f : TileForm) (c : Cur) (sl : Slice) : TileOp :=
  ⟨f.op, f.d.capture sl, f.a.capture sl, f.b.capture sl, sl.mode, c.pc⟩

/-- An octet's tile state as a wave finds it: reset at its first use (R200). A wave that comes back to an octet which another wave has used
in between finds it reset once more (DESIGN CHOICE, log 77). -/
def State.octetFor (s : State) (core oct : Nat) (wave : Word) : OctetRec :=
  let o := s.octet core oct
  if o.wave = wave then o else ⟨core, oct, wave, [], 0#32, 0⟩

/-- The full-gang check (R201): every member raises it. -/
def State.fullGang (s : State) (c : Cur) (sl : Slice) : Option TrapRec :=
  let ms := s.gangMembers c
  if ms.length < 8 then some { s.trapConv sl c 4#8 0#64 with mid := 0#16 }
  else if ms.any fun m => m.active != 0b1111#4 then some (s.trapConv sl c 5#8 0#64)
  else none

/-- The tile-engine trap (R204). -/
def trapTile (sl : Slice) (c : Cur) (f : TileFault) : TrapRec := trapAt sl c 9#5 f.case f.opnd f.index (c.word ++ f.value)

/-- The arithmetic trap and the tile-engine trap of the member at position 0 (R203, R204). -/
def State.tileTrap (s : State) (f : TileForm) (c : Cur) (sl : Slice) : Option TrapRec :=
  if sl.pos ≠ 0 then none
  else
    let o := f.capture c sl
    if tileAdmits o.op o.mode then
      let q := s.octetFor sl.core sl.oct sl.wave
      (o.check ((s.core sl.core).share sl.wave) (tsaAfter q.tsa (q.queue.map (·.op)))).map (trapTile sl c)
    else some (trapArith sl c)

/-- What issue knows of a tile instruction. -/
def State.tileIssue (s : State) (f : TileForm) : Issue :=
  ⟨.always, false,
   fun sl => (if sl.pos = 0 then f.d.uses sl 0 ++ f.a.uses sl 1 ++ f.b.uses sl 2 else []) ++
     (match f.vec with
      | some x => vsUses x 1
      | none => []),
   fun _ => (f.dst.map vregName).toList, s.fullGang, s.tileTrap f⟩

/-- Whether a member's earlier stores and atomics to a window are still to be performed (R213, R214). -/
def State.storesPending (s : State) (sid : Nat) (ws : List Window) : Bool :=
  s.txns.any fun t => t.has sid && t.kind.acc == .w && t.lanes.any fun l => l.sid == sid && (windowOf l.addr).any ws.contains

/-- A tile instruction waits for room in its queue and its window, and for its members' earlier stores (R200, R213, R218). -/
def tileHold : Cur → List Slice → State → Bool := fun _ ms t =>
  (match ms with
   | m :: _ =>
     let o := t.octetFor m.core m.oct m.wave
     decide (16 ≤ o.queue.length) || decide (8 ≤ o.queue.length - o.dispatched)
   | [] => false) ||
  ms.any fun m => t.storesPending m.sid [.scratch, .accum]

/-- Full/empty and engine status come before every other cause decided at issue (R376). -/
def TrapRec.ofSource (r : TrapRec) : Bool := r.group == 2#5 || r.group == 0xA#5

/-- A trap of some member is raised by every member, with the cause, case and detail of the first in the order of R376 (R201); only the
lanes that the guard excludes, and with them the detail of case 0x05, are each member's own. -/
def shareTraps (ms : List Slice) (ts : List (Nat × TrapRec)) : List (Nat × TrapRec) :=
  match (ts.find? fun t => t.2.ofSource).or ts.head? with
  | none => []
  | some t => ms.map fun m =>
    if t.2.group == 3#5 then (ts.find? fun u => u.1 == m.sid).getD t
    else if m.sid = t.1 then t
    else (m.sid, { t.2 with lanes := m.active, reg := none })

/-- Put an instruction into its octet's queue and start its match attempt; later arrivals release the entries in front (R218, R219). -/
def State.arriveTile (s : State) (f : TileForm) (c : Cur) (m : Slice) (rows : List Lanes) (txn : Option Nat) : State :=
  let cx := s.ctxOfWave m.wave
  let flushes := f.op == opTaccr
  let s := if flushes then s.flushPoint m.core m.oct else s
  let o := s.octetFor m.core m.oct m.wave
  let e : TileEntry :=
    { id := s.nextId, op := f.capture c m, ctx := cx, wave := m.wave, later := 0, open_ := !flushes, rule := none, group := s.nextId,
      origs := [], last := true, rows := rows, txn := txn }
  let s := { s.setOctet { o with queue := o.queue ++ [e] } with nextId := s.nextId + 1 }
  let s := s.attempt m.core m.oct cx m.wave
  let o := s.octet m.core m.oct
  s.setOctet { o with queue := o.queue.map fun x => if x.id < e.id then { x with later := x.later + 1 } else x }

/-- A tile instruction issued by a full gang (R201): it enters the queue of its octet. -/
def State.tileOp (s : State) (f : TileForm) : State :=
  match s.cur with
  | none => s
  | some c => match s.gang? c.gid with
    | none => { s with cur := none }
    | some g =>
      let k := s.tileIssue f
      let ms := s.membersOf g
      match k.decide_ c (tileHold c ms s) ms with
      | .traps ts => { s.raiseAll (shareTraps ms ts) with cur := none }
      | .parks sid r => { (ms.foldl State.flushSlice s).startWait c.gid (.parked sid r) with cur := none }
      | .holds => { s.setWait c.gid (.held true) with cur := none }
      | .goes => match ms.find? fun m => m.pos == 0 with
        | none => { s with cur := none }
        | some m =>
          let t := s.advance k c ms
          let rows := match f.vec with
            | some x => (bySlot ms).map fun n => n.readV x.reg
            | none => []
          let u := match f.dst with
            | some r => t.gangTxn c ms (.taccr t.nextId) 4 (fun _ => [vregName r]) []
            | none => t
          (u.arriveTile f c m rows (f.dst.map fun _ => t.nextId)).afterIssue c ms

/-- TLDB (R205). -/
def execTldb (a b : SSrc) (s : State) : Host.Outcome State Fault Refusal :=
  .next (s.tileOp ⟨opTldb, .unused, .scal a, .scal b, none, none⟩)

/-- TMMA (R206). -/
def execTmma (d : Tile) (a b : SSrc) (s : State) : Host.Outcome State Fault Refusal :=
  .next (s.tileOp ⟨opTmma, .num d.val, .scal a, .scal b, none, none⟩)

/-- TMMAT (R206). -/
def execTmmat (d : Tile) (a b : SSrc) (s : State) : Host.Outcome State Fault Refusal :=
  .next (s.tileOp ⟨opTmmat, .num d.val, .scal a, .scal b, none, none⟩)

/-- TTRN (R208). -/
def execTtrn (d a : TilePair) (s : State) : Host.Outcome State Fault Refusal :=
  .next (s.tileOp ⟨opTtrn, .num (2 * d.val), .num (2 * a.val), .unused, none, none⟩)

/-- TSCL (R209). -/
def execTscl (d a : Tile) (b : SSrc) (s : State) : Host.Outcome State Fault Refusal :=
  .next (s.tileOp ⟨opTscl, .num d.val, .num a.val, .scal b, none, none⟩)

/-- TZERO (R209): the immediate is the count minus 1. -/
def execTzero (d : Tile) (b : Fin 16) (s : State) : Host.Outcome State Fault Refusal :=
  .next (s.tileOp ⟨opTzero, .num d.val, .unused, .num b.val, none, none⟩)

/-- TADD (R209). -/
def execTadd (d a b : Tile) (s : State) : Host.Outcome State Fault Refusal :=
  .next (s.tileOp ⟨opTadd, .num d.val, .num a.val, .num b.val, none, none⟩)

/-- TACCR (R210): vD is empty until the row is read; a flush point (R228). -/
def execTaccr (d : VReg) (a : Tile) (b : Fin 16) (s : State) : Host.Outcome State Fault Refusal :=
  .next (s.tileOp ⟨opTaccr, .unused, .num a.val, .num b.val, none, some d⟩)

/-- TACCW (R210): the lanes are captured at issue. -/
def execTaccw (d : Tile) (a : VSrc) (b : Fin 16) (s : State) : Host.Outcome State Fault Refusal :=
  .next (s.tileOp ⟨opTaccw, .num d.val, .unused, .num b.val, some a, none⟩)

/-- TACCS (R211). -/
def execTaccs (d : Tile) (a b : SSrc) (s : State) : Host.Outcome State Fault Refusal :=
  .next (s.tileOp ⟨opTaccs, .num d.val, .scal a, .scal b, none, none⟩)

/-- TACCL (R211). -/
def execTaccl (d : Tile) (a : SSrc) (s : State) : Host.Outcome State Fault Refusal :=
  .next (s.tileOp ⟨opTaccl, .num d.val, .scal a, .unused, none, none⟩)

/-- TMXS (R207). -/
def execTmxs (a : SSrc) (s : State) : Host.Outcome State Fault Refusal :=
  .next (s.tileOp ⟨opTmxs, .unused, .scal a, .unused, none, none⟩)

/-- Flush the octet of the gang that issues. -/
def State.flushIssuer (s : State) : State :=
  match s.cur.bind fun c => s.gang? c.gid with
  | some g => s.flushPoint g.core g.octet
  | none => s

/-- TSYNC waits for its octet's queue and for its slices' accumulator-window stores (R214). -/
def syncHold : Cur → List Slice → State → Bool := fun _ ms t =>
  ms.any fun m => !(t.octet m.core m.oct).queue.isEmpty || t.storesPending m.sid [.accum]

/-- TSYNC (R214): any gang, whatever its mask; a flush point (R228). -/
def execTsync (s : State) : Host.Outcome State Fault Refusal :=
  .next (s.flushIssuer.issue ⟨.always, false, fun _ => [], fun _ => [], noCheck, noCheck⟩ syncHold fun _ _ t => t)

/-! ### TRULE and TRWQ (R230, R231) -/

/-- TRULE (R230). -/
def execTrule (d : SReg) (a : SPairSrc) (b : SSrc) (s : State) : Host.Outcome State Fault Refusal :=
  .next (s.issue ⟨.guarded, true, fun sl => sl.spUses a 1 ++ sl.ssUses b 2, fun sl => [sl.sname d], noCheck, fun c sl =>
      s.scalarAccess sl c (sl.readPair a.reg) 32 [.global, .scratch] 32 false⟩ noHold
    fun c ms t => t.sliceTxns c ms (fun m => .trule (m.readSrc b.reg)) 32 (fun m => [m.sname d]) fun m =>
      [m.scalarLane (m.readPair a.reg) 0#64 0#32])

/-- TRWQ (R231). -/
def execTrwq (d : SReg) (a : Bool) (b : RwSel) (s : State) : Host.Outcome State Fault Refusal :=
  .next (s.issue (Issue.regs (fun _ => []) fun sl => [sl.sname d]) noHold
    fun c ms t => t.sliceTxns c ms (fun _ => .trwq b a) 4 (fun m => [m.sname d]) fun _ => [])

/-- The status of a rule entry loaded into an index, and the context with it (R230); an index out of range comes before a refusal of the
entry (DESIGN CHOICE, log 61). -/
def Ctx.loadRule (c : Ctx) (index : Word) (e : BitVec 256) : Word × Ctx :=
  if index.extractLsb' 6 26 ≠ 0#26 then (1#32, c)
  else match ruleRefused e with
    | some k => (BitVec.ofNat 32 (256 * k + 2), c)
    | none => (0#32, { c with rules := c.rules.set (index.extractLsb' 0 6).toFin e })

/-- TRULE's entry is read and loaded, then its status fills (R230). -/
def State.performTrule (s : State) (t : Txn) (index : Word) : State :=
  let s := s.fillLanes t t.lanes
  match t.lanes with
  | l :: _ =>
    let bs := s.readWindow t.core t.wave (s.txnAsid t) l.addr 32
    let r := (s.ctx t.ctx).loadRule index (BitVec.ofNat 256 (ofBytes bs))
    (t.parts.foldl (fun x p => x.fillWord p r.1) (s.setCtx t.ctx r.2)).dropTxn t.id
  | [] => s.dropTxn t.id

/-- The counter a selector names, and the context with it cleared (R231). -/
def Ctx.rwRead (c : Ctx) (sel : RwSel) : Word × Ctx :=
  let at_ (k : Fin 6) : Word × Ctx := (c.rwcnt.get k, { c with rwcnt := c.rwcnt.set k 0#32 })
  match sel with
  | .match_ => at_ 0
  | .removed => at_ 1
  | .declperm => at_ 2
  | .declchk => at_ 3
  | .aband => at_ 4
  | .flush => at_ 5
  | .rule x => (c.rwrule.get x, { c with rwrule := c.rwrule.set x 0#32 })

/-- TRWQ reads its counter, and clears it with CLR, as one step (R231). -/
def State.performTrwq (s : State) (t : Txn) (sel : RwSel) (clr : Bool) : State :=
  let r := (s.ctx t.ctx).rwRead sel
  let s := if clr then s.setCtx t.ctx r.2 else s
  (t.parts.foldl (fun x p => x.fillWord p r.1) s).dropTxn t.id

/-! ### Abandoning a group (R229) -/

/-- What an instruction reads: ranges of the scratchpad share, tiles of the share, B rows of the share. -/
def TileOp.reads (o : TileOp) (tsa : Word) : List (Nat × Nat) × List (Nat × Nat) × List (Nat × Nat) :=
  match o.op.toNat with
  | 0x0 => ([(o.a.toNat, (if tdSide o.b then 256 else 3072) * tdRows o.b)], [], [])
  | 0x1 | 0x2 =>
    ((o.a.toNat, 1536 * tdRows o.b) :: (if o.readsScales then [(tsa.toNat, 128 * tdRows o.b)] else []), [(o.d.toNat, 1)],
     [(tdBrow o.b, tdRows o.b)])
  | 0x3 => ([], [(o.a.toNat, 2)], [])
  | 0x4 => ([], [(o.a.toNat, 1)], [])
  | 0x6 => ([], [(o.a.toNat, 1), (o.b.toNat, 1)], [])
  | 0x9 => ([], [(o.d.toNat, 1)], [])
  | 0xA => ([(o.a.toNat, tileImageBytes (modeEtype o.mode))], [], [])
  | _ => ([], [], [])

/-- Whether a position lies in one of several ranges. -/
def inRanges (rs : List (Nat × Nat)) (x : Nat) : Bool := rs.any fun r => decide (r.1 ≤ x ∧ x < r.1 + r.2)

/-- Whether an instruction reads the word an uncorrected error is reported for (R197): a window address, or a B-stack row. -/
def TileOp.consumes (o : TileOp) (h : Share) (tsa : Word) (addr : DWord) : Bool :=
  let r := o.reads tsa
  match windowOf addr with
  | some .scratch => inRanges r.1 (offsetOf addr)
  | some .accum => inRanges r.2.1 (offsetOf addr / 2048)
  | _ => addr.extractLsb' 56 8 == 0xFC#8 && inRanges (r.2.2.map fun x => (h.rows + x.1, x.2)) (addr.extractLsb' 0 9).toNat

/-- Perform the originals of a group whole, in order (R229): the stores, TSA, and the PC of the one that consumed the error
again. -/
def replay (h : Share) (addr : DWord) (os : List TileOp) (r : CoreRec) (tsa : Word) : CoreRec × Word × Option DWord :=
  match os with
  | [] => (r, tsa, none)
  | o :: t =>
    if o.consumes h tsa addr then (r, tsa, some o.pc)
    else replay h addr t ((List.range o.rows).foldl (fun x k => x.tileUnit h tsa o [] k) r) (tsaAfter tsa [o])

/-- A replacement entry consumes an uncorrected error: its group is abandoned and its originals are replayed (R229); an error met
again ends the wave with RWV and RULE, as one an original consumes ends it without (R197). The detail holds the position of the newest
entry of the error log. -/
def State.tileError (s : State) (core oct : Nat) (addr : DWord) : State :=
  let o := s.octet core oct
  let stop (pc : DWord) : WaveEnd := WaveEnd.hardware 3#8 (s.trust.entryIndex fun _ => true) addr pc core
  match o.queue with
  | [] => s
  | e :: _ =>
    if e.rule.isNone then s.endWave e.wave (stop e.op.pc)
    else
      let r := s.core core
      let p := replay (r.share e.wave) addr e.origs r o.tsa
      let s := (s.setCore core p.1).setOctet
        { o with queue := o.queue.filter (fun x => !(x.rule.isSome && x.group == e.group)), tsa := p.2.1, resume := 0 }
      match p.2.2 with
      | some pc => s.endWave e.wave { stop pc with rule := e.rule }
      | none => (s.setCtx e.ctx ((s.ctx e.ctx).addRw 4 1)).freeShares core

end Sys2Proof.Machine
end

