-- ==== Sys2Proof/Machine/Net.lean ====
section
/-! DEFINITION. The senders of the package: packets of the fabric leaves (R294, R305, R341, R346) and of the network leaf (R364), and the
network engine's receipts and completions (R366). -/

set_option Elab.async false

namespace Sys2Proof.Machine

/-! ### Fabric packets (R294, R341, R346) -/

/-- The crossings the target of an operation is known to have completed (R346). -/
def State.targetCount (s : State) (p : BitVec 9) : Nat := if p = s.fab.peer then s.fab.crossed else s.peerCount p

/-- Whether an operation waits at the sender for its target's crossing (R346); the targets of a multicast may be any peer. -/
def State.heldAtSender (s : State) (o : FabOp) : Bool :=
  decide (2 ≤ o.step) && (match o.dest with
    | .peer p => decide (s.targetCount p + 1 < o.step)
    | .group _ => (List.range (s.fab.npeer.toNat + 1)).any fun p => decide (s.targetCount (BitVec.ofNat 9 p) + 1 < o.step))

/-- The destination a packet's F2 names: the peer, or the multicast group. -/
def FabDest.id (d : FabDest) : BitVec 9 :=
  match d with
  | .peer p => p
  | .group g => g

/-- The length of a fabric packet: one header flit and 0 to 16 payload flits (R341); which of them is the part's own (log 3). -/
def fabricFlits (seq : Nat) : Nat := 1 + (Config.packetFlits seq).toNat % 17

/-- The fields of a packet of `flits` at its sender (R294): the traffic class is the part's own (log 3). -/
def packetFields (seq : Nat) (dest : BitVec 9) (flits : BitVec 16) : BitVec 128 :=
  0#64 ++ flits ++ dest.setWidth 16 ++ 0#16 ++ Config.trafficClass seq

/-- Whether an operation's packet waits in some fabric leaf. -/
def State.hasPacket (s : State) (seq : Nat) : Bool :=
  (List.range 9).any fun g => (s.entries (fabricLeaf g)).any fun e => e.kind == .packet seq

/-- The link groups with room, from an operation's first choice on (log 16). -/
def State.groupFor (s : State) (seq : Nat) : Option Nat :=
  ((List.range 9).map fun i => (seq + i) % 9).find? fun g => s.nodeRoom (fabricLeaf g)

/-- A packet enters a fabric leaf with room, unless it stands in one. -/
def State.enterPacket (s : State) (n : Nat) (dest : BitVec 9) : State :=
  if s.hasPacket n then s
  else match s.groupFor n with
    | some g => s.enterNode (fabricLeaf g) (.packet n) (packetFields n dest (BitVec.ofNat 16 (fabricFlits n))) none
    | none => s

/-- The operations that may be sent, and the replies, enter the fabric leaves as packets (R294). -/
def State.feedPackets (s : State) : State :=
  s.fab.replies.foldl (fun x r => x.enterPacket r.id r.peer)
    (s.fab.ops.foldl (fun x o => if o.sent || x.heldAtSender o then x else x.enterPacket o.seq o.dest.id) s)

/-- Whether a plane may carry a group's packets: it is up and of the group, or the group has none that is up (R341). -/
def State.planeFits (s : State) (group : Nat) (plane : Nat) : Bool :=
  s.fab.planes.getLsbD plane &&
  (plane / 16 == group || (List.range 16).all fun i => !s.fab.planes.getLsbD (16 * group + i))

/-- Send the head packet of a fabric leaf; its flits are counted (R328). -/
def State.sendHead (s : State) (group plane : Nat) : State :=
  match s.entries (fabricLeaf group) with
  | [] => s
  | e :: _ => match e.kind with
    | .packet n =>
      let t := s.dropEntry (fabricLeaf group) e.id
      let u := t.countEvent 0 none 0x10#8 (fabricFlits n)
      (match s.fab.ops.find? fun o => o.seq == n, s.fab.replies.find? fun r => r.id == n with
       | some o, _ => (u.modFabOp n fun x => { x with sent := true }).send (.fabric o plane)
       | none, some r =>
         ({ u with fab := { u.fab with replies := u.fab.replies.filter fun x => x.id != n } } : State).send (.reply r.peer r.seq r.data)
       | none, none => t)
    | _ => s

/-- The step FABRIC_PACKET_SEND (R305). -/
def execFabricPacketSend (group : Fin 9) (plane : Fin 144) (s : State) : Host.Outcome State Fault Refusal :=
  .next (if s.planeFits group.val plane.val && !s.fab.copying then s.sendHead group.val plane.val else s)

/-! ### Network packets (R364, R366) -/

/-- Change a network request. -/
def State.modReq (s : State) (id : Nat) (f : NetReq → NetReq) : State :=
  { s with netReqs := s.netReqs.map fun r => if r.id == id then f r else r }

/-- A packet enters the network leaf, unless it stands there or the leaf has no room. -/
def State.enterNetwork (s : State) (n : Nat) : State :=
  if !s.nodeRoom networkLeaf || (s.entries networkLeaf).any (fun e => e.kind == .request n) then s
  else s.enterNode networkLeaf (.request n) (packetFields n 0#9 (Config.packetFlits n)) none

/-- Requests that have a packet to send, and answers, enter the network leaf (R294). -/
def State.feedRequests (s : State) : State :=
  s.netReplies.foldl (fun x r => x.enterNetwork r.id)
    (s.netReqs.foldl (fun x r => if r.kind == .recv || r.sent || r.failed then x else x.enterNetwork r.id) s)

/-- Whether an access of the network engine parks behind the first faulter of a page (R176). -/
def State.netHeld (s : State) (c : Fin 17) (a : DWord) (n : Nat) (acc : Acc) : Bool :=
  windowOf a == some .global && s.rangeHeld 4 (s.asidOf c) (offsetOf a) n acc

/-- The packet of a request, with the state in which its data was read; or the state where the data cannot be read (R238, R280). -/
def State.packetOf (s : State) (r : NetReq) : Except State (NetPacket × State) :=
  let data (f : List Byte → NetPacket) : Except State (NetPacket × State) := match s.readObject r.ctx r.laddr r.len with
    | .ok d => .ok (f d.1, d.2)
    | .error e => .error e.2
  match r.kind with
  | .send => data (.send r.ep r.raddr)
  | .write => data (.write r.ep r.raddr)
  | .read => .ok (.readRequest r.ep r.raddr r.len r.id, s)
  | .recv => .error s

/-- The step NETWORK_PACKET_SEND (R364): the head of the network leaf is sent; a request whose data cannot be read fails. -/
def execNetworkPacketSend (port : Fin 4) (s : State) : Host.Outcome State Fault Refusal :=
  let _ := port
  .next (match s.entries networkLeaf with
    | [] => s
    | e :: _ => match e.kind with
      | .request id =>
        if s.fab.copying then s
        else match s.netReqs.find? fun r => r.id == id with
          | none =>
            let t := s.dropEntry networkLeaf e.id
            (match s.netReplies.find? fun r => r.id == id with
             | some r => ({ t with netReplies := t.netReplies.filter fun x => x.id != id } : State).send (.net r.packet)
             | none => t)
          | some r =>
            if r.kind != .read && s.netHeld r.ctx r.laddr r.len .r then s
            else match s.packetOf r with
              | .ok (p, t) => ((t.dropEntry networkLeaf e.id).modReq id fun x => { x with sent := true }).send (.net p)
              | .error t => (t.dropEntry networkLeaf e.id).modReq id fun x => { x with failed := true }
      | _ => s)

/-- Write bytes that arrived into a context's memory: whether they could be written, and the state. -/
def State.placeData (s : State) (c : Fin 17) (a : DWord) (bs : List Byte) : Bool × State :=
  if windowOf a = some .global ∧ offsetOf a + bs.length ≤ 2 ^ 56 then
    match s.gWrite 4 (s.asidOf c) (offsetOf a) bs with
    | some t => (true, t)
    | none => (false, s.logRange 4 c (offsetOf a) bs.length .w)
  else (false, s)

/-- The context an endpoint is for, while its entry is valid (R365). -/
def State.endpointCtx (s : State) (ep : BitVec 12) : Option (Fin 17) :=
  (List.finRange 17).find? fun c => endpointOk (s.endpoint ep.toNat) c

/-- The earliest posted RECV that matches a SEND (R366). -/
def State.matchRecv (s : State) (ep : BitVec 12) (bits : DWord) : Option NetReq :=
  s.netReqs.find? fun r => r.kind == .recv && r.ep == ep && r.raddr == bits && !r.placed && !r.failed

/-- Place what arrived for a request. -/
def State.placeFor (s : State) (r : NetReq) (bs : List Byte) : Bool × State :=
  let d := s.placeData r.ctx r.laddr bs
  (d.1, d.2.modReq r.id fun x => if d.1 then { x with placed := true } else { x with failed := true })

/-- The READ a reply answers. -/
def State.readFor (s : State) (id : Nat) : Option NetReq :=
  s.netReqs.find? fun r => r.id == id && r.kind == .read && r.sent && !r.placed && !r.failed

/-- What an arriving packet does (R366); a message arrives whole (log 21). -/
def State.receivePacket (s : State) (p : NetPacket) : State :=
  match p with
  | .send ep bits data => (match s.matchRecv ep bits with
    | some r =>
      if r.len < data.length then s.send (.netAnswer p false)
      else
        let d := s.placeFor r data
        d.2.send (.netAnswer p d.1)
    | none => s.send (.netAnswer p false))
  | .write ep raddr data => (match s.endpointCtx ep with
    | some c =>
      let d := s.placeData c raddr data
      d.2.send (.netAnswer p d.1)
    | none => s.send (.netAnswer p false))
  | .readRequest ep raddr len id => (match s.endpointCtx ep with
    | some c => (match s.readObject c raddr len with
      | .ok (bs, t) =>
        { t with nextId := t.nextId + 1, netReplies := t.netReplies ++ [⟨t.nextId, c, .readReply id bs⟩] }
      | .error e => e.2.send (.netAnswer p false))
    | none => s.send (.netAnswer p false))
  | .readReply id data => (match s.readFor id with
    | some r => if r.len ≠ data.length then s else (s.placeFor r data).2
    | none => s)

/-- Whether a packet's access parks, so that the packet is not received yet (R176). -/
def State.receiptHeld (s : State) (p : NetPacket) : Bool :=
  match p with
  | .send ep bits data => ((s.matchRecv ep bits).map fun r => s.netHeld r.ctx r.laddr data.length .w).getD false
  | .write ep raddr data => ((s.endpointCtx ep).map fun c => s.netHeld c raddr data.length .w).getD false
  | .readRequest ep raddr len _ => ((s.endpointCtx ep).map fun c => s.netHeld c raddr len .r).getD false
  | .readReply id data => ((s.readFor id).map fun r => s.netHeld r.ctx r.laddr data.length .w).getD false

/-- The step NETWORK_PACKET_RECEIPT (R366); no packet is received while a checkpoint is copied (R363). -/
def execNetworkPacketReceipt (p : NetPacket) (s : State) : Host.Outcome State Fault Refusal :=
  .next (if s.receiptHeld p || s.fab.copying then s else s.receivePacket p)

/-- Whether a request may complete, with the outcome its target tells. -/
def NetReq.mayComplete (r : NetReq) (failed : Bool) : Bool :=
  r.failed || (match r.kind with
    | .send | .write => r.sent
    | .read => r.sent && (failed || r.placed)
    | .recv => r.placed)

/-- The step NETWORK_REQUEST_COMPLETE (R366): the error count first, then the completion, as a release at package scope; not while a
checkpoint is copied (R363). -/
def execNetworkRequestComplete (id : Nat) (failed : Bool) (s : State) : Host.Outcome State Fault Refusal :=
  .next (match s.netReqs.find? fun r => r.id == id with
    | none => s
    | some r =>
      if r.mayComplete failed && !s.fab.copying && !s.addHeld r.ctx r.cntr && s.writes.all fun w => w.applied &&& s.diesUp == s.diesUp then
        let s : State := { s with netReqs := s.netReqs.filter fun x => x.id != id }
        let s := if r.failed || failed then s.addOne r.ctx (r.cntr + 4#64) else s
        s.addOne r.ctx r.cntr
      else s)

end Sys2Proof.Machine
end

