-- ==== Sys2Proof/Machine/Queue.lean ====
section
/-! DEFINITION. Host queues (R315–R319): the packet at a queue's head, its checks in their order (R314, R316, R320, R322), how it is
performed and completed, and the packets that need no unit of their own: PUSH, DMA, FLUSH, NODE, PROG and malformed ones. -/

set_option Elab.async false

namespace Sys2Proof.Machine

/-! ### The packet slot (R316) -/

def slotOp (p : BitVec 2560) : Nat := (p.extractLsb' 0 8).toNat
def slotNbl (p : BitVec 2560) : Nat := (p.extractLsb' 12 5).toNat
def slotFence (p : BitVec 2560) : Bool := p.getLsbD 17
def slotArg (p : BitVec 2560) (i : Nat) : DWord := p.extractLsb' (64 + 64 * i) 64

/-- The byte offset of an argument in its packet. -/
def argOff (i : Nat) : Nat := 8 + 8 * i

/-- The argument bits an operation defines (R320). -/
def argMasks (op : Nat) : Option (List DWord) :=
  let all : DWord := BitVec.allOnes 64
  match op with
  | 0x01 => some [all, 0xFFFF#64, 0#64, 0#64]
  | 0x02 => some [all, all, 0xFFFFFFFF#64, all]
  | 0x03 => some [all, all, 0x1FFFFFFFF#64, 0#64]
  | 0x04 => some [0#64, 0#64, 0#64, 0#64]
  | 0x05 => some [all, 0xFFFF#64, 0#64, 0#64]
  | 0x06 => some [all, 0x1F3F#64, 0#64, 0#64]
  | 0x07 => some [all, 0x3F#64, 0#64, 0#64]
  | 0x08 => some [all, all, 7#64, all]
  | 0x09 => some [all, 0xFFFF#64, 0xD#64, 0#64]
  | 0x0A => some [all, 0#64, 0#64, 0#64]
  | 0x0B => some [all, 0x1F#64, 0#64, 0#64]
  | 0x0C => some [all, 3#64, 0xFFFFFFFF#64, 0#64]
  | 0x0D => some [0#64, 3#64, 0#64, 0#64]
  | _ => none

/-- Whether an operation is accepted on the physical function only (R320). -/
def pfOnly (op : Nat) : Bool := [0x05, 0x06, 0x0B, 0x0C, 0x0D].contains op

/-- The context PROG or CTX names. -/
def slotCtx (p : BitVec 2560) : Nat :=
  if slotOp p = 0x06 then ((slotArg p 1).extractLsb' 8 5).toNat else ((slotArg p 1).extractLsb' 0 5).toNat

/-- Whether a packet is malformed (R316, R320, R322): STATUS 0x04. -/
def slotMalformed (p : BitVec 2560) : Bool :=
  p.extractLsb' 320 192 != 0#192 || p.extractLsb' 19 13 != 0#13 || p.extractLsb' 8 4 != 0#4 || decide (16 < slotNbl p) ||
  ((List.range (slotNbl p)).any fun i => (slotEntry p i).extractLsb' 99 29 != 0#29 || decide (6 ≤ blMode (slotEntry p i))) ||
  (match argMasks (slotOp p) with
   | none => true
   | some ms => (List.range 4).any fun i => (slotArg p i) &&& ~~~(ms.getD i 0#64) != 0#64) ||
  ((slotOp p == 0x06 || slotOp p == 0x0B) && decide (16 < slotCtx p)) ||
  (slotOp p == 0x08 && !(slotArg p 2).getLsbD 2 && slotArg p 3 != 0#64)

/-! ### Capabilities and bounds (R313, R314) -/

/-- A pointer as the pilot cores hold it (R313): base, length, permissions, and the hidden validity tag. -/
structure Capability where
  base : DWord
  len : DWord
  r : Bool
  w : Bool
  tag : Bool
deriving DecidableEq, Repr

/-- A permission a capability gives. -/
def Capability.permits (k : Capability) (a : Acc) : Bool :=
  match a with
  | .r => k.r
  | .w => k.w
  | .x => false

/-- Whether a dereference of n bytes at an address keeps the bounds and the permissions of a capability (R313). -/
def Capability.allows (k : Capability) (acc : Acc) (a n : Nat) : Bool :=
  k.tag && k.permits acc && (n == 0 || (decide (k.base.toNat ≤ a) && decide (a + n ≤ k.base.toNat + k.len.toNat)))

/-- A capability derived from another: narrower in its range and its permissions, else without a tag (R313). -/
def Capability.narrow (k : Capability) (base len : DWord) (r w : Bool) : Capability :=
  ⟨base, len, r, w, k.tag && decide (k.base.toNat ≤ base.toNat ∧ base.toNat + len.toNat ≤ k.base.toNat + k.len.toNat) &&
    (!r || k.r) && (!w || k.w)⟩

/-- The capability of a function's host window (R314, R318): none where it is empty or its last byte would lie beyond 2^64 − 1. -/
def Ctx.hostCap (c : Ctx) : Capability :=
  ⟨c.hwbase, c.hwlen, true, true, c.hwlen != 0#64 && decide (c.hwbase.toNat + c.hwlen.toNat ≤ 2 ^ 64)⟩

/-- The capability of a context's grant (R314, R325). -/
def Ctx.grantCap (c : Ctx) : Capability := ⟨c.gbase, c.glen, true, true, true⟩

/-- Whether a host range passes: of an empty range, its address (R318; DESIGN CHOICE, log 46). -/
def Ctx.hostOk (c : Ctx) (acc : Acc) (a n : Nat) : Bool := c.hostCap.allows acc a (max n 1)

/-- Whether an object of a context passes: a range in the grant, held as a capability narrowed to the object. -/
def Ctx.grantOk (c : Ctx) (acc : Acc) (a : DWord) (n : Nat) : Bool :=
  n == 0 || (decide (n < 2 ^ 64) && (c.grantCap.narrow a (BitVec.ofNat 64 n) (acc == .r) (acc == .w)).allows acc a.toNat n)

/-- The host ranges a packet names: field offset, access, address, bytes. -/
def hostFields (p : BitVec 2560) : List (Nat × Acc × Nat × Nat) :=
  match slotOp p with
  | 0x02 => [(argOff 0, .r, (slotArg p 0).toNat, (slotArg p 2).toNat)]
  | 0x03 => [(argOff 0, if (slotArg p 2).getLsbD 32 then .w else .r, (slotArg p 0).toNat, ((slotArg p 2).extractLsb' 0 32).toNat)]
  | 0x08 => if (slotArg p 2).getLsbD 2 then [(argOff 3, .r, (slotArg p 3).toNat, 64)] else []
  | 0x09 => [(argOff 0, .r, (slotArg p 0).toNat, 8 * (slotArg p 1).toNat)]
  | 0x0B => [(argOff 0, .r, (slotArg p 0).toNat, 256)]
  | 0x0C => [(argOff 0, .w, (slotArg p 0).toNat, 16)]
  | _ => []

/-- The objects the record of a PUSH names, which are read later (R314). -/
def State.recordObjects (s : State) (fn : Fin 17) (a : DWord) : List (DWord × Nat) :=
  match s.readRecord 4 fn a with
  | none => []
  | some (bs, t) =>
    let r := recordOf bs
    match recKind r with
    | 0 => [(recBody r, 128)]
    | 1 => [(recBody r, 44)]
    | 2 => (recBody r, 160) :: (match t.readObject fn (recBody r) 160 with
      | .ok (b, _) =>
        let b : BitVec 1280 := BitVec.ofNat 1280 (ofBytes b)
        (if bunNvar b = 0 then [bunMema b] else (List.range (min (bunNvar b) 8)).map (bunVarMema b)).map fun x => (x, 64 * bunNmem b)
      | .error _ => [])
    | _ => []

/-- CODESZ of the object a LOAD names. -/
def State.objectCodesz (s : State) (a : DWord) : Nat := readLE s.hostMem (a.toNat + 20) 4

/-- The device ranges a packet names: field offset, access, address, bytes. -/
def State.deviceFields (s : State) (fn : Fin 17) (p : BitVec 2560) : List (Nat × Acc × DWord × Nat) :=
  let a (i : Nat) : DWord := slotArg p i
  (match slotOp p with
   | 0x01 => (argOff 0, .r, a 0, 64) :: (s.recordObjects fn (a 0)).map fun o => (argOff 0, .r, o.1, o.2)
   | 0x02 => (argOff 1, .w, a 1, (a 2).toNat) :: (if a 3 = 0#64 then [] else [(argOff 3, .w, a 3, s.objectCodesz (a 0) + 64)])
   | 0x03 => [(argOff 1, if (a 2).getLsbD 32 then .r else .w, a 1, ((a 2).extractLsb' 0 32).toNat)]
   | 0x05 => [(argOff 0, .r, a 0, 64)]
   | 0x06 => [(argOff 0, .r, a 0, 32)]
   | 0x07 => [(argOff 0, .r, a 0, 16)]
   | 0x0A => [(argOff 0, .r, a 0, 2048)]
   | _ => []) ++
  (List.range (slotNbl p)).map fun i => (64 + 16 * i, .r, blBase (slotEntry p i), blLen (slotEntry p i))

/-- The field of a capability fault: the first in the packet that fails its bounds (R314). -/
def State.capFault (s : State) (fn : Fin 17) (p : BitVec 2560) : Option Nat :=
  let c := s.ctx fn
  let bad := ((hostFields p).filter fun f => !c.hostOk f.2.1 f.2.2.1 f.2.2.2).map (·.1) ++
    ((s.deviceFields fn p).filter fun f => !c.grantOk f.2.1 f.2.2.1 f.2.2.2).map (·.1)
  match bad with
  | [] => none
  | x :: t => some (t.foldl min x)

/-- The first check a packet fails, in the order of R319. -/
def State.packetFault (s : State) (fn : Fin 17) (p : BitVec 2560) : Option Completion :=
  if slotMalformed p then some (Completion.plain 4)
  else if pfOnly (slotOp p) ∧ fn ≠ 0 then some (Completion.plain 3)
  else if slotOp p ≠ 0x0B ∧ (s.ctx fn).asid = none then some ⟨1#8, 0xFFFFFFFF#32, 0#32, 0#32⟩
  else (s.capFault fn p).map fun k => ⟨2#8, BitVec.ofNat 32 k, 0#32, 0#32⟩

/-! ### Performing a packet (R317, R319) -/

/-- A queue's registers. -/
def State.queue (s : State) (fn : Fin 17) (q : Fin 16) : HostQueue := (s.ctx fn).queues.get q

/-- The slots of the packet ring (R317). -/
def HostQueue.size (h : HostQueue) : Nat := ringSize (h.qcfg.extractLsb' 0 4)

def HostQueue.en (h : HostQueue) : Bool := h.qcfg.getLsbD 6
def HostQueue.halted (h : HostQueue) : Bool := h.qcfg.getLsbD 7

/-- The packet at a queue's head. -/
def State.headSlot (s : State) (fn : Fin 17) (q : Fin 16) : BitVec 2560 :=
  let h := s.queue fn q
  BitVec.ofNat 2560 (readLE s.hostMem (h.qbase.toNat + 320 * h.qhead.toNat) 320)

/-- Whether a completion record is free beside those reserved (R319). -/
def HostQueue.roomy (h : HostQueue) : Bool := decide ((h.cqnext + 1) % h.csize ≠ h.cqhead.toNat % h.csize)

/-- Whether a queue performs its head packet now (R317, R319). -/
def State.queueReady (s : State) (fn : Fin 17) (q : Fin 16) : Bool :=
  let h := s.queue fn q
  s.trust.power == .up && h.en && !h.halted && decide (h.qhead.toNat ≠ h.qtail.toNat % h.size) && h.roomy &&
  (!slotFence (s.headSlot fn q) || h.jobs.isEmpty)

/-- The head packet is performed, and the next completion record is reserved for it (R319). -/
def State.advanceHead (s : State) (fn : Fin 17) (q : Fin 16) : State :=
  s.modQueue fn q fun h => { h.reserve with qhead := BitVec.ofNat 32 ((h.qhead.toNat + 1) % h.size) }

/-- A packet that fails a check gives its completion; a capability fault halts the queue at it (R314, R317). -/
def State.refusePacket (s : State) (fn : Fin 17) (q : Fin 16) (p : BitVec 2560) (k : Completion) : State :=
  let h := s.queue fn q
  let s := if k.status = 2#8 then s.modQueue fn q fun h => { h.reserve with qcfg := h.qcfg ||| 0x80#32 } else s.advanceHead fn q
  s.writeCompletion fn q h.qhead.toNat h.cqnext p k

/-- How an action ends: at once, or with a task. -/
inductive ActEnd where
  | ends (k : Completion)
  | job (task : Nat)
deriving DecidableEq, Repr

/-- The action is done and says nothing more. -/
def ActEnd.done : ActEnd := .ends (Completion.plain 0)

/-- The action refuses with a detail (STATUS 0x01). -/
def ActEnd.refuse (detail : Nat) : ActEnd := .ends ⟨1#8, BitVec.ofNat 32 detail, 0#32, 0#32⟩

/-- A device address faulted (STATUS 0x06): the field's offset (R321). -/
def ActEnd.faulted (off : Nat) : ActEnd := .ends ⟨6#8, BitVec.ofNat 32 off, 0#32, 0#32⟩

/-- Whether a packet waits: an access of it parks, a release comes before a PUSH at its node, or a DMA into a landing window awaits a
crossing (R176, R289, R349). -/
def State.packetHeld (s : State) (fn : Fin 17) (p : BitVec 2560) : Bool :=
  ((s.deviceFields fn p).any fun f => windowOf f.2.2.1 == some .global &&
    s.rangeHeld 4 (s.asidOf fn) (offsetOf f.2.2.1) f.2.2.2 f.2.1) ||
  (slotOp p == 0x01 && s.releaseDue ((slotArg p 1).setWidth 16)) ||
  (slotOp p == 0x03 && decide (s.fab.crossed < s.fab.step) &&
    (lineChunks (slotArg p 2).toNat (offsetOf (slotArg p 1)) ((slotArg p 2).extractLsb' 0 32).toNat).any fun c => s.nearLanding fn c.1)

/-- Perform the head packet of a queue, if it is the operation named (R319). -/
def State.performPacket (s : State) (fn : Fin 17) (q : Fin 16) (op : Nat) (act : Fin 17 → BitVec 2560 → State → ActEnd × State) :
    State :=
  let p := s.headSlot fn q
  let idx := (s.queue fn q).qhead.toNat
  let cq := (s.queue fn q).cqnext
  if !s.queueReady fn q || slotOp p != op then s
  else match s.packetFault fn p with
    | some k => s.refusePacket fn q p k
    | none =>
      if s.packetHeld fn p then s
      else
        let r := s.bufferList fn p false
        match r.2 with
        | some i => (r.1.advanceHead fn q).writeCompletion fn q idx cq p ⟨5#8, BitVec.ofNat 32 i, 0#32, 0#32⟩
        | none =>
          let e := act fn p (r.1.advanceHead fn q)
          match e.1 with
          | .ends k => e.2.finishPacket fn q idx cq p k r.1.writeIds
          | .job t => e.2.modQueue fn q fun h => { h with jobs := h.jobs ++ [⟨idx, cq, p, .task t⟩] }

/-- The step MALFORMED_PACKET (R316, R320). -/
def execMalformedPacket (fn : Fin 17) (q : Fin 16) (s : State) : Host.Outcome State Fault Refusal :=
  .next (if s.queueReady fn q && slotMalformed (s.headSlot fn q) then s.refusePacket fn q (s.headSlot fn q) (Completion.plain 4) else s)

/-! ### PUSH, FLUSH, NODE, PROG (R320) -/

/-- Whether the record of a PUSH can be read but holds data that could not be read correctly (R280, R321). -/
def State.recordPoisoned (s : State) (fn : Fin 17) (a : DWord) : Bool :=
  (s.readRecord 4 fn a).isSome && s.poisoned (s.asidOf fn) (offsetOf a) 64

/-- The action of PUSH: a refusal ends it, else its task does. -/
def pushAct (q : Fin 16) (fn : Fin 17) (p : BitVec 2560) (s : State) : ActEnd × State :=
  let r := s.pushTask 4 fn (slotArg p 0) (slotArg p 1).lo (some q)
  if r.1 ≠ statusWord 1 0 ∧ s.recordPoisoned fn (slotArg p 0) then (.faulted (argOff 0), s)
  else match r.2.1 with
  | some t => (.job t, r.2.2)
  | none => (.refuse r.1.toNat, r.2.2)

/-- The step PUSH (R320). -/
def execPush (fn : Fin 17) (q : Fin 16) (s : State) : Host.Outcome State Fault Refusal := .next (s.performPacket fn q 0x01 (pushAct q))

/-- The step FLUSH (R320). -/
def execFlush (fn : Fin 17) (q : Fin 16) (s : State) : Host.Outcome State Fault Refusal :=
  .next (s.performPacket fn q 0x04 fun _ _ t => (.done, t))

/-- Read an object a packet names for its action; where it cannot be read, the state after the attempt. -/
def State.readField (s : State) (fn : Fin 17) (a : DWord) (n : Nat) : Except State (List Byte × State) :=
  match s.readObject fn a n with
  | .ok r => .ok r
  | .error e => .error e.2

/-- The action of NODE (R286). -/
def nodeAct (fn : Fin 17) (p : BitVec 2560) (s : State) : ActEnd × State :=
  match s.readField fn (slotArg p 0) 64 with
  | .error u => (.faulted (argOff 0), u)
  | .ok (bs, t) =>
    let node : BitVec 16 := (slotArg p 1).setWidth 16
    let d : BitVec 512 := BitVec.ofNat 512 (ofBytes bs)
    if t.descRefused node d then (.refuse 0, t) else (.done, t.writeDesc node d)

/-- The step NODE (R320). -/
def execNode (fn : Fin 17) (q : Fin 16) (s : State) : Host.Outcome State Fault Refusal := .next (s.performPacket fn q 0x05 nodeAct)

/-- Load a rank program of a context (R292). -/
def Ctx.setProg (c : Ctx) (i : Fin 64) (x : BitVec 256) : Ctx := { c with progs := (i, x) :: c.progs.filter fun p => p.1 != i }

/-- The action of PROG (R292). -/
def progAct (fn : Fin 17) (p : BitVec 2560) (s : State) : ActEnd × State :=
  match s.readField fn (slotArg p 0) 32 with
  | .error u => (.faulted (argOff 0), u)
  | .ok (bs, t) =>
    let x : BitVec 256 := BitVec.ofNat 256 (ofBytes bs)
    let c : Fin 17 := Fin.ofNat 17 (slotCtx p)
    if progOk x then (.done, t.setCtx c ((t.ctx c).setProg ((slotArg p 1).extractLsb' 0 6).toFin x)) else (.refuse 0, t)

/-- The step PROG (R320). -/
def execProg (fn : Fin 17) (q : Fin 16) (s : State) : Host.Outcome State Fault Refusal := .next (s.performPacket fn q 0x06 progAct)

/-! ### DMA (R320, R321, R350) -/

/-- A word of the global window as the command die reads it. -/
def State.oldWord (s : State) (c : Fin 17) (va : Nat) : Word × State :=
  match s.gRead 4 (s.asidOf c) va 4 with
  | some (bs, t) => (BitVec.ofNat 32 (ofBytes bs), t)
  | none => (Config.lostReply s.ticks, s)

/-- A DMA write into a landing window: each word it touches is captured, merged with the word's value where it covers a part (R350). -/
def State.captureBytes (s : State) (c : Fin 17) (w : Fin 64) (va : Nat) (bs : List Byte) : State :=
  (List.range ((va + bs.length + 3) / 4 - va / 4)).foldl (fun x i =>
    let k := 4 * (va / 4 + i)
    let r := x.oldWord c k
    r.2.captureWord c w k (mergeWord r.1 k va bs)) s

/-- Write a piece that lies in one line, for a context. -/
def State.dmaPiece (s : State) (c : Fin 17) (va : Nat) (bs : List Byte) : State :=
  match s.landing? c va with
  | some w => s.captureBytes c w va bs
  | none => (s.gWrite 4 (s.asidOf c) va bs).getD s

/-- Whether a piece cannot be moved: it has no translation or permission, or holds an uncorrected error (R321). -/
def State.pieceFails (s : State) (asid : BitVec 16) (a : Acc) (c : Nat × Nat) : Bool :=
  (s.rangeFault 4 asid c.1 c.2 a).isSome || s.poisoned asid c.1 c.2

/-- The pieces of a DMA that are moved: all of them, or of those before the first that fails the ones free choice takes (R321). -/
def State.dmaPieces (s : State) (asid : BitVec 16) (a : Acc) (va n : Nat) : List (Nat × Nat) × Bool :=
  let cs := lineChunks (n + 1) va n
  if cs.any (s.pieceFails asid a) then
    (((cs.takeWhile fun c => !s.pieceFails asid a c).zipIdx.filter fun c => Config.partWritten s.ticks c.2).map (·.1), false)
  else (cs, true)

/-- Bytes from the host into a context's memory: whether all of them were moved, and the state. -/
def State.putBytes (s : State) (c : Fin 17) (va : Nat) (bs : List Byte) : Bool × State :=
  let ps := s.dmaPieces (s.asidOf c) .w va bs.length
  let t := ps.1.foldl (fun x k => x.dmaPiece c k.1 ((bs.drop (k.1 - va)).take k.2)) s
  if ps.2 then (true, t)
  else
    let u := t.logRange 4 c va bs.length .w
    (false, { u with ticks := u.ticks + 1 })

/-- The writes under way of the DMA packets of a function's other queues. -/
def State.otherDmas (s : State) (fn : Fin 17) (q : Fin 16) : List DieWrite :=
  let ids := ((List.finRange 16).filter (· != q)).flatMap fun x => (s.queue fn x).jobs.flatMap fun j => match j.wait with
    | .writes ids _ => if slotOp j.slot = 3 then ids else []
    | .task _ => []
  s.writes.filter fun w => ids.contains w.id

/-- The bytes a DMA leaves where others of its function are under way: either value, per byte (R340). -/
def mixDmas (ws : List DieWrite) (tick va : Nat) (bs : List Byte) : List Byte :=
  bs.zipIdx.map fun b => match ws.find? fun w => decide (w.va ≤ va + b.2) && decide (va + b.2 < w.va + w.bytes.length) with
    | some w => if Config.dmaEarlier tick b.2 then w.bytes.getD (va + b.2 - w.va) b.1 else b.1
    | none => b.1

/-- Host to device. -/
def State.dmaIn (s : State) (c : Fin 17) (q : Fin 16) (host va n : Nat) : Bool × State :=
  let bs := readBytes s.hostMem host n
  match s.otherDmas c q with
  | [] => s.putBytes c va bs
  | ws => ({ s with ticks := s.ticks + 1 } : State).putBytes c va (mixDmas ws s.ticks va bs)

/-- Device to host. -/
def State.dmaOut (s : State) (c : Fin 17) (host va n : Nat) : Bool × State :=
  let ps := s.dmaPieces (s.asidOf c) .r va n
  let t := ps.1.foldl (fun x k => match x.gRead 4 (s.asidOf c) k.1 k.2 with
    | some (bs, y) => { y with hostMem := writeBytes y.hostMem (host + (k.1 - va)) bs }
    | none => x) s
  if ps.2 then (true, t)
  else
    let u := t.logRange 4 c va n .r
    (false, { u with ticks := u.ticks + 1 })

/-- The action of DMA. -/
def dmaAct (q : Fin 16) (fn : Fin 17) (p : BitVec 2560) (s : State) : ActEnd × State :=
  let n := ((slotArg p 2).extractLsb' 0 32).toNat
  let a := slotArg p 1
  if n = 0 then (.done, s)
  else if windowOf a ≠ some .global ∨ 2 ^ 56 < offsetOf a + n then (.faulted (argOff 1), s)
  else
    let r := if (slotArg p 2).getLsbD 32 then s.dmaOut fn (slotArg p 0).toNat (offsetOf a) n
      else s.dmaIn fn q (slotArg p 0).toNat (offsetOf a) n
    (if r.1 then .done else .faulted (argOff 1), r.2)

/-- The step DMA (R320). -/
def execDma (fn : Fin 17) (q : Fin 16) (s : State) : Host.Outcome State Fault Refusal := .next (s.performPacket fn q 0x03 (dmaAct q))

/-! ### Doorbells and queue control (R317, R319) -/

/-- The step QTAIL_DOORBELL (R317). -/
def execQtailDoorbell (fn : Fin 17) (q : Fin 16) (tail : Word) (s : State) : Host.Outcome State Fault Refusal :=
  .next (s.modQueue fn q fun h => { h with qtail := tail })

/-- LOG as it reads back: values outside 2–12 read 2. -/
def keepLog (x : BitVec 4) : BitVec 4 := if 2 ≤ x.toNat ∧ x.toNat ≤ 12 then x else 2#4

/-- QCFG as a write leaves it: LOG only while EN = 0, HALT cleared by a one (R317). A queue enabled again while packets of it are still
to complete reserves their records anew, from record 0 on (DESIGN CHOICE, log 62). -/
def HostQueue.writeCfg (h : HostQueue) (v : Word) : HostQueue :=
  let en := v.getLsbD 6
  let starts := en && !h.en
  let log := if h.en then h.qcfg.extractLsb' 0 4 else keepLog (v.extractLsb' 0 4)
  let halt := h.halted && !v.getLsbD 7 && !starts
  { h with
    qcfg := 0#16 ++ v.extractLsb' 8 8 ++ BitVec.ofBool halt ++ BitVec.ofBool en ++ 0#2 ++ log
    qhead := if starts then 0#32 else h.qhead
    cqtail := if starts then 0#32 else h.cqtail
    cqnext := if starts then h.jobs.length else h.cqnext
    ahead := if starts then [] else h.ahead
    jobs := if starts then h.jobs.zipIdx.map fun j => { j.1 with cq := j.2 } else h.jobs }

/-- The step QCFG_WRITE (R317). -/
def execQcfgWrite (fn : Fin 17) (q : Fin 16) (val : Word) (s : State) : Host.Outcome State Fault Refusal :=
  .next (s.modQueue fn q fun h => h.writeCfg val)

/-- The step CQHEAD_WRITE (R319). -/
def execCqheadWrite (fn : Fin 17) (q : Fin 16) (val : Word) (s : State) : Host.Outcome State Fault Refusal :=
  .next (s.modQueue fn q fun h => { h with cqhead := val })

end Sys2Proof.Machine
end

