-- ==== Sys2Proof/Machine/Loader.lean ====
section
/-! DEFINITION. Code objects and the loader (R67–R72): the header, the region table, portable records and their checks, and the LOAD
packet (R320). The translation itself is the part's own (log 19). -/

set_option Elab.async false

namespace Sys2Proof.Machine

/-! ### The header (R67) -/

/-- The header of an object. -/
def objHeader (o : List Byte) : BitVec 256 := BitVec.ofNat 256 (ofBytes (o.take 32))

def hdrMagic (h : BitVec 256) : Word := h.extractLsb' 224 32
def hdrKind (h : BitVec 256) : BitVec 8 := h.extractLsb' 216 8
def hdrFver (h : BitVec 256) : BitVec 8 := h.extractLsb' 208 8
def hdrNent (h : BitVec 256) : Nat := (h.extractLsb' 192 16).toNat
def hdrCodesz (h : BitVec 256) : Nat := (h.extractLsb' 160 32).toNat
def hdrEntoff (h : BitVec 256) : Nat := (h.extractLsb' 128 32).toNat
def hdrDataoff (h : BitVec 256) : Nat := (h.extractLsb' 96 32).toNat
def hdrDatasz (h : BitVec 256) : Nat := (h.extractLsb' 64 32).toNat
def hdrRgnoff (h : BitVec 256) : Nat := (h.extractLsb' 32 32).toNat

/-- Whether an object is portable. -/
def hdrPortable (h : BitVec 256) : Bool := hdrKind h == 1#8

/-- The code offset of entry i. -/
def entryOff (o : List Byte) (i : Nat) : Nat := (fieldOf o (hdrEntoff (objHeader o) + 8 * i) 4 32).toNat

/-- Whether KIND and FVER are refused (R67, R69, R72): status 0x1. -/
def kindRefused (ldcfg : Word) (h : BitVec 256) : Bool :=
  hdrFver h != 1#8 || (match (hdrKind h).toNat with
    | 0 => !ldcfg.getLsbD 0
    | 1 => !ldcfg.getLsbD 1
    | _ => true)

/-! ### The region table (R68) -/

/-- Entry k of an object's region table. -/
def regionWord (o : List Byte) (k : Nat) : BitVec 128 := fieldOf o (hdrRgnoff (objHeader o) + 16 + 32 * k) 16 128

/-- COUNT of an object's region table; 0 if there is none. -/
def regionCount (o : List Byte) : Nat :=
  let at_ := hdrRgnoff (objHeader o)
  if at_ = 0 then 0 else (fieldOf o at_ 4 32).toNat

/-- Whether a region table is malformed (R68). -/
def regionsBad (o : List Byte) : Bool :=
  let at_ := hdrRgnoff (objHeader o)
  let n := regionCount o
  at_ != 0 && (at_ % 16 != 0 || decide (o.length < at_ + 16) || decide (256 < n) || decide (o.length < at_ + 16 + 32 * n) ||
    (fieldOf o (at_ + 4) 12 96 : BitVec 96) != 0#96 ||
    (List.range n).any fun k => !rangeOk (regionWord o k) || (rangeOf (regionWord o k)).len == 0#32)

/-- Merge one entry into a region table: the same range takes the new class, another is appended (R68). -/
def mergeRegion (rs : List RangeEntry) (e : RangeEntry) : List RangeEntry :=
  if rs.any fun r => r.base == e.base && r.len == e.len then
    rs.map fun r => if r.base = e.base ∧ r.len = e.len then { r with cls := e.cls } else r
  else rs ++ [e]

/-- A region table with an object's entries merged. -/
def mergeRegions (rs : List RangeEntry) (o : List Byte) : List RangeEntry :=
  ((List.range (regionCount o)).map fun k => rangeOf (regionWord o k)).foldl mergeRegion rs

/-! ### Bad headers (R67, R72) -/

/-- Whether the header or a table of an object is bad: status 0x2. -/
def headerBad (o : List Byte) : Bool :=
  let h := objHeader o
  let n := o.length
  decide (n < 64) || hdrMagic h != 0x5A464331#32 || h.extractLsb' 0 32 != 0#32 || hdrNent h == 0 || decide (1024 < hdrNent h) ||
  hdrCodesz h % (if hdrPortable h then 8 else 64) != 0 || decide (n < 64 + hdrCodesz h) ||
  decide (n < hdrEntoff h + 8 * hdrNent h) || decide (n < hdrDataoff h + hdrDatasz h) ||
  ((List.range (hdrNent h)).any fun i => decide (hdrCodesz h ≤ entryOff o i)) || regionsBad o

/-! ### Portable records (R70) -/

/-- Record i of a portable object. -/
def recordAt (o : List Byte) (i : Nat) : DWord := fieldOf o (64 + 8 * i) 8 64

/-- The records of a portable object. -/
def recordCount (o : List Byte) : Nat := hdrCodesz (objHeader o) / 8

def recRkind (r : DWord) : Nat := (r.extractLsb' 62 2).toNat
def recOpc (r : DWord) : BitVec 8 := r.extractLsb' 54 8

/-- The opcodes whose field D, A or B (0, 1, 2) is of the vector class (the entries of each instruction). -/
def vecFields (f : Nat) : BitVec 256 :=
  match f with
  | 0 => 0xf00000080000000ff0cff003f00ff001fff7f02fbffff000000000000#256
  | 1 => 0x100000000000000007e00ff001fffff02cfffff000000000000#256
  | _ => 0x200000000000000ff0c7700040008000b00ff020fffff000000000000#256

/-- The opcodes whose field D, A or B is of the scalar class. -/
def sclFields (f : Nat) : BitVec 256 :=
  match f with
  | 0 => 0x7e00000600000bfe900330000400000000000000000000098ffffff0030#256
  | 1 => 0x7df00002e0700bf7dff7fff000000000000000000200000037effff0068#256
  | _ => 0x410000022170000750000000000000000000000000000000030ffff0000#256

/-- The classes of a record's register fields. -/
inductive PortClass where
  | vector | scalar | other
deriving DecidableEq, Repr

/-- The class of field f of a record: those of BRP, FETST and FEMRK depend on another field (R87, R95, R96). -/
def portClass (r : DWord) (f : Nat) : PortClass :=
  let op := recOpc r
  let a := (r.extractLsb' 30 11).toNat
  if op = 0x02#8 then (if f = 2 ∧ 2 ≤ a then .scalar else .other)
  else if op = 0x0C#8 then (if f = 1 then (if r.getLsbD 18 then .scalar else .vector) else .other)
  else if op = 0x0D#8 then (if f = 0 then (if r.getLsbD 19 then .scalar else .vector) else .other)
  else if (vecFields f).getLsbD op.toNat then .vector
  else if (sclFields f).getLsbD op.toNat then .scalar
  else .other

/-- A 12-bit operand as a native field (R70); a virtual vector register but the first stands for one of its parity. Bit [11] of a field of
another class than vector and scalar makes the record invalid: R59's meaning of the bit is none for them (DESIGN CHOICE, log 69). -/
def portField (c : PortClass) (x : BitVec 12) : Option (BitVec 8) :=
  let n := (x.extractLsb' 0 11).toNat
  let field (k : Nat) : BitVec 8 := BitVec.ofBool x.msb ++ BitVec.ofNat 7 k
  match c with
  | .vector =>
    if n < 1024 then some (field (if n = 0 then 0 else 2 + n % 2)) else if n = 1088 then some (field 116) else if n = 1089 then some (field 117)
    else if n = 1090 then some (field 118) else none
  | .scalar =>
    if 1024 ≤ n ∧ n < 1088 then some (field (n - 1024)) else if n = 1088 then some (field 116)
    else if n = 1090 then some (field 118) else none
  | .other => if x.msb ∨ 256 ≤ n then none else some (BitVec.ofNat 8 n)

/-- The literal and modifier records that follow a record. -/
def extRecords (o : List Byte) (fuel i : Nat) : List DWord :=
  match fuel with
  | 0 => []
  | k + 1 =>
    let r := recordAt o i
    if recRkind r = 1 ∨ recRkind r = 2 then r :: extRecords o k (i + 1) else []

/-- Whether an instruction record, with what follows it, is invalid or an encoding error of R64. -/
def instrRecordBad (o : List Byte) (i : Nat) : Bool :=
  let r := recordAt o i
  let op := recOpc r
  let es := extRecords o (recordCount o - (i + 1)) (i + 1)
  let kinds := es.zipIdx.all fun e => recRkind e.1 == (if e.2 == 0 && opTakesLiteral op then 1 else 2)
  r.extractLsb' 0 16 != 0#16 || r.extractLsb' 16 2 == 3#2 || !kinds ||
  (match portField (portClass r 0) (r.extractLsb' 42 12), portField (portClass r 1) (r.extractLsb' 30 12),
      portField (portClass r 2) (r.extractLsb' 18 12) with
   | some d, some a, some b => (match decodeRaw ⟨op, d, a, b, es.map fun e => e.setWidth 32⟩ with
     | .ok _ => false
     | .error _ => true)
   | _, _, _ => true)

/-- Whether a record is invalid (R70): a literal or modifier stands behind an instruction record. -/
def recordInvalid (o : List Byte) (i : Nat) : Bool :=
  let r := recordAt o i
  match recRkind r with
  | 0 => instrRecordBad o i
  | 3 => true
  | _ => i == 0 || r.extractLsb' 32 30 != 0#30

/-- Whether a record index names an instruction record. -/
def namesInstr (o : List Byte) (i : Nat) : Bool := decide (i < recordCount o) && recRkind (recordAt o i) == 0

/-- Whether a branch's literal names something else than instruction records (R70): CALL names one record, BRA and BRP the target in
[31:16] and, unless it is 0, the reconvergence point in [15:0]. -/
def branchBad (o : List Byte) (i : Nat) : Bool :=
  let r := recordAt o i
  let x := (recordAt o (i + 1)).setWidth 32
  recRkind r == 0 && (
    ((recOpc r == 0x01#8 || recOpc r == 0x02#8) &&
      (!namesInstr o (x.extractLsb' 16 16).toNat || (x.extractLsb' 0 16 != 0#16 && !namesInstr o (x.extractLsb' 0 16).toNat))) ||
    (recOpc r == 0x04#8 && !namesInstr o x.toNat))

/-! ### Virtual vector registers (R70, R72) -/

/-- Field f (D, A, B) of an instruction record. -/
def recField (r : DWord) (f : Nat) : BitVec 12 := r.extractLsb' (42 - 12 * f) 12

/-- The virtual vector register field f names, if it names one. -/
def virtField (r : DWord) (f : Nat) : Option Nat :=
  let n := ((recField r f).extractLsb' 0 11).toNat
  if portClass r f == .vector && decide (n < 1024) then some n else none

/-- The virtual vector register the offset field of an atomic's literal names: the field has room for a native number only, which counts
as the virtual one (R156, log 19). -/
def virtOff (r x : DWord) : Option Nat :=
  let n := (x.extractLsb' 24 7).toNat
  if recOpc r &&& 0xF8#8 = 0xA0#8 ∧ n < 112 then some n else none

/-- An instruction record as a native word with what follows it, its virtual registers replaced: `as_ f n` is the native number of virtual
register n in field f (D, A, B, the offsets of an atomic), `lit` what a literal becomes. -/
def nativeRaw (o : List Byte) (as_ : Nat → Nat → Nat) (lit : Word → Word) (i : Nat) : Raw :=
  let r := recordAt o i
  let field (f : Nat) : BitVec 8 := match virtField r f with
    | some n => BitVec.ofBool (recField r f).msb ++ BitVec.ofNat 7 (as_ f n)
    | none => (portField (portClass r f) (recField r f)).getD 0#8
  let ext (e : DWord × Nat) : Word :=
    let w : Word := e.1.setWidth 32
    if e.2 ≠ 0 || !opTakesLiteral (recOpc r) then w
    else match virtOff r e.1 with
      | some n => w.extractLsb' 31 1 ++ BitVec.ofNat 7 (as_ 3 n) ++ w.extractLsb' 0 24
      | none => lit w
  ⟨recOpc r, field 0, field 1, field 2, (extRecords o (recordCount o - (i + 1)) (i + 1)).zipIdx.map ext⟩

/-- An instruction record as a native word with what follows it, a virtual register of field f as v(2f) or v(2f + 1) by its parity. -/
def standIn (o : List Byte) (i : Nat) : Raw := nativeRaw o (fun f n => 2 * f + n % 2) id i

/-- The virtual register a record names in field f. -/
def virtOf (o : List Byte) (i f : Nat) : Option Nat :=
  if f = 3 then (if recRkind (recordAt o (i + 1)) = 1 then virtOff (recordAt o i) (recordAt o (i + 1)) else none)
  else virtField (recordAt o i) f

/-- The virtual registers behind what a record's stand-in reads or writes, as a set. -/
def virtSet (o : List Byte) (i : Nat) (rs : List Res) : BitVec 1024 :=
  rs.foldl (fun m x => match x with
    | .v k => (match if k.val < 8 then virtOf o i (k.val / 2) else none with
      | some n => m ||| (1#1024 <<< (n - n % 2 + k.val % 2))
      | none => m)
    | _ => m) 0#1024

/-- The record a direct branch or call names besides the next one (R70, R86, R88). -/
def branchRecord (o : List Byte) (i : Nat) : Option Nat :=
  let op := recOpc (recordAt o i)
  let x := (recordAt o (i + 1)).setWidth 32
  if op = 0x01#8 ∨ op = 0x02#8 then some (x.extractLsb' 16 16).toNat
  else if op = 0x04#8 then some x.toNat
  else none

/-- The record behind an instruction record and its literal and modifiers. -/
def recordAfter (o : List Byte) (i : Nat) : Nat := i + 1 + (extRecords o (recordCount o - (i + 1)) (i + 1)).length

/-- The records at which code resumes that has been called: those behind CALL and CALLI. -/
def returnRecords (o : List Byte) : List Nat :=
  ((List.range (recordCount o)).filter fun i => recRkind (recordAt o i) == 0 && [0x04#8, 0x05#8].contains (recOpc (recordAt o i))).map
    (recordAfter o)

/-- The records of an object's entries. -/
def entryRecords (o : List Byte) : List Nat := (List.range (hdrNent (objHeader o))).map fun k => entryOff o k / 8

/-- The records an instruction record may transfer control to besides the next one: a branch or CALL the one it names, RET where a call
resumes, BRI and CALLI besides where an entry begins (R88; log 19). -/
def successors (o : List Byte) (i : Nat) : List Nat :=
  match (recOpc (recordAt o i)).toNat with
  | 0x03 => returnRecords o ++ entryRecords o
  | 0x05 => entryRecords o
  | 0x06 => returnRecords o
  | _ => (branchRecord o i).toList

/-- The MODE a record's liveness is judged under: none is known at load time, and under the narrowest ETYPE every conversion reads its
destination, as it may (R106; DESIGN CHOICE, log 19). -/
def liveMode : Word := 7#32 <<< 5

/-- The registers live before record i, from those live before the next record and before those it may transfer control to (log 19). -/
def liveBefore (o : List Byte) (old : List (BitVec 1024)) (next : BitVec 1024) (i : Nat) : BitVec 1024 :=
  if recRkind (recordAt o i) ≠ 0 then next
  else
    let out := (successors o i).foldl (fun m t => m ||| old.getD t 0#1024) next
    virtSet o i (fieldReads liveMode (standIn o i)) ||| (out &&& ~~~(virtSet o i (fieldWrites (standIn o i))))

/-- Live registers of every record, from an earlier estimate. -/
def livePass (o : List Byte) (old : List (BitVec 1024)) : List (BitVec 1024) :=
  (List.range (recordCount o)).foldr (fun i acc => liveBefore o old (acc.headD 0#1024) i :: acc) []

/-- Repeat until nothing changes. -/
def liveFix (o : List Byte) (fuel : Nat) (old : List (BitVec 1024)) : List (BitVec 1024) :=
  match fuel with
  | 0 => old
  | n + 1 =>
    let new := livePass o old
    if new = old then old else liveFix o n new

/-- The first record at which more than 112 virtual vector registers are live (R72). -/
def overLive (o : List Byte) : Option Nat :=
  (liveFix o (1024 * recordCount o + 1) []).findIdx? fun m => decide (112 < ((List.range 1024).filter fun k => m.getLsbD k).length)

/-! ### The loader's status (R72) -/

/-- The loader's status and the record it names. -/
def State.loadStatus (s : State) (fn : Fin 17) (o : List Byte) (area : DWord) : Nat × Nat :=
  let h := objHeader o
  let rs := List.range (recordCount o)
  if o.length < 32 then (2, 0)
  else if kindRefused s.ldcfg h then (1, 0)
  else if headerBad o then (2, 0)
  else if (if hdrPortable h then area = 0#64 ∨ area.toNat % 64 ≠ 0 else area ≠ 0#64) then (7, 0)
  else
    let code : Option (Nat × Nat) :=
      if hdrPortable h then
        match rs.find? (recordInvalid o), rs.find? (branchBad o), overLive o with
        | some i, _, _ => some (3, i)
        | none, some i, _ => some (5, i)
        | none, none, some i => some (4, i)
        | none, none, none => none
      else none
    match code with
    | some c => c
    | none => if 256 < (mergeRegions (s.ctx fn).regions o).length then (6, 0) else (0, 0)

/-! ### The translator's cache (R71) -/

/-- The instruction records of an object. -/
def instrRecords (o : List Byte) : List Nat := (List.range (recordCount o)).filter fun i => recRkind (recordAt o i) == 0

/-- The virtual registers an object names, by pairs, in the order in which it first names them. -/
def virtPairs (o : List Byte) : List Nat :=
  (instrRecords o).foldl (fun acc i => (List.range 4).foldl (fun acc f => match virtOf o i f with
    | some n => if acc.contains (n / 2) then acc else acc ++ [n / 2]
    | none => acc) acc) []

/-- A native line as the loader sees it: line k of some lines. -/
def lineOf (lines : List Byte) (k : Nat) : ILine :=
  ⟨0, 0#16, 0, Vector.ofFn fun j : Fin 16 => fieldOf lines (64 * k + 4 * j.val) 4 32⟩

/-- The literal of record i with the records it names as offsets in native words, under the offsets given (R70, R86). -/
def nativeLit (o : List Byte) (offs : List Word) (i : Nat) (x : Word) : Word :=
  let dist (k : Nat) : Word := (offs.getD k 0#32 - offs.getD i 0#32).sshiftRight 2
  if recOpc (recordAt o i) = 0x04#8 then dist x.toNat
  else if (branchRecord o i).isNone then x
  else
    let join := (x.extractLsb' 0 16).toNat
    (dist (x.extractLsb' 16 16).toNat).extractLsb' 0 16 ++ (if join = 0 then 0#16 else (dist join).extractLsb' 0 16)

/-- Whether the offsets of a branch's literal reach the records it names. -/
def litReaches (o : List Byte) (offs : List Word) (i : Nat) : Bool :=
  let x : Word := (recordAt o (i + 1)).setWidth 32
  let near (k : Nat) : Bool := decide ((offs.getD k 0#32 - offs.getD i 0#32).toInt.natAbs < 2 ^ 17)
  [0x04#8].contains (recOpc (recordAt o i)) || (branchRecord o i).isNone || (near (x.extractLsb' 16 16).toNat && near (x.extractLsb' 0 16).toNat)

/-- The native register in the place of a virtual one: the one that stands where the object first names it. -/
def placeOf (o lines : List Byte) (offs : List Word) (n : Nat) : Nat :=
  ((instrRecords o).findSome? fun i => (List.range 4).findSome? fun f =>
    if virtOf o i f = some n then
      let w := offs.getD i 0#32
      let r := lineRaw (lineOf lines (w.toNat / 64)) (w.toNat % 64 / 4)
      some (match f with
        | 0 => (r.d.extractLsb' 0 7).toNat
        | 1 => (r.a.extractLsb' 0 7).toNat
        | 2 => (r.b.extractLsb' 0 7).toNat
        | _ => ((r.exts.headD 0#32).extractLsb' 24 7).toNat)
    else none).getD 0

/-- Whether only NOPs stand between two places of some lines. -/
def leadsTo (lines : List Byte) (fuel at_ into : Nat) : Bool :=
  match fuel with
  | 0 => false
  | n + 1 =>
    let l := lineOf lines (at_ / 64)
    at_ == into || (lineRaw l (at_ % 64 / 4) == ⟨0#8, 0#8, 0#8, 0#8, []⟩ &&
      leadsTo lines n (nextPc (l.words.get 0) (BitVec.ofNat 64 at_)).toNat into)

/-- Whether native lines do what an object's records do, in their order (R71): version 0 lines in which each record stands as its native
instruction at the offset given, with nothing but NOPs between two that follow one another, and no two of its virtual registers in one
native register. -/
def faithful (o lines : List Byte) (offs : List Word) : Bool :=
  let as_ (n : Nat) : Nat := placeOf o lines offs n
  let ns := (virtPairs o).flatMap fun k => [2 * k, 2 * k + 1].filter fun n =>
    (instrRecords o).any fun i => (List.range 4).any fun f => virtOf o i f == some n
  lines.length % 64 == 0 && decide (lines.length ≤ hdrCodesz (objHeader o) + 64) &&
  ns.all (fun n => decide (as_ n < 112) && as_ n % 2 == n % 2 && ns.all fun m => m == n || as_ m != as_ n) &&
  (List.range (lines.length / 64)).all (fun k => headerVersion ((lineOf lines k).words.get 0) == some false) &&
  (instrRecords o).all fun i =>
    let w := (offs.getD i 0#32).toNat
    let l := lineOf lines (w / 64)
    let next := recordAfter o i
    w % 4 == 0 && decide (4 ≤ w % 64) && decide (w < lines.length) && headerCode (l.words.get 0) (w % 64 / 4) != 2#2 && litReaches o offs i &&
    lineRaw l (w % 64 / 4) == nativeRaw o (fun _ n => as_ n) (nativeLit o offs i) i &&
    (decide (recordCount o ≤ next) ||
      leadsTo lines 16 (nextPc (l.words.get 0) (BitVec.ofNat 64 w)).toNat (offs.getD next 0#32).toNat)

/-- Where the native words of the records stand if they are packed in order: an instruction keeps to one line with what follows it. -/
def packOffs (o : List Byte) (fuel i at_ : Nat) : List Word :=
  match fuel with
  | 0 => []
  | n + 1 =>
    let k := if recRkind (recordAt o i) = 0 then recordAfter o i - i else 1
    let here := if at_ % 64 = 0 then at_ + 4 else if 64 < at_ % 64 + 4 * k then at_ / 64 * 64 + 68 else at_
    BitVec.ofNat 32 here :: packOffs o n (i + 1) (here + 4)

/-- The plain translation of an object: its records in order in version 0 lines, its virtual registers in the order of their pairs, a
yield where the record asks for one. -/
def plainTranslation (o : List Byte) : List Byte × List Word :=
  let n := recordCount o
  let offs := packOffs o n 0 0
  let ps := virtPairs o
  let as_ (_ v : Nat) : Nat := 2 * ((ps.findIdx? (· == v / 2)).getD 0) + v % 2
  let words : List (Nat × BitVec 2 × Word) := (instrRecords o).flatMap fun i =>
    let r := nativeRaw o as_ (nativeLit o offs i) i
    let w := (offs.getD i 0#32).toNat
    (w, if (recordAt o i).extractLsb' 16 2 = 1#2 then 1#2 else 0#2, r.op ++ r.d ++ r.a ++ r.b) ::
      r.exts.zipIdx.map fun e => (w + 4 + 4 * e.2, 2#2, e.1)
  let size := (((offs.getLast?.getD 0#32).toNat + 4) + 63) / 64
  ((List.range size).flatMap fun k =>
    let ws := words.filter fun w => w.1 / 64 == k
    let head : Word := ws.foldl (fun (h : Word) (w : Nat × BitVec 2 × Word) => h ||| (w.2.1.setWidth 32 <<< (2 * (w.1 % 64 / 4) - 2))) 0#32
    toBytes 4 head.toNat ++ (List.range 15).flatMap fun j =>
      toBytes 4 (((ws.find? fun w => w.1 % 64 == 4 * (j + 1)).map (·.2.2)).getD 0#32).toNat, offs)

/-- The native lines of a portable object, never longer than CODESZ + 64, and its offsets (R71): those the running image's translator makes
where they do what the records do, else the plain ones. Of an object with more virtual register pairs than a slice has, neither test
tells whether the translator's own lines do, and those are taken (log 19). -/
def translateObject (image o : List Byte) : Cached :=
  let t := Config.translate image o
  let lines := t.1.take (hdrCodesz (objHeader o) + 64)
  let p := plainTranslation o
  if faithful o lines t.2 then ⟨o, lines, t.2⟩
  else if faithful o p.1 p.2 then ⟨o, p.1, p.2⟩
  else ⟨o, lines, t.2⟩

/-- The record whose native instruction stands at an offset of an object's native lines (R71): the map a debugger finds portable positions
by. -/
def Cached.position (k : Cached) (off : Word) : Option Nat :=
  (instrRecords k.object).find? fun i => k.offs.getD i 0#32 == off

/-- The lines of a portable object from the cache, or translated; the object is the most recently loaded one then. -/
def State.fromCache (s : State) (o : List Byte) : Cached × State :=
  let k := match s.cached.find? fun c => c.object == o with
    | some c => c
    | none => translateObject s.trust.image o
  (k, { s with cached := (k :: s.cached.filter fun c => c.object != o).take 256 })

/-! ### LOAD (R320) -/

/-- Entry i of a portable object's table, rewritten to the offset of its native instruction. -/
def nativeEntry (o : List Byte) (k : Cached) (i : Nat) : List Byte := toBytes 4 (k.offs.getD (entryOff o i / 8) 0#32).toNat

/-- Write the native lines, and rewrite the entry table of the copied object. -/
def State.putNative (s : State) (fn : Fin 17) (o : List Byte) (dest area : Nat) : Bool × State :=
  let r := s.fromCache o
  let w := r.2.putBytes fn area r.1.lines
  if !w.1 then w
  else (true, (List.range (hdrNent (objHeader o))).foldl (fun x i =>
    (x.putBytes fn (dest + hdrEntoff (objHeader o) + 8 * i) (nativeEntry o r.1 i)).2) w.2)

/-- Whether a packet's device range leaves the global window. -/
def leavesGlobal (a : DWord) (n : Nat) : Bool := windowOf a != some .global || decide (2 ^ 56 < offsetOf a + n)

/-- The region table of a context as its save arena holds it (R68, R326). -/
def regionBytes (r : RangeEntry) : List Byte := toBytes 8 r.base.toNat ++ toBytes 4 r.len.toNat ++ toBytes 4 r.cls.val

/-- Set a context's region table, in its arena too. -/
def State.setRegions (s : State) (c : Fin 17) (rs : List RangeEntry) : State :=
  (s.setCtx c { s.ctx c with regions := rs }).writeArena c 0xC02000 (padTo 4096 (rs.flatMap regionBytes))

/-- The action of LOAD. -/
def loadAct (fn : Fin 17) (p : BitVec 2560) (s : State) : ActEnd × State :=
  let n := (slotArg p 2).toNat
  let o := readBytes s.hostMem (slotArg p 0).toNat n
  let a := slotArg p 1
  let area := slotArg p 3
  if leavesGlobal a n then (.faulted (argOff 1), s)
  else
    let w := s.putBytes fn (offsetOf a) o
    if !w.1 then (.faulted (argOff 1), w.2)
    else
      let t := w.2.invalidateRange (s.asidOf fn) (offsetOf a) n
      match t.loadStatus fn o area with
      | (0, _) =>
        let h := objHeader o
        let size := hdrCodesz h + 64
        if hdrPortable h then
          if leavesGlobal area size then (.faulted (argOff 3), t)
          else
            let u := t.putNative fn o (offsetOf a) (offsetOf area)
            if !u.1 then (.faulted (argOff 3), u.2)
            else (.done, ((u.2.invalidateRange (s.asidOf fn) (offsetOf area) size).invalidateRange (s.asidOf fn) (offsetOf a) n).setRegions fn
              (mergeRegions (s.ctx fn).regions o))
        else (.done, t.setRegions fn (mergeRegions (s.ctx fn).regions o))
      | (k, i) => (.ends ⟨1#8, BitVec.ofNat 32 k, BitVec.ofNat 32 i, 0#32⟩, t)

/-- The step LOAD (R320). -/
def execLoad (fn : Fin 17) (q : Fin 16) (s : State) : Host.Outcome State Fault Refusal := .next (s.performPacket fn q 0x02 loadAct)

end Sys2Proof.Machine
end

