-- ==== Sys2Proof/Machine/HostOps.lean ====
section
/-! DEFINITION. The host packets HOME, PTE, POOL, RULES and CTX (R320): home-map entries and the moving of granules (R259, R260), page
tables (R262, R265), frame pools (R177), rule images (R230), and context records (R325). -/

set_option Elab.async false

namespace Sys2Proof.Machine

/-! ### HOME (R259, R260) -/

/-- Whether a home-map entry is refused (R259). -/
def homeRefused (online : BitVec 4) (h : BitVec 128) : Bool :=
  let mode := h.extractLsb' 122 2
  mode == 3#2 || h.extractLsb' 99 21 != 0#21 || h.extractLsb' 56 8 != 0#8 || h.extractLsb' 0 21 != 0#21 ||
  (mode == 2#2 && h.extractLsb' 124 4 &&& online == 0#4)

/-- The lines of an ASID whose home a change of the map or of the online domains has moved (R260). -/
def State.movedLines (before after_ : State) : List Line := before.lines.filter fun l => before.home l.asid l.va != after_.home l.asid l.va

/-- The granules whose home has changed move (R260): no access is in progress between steps, their lines are written back and
invalidated, and the home installed. -/
def State.moveGranules (s : State) (change : State → State) : State :=
  let ls := s.movedLines (change s)
  let t := ls.foldl (fun x l => x.forceWrites l.asid l.va 128) s
  change (t.dropLines (t.lines.filter fun l => ls.any fun m => m.asid == l.asid && m.va == l.va))

/-- Write entry i of a context's home map, with its copy in the save arena (R259, R326). -/
def State.setHome (s : State) (c : Fin 17) (i : Fin 64) (h : BitVec 128) : State :=
  (s.moveGranules fun x => x.setCtx c { x.ctx c with homes := (x.ctx c).homes.set i h }).writeArena c (0xC01000 + 16 * i.val)
    (toBytes 16 h.toNat)

/-- The action of HOME. -/
def homeAct (fn : Fin 17) (p : BitVec 2560) (s : State) : ActEnd × State :=
  match s.readField fn (slotArg p 0) 16 with
  | .error u => (.faulted (argOff 0), u)
  | .ok (bs, t) =>
    let h : BitVec 128 := BitVec.ofNat 128 (ofBytes bs)
    if homeRefused t.online h then (.refuse 0, t) else (.done, t.setHome fn ((slotArg p 1).extractLsb' 0 6).toFin h)

/-- The step HOME (R320). -/
def execHome (fn : Fin 17) (q : Fin 16) (s : State) : Host.Outcome State Fault Refusal := .next (s.performPacket fn q 0x07 homeAct)

/-! ### PTE (R262, R265, R320) -/

/-- The place of the entry for an address in the table of a level, where every pointer above it is present. -/
def entryPlace (rd : Nat → DWord) (ls : List (Nat × Nat × Option (Fin 3))) (level table va : Nat) : Option Nat :=
  match ls with
  | [] => none
  | (sh, w, _) :: rest =>
    let pa := table + 8 * (va / 2 ^ sh % 2 ^ w)
    let e := rd pa
    match level with
    | 0 => some pa
    | k + 1 => if e.getLsbD 0 && e.extractLsb' 6 2 == 3#2 then entryPlace rd rest k ((e.extractLsb' 8 56).toNat * 256) va else none

/-- The value PTE writes into copy k. -/
def State.pteValue (s : State) (p : BitVec 2560) (k : Nat) : DWord :=
  if (slotArg p 2).getLsbD 2 then BitVec.ofNat 64 (readLE s.hostMem ((slotArg p 3).toNat + 8 * k) 8) else slotArg p 1

/-- The bytes an entry of a level covers (R262). -/
def levelBytes (level : Nat) : Nat := match levels[level]? with
  | some l => 2 ^ l.1
  | none => 1

/-- The action of PTE: the copies without a table at that level are left out, and named in DETAIL. An entry that is present lets the
accesses that wait for its page walk again (R176). -/
def pteAct (fn : Fin 17) (p : BitVec 2560) (s : State) : ActEnd × State :=
  let va := offsetOf (slotArg p 0)
  let level := ((slotArg p 2).extractLsb' 0 2).toNat
  let r := (List.range 8).foldl (fun (acc : Nat × State) k =>
    match entryPlace acc.2.tableWord levels level (acc.2.root fn k) va with
    | some pa => (acc.1, acc.2.physWrite 0 pa (toBytes 8 (s.pteValue p k).toNat))
    | none => (acc.1 + 2 ^ k, acc.2)) (0, s)
  let size := levelBytes level
  let t := if (s.pteValue p 0).getLsbD 0 then r.2.installed (s.asidOf fn) (va / size * size) size else r.2
  (if r.1 = 0 then .done else .refuse r.1, t)

/-- The step PTE (R320). -/
def execPte (fn : Fin 17) (q : Fin 16) (s : State) : Host.Outcome State Fault Refusal := .next (s.performPacket fn q 0x08 pteAct)

/-! ### POOL (R177, R280, R320) -/

/-- Zero physical memory under a key; what could not be read there is gone (R280). -/
def State.zeroPhys (s : State) (key pa n : Nat) : State :=
  let bl := blocksOf pa n
  let rest := s.sealed.filter fun p => !(decide (pa / 16 ≤ p.1) && decide (p.1 < (pa + n + 15) / 16))
  { s with
    hbm := memClear s.hbm pa n
    sealed := if key = 0 then rest else bl.map (fun b => (b, key)) ++ rest
    poison := s.poison.filter fun u => !(decide (pa / 128 ≤ u) && decide (u < (pa + n) / 128)) }

/-- Whether a frame of 64 KiB in a range is retired; such a frame never returns to a pool (R280). -/
def Trust.frameRetired (t : Trust) (pa n : Nat) : Bool :=
  (t.retired ++ t.retiredNow).any fun u => u.1 == .hbmFrame && decide (pa / 65536 ≤ u.2.toNat) && decide (u.2.toNat < (pa + n) / 65536)

/-- Add a zeroed frame to a pool of a context. -/
def State.addFrame (s : State) (c : Fin 17) (big : Bool) (dom : Fin 4) (pa : Nat) : State :=
  let n := if big then 2 ^ 21 else 65536
  if s.trust.frameRetired pa n then s
  else
    let t := s.zeroPhys (s.ctx c).key pa n
    t.setCtx c ((t.ctx c).setPool big dom ((t.ctx c).pool big dom ++ [pa]))

/-- The action of POOL: the frame list stands in host memory (log 46). -/
def poolAct (fn : Fin 17) (p : BitVec 2560) (s : State) : ActEnd × State :=
  let dom : Fin 4 := ((slotArg p 2).extractLsb' 2 2).toFin
  (.done, (List.range (slotArg p 1).toNat).foldl (fun x i =>
    x.addFrame fn ((slotArg p 2).getLsbD 0) dom (readLE s.hostMem ((slotArg p 0).toNat + 8 * i) 8)) s)

/-- The step POOL (R320). -/
def execPool (fn : Fin 17) (q : Fin 16) (s : State) : Host.Outcome State Fault Refusal := .next (s.performPacket fn q 0x09 poolAct)

/-! ### RULES (R230, R320) -/

/-- The entries of a rule image. -/
def ruleImage (bs : List Byte) : Vector (BitVec 256) 64 := Vector.ofFn fun i : Fin 64 => fieldOf bs (32 * i.val) 32 256

/-- The DETAIL of a refused image: the first refused entry, the word, the TRULE code (R320). -/
def imageRefused (v : Vector (BitVec 256) 64) : Option Nat :=
  (List.finRange 64).findSome? fun i => (ruleRefused (v.get i)).map fun k => 65536 * i.val + 256 * k + 2

/-- The action of RULES. -/
def rulesAct (fn : Fin 17) (p : BitVec 2560) (s : State) : ActEnd × State :=
  match s.readField fn (slotArg p 0) 2048 with
  | .error u => (.faulted (argOff 0), u)
  | .ok (bs, t) => match imageRefused (ruleImage bs) with
    | some k => (.refuse k, t)
    | none => (.done, t.setCtx fn { t.ctx fn with rules := ruleImage bs })

/-- The step RULES (R320). -/
def execRules (fn : Fin 17) (q : Fin 16) (s : State) : Host.Outcome State Fault Refusal := .next (s.performPacket fn q 0x0A rulesAct)

/-! ### CTX (R325) -/

/-- The fields of a context record. -/
def crRoot (r : BitVec 2048) (k : Nat) : DWord := r.extractLsb' (768 + 64 * k) 64
def crRulea (r : BitVec 2048) : DWord := r.extractLsb' 64 64
def crSave (r : BitVec 2048) : DWord := r.extractLsb' 384 64
def crSavelen (r : BitVec 2048) : DWord := r.extractLsb' 128 64
def crDmask (r : BitVec 2048) : BitVec 4 := r.extractLsb' 40 4
def crEnc (r : BitVec 2048) : Bool := r.getLsbD 37
def crSched (r : BitVec 2048) : Bool := r.getLsbD 36
def crAsid (r : BitVec 2048) : BitVec 16 := r.extractLsb' 0 16

/-- Whether a context is in use: it has resident waves or unfinished tasks. -/
def State.ctxBusy (s : State) (c : Fin 17) : Bool := (s.waves.any fun w => w.ctx == c) || s.tasks.any fun t => t.ctx == c

/-- Whether a function's interface is locked by TDISP (R323). -/
def Ctx.locked (c : Ctx) : Bool := c.tdisp == .locked || c.tdisp == .run

/-- Whether a context record is refused, its rule image apart (R325, R326, R323). -/
def State.recordRefused (s : State) (c : Fin 17) (a : DWord) (r : BitVec 2048) : Bool :=
  let others := (List.finRange 17).filter fun x => x != c && (s.ctx x).asid.isSome
  a.toNat % 64 != 0 || s.ctxBusy c || r.extractLsb' 1280 768 != 0#768 || r.extractLsb' 192 192 != 0#192 || r.extractLsb' 38 2 != 0#2 ||
  r.extractLsb' 16 16 != 0#16 || (s.ctx c).locked ||
  (!crSched r && others.any fun x => !(s.ctx x).sched && (s.ctx x).dmask &&& crDmask r != 0#4) ||
  (crSave r).toNat % 65536 != 0 || (crSavelen r).toNat % 65536 != 0 ||
  decide ((crSavelen r).toNat < 0xC10000) ||
  ((List.range 8).any fun k => (crRoot r k).toNat % 2 ^ 20 != 0 || decide ((crRoot r k).toNat / 2 ^ 36 ≠ k)) ||
  crAsid r == 0#16 || others.any fun x => (s.ctx x).asid == some (crAsid r)

/-- A context with a record in effect: its region table, shell tables and rewrite counters empty; a new ASID has an empty home map.
`key` is the memory key it gets (R332). -/
def Ctx.withRecord (c : Ctx) (r : BitVec 2048) (key : Nat) : Ctx :=
  { c with
    asid := some (crAsid r)
    roots := Vector.ofFn fun k : Fin 8 => crRoot r k.val
    rpta := r.extractLsb' 704 64
    rpth := r.extractLsb' 640 64
    rptn := (r.extractLsb' 44 4).toNat
    trapv := r.extractLsb' 576 64
    glen := r.extractLsb' 512 64
    gbase := r.extractLsb' 448 64
    save := crSave r
    savelen := crSavelen r
    slice := (r.extractLsb' 48 16).toNat
    dmask := crDmask r
    enc := crEnc r
    sched := crSched r
    cvec := (r.extractLsb' 32 4).toNat
    key := key
    rules := Vector.replicate 64 0#256
    regions := []
    shells := []
    rwcnt := Vector.replicate 6 0#32
    rwrule := Vector.replicate 64 0#32
    homes := if c.asid = some (crAsid r) then c.homes else Vector.replicate 64 0#128 }

/-- The state with a context's record in effect. -/
def State.withRecord (s : State) (c : Fin 17) (r : BitVec 2048) : State :=
  let key := if crEnc r then s.nextId else 0
  { s.setCtx c ((s.ctx c).withRecord r key) with nextId := s.nextId + 1 }

/-- The rule image of a record, read through the new record: none where it is refused, with its DETAIL. -/
def State.recordRules (t : State) (c : Fin 17) (r : BitVec 2048) : Except Nat (Vector (BitVec 256) 64 × State) :=
  if !(t.ctx c).grantOk .r (crRulea r) 2048 then .error 0
  else match t.readField c (crRulea r) 2048 with
    | .error _ => .error 0
    | .ok (bs, u) => match imageRefused (ruleImage bs) with
      | some k => .error k
      | none => .ok (ruleImage bs, u)

/-- A new record empties the region table; the arena's copies of it and of the home map follow (R325, R326). -/
def State.emptyTables (s : State) (c : Fin 17) : State :=
  (s.setRegions c []).writeArena c 0xC01000 ((s.ctx c).homes.toList.flatMap fun h => toBytes 16 h.toNat)

/-- The action of CTX. -/
def ctxAct (_ : Fin 17) (p : BitVec 2560) (s : State) : ActEnd × State :=
  let a := slotArg p 0
  let c : Fin 17 := Fin.ofNat 17 (slotCtx p)
  let r : BitVec 2048 := BitVec.ofNat 2048 (readLE s.hostMem a.toNat 256)
  if s.recordRefused c a r then (.refuse 0, s)
  else
    let t := s.withRecord c r
    if crRulea r = 0#64 then (.done, t.emptyTables c)
    else match t.recordRules c r with
      | .error k => (.refuse k, s)
      | .ok (v, u) => (.done, (u.setCtx c { u.ctx c with rules := v }).emptyTables c)

/-- The step CTX (R325). -/
def execCtx (fn : Fin 17) (q : Fin 16) (s : State) : Host.Outcome State Fault Refusal := .next (s.performPacket fn q 0x0B ctxAct)

end Sys2Proof.Machine
end

