-- ==== Sys2Proof/Machine/Domains.lean ====
section
/-! DEFINITION. Domains that leave service and return (R281–R283), evacuation (R282), and the OFFLINE and ONLINE packets (R320). -/

set_option Elab.async false

namespace Sys2Proof.Machine

/-! ### Leaf entries (R262, R263) -/

/-- The indices of a table's entries that are not 0. -/
def State.usedEntries (s : State) (table w : Nat) : List Nat :=
  let plain := (memSlice s.hbm table (8 * 2 ^ w)).foldl
    (fun acc c => if acc.getLast? == some ((c.1 - table) / 8) then acc else acc ++ [(c.1 - table) / 8]) []
  if s.sealed.any fun p => decide (table / 16 ≤ p.1) && decide (16 * p.1 < table + 8 * 2 ^ w) then
    (List.range (2 ^ w)).filter fun i => plain.contains i || s.sealOf ((table + 8 * i) / 16) != 0
  else plain

/-- A page of an ASID's tree: its context, its address, its level and its leaf entry. -/
structure PageEntry where
  ctx : Fin 17
  va : Nat
  level : Nat
  entry : DWord
deriving DecidableEq, Repr

/-- The present leaf entries below a table. -/
def State.leavesBelow (s : State) (c : Fin 17) (ls : List (Nat × Nat × Option (Fin 3))) (level table base : Nat) : List PageEntry :=
  match ls with
  | [] => []
  | (sh, w, _) :: rest => (s.usedEntries table w).flatMap fun i =>
    let e := s.tableWord (table + 8 * i)
    if !e.getLsbD 0 then []
    else if e.extractLsb' 6 2 == 3#2 then
      s.leavesBelow c rest (level + 1) ((e.extractLsb' 8 56).toNat * 256) (base + i * 2 ^ sh)
    else [⟨c, base + i * 2 ^ sh, level, e⟩]

/-- The pages of every context that holds an ASID, as copy 0 of its tree names them. -/
def State.allPages (s : State) : List PageEntry :=
  ((List.finRange 17).filter fun c => (s.ctx c).asid.isSome).flatMap fun c => s.leavesBelow c levels 0 (s.root c 0) 0

def PageEntry.leaf (p : PageEntry) : Leaf := leafOf p.entry

/-- The ASID a page's lines are tagged with (R255). -/
def State.pageTag (s : State) (p : PageEntry) : BitVec 16 := if p.leaf.glb then 0#16 else s.asidOf p.ctx

/-- The granules of a page. -/
def PageEntry.granules (p : PageEntry) : List Nat :=
  (List.range (max 1 (2 ^ pageShift p.leaf.size / 2 ^ 21))).map (p.va / 2 ^ 21 + ·)

/-- The pages an evacuation of a domain takes: of a granule homed there, with a frame in its stacks (R282). -/
def State.leavingPages (s : State) (d : Nat) : List PageEntry :=
  s.allPages.filter fun p => frameDomain p.leaf.frame == d && p.granules.any fun g => s.home (s.pageTag p) (g * 2 ^ 21) == d

/-! ### The order of evacuation (R267, R282) -/

/-- Whether a wave is resident or waits to be placed (R282). -/
def State.waveHere (s : State) (w : Wave) : Bool :=
  !w.blocks.isEmpty || s.slices.any (fun x => x.wave == w.num) || s.presences.any fun p => p.wave == w.num

/-- The class of a granule of a context: of the first entry of its region table, or of the lists of its waves that are resident or wait to
be placed, that meets it; else 2. -/
def State.granuleClass (s : State) (c : Fin 17) (g : Nat) : Nat :=
  let es := (s.ctx c).regions ++ (s.waves.filter fun w => w.ctx == c && s.waveHere w).flatMap (·.ranges)
  ((es.find? fun e => e.len != 0#32 && decide (offsetOf e.base < (g + 1) * 2 ^ 21) &&
    decide (g * 2 ^ 21 < offsetOf e.base + 65536 * e.len.toNat)).map fun e => e.cls.val).getD 2

/-- Whether a page is taken before another: the higher class first, then the lower address. -/
def State.takenBefore (s : State) (p q : PageEntry) : Bool :=
  let a := s.granuleClass p.ctx (p.va / 2 ^ 21)
  let b := s.granuleClass q.ctx (q.va / 2 ^ 21)
  decide (b < a) || (a == b && decide (p.va < q.va))

/-- Put a page into its place. -/
def State.insertPage (s : State) (p : PageEntry) (ps : List PageEntry) : List PageEntry :=
  match ps with
  | [] => [p]
  | q :: t => if s.takenBefore q p then q :: s.insertPage p t else p :: q :: t

/-- Pages in the order of evacuation. -/
def State.evacuationOrder (s : State) (ps : List PageEntry) : List PageEntry := ps.foldr s.insertPage []

/-! ### Moving and stranding pages (R282) -/

/-- Write a page's leaf entry into every copy of its tree, and drop its translations. -/
def State.rewriteLeaf (s : State) (p : PageEntry) (e : DWord) : State :=
  let t := (List.range 8).foldl (fun x k => match entryPlace x.tableWord levels p.level (x.root p.ctx k) p.va with
    | some pa => x.physWrite 0 pa (toBytes 8 e.toNat)
    | none => x) s
  t.dropTlb (t.asidOf p.ctx) p.va

/-- Copy a frame as it is stored, with the keys and the poison of its parts. -/
def State.copyFrame (s : State) (src dst n : Nat) : State :=
  { s with
    hbm := memCopy s.hbm src s.hbm dst n
    sealed := ((s.sealed.filter fun x => decide (src / 16 ≤ x.1) && decide (x.1 < (src + n) / 16)).map fun x =>
        (x.1 - src / 16 + dst / 16, x.2)) ++
      s.sealed.filter fun x => !(decide (dst / 16 ≤ x.1) && decide (x.1 < (dst + n) / 16))
    poison := s.poison ++ (s.poison.filter fun u => decide (src / 128 ≤ u) && decide (u < (src + n) / 128)).map fun u =>
      u - src / 128 + dst / 128 }

/-- A page left behind: not present, stranded, its FRAME kept. -/
def strandedEntry (e : DWord) : DWord := (e &&& ~~~1#64) ||| 0x200#64

/-- Take a page of a granule to its new home, if its context has a frame there. -/
def State.movePage (s : State) (p : PageEntry) (dom : Nat) : Option State :=
  if p.leaf.size = 2 ∨ 4 ≤ dom then none
  else
    let big := p.leaf.size == 1
    match (s.ctx p.ctx).pool big (Fin.ofNat 4 dom) with
    | [] => none
    | f :: rest =>
      let n := 2 ^ pageShift p.leaf.size
      let t := (s.copyFrame p.leaf.frame f n).setCtx p.ctx ((s.ctx p.ctx).setPool big (Fin.ofNat 4 dom) rest)
      some (t.rewriteLeaf p (BitVec.ofNat 64 f ||| (p.entry &&& 0xFFFF#64)))

/-- Pages are left behind. -/
def State.strandPages (s : State) (ps : List PageEntry) : State := ps.foldl (fun x q => x.rewriteLeaf q (strandedEntry q.entry)) s

/-- The pages that name one frame go to the frame taken for the first of them, with the pages left behind: those of another size, and all
of them where there is no frame (R280, R282; log 41). -/
def State.moveShared (s : State) (p : PageEntry) (ps : List PageEntry) (dom : Nat) : State × List PageEntry :=
  match s.movePage p dom with
  | none => (s.strandPages ps, ps)
  | some t =>
    let f := ((s.ctx p.ctx).pool (p.leaf.size == 1) (Fin.ofNat 4 dom)).headD 0
    let same (q : PageEntry) : Bool := q.leaf.size == p.leaf.size
    (((ps.filter same).foldl (fun x q => x.rewriteLeaf q (BitVec.ofNat 64 f ||| (q.entry &&& 0xFFFF#64))) t).strandPages
      (ps.filter fun q => !same q), ps.filter fun q => !same q)

/-- Whether the frames of two pages have a byte in common. -/
def PageEntry.shares (p q : PageEntry) : Bool :=
  decide (p.leaf.frame < q.leaf.frame + 2 ^ pageShift q.leaf.size) && decide (q.leaf.frame < p.leaf.frame + 2 ^ pageShift p.leaf.size)

/-- What an evacuation has done: the state, the pages left behind, and every page it is done with. -/
structure Evacuation where
  state : State
  stranded : List PageEntry
  done : List PageEntry

/-- Evacuate the frame of a page, for every page that names it, in a state in which its domain counts as offline: `may` says that its
stack can be read and there is time. -/
def evacuatePage (x : Evacuation) (may : Bool) (p : PageEntry) : Evacuation :=
  if x.done.contains p then x
  else
    let ps := p :: x.state.allPages.filter fun q => q != p && p.shares q
    let s := ps.foldl (fun y q => y.flushTag (y.pageTag q) q.va (2 ^ pageShift q.leaf.size)) x.state
    let r := if may then s.moveShared p ps (s.home (s.pageTag p) p.va) else (s.strandPages ps, ps)
    ⟨r.1, x.stranded ++ r.2, x.done ++ ps⟩

/-- The granule of a page: the ASID its lines are tagged with, and the number. -/
def State.granuleOf (s : State) (p : PageEntry) : BitVec 16 × Nat := (s.pageTag p, p.va / 2 ^ 21)

/-- The granules of pages in order, each once. -/
def State.granulesOf (s : State) (ps : List PageEntry) : List (BitVec 16 × Nat) :=
  ps.foldl (fun acc p => if acc.contains (s.granuleOf p) then acc else acc ++ [s.granuleOf p]) []

/-- Evacuate pages: `ms` is the time allowed, none for no limit, `readable` whether the domain's stacks can be read. -/
def State.evacuate (s : State) (ps : List PageEntry) (ms : Option Nat) (readable : Bool) : Evacuation :=
  let os := s.evacuationOrder ps
  let inTime := match ms with
    | some n => (s.granulesOf os).take (Config.evacuated s.ticks n)
    | none => s.granulesOf os
  os.foldl (fun x p => evacuatePage x (readable && inTime.contains (s.granuleOf p)) p) ⟨{ s with ticks := s.ticks + 1 }, [], []⟩

/-! ### A domain leaves (R281) -/

/-- Pass the unplaced blocks of a domain that has left to the online domains of their waves, which list them (R281). -/
def State.passOrphans (s : State) : State :=
  let ws := s.waves.map fun w => if w.dies &&& s.online = 0#4 then w else { w with blocks := passBlocks s.online w.dies w.blocks }
  let t : State := { s with waves := ws }
  { t with launches := Vector.ofFn fun d : Fin 4 => ws.foldl (fun es w =>
      match launchEntry w.num es, (List.finRange 4).findSome? fun k => launchEntry w.num (s.launches.get k) with
      | none, some e => if w.blocks.any fun b => b.dom == d then insertEntry es e else es
      | _, _ => es) (s.launches.get d) }

/-- A domain leaves service (R281 steps 1 to 3): waves end, blocks pass on, caches are written back, and it counts as offline. -/
def State.departDomain (s : State) (d : Fin 4) (index : BitVec 16) : State :=
  let s := s.endOnCores (fun k => dieOfCore k == d.val) index
  let s := s.writes.foldl (fun x w => x.forceWrites w.asid w.va w.bytes.length) s
  let s := s.moveGranules fun x => { x with online := x.online &&& ~~~(1#4 <<< d.val) }
  let s := ((s.waves.filter fun w => w.dies &&& s.online == 0#4 && w.ended.isNone).map (·.num)).foldl (fun x w => x.endWave w (WaveEnd.hardware 2#8 index 0#64 0#64 (48 * d.val))) s
  s.passOrphans

/-- A domain leaves and its memory is evacuated (R281, R282). -/
def State.offlineDomain (s : State) (d : Fin 4) (ms : Option Nat) (readable : Bool) (index : BitVec 16) : Evacuation :=
  if !s.online.getLsbD d.val then ⟨s, [], []⟩
  else
    let ps := s.leavingPages d.val
    (s.departDomain d index).evacuate ps ms readable

/-! ### Stranded ranges (R283) -/

/-- A stranded range: ASID, first address, length in 64 KiB units. -/
structure StrandedRange where
  asid : BitVec 16
  va : Nat
  len : Nat
deriving DecidableEq, Repr

/-- Put a range into a list by ASID and address. -/
def insertRange (r : StrandedRange) (rs : List StrandedRange) : List StrandedRange :=
  match rs with
  | [] => [r]
  | x :: t => if x.asid < r.asid ∨ (x.asid = r.asid ∧ x.va < r.va) then x :: insertRange r t else r :: x :: t

/-- Join consecutive ranges of one ASID. -/
def joinRanges (rs : List StrandedRange) : List StrandedRange :=
  rs.foldr (fun r acc => match acc with
    | x :: t => if r.asid = x.asid ∧ r.va + 65536 * r.len = x.va then { r with len := r.len + x.len } :: t else r :: acc
    | [] => [r]) []

/-- The range of a page. -/
def State.rangeOf (s : State) (p : PageEntry) : StrandedRange := ⟨s.pageTag p, p.va, 2 ^ pageShift p.leaf.size / 65536⟩

/-- The ranges of the pages left behind: a global page, which the trees of several contexts name, is one. -/
def Evacuation.ranges (x : Evacuation) : List StrandedRange :=
  let rs := x.stranded.foldl (fun acc p => if acc.contains (x.state.rangeOf p) then acc else acc ++ [x.state.rangeOf p]) []
  joinRanges (rs.foldr insertRange [])

/-- A stranded range as the host receives it. -/
def StrandedRange.word (r : StrandedRange) : BitVec 128 := 0#16 ++ r.asid ++ BitVec.ofNat 32 r.len ++ BitVec.ofNat 64 r.va

/-- Write ranges to the host's buffer, as many as the function's window holds. -/
def State.putRanges (s : State) (fn : Fin 17) (a : Nat) (rs : List StrandedRange) : Nat × State :=
  let fit := ((List.range rs.length).zip rs).filter fun r => (s.ctx fn).hostOk .w a (16 * (r.1 + 1))
  (fit.length, { s with hostMem := fit.foldl (fun m r => writeBytes m (a + 16 * r.1) (toBytes 16 r.2.word.toNat)) s.hostMem })

/-! ### OFFLINE and ONLINE (R320) -/

/-- The action of OFFLINE: WORD is the number of ranges written. -/
def offlineAct (fn : Fin 17) (p : BitVec 2560) (s : State) : ActEnd × State :=
  let x := s.offlineDomain ((slotArg p 1).extractLsb' 0 2).toFin (some ((slotArg p 2).extractLsb' 0 32).toNat) true
    (Config.orderedIndex s.ticks)
  let r := x.state.putRanges fn (slotArg p 0).toNat x.ranges
  (.ends ⟨0#8, 0#32, BitVec.ofNat 32 r.1, 0#32⟩, r.2)

/-- The step OFFLINE (R281). -/
def execOffline (fn : Fin 17) (q : Fin 16) (s : State) : Host.Outcome State Fault Refusal :=
  .next (s.performPacket fn q 0x0C offlineAct)

/-- Whether a domain has lost a die, or was skipped at boot (R320, R334). -/
def State.domainGone (s : State) (d : Fin 4) : Bool :=
  s.skipped.getLsbD d.val || s.trust.retired.any fun u => (u.1 == .computeDie || u.1 == .baseDie) && u.2 == BitVec.ofNat 32 d.val

/-- The action of ONLINE: the home map governs again as written (R260). -/
def onlineAct (_ : Fin 17) (p : BitVec 2560) (s : State) : ActEnd × State :=
  let d : Fin 4 := ((slotArg p 1).extractLsb' 0 2).toFin
  if s.domainGone d then (.refuse 0, s)
  else (.done, s.moveGranules fun x => { x with online := x.online ||| (1#4 <<< d.val) })

/-- The step ONLINE (R320). -/
def execOnline (fn : Fin 17) (q : Fin 16) (s : State) : Host.Outcome State Fault Refusal := .next (s.performPacket fn q 0x0D onlineAct)

end Sys2Proof.Machine
end

