-- ==== Sys2Proof/Machine/Debug.lean ====
section
/-! DEFINITION. The debug interface (R178–R180): what a function reaches, stop, resume, step, attach and detach, and reading and
writing the registers of a slice. -/

set_option Elab.async false

namespace Sys2Proof.Machine

/-! ### Reach and status (R178) -/

/-- The slice a debug operation of a function reaches: any for the physical function, else one of the function's context. -/
def State.dbgSlice (s : State) (fn : Fin 17) (t : DbgTarget) : Option Slice :=
  match s.sliceAt t.core.toNat t.slot.toNat with
  | some sl => if fn = 0 ∨ s.ctxOfWave sl.wave = fn then some sl else none
  | none => none

/-- DBGSTAT.STATUS of a function, with the wave of the slice DBGCMD named, where the function reaches one. -/
def State.dbgStatus (s : State) (fn : Fin 17) (w : Option Word) (status : BitVec 8) : State :=
  { s with dbg := s.dbg.set fn { s.dbg.get fn with status := status, last := w } }

/-- A debug operation: status 0x03 where it reaches no slice. -/
def State.dbgOp (s : State) (fn : Fin 17) (t : DbgTarget) (f : Slice → BitVec 8 × State) : State :=
  match s.dbgSlice fn t with
  | none => s.dbgStatus fn none 3#8
  | some sl => let r := f sl; r.2.dbgStatus fn (some sl.wave) r.1

/-! ### Stop, resume, step (R179) -/

/-- A stop finds a trap entry in progress: it is finished first, so that the slice stops in its handler (R179). -/
def State.stopEntering (s : State) (sl : Slice) : State :=
  let cx := s.ctxOfWave sl.wave
  let note (d : DebugRegs) : DebugRegs := { d with reason := 1#4 }
  let dbg := s.dbg.set 0 (note (s.dbg.get 0))
  let s : State := { s with dbg := if cx = 0 then dbg else dbg.set cx (note (dbg.get cx)) }
  (s.flushSlice sl).modSlice sl.sid fun x => { x with stopped := true, stepping := false }

/-- The step DBG_STOP (R179); a slice that is stopped stays as it is. -/
def execDbgStop (fn : Fin 17) (at_ : DbgTarget) (s : State) : Host.Outcome State Fault Refusal :=
  .next (s.dbgOp fn at_ fun sl =>
    (0#8, if sl.stopped then s else if sl.pend.isSome then s.stopEntering sl else s.stopSlice sl.sid 1#8))

/-- Slices that go on: a report they held back is taken at once where their gang issues nothing (R169, R179). -/
def State.resumeSlices (s : State) (hit : Slice → Bool) : State :=
  ({ s with slices := s.slices.map fun x => if hit x then { x with stopped := false, stepping := false } else x } : State).takeReports

/-- The step DBG_RESUME (R179). -/
def execDbgResume (fn : Fin 17) (at_ : DbgTarget) (s : State) : Host.Outcome State Fault Refusal :=
  .next (s.dbgOp fn at_ fun sl => if sl.stopped then (0#8, s.resumeSlices fun x => x.sid == sl.sid) else (2#8, s))

/-- The step DBG_STEP (R179): the slice issues one instruction with its gang. -/
def execDbgStep (fn : Fin 17) (at_ : DbgTarget) (s : State) : Host.Outcome State Fault Refusal :=
  .next (s.dbgOp fn at_ fun sl => if sl.stopped then (0#8, s.modSlice sl.sid fun x => { x with stepping := true }) else (2#8, s))

/-! ### Attach and detach (R179) -/

/-- Attach or detach a wave. -/
def State.setAttached (s : State) (w : Word) (a : Bool) : State :=
  { s with waves := s.waves.map fun x => if x.num == w then { x with attached := a } else x }

/-- The step DBG_ATTACH (R179). -/
def execDbgAttach (fn : Fin 17) (at_ : DbgTarget) (s : State) : Host.Outcome State Fault Refusal :=
  .next (s.dbgOp fn at_ fun sl => (0#8, s.setAttached sl.wave true))

/-- The step DBG_DETACH (R179); a wave that is not attached is left alone. -/
def execDbgDetach (fn : Fin 17) (at_ : DbgTarget) (s : State) : Host.Outcome State Fault Refusal :=
  .next (s.dbgOp fn at_ fun sl =>
    (0#8, match s.wave? sl.wave with
      | some w => if w.attached then (s.setAttached sl.wave false).resumeSlices fun x => x.wave == sl.wave else s
      | none => s))

/-! ### Registers (R59, R60, R180) -/

/-- The vector register a field names (R59). -/
def dbgVec (reg : BitVec 7) : Option VSrcReg :=
  let n := reg.toNat
  if n < 96 then some (.v (Fin.ofNat 96 n))
  else if n < 112 then some (.o (Fin.ofNat 16 (n - 96)))
  else if n < 116 then some (.w (Fin.ofNat 4 (n - 112)))
  else if n = 116 then some .z
  else if n = 117 then some .laneId
  else if n = 118 then some .sliceIdx
  else none

/-- The scalar register a field names, in the user bank (R60, R178). -/
def dbgScl (reg : BitVec 7) : Option SSrcReg :=
  let n := reg.toNat
  if n < 64 then some (.s (Fin.ofNat 64 n)) else if n = 116 then some .z else if n = 118 then some .sliceIdx else none

/-- The storage a debug field names that an operation may write: w0–w3, z, the lane id and the slice index can be read only, and a write
that names one answers status 0x04 (DESIGN CHOICE, log 64). -/
def dbgCell (scl : Bool) (reg : BitVec 7) : Option RegName :=
  if scl then
    (match dbgScl reg with
     | some (.s n) => some (.s n)
     | _ => none)
  else
    (match dbgVec reg with
     | some (.v n) => some (.v n)
     | some (.o n) => some (.o n)
     | _ => none)

/-- What a debug field reads: the four lanes. -/
def Slice.dbgValue (sl : Slice) (scl : Bool) (reg : BitVec 7) : Option Lanes :=
  if scl then
    (match dbgScl reg with
     | some (.s n) => some (Lanes.all (sl.s.get n).val)
     | some .z => some (Lanes.all 0#32)
     | some .sliceIdx => some (Lanes.all sl.idx)
     | none => none)
  else (dbgVec reg).map sl.readV

/-- The step DBG_READ (R180): a register without a full/empty bit reads as full. -/
def execDbgRead (fn : Fin 17) (at_ : DbgTarget) (scl : Bool) (reg : BitVec 7) (s : State) : Host.Outcome State Fault Refusal :=
  .next (s.dbgOp fn at_ fun sl => match sl.dbgValue scl reg with
    | none => (4#8, s)
    | some x => (0#8, { s with dbg := s.dbg.set fn { s.dbg.get fn with
        data := x, full := ((dbgCell scl reg).map sl.isFull).getD true } }))

/-! ### Forced writes (R180) -/

/-- Whether the debugger has taken all that an operation would fill in a slice. -/
def Part.discarded (p : Part) : Bool := !p.dst.isEmpty && p.dst.all (· == .gone)

/-- Whether an operation's fills and faults for a slice are discarded. -/
def Txn.discarded (t : Txn) (sid : Nat) : Bool := (t.parts.filter fun p => p.sid == sid).any Part.discarded

/-- An operation without the lanes of a slice that faulted: their faults are discarded with its fill (R180). -/
def State.forgetFaults (s : State) (sid : Nat) (t : Txn) : Txn :=
  if t.discarded sid then { t with lanes := t.lanes.filter fun l => !(l.sid == sid && s.laneFaulted t l) } else t

/-- The pages on which an operation of a slice has faulted. -/
def State.faultPages (s : State) (sid : Nat) (t : Txn) : List (BitVec 16 × Nat) :=
  (t.lanes.filter fun l => l.sid == sid && s.laneFaulted t l).map fun l => (s.txnAsid t, l.off / 65536)

/-- Let go of those of some pages a slice holds on which no operation of it has faulted any more. -/
def State.dropHolds (s : State) (sid : Nat) (ps : List (BitVec 16 × Nat)) : State :=
  let needed := s.txns.flatMap (s.faultPages sid)
  { s with firstFaults := s.firstFaults.filter fun f =>
      f.sid != sid || !ps.contains (f.asid, f.page) || needed.contains (f.asid, f.page) }

/-- The fills of a slice's register are discarded, and so are the late faults of what would have made them. -/
def State.discardFills (s : State) (sid : Nat) (r : RegName) : State :=
  let cut (p : Part) : Part := if p.sid == sid then { p with dst := p.dst.map fun x => if x == r then .gone else x } else p
  let s : State := { s with txns := s.txns.map fun t => { t with parts := t.parts.map cut } }
  let ps := (s.txns.filter fun t => t.discarded sid).flatMap (s.faultPages sid)
  ({ s with txns := s.txns.map (s.forgetFaults sid) } : State).dropHolds sid ps

/-- Write the lanes of a register, and mark it full. -/
def State.dbgPut (s : State) (sid : Nat) (r : RegName) (mask : BitVec 4) (x : Word) : State :=
  s.modSlice sid fun sl => sl.fillCell r mask (Lanes.all x)

/-- The step DBG_WRITE (R180). -/
def execDbgWrite (fn : Fin 17) (at_ : DbgTarget) (scl : Bool) (reg : BitVec 7) (lmask : BitVec 4) (force : Bool) (data : Word)
    (s : State) : Host.Outcome State Fault Refusal :=
  .next (s.dbgOp fn at_ fun sl =>
    if !sl.stopped then (2#8, s)
    else match dbgCell scl reg with
      | none => (4#8, s)
      | some r =>
        if sl.isFull r || !s.producing sl.sid r then (0#8, s.dbgPut sl.sid r lmask data)
        else if !force then (1#8, s)
        else (0#8, (s.discardFills sl.sid r).dbgPut sl.sid r lmask data))

/-! ### DBGCMD (R178) -/

/-- A write of DBGCMD starts the operation it names; OP 7 gives status 0x05. -/
def writeDbgcmd (fn : Fin 17) (v : DWord) (s : State) : Host.Outcome State Fault Refusal :=
  let at_ : DbgTarget := ⟨v.extractLsb' 56 8, v.extractLsb' 49 7⟩
  let scl := v.getLsbD 48
  let reg := v.extractLsb' 41 7
  match (v.extractLsb' 32 3).toNat with
  | 0 => execDbgStop fn at_ s
  | 1 => execDbgResume fn at_ s
  | 2 => execDbgStep fn at_ s
  | 3 => execDbgRead fn at_ scl reg s
  | 4 => execDbgWrite fn at_ scl reg (v.extractLsb' 37 4) (v.getLsbD 36) v.lo s
  | 5 => execDbgAttach fn at_ s
  | 6 => execDbgDetach fn at_ s
  | _ => .next (s.dbgStatus fn ((s.dbgSlice fn at_).map (·.wave)) 5#8)

end Sys2Proof.Machine
end

