-- ==== Sys2Proof/Machine/Registers.lean ====
section
/-! DEFINITION. The host's registers (R5, R69, R317, R318, R329, R330, R335, R342, R349, R363, R365), the physical aperture (R324), counters
that wrap (R328), and reuse reports (R268). -/

set_option Elab.async false

namespace Sys2Proof.Machine

/-! ### Host windows (R318) -/

/-- Whether every queue of a function is disabled. -/
def Ctx.queuesOff (c : Ctx) : Bool := c.queues.all fun h => !h.en

/-- Write a function's window base or length, where it may be written. -/
def State.writeWindowReg (s : State) (f : Fin 17) (length : Bool) (v : DWord) : State :=
  let c := s.ctx f
  if !c.queuesOff || (f != 0 && c.locked) then s
  else s.setCtx f (if length then { c with hwlen := v } else { c with hwbase := v &&& ~~~0xFFF#64 })

/-! ### Plain registers (R5, R6) -/

/-- LDCFG: only while LOCK = 0 (R69). -/
def State.writeLdcfg (s : State) (v : DWord) : State :=
  if s.ldcfg.getLsbD 2 then s else { s with ldcfg := (v &&& 7#64).setWidth 32 }

/-- APCTL: APERR is cleared by a one (R324). -/
def State.writeApctl (s : State) (v : DWord) : State :=
  let err := s.apctl.getLsbD 31 && !v.getLsbD 31
  { s with apctl := BitVec.ofBool err ++ 0#14 ++ v.extractLsb' 0 17 }

/-- The counter registers of a function (R329); a counter of clk, cache or memory events has gone on when its selector is written
(log 17). -/
def State.writeCounter (s : State) (f : Fin 17) (off : Nat) (v : DWord) : State :=
  let c := s.ctx f
  if off < 0x840 then
    (if off % 8 = 0 then s.setCtx f { c with pccnt := c.pccnt.set (Fin.ofNat 8 ((off - 0x800) / 8)) ((v.extractLsb' 0 48).setWidth 64) }
     else s)
  else if off < 0x860 then
    (if off % 4 = 0 then
       let k : Fin 8 := Fin.ofNat 8 ((off - 0x840) / 4)
       let t := s.foldTimed f k
       t.setCtx f { t.ctx f with pcsel := (t.ctx f).pcsel.set k ((v.extractLsb' 0 9).setWidth 32) }
     else s)
  else s.setCtx f { c with pcovf := c.pcovf &&& ~~~(v.extractLsb' 0 8) }

/-- The registers of a queue without a step of their own: QBASE, CQBASE and CQCFG, which change only while EN = 0 (R317). -/
def State.writeQueueReg (s : State) (f : Fin 17) (off : Nat) (v : DWord) : State :=
  let q : Fin 16 := Fin.ofNat 16 ((off - 0x1000) / 0x40)
  if (s.queue f q).en then s
  else match (off - 0x1000) % 0x40 with
    | 0x00 => s.modQueue f q fun h => { h with qbase := v }
    | 0x18 => s.modQueue f q fun h => { h with cqbase := v }
    | 0x20 => s.modQueue f q fun h => { h with cqcfg := (keepLog (v.extractLsb' 0 4)).setWidth 32 }
    | _ => s

/-- The fabric registers without a step of their own (R342, R349, R363). -/
def State.writeFabricReg (s : State) (off : Nat) (v : DWord) : State :=
  match off with
  | 0x300808 => { s with fab := { s.fab with en := v.extractLsb' 0 17 } }
  | 0x30080C =>
    let n := (v.extractLsb' 0 19).toNat
    { s with fab := { s.fab with lbsz := if 1 ≤ n ∧ n ≤ 262144 then BitVec.ofNat 19 n else 1#19 } }
  | 0x300820 => { s with fab := { s.fab with lwerr := s.fab.lwerr &&& ~~~v } }
  | 0x300840 => { s with fab := { s.fab with ckpeer := v.extractLsb' 0 9 } }
  | _ => s

/-- The recovery mailbox's registers (R335). -/
def State.writeRecoveryReg (s : State) (off : Nat) (v : DWord) : State :=
  match off with
  | 0xF00 => { s with trust := { s.trust with rcvaddr := v } }
  | 0xF08 => { s with trust := { s.trust with commit := v.getLsbD 1 } }
  | 0xF0C => { s with trust := { s.trust with rcvlen := v.lo } }
  | _ => s

/-- The step REGISTER_WRITE (R5): a register the function does not have, or one with a step of its own, is left as it is. A write acts on
the register that starts at its offset, in that register's width, and on no other (DESIGN CHOICE, log 63). -/
def execRegisterWrite (fn : Fin 17) (off : BitVec 32) (val : DWord) (s : State) : Host.Outcome State Fault Refusal :=
  let o := off.toNat
  if o = 0x900 then writeDbgcmd fn val s
  else .next (
    if 0x800 ≤ o ∧ o ≤ 0x860 then s.writeCounter fn o val
    else if 0x1000 ≤ o ∧ o < 0x1400 then s.writeQueueReg fn o val
    else if fn ≠ 0 then s
    else if o = 0x20 then s.writeWindowReg 0 false val
    else if o = 0x28 then s.writeWindowReg 0 true val
    else if o = 0x30 then s.writeApctl val
    else if o = 0x40 then s.writeLdcfg val
    else if 0x100 ≤ o ∧ o < 0x200 ∧ o % 8 = 0 then s.writeWindowReg (Fin.ofNat 17 ((o - 0x100) / 0x10 + 1)) (o % 0x10 == 8) val
    else if 0xF00 ≤ o ∧ o < 0xF10 then s.writeRecoveryReg o val
    else if 0x301000 ≤ o ∧ o < 0x321000 ∧ o % 8 = 0 then { s with endpoints := writeLE s.endpoints (o - 0x301000) 8 val.toNat }
    else s.writeFabricReg o val)

/-! ### Reads of registers (R5, R178, R317, R318, R329, R330, R335, R337, R342) -/

/-- The bodies of the capability list's entries (R330). -/
def State.capBodies (s : State) : List (List Word) :=
  let up := ((List.range 144).filter fun p => s.fab.planes.getLsbD p).length
  [[8#32], [0x840#32], [BitVec.ofNat 32 up, 512#32], [0#24 ++ s.skipped ++ s.online], [0xF#32], [0x40#32],
   [s.trust.record.extractLsb' 0 32, s.trust.record.extractLsb' 32 32], [0x900#32]]

/-- The capability list from an offset on, its entries one behind the other (log 24): the word at each place. -/
def capWords (bodies : List (List Word)) (id off : Nat) : List Word :=
  match bodies with
  | [] => []
  | b :: t =>
    let next := off + 4 + 4 * b.length
    ((if t.isEmpty then 0#16 else BitVec.ofNat 16 next) ++ 1#8 ++ BitVec.ofNat 8 id) :: b ++ capWords t (id + 1) next

/-- A log entry as it reads (R337). -/
def LogEntry.word (e : LogEntry) : BitVec 256 :=
  e.tsc ++ e.addr ++ 0#16 ++ e.ctx ++ e.loc ++ 0#40 ++ e.unit ++ e.cls ++ e.kind

/-- Entry i of the error log's ring (R337). -/
def Trust.logEntry (t : Trust) (i : Nat) : BitVec 256 :=
  let n := t.logged
  ((List.range (min n 4096)).find? fun k => (n - 1 - k) % 4096 == i).bind (fun k => t.log[k]?) |>.map LogEntry.word |>.getD 0#256

/-- A register of a queue as it reads (R317). -/
def HostQueue.reg (h : HostQueue) (off : Nat) : DWord :=
  match off with
  | 0x00 => h.qbase
  | 0x08 => h.qcfg.setWidth 64
  | 0x0C => h.qtail.setWidth 64
  | 0x10 => h.qhead.setWidth 64
  | 0x18 => h.cqbase
  | 0x20 => h.cqcfg.setWidth 64
  | 0x24 => h.cqtail.setWidth 64
  | 0x28 => h.cqhead.setWidth 64
  | _ => 0#64

/-- Whether a counter reads 0 on a function: the fabric's events belong to context 0 (R328). -/
def Ctx.countHidden (c : Ctx) (fn : Fin 17) (k : Fin 8) : Bool :=
  let e := (c.pcsel.get k).extractLsb' 0 8
  fn != 0 && (e == 0x10#8 || e == 0x11#8)

/-- The bits of a landing-window descriptor that are not reserved (R347), and those of an endpoint entry (R365): reserved bits read 0
whatever was written (R6). -/
def lwReadMask : BitVec 256 := BitVec.allOnes 128 ++ 0#27 ++ 0x1F#5 ++ 0#23 ++ 0x1FF#9 ++ 0#59 ++ 0x1F#5
def endpointReadMask : BitVec 256 := BitVec.allOnes 128 ++ 0#3 ++ BitVec.allOnes 29 ++ 0#95 ++ 1#1

/-- A register of a function as it reads. -/
def State.readReg (s : State) (fn : Fin 17) (o : Nat) : DWord :=
  let c := s.ctx fn
  let d := s.dbg.get fn
  let lane (i : Fin 4) : DWord := (d.data.get i).setWidth 64
  let att : Bool := ((d.last.bind s.wave?).map (·.attached)).getD false
  if o = 0 then 0x200#64
  else if o = 0x20 then c.hwbase
  else if o = 0x28 then c.hwlen
  else if o = 0x30 then (if fn = 0 then s.apctl.setWidth 64 else 0#64)
  else if o = 0x40 then s.ldcfg.setWidth 64
  else if 0x100 ≤ o ∧ o < 0x200 then
    (if fn ≠ 0 then 0#64
     else
       let x := s.ctx (Fin.ofNat 17 ((o - 0x100) / 0x10 + 1))
       if o % 0x10 = 0 then x.hwbase else if o % 0x10 = 8 then x.hwlen else 0#64)
  else if 0x200 ≤ o ∧ o < 0x800 then ((capWords s.capBodies 1 0x200).getD ((o - 0x200) / 4) 0#32).setWidth 64
  else if 0x800 ≤ o ∧ o < 0x840 then
    (let k : Fin 8 := Fin.ofNat 8 ((o - 0x800) / 8)
     if c.countHidden fn k then 0#64 else ((s.foldTimed fn k).ctx fn).pccnt.get k)
  else if 0x840 ≤ o ∧ o < 0x860 then (c.pcsel.get (Fin.ofNat 8 ((o - 0x840) / 4))).setWidth 64
  else if o = 0x860 then c.pcovf.setWidth 64
  else if o = 0x908 then 0#48 ++ d.reason ++ 0#2 ++ BitVec.ofBool att ++ BitVec.ofBool d.full ++ d.status
  else if 0x910 ≤ o ∧ o < 0x920 then lane (Fin.ofNat 4 ((o - 0x910) / 4))
  else if 0x1000 ≤ o ∧ o < 0x1400 then (s.queue fn (Fin.ofNat 16 ((o - 0x1000) / 0x40))).reg ((o - 0x1000) % 0x40)
  else if fn ≠ 0 then 0#64
  else if o = 0xF00 then s.trust.rcvaddr
  else if o = 0xF08 then 0#32 ++ s.trust.rcvstat ++ 0#26 ++ BitVec.ofBool s.trust.commit ++ 0#1
  else if o = 0xF0C then s.trust.rcvlen.setWidth 64
  else if 0x100000 ≤ o ∧ o < 0x120000 then (s.trust.logEntry ((o - 0x100000) / 32)).extractLsb' (8 * ((o - 0x100000) % 32)) 64
  else if 0x200000 ≤ o ∧ o < 0x300000 then
    (let n := s.node (BitVec.ofNat 16 ((o - 0x200000) / 0x20))
     if o % 0x20 = 0 then n.pushes.setWidth 64 else if o % 0x20 = 8 then n.preempts.setWidth 64
     else if o % 0x20 = 16 then n.bstall.setWidth 64 else if o % 0x20 = 24 then n.holb.setWidth 64 else 0#64)
  else if 0x300000 ≤ o ∧ o < 0x300800 then
    (s.fab.written.get (Fin.ofNat 64 ((o - 0x300000) / 0x20)) &&& lwReadMask).extractLsb' (8 * ((o - 0x300000) % 0x20)) 64
  else if o = 0x300800 then 0#39 ++ s.fab.npeer ++ 0#7 ++ s.fab.peer
  else if o = 0x300804 then s.fab.quota.setWidth 64
  else if o = 0x300808 then s.fab.en.setWidth 64
  else if o = 0x30080C then s.fab.lbsz.setWidth 64
  else if o = 0x300810 then BitVec.ofNat 64 s.fab.step
  else if o = 0x300818 then s.fab.stat.setWidth 64
  else if o = 0x300820 then s.fab.lwerr
  else if o = 0x300840 then s.fab.ckpeer.setWidth 64
  else if o = 0x300844 then 0#32 ++ s.fab.ckstat ++ 0#28
  else if 0x301000 ≤ o ∧ o < 0x321000 then
    (BitVec.ofNat 256 (readLE s.endpoints ((o - 0x301000) / 0x20 * 0x20) 32) &&& endpointReadMask).extractLsb' (8 * ((o - 0x301000) % 0x20)) 64
  else 0#64

/-! ### The physical aperture (R324) -/

/-- The key an aperture access uses; none where it is not performed. -/
def State.apertureKey (s : State) : Option Nat :=
  let asid := s.apctl.extractLsb' 0 16
  let c := if asid = 0#16 then some 0 else s.ctxOfAsid asid
  if !s.apctl.getLsbD 16 then some 0
  else match c with
    | none => none
    | some x => if (s.ctx x).key = 0 ∨ (s.ctx x).locked then none else some (s.ctx x).key

/-- The step APERTURE_ACCESS (R324): it goes to memory past every cache; a unit written whole can be read again (R280). -/
def execApertureAccess (off : BitVec 39) (write : Option (List Byte)) (count : Nat) (s : State) : Host.Outcome State Fault Refusal :=
  let pa := off.toNat
  .next (match s.apertureKey, write with
    | some k, some bs =>
      let bs := bs.take (2 ^ 39 - pa)
      let t := s.physWrite k pa bs
      { t with poison := t.poison.filter fun u => !(decide (pa ≤ 128 * u) && decide (128 * u + 128 ≤ pa + bs.length)) }
    | some k, none => { s with out := s.out ++ [.aperture (s.physRead k pa (min count (2 ^ 39 - pa)))] }
    | none, some _ => { s with apctl := s.apctl ||| 0x80000000#32 }
    | none, none => { s with apctl := s.apctl ||| 0x80000000#32, out := s.out ++ [.aperture (List.replicate count 0xFF#8)] })

/-! ### Counters that wrap (R328) -/

/-- The step COUNTER_OVERFLOW (R328): a counter of such an event wraps to 0; the others wrap as they count. -/
def execCounterOverflow (ctx : Fin 17) (k : Fin 8) (s : State) : Host.Outcome State Fault Refusal :=
  let x := s.ctx ctx
  .next (if x.timed k && s.releases ctx then
      s.addCount ctx k (2 ^ 48 - (x.pccnt.get k).toNat)
    else s)

/-! ### Reuse reports (R268) -/

/-- Whether a miss count of an interval of 65,536 accesses contradicts a class (R268). -/
def contradicts (cls : Fin 4) (misses : Nat) : Bool :=
  match cls with
  | 0 | 1 => decide (misses < 16384)
  | 2 => false
  | 3 => decide (49152 < misses)

/-- A report (R268). -/
def reportWord (wave : Word) (range : Fin 16) (cls : Fin 4) (dom : Fin 4) (misses : Nat) (tsc : DWord) : BitVec 128 :=
  wave ++ 0#8 ++ BitVec.ofNat 4 range.val ++ BitVec.ofNat 2 cls.val ++ BitVec.ofNat 2 dom.val ++
    BitVec.ofNat 8 (min 255 (misses / 256)) ++ 0#8 ++ tsc

/-- Write a report to its context's ring, or count it as dropped; a write that cannot be performed is left out. -/
def State.putReport (s : State) (c : Fin 17) (r : BitVec 128) : State :=
  let x := s.ctx c
  let asid := s.asidOf c
  let full := Config.reportRingFull s.ticks
  let s : State := { s with ticks := s.ticks + 1 }
  if full then s.addOne c (x.rpth + 4#64)
  else match s.readObject c x.rpth 4 with
    | .error e => e.2
    | .ok (bs, t) =>
      let va := offsetOf x.rpta + 16 * (ofBytes bs % 2 ^ x.rptn)
      ((t.gWrite 4 asid va (toBytes 16 r.toNat)).getD (t.logRange 4 c va 16 .w)).addOne c x.rpth

/-- Whether a report's accesses park behind the first faulter of a page (R176). -/
def State.reportHeld (s : State) (c : Fin 17) : Bool :=
  let x := s.ctx c
  s.objectHeld c x.rpth 8 || s.addHeld c x.rpth || s.rangeHeld 4 (s.asidOf c) (offsetOf x.rpta) (16 * 2 ^ x.rptn) .w

/-- When an L3 last reported on a range of a wave. -/
def State.lastReport (s : State) (wave : Word) (range : Fin 16) (dom : Fin 4) : Option DWord :=
  (s.reports.find? fun m => m.wave == wave && m.range == range && m.dom == dom).map (·.tsc)

/-- The step REUSE_REPORT (R268): at most one for each range and wave in a millisecond. -/
def execReuseReport (wave : Word) (range : Fin 16) (dom : Fin 4) (misses : Nat) (s : State) : Host.Outcome State Fault Refusal :=
  .next (match s.wave? wave with
    | none => s
    | some w => (match w.ranges[range.val]? with
      | none => s
      | some e =>
        if !s.online.getLsbD dom.val || s.reportHeld w.ctx || e.len == 0#32 || decide (65536 < misses) || !contradicts e.cls misses then s
        else
          let t := s.tick
          if (match s.lastReport wave range dom with
              | some x => decide ((t.tsc - x).toNat < 1000000)
              | none => false) then t
          else
            let u := t.putReport w.ctx (reportWord wave range e.cls dom misses t.tsc)
            { u with reports := ⟨wave, range, dom, t.tsc⟩ :: u.reports.filter fun m => !(m.wave == wave && m.range == range && m.dom == dom) }))

end Sys2Proof.Machine
end

