-- ==== Sys2Proof/Machine/Trust.lean ====
section
/-! DEFINITION. The trust die (R331–R339): power-on and the boot steps, recovery, resets, TDISP and SPDM, errors with their log and
self-tests, retirement of units (R198, R280, R281), temperature, power and firmware update, frequency (R278), retraining (R275). -/

set_option Elab.async false

namespace Sys2Proof.Machine

/-! ### Resets (R5, R331, R334) -/

/-- Whether a unit stands in the retirement record. -/
def Trust.isRetired (t : Trust) (u : ErrUnit) (loc : Nat) : Bool := (t.retired ++ t.retiredNow).any fun r => r.1 == u && r.2.toNat == loc

/-- The domains that have lost a die. -/
def Trust.lostDomains (t : Trust) : BitVec 4 :=
  (List.range 4).foldl (fun m d => if t.isRetired .computeDie d || t.isRetired .baseDie d then m ||| (1#4 <<< d) else m) 0#4

/-- The trust die at the start of a boot: what lives only in registers is lost, the non-volatile store and the log are kept. -/
def Trust.restart (t : Trust) (power : Power) : Trust :=
  { t with
    power := power
    measured := [(1, Config.measure 1 t.flash)]
    spdm := ⟨false, false, false, false, false, 0, []⟩
    image := t.flash
    rcvaddr := 0#64
    rcvstat := 0#4
    commit := false
    rcvlen := 0#32
    tests := []
    hbmHot := 0#8 }

/-- The package in reset, its planes down; the retirement record applies again (R336). What is outside the package stays, and
the model's own counters run on; `hbm` is what memory holds. -/
def State.inReset (s : State) (hbm : Mem) (poison : List Nat) (sealed : List (Nat × Nat)) (t : Trust) : State :=
  { State.reset with
    agenda := s.agenda
    ticks := s.ticks
    nextId := s.nextId
    hostMem := s.hostMem
    out := s.out
    hbm := hbm
    poison := poison
    sealed := sealed
    cores := Vector.ofFn fun k : Fin 192 => { CoreRec.reset with retired := t.isRetired .core k.val }
    online := ~~~t.lostDomains
    fab := { Fabric.reset with planes := 0#144 }
    trust := t }

/-! ### Boot steps (R333, R334) -/

/-- STATE and COUNT of a step (R333). -/
def Trust.stepCount (t : Trust) (k : Nat) : Nat := (t.record.extractLsb' (4 * k) 2).toNat
def Trust.stepState (t : Trust) (k : Nat) : BitVec 2 := t.record.extractLsb' (4 * k + 2) 2

/-- A record with STATE and COUNT of a step. -/
def Trust.setStep (t : Trust) (k : Nat) (st : BitVec 2) (count : Nat) : Trust :=
  { t with record := (t.record &&& ~~~((0xF : BitVec 64) <<< (4 * k))) |||
      (((st ++ BitVec.ofNat 2 (min count 2)).setWidth 64) <<< (4 * k)) }

/-- The kinds of a step (R333). -/
inductive StepKind where
  | required | altered | optional (dom : Fin 4) (other : Nat) | planes
deriving DecidableEq, Repr

def stepKind (k : Nat) : StepKind :=
  if k = 0 ∨ k = 12 then .required
  else if k = 1 ∨ k = 10 then .altered
  else if k = 11 then .planes
  else .optional (Fin.ofNat 4 (k - 2)) (if k < 6 then k + 4 else k - 4)

/-- The failures of a plane in step 11. -/
def Trust.planeCount (t : Trust) (p : Nat) : Nat := ((t.planeFails.find? fun x => x.1 == p).map (·.2)).getD 0

/-- The planes step 11 trains: those that have not failed twice and whose lanes are not retired, in ascending order. -/
def Trust.trainable (t : Trust) : List Nat :=
  (List.range 144).filter fun p => decide (t.planeCount p < 2) && !t.isRetired .tuiquelLane p

/-- The measurement index of what a step releases, if any (R331). -/
def stepMeasures (k : Nat) : Option Nat :=
  if k = 0 then some 2 else if 2 ≤ k ∧ k ≤ 9 then some (k + 1) else if k = 12 then some 11 else none

/-- A measurement register. -/
def Trust.setMeasured (t : Trust) (i : Nat) (x : BitVec 384) : Trust :=
  { t with measured := t.measured.filter (fun m => m.1 != i) ++ [(i, x)] }

/-- Skip a domain's step (R334): the domain stays offline. -/
def State.skipStep (s : State) (k : Nat) (d : Fin 4) : State :=
  { s with
    trust := s.trust.setStep k 1#2 (s.trust.stepCount k)
    skipped := s.skipped ||| (1#4 <<< d.val)
    online := s.online &&& ~~~(1#4 <<< d.val) }

/-- Go on booting at a step: the step that runs next, after those that are skipped; with no compute domain online booting ends (R334,
R335). -/
def State.bootFrom (s : State) (fuel k : Nat) : State :=
  let at_ : Power → State := fun p => { s with trust := { s.trust with power := p } }
  match fuel with
  | 0 => at_ (if s.online = 0#4 then .halted 12 else .up)
  | n + 1 =>
    if s.online = 0#4 then at_ (.halted (Fin.ofNat 13 (min k 12)))
    else if 13 ≤ k then at_ .up
    else match stepKind k with
      | .required => if s.trust.stepCount k = 2 then at_ (.recovery (Fin.ofNat 13 k)) else at_ (.booting (Fin.ofNat 13 k))
      | .altered =>
        if s.trust.stepCount k = 2 then { s with trust := { s.trust.setStep k 2#2 2 with power := .booting (Fin.ofNat 13 k) } }
        else at_ (.booting (Fin.ofNat 13 k))
      | .planes => if s.trust.trainable.isEmpty then State.bootFrom s n (k + 1) else at_ (.booting (Fin.ofNat 13 k))
      | .optional d other =>
        if s.trust.stepCount k = 2 ∨ s.trust.stepCount other = 2 then
          State.bootFrom (s.skipStep k d) n (k + 1)
        else at_ (.booting (Fin.ofNat 13 k))

/-- The package starts again at step 0. -/
def State.restart (s : State) (hbm : Mem) (poison : List Nat) (sealed : List (Nat × Nat)) (t : Trust) : State :=
  (s.inReset hbm poison sealed (t.restart (.booting 0))).bootFrom 14 0

/-- A step is done: its work is measured, and the next one runs. -/
def State.bootNext (s : State) (k : Nat) : State :=
  let t := match stepMeasures k with
    | some i => s.trust.setMeasured i (Config.measure i s.trust.image)
    | none => s.trust
  ({ s with trust := t } : State).bootFrom 14 (k + 1)

/-- A plane is trained, or fails (R333, R334): the step ends with the last plane it trains, and never fails the boot. -/
def State.planeResult (s : State) (p : Nat) (ok : Bool) : State :=
  let ps := s.trust.trainable
  if !ps.contains p then s
  else
    let rest := s.trust.planeFails.filter fun x => x.1 != p
    let t : State := { s with
      trust := { s.trust with planeFails := if ok then rest else (p, min 2 (s.trust.planeCount p + 1)) :: rest }
      fab := if ok then { s.fab with planes := s.fab.planes ||| (1#144 <<< p) } else s.fab }
    if ps.getLast? = some p then t.bootNext 11 else t

/-- The result of the boot step in progress (R334): success clears COUNT, failure starts again, a failed alternate ends booting. -/
def State.stepResult (s : State) (k : Nat) (plane : Fin 144) (ok : Bool) : State :=
  let alternate := stepKind k == .altered && s.trust.stepCount k == 2
  if k = 11 then s.planeResult plane.val ok
  else if alternate then
    (if ok then s.bootNext k else { s with trust := { s.trust with power := .halted (Fin.ofNat 13 k) } })
  else if ok then ({ s with trust := s.trust.setStep k 0#2 0 } : State).bootNext k
  else s.restart s.hbm s.poison s.sealed (s.trust.setStep k (s.trust.stepState k) (s.trust.stepCount k + 1))

/-- The step BOOT_STEP_RESULT (R334). -/
def execBootStepResult (step : Fin 13) (plane : Fin 144) (ok : Bool) (s : State) : Host.Outcome State Fault Refusal :=
  .next (if s.trust.power = .booting step then s.stepResult step.val plane ok else s)

/-- The step POWER_ON (R331, R339): what only power keeps is gone; frames retired for one power-on count again. -/
def execPowerOn (s : State) : Host.Outcome State Fault Refusal :=
  .next (s.restart [] [] [] { s.trust with retiredNow := [], pcap := 3600 })

/-- The step DEVICE_RESET (R5): registers take their reset values, and the package boots; memory is kept as it stands, the keys are
not. -/
def execDeviceReset (s : State) : Host.Outcome State Fault Refusal := .next (s.restart s.hbm s.poison s.sealed s.trust)

/-- The step BOOT_RECORD_CLEAR (R334). -/
def execBootRecordClear (s : State) : Host.Outcome State Fault Refusal :=
  .next { s with trust := { s.trust with record := 0#64, planeFails := [] } }

/-! ### Recovery (R335) -/

/-- Whether the recovery mailbox is exposed. -/
def Power.recovering (p : Power) : Option (Fin 13) :=
  match p with
  | .recovery k => some k
  | _ => none

/-- The step RECOVERY_GO (R335): a write of RCVCTL with GO, and COMMIT as written. -/
def execRecoveryGo (commit : Bool) (s : State) : Host.Outcome State Fault Refusal :=
  .next (match s.trust.power.recovering with
    | some _ => { s with trust := { s.trust with rcvstat := 1#4, commit := commit } }
    | none => s)

/-- The image the recovery mailbox names: RCVLEN bytes of host memory at RCVADDR (R335). -/
def State.recoveryImage (s : State) : List Byte := readBytes s.hostMem s.trust.rcvaddr.toNat s.trust.rcvlen.toNat

/-- The step RECOVERY_FETCH_END (R331, R335): whether the image, at most 64 MiB, was fetched, and whether it passed its check against the
signed manifest. -/
def execRecoveryFetchEnd (fetched passed : Bool) (s : State) : Host.Outcome State Fault Refusal :=
  let image := s.recoveryImage
  .next (match s.trust.power.recovering with
    | none => s
    | some k =>
      if s.trust.rcvstat ≠ 1#4 then s
      else if !fetched ∨ 67108864 < s.trust.rcvlen.toNat then
        { s with trust := { s.trust with rcvstat := 4#4 } }
      else if !passed then { s with trust := { s.trust with rcvstat := 3#4 } }
      else
        let t := { s.trust with rcvstat := 2#4, image := image }
        let t := if t.commit then { t.setStep k.val 0#2 0 with flash := image } else t
        ({ s with trust := t } : State).bootNext k.val)

/-- The step FIRMWARE_UPDATE (R338, R340): refused until a recovery ends; the new image runs from the next reset. -/
def execFirmwareUpdate (image : List Byte) (s : State) : Host.Outcome State Fault Refusal :=
  .next (match s.trust.power.recovering with
    | some _ => s
    | none => { s with trust := { s.trust with flash := image } })

/-! ### Function reset and TDISP (R323, R332) -/

/-- Take the work of a context off the device: its waves end, its tasks and entries go. -/
def State.dropWork (s : State) (c : Fin 17) : State :=
  let ids := (s.tasks.filter fun t => t.ctx == c).map (·.id)
  let ws := (s.waves.filter fun w => w.ctx == c).map (·.num)
  let s := ws.foldl (fun x w => x.endWave w (WaveEnd.plain 0#32 0)) s
  let cs := (s.cmds.filter fun k => k.ctx == c).map (·.id)
  let os := (s.fab.ops.filter fun o => o.ctx == c).map (·.seq) ++ (s.fab.replies.filter fun r => r.ctx == c).map (·.id)
  let ns := (s.netReqs.filter fun r => r.ctx == c).map (·.id) ++ (s.netReplies.filter fun r => r.ctx == c).map (·.id)
  let mine (e : Entry) : Bool := match e.kind with
    | .task id | .mxr id _ => ids.contains id
    | .wave w _ | .presence w => ws.contains w
    | .command id => cs.contains id
    | .packet q => os.contains q
    | .request id => ns.contains id
    | .gang _ | .octet _ => false
  { s with
    tasks := s.tasks.filter fun t => t.ctx != c
    waves := s.waves.filter fun w => w.ctx != c
    txns := s.txns.filter fun t => t.ctx != c
    cmds := s.cmds.filter fun k => k.ctx != c
    netReqs := s.netReqs.filter fun r => r.ctx != c
    netReplies := s.netReplies.filter fun r => r.ctx != c
    octets := s.octets.map fun o => { o with queue := o.queue.filter fun e => e.ctx != c }
    nodes := s.nodes.map fun n => { n with entries := n.entries.filter fun e => !mine e }
    launches := Vector.ofFn fun d : Fin 4 => (s.launches.get d).filter fun e => !mine e
    fab := { s.fab with ops := s.fab.ops.filter fun o => o.ctx != c, replies := s.fab.replies.filter fun r => r.ctx != c } }

/-- The step FUNCTION_RESET (R325, R332): the context holds no ASID, its keys are erased, and what it ran is gone; its caches are
written back first. A virtual function's host window is the physical function's to set, and stays. -/
def execFunctionReset (fn : Fin 17) (s : State) : Host.Outcome State Fault Refusal :=
  let s := match (s.ctx fn).asid with
    | some a => (s.dropWork fn).flushTag a 0 (2 ^ 56)
    | none => s.dropWork fn
  let c := s.ctx fn
  let fresh := if fn = 0 then Ctx.reset else { Ctx.reset with hwbase := c.hwbase, hwlen := c.hwlen }
  .next { s.setCtx fn fresh with dbg := s.dbg.set fn ⟨0#8, false, 0#4, none, Lanes.all 0#32⟩ }

/-- The step TDISP_LOCK (R323): of a virtual function's interface. -/
def execTdispLock (fn : Fin 17) (s : State) : Host.Outcome State Fault Refusal :=
  .next (if fn ≠ 0 ∧ (s.ctx fn).tdisp = .unlocked then s.setCtx fn { s.ctx fn with tdisp := .locked } else s)

/-- The step TDISP_RUN (R323): from LOCKED. -/
def execTdispRun (fn : Fin 17) (s : State) : Host.Outcome State Fault Refusal :=
  .next (if fn ≠ 0 ∧ (s.ctx fn).tdisp = .locked then s.setCtx fn { s.ctx fn with tdisp := .run } else s)

/-! ### SPDM (R331) -/

/-- Answer an SPDM request: the message's form is the protocol's own. -/
def State.spdmAnswer (s : State) (req : Nat) (content : List Byte) : State :=
  { s with out := s.out ++ [.spdm (Config.spdmMessage req s.ticks content)], ticks := s.ticks + 1 }

/-- Change the responder. -/
def State.modSpdm (s : State) (f : Spdm → Spdm) : State := { s with trust := { s.trust with spdm := f s.trust.spdm } }

/-- An answer that changes the responder where the request comes in its turn; else an error answer, number 0. -/
def State.spdmStep (s : State) (req : Nat) (ok : Bool) (content : List Byte) (f : Spdm → Spdm) : State :=
  if ok then (s.modSpdm f).spdmAnswer req content else s.spdmAnswer 0 []

/-- The step GET_VERSION: it starts a negotiation anew. -/
def execGetVersion (s : State) : Host.Outcome State Fault Refusal :=
  .next (s.spdmStep 0x84 true [] fun p => ⟨true, false, false, false, false, 0, p.ide⟩)

/-- The step GET_CAPABILITIES. -/
def execGetCapabilities (s : State) : Host.Outcome State Fault Refusal :=
  .next (s.spdmStep 0xE1 s.trust.spdm.version [] fun p => { p with caps := true })

/-- The step NEGOTIATE_ALGORITHMS: ECDSA P-384, SHA-384 and AES-256-GCM. -/
def execNegotiateAlgorithms (offer : SpdmOffer) (s : State) : Host.Outcome State Fault Refusal :=
  .next (s.spdmStep 0xE3 (s.trust.spdm.caps && offer.ecdsaP384 && offer.sha384 && offer.aes256Gcm) [] fun p => { p with algs := true })

/-- The step GET_DIGESTS. -/
def execGetDigests (s : State) : Host.Outcome State Fault Refusal := .next (s.spdmStep 0x81 s.trust.spdm.algs [] id)

/-- The step GET_CERTIFICATE. -/
def execGetCertificate (s : State) : Host.Outcome State Fault Refusal := .next (s.spdmStep 0x82 s.trust.spdm.algs [] id)

/-- The step CHALLENGE. -/
def execChallenge (nonce : BitVec 256) (s : State) : Host.Outcome State Fault Refusal :=
  .next (s.spdmStep 0x83 s.trust.spdm.algs (toBytes 32 nonce.toNat) id)

/-- The measurements a response reports: those of an index, or all of them for 0xFF; index 12 is of LDCFG and the record. -/
def State.measurements (s : State) (index : BitVec 8) : List (Nat × BitVec 384) :=
  (s.trust.measured ++ [(12, Config.measure 12 (toBytes 4 s.ldcfg.toNat ++ toBytes 8 s.trust.record.toNat))]).filter fun m =>
    index == 0xFF#8 || BitVec.ofNat 8 m.1 == index

/-- The step GET_MEASUREMENTS: a die that was skipped has none. -/
def execGetMeasurements (index : BitVec 8) (s : State) : Host.Outcome State Fault Refusal :=
  .next (s.spdmStep 0xE0 s.trust.spdm.algs
    ((s.measurements index).flatMap fun m => BitVec.ofNat 8 m.1 :: toBytes 48 m.2.toNat) id)

/-- The step KEY_EXCHANGE. -/
def execKeyExchange (share : BitVec 768) (s : State) : Host.Outcome State Fault Refusal :=
  .next (s.spdmStep 0xE4 s.trust.spdm.algs (toBytes 96 share.toNat) fun p => { p with opened := true, finished := false, updates := 0 })

/-- The step FINISH: a session whose requester is verified is up, another is closed. The stream keys of PCIe IDE are set through the session;
the request that sets them is none of those listed, so they are set with it (R331, log 20). -/
def execFinish (verified : Bool) (s : State) : Host.Outcome State Fault Refusal :=
  .next (if s.trust.spdm.opened && !s.trust.spdm.finished && !verified then
      (s.modSpdm fun p => { p with opened := false }).spdmAnswer 0 []
    else s.spdmStep 0xE5 (s.trust.spdm.opened && !s.trust.spdm.finished) [] fun p =>
      { p with finished := true, ide := p.ide ++ [Config.spdmMessage 0 s.ticks []] })

/-- The step KEY_UPDATE: of a session that is up. -/
def execKeyUpdate (s : State) : Host.Outcome State Fault Refusal :=
  .next (s.spdmStep 0xE9 s.trust.spdm.finished [] fun p => { p with updates := p.updates + 1 })

/-! ### The error log (R337) -/

/-- UNIT of an error; an error of a whole die is told as one of its links (log). -/
def unitCode (u : ErrUnit) : BitVec 8 :=
  match u with
  | .core => 1#8
  | .l2WayGroup => 2#8
  | .l3Bank => 3#8
  | .hbmFrame => 4#8
  | .dieToDie => 5#8
  | .tuiquelLane => 6#8
  | .pageTable => 7#8
  | .computeDie => 5#8
  | .baseDie => 5#8

/-- LOC of an error: the stack of a frame, else the unit's number. -/
def errLoc (u : ErrUnit) (loc : Word) : Word := if u == .hbmFrame then BitVec.ofNat 32 (loc.toNat * 65536 / 2 ^ 36) else loc

/-- Whether an entry is of an error of a unit: of a frame where its address lies in it. -/
def LogEntry.unitOf (e : LogEntry) (u : ErrUnit) (loc : Word) : Bool :=
  e.unit == unitCode u && e.loc == errLoc u loc && (u != .hbmFrame || e.addr.toNat / 65536 == loc.toNat)

/-! ### Errors (R197, R229, R280, R336) -/

/-- A structure's self-test starts; a running one is joined (R336). A core under test issues nothing (R198). -/
def State.startTest (s : State) (u : ErrUnit) (loc : Word) : State :=
  if s.trust.tests.any fun t => t.1 == u && t.2.1 == loc then s
  else
    let s : State := { s with trust := { s.trust with tests := s.trust.tests ++ [(u, loc, s.trust.logged)] } }
    if u == .core then s.setCore loc.toNat { s.core loc.toNat with testing := true } else s

/-- Detail [63:0] of an error in a B-stack row (R197): 0xFC, the column slice and the row. -/
def bstackDetail (column : Fin 32) (row : Fin 512) : DWord :=
  0xFC#8 ++ 0#3 ++ BitVec.ofNat 5 column.val ++ 0#39 ++ BitVec.ofNat 9 row.val

/-- What consumes an uncorrected error (R197): the wave of the slice ends with group 0x0E, its detail the log position of the error, whose
entry is the newest, and the place. -/
def State.consumeError (s : State) (k : ErrConsumer) : State :=
  let hit (core slot : Nat) (case : BitVec 8) (a : DWord) : State := match s.sliceAt core slot with
    | some sl => s.endWave sl.wave (WaveEnd.hardware case (s.trust.entryIndex fun _ => true) a sl.pc core)
    | none => s
  match k with
  | .none => s
  | .registerFile core slot => hit core slot 1#8 0#64
  | .controlState core slot => hit core slot 2#8 0#64
  | .storeWord core slot addr => hit core slot 3#8 addr
  | .bstackRow core slot column row => hit core slot 3#8 (bstackDetail column row)
  | .tileEntry core oct addr => s.tileError core oct addr

/-- Data that cannot be read correctly is poisoned, unit by unit (R280). -/
def State.poisonAt (s : State) (u : ErrUnit) (pa : Nat) : State :=
  if (u == .l2WayGroup || u == .l3Bank || u == .hbmFrame) && !s.poison.contains (pa / 128) then
    { s with poison := s.poison ++ [pa / 128] }
  else s

/-- CLASS of an entry before its test has ended: an uncorrected error that nothing consumed is logged only (R197), another counts
as transient until its test fails. -/
def eventClass (e : ErrorEvent) : BitVec 8 := if e.uncorrected && e.consumer == .none then 3#8 else 1#8

/-- The step ERROR_DETECTED (R197, R336, R337). -/
def execErrorDetected (e : ErrorEvent) (s : State) : Host.Outcome State Fault Refusal :=
  let t := s.startTest e.unit e.loc
  let t := t.tick
  let t := t.logError ⟨t.tsc, e.addr, e.ctx, errLoc e.unit e.loc, unitCode e.unit, eventClass e, if e.uncorrected then 2#8 else 1#8⟩
  .next (if e.uncorrected then (t.poisonAt e.unit e.addr.toNat).consumeError e.consumer else t)

/-! ### Retirement (R198, R280, R281, R336) -/

/-- Write a retirement to the record (R336): beyond 4,096 frames it holds for the current power-on only. -/
def Trust.retire (t : Trust) (u : ErrUnit) (loc : Word) : Trust :=
  if u == .hbmFrame && decide (4096 ≤ (t.retired.filter fun r => r.1 == .hbmFrame).length) then
    { t with retiredNow := t.retiredNow ++ [(u, loc)], overflow := true }
  else { t with retired := t.retired ++ [(u, loc)] }

/-- The fills that an operation would make from a tile queue. -/
def TxnKind.fromTiles (k : TxnKind) : Bool :=
  match k with
  | .taccr _ => true
  | _ => false

/-- Retire a core (R198): the waves with slices on it end, its shares are freed, its leaves are emptied, the commands of its slices and
the tile instructions of its octets are discarded with what waits for them (R216, R245). -/
def State.retireCore (s : State) (k : Nat) (index : BitVec 16) : State :=
  let s := s.endOnCores (· == k) index
  let s := (s.setCore k { s.core k with retired := true, testing := false, shares := [] }).keepCmds fun c => c.core != k || c.task.isSome
  let leaf (n : BitVec 16) : Bool := n == waveLeaf k || n == matrixLeaf k || n == copyLeaf k
  { s with
    nodes := s.nodes.map fun n => if leaf n.node then { n with entries := [] } else n
    serving := s.serving.filter fun v => !leaf v.node
    octets := s.octets.filter fun o => o.core != k
    txns := s.txns.filter fun t => t.core != k || !t.kind.fromTiles
    qfences := s.qfences.filter fun f => f.core != k }

/-- The pages whose frame holds a 64 KiB frame. -/
def State.pagesOf (s : State) (frame : Nat) : List PageEntry :=
  s.allPages.filter fun p => decide (p.leaf.frame ≤ frame * 65536) && decide (frame * 65536 < p.leaf.frame + 2 ^ pageShift p.leaf.size)

/-- Retire a frame (R280): its data goes to a frame of the owning context's pool in the same domain, or its pages are stranded. -/
def State.retireFrame (s : State) (frame : Nat) : State :=
  let ps := s.pagesOf frame
  let s := ps.foldl (fun x p => x.flushTag (x.pageTag p) p.va (2 ^ pageShift p.leaf.size)) s
  let inside (big : Bool) (f : Nat) : Bool := decide (f ≤ frame * 65536) && decide (frame * 65536 < f + if big then 2 ^ 21 else 65536)
  let clean (c : Ctx) : Ctx := { c with pools := c.pools.map fun q => { q with frames := q.frames.filter fun f => !inside q.big f } }
  let s : State := { s with ctxs := s.ctxs.map clean }
  match ps with
  | [] => s
  | p :: _ => (s.moveShared p ps (frameDomain p.leaf.frame)).1

/-- A cache that has lost a part gives up the lines it has no room for any more (R280). -/
def State.trimCache (s : State) (c : Cache) (dom : Nat) : State :=
  ((s.heldIn c dom).drop (s.capacity c dom)).foldl (fun x l => x.evictBits c l.asid l.va) s

/-- The ring position of the newest log entry of a unit's errors (R166, R337). -/
def State.unitIndex (s : State) (u : ErrUnit) (loc : Word) : BitVec 16 := s.trust.entryIndex fun e => e.unitOf u loc

/-- The effect of retiring a unit; a link or a page table has none. The retirement record already lists the unit, so that its cache has
less room (R280); what the lines it gives up were written stays the data of their locations, seen as after an eviction (R257, R324). -/
def State.retireUnit (s : State) (u : ErrUnit) (loc : Word) : State :=
  match u with
  | .core => s.retireCore loc.toNat (s.unitIndex .core loc)
  | .l2WayGroup => s.trimCache (.l2 (loc.toNat / 384)) (loc.toNat / 384)
  | .l3Bank => s.trimCache .l3 (loc.toNat / 48)
  | .hbmFrame => s.retireFrame loc.toNat
  | .computeDie => (s.offlineDomain (Fin.ofNat 4 loc.toNat) none true (s.unitIndex .computeDie loc)).state
  | .baseDie => (s.offlineDomain (Fin.ofNat 4 loc.toNat) none false (s.unitIndex .baseDie loc)).state
  | .tuiquelLane => { s with fab := { s.fab with planes := s.fab.planes &&& ~~~(1#144 <<< loc.toNat) } }
  | .dieToDie => s
  | .pageTable => s

/-- Whether a unit can be retired (R336). -/
def retirable (u : ErrUnit) : Bool := u != .dieToDie && u != .pageTable

/-- The entries of a test's errors become lasting. -/
def Trust.markLasting (t : Trust) (u : ErrUnit) (loc : Word) (since : Nat) : Trust :=
  { t with log := t.log.zipIdx.map fun e =>
      if decide (e.2 < t.logged - since) && e.1.unitOf u loc && e.1.cls != 4#8 then { e.1 with cls := 2#8 }
      else e.1 }

/-- The step SELF_TEST_END (R198, R336). -/
def execSelfTestEnd (unit : ErrUnit) (loc : Word) (pass : Bool) (s : State) : Host.Outcome State Fault Refusal :=
  .next (match s.trust.tests.find? fun t => t.1 == unit && t.2.1 == loc with
    | none => s
    | some t =>
      let s : State := { s with trust := { s.trust with tests := s.trust.tests.filter fun x => x != t } }
      let s := if unit == .core then s.setCore loc.toNat { s.core loc.toNat with testing := false } else s
      if pass || !retirable unit then s
      else { s with trust := (s.trust.markLasting unit loc t.2.2).retire unit loc }.retireUnit unit loc)

/-! ### Frequency, temperature, power (R278, R338, R339) -/

/-- Move a core one step down, not below 2.2 GHz. -/
def State.slowCore (s : State) (k : Nat) : State := if 22 < (s.core k).freq then s.shiftFreq k false else s

/-- The step FREQUENCY_DECAY (R278): a core without a budgeted flip for 100 µs moves one step back towards 2.7 GHz in each further
100 µs; up to it only where no limit overrides the step. -/
def execFrequencyDecay (core : Nat) (s : State) : Host.Outcome State Fault Refusal :=
  let t := s.tick
  let r := t.core core
  let recent (x : DWord) : Bool := decide ((t.tsc - x).toNat < 100000)
  .next (if recent r.decayed || (r.flips.any fun f => f.times.any recent) || r.freq == 27 then t
    else if r.freq < 27 ∧ Config.overLimit t.ticks (dieOfCore core) then { t with ticks := t.ticks + 1 }
    else (t.setCore core { r with decayed := t.tsc }).shiftFreq core (decide (r.freq < 27)))

/-- The step TEMP_THROTTLE (R338): the cores of a compute die move one step down. -/
def execTempThrottle (die : DieId) (s : State) : Host.Outcome State Fault Refusal :=
  .next (match die with
    | .compute d => ((List.range 48).map fun i => 48 * d.val + i).foldl State.slowCore s
    | .trust => s
    | .command => s
    | .base _ => s)

/-- The step TEMP_SHUTDOWN (R338): a log entry is kept, and nothing runs until power comes on again. -/
def execTempShutdown (_ : DieId) (s : State) : Host.Outcome State Fault Refusal :=
  let t := s.tick
  let x := Config.shutdownEntry t.ticks
  let u := t.logError ⟨t.tsc, 0#64, 0xFFFF#16, x.extractLsb' 24 32, x.extractLsb' 16 8, x.extractLsb' 8 8, x.extractLsb' 0 8⟩
  .next (({ u with ticks := u.ticks + 1 } : State).inReset [] [] [] (u.trust.restart .shutdown))

/-- The step HBM_TEMP_REFRESH (R338). -/
def execHbmTempRefresh (stack : Fin 8) (s : State) : Host.Outcome State Fault Refusal :=
  .next { s with trust := { s.trust with hbmHot := s.trust.hbmHot ||| (1#8 <<< stack.val) } }

/-- The step PCAP_SET (R339): 1,500 W to 3,600 W. -/
def execPcapSet (watts : Nat) (s : State) : Host.Outcome State Fault Refusal :=
  .next (if 1500 ≤ watts ∧ watts ≤ 3600 then { s with trust := { s.trust with pcap := watts } } else s)

/-- The step PCAP_LIMIT_REACHED (R339): every core moves one step down. -/
def execPcapLimitReached (s : State) : Host.Outcome State Fault Refusal := .next ((List.range 192).foldl State.slowCore s)

/-- The step DIE_TO_DIE_LINK_RETRAINING (R275): it delays the writes on their way, whose order and times are free anyway. -/
def execDieToDieLinkRetraining (_ _ : Fin 5) (s : State) : Host.Outcome State Fault Refusal := .next s

end Sys2Proof.Machine
end

