-- ==== Sys2Proof/Machine/Events.lean ====
section
/-! DEFINITION. The steps of the memory side and of a slice's outstanding operations: fills (R34), stores at the core and die points
(R149), the application of a write at a die (R270), page walks and late faults (R169, R171, R176, R261, R264), trap entry (R167). -/

set_option Elab.async false

namespace Sys2Proof.Machine

/-! ### What may be performed -/

/-- Whether every lane of an operation is translated with its permission granted. -/
def State.allGranted (s : State) (t : Txn) : Bool := t.lanes.all (s.laneGranted t)

/-- Whether an operation may be performed now. -/
def State.ready (s : State) (t : Txn) : Bool := s.allGranted t && s.mayPerform t

/-- Whether a record an operation reads stands on a page whose first faulter is outstanding (R176). -/
def State.recordHeld (s : State) (t : Txn) (a : DWord) : Bool :=
  windowOf a == some .global && s.rangeHeld (coreDie t.core) (s.txnAsid t) (offsetOf a) 64 .r

/-- The record an operation reads when it completes: a QPUSH to a node it may not push to reads none (R100). -/
def State.recordRead (s : State) (t : Txn) : Option DWord :=
  let here (a : DWord) : Option DWord := if (s.readRecord (coreDie t.core) t.ctx a).isSome then some a else none
  match t.kind with
  | .qpush a node => if (s.pushTask (coreDie t.core) t.ctx a node none).1 = statusWord 1 0 then none else here a
  | .nsend a => here a
  | .npost a => here a
  | _ => none

/-- The address of an operation's access, or of the record it reads, that holds data which could not be read correctly (R280). -/
def State.poisonOf (s : State) (t : Txn) : Option DWord :=
  if s.poison.isEmpty then none
  else match t.lanes.find? fun l => windowOf l.addr == some .global && s.poisoned (s.txnAsid t) l.off t.size with
    | some l => some l.addr
    | none => (s.recordRead t).bind fun a => if s.poisoned (s.txnAsid t) (offsetOf a) 64 then some a else none

/-- An operation that met such data is over; a command whose descriptor it was is none any more. -/
def State.dropRead (s : State) (t : Txn) : State :=
  match t.kind with
  | .command c => (s.dropTxn t.id).keepCmds fun x => x.id != c
  | _ => s.dropTxn t.id

/-- Perform an operation, unless it meets such data: that ends its wave (R197, R237, R280). -/
def State.unlessPoisoned (s : State) (t : Txn) (perform : State → State) : State :=
  match s.poisonOf t with
  | some a => (s.dropRead t).endPoisoned t.wave t.core a ((t.parts.head?.map (·.pc)).getD 0#64)
  | none => perform s

/-- Fill a pair of every part with a doubleword. -/
def State.fillPair (s : State) (t : Txn) (x : DWord) : State :=
  t.parts.foldl (fun y p => y.modSlice p.sid fun sl => sl.fillPart p p.mask (Lanes.all x.lo) (Lanes.all x.hi)) s

/-! ### Fills (R34) -/

/-- A WAITW takes a word that stands in its mailbox, if it is the head waiter (R98). -/
def State.takeWord (s : State) (t : Txn) (m : Fin 64) : State :=
  let b := (s.ctx t.ctx).mailboxes.get m
  if b.pend && ((s.waiters t.ctx m).head?.map (·.id)) == some t.id then
    let s := s.setCtx t.ctx { s.ctx t.ctx with mailboxes := (s.ctx t.ctx).mailboxes.set m { b with pend := false } }
    (t.parts.foldl (fun y p => y.fillWord p b.value) s).dropTxn t.id
  else s

/-- The read of a WAITV: it fills when the word has reached the threshold in serial order (R99); a context save cancels the wait until
its restore (R97). -/
def State.readWait (s : State) (t : Txn) (threshold : Word) : State :=
  match t.lanes with
  | [] => s.dropTxn t.id
  | l :: _ =>
    if !s.ready t || s.inSaved t then s
    else s.unlessPoisoned t fun s =>
      let s := s.fillLanes t t.lanes
      let x : Word := BitVec.ofNat 32 (ofBytes (s.readWindow t.core t.wave (s.txnAsid t) l.addr 4))
      let s := s.noteRead t t.lanes
      if (x - threshold).toNat < 2 ^ 31 then ((t.parts.foldl (fun y p => y.fillWord p x) s).dropTxn t.id).noteAcquire t else s

/-- Whether a record may be read: the operation may be performed, and its read does not park (R176). -/
def State.recordReady (s : State) (t : Txn) (a : DWord) : Bool := s.ready t && !s.recordHeld t a

/-- An outstanding operation completes, where it may: the registers it names are filled. -/
def State.completeTxn (s : State) (t : Txn) : State :=
  match t.kind with
  | .load _ | .atomic .. | .amaxx => if s.ready t then s.unlessPoisoned t fun x => x.completeAccess t else s
  | .barr budg => if s.ready t then (s.performBarr t budg).dropTxn t.id else s
  | .bart phase => if s.ready t then (s.performBart t phase).dropTxn t.id else s
  | .waitw m => if s.inSaved t then s else s.takeWord t m
  | .waitv threshold => s.readWait t threshold
  | .qpush a node =>
    if s.recordReady t a && !s.releaseDue (node.setWidth 16) then s.unlessPoisoned t fun x => (x.noteRead t []).completeQpush t a node else s
  | .fpool big dom => let r := s.takeFrame t.ctx big dom; (r.2.fillPair t r.1).dropTxn t.id
  | .ptew va e => let r := s.ptew t.ctx va e; (t.parts.foldl (fun y p => y.fillWord p r.1) r.2).dropTxn t.id
  | .trule index => if s.ready t then s.unlessPoisoned t fun x => (x.noteRead t t.lanes).performTrule t index else s
  | .trwq sel clr => s.performTrwq t sel clr
  | .command id => if s.ready t then s.unlessPoisoned t fun x => (x.noteRead t t.lanes).enterCommand t id else s
  | .xarr => if s.ready t && s.mayArrive t then s.completeXarr t else s
  | .xwait step => if s.mayPerform t && s.crossedAt step && !s.inSaved t then s.completeXwait t step else s
  | .xfence => if s.ready t && t.parts.all (fun p => s.opsAcked p.sid t.id) && !s.inSaved t then s.completeXfence t else s
  | .nsend a => if s.recordReady t a then s.unlessPoisoned t fun x => (x.noteRead t []).completeNet t false a else s
  | .npost a => if s.recordReady t a then s.unlessPoisoned t fun x => (x.noteRead t []).completeNet t true a else s
  | .store _ => s
  | .fence .. => s
  | .taccr _ => s
  | .token _ => s
  | .stx _ => s
  | .amx .. => s
  | .ldx => s
  | .amxr _ => s
  | .wake .. => s

/-- An outstanding operation by its number. -/
def State.txn? (s : State) (id : Nat) : Option Txn := s.txns.find? fun t => t.id == id

/-- The step REGISTER_FILL (R34). -/
def execRegisterFill (id : Nat) (s : State) : Host.Outcome State Fault Refusal :=
  .next (match s.txn? id with
    | some t => s.completeTxn t
    | none => s)

/-- The step WAITV_RECHECK (R99): a WAITV reads its word again. -/
def execWaitvRecheck (id : Nat) (s : State) : Host.Outcome State Fault Refusal :=
  .next (match s.txn? id with
    | some t => (match t.kind with
      | .waitv threshold => s.readWait t threshold
      | _ => s)
    | none => s)

/-! ### Stores (R149) -/

/-- A store reaches its core's L1, unless a landing window captures it (R149, R350). -/
def State.reachCore (s : State) (t : Txn) : State :=
  if t.lanes.all fun l => windowOf l.addr == some .global && (s.landing? t.ctx l.off).isNone then
    { s with nextId := s.nextId + 1, txns := s.txns.map fun u => if u.id == t.id then { u with atCore := u.atCore.or (some s.nextId) } else u }
  else s

/-- The step STORE_DIE_POINT (R149): a store is performed, or, with `coreOnly`, visible in its core; an operation of group 0xE is
accepted by the fabric engine (R344). -/
def execStoreDiePoint (id : Nat) (coreOnly : Bool) (s : State) : Host.Outcome State Fault Refusal :=
  .next (match s.txn? id with
    | none => s
    | some t =>
      if !s.ready t then s
      else match t.kind with
        | .store _ => if coreOnly then s.reachCore t
          else s.unlessPoisoned t fun x => (x.performLanes t t.lanes t.parts).dropTxn t.id
        | k => if k.isFabric && !t.accepted && !coreOnly then s.acceptFabric t else s)

/-- The step WRITE_APPLY_AT_DIE (R270): a write that its home cannot apply yet takes its place in the home order there (R271). -/
def execWriteApplyAtDie (id : Nat) (die : Fin 5) (s : State) : Host.Outcome State Fault Refusal :=
  .next (match s.writes.find? fun w => w.id == id with
    | some w => if s.mayApply w die then s.applyWrite w die else if s.mayPlace w die then s.placeWrite w else s
    | none => s)

/-! ### Page walks (R176, R261, R264) -/

/-- The accesses that need a walk of a page, the oldest operation's first. -/
def State.walkLanes (s : State) (asid : BitVec 16) (page : Nat) : List (Txn × LaneAcc) :=
  s.txns.flatMap fun t =>
    if s.txnAsid t == asid then
      (t.lanes.filter fun l => windowOf l.addr == some .global && l.off / 65536 == page && l.xlat.isNone && !s.txnGranted t l.off).map fun l => (t, l)
    else []

/-- The access a walk of a page is for: the one to its address, else the oldest. -/
def State.walkLane (s : State) (asid : BitVec 16) (va : Nat) : Option (Txn × LaneAcc) :=
  let ls := s.walkLanes asid (va / 65536)
  (ls.find? fun x => x.2.off == va).or ls.head?

/-- An access whose fault nobody takes is left out: its slice has ended (R89), or the debugger has taken its register (R180). -/
def State.dropLane (s : State) (t : Txn) (l : LaneAcc) : State :=
  match t.kind with
  | .command c => { s.dropTxn t.id with cmds := s.cmds.filter fun x => x.id != c }
  | _ => { s with txns := s.txns.map fun u => if u.id == t.id then { u with lanes := u.lanes.filter fun m => m != l } else u }

/-- The walk's fault makes the access the page's first faulter (R176). -/
def State.walkFault (s : State) (t : Txn) (l : LaneAcc) (g : BitVec 5) (k : BitVec 8) : State :=
  if (s.slice? l.sid).isNone || t.discarded l.sid then s.dropLane t l
  else { s with firstFaults := s.firstFaults ++ [⟨s.txnAsid t, l.off / 65536, l.sid, none, g, k⟩] }

/-- The walk for an access. -/
def State.walkFor (s : State) (t : Txn) (l : LaneAcc) : State :=
  match s.walk (s.txnAsid t) l.off with
  | .leaf e => if e.grants t.kind.acc then s.installLeaf (s.txnVia t l.off) (s.txnAsid t) l.off e else s.walkFault t l 5#5 5#8
  | .fault g k => s.walkFault t l g k
  | .malformed pa => (s.logMalformed t.ctx pa).walkFault t l 6#5 1#8

/-- The step PAGE_WALK (R261): the walk unit of a page takes an access that waits for it, while no first faulter is outstanding: any of
them (R251). -/
def execPageWalk (asid : BitVec 16) (va : DWord) (s : State) : Host.Outcome State Fault Refusal :=
  .next (if s.pageHeld asid (offsetOf va) then s
    else match s.walkLane asid (offsetOf va) with
      | some (t, l) => s.walkFor t l
      | none => s)

/-! ### Late faults and trap entry (R167, R169) -/

/-- A report reaches a slice: it is taken at once where its gang issues nothing, held by the debugger for another member among others,
else at its next boundary; a slice without a slot, and one the debugger holds, keeps it. -/
def State.reportTo (s : State) (sid : Nat) : State :=
  match s.slice? sid with
  | none => s
  | some sl =>
    if sl.pend.isSome || sl.late then s
    else if sl.place == .resident && !sl.stopped && (match s.gangOf sid with
        | some g => !s.mayIssue g
        | none => false) then s.raiseTrap sid (lateReport sl)
    else s.modSlice sid fun x => { x with late := true }

/-- The step LATE_FAULT_REPORT (R169): the faults of an operation are reported to its slices. -/
def execLateFaultReport (id : Nat) (s : State) : Host.Outcome State Fault Refusal :=
  .next (match s.txn? id with
    | none => s
    | some t => (t.parts.filter fun p => t.lanes.any fun l => l.sid == p.sid && s.laneFaulted t l).foldl
        (fun x p => x.reportTo p.sid) s)

/-- The step TRAP_ENTRY (R167): a slice that waits for its entry enters its handler, where it may. -/
def execTrapEntry (core slot : Nat) (s : State) : Host.Outcome State Fault Refusal :=
  .next (match s.sliceAt core slot with
    | some sl => s.tryEnter sl.sid
    | none => s)

end Sys2Proof.Machine
end

