-- ==== Sys2Proof/Machine/VectorFp.lean ====
section
/-! DEFINITION. Groups 0x5 and 0x6: real floating point (R115–R119) and complex arithmetic (R120–R123). -/

set_option Elab.async false

namespace Sys2Proof.Machine

/-- FADD (R115): a + b, rounded once. -/
def execFadd (d : VDst) (a b : VSrc) (m : Option Modifier) (s : State) : Host.Outcome State Fault Refusal :=
  .next (s.vec2 d a b m (arithCheck realFmt) (fpForm m fun rm x y _ => FVal.add rm x y))

/-- FSUB (R115). -/
def execFsub (d : VDst) (a b : VSrc) (m : Option Modifier) (s : State) : Host.Outcome State Fault Refusal :=
  .next (s.vec2 d a b m (arithCheck realFmt) (fpForm m fun rm x y _ => FVal.add rm x y.negate))

/-- FMUL (R115). -/
def execFmul (d : VDst) (a b : VSrc) (m : Option Modifier) (s : State) : Host.Outcome State Fault Refusal :=
  .next (s.vec2 d a b m (arithCheck realFmt) (fpForm m fun _ x y _ => x.mul y))

/-- FFMA (R115): a × b + d, rounded once. -/
def execFfma (d : VDst) (a b : VSrc) (m : Option Modifier) (s : State) : Host.Outcome State Fault Refusal :=
  .next (s.vec2 d a b m (arithCheck realFmt) (fpForm m fun rm x y z => fmaExact rm x y z))

/-- FFMS (R115): d − a × b, rounded once. -/
def execFfms (d : VDst) (a b : VSrc) (m : Option Modifier) (s : State) : Host.Outcome State Fault Refusal :=
  .next (s.vec2 d a b m (arithCheck realFmt) (fpForm m fun rm x y z => fmaExact rm x.negate y z))

/-- FMIN and FMAX per element (R116): an operand is returned without rounding. -/
def minmaxForm (big : Bool) (m : Option Modifier) (sl : Slice) (a b d : Word) : Word × Flags :=
  let f := sl.realFmt
  let ftz := modeFtz sl.mode
  let w := modOf m
  elemOp (fmtWidth f) a b d fun x y _ =>
    let r := fminmax f big (signFp w.absa w.nega (decFp f ftz x)) (signFp w.absb w.negb (decFp f ftz y))
    (bitsOf f r.1, r.2)

/-- FMIN (R116). -/
def execFmin (d : VDst) (a b : VSrc) (m : Option Modifier) (s : State) : Host.Outcome State Fault Refusal :=
  .next (s.vec2 d a b m (arithCheck realFmt) (minmaxForm false m))

/-- FMAX (R116). -/
def execFmax (d : VDst) (a b : VSrc) (m : Option Modifier) (s : State) : Host.Outcome State Fault Refusal :=
  .next (s.vec2 d a b m (arithCheck realFmt) (minmaxForm true m))

/-- A condition of FCMP (R117). -/
def fcondHolds (c : FCond) (a b : FVal) : Bool :=
  match c with
  | .eq => a.cmp b == some 0
  | .ne => a.cmp b != some 0
  | .lt => a.lt b
  | .le => a.lt b || a.cmp b == some 0
  | .gt => b.lt a
  | .ge => b.lt a || a.cmp b == some 0
  | .un => a.isNan || b.isNan
  | .ord => !(a.isNan || b.isNan)

/-- FCMP (R117): quiet; only a signalling NaN sets NV. -/
def execFcmp (d : FCmp) (a b : VSrc) (m : Option Modifier) (s : State) : Host.Outcome State Fault Refusal :=
  .next (s.vecCmp d.p a b m (arithCheck realFmt) fun sl x y =>
    let f := sl.realFmt
    let w := modOf m
    let va (j : Nat) := signFp w.absa w.nega (decFp f (modeFtz sl.mode) (elem (fmtWidth f) x j))
    let vb (j : Nat) := signFp w.absb w.negb (decFp f (modeFtz sl.mode) (elem (fmtWidth f) y j))
    let js := List.range (32 / fmtWidth f)
    (js.all fun j => fcondHolds d.cond (va j) (vb j),
     if js.any fun j => (va j).isSig || (vb j).isSig then Flags.invalid else Flags.none))

/-- An approximation per element (R118). -/
def approxForm (op : ApproxOp) (m : Option Modifier) (sl : Slice) (a d : Word) : Word × Flags :=
  let f := sl.realFmt
  let w := modOf m
  elemOp (fmtWidth f) a 0#32 d fun x _ _ =>
    approx op f (modeRnd sl.mode) (modeOsat sl.mode) (modeFtz sl.mode) (signFp w.absa w.nega (decFp f (modeFtz sl.mode) x))

/-- FRCP (R118). -/
def execFrcp (d : VDst) (a : VSrc) (m : Option Modifier) (s : State) : Host.Outcome State Fault Refusal :=
  .next (s.vec1 d a m (arithCheck realFmt) (approxForm .rcp m))

/-- FRSQ (R118). -/
def execFrsq (d : VDst) (a : VSrc) (m : Option Modifier) (s : State) : Host.Outcome State Fault Refusal :=
  .next (s.vec1 d a m (arithCheck realFmt) (approxForm .rsq m))

/-- FEXP2 (R118). -/
def execFexp2 (d : VDst) (a : VSrc) (m : Option Modifier) (s : State) : Host.Outcome State Fault Refusal :=
  .next (s.vec1 d a m (arithCheck realFmt) (approxForm .exp2 m))

/-- FLOG2 (R118). -/
def execFlog2 (d : VDst) (a : VSrc) (m : Option Modifier) (s : State) : Host.Outcome State Fault Refusal :=
  .next (s.vec1 d a m (arithCheck realFmt) (approxForm .log2 m))

/-- FSIN (R118). -/
def execFsin (d : VDst) (a : VSrc) (m : Option Modifier) (s : State) : Host.Outcome State Fault Refusal :=
  .next (s.vec1 d a m (arithCheck realFmt) (approxForm .sin m))

/-- FCOS (R118). -/
def execFcos (d : VDst) (a : VSrc) (m : Option Modifier) (s : State) : Host.Outcome State Fault Refusal :=
  .next (s.vec1 d a m (arithCheck realFmt) (approxForm .cos m))

/-- FTANH (R118). -/
def execFtanh (d : VDst) (a : VSrc) (m : Option Modifier) (s : State) : Host.Outcome State Fault Refusal :=
  .next (s.vec1 d a m (arithCheck realFmt) (approxForm .tanh m))

/-- The class word of a pattern (R119). -/
def classOf (f : FpFmt) (x : Nat) : Nat :=
  let v := decFp f false x
  let sub := match v with
    | .fin _ k _ => k != 0 && decide (k < 2 ^ fbits f)
    | _ => false
  let norm := match v with
    | .fin _ k _ => decide (2 ^ fbits f ≤ k)
    | _ => false
  (if x / 2 ^ (fmtWidth f - 1) % 2 = 1 then 64 else 0) + (if v.isSig then 32 else 0) +
  (if v.isNan && !v.isSig then 16 else 0) + (if v.isInf then 8 else 0) + (if norm then 4 else 0) + (if sub then 2 else 0) +
  (if v.isZero then 1 else 0)

/-- FCLASS (R119): no flag, subnormals reported even under FTZ. -/
def execFclass (d : VDst) (a : VSrc) (m : Option Modifier) (s : State) : Host.Outcome State Fault Refusal :=
  .next (s.vec1 d a m (arithCheck realFmt) fun sl x z =>
    elemOp (fmtWidth sl.realFmt) x 0#32 z fun p _ _ => (classOf sl.realFmt p, Flags.none))

/-! ### Complex (R120–R123) -/

/-- A complex instruction whose lanes are given by the operands' elements (R121). -/
def State.cplxOp (s : State) (d : VDst) (uses : Slice → List SrcUse)
    (f : Slice → FpFmt → Fin 4 → Nat → Bool → Nat × Flags) : State :=
  s.vecOp uses d (arithCheck complexFmt) fun sl i => cplxLane sl.complexFmt i (f sl sl.complexFmt i)

/-- The real or the imaginary part of a × b, exact (R121). -/
def cplxMul (rm : Rnd) (a b : Cplx) (im : Bool) : FVal × Flags :=
  if im then FVal.dot2 rm a.re b.im a.im b.re else FVal.dot2 rm a.re b.re a.im.negate b.im

/-- A rounding of a complex component (R121): the exceptions of the sum and of the rounding. -/
def roundPart (sl : Slice) (m : Option Modifier) (f : FpFmt) (v : FVal × Flags) : Nat × Flags :=
  let y := roundFp f (modeRnd sl.mode) (satOf sl.mode m) (modeFtz sl.mode) v.1
  (y.1, v.2.or y.2)

/-- CMUL (R121). -/
def execCmul (d : VDst) (a b : VSrc) (m : Option Modifier) (s : State) : Host.Outcome State Fault Refusal :=
  .next (s.cplxOp d (twoUses a b m) fun sl f i j im =>
    let x := cplxAt f (modeFtz sl.mode) (sl.readV a.reg) i j
    let y := cplxAt f (modeFtz sl.mode) (sl.readV b.reg) i j
    roundPart sl m f (cplxMul (modeRnd sl.mode) x y im))

/-- CFMA (R121): the destination is the addend. -/
def execCfma (d : VDst) (a b : VSrc) (m : Option Modifier) (s : State) : Host.Outcome State Fault Refusal :=
  .next (s.cplxOp d (twoUses a b m) fun sl f i j im =>
    let x := cplxAt f (modeFtz sl.mode) (sl.readV a.reg) i j
    let y := cplxAt f (modeFtz sl.mode) (sl.readV b.reg) i j
    let z := cplxAt f (modeFtz sl.mode) (sl.readReg d.reg) i j
    let p := cplxMul (modeRnd sl.mode) x y im
    let r := FVal.add (modeRnd sl.mode) p.1 (if im then z.im else z.re)
    roundPart sl m f (r.1, p.2.or r.2))

/-- CCONJ (R121): exact. -/
def execCconj (d : VDst) (a : VSrc) (m : Option Modifier) (s : State) : Host.Outcome State Fault Refusal :=
  .next (s.cplxOp d (oneUse a m) fun sl f i j im =>
    let x := cplxAt f (modeFtz sl.mode) (sl.readV a.reg) i j
    let v := if im then x.im.negate else x.re
    (bitsOf f v, if v.isSig then Flags.invalid else Flags.none))

/-- cbfly (R29): the patterns x.re, x.im, y.re, y.im, and the exceptions of the six roundings. -/
def cbfly (sl : Slice) (m : Option Modifier) (f : FpFmt) (a b w : Cplx) : (Nat × Nat × Nat × Nat) × Flags :=
  let rm := modeRnd sl.mode
  let ftz := modeFtz sl.mode
  let tre := roundPart sl m .fp32 (FVal.dot2 rm w.re b.re w.im.negate b.im)
  let tim := roundPart sl m .fp32 (FVal.dot2 rm w.re b.im w.im b.re)
  let tr := decFp .fp32 ftz tre.1
  let ti := decFp .fp32 ftz tim.1
  let xr := roundPart sl m f (FVal.add rm a.re tr)
  let xi := roundPart sl m f (FVal.add rm a.im ti)
  let yr := roundPart sl m f (FVal.add rm a.re tr.negate)
  let yi := roundPart sl m f (FVal.add rm a.im ti.negate)
  ((xr.1, xi.1, yr.1, yi.1), tre.2.or (tim.2.or (xr.2.or (xi.2.or (yr.2.or yi.2)))))

/-- The butterfly of element j of the pair of lane i (R122). -/
def Slice.cbflyAt (sl : Slice) (m : Option Modifier) (a : VPairSrc) (b : VSrc) (i : Fin 4) (j : Nat) :
    (Nat × Nat × Nat × Nat) × Flags :=
  let f := sl.complexFmt
  let ftz := modeFtz sl.mode
  let p := vpairSrcRegs a.reg
  cbfly sl m f (cplxAt f ftz (sl.readV p.1) i j) (cplxAt f ftz (sl.readV p.2) i j) (cplxAt f ftz (sl.readV b.reg) i j)

/-- One lane of register D (x) or D + 1 (y) of CBFLY. -/
def Slice.cbflyLane (sl : Slice) (m : Option Modifier) (a : VPairSrc) (b : VSrc) (second : Bool) (i : Fin 4) : Word :=
  (cplxLane sl.complexFmt i fun j im =>
    let r := (sl.cbflyAt m a b i j).1
    (if second then (if im then r.2.2.2 else r.2.2.1) else (if im then r.2.1 else r.1), Flags.none)).1

/-- CBFLY (R122): x into D, y into D + 1; bit [7] shifts x only. An element is computed when one of its lanes is active, and
the exceptions of all its six roundings count. -/
def execCbfly (d : VPairDst) (a : VPairSrc) (b : VSrc) (m : Option Modifier) (s : State) : Host.Outcome State Fault Refusal :=
  let ds := vpairRegs d.reg
  .next (s.issueLocal ⟨.perLane, false, fun sl => vpUses a 1 ++ vsUses b 2 ++ sl.clampUses m,
      fun _ => [vregName ds.1, vregName ds.2], noCheck, arithCheck complexFmt⟩ fun sl t =>
    let t := t.setV ⟨ds.1, d.shift⟩ sl.active (Lanes.ofFn fun i => sl.cbflyLane m a b false i)
    let t := t.setReg ds.2 sl.active (Lanes.ofFn fun i => sl.cbflyLane m a b true i)
    t.raise (flagsOf sl.active fun i =>
      (List.range (32 / fmtWidth sl.complexFmt)).foldl (fun acc j => acc.or (sl.cbflyAt m a b i j).2) Flags.none))

/-- CTWID (R123): always CF32; no flag. -/
def execCtwid (d : VDst) (a : VSrc) (b : Fin 25) (m : Option Modifier) (s : State) : Host.Outcome State Fault Refusal :=
  .next (s.vecOp (oneUse a m) d noCheck fun sl i =>
    let t := twiddle ((sl.readV a.reg).get (evenLane i)).toNat b.val
    quiet (if i.val % 2 = 1 then t.2 else t.1))

end Sys2Proof.Machine
end

