-- ==== Sys2Proof/Machine/VectorInt.lean ====
section
/-! DEFINITION. Groups 0x3 and 0x4: integer, logic, shift, compare, select, literals, predicate logic and VDOT4 (R109–R114). -/

set_option Elab.async false

namespace Sys2Proof.Machine

/-- The lowest n bits of all ones, as a number. -/
def ones (n : Nat) : Nat := 2 ^ n - 1

/-- VROT on a pattern of n bits (R111). -/
def rotl (n x c : Nat) : Nat := (x * 2 ^ (c % n) + x / 2 ^ (n - c % n)) % 2 ^ n

/-- The number of one bits of a pattern of n bits. -/
def popcount (n x : Nat) : Nat := ((List.range n).filter fun i => x.testBit i).length

/-- The number of leading zeros of a pattern of n bits (R111). -/
def leadingZeros (n x : Nat) : Nat := if x = 0 then n else n - 1 - Nat.log2 x

/-- VADD (R110): a + b, finished by R58. -/
def execVadd (d : VDst) (a b : VSrc) (m : Option Modifier) (s : State) : Host.Outcome State Fault Refusal :=
  .next (s.vec2 d a b m noCheck (intForm m fun x y _ => x + y))

/-- VSUB (R110). -/
def execVsub (d : VDst) (a b : VSrc) (m : Option Modifier) (s : State) : Host.Outcome State Fault Refusal :=
  .next (s.vec2 d a b m noCheck (intForm m fun x y _ => x - y))

/-- VMUL (R110). -/
def execVmul (d : VDst) (a b : VSrc) (m : Option Modifier) (s : State) : Host.Outcome State Fault Refusal :=
  .next (s.vec2 d a b m noCheck (intForm m fun x y _ => x * y))

/-- VMULH (R110): floor(a × b / 2^n); it never overflows. -/
def execVmulh (d : VDst) (a b : VSrc) (m : Option Modifier) (s : State) : Host.Outcome State Fault Refusal :=
  .next (s.vec2 d a b m noCheck
    (patForm fun n x y => intBits (wrapInt (intOfBits x n * intOfBits y n / 2 ^ n) n) n))

/-- VMAD (R110): a × b + d; the destination is read as the addend (R106). -/
def execVmad (d : VDst) (a b : VSrc) (m : Option Modifier) (s : State) : Host.Outcome State Fault Refusal :=
  .next (s.vec2 d a b m noCheck (intForm m fun x y z => x * y + z))

/-- VMIN (R110): the smaller signed value. -/
def execVmin (d : VDst) (a b : VSrc) (m : Option Modifier) (s : State) : Host.Outcome State Fault Refusal :=
  .next (s.vec2 d a b m noCheck (patForm fun n x y => if intOfBits x n < intOfBits y n then x else y))

/-- VMAX (R110): the larger signed value. -/
def execVmax (d : VDst) (a b : VSrc) (m : Option Modifier) (s : State) : Host.Outcome State Fault Refusal :=
  .next (s.vec2 d a b m noCheck (patForm fun n x y => if intOfBits x n < intOfBits y n then y else x))

/-- VMINU (R110). -/
def execVminu (d : VDst) (a b : VSrc) (m : Option Modifier) (s : State) : Host.Outcome State Fault Refusal :=
  .next (s.vec2 d a b m noCheck (patForm fun _ x y => min x y))

/-- VMAXU (R110). -/
def execVmaxu (d : VDst) (a b : VSrc) (m : Option Modifier) (s : State) : Host.Outcome State Fault Refusal :=
  .next (s.vec2 d a b m noCheck (patForm fun _ x y => max x y))

/-- VABSD (R110): |a − b|, saturated or taken modulo 2^n. -/
def execVabsd (d : VDst) (a b : VSrc) (m : Option Modifier) (s : State) : Host.Outcome State Fault Refusal :=
  .next (s.vec2 d a b m noCheck fun sl x y z =>
    patForm (fun n p q =>
      let v := (intOfBits p n - intOfBits q n).natAbs
      if satOf sl.mode m then min v (2 ^ (n - 1) - 1) else v % 2 ^ n) sl x y z)

/-- VAND (R111): the whole lane. -/
def execVand (d : VDst) (a b : VSrc) (m : Option Modifier) (s : State) : Host.Outcome State Fault Refusal :=
  .next (s.vec2 d a b m noCheck fun _ x y _ => quiet (x &&& y))

/-- VOR (R111). -/
def execVor (d : VDst) (a b : VSrc) (m : Option Modifier) (s : State) : Host.Outcome State Fault Refusal :=
  .next (s.vec2 d a b m noCheck fun _ x y _ => quiet (x ||| y))

/-- VXOR (R111). -/
def execVxor (d : VDst) (a b : VSrc) (m : Option Modifier) (s : State) : Host.Outcome State Fault Refusal :=
  .next (s.vec2 d a b m noCheck fun _ x y _ => quiet (x ^^^ y))

/-- VANDN (R111): A AND NOT B. -/
def execVandn (d : VDst) (a b : VSrc) (m : Option Modifier) (s : State) : Host.Outcome State Fault Refusal :=
  .next (s.vec2 d a b m noCheck fun _ x y _ => quiet (x &&& ~~~y))

/-- VSHL (R111). -/
def execVshl (d : VDst) (a b : VSrc) (m : Option Modifier) (s : State) : Host.Outcome State Fault Refusal :=
  .next (s.vec2 d a b m noCheck (patForm fun n x c => if c < n then x * 2 ^ c % 2 ^ n else 0))

/-- VSHR (R111). -/
def execVshr (d : VDst) (a b : VSrc) (m : Option Modifier) (s : State) : Host.Outcome State Fault Refusal :=
  .next (s.vec2 d a b m noCheck (patForm fun n x c => if c < n then x / 2 ^ c else 0))

/-- VSAR (R111): floor(a / 2^min(c, n−1)). -/
def execVsar (d : VDst) (a b : VSrc) (m : Option Modifier) (s : State) : Host.Outcome State Fault Refusal :=
  .next (s.vec2 d a b m noCheck (patForm fun n x c => intBits (intOfBits x n / 2 ^ min c (n - 1)) n))

/-- VROT (R111): rotated left by c mod n. -/
def execVrot (d : VDst) (a b : VSrc) (m : Option Modifier) (s : State) : Host.Outcome State Fault Refusal :=
  .next (s.vec2 d a b m noCheck (patForm rotl))

/-- A condition of VCMP on two patterns of n bits (R112). -/
def icondHolds (c : ICond) (n x y : Nat) : Bool :=
  let a := intOfBits x n
  let b := intOfBits y n
  match c with
  | .eq => decide (a = b)
  | .ne => decide (a ≠ b)
  | .lt => decide (a < b)
  | .le => decide (a ≤ b)
  | .gt => decide (b < a)
  | .ge => decide (b ≤ a)
  | .ltu => decide (x < y)
  | .leu => decide (x ≤ y)
  | .gtu => decide (y < x)
  | .geu => decide (y ≤ x)

/-- VCMP (R112): the condition holds for every element of the lane. -/
def execVcmp (d : ICmp) (a b : VSrc) (m : Option Modifier) (s : State) : Host.Outcome State Fault Refusal :=
  .next (s.vecCmp d.p a b m noCheck fun sl x y =>
    let n := intWidth (modeEtype sl.mode)
    ((List.range (32 / n)).all fun j => icondHolds d.cond n (elem n x j) (elem n y j), Flags.none))

/-- VSEL (R113): in every lane of the active mask, A where the guard predicate selects it, else B. -/
def execVsel (d : VDst) (a b : VSrc) (m : Option Modifier) (s : State) : Host.Outcome State Fault Refusal :=
  .next (s.issueLocal ⟨.maskOnly, false, twoUses a b m, fun _ => [vregName d.reg], noCheck, noCheck⟩ fun sl t =>
    t.setV d sl.amask (Lanes.merge sl.guardBits (sl.readV a.reg) (sl.readV b.reg)))

/-- VLI (R113). -/
def execVli (d : VDst) (lit : Word) (m : Option Modifier) (s : State) : Host.Outcome State Fault Refusal :=
  .next (s.vecOp (fun sl => sl.clampUses m) d noCheck fun _ _ => quiet lit)

/-- VBCS (R113): a scalar into every active lane. -/
def execVbcs (d : VDst) (a : SSrc) (m : Option Modifier) (s : State) : Host.Outcome State Fault Refusal :=
  .next (s.vecOp (fun sl => sl.ssUses a 1 ++ sl.clampUses m) d noCheck fun sl _ => quiet (sl.readSrc a.reg))

/-- VCLZ (R111). -/
def execVclz (d : VDst) (a : VSrc) (m : Option Modifier) (s : State) : Host.Outcome State Fault Refusal :=
  .next (s.vec1 d a m noCheck fun sl x z => patForm (fun n p _ => leadingZeros n p) sl x 0#32 z)

/-- VBITC (R111). -/
def execVbitc (d : VDst) (a : VSrc) (m : Option Modifier) (s : State) : Host.Outcome State Fault Refusal :=
  .next (s.vec1 d a m noCheck fun sl x z => patForm (fun n p _ => popcount n p) sl x 0#32 z)

/-- An operation of PLOG on the bits of two predicates (R114). -/
def plogBits (o : PLogOp) (x y : BitVec 4) : BitVec 4 :=
  match o with
  | .and => x &&& y
  | .or => x ||| y
  | .xor => x ^^^ y
  | .andn => x &&& ~~~y
  | .not => ~~~x
  | .mov => x
  | .set => 0b1111#4
  | .clr => 0#4

/-- PLOG (R114). -/
def execPlog (d : PLogD) (a b : PReg) (m : Option Modifier) (s : State) : Host.Outcome State Fault Refusal :=
  .next (s.issueLocal ⟨.perLane, false, fun sl => sl.clampUses m, fun _ => [], noCheck, noCheck⟩ fun sl t =>
    t.setP d.p sl.active (plogBits d.op (sl.p.get a) (sl.p.get b)))

/-- The signed byte products of VDOT4 (R110). -/
def dot4 (x y : Word) : Int :=
  (List.range 4).foldl (fun acc j => acc + intOfBits (elem 8 x j) 8 * intOfBits (elem 8 y j) 8) 0

/-- VDOT4 (R110): the destination is the addend; ETYPE is not read. -/
def execVdot4 (d : VDst) (a b : VSrc) (m : Option Modifier) (s : State) : Host.Outcome State Fault Refusal :=
  .next (s.vec2 d a b m noCheck fun sl x y z =>
    quiet (BitVec.ofInt 32 (intRes (z.toInt + dot4 x y) 32 (satOf sl.mode m))))

end Sys2Proof.Machine
end

