-- ==== Sys2Proof/Machine/Dispatch.lean ====
section
/-! DEFINITION. Which meaning runs which instruction or step: one line for each constructor of Instr. -/

namespace Sys2Proof.Machine

def exec (i : Instr) (s : State) : Host.Outcome State Fault Refusal :=
  match i with
  | .nop => Sys2Proof.Machine.execNop s
  | .bra a0 => Sys2Proof.Machine.execBra a0 s
  | .brp a0 a1 => Sys2Proof.Machine.execBrp a0 a1 s
  | .bri a0 => Sys2Proof.Machine.execBri a0 s
  | .call a0 a1 => Sys2Proof.Machine.execCall a0 a1 s
  | .calli a0 a1 => Sys2Proof.Machine.execCalli a0 a1 s
  | .ret a0 => Sys2Proof.Machine.execRet a0 s
  | .exit => Sys2Proof.Machine.execExit s
  | .yield => Sys2Proof.Machine.execYield s
  | .trap a0 => Sys2Proof.Machine.execTrap a0 s
  | .rgn => Sys2Proof.Machine.execRgn s
  | .regang a0 => Sys2Proof.Machine.execRegang a0 s
  | .fetst a0 a1 => Sys2Proof.Machine.execFetst a0 a1 s
  | .femrk a0 a1 => Sys2Proof.Machine.execFemrk a0 a1 s
  | .retr => Sys2Proof.Machine.execRetr s
  | .rett => Sys2Proof.Machine.execRett s
  | .add a0 a1 a2 => Sys2Proof.Machine.execAdd a0 a1 a2 s
  | .sub a0 a1 a2 => Sys2Proof.Machine.execSub a0 a1 a2 s
  | .mul a0 a1 a2 => Sys2Proof.Machine.execMul a0 a1 a2 s
  | .mulhs a0 a1 a2 => Sys2Proof.Machine.execMulhs a0 a1 a2 s
  | .mulhu a0 a1 a2 => Sys2Proof.Machine.execMulhu a0 a1 a2 s
  | .divs a0 a1 a2 => Sys2Proof.Machine.execDivs a0 a1 a2 s
  | .divu a0 a1 a2 => Sys2Proof.Machine.execDivu a0 a1 a2 s
  | .andS a0 a1 a2 => Sys2Proof.Machine.execAndS a0 a1 a2 s
  | .orS a0 a1 a2 => Sys2Proof.Machine.execOrS a0 a1 a2 s
  | .xorS a0 a1 a2 => Sys2Proof.Machine.execXorS a0 a1 a2 s
  | .shl a0 a1 a2 => Sys2Proof.Machine.execShl a0 a1 a2 s
  | .shr a0 a1 a2 => Sys2Proof.Machine.execShr a0 a1 a2 s
  | .sar a0 a1 a2 => Sys2Proof.Machine.execSar a0 a1 a2 s
  | .mins a0 a1 a2 => Sys2Proof.Machine.execMins a0 a1 a2 s
  | .maxs a0 a1 a2 => Sys2Proof.Machine.execMaxs a0 a1 a2 s
  | .slt a0 a1 a2 => Sys2Proof.Machine.execSlt a0 a1 a2 s
  | .li a0 a1 => Sys2Proof.Machine.execLi a0 a1 s
  | .addi a0 a1 a2 => Sys2Proof.Machine.execAddi a0 a1 a2 s
  | .andi a0 a1 a2 => Sys2Proof.Machine.execAndi a0 a1 a2 s
  | .ori a0 a1 a2 => Sys2Proof.Machine.execOri a0 a1 a2 s
  | .ptew a0 a1 a2 => Sys2Proof.Machine.execPtew a0 a1 a2 s
  | .addp a0 a1 a2 => Sys2Proof.Machine.execAddp a0 a1 a2 s
  | .addpi a0 a1 a2 => Sys2Proof.Machine.execAddpi a0 a1 a2 s
  | .csrr a0 a1 => Sys2Proof.Machine.execCsrr a0 a1 s
  | .csrw a0 a1 => Sys2Proof.Machine.execCsrw a0 a1 s
  | .setm a0 => Sys2Proof.Machine.execSetm a0 s
  | .setmi a0 => Sys2Proof.Machine.execSetmi a0 s
  | .getm a0 => Sys2Proof.Machine.execGetm a0 s
  | .rdts a0 => Sys2Proof.Machine.execRdts a0 s
  | .join a0 => Sys2Proof.Machine.execJoin a0 s
  | .leave a0 => Sys2Proof.Machine.execLeave a0 s
  | .fpool a0 a1 a2 => Sys2Proof.Machine.execFpool a0 a1 a2 s
  | .vadd a0 a1 a2 a3 => Sys2Proof.Machine.execVadd a0 a1 a2 a3 s
  | .vsub a0 a1 a2 a3 => Sys2Proof.Machine.execVsub a0 a1 a2 a3 s
  | .vmul a0 a1 a2 a3 => Sys2Proof.Machine.execVmul a0 a1 a2 a3 s
  | .vmulh a0 a1 a2 a3 => Sys2Proof.Machine.execVmulh a0 a1 a2 a3 s
  | .vmad a0 a1 a2 a3 => Sys2Proof.Machine.execVmad a0 a1 a2 a3 s
  | .vmin a0 a1 a2 a3 => Sys2Proof.Machine.execVmin a0 a1 a2 a3 s
  | .vmax a0 a1 a2 a3 => Sys2Proof.Machine.execVmax a0 a1 a2 a3 s
  | .vminu a0 a1 a2 a3 => Sys2Proof.Machine.execVminu a0 a1 a2 a3 s
  | .vmaxu a0 a1 a2 a3 => Sys2Proof.Machine.execVmaxu a0 a1 a2 a3 s
  | .vabsd a0 a1 a2 a3 => Sys2Proof.Machine.execVabsd a0 a1 a2 a3 s
  | .vand a0 a1 a2 a3 => Sys2Proof.Machine.execVand a0 a1 a2 a3 s
  | .vor a0 a1 a2 a3 => Sys2Proof.Machine.execVor a0 a1 a2 a3 s
  | .vxor a0 a1 a2 a3 => Sys2Proof.Machine.execVxor a0 a1 a2 a3 s
  | .vandn a0 a1 a2 a3 => Sys2Proof.Machine.execVandn a0 a1 a2 a3 s
  | .vshl a0 a1 a2 a3 => Sys2Proof.Machine.execVshl a0 a1 a2 a3 s
  | .vshr a0 a1 a2 a3 => Sys2Proof.Machine.execVshr a0 a1 a2 a3 s
  | .vsar a0 a1 a2 a3 => Sys2Proof.Machine.execVsar a0 a1 a2 a3 s
  | .vrot a0 a1 a2 a3 => Sys2Proof.Machine.execVrot a0 a1 a2 a3 s
  | .vcmp a0 a1 a2 a3 => Sys2Proof.Machine.execVcmp a0 a1 a2 a3 s
  | .vsel a0 a1 a2 a3 => Sys2Proof.Machine.execVsel a0 a1 a2 a3 s
  | .vli a0 a1 a2 => Sys2Proof.Machine.execVli a0 a1 a2 s
  | .vbcs a0 a1 a2 => Sys2Proof.Machine.execVbcs a0 a1 a2 s
  | .vclz a0 a1 a2 => Sys2Proof.Machine.execVclz a0 a1 a2 s
  | .vbitc a0 a1 a2 => Sys2Proof.Machine.execVbitc a0 a1 a2 s
  | .plog a0 a1 a2 a3 => Sys2Proof.Machine.execPlog a0 a1 a2 a3 s
  | .vdot4 a0 a1 a2 a3 => Sys2Proof.Machine.execVdot4 a0 a1 a2 a3 s
  | .fadd a0 a1 a2 a3 => Sys2Proof.Machine.execFadd a0 a1 a2 a3 s
  | .fsub a0 a1 a2 a3 => Sys2Proof.Machine.execFsub a0 a1 a2 a3 s
  | .fmul a0 a1 a2 a3 => Sys2Proof.Machine.execFmul a0 a1 a2 a3 s
  | .ffma a0 a1 a2 a3 => Sys2Proof.Machine.execFfma a0 a1 a2 a3 s
  | .ffms a0 a1 a2 a3 => Sys2Proof.Machine.execFfms a0 a1 a2 a3 s
  | .fmin a0 a1 a2 a3 => Sys2Proof.Machine.execFmin a0 a1 a2 a3 s
  | .fmax a0 a1 a2 a3 => Sys2Proof.Machine.execFmax a0 a1 a2 a3 s
  | .fcmp a0 a1 a2 a3 => Sys2Proof.Machine.execFcmp a0 a1 a2 a3 s
  | .frcp a0 a1 a2 => Sys2Proof.Machine.execFrcp a0 a1 a2 s
  | .frsq a0 a1 a2 => Sys2Proof.Machine.execFrsq a0 a1 a2 s
  | .fexp2 a0 a1 a2 => Sys2Proof.Machine.execFexp2 a0 a1 a2 s
  | .flog2 a0 a1 a2 => Sys2Proof.Machine.execFlog2 a0 a1 a2 s
  | .fsin a0 a1 a2 => Sys2Proof.Machine.execFsin a0 a1 a2 s
  | .fcos a0 a1 a2 => Sys2Proof.Machine.execFcos a0 a1 a2 s
  | .ftanh a0 a1 a2 => Sys2Proof.Machine.execFtanh a0 a1 a2 s
  | .fclass a0 a1 a2 => Sys2Proof.Machine.execFclass a0 a1 a2 s
  | .cmul a0 a1 a2 a3 => Sys2Proof.Machine.execCmul a0 a1 a2 a3 s
  | .cfma a0 a1 a2 a3 => Sys2Proof.Machine.execCfma a0 a1 a2 a3 s
  | .cconj a0 a1 a2 => Sys2Proof.Machine.execCconj a0 a1 a2 s
  | .cbfly a0 a1 a2 a3 => Sys2Proof.Machine.execCbfly a0 a1 a2 a3 s
  | .ctwid a0 a1 a2 a3 => Sys2Proof.Machine.execCtwid a0 a1 a2 a3 s
  | .fcvt a0 a1 a2 a3 => Sys2Proof.Machine.execFcvt a0 a1 a2 a3 s
  | .ftoi a0 a1 a2 a3 => Sys2Proof.Machine.execFtoi a0 a1 a2 a3 s
  | .itof a0 a1 a2 a3 => Sys2Proof.Machine.execItof a0 a1 a2 a3 s
  | .pack a0 a1 a2 a3 => Sys2Proof.Machine.execPack a0 a1 a2 a3 s
  | .unpk a0 a1 a2 a3 => Sys2Proof.Machine.execUnpk a0 a1 a2 a3 s
  | .mxq a0 a1 a2 => Sys2Proof.Machine.execMxq a0 a1 a2 s
  | .mxdq a0 a1 a2 => Sys2Proof.Machine.execMxdq a0 a1 a2 s
  | .cbd a0 a1 a2 a3 => Sys2Proof.Machine.execCbd a0 a1 a2 a3 s
  | .vballot a0 a1 a2 => Sys2Proof.Machine.execVballot a0 a1 a2 s
  | .vpopc a0 a1 a2 => Sys2Proof.Machine.execVpopc a0 a1 a2 s
  | .vshuf a0 a1 a2 => Sys2Proof.Machine.execVshuf a0 a1 a2 s
  | .vscan a0 a1 a2 => Sys2Proof.Machine.execVscan a0 a1 a2 s
  | .vred a0 a1 a2 => Sys2Proof.Machine.execVred a0 a1 a2 s
  | .vbcast a0 a1 a2 => Sys2Proof.Machine.execVbcast a0 a1 a2 s
  | .vmovs a0 a1 a2 => Sys2Proof.Machine.execVmovs a0 a1 a2 s
  | .ldB a0 a1 a2 => Sys2Proof.Machine.execLdB a0 a1 a2 s
  | .ldH a0 a1 a2 => Sys2Proof.Machine.execLdH a0 a1 a2 s
  | .ldW a0 a1 a2 => Sys2Proof.Machine.execLdW a0 a1 a2 s
  | .ldAcq a0 a1 a2 => Sys2Proof.Machine.execLdAcq a0 a1 a2 s
  | .stB a0 a1 a2 => Sys2Proof.Machine.execStB a0 a1 a2 s
  | .stH a0 a1 a2 => Sys2Proof.Machine.execStH a0 a1 a2 s
  | .stW a0 a1 a2 => Sys2Proof.Machine.execStW a0 a1 a2 s
  | .stRel a0 a1 a2 => Sys2Proof.Machine.execStRel a0 a1 a2 s
  | .lds a0 a1 a2 => Sys2Proof.Machine.execLds a0 a1 a2 s
  | .sts a0 a1 a2 => Sys2Proof.Machine.execSts a0 a1 a2 s
  | .ldp a0 a1 a2 => Sys2Proof.Machine.execLdp a0 a1 a2 s
  | .stp a0 a1 a2 => Sys2Proof.Machine.execStp a0 a1 a2 s
  | .ldsAcq a0 a1 a2 => Sys2Proof.Machine.execLdsAcq a0 a1 a2 s
  | .stsRel a0 a1 a2 => Sys2Proof.Machine.execStsRel a0 a1 a2 s
  | .pref a0 a1 => Sys2Proof.Machine.execPref a0 a1 s
  | .atomAdd a0 a1 a2 a3 => Sys2Proof.Machine.execAtomAdd a0 a1 a2 a3 s
  | .atomMin a0 a1 a2 a3 => Sys2Proof.Machine.execAtomMin a0 a1 a2 a3 s
  | .atomMax a0 a1 a2 a3 => Sys2Proof.Machine.execAtomMax a0 a1 a2 a3 s
  | .atomAnd a0 a1 a2 a3 => Sys2Proof.Machine.execAtomAnd a0 a1 a2 a3 s
  | .atomOr a0 a1 a2 a3 => Sys2Proof.Machine.execAtomOr a0 a1 a2 a3 s
  | .atomXor a0 a1 a2 a3 => Sys2Proof.Machine.execAtomXor a0 a1 a2 a3 s
  | .atomCas a0 a1 a2 a3 => Sys2Proof.Machine.execAtomCas a0 a1 a2 a3 s
  | .atomXchg a0 a1 a2 a3 => Sys2Proof.Machine.execAtomXchg a0 a1 a2 a3 s
  | .amaxx a0 a1 a2 => Sys2Proof.Machine.execAmaxx a0 a1 a2 s
  | .fence a0 => Sys2Proof.Machine.execFence a0 s
  | .fenceAcq a0 => Sys2Proof.Machine.execFenceAcq a0 s
  | .fenceRel a0 => Sys2Proof.Machine.execFenceRel a0 s
  | .bari a0 a1 a2 => Sys2Proof.Machine.execBari a0 a1 a2 s
  | .barr a0 a1 a2 => Sys2Proof.Machine.execBarr a0 a1 a2 s
  | .barw a0 a1 => Sys2Proof.Machine.execBarw a0 a1 s
  | .bart a0 a1 a2 => Sys2Proof.Machine.execBart a0 a1 a2 s
  | .waitv a0 a1 a2 => Sys2Proof.Machine.execWaitv a0 a1 a2 s
  | .waitw a0 a1 => Sys2Proof.Machine.execWaitw a0 a1 s
  | .cpy a0 a1 a2 => Sys2Proof.Machine.execCpy a0 a1 a2 s
  | .cpys a0 a1 a2 => Sys2Proof.Machine.execCpys a0 a1 a2 s
  | .cbdc a0 a1 a2 => Sys2Proof.Machine.execCbdc a0 a1 a2 s
  | .cpyam a0 a1 a2 => Sys2Proof.Machine.execCpyam a0 a1 a2 s
  | .gath a0 a1 a2 => Sys2Proof.Machine.execGath a0 a1 a2 s
  | .scat a0 a1 a2 => Sys2Proof.Machine.execScat a0 a1 a2 s
  | .qfence a0 => Sys2Proof.Machine.execQfence a0 s
  | .shld a0 a1 a2 => Sys2Proof.Machine.execShld a0 a1 a2 s
  | .tldb a0 a1 => Sys2Proof.Machine.execTldb a0 a1 s
  | .tmma a0 a1 a2 => Sys2Proof.Machine.execTmma a0 a1 a2 s
  | .tmmat a0 a1 a2 => Sys2Proof.Machine.execTmmat a0 a1 a2 s
  | .ttrn a0 a1 => Sys2Proof.Machine.execTtrn a0 a1 s
  | .tscl a0 a1 a2 => Sys2Proof.Machine.execTscl a0 a1 a2 s
  | .tzero a0 a1 => Sys2Proof.Machine.execTzero a0 a1 s
  | .tadd a0 a1 a2 => Sys2Proof.Machine.execTadd a0 a1 a2 s
  | .taccr a0 a1 a2 => Sys2Proof.Machine.execTaccr a0 a1 a2 s
  | .taccw a0 a1 a2 => Sys2Proof.Machine.execTaccw a0 a1 a2 s
  | .taccs a0 a1 a2 => Sys2Proof.Machine.execTaccs a0 a1 a2 s
  | .taccl a0 a1 => Sys2Proof.Machine.execTaccl a0 a1 s
  | .tmxs a0 => Sys2Proof.Machine.execTmxs a0 s
  | .tsync => Sys2Proof.Machine.execTsync s
  | .trule a0 a1 a2 => Sys2Proof.Machine.execTrule a0 a1 a2 s
  | .trwq a0 a1 a2 => Sys2Proof.Machine.execTrwq a0 a1 a2 s
  | .stx a0 a1 a2 => Sys2Proof.Machine.execStx a0 a1 a2 s
  | .ldx a0 a1 a2 => Sys2Proof.Machine.execLdx a0 a1 a2 s
  | .amx a0 a1 a2 => Sys2Proof.Machine.execAmx a0 a1 a2 s
  | .amxr a0 a1 a2 => Sys2Proof.Machine.execAmxr a0 a1 a2 s
  | .wake a0 a1 a2 => Sys2Proof.Machine.execWake a0 a1 a2 s
  | .xarr a0 => Sys2Proof.Machine.execXarr a0 s
  | .xwait a0 a1 => Sys2Proof.Machine.execXwait a0 a1 s
  | .xfence a0 a1 => Sys2Proof.Machine.execXfence a0 a1 s
  | .nsend a0 a1 => Sys2Proof.Machine.execNsend a0 a1 s
  | .npost a0 a1 => Sys2Proof.Machine.execNpost a0 a1 s
  | .qpush a0 a1 a2 => Sys2Proof.Machine.execQpush a0 a1 a2 s
  | .pathEndPop a0 a1 => Sys2Proof.Machine.execPathEndPop a0 a1 s
  | .registerFill a0 => Sys2Proof.Machine.execRegisterFill a0 s
  | .regangTimeout a0 => Sys2Proof.Machine.execRegangTimeout a0 s
  | .gangSwapOut a0 a1 => Sys2Proof.Machine.execGangSwapOut a0 a1 s
  | .gangRestore a0 => Sys2Proof.Machine.execGangRestore a0 s
  | .lateFaultReport a0 => Sys2Proof.Machine.execLateFaultReport a0 s
  | .trapEntry a0 a1 => Sys2Proof.Machine.execTrapEntry a0 a1 s
  | .pageWalk a0 a1 => Sys2Proof.Machine.execPageWalk a0 a1 s
  | .storeDiePoint a0 a1 => Sys2Proof.Machine.execStoreDiePoint a0 a1 s
  | .writeApplyAtDie a0 a1 => Sys2Proof.Machine.execWriteApplyAtDie a0 a1 s
  | .reuseReport a0 a1 a2 a3 => Sys2Proof.Machine.execReuseReport a0 a1 a2 a3 s
  | .copySegment a0 => Sys2Proof.Machine.execCopySegment a0 s
  | .gatherBlock a0 => Sys2Proof.Machine.execGatherBlock a0 s
  | .copyComplete a0 => Sys2Proof.Machine.execCopyComplete a0 s
  | .tilePerform a0 => Sys2Proof.Machine.execTilePerform a0 s
  | .errorDetected a0 => Sys2Proof.Machine.execErrorDetected a0 s
  | .selfTestEnd a0 a1 a2 => Sys2Proof.Machine.execSelfTestEnd a0 a1 a2 s
  | .frequencyDecay a0 => Sys2Proof.Machine.execFrequencyDecay a0 s
  | .nodeRefresh a0 => Sys2Proof.Machine.execNodeRefresh a0 s
  | .nodeRelease a0 => Sys2Proof.Machine.execNodeRelease a0 s
  | .preemptionStop a0 => Sys2Proof.Machine.execPreemptionStop a0 s
  | .blockPlace a0 => Sys2Proof.Machine.execBlockPlace a0 s
  | .stealRequest a0 a1 => Sys2Proof.Machine.execStealRequest a0 a1 s
  | .wavePreemption a0 a1 => Sys2Proof.Machine.execWavePreemption a0 a1 s
  | .presenceRestore a0 => Sys2Proof.Machine.execPresenceRestore a0 s
  | .stagingCopy a0 => Sys2Proof.Machine.execStagingCopy a0 s
  | .taskFinish a0 => Sys2Proof.Machine.execTaskFinish a0 s
  | .bundlePhaseStart a0 => Sys2Proof.Machine.execBundlePhaseStart a0 s
  | .bundlePhaseRetire a0 => Sys2Proof.Machine.execBundlePhaseRetire a0 s
  | .worldSwitch a0 => Sys2Proof.Machine.execWorldSwitch a0 s
  | .counterOverflow a0 a1 => Sys2Proof.Machine.execCounterOverflow a0 a1 s
  | .qtailDoorbell a0 a1 a2 => Sys2Proof.Machine.execQtailDoorbell a0 a1 a2 s
  | .qcfgWrite a0 a1 a2 => Sys2Proof.Machine.execQcfgWrite a0 a1 a2 s
  | .cqheadWrite a0 a1 a2 => Sys2Proof.Machine.execCqheadWrite a0 a1 a2 s
  | .push a0 a1 => Sys2Proof.Machine.execPush a0 a1 s
  | .load a0 a1 => Sys2Proof.Machine.execLoad a0 a1 s
  | .dma a0 a1 => Sys2Proof.Machine.execDma a0 a1 s
  | .flush a0 a1 => Sys2Proof.Machine.execFlush a0 a1 s
  | .node a0 a1 => Sys2Proof.Machine.execNode a0 a1 s
  | .prog a0 a1 => Sys2Proof.Machine.execProg a0 a1 s
  | .home a0 a1 => Sys2Proof.Machine.execHome a0 a1 s
  | .pte a0 a1 => Sys2Proof.Machine.execPte a0 a1 s
  | .pool a0 a1 => Sys2Proof.Machine.execPool a0 a1 s
  | .rules a0 a1 => Sys2Proof.Machine.execRules a0 a1 s
  | .ctx a0 a1 => Sys2Proof.Machine.execCtx a0 a1 s
  | .offline a0 a1 => Sys2Proof.Machine.execOffline a0 a1 s
  | .online a0 a1 => Sys2Proof.Machine.execOnline a0 a1 s
  | .dbgStop a0 a1 => Sys2Proof.Machine.execDbgStop a0 a1 s
  | .dbgResume a0 a1 => Sys2Proof.Machine.execDbgResume a0 a1 s
  | .dbgStep a0 a1 => Sys2Proof.Machine.execDbgStep a0 a1 s
  | .dbgRead a0 a1 a2 a3 => Sys2Proof.Machine.execDbgRead a0 a1 a2 a3 s
  | .dbgWrite a0 a1 a2 a3 a4 a5 a6 => Sys2Proof.Machine.execDbgWrite a0 a1 a2 a3 a4 a5 a6 s
  | .dbgAttach a0 a1 => Sys2Proof.Machine.execDbgAttach a0 a1 s
  | .dbgDetach a0 a1 => Sys2Proof.Machine.execDbgDetach a0 a1 s
  | .apertureAccess a0 a1 a2 => Sys2Proof.Machine.execApertureAccess a0 a1 a2 s
  | .registerWrite a0 a1 a2 => Sys2Proof.Machine.execRegisterWrite a0 a1 a2 s
  | .fxquotaWrite a0 => Sys2Proof.Machine.execFxquotaWrite a0 s
  | .fxidWrite a0 => Sys2Proof.Machine.execFxidWrite a0 s
  | .lwDescriptorWrite a0 a1 => Sys2Proof.Machine.execLwDescriptorWrite a0 a1 s
  | .deviceArrival => Sys2Proof.Machine.execDeviceArrival s
  | .crossingApply a0 => Sys2Proof.Machine.execCrossingApply a0 s
  | .peerCrossingComplete a0 a1 => Sys2Proof.Machine.execPeerCrossingComplete a0 a1 s
  | .landingEntryReceipt a0 => Sys2Proof.Machine.execLandingEntryReceipt a0 s
  | .ldxRequestReceipt a0 => Sys2Proof.Machine.execLdxRequestReceipt a0 s
  | .wakeReceipt a0 => Sys2Proof.Machine.execWakeReceipt a0 s
  | .fabricAck a0 a1 a2 a3 => Sys2Proof.Machine.execFabricAck a0 a1 a2 a3 s
  | .peerUnreachable a0 => Sys2Proof.Machine.execPeerUnreachable a0 s
  | .integrityRetry a0 a1 => Sys2Proof.Machine.execIntegrityRetry a0 a1 s
  | .timeBeacon a0 => Sys2Proof.Machine.execTimeBeacon a0 s
  | .checkpointGo => Sys2Proof.Machine.execCheckpointGo s
  | .checkpointStart a0 => Sys2Proof.Machine.execCheckpointStart a0 s
  | .checkpointDone => Sys2Proof.Machine.execCheckpointDone s
  | .networkPacketReceipt a0 => Sys2Proof.Machine.execNetworkPacketReceipt a0 s
  | .networkRequestComplete a0 a1 => Sys2Proof.Machine.execNetworkRequestComplete a0 a1 s
  | .recoveryGo a0 => Sys2Proof.Machine.execRecoveryGo a0 s
  | .powerOn => Sys2Proof.Machine.execPowerOn s
  | .bootStepResult a0 a1 a2 => Sys2Proof.Machine.execBootStepResult a0 a1 a2 s
  | .deviceReset => Sys2Proof.Machine.execDeviceReset s
  | .functionReset a0 => Sys2Proof.Machine.execFunctionReset a0 s
  | .tdispLock a0 => Sys2Proof.Machine.execTdispLock a0 s
  | .tdispRun a0 => Sys2Proof.Machine.execTdispRun a0 s
  | .getVersion => Sys2Proof.Machine.execGetVersion s
  | .getCapabilities => Sys2Proof.Machine.execGetCapabilities s
  | .negotiateAlgorithms a0 => Sys2Proof.Machine.execNegotiateAlgorithms a0 s
  | .getDigests => Sys2Proof.Machine.execGetDigests s
  | .getCertificate => Sys2Proof.Machine.execGetCertificate s
  | .challenge a0 => Sys2Proof.Machine.execChallenge a0 s
  | .getMeasurements a0 => Sys2Proof.Machine.execGetMeasurements a0 s
  | .keyExchange a0 => Sys2Proof.Machine.execKeyExchange a0 s
  | .finish a0 => Sys2Proof.Machine.execFinish a0 s
  | .keyUpdate => Sys2Proof.Machine.execKeyUpdate s
  | .bootRecordClear => Sys2Proof.Machine.execBootRecordClear s
  | .firmwareUpdate a0 => Sys2Proof.Machine.execFirmwareUpdate a0 s
  | .pcapSet a0 => Sys2Proof.Machine.execPcapSet a0 s
  | .tempThrottle a0 => Sys2Proof.Machine.execTempThrottle a0 s
  | .tempShutdown a0 => Sys2Proof.Machine.execTempShutdown a0 s
  | .hbmTempRefresh a0 => Sys2Proof.Machine.execHbmTempRefresh a0 s
  | .dieToDieLinkRetraining a0 a1 => Sys2Proof.Machine.execDieToDieLinkRetraining a0 a1 s
  | .fabricPacketSend a0 a1 => Sys2Proof.Machine.execFabricPacketSend a0 a1 s
  | .networkPacketSend a0 => Sys2Proof.Machine.execNetworkPacketSend a0 s
  | .malformedPacket a0 a1 => Sys2Proof.Machine.execMalformedPacket a0 a1 s
  | .pcapLimitReached => Sys2Proof.Machine.execPcapLimitReached s
  | .recoveryFetchEnd a0 a1 => Sys2Proof.Machine.execRecoveryFetchEnd a0 a1 s
  | .retryRequestReceipt a0 => Sys2Proof.Machine.execRetryRequestReceipt a0 s
  | .waitvRecheck a0 => Sys2Proof.Machine.execWaitvRecheck a0 s

end Sys2Proof.Machine
end

