-- ==== Sys2Proof/Machine/Feed.lean ====
section
/-! DEFINITION. What stands in the leaves of the rank tree without a step of its own (R215, R235, R304, R305): the entries of octets,
commands, packets, requests and returning gangs enter their leaves, and those whose work is over leave them. -/

set_option Elab.async false

namespace Sys2Proof.Machine

/-! ### Entries whose work is over -/

/-- The core a leaf belongs to. -/
def leafCore (node : BitVec 16) : Nat := (node.toNat - 0x100) / 4

/-- Whether what an entry stands for still is. -/
def State.entryLive (s : State) (node : BitVec 16) (e : Entry) : Bool :=
  match e.kind with
  | .task id => s.tasks.any fun t => t.id == id
  | .wave w _ => s.slices.any fun x => x.core == leafCore node && x.wave == w && x.place != .saved
  | .gang gid => s.parks.any fun p => p.gang.gid == gid
  | .presence w => s.presences.any fun p => p.core == leafCore node && p.wave == w
  | .octet o => (s.octet (leafCore node) o).released
  | .mxr id _ => s.tasks.any fun t => t.id == id && t.phase == .running
  | .command id => s.cmds.any fun c => c.id == id
  | .packet q => (s.fab.ops.any fun o => o.seq == q && !o.sent) || s.fab.replies.any fun r => r.id == q
  | .request id => (s.netReqs.any fun r => r.id == id) || s.netReplies.any fun r => r.id == id

/-- A node without the entries whose work is over. -/
def State.pruneNode (s : State) (n : NodeRec) : NodeRec :=
  if n.entries.all (s.entryLive n.node) then n else { n with entries := n.entries.filter (s.entryLive n.node) }

/-- Take the entries whose work is over out of every node, and let the engines go of them. -/
def State.prune (s : State) : State :=
  let t : State := { s with nodes := s.nodes.map s.pruneNode }
  if s.serving.all fun v => (t.servedEntry v).isSome then t
  else { t with serving := t.serving.filter fun v => (t.servedEntry v).isSome }

/-! ### Octets with released work (R215, R305) -/

/-- Whether an octet has its entry in its matrix leaf, or an MXR member of its wave's bundle stands there and serves it (R299, R305). -/
def State.octetListed (s : State) (o : OctetRec) : Bool :=
  (s.entries (matrixLeaf o.core)).any fun e => match e.kind with
    | .octet x => x == o.oct
    | .mxr task _ => s.mxrWave task == o.wave
    | _ => false

/-- Octets with released work enter their matrix leaves. -/
def State.feedOctets (s : State) : State :=
  s.octets.foldl (fun x o =>
    if !o.released || x.isSaved o.core o.wave || x.octetListed o || !x.nodeRoom (matrixLeaf o.core) then x
    else x.enterNode (matrixLeaf o.core) (.octet o.oct) (x.waveFields o.wave) none) s

/-! ### All of it -/

/-- The shares of every core whose waves are done with them are free (R163, R183). -/
def State.freeAllShares (s : State) : State :=
  (List.range 192).foldl (fun x k => if (x.core k).shares.isEmpty then x else x.freeShares k) s

/-- What follows every step in the rank tree. -/
def State.feedTree (s : State) : State := s.prune.feedOctets.feedCommands.feedReturns.feedPackets.feedRequests

/-- What follows every step besides: rounds of budgeted barriers close (R278), remote loads are held no more (R351), completion records
are written (R319), shares are freed (R183), accesses that are relied on keep their translation (R170), late faults are taken where a gang
issues nothing (R169), images take late fills (R45). -/
def State.feed (s : State) : State :=
  s.feedTree.closeAllRounds.serveHeld.closeAllJobs.freeAllShares.keepTranslations.takeReports.syncImages

end Sys2Proof.Machine
end

