-- ==== Sys2Proof/Machine/Turns.lean ====
section
/-! DEFINITION. What a step does: the choice of the gang that issues (R48, R287, R306), its turn (R39, R49, R169, R376), the steps that
have no instruction word, evictions, and the order in which an empty agenda runs what is outstanding (log 1, 2). -/

set_option Elab.async false

namespace Sys2Proof.Machine

/-! ### Choosing a gang (R48, R305, R306) -/

/-- Whether a gang has been left without issue for 64 clk: 64 issues of its core have passed it over since it became ready or issued last,
each of a clk or more (R48, log 48). -/
def Gang.overdue (g : Gang) : Bool := decide (64 ≤ g.passed)

/-- Of two gangs the one that has been left without issue for 64 clk, else the one that became ready first (R48). -/
def earlier (g h : Gang) : Gang :=
  if g.overdue != h.overdue then (if h.overdue then h else g) else if h.since < g.since then h else g

/-- Of two gangs of a core the one that issues first (R48): by their waves' places in the leaf, those of equal rank by when they became
ready; a wave without an entry comes last. -/
def State.firstOf (s : State) (g h : Gang) : Gang :=
  match s.wavePlace g.core (s.gangWave g), s.wavePlace h.core (s.gangWave h) with
    | some a, some b => if a.2.rank = b.2.rank then earlier g h else if a.1 < b.1 then g else h
    | some _, none => g
    | none, some _ => h
    | none, none => earlier g h

/-- Of some gangs the first of each core. -/
def State.firsts (s : State) (gs : List Gang) : List Gang :=
  gs.foldl (fun acc g =>
    if acc.any fun b => b.core == g.core then acc.map fun b => if b.core = g.core then s.firstOf b g else b else acc ++ [g]) []

/-- The gang that issues next among those a condition admits: the first of its core, of several cores the one whose first gang became
ready first. -/
def State.nextGang (s : State) (ok : Gang → Bool) : Option Gang :=
  match s.firsts (s.gangs.filter fun g => s.mayIssue g && ok g) with
  | [] => none
  | g :: t => some (t.foldl earlier g)

/-- A gang has its turn: it has not been left any more, the other ready gangs of its core have been passed over once more (R48). -/
def State.passOver (s : State) (g : Gang) : State :=
  { s with gangs := s.gangs.map fun x =>
      if x.gid == g.gid then { x with passed := 0 }
      else if x.core == g.core && x.wait == .ready then { x with passed := x.passed + 1 } else x }

/-! ### The turn of a gang -/

/-- The turn of a gang: paths that end are popped (R39), then late faults reported to members are taken (R169, R250), then it fetches and
issues (R49, R376). -/
def State.gangTurn (s : State) (g : Gang) : Host.Outcome State Fault Refusal :=
  let ms := s.membersOf g
  match ms.find? Slice.pathEnds, ms.filter (·.late) with
  | some m, _ => Sys2Proof.Machine.exec (.pathEndPop m.core m.slot) s
  | none, m :: t => .next (s.raiseAll ((m :: t).map fun x => (x.sid, lateReport x)))
  | none, [] => match s.fetch g with
    | .traps ts t => .next (t.raiseAll ts)
    | .held => .next (s.setWait g.gid (.held true))
    | .instr c i t => Sys2Proof.Machine.exec i { t with cur := some c }

/-! ### Evictions (log 10) -/

/-- A cache gives up a line (R254). What a line that no cache holds any more has been written stays the data of its location: another
virtual address of the frame, and the aperture, see it only after the flush or write-back of its range (R257, R324). -/
def State.evictLine (s : State) (cache : Cache) (asid : BitVec 16) (va : Nat) : State := s.evictBits cache asid va

/-- A line of code leaves an instruction cache. -/
def State.evictCode (s : State) (core : Nat) (asid : BitVec 16) (va : Nat) : State :=
  { s with ilines := s.ilines.filter fun l => !(l.core == core && l.asid == asid && l.va == va / 64 * 64) }

/-! ### An empty agenda (log 2) -/

/-- What may be due of the slices' outstanding operations: each is the meaning of a step with its operands. -/
def State.dueTxns (s : State) : List (State → Host.Outcome State Fault Refusal) :=
  (s.slices.filter (·.pend.isSome)).map (fun x => execTrapEntry x.core x.slot) ++
  s.txns.flatMap fun t =>
    (t.lanes.filter fun l => windowOf l.addr == some .global && !s.laneGranted t l).map (fun l => execPageWalk (s.txnAsid t) l.addr) ++
    [execLateFaultReport t.id, execRegisterFill t.id, execStoreDiePoint t.id false]

/-- What may be due of the copy or gather engine that takes its work from a node. -/
def dueAtNode (n : NodeRec) : List (State → Host.Outcome State Fault Refusal) :=
  if n.entries.isEmpty then []
  else match nodeKind n.node with
    | some (.copy k) => [execCopySegment (Fin.ofNat 24 (k / 8))]
    | some (.copyEngine u) => [execCopySegment (Fin.ofNat 24 u)]
    | some (.gather u) => [execGatherBlock (Fin.ofNat 24 u)]
    | _ => []

/-- What may be due of the engines. -/
def State.dueEngines (s : State) : List (State → Host.Outcome State Fault Refusal) :=
  s.writes.flatMap (fun w => (List.finRange 5).map fun d => execWriteApplyAtDie w.id d) ++
  (s.octets.filter fun o => !o.queue.isEmpty).map (fun o => execTilePerform o.core) ++
  s.nodes.flatMap dueAtNode ++ s.cmds.map fun c => execCopyComplete c.id

/-- The cores whose wave leaves hold an entry. -/
def State.leafCores (s : State) : List Nat :=
  (List.range 192).filter fun k => s.nodes.any fun n => n.node == waveLeaf k && !n.entries.isEmpty

/-- An operation put into its place by the core and the slot of its slice. -/
def insertBySlot (t : Txn) (ts : List Txn) : List Txn :=
  let key (x : Txn) : Nat := 128 * x.core + (x.parts.head?.map (·.slot)).getD 0
  match ts with
  | [] => [t]
  | u :: r => if key t ≤ key u then t :: u :: r else u :: insertBySlot t r

/-- A node put into its place by its id. -/
def insertById (n : NodeRec) (ns : List NodeRec) : List NodeRec :=
  match ns with
  | [] => [n]
  | x :: r => if n.node ≤ x.node then n :: x :: r else x :: insertById n r

/-- What arrives at the nodes: first the releases by node id, then the pushes of slices by core and slot (R289, R312). -/
def State.dueArrivals (s : State) : List (State → Host.Outcome State Fault Refusal) :=
  ((s.nodes.filter fun n => isInner n.node && !n.entries.isEmpty).foldr insertById []).map (fun n => execNodeRelease n.node) ++
  ((s.txns.filter fun t => match t.kind with
    | .qpush .. => true
    | _ => false).foldr insertBySlot []).map fun t => execRegisterFill t.id

/-- What may be due of the rank tree: engines and turns that are to stop, among others (R310, R327). -/
def State.dueTree (s : State) : List (State → Host.Outcome State Fault Refusal) :=
  s.serving.filterMap (fun v => v.stop.map execPreemptionStop) ++
  s.tasks.flatMap (fun t => [execTaskFinish t.id, execBundlePhaseRetire t.id]) ++
  (s.nodes.filter fun n => isInner n.node && !n.entries.isEmpty).map (fun n => execBundlePhaseStart n.node) ++
  ((List.finRange 4).filter fun d => s.turnIdle d.val).map execWorldSwitch ++
  s.leafCores.flatMap (fun k => [execStagingCopy k, execGangRestore k, execPresenceRestore k]) ++
  (List.finRange 4).map execBlockPlace ++
  (List.finRange 4).flatMap fun d => (s.listed d.val).map fun p => execWavePreemption d p.1.num

/-- What may be due of the fabric and the network. -/
def State.dueFabric (s : State) : List (State → Host.Outcome State Fault Refusal) :=
  execDeviceArrival ::
  (if s.fab.ops.isEmpty && s.fab.replies.isEmpty then []
   else (List.finRange 9).flatMap fun g => (List.range 16).map fun i => execFabricPacketSend g (Fin.ofNat 144 (16 * g.val + i))) ++
  (if s.netReqs.isEmpty && s.netReplies.isEmpty then [] else [execNetworkPacketSend 0])

/-- The steps that may be due. -/
def State.due (s : State) : List (State → Host.Outcome State Fault Refusal) :=
  s.dueArrivals ++ s.dueTxns ++ s.dueEngines ++ s.dueTree ++ s.dueFabric

/-- The first due step that changes the state. -/
def State.firstDue (s : State) (fs : List (State → Host.Outcome State Fault Refusal)) : Option State :=
  fs.findSome? fun f => match f s with
    | .next t => if t = s then none else some t
    | .fault _ => none
    | .refused _ => none

/-! ### One step -/

/-- The next thing that happens: the head of the agenda; with an empty agenda what is due, else the first gang of the machine. -/
def State.turn (s : State) : Host.Outcome State Fault Refusal :=
  match s.agenda with
  | .event i :: t => Sys2Proof.Machine.exec i { s with agenda := t }
  | .issue k :: t => match s.nextGang fun g => g.core == k with
    | some g => (State.passOver { s with agenda := t } g).gangTurn g
    | none => .next { s with agenda := t }
  | .waited gid :: t => .next (State.modGang { s with agenda := t } gid fun g => { g with passed := max 64 g.passed })
  | .hostWrite a bs :: t => .next { s with agenda := t, hostMem := writeBytes s.hostMem a bs }
  | .evictLine c a v :: t => .next (State.evictLine { s with agenda := t } c a v)
  | .evictTlb k a v :: t => .next (State.dropTlbAt { s with agenda := t } k a v)
  | .evictCode k a v :: t => .next (State.evictCode { s with agenda := t } k a v)
  | [] => match s.firstDue s.due with
    | some t => .next t
    | none => match s.nextGang fun _ => true with
      | some g => (s.passOver g).gangTurn g
      | none => .next s

/-- What follows a turn at once. -/
def settleOutcome (o : Host.Outcome State Fault Refusal) : Host.Outcome State Fault Refusal :=
  match o with
  | .next s => .next s.settle.feed
  | .fault f => .fault f
  | .refused r => .refused r

/-! ### Placing an instruction for the next fetch (log 7) -/

/-- The line of code that holds a word in slot 1, with a literal of 0 in slot 2 if its opcode takes one. -/
def fetchLine (core : Nat) (asid : BitVec 16) (va : Nat) (slot : Fin 16) (lit : Bool) (w x : Word) : ILine :=
  let i := slot.val
  let h : Word := if lit then 2#32 <<< (2 * i) else 0#32
  ⟨core, asid, va, Vector.ofFn fun k : Fin 16 => if k.val = 0 then h else if k = slot then w else if k.val = i + 1 then x else 0#32⟩

/-- Put a line into an instruction cache in place of what it holds there. -/
def State.setCode (s : State) (l : ILine) : State :=
  { s with ilines := l :: s.ilines.filter fun x => !(x.core == l.core && (x.asid == l.asid || x.asid == 0#16) && x.va == l.va) }

/-- Whether a gang can take an instruction at its PC as it stands: it fetches next, and the PC can hold the instruction. -/
def State.canTake (s : State) (sup : Bool) (g : Gang) : Bool :=
  (s.membersOf g).all fun m => !m.late && !m.pathEnds && m.pc.extractLsb' 0 2 == 0#2 && windowOf m.pc == some .global &&
    decide (1 ≤ (slotOf m.pc).val ∧ (slotOf m.pc).val ≤ 14) && (!sup || modeSup m.mode)

/-- The first octet of core 0 without a slice in its slots; octet 0 if there is none. -/
def State.freeOctet (s : State) : Nat :=
  ((List.range 16).find? fun o => !s.slices.any fun x => x.core == 0 && x.place == .resident && x.slot / 8 == o).getD 0

/-- The machine with core 0 able to issue: what holds it back is over. -/
def State.unblocked (s : State) : State :=
  if s.coreIssues 0 then s
  else
    let s : State := { s with trust := { s.trust with power := .up }, fab := { s.fab with copying := false } }
    let s := s.setCore 0 { s.core 0 with retired := false, testing := false }
    s.modEntries (waveLeaf 0) fun es => es.map fun e => match e.kind with
      | .wave w (some _) => { e with kind := .wave w none }
      | _ => e

/-- A wave of one gang on core 0, all lanes active, at word 1 of line 0, loaded from outside (log 7); a gang of that core that could
issue before it is held until the step has ended. -/
def State.withGang (s : State) (sup : Bool) : State :=
  let n := s.nextId
  let num := s.nextWave
  let w : Wave := ⟨num, 0, 0, 8, 1#4, 4#64, 0#64, 0#32, Vector.replicate 16 0#32, 0, 0, 0, [], [], 8, 0#16, false, none⟩
  let mode : Word := if sup then 1#32 <<< 24 else 0#32
  let o := s.freeOctet
  { s with
    waves := s.waves ++ [w]
    slices := s.slices ++
      (List.range 8).map fun i => Slice.create (n + i) num (BitVec.ofNat 32 i) 0 (8 * o + i) 4#64 mode (Vector.replicate 16 0#32)
    gangs := (s.gangs.map fun g => if g.core == 0 && g.wait == .ready then { g with wait := .held false } else g) ++
      [⟨n + 8, 0, o, (List.range 8).map (n + ·), .ready, n + 8, 0⟩]
    nextWave := num + 1#32
    nextId := n + 9 }

/-- An instruction word, with a literal of 0 where it takes one, at the PC of a gang's first member. -/
def State.withCode (s : State) (m : Slice) (w x : Word) : State :=
  s.setCode (fetchLine m.core (s.sliceAsid m) (offsetOf m.pc / 64 * 64) (slotOf m.pc) (opTakesLiteral (w.extractLsb' 24 8)) w x)

end Sys2Proof.Machine
end

