-- ==== Sys2Proof/Machine/Step.lean ====
section
/-! DEFINITION. One step of the machine, and the placing of an instruction for the next fetch. -/

set_option Elab.async false

namespace Sys2Proof.Machine

/-- One step: a turn, and what follows it at once. -/
def step (s : State) : Host.Outcome State Fault Refusal := settleOutcome s.turn

/-- The state with the instruction of the table word `w` where the next step fetches (log 7): the bits above bit 31, up to `nbits`,
are its literal. -/
def State.withFetchWord (s : State) (nbits w : Nat) : State :=
  let v := w % 2 ^ nbits
  let x : Word := BitVec.ofNat 32 v
  let lit : Word := BitVec.ofNat 32 (v / 2 ^ 32)
  let sup := opSupervisor (x.extractLsb' 24 8)
  match s.nextGang (s.canTake sup) with
  | some g => match s.membersOf g with
    | m :: _ => ({ s with agenda := [.issue g.core] } : State).withCode m x lit
    | [] => s
  | none =>
    let t : State := { s.unblocked.withGang sup with agenda := [.issue 0] }
    match t.slice? s.nextId with
    | some m => t.withCode m x lit
    | none => t

end Sys2Proof.Machine
end

