-- ==== Sys2Proof/Safety.lean ====
section
/-! DEFINITION. What claims call a well-formed state, a safe step, a gang that issues and an instruction that nothing holds. -/

set_option Elab.async false

namespace Sys2Proof.Machine

/-- Every memory of a core keeps the canonical form. -/
def CoreRec.memWf (r : CoreRec) : Bool := r.spad.wf && r.accm.wf && r.bdata.wf && r.bside.wf

/-- Every memory of a saved presence keeps the canonical form. -/
def Presence.memWf (p : Presence) : Bool := p.spad.wf && p.accm.wf && p.bdata.wf && p.bside.wf

/-- Every memory of the machine keeps the canonical form: addresses strictly rising, no entry 0. -/
def State.memWf (s : State) : Bool :=
  s.hbm.wf && s.cdata.wf && s.hostMem.wf && s.endpoints.wf && s.cores.all CoreRec.memWf && s.presences.all Presence.memWf &&
  s.ctxs.all fun c => c.shells.wf

/-- A step is safe when it goes on: it neither faults nor is refused. -/
def goesOn (o : Host.Outcome State Fault Refusal) : Bool :=
  match o with
  | .next _ => true
  | .fault _ => false
  | .refused _ => false

/-- The gang g, whose members in their slots are ms, issues the instruction the latch c holds; the debugger steps none of them. -/
structure Issuing (s : State) (c : Cur) (g : Gang) (ms : List Slice) : Prop where
  latch : s.cur = some c
  gang : s.gang? c.gid = some g
  members : s.membersOf g = ms
  distinct : g.members.Nodup
  free : ∀ m ∈ ms, m.stepping = false

/-- Every register written and every register read is full, and no source holds a token of a failed command (R35, R36, R239). -/
def Slice.ready (m : Slice) (us : List SrcUse) (dst : List RegName) : Bool :=
  dst.all m.isFull && us.all fun u => m.isFull u.reg && !m.badToken u.reg

/-- The machine apart from what the issue of an instruction may always change: the latch, the slices, the gangs, the counter of names,
and which slices own a write on its way (R51, R52, R244). -/
def State.beyond (s : State) : State :=
  { s with
    cur := none, slices := [], gangs := [], nextId := 0, tokens := []
    writes := s.writes.map fun w => { w with by_ := [] } }

/-- A slice in which an instruction does not act waits for nothing: every register written is full, and every register read is full or
read under the trap policy (R35, R36, R376; log 12). -/
def Slice.calm (m : Slice) (us : List SrcUse) (dst : List RegName) : Bool :=
  dst.all m.isFull && us.all fun u => m.isFull u.reg || u.trap

/-- Nothing holds or traps an instruction in a member (R376): its gate is open; if it acts there, its registers are ready and its own
check passes; if it does not and its kind still waits, there is nothing to wait for. -/
def Issue.clear (k : Issue) (c : Cur) (m : Slice) : Prop :=
  k.gateTrap c m = none ∧
  (k.kind.acts (k.kind.view m) = true →
    (k.kind.view m).ready (k.srcs (k.kind.view m)) (k.dst (k.kind.view m)) = true ∧ k.early c (k.kind.view m) = none) ∧
  (k.kind.acts (k.kind.view m) = false → k.kind.waits = true →
    (k.kind.view m).calm (k.srcs (k.kind.view m)) (k.dst (k.kind.view m)) = true)

/-- A member as it stands once the instruction has issued: its PC is the next instruction's, and a member that acts has cleared the
check marks of the sources it read (R51, R239). -/
def Issue.moved (k : Issue) (c : Cur) (m : Slice) : Slice :=
  { (if k.kind.acts m then m.clearMarks (k.srcs m) else m) with pc := c.nxt }

end Sys2Proof.Machine
end

