-- ==== Sys2Proof/Certificates/Slice0/Obligations.lean ====
section
/-! DEFINITION. The statements about the model, each a proposition `Obligations.<Name>`, with the tables of effects they speak of. An
effect is written from the rule it cites; that the machine has it, on every state that meets the conditions named, is what the statement
says. -/

set_option Elab.async false

namespace Sys2Proof.Claims

open Sys2Proof.Machine

/-! ### Instructions that change only their own slices -/

/-- The effect of an instruction on the slices of its gang. `acts`: whether it acts in a slice; `uses`, `dst`: the registers it reads
through sources and those it writes; `need`: what else keeps it from trapping or waiting in a slice in which it acts; `next`: the slice
it leaves, from the gang's members and the slice as they stood at issue (the third and fourth arguments) and the slice moved on. -/
structure Effect where
  acts : Slice → Bool
  uses : Slice → List SrcUse
  dst : Slice → List RegName
  need : State → Cur → Slice → Prop
  next : State → Cur → List Slice → Slice → Slice → Slice

/-- A slice moved on (R51, R239): the PC is the next instruction's and the sources read have lost their check marks. -/
def moved (e : Effect) (c : Cur) (m : Slice) : Slice := { (if e.acts m then m.clearMarks (e.uses m) else m) with pc := c.nxt }

/-- A member in which the instruction does not act has only moved on; a gang-scope VRED gives it the exceptions of its tree too
(R135, R137). -/
def idle (i : Instr) (ms : List Slice) (m sl : Slice) : Slice :=
  match i with
  | .vred _ a b => if b.gang && (redAdmits b.op (modeEtype m.mode)).isSome then sl.raise (redTree b a.reg ms m).2 else sl
  | _ => sl

/-- What an instruction leaves of the machine beyond the slices: of the state before, the latch, the members in which it acts and the
state after. -/
abbrev Rest := State → Cur → List Slice → State → Prop

/-- Nothing beyond the slices changes. -/
def quiet : Rest := fun s _ _ t => t.beyond = s.beyond

/-- The instruction completes for its gang: exec answers a next state in which every member in which it acts is the slice the effect
gives, every other member has only moved on (`idle`), every other slice is as before, and the machine beyond the slices is as `rest`
says; the gangs are as before too unless the instruction yields. -/
def Completes (i : Instr) (e : Effect) (rest : Rest) (s : State) (c : Cur) (ms : List Slice) : Prop :=
  ∃ t, exec i s = .next t ∧
    (∀ m ∈ ms, t.slice? m.sid = some (if e.acts m then e.next s c ms m (moved e c m) else idle i ms m (moved e c m))) ∧
    (∀ b, b ∉ ms.map (·.sid) → t.slice? b = s.slice? b) ∧ rest s c (ms.filter e.acts) t ∧ t.cur = none ∧
    (c.yields = false → t.gangs = s.gangs ∧ t.nextId = s.nextId)

/-- A member may run the instruction in its mode: the supervisor's instructions need MODE.SUP = 1 in every member, whatever its lanes, the
supervisor's registers in a member with an active lane (R61, R83, R376). -/
def permitted (i : Instr) (m : Slice) : Prop :=
  match i with
  | .retr | .rett | .ptew _ _ _ | .fpool _ _ _ | .trule _ _ _ => modeSup m.mode = true
  | .csrr _ b => m.active ≠ 0#4 → csrTrap b = true → modeSup m.mode = true
  | .csrw _ b => m.active ≠ 0#4 → csrWriteSup b = true → modeSup m.mode = true
  | _ => True

/-- Whether a slice in which the instruction does not act still waits for its registers: the per-lane and whole-mask instructions do, a
scalar-class one does not (R36, R62, R76, R88; log 12). -/
def perLane (i : Instr) : Bool :=
  match i with
  | .bri .. | .call .. | .calli .. | .ret .. | .vadd .. | .vsub .. | .vmul .. | .vmulh .. | .vmad .. | .vmin .. | .vmax .. | .vminu ..
  | .vmaxu .. | .vabsd .. | .vand .. | .vor .. | .vxor .. | .vandn .. | .vshl .. | .vshr .. | .vsar .. | .vrot .. | .vcmp .. | .vsel ..
  | .vli .. | .vbcs .. | .vclz .. | .vbitc .. | .plog .. | .vdot4 .. | .fadd .. | .fsub .. | .fmul .. | .ffma .. | .ffms .. | .fmin ..
  | .fmax .. | .fcmp .. | .frcp .. | .frsq .. | .fexp2 .. | .flog2 .. | .fsin .. | .fcos .. | .ftanh .. | .fclass .. | .cmul ..
  | .cfma .. | .cconj .. | .cbfly .. | .ctwid .. | .fcvt .. | .ftoi .. | .itof .. | .pack .. | .unpk .. | .mxq .. | .mxdq .. | .cbd ..
  | .vballot .. | .vpopc .. | .vshuf .. | .vscan .. | .vred .. | .vbcast .. | .ldp .. | .stp .. | .stx .. | .ldx .. | .amx .. | .amxr ..
  | .ldB .. | .ldH .. | .ldW .. | .ldAcq .. | .stB .. | .stH .. | .stW .. | .stRel .. | .atomAdd .. | .atomMin .. | .atomMax ..
  | .atomAnd .. | .atomOr .. | .atomXor .. | .atomCas .. | .atomXchg .. => true
  | _ => false

/-- Nothing is waited for in a member in which the instruction does not act. -/
def rests (i : Instr) (acts : Slice → Bool) (uses : Slice → List SrcUse) (dst : Slice → List RegName) (m : Slice) : Prop :=
  acts m = false → perLane i = true → m.calm (uses m) (dst m) = true

/-- Every instruction of a table completes with its effect, in every state in which a gang issues it, the registers it reads and writes
in the slices where it acts are full and carry no failed token, its own conditions hold there, and the other members wait for nothing. -/
def Table (table : Instr → Option Effect) (rest : Instr → Rest) : Prop :=
  ∀ i e s c g ms, table i = some e → Issuing s c g ms → (∀ m ∈ ms, permitted i m) →
    (∀ m ∈ ms, e.acts m = true → m.ready (e.uses m) (e.dst m) = true ∧ e.need s c m) → (∀ m ∈ ms, rests i e.acts e.uses e.dst m) →
    Completes i e (rest i) s c ms

/-- A lane is active (R33). -/
def guarded (m : Slice) : Bool := m.active != 0#4

/-- Nothing else is needed. -/
def always : State → Cur → Slice → Prop := fun _ _ _ => True

/-! ### Groups 0x1 and 0x2 -/

/-- s[D] := f(s[A], s[B]) (R79). -/
def scalar2 (d : SReg) (a b : SSrc) (f : Word → Word → Word) : Option Effect :=
  some ⟨guarded, fun m => m.ssUses a 1 ++ m.ssUses b 2, fun m => [m.sname d], always,
    fun _ _ _ m sl => sl.setS d (f (m.readSrc a.reg) (m.readSrc b.reg))⟩

/-- The effects of group 0x1 (R79), as integer arithmetic. -/
def scalarTable (i : Instr) : Option Effect :=
  match i with
  | .add d a b => scalar2 d a b fun x y => BitVec.ofInt 32 (x.toInt + y.toInt)
  | .sub d a b => scalar2 d a b fun x y => BitVec.ofInt 32 (x.toInt - y.toInt)
  | .mul d a b => scalar2 d a b fun x y => BitVec.ofInt 32 (x.toInt * y.toInt)
  | .mulhs d a b => scalar2 d a b fun x y => BitVec.ofInt 32 (x.toInt * y.toInt / 2 ^ 32)
  | .mulhu d a b => scalar2 d a b fun x y => BitVec.ofNat 32 (x.toNat * y.toNat / 2 ^ 32)
  | .divs d a b => scalar2 d a b fun x y => if y = 0#32 then 0xFFFFFFFF#32 else BitVec.ofInt 32 (x.toInt.tdiv y.toInt)
  | .divu d a b => scalar2 d a b fun x y => if y = 0#32 then 0xFFFFFFFF#32 else BitVec.ofNat 32 (x.toNat / y.toNat)
  | .andS d a b => scalar2 d a b fun x y => x &&& y
  | .orS d a b => scalar2 d a b fun x y => x ||| y
  | .xorS d a b => scalar2 d a b fun x y => x ^^^ y
  | .shl d a b => scalar2 d a b fun x y => if y.toNat < 32 then BitVec.ofNat 32 (x.toNat * 2 ^ y.toNat) else 0#32
  | .shr d a b => scalar2 d a b fun x y => if y.toNat < 32 then BitVec.ofNat 32 (x.toNat / 2 ^ y.toNat) else 0#32
  | .sar d a b => scalar2 d a b fun x y => BitVec.ofInt 32 (x.toInt / 2 ^ min y.toNat 31)
  | .mins d a b => scalar2 d a b fun x y => BitVec.ofInt 32 (min x.toInt y.toInt)
  | .maxs d a b => scalar2 d a b fun x y => BitVec.ofInt 32 (max x.toInt y.toInt)
  | .slt d a b => scalar2 d a b fun x y => if x.toInt < y.toInt then 1#32 else 0#32
  | _ => none

/-- s[D] := the value (R80). -/
def scalar1 (d : SReg) (uses : Slice → List SrcUse) (f : Slice → Word) : Option Effect :=
  some ⟨guarded, uses, fun m => [m.sname d], always, fun _ _ _ m sl => sl.setS d (f m)⟩

/-- pair[D] := the value (R81). -/
def pair1 (d : SPairReg) (uses : Slice → List SrcUse) (f : Slice → DWord) : Option Effect :=
  some ⟨guarded, uses, fun m => m.pairNames d, always, fun _ _ _ m sl => sl.setPair d (f m)⟩

/-- A word as a signed number modulo 2^64. -/
def signed64 (x : Word) : DWord := BitVec.ofInt 64 x.toInt

/-- The literal and pair forms of group 0x2, GETM and CSRR (R80, R81, R83, R84). -/
def literalTable (i : Instr) : Option Effect :=
  match i with
  | .li d lit => scalar1 d (fun _ => []) fun _ => lit
  | .addi d a lit => scalar1 d (fun m => m.ssUses a 1) fun m => m.readSrc a.reg + lit
  | .andi d a lit => scalar1 d (fun m => m.ssUses a 1) fun m => m.readSrc a.reg &&& lit
  | .ori d a lit => scalar1 d (fun m => m.ssUses a 1) fun m => m.readSrc a.reg ||| lit
  | .addp d a b => pair1 d (fun m => m.spUses a 1 ++ m.ssUses b 2) fun m => m.readPair a.reg + signed64 (m.readSrc b.reg)
  | .addpi d a lit => pair1 d (fun m => m.spUses a 1) fun m => m.readPair a.reg + signed64 lit
  | .getm d => scalar1 d (fun _ => []) fun m => m.mode
  | .csrr d b => some ⟨guarded, fun _ => [], fun m => [m.sname d], always,
      fun s _ _ m sl => sl.setS d (s.readCsr m b)⟩
  | _ => none

/-! ### Groups 0x0 and 0x9: instructions that move on, regions, full/empty bits -/

/-- NOP, RGN, FETST, FEMRK and PREF (R63, R92, R95, R96, R146). -/
def plainTable (i : Instr) : Option Effect :=
  match i with
  | .nop => some ⟨fun _ => true, fun _ => [], fun _ => [], always, fun _ _ _ _ sl => sl⟩
  | .rgn => some ⟨fun _ => true, fun _ => [], fun _ => [],
      fun s _ m => s.resolved m.sid = true ∧ s.faultedTxns m.sid = [],
      fun _ c _ m sl => { sl with
        rgnpc := c.nxt, rgncnt := m.rgncnt + 1#32, rgnMask := m.amask, rgnDepth := m.stack.length + m.sup.length }⟩
  | .fetst p r => some ⟨guarded, fun _ => [], fun _ => [], always,
      fun _ _ _ m sl => sl.setP p m.active (if (m.feUses r).all fun u => m.isFull u.reg then 15#4 else 0#4)⟩
  | .femrk r full => some ⟨guarded, fun _ => [], fun _ => [], fun s _ m => s.producing m.sid (m.fullName r) = false,
      fun _ _ _ m sl => sl.setFull (m.fullName r) full⟩
  | .pref a _ => some ⟨guarded, fun m => m.spUses a 1, fun _ => [], always, fun _ _ _ _ sl => sl⟩
  | _ => none

/-! ### Groups 0x3 to 0x8 -/

/-- v[D] := the lanes, with the exceptions they raise, in the active lanes (R31, R33, R103). -/
def writeV (d : VDst) (m sl : Slice) (f : Fin 4 → Word × Flags) : Slice :=
  (sl.setV d m.active (Lanes.ofFn fun i => (f i).1)).raise (flagsOf m.active fun i => (f i).2)

/-- A vector instruction whose lanes depend on its own slice. -/
def vector (d : VDst) (uses : Slice → List SrcUse) (need : Slice → Prop) (f : Slice → Fin 4 → Word × Flags) : Option Effect :=
  some ⟨guarded, uses, fun _ => [vregName d.reg], fun _ _ m => need m, fun _ _ _ m sl => writeV d m sl (f m)⟩

/-- A two-source form on the lanes' words: of A, B and the destination as it stood. -/
def vector2 (d : VDst) (a b : VSrc) (m : Option Modifier) (need : Slice → Prop)
    (f : Slice → Word → Word → Word → Word × Flags) : Option Effect :=
  vector d (fun sl => vsUses a 1 ++ vsUses b 2 ++ sl.clampUses m) need fun sl i =>
    f sl ((sl.readV a.reg).get i) ((sl.readV b.reg).get i) ((sl.readReg d.reg).get i)

/-- A one-source form on the lanes' words: of A and the destination as it stood. -/
def vector1 (d : VDst) (a : VSrc) (m : Option Modifier) (need : Slice → Prop)
    (f : Slice → Word → Word → Word × Flags) : Option Effect :=
  vector d (fun sl => vsUses a 1 ++ sl.clampUses m) need fun sl i => f sl ((sl.readV a.reg).get i) ((sl.readReg d.reg).get i)

/-- A result of 32 bits without an exception. -/
def word (x : Word) : Word × Flags := (x, Flags.none)

/-- An element operation on unsigned patterns of the integer width of MODE.ETYPE, without an exception. -/
def onElems (sl : Slice) (a b : Word) (op : Nat → Nat → Nat → Nat) : Word × Flags :=
  let n := intWidth (modeEtype sl.mode)
  word (packElems n ((List.range (32 / n)).map fun j => op n (elem n a j) (elem n b j)))

/-- An element operation on signed values, finished by the modifier word (R57, R58, R110). -/
def onInts (sl : Slice) (m : Option Modifier) (a b d : Word) (op : Int → Int → Int → Int) : Word × Flags :=
  let n := intWidth (modeEtype sl.mode)
  let w := modOf m
  word (packElems n ((List.range (32 / n)).map fun j => finishInt sl m n
    (op (signInt w.absa w.nega (intOfBits (elem n a j) n)) (signInt w.absb w.negb (intOfBits (elem n b j) n))
      (intOfBits (elem n d j) n))))

/-- Whether a condition of VCMP holds of two patterns of n bits (R112). -/
def icond (c : ICond) (n x y : Nat) : Bool :=
  match c with
  | .eq => x == y
  | .ne => x != y
  | .lt => decide (intOfBits x n < intOfBits y n)
  | .le => decide (intOfBits x n ≤ intOfBits y n)
  | .gt => decide (intOfBits y n < intOfBits x n)
  | .ge => decide (intOfBits y n ≤ intOfBits x n)
  | .ltu => decide (x < y)
  | .leu => decide (x ≤ y)
  | .gtu => decide (y < x)
  | .geu => decide (y ≤ x)

/-- One bit for each lane. -/
def bits4 (f : Fin 4 → Bool) : BitVec 4 := BitVec.ofBool (f 3) ++ BitVec.ofBool (f 2) ++ BitVec.ofBool (f 1) ++ BitVec.ofBool (f 0)

/-- Nothing is needed of a slice. -/
def anyMode (_ : Slice) : Prop := True

/-- The effects of groups 0x3 and 0x4 (R110–R114). -/
def integerTable (i : Instr) : Option Effect :=
  match i with
  | .vadd d a b m => vector2 d a b m anyMode fun sl x y z => onInts sl m x y z fun p q _ => p + q
  | .vsub d a b m => vector2 d a b m anyMode fun sl x y z => onInts sl m x y z fun p q _ => p - q
  | .vmul d a b m => vector2 d a b m anyMode fun sl x y z => onInts sl m x y z fun p q _ => p * q
  | .vmad d a b m => vector2 d a b m anyMode fun sl x y z => onInts sl m x y z fun p q r => p * q + r
  | .vmulh d a b m => vector2 d a b m anyMode fun sl x y _ =>
      onElems sl x y fun n p q => intBits (wrapInt (intOfBits p n * intOfBits q n / 2 ^ n) n) n
  | .vmin d a b m => vector2 d a b m anyMode fun sl x y _ => onElems sl x y fun n p q => if intOfBits p n < intOfBits q n then p else q
  | .vmax d a b m => vector2 d a b m anyMode fun sl x y _ => onElems sl x y fun n p q => if intOfBits p n < intOfBits q n then q else p
  | .vminu d a b m => vector2 d a b m anyMode fun sl x y _ => onElems sl x y fun _ p q => min p q
  | .vmaxu d a b m => vector2 d a b m anyMode fun sl x y _ => onElems sl x y fun _ p q => max p q
  | .vabsd d a b m => vector2 d a b m anyMode fun sl x y _ => onElems sl x y fun n p q =>
      let v := (intOfBits p n - intOfBits q n).natAbs
      if modeOsat sl.mode || (modOf m).sat then min v (2 ^ (n - 1) - 1) else v % 2 ^ n
  | .vand d a b m => vector2 d a b m anyMode fun _ x y _ => word (x &&& y)
  | .vor d a b m => vector2 d a b m anyMode fun _ x y _ => word (x ||| y)
  | .vxor d a b m => vector2 d a b m anyMode fun _ x y _ => word (x ^^^ y)
  | .vandn d a b m => vector2 d a b m anyMode fun _ x y _ => word (x &&& ~~~y)
  | .vshl d a b m => vector2 d a b m anyMode fun sl x y _ => onElems sl x y fun n p k => if k < n then p * 2 ^ k % 2 ^ n else 0
  | .vshr d a b m => vector2 d a b m anyMode fun sl x y _ => onElems sl x y fun n p k => if k < n then p / 2 ^ k else 0
  | .vsar d a b m => vector2 d a b m anyMode fun sl x y _ =>
      onElems sl x y fun n p k => intBits (intOfBits p n / 2 ^ min k (n - 1)) n
  | .vrot d a b m => vector2 d a b m anyMode fun sl x y _ => onElems sl x y fun n p k => rotl n p k
  | .vcmp d a b m => some ⟨guarded, fun sl => vsUses a 1 ++ vsUses b 2 ++ sl.clampUses m, fun _ => [], always, fun _ _ _ sl t =>
      let n := intWidth (modeEtype sl.mode)
      t.setP d.p sl.active (bits4 fun i => (List.range (32 / n)).all fun j =>
        icond d.cond n (elem n ((sl.readV a.reg).get i) j) (elem n ((sl.readV b.reg).get i) j))⟩
  | .vsel d a b m => some ⟨fun sl => sl.amask != 0#4, fun sl => vsUses a 1 ++ vsUses b 2 ++ sl.clampUses m,
      fun _ => [vregName d.reg], always,
      fun _ _ _ sl t => t.setV d sl.amask (Lanes.merge sl.guardBits (sl.readV a.reg) (sl.readV b.reg))⟩
  | .vli d lit m => vector d (fun sl => sl.clampUses m) anyMode fun _ _ => word lit
  | .vbcs d a m => vector d (fun sl => sl.ssUses a 1 ++ sl.clampUses m) anyMode fun sl _ => word (sl.readSrc a.reg)
  | .vclz d a m => vector1 d a m anyMode fun sl x _ => onElems sl x 0#32 fun n p _ => leadingZeros n p
  | .vbitc d a m => vector1 d a m anyMode fun sl x _ => onElems sl x 0#32 fun n p _ => popcount n p
  | .plog d a b m => some ⟨guarded, fun sl => sl.clampUses m, fun _ => [], always,
      fun _ _ _ sl t => t.setP d.p sl.active (plogBits d.op (sl.p.get a) (sl.p.get b))⟩
  | .vdot4 d a b m => vector2 d a b m anyMode fun sl x y z =>
      word (BitVec.ofInt 32 (intRes (z.toInt + dot4 x y) 32 (modeOsat sl.mode || (modOf m).sat)))
  | _ => none

/-! ### Groups 0x5 and 0x6 -/

/-- MODE.ETYPE is a real float type (R104, R105). -/
def realMode (sl : Slice) : Prop := (realFmt (modeEtype sl.mode)).isSome = true

/-- MODE.ETYPE is a complex type (R104, R105). -/
def complexMode (sl : Slice) : Prop := (complexFmt (modeEtype sl.mode)).isSome = true

/-- The exact result of two or three operands, with its exceptions, rounded once and finished by the modifier word (R23, R57, R58). -/
def onFloats (sl : Slice) (m : Option Modifier) (a b d : Word) (op : Rnd → FVal → FVal → FVal → FVal × Flags) : Word × Flags :=
  fpForm m op sl a b d

/-- A comparison: one predicate bit for each active lane, all elements together, and the exceptions of NaNs. -/
def fcmpBits (d : FCmp) (a b : VSrc) (m : Option Modifier) (sl : Slice) (i : Fin 4) : Bool :=
  let f := sl.realFmt
  (List.range (32 / fmtWidth f)).all fun j =>
    fcondHolds d.cond
      (signFp (modOf m).absa (modOf m).nega (decFp f (modeFtz sl.mode) (elem (fmtWidth f) ((sl.readV a.reg).get i) j)))
      (signFp (modOf m).absb (modOf m).negb (decFp f (modeFtz sl.mode) (elem (fmtWidth f) ((sl.readV b.reg).get i) j)))

/-- Whether an element of lane i of A or B is a signalling NaN (R117). -/
def anySig (a b : VSrc) (m : Option Modifier) (sl : Slice) (i : Fin 4) : Bool :=
  let f := sl.realFmt
  (List.range (32 / fmtWidth f)).any fun j =>
    (signFp (modOf m).absa (modOf m).nega (decFp f (modeFtz sl.mode) (elem (fmtWidth f) ((sl.readV a.reg).get i) j))).isSig ||
    (signFp (modOf m).absb (modOf m).negb (decFp f (modeFtz sl.mode) (elem (fmtWidth f) ((sl.readV b.reg).get i) j))).isSig

/-- The effects of group 0x5 (R115–R119). -/
def floatTable (i : Instr) : Option Effect :=
  match i with
  | .fadd d a b m => vector2 d a b m realMode fun sl x y z => onFloats sl m x y z fun rm p q _ => FVal.add rm p q
  | .fsub d a b m => vector2 d a b m realMode fun sl x y z => onFloats sl m x y z fun rm p q _ => FVal.add rm p q.negate
  | .fmul d a b m => vector2 d a b m realMode fun sl x y z => onFloats sl m x y z fun _ p q _ => p.mul q
  | .ffma d a b m => vector2 d a b m realMode fun sl x y z => onFloats sl m x y z fun rm p q r => fmaExact rm p q r
  | .ffms d a b m => vector2 d a b m realMode fun sl x y z => onFloats sl m x y z fun rm p q r => fmaExact rm p.negate q r
  | .fmin d a b m => vector2 d a b m realMode fun sl x y z => minmaxForm false m sl x y z
  | .fmax d a b m => vector2 d a b m realMode fun sl x y z => minmaxForm true m sl x y z
  | .fcmp d a b m => some ⟨guarded, fun sl => vsUses a 1 ++ vsUses b 2 ++ sl.clampUses m, fun _ => [], fun _ _ sl => realMode sl,
      fun _ _ _ sl t => (t.setP d.p sl.active (bits4 (fcmpBits d a b m sl))).raise
        (flagsOf sl.active fun i => if anySig a b m sl i then Flags.invalid else Flags.none)⟩
  | .frcp d a m => vector1 d a m realMode fun sl x z => approxForm .rcp m sl x z
  | .frsq d a m => vector1 d a m realMode fun sl x z => approxForm .rsq m sl x z
  | .fexp2 d a m => vector1 d a m realMode fun sl x z => approxForm .exp2 m sl x z
  | .flog2 d a m => vector1 d a m realMode fun sl x z => approxForm .log2 m sl x z
  | .fsin d a m => vector1 d a m realMode fun sl x z => approxForm .sin m sl x z
  | .fcos d a m => vector1 d a m realMode fun sl x z => approxForm .cos m sl x z
  | .ftanh d a m => vector1 d a m realMode fun sl x z => approxForm .tanh m sl x z
  | .fclass d a m => vector1 d a m realMode fun sl x _ =>
      let f := sl.realFmt
      word (packElems (fmtWidth f) ((List.range (32 / fmtWidth f)).map fun j => classOf f (elem (fmtWidth f) x j)))
  | _ => none

/-- A finite value as a rational number; 0 for the others. -/
def ratOf (x : FVal) : Rat :=
  match x with
  | .fin n m e => (if n then -1 else 1) * (m : Rat) * (2 : Rat) ^ e
  | _ => 0

/-- The unit in the last place of FP32 at a value (R18, R118). -/
def ulpAt (x : FVal) : Rat :=
  match x with
  | .fin _ m e => (2 : Rat) ^ ((if m = 0 then -126 else max ((Nat.log2 m : Int) + e) (-126)) - 23)
  | _ => 0

/-- The bounds of R118 for a result y of a finite x that is none of the special inputs. 1/x and 1/√x are compared by the equations they
solve; `mid` is the exact value of the others to 190 bits (log 13). -/
def withinR118 (op : ApproxOp) (x mid y : FVal) : Prop :=
  let X := ratOf x
  let Y := ratOf y
  let b := ulpAt mid
  match op with
  | .rcp => (Y * X - 1).abs ≤ b * X.abs
  | .rsq => (0 < Y - 2 * b → (Y - 2 * b) * (Y - 2 * b) * X ≤ 1) ∧ 0 < Y + 2 * b ∧ 1 ≤ (Y + 2 * b) * (Y + 2 * b) * X
  | .exp2 => (Y - ratOf mid).abs ≤ 2 * b
  | .log2 => (Y - ratOf mid).abs ≤ if X < 1 / 2 ∨ 2 < X then 2 * b else 1 / 2 ^ 22
  | .sin | .cos => (Y - ratOf mid).abs ≤ 1 / 2 ^ 22
  | .tanh => (Y - ratOf mid).abs ≤ 1 / 2 ^ 21 ∧ Y.abs ≤ 1

/-- Special inputs of R118 in FP32, each with its result and its exceptions. -/
def approxSpecials : List (ApproxOp × Word × Word × Flags) :=
  [(.rcp, 0x00000000#32, 0x7F800000#32, Flags.divZero), (.rcp, 0x80000000#32, 0xFF800000#32, Flags.divZero),
   (.rcp, 0x7F800000#32, 0x00000000#32, Flags.none), (.rcp, 0xFF800000#32, 0x80000000#32, Flags.none),
   (.rsq, 0x00000000#32, 0x7F800000#32, Flags.divZero), (.rsq, 0x80000000#32, 0xFF800000#32, Flags.divZero),
   (.rsq, 0xBF800000#32, 0x7FC00000#32, Flags.invalid), (.rsq, 0x7F800000#32, 0x00000000#32, Flags.none),
   (.exp2, 0xFF800000#32, 0x00000000#32, Flags.none), (.exp2, 0x7F800000#32, 0x7F800000#32, Flags.none),
   (.exp2, 0x40400000#32, 0x41000000#32, Flags.none), (.log2, 0x00000000#32, 0xFF800000#32, Flags.divZero),
   (.log2, 0x80000000#32, 0xFF800000#32, Flags.divZero), (.log2, 0xBF800000#32, 0x7FC00000#32, Flags.invalid),
   (.log2, 0x3F800000#32, 0x00000000#32, Flags.none), (.sin, 0x7F800000#32, 0x7FC00000#32, Flags.invalid),
   (.sin, 0x3F000000#32, 0x00000000#32, Flags.none), (.cos, 0xFF800000#32, 0x7FC00000#32, Flags.invalid),
   (.cos, 0x3F800000#32, 0x3F800000#32, Flags.none), (.cos, 0x3E800000#32, 0x00000000#32, Flags.none),
   (.tanh, 0x7F800000#32, 0x3F800000#32, Flags.none), (.tanh, 0xFF800000#32, 0xBF800000#32, Flags.none),
   (.tanh, 0x80000000#32, 0x80000000#32, Flags.none)]

/-- Complex element j of the lane pair of lane i of a source (R14). -/
def cplx (sl : Slice) (r : VSrcReg) (i : Fin 4) (j : Nat) : Cplx := cplxAt sl.complexFmt (modeFtz sl.mode) (sl.readV r) i j

/-- One lane of a complex result from its elements: real parts in an even lane, imaginary parts in an odd one (R14). -/
def onCplx (sl : Slice) (i : Fin 4) (f : Nat → Bool → Nat × Flags) : Word × Flags := cplxLane sl.complexFmt i f

/-- The effects of group 0x6 (R121–R123). -/
def complexTable (i : Instr) : Option Effect :=
  match i with
  | .cmul d a b m => vector d (fun sl => vsUses a 1 ++ vsUses b 2 ++ sl.clampUses m) complexMode fun sl i => onCplx sl i fun j im =>
      roundPart sl m sl.complexFmt (cplxMul (modeRnd sl.mode) (cplx sl a.reg i j) (cplx sl b.reg i j) im)
  | .cfma d a b m => vector d (fun sl => vsUses a 1 ++ vsUses b 2 ++ sl.clampUses m) complexMode fun sl i => onCplx sl i fun j im =>
      let z := cplxAt sl.complexFmt (modeFtz sl.mode) (sl.readReg d.reg) i j
      let p := cplxMul (modeRnd sl.mode) (cplx sl a.reg i j) (cplx sl b.reg i j) im
      let r := FVal.add (modeRnd sl.mode) p.1 (if im then z.im else z.re)
      roundPart sl m sl.complexFmt (r.1, p.2.or r.2)
  | .cconj d a m => vector d (fun sl => vsUses a 1 ++ sl.clampUses m) complexMode fun sl i => onCplx sl i fun j im =>
      let v := if im then (cplx sl a.reg i j).im.negate else (cplx sl a.reg i j).re
      (bitsOf sl.complexFmt v, if v.isSig then Flags.invalid else Flags.none)
  | .cbfly d a b m => some ⟨guarded, fun sl => vpUses a 1 ++ vsUses b 2 ++ sl.clampUses m,
      fun _ => [vregName (vpairRegs d.reg).1, vregName (vpairRegs d.reg).2], fun _ _ sl => complexMode sl, fun _ _ _ sl t =>
        ((t.setV ⟨(vpairRegs d.reg).1, d.shift⟩ sl.active (Lanes.ofFn fun i => sl.cbflyLane m a b false i)).setReg
          (vpairRegs d.reg).2 sl.active (Lanes.ofFn fun i => sl.cbflyLane m a b true i)).raise
          (flagsOf sl.active fun i => (List.range (32 / fmtWidth sl.complexFmt)).foldl
            (fun acc j => acc.or (sl.cbflyAt m a b i j).2) Flags.none)⟩
  | .ctwid d a b m => vector d (fun sl => vsUses a 1 ++ sl.clampUses m) anyMode fun sl i =>
      word (if i.val % 2 = 1 then (twiddle ((sl.readV a.reg).get (evenLane i)).toNat b.val).2
        else (twiddle ((sl.readV a.reg).get (evenLane i)).toNat b.val).1)
  | _ => none

/-! ### Group 0x7 -/

/-- What a conversion needs: an element type it writes, and a part index below r (R125). -/
def convertible {α : Type} (admits : EType → Option α) (ws k : Nat) (sl : Slice) : Prop :=
  (admits (modeEtype sl.mode)).isSome = true ∧ k < max ws (etypeWidth (modeEtype sl.mode)) / min ws (etypeWidth (modeEtype sl.mode))

/-- A conversion of the elements of a part (R125). -/
def conversion (d : VDst) (a : VSrc) (m : Option Modifier) (ws k : Nat) (need : Slice → Prop)
    (conv : Slice → Nat → Nat × Flags) : Option Effect :=
  vector1 d a m need fun sl x z => convLane ws (etypeWidth (modeEtype sl.mode)) k x z (conv sl)

/-- The real value of the active lanes of the acting members, for the block scale of MXQ (R129). -/
def mxBlock (ms : List Slice) (a : VSrc) (mode : Word) : List FVal :=
  ms.flatMap fun o => (lanesOf o.active).map fun i => decFp .fp32 (modeFtz mode) ((o.readV a.reg).get i).toNat

/-- The effects of group 0x7 (R125–R131). -/
def convertTable (i : Instr) : Option Effect :=
  match i with
  | .fcvt d a b m => conversion d a m (fmtWidth b.src) b.k.val (convertible cvtFmt (fmtWidth b.src) b.k.val) fun sl x =>
      let v := decFp b.src (modeFtz sl.mode) x
      finishFp sl m ((cvtFmt (modeEtype sl.mode)).getD .fp32) (v, if v.isSig then Flags.invalid else Flags.none)
  | .ftoi d a b m => conversion d a m (fmtWidth b.src) b.k.val (convertible cvtInts (fmtWidth b.src) b.k.val) fun sl x =>
      let n := etypeWidth (modeEtype sl.mode)
      let r := cvtInt n (modeRnd sl.mode) ((decFp b.src (modeFtz sl.mode) x).scale (scaleOf m))
      (intBits r.1 n, r.2)
  | .itof d a b m => conversion d a m (intFmtWidth b.src) b.k.val (convertible cvtFmt (intFmtWidth b.src) b.k.val) fun sl x =>
      let f := (cvtFmt (modeEtype sl.mode)).getD .fp32
      let y := roundFp f (modeRnd sl.mode) (satOf sl.mode m) false ((FVal.ofInt (intOfBits x (intFmtWidth b.src))).scale (scaleOf m))
      (clampFp sl m f y.1, y.2)
  | .pack d a b m => vector2 d a b m (fun sl => (packWidth (modeEtype sl.mode)).isSome = true) fun sl x y _ =>
      let w := (packWidth (modeEtype sl.mode)).getD 16
      word (packElems w (((List.range (16 / w)).map fun j => elem w x (2 * j)) ++ (List.range (16 / w)).map fun j => elem w y (2 * j)))
  | .unpk d a b m => vector1 d a m (fun sl => (unpkWidth (modeEtype sl.mode)).isSome = true) fun sl x _ =>
      let w := (unpkWidth (modeEtype sl.mode)).getD 8
      word (packElems (2 * w) ((List.range (16 / w)).map fun j =>
        let e := elem w x ((if b.h then 16 / w else 0) + j)
        if b.zx then e else intBits (intOfBits e w) (2 * w)))
  | .mxq d a m => some ⟨guarded, fun sl => vsUses a 1 ++ sl.clampUses m, fun _ => [vregName d.reg],
      fun _ _ sl => (mxFmt (modeEtype sl.mode)).isSome = true, fun _ _ ms o sl =>
        let f := (mxFmt (modeEtype o.mode)).getD .e4m3
        writeV d o sl fun i => mxqLane o.mode f (mxScale o.mode f (mxBlock ms a o.mode))
          (decFp .fp32 (modeFtz o.mode) ((o.readV a.reg).get i).toNat)⟩
  | .mxdq d a m => vector1 d a m (fun sl => (mxFmt (modeEtype sl.mode)).isSome = true) fun sl x _ =>
      let f := (mxFmt (modeEtype sl.mode)).getD .e4m3
      let y := roundFp .fp32 (modeRnd sl.mode) (modeOsat sl.mode) (modeFtz sl.mode)
        (mxDec f (modeUnitScale sl.mode) (elem 8 x 1) (elem (fmtWidth f) x 0))
      (BitVec.ofNat 32 y.1, y.2)
  | .cbd d a b m => some ⟨guarded, fun sl => vsUses a 1 ++ sl.clampUses m, fun _ => [vregName d.reg], always, fun s _ _ o sl =>
      writeV d o sl fun i =>
        let x := (o.readV a.reg).get i
        let idx := x.extractLsb' 0 16
        let entry := s.shellEntry (s.ctxOfWave o.wave) (modeTable o.mode).val (idx.extractLsb' 8 8).toNat
        let pat (f : FpFmt) (k : Nat) : Nat := cbdPattern f (cb2Weight entry idx (elem 8 x 2) k)
        word (match b.fmt with
          | .e4m3 => packElems 8 ((List.range 4).map fun j => pat .e4m3 (4 * b.k.val + j))
          | .e5m2 => packElems 8 ((List.range 4).map fun j => pat .e5m2 (4 * b.k.val + j))
          | .bf16 => packElems 16 ((List.range 2).map fun j => pat .bf16 (2 * b.k.val + j)))⟩
  | _ => none

/-! ### Group 0x8 -/

/-- A vector instruction whose lanes depend on the gang's members. -/
def crossing (d : VDst) (uses : List SrcUse) (need : State → Cur → Slice → Prop)
    (f : List Slice → Slice → Fin 4 → Word × Flags) : Option Effect :=
  some ⟨guarded, fun _ => uses, fun _ => [vregName d.reg], need, fun _ _ ms m sl => writeV d m sl (f ms m)⟩

/-- Every member has the source register full (R136). -/
def gangFull (a : VSrc) (s : State) (c : Cur) (_ : Slice) : Prop :=
  ∀ o ∈ s.gangMembers c, ∀ u ∈ vsUses a 1, o.isFull u.reg = true

/-- The element types of a reduction (R135). -/
def reducible (op : RedOp) (_ : State) (_ : Cur) (m : Slice) : Prop := (redAdmits op (modeEtype m.mode)).isSome = true

/-- The lane of the octet that a lane number names in the gang: 0 beyond lane 31 and where no member stands (R134). -/
def octetLane (ms : List Slice) (r : VSrcReg) (j : Nat) : Word :=
  match ms.find? fun m => m.slot % 8 == j / 4 with
  | some m => if j < 32 then (m.readV r).get (Fin.ofNat 4 (j % 4)) else 0#32
  | none => 0#32

/-- The effects of group 0x8 (R133–R135). -/
def crossTable (i : Instr) : Option Effect :=
  match i with
  | .vballot d p gang => crossing d [] always fun ms m _ => word (ballotBits p (if gang then ms else [m]))
  | .vpopc d a all => crossing d (vsUses a 1) always fun _ m i =>
      word (BitVec.ofNat 32 ((List.range (if all then 32 else 4 * (m.slot % 8) + i.val)).countP
        fun k => ((m.readV a.reg).get i).getLsbD k))
  | .vshuf d a b => crossing d (vsUses a 1 ++ vsUses b 2) (gangFull a) fun ms m i => word (octetLane ms a.reg ((m.readV b.reg).get i).toNat)
  | .vbcast d a j => crossing d (vsUses a 1) (gangFull a) fun ms _ _ => word (octetLane ms a.reg j.val)
  | .vmovs d a j => some ⟨guarded, fun _ => vsUses a 1, fun m => [m.sname d], always,
      fun _ _ _ m sl => sl.setS d ((m.readV a.reg).get j)⟩
  | .vscan d a b => crossing d (vsUses a 1) (reducible b.op) fun ms m i =>
      let w := redWidth b.op (modeEtype m.mode)
      let ident := packElems w (List.replicate (32 / w) (redIdentity m.mode b.op))
      (scanList m.mode b.op b.excl ident none (activeLanes (if b.gang then ms else [m]) a.reg)).getD (4 * (m.slot % 8) + i.val)
        (word ident)
  | .vred d a b => some ⟨guarded, fun _ => vsUses a 1, fun _ => [vregName d.reg], reducible b.op, fun _ _ ms m sl =>
      (sl.setV d m.active (Lanes.all (redTree b a.reg ms m).1)).raise (redTree b a.reg ms m).2⟩
  | _ => none

/-! ### Instructions that leave an operation outstanding -/

/-- R139: an access of b bytes at x that the check lets through. -/
def fits (s : State) (m : Slice) (x : DWord) (b align : Nat) (admits : List Window) : Prop :=
  ∃ w, windowOf x = some w ∧ windowOf (x + BitVec.ofNat 64 (b - 1)) = some w ∧
    offsetOf (x + BitVec.ofNat 64 (b - 1)) < windowSize s m.core m.wave w ∧ admits.contains w = true ∧ x.toNat % align = 0

/-- Every active lane's access passes the check (R139). -/
def lanesFit (s : State) (m : Slice) (addr : Fin 4 → DWord) (b : Nat) (admits : List Window) : Prop :=
  ∀ i : Fin 4, m.active.getLsbD i.val = true → fits s m (addr i) b b admits

/-- No active lane names an active landing window of the slice's context (R350). -/
def clearOfLanding (s : State) (m : Slice) (addr : Fin 4 → DWord) : Prop :=
  ∀ i : Fin 4, m.active.getLsbD i.val = true → s.inLanding m (addr i) = false

/-- An XARR of these slices issues: with those not yet accepted, its arrivals do not complete the step, or the crossing before has
completed and they do not complete the step after (R346). -/
def arrivalRoom (s : State) (ms : List Slice) : Prop :=
  let all := s.fab.arrived + (s.txns.filter fun t => t.kind == .xarr).length + ms.length
  all < s.fab.quota.toNat ∨ s.fab.step ≤ s.fab.crossed ∧ all < 2 * s.fab.quota.toNat

/-- What an instruction puts on the list of outstanding operations. `need` is what else keeps it from trapping in a slice in which it
acts, `room` what keeps it from waiting; a flush point closes the windows of its slices' octets (R228). With `each`, every slice has an
operation of its own; otherwise there is one for the gang. -/
structure Launch where
  acts : Slice → Bool
  uses : Slice → List SrcUse
  dst : Slice → List RegName
  need : State → Slice → Prop
  room : State → List Slice → Prop
  flush : Bool
  each : Bool
  kind : State → Slice → TxnKind
  size : Nat
  lanes : Slice → List LaneAcc

/-- The operations an instruction adds, with their names: `ms` are the members in which it acts. -/
def Launch.ops (l : Launch) (s : State) (c : Cur) (ms : List Slice) : List Txn :=
  let part (m : Slice) : Part := ⟨m.sid, m.slot, c.pc, m.active, l.dst m, m.rgncnt, modeSup m.mode⟩
  if l.each then
    ms.zipIdx.map fun (m, k) => ⟨s.nextId + k, l.kind s m, m.core, s.ctxOfWave m.wave, m.wave, l.size, true, [part m], l.lanes m, none,
      [], s.fab.step, false⟩
  else match ms with
    | [] => []
    | m :: _ => [⟨s.nextId, l.kind s m, m.core, s.ctxOfWave m.wave, m.wave, l.size, false, ms.map part, ms.flatMap l.lanes, none,
      [], s.fab.step, false⟩]

/-- A slice in which the instruction acts: moved on, its destinations empty (R34, R51). -/
def Launch.after (l : Launch) (c : Cur) (m : Slice) : Slice :=
  { (if l.acts m then (l.dst m).foldl (fun x r => x.setFull r false) (m.clearMarks (l.uses m)) else m) with pc := c.nxt }

/-- The machine beyond the slices and the outstanding operations: every memory, every other register. -/
def beyondOps (s : State) : State := { s.beyond with txns := [] }

/-- The instruction completes: the operations join the list in order, destinations are empty, and nothing else changes. -/
def Launches (i : Instr) (l : Launch) (s : State) (c : Cur) (ms : List Slice) : Prop :=
  ∃ t, exec i s = .next t ∧
    (∀ m ∈ ms, t.slice? m.sid = some (l.after c m)) ∧ (∀ b, b ∉ ms.map (·.sid) → t.slice? b = s.slice? b) ∧
    t.txns = s.txns ++ l.ops s c (ms.filter l.acts) ∧
    beyondOps t = beyondOps (if l.flush then (ms.filter l.acts).foldl State.flushSlice s else s) ∧ t.cur = none ∧
    (c.yields = false → t.gangs = s.gangs ∧ t.nextId = s.nextId + (l.ops s c (ms.filter l.acts)).length)

/-- Every instruction of a table launches its operations, in every state in which a gang issues it with its registers ready and its
own conditions met, and with nothing to wait for in the other members. -/
def LaunchTable (table : Instr → Option Launch) : Prop :=
  ∀ i l s c g ms, table i = some l → Issuing s c g ms → (∀ m ∈ ms, permitted i m) →
    (∀ m ∈ ms, l.acts m = true → m.ready (l.uses m) (l.dst m) = true ∧ l.need s m) → (∀ m ∈ ms, rests i l.acts l.uses l.dst m) →
    l.room s (ms.filter l.acts) → Launches i l s c ms

/-- Nothing is needed of a slice in a state. -/
def free_ : State → Slice → Prop := fun _ _ => True

/-- Nothing holds it. -/
def open_ : State → List Slice → Prop := fun _ _ => True

/-- Fewer than four waits of each slice are outstanding (R97). -/
def fourWaits (s : State) (ms : List Slice) : Prop := ∀ m ∈ ms, s.waitCount m.sid < 4

/-- The core has room for a push of each slice among the 16 it may have outstanding (R97). -/
def pushRoom (s : State) (ms : List Slice) : Prop :=
  ∀ m ∈ ms, ms.length + (s.txns.filter fun u => u.core == m.core && (match u.kind with
    | .qpush .. => true
    | _ => false)).length ≤ 16

/-- The lanes of a slice that are active, each with its address, data and compare operand (R144). -/
def eachLane (m : Slice) (addr data : Fin 4 → DWord) (cmp : Fin 4 → Word) : List LaneAcc :=
  (lanesOf m.active).map fun i => ⟨m.sid, m.slot, i, addr i, data i, cmp i, none⟩

/-- The one access of a scalar instruction: its lowest active lane stands for it. -/
def oneLane (m : Slice) (addr data : DWord) : List LaneAcc := [⟨m.sid, m.slot, Fin.ofNat 4 (lowLane m.active), addr, data, 0#32, none⟩]

/-- Lane i of a per-lane access: pair[A] + sext32(B[i]) (R144). -/
def at_ (a : SPairSrc) (b : VSrc) (m : Slice) (i : Fin 4) : DWord := m.readPair a.reg + BitVec.ofInt 64 ((m.readV b.reg).get i).toInt

/-- Lane i of a stepped access: pair[A] + 4i (R144, R352). -/
def step4 (a : SPairSrc) (m : Slice) (i : Fin 4) : DWord := m.readPair a.reg + BitVec.ofNat 64 (4 * i.val)

/-- A per-lane load (R145). -/
def vload (acq : Option Scope) (size : Nat) (uses : Slice → List SrcUse) (dst : List RegName) (addr : Slice → Fin 4 → DWord) : Option Launch :=
  some ⟨guarded, uses, fun _ => dst, fun s m => lanesFit s m (addr m) size [.global, .scratch, .accum], open_, false, false,
    fun _ _ => .load acq, size, fun m => eachLane m (addr m) (fun _ => 0#64) fun _ => 0#32⟩

/-- A scalar load (R145). -/
def sload (acq : Option Scope) (d : SReg) (a : SPairSrc) : Option Launch :=
  some ⟨guarded, fun m => m.spUses a 1, fun m => [m.sname d], fun s m => fits s m (m.readPair a.reg) 4 4 [.global, .scratch, .accum],
    open_, false, true, fun _ _ => .load acq, 4, fun m => oneLane m (m.readPair a.reg) 0#64⟩

/-- The loads (R145). -/
def loadTable (i : Instr) : Option Launch :=
  match i with
  | .ldB d a b => vload none 1 (fun m => m.spUses a 1 ++ vsUses b 2) [vregName d] (at_ a b)
  | .ldH d a b => vload none 2 (fun m => m.spUses a 1 ++ vsUses b 2) [vregName d] (at_ a b)
  | .ldW d a b => vload none 4 (fun m => m.spUses a 1 ++ vsUses b 2) [vregName d] (at_ a b)
  | .ldAcq d a b => vload (some b.scope) 4 (fun m => m.spUses a 1) [vregName d] (step4 a)
  | .ldp d a b => vload none 8 (fun m => m.spUses a 1 ++ vsUses b 2) [vregName (vpairRegs d).1, vregName (vpairRegs d).2] (at_ a b)
  | .lds d a _ => sload none d a
  | .ldsAcq d a b => sload (some b.scope) d a
  | _ => none

/-- A per-lane store: one of fewer than four bytes may not name a landing window (R145, R350). -/
def vstore (rel : Option Scope) (size : Nat) (uses : Slice → List SrcUse) (addr data : Slice → Fin 4 → DWord) : Option Launch :=
  some ⟨guarded, uses, fun _ => [],
    fun s m => lanesFit s m (addr m) size [.global, .scratch, .accum] ∧ (size < 4 → clearOfLanding s m (addr m)), open_, false, false,
    fun _ _ => .store rel, size, fun m => eachLane m (addr m) (data m) fun _ => 0#32⟩

/-- A scalar store (R145). -/
def sstore (rel : Option Scope) (d : SSrc) (a : SPairSrc) : Option Launch :=
  some ⟨guarded, fun m => m.ssUses d 0 ++ m.spUses a 1, fun _ => [], fun s m => fits s m (m.readPair a.reg) 4 4 [.global, .scratch, .accum],
    open_, false, true, fun _ _ => .store rel, 4, fun m => oneLane m (m.readPair a.reg) ((m.readSrc d.reg).setWidth 64)⟩

/-- The word of a lane of a vector source. -/
def wordOf (d : VSrc) (m : Slice) (i : Fin 4) : DWord := ((m.readV d.reg).get i).setWidth 64

/-- The stores (R145). -/
def storeTable (i : Instr) : Option Launch :=
  match i with
  | .stB d a b => vstore none 1 (fun m => vsUses d 0 ++ (m.spUses a 1 ++ vsUses b 2)) (at_ a b) (wordOf d)
  | .stH d a b => vstore none 2 (fun m => vsUses d 0 ++ (m.spUses a 1 ++ vsUses b 2)) (at_ a b) (wordOf d)
  | .stW d a b => vstore none 4 (fun m => vsUses d 0 ++ (m.spUses a 1 ++ vsUses b 2)) (at_ a b) (wordOf d)
  | .stRel d a b => vstore (some b.scope) 4 (fun m => vsUses d 0 ++ m.spUses a 1) (step4 a) (wordOf d)
  | .stp d a b => vstore none 8 (fun m => vpUses d 0 ++ (m.spUses a 1 ++ vsUses b 2)) (at_ a b) fun m i =>
      (m.readV (vpairSrcRegs d.reg).2).get i ++ (m.readV (vpairSrcRegs d.reg).1).get i
  | .sts d a _ => sstore none d a
  | .stsRel d a b => sstore (some b.scope) d a
  | _ => none

/-- The use an atomic is outstanding with: a non-ordering or a quantum use is that of an atomic read, which is an ADD, OR or XOR with
B = z that returns its value (R158, R159); any other such instruction is unpaired. -/
def useOf (op : AtomOp) (d : Option VReg) (b : VSrcReg) (u : AtomUse) : AtomUse :=
  if (u = .nonOrdering ∨ u = .quantum) ∧ ¬ (d.isSome = true ∧ (op = .add ∨ op = .or ∨ op = .xor) ∧ b = .z) then .unpaired else u

/-- An atomic (R156–R158): it reads the old words if it returns them. -/
def atomic (op : AtomOp) (d : Option VReg) (a : SPairSrc) (bUses : List SrcUse) (l : AtomLit) (use : AtomUse)
    (data cmp : Slice → Fin 4 → Word) : Option Launch :=
  some ⟨guarded, fun m => m.spUses a 1 ++ bUses ++ vsUses l.off 3, fun _ => (d.map vregName).toList,
    fun s m => lanesFit s m (at_ a l.off m) 4 [.global, .scratch] ∧ clearOfLanding s m (at_ a l.off m), open_, false, false,
    fun _ _ => .atomic op l.ty use l.ord l.scope d.isSome, 4,
    fun m => eachLane m (at_ a l.off m) (fun i => (data m i).setWidth 64) (cmp m)⟩

/-- An atomic whose operand is one vector. -/
def atomic1 (op : AtomOp) (d : Option VReg) (a : SPairSrc) (b : VSrc) (l : AtomLit) : Option Launch :=
  atomic op d a (vsUses b 2) l (useOf op d b.reg l.use) (fun m i => (m.readV b.reg).get i) fun _ _ => 0#32

/-- The atomics and AMAXX (R155–R162). -/
def atomicTable (i : Instr) : Option Launch :=
  match i with
  | .atomAdd d a b l => atomic1 .add d a b l
  | .atomMin d a b l => atomic1 .min d a b l
  | .atomMax d a b l => atomic1 .max d a b l
  | .atomAnd d a b l => atomic1 .and d a b l
  | .atomOr d a b l => atomic1 .or d a b l
  | .atomXor d a b l => atomic1 .xor d a b l
  | .atomXchg d a b l => atomic1 .xchg d a b l
  | .atomCas d a b l => atomic .cas d a (vpUses b 2) l
      (if l.use = .nonOrdering ∨ l.use = .quantum then .unpaired else l.use) (fun m i => (m.readV (vpairSrcRegs b.reg).2).get i)
      fun m i => (m.readV (vpairSrcRegs b.reg).1).get i
  | .amaxx d a b => some ⟨guarded, fun m => m.spUses a 1 ++ m.ssUses b 2, fun m => [m.sname d],
      fun s m => fits s m (m.readPair a.reg) 4 4 [.global, .scratch] ∧ s.inLanding m (m.readPair a.reg) = false, open_, false, true,
      fun _ _ => .amaxx, 4, fun m => oneLane m (m.readPair a.reg) ((m.readSrc b.reg).setWidth 64)⟩
  | _ => none

/-- The writes a full fence of package or pod scope waits for: those applied at its slice's die (R273). -/
def awaited (s : State) (m : Slice) (full : Bool) (sc : Scope) : List Nat :=
  if full = true ∧ (sc = .package ∨ sc = .pod) then (s.writes.filter fun w => w.applied.getLsbD (coreDie m.core).val).map (·.id) else []

/-- A fence, whatever its slices' masks (R152). -/
def fenceOf (acq rel : Bool) (sc : Scope) : Option Launch :=
  some ⟨fun _ => true, fun _ => [], fun _ => [], free_, open_, true, true,
    fun s m => .fence acq rel sc (awaited s m (acq && rel) sc), 4, fun _ => []⟩

/-- Fences, barrier arrivals and tests, and waits (R97–R99, R152, R189, R191). -/
def syncTable (i : Instr) : Option Launch :=
  match i with
  | .fence sc => fenceOf true true sc
  | .fenceAcq sc => fenceOf true false sc
  | .fenceRel sc => fenceOf false true sc
  | .barr d a b => some ⟨fun _ => true, fun m => m.spUses a 1, fun m => [m.sname d],
      fun s m => fits s m (m.readPair a.reg) 4 4 [.scratch], open_, true, false, fun _ _ => .barr b, 4,
      fun m => oneLane m (m.readPair a.reg) 0#64⟩
  | .bart d a b => some ⟨guarded, fun m => m.spUses a 1 ++ m.ssUses b 2, fun m => [m.sname d],
      fun s m => fits s m (m.readPair a.reg) 4 4 [.scratch], open_, true, true, fun _ m => .bart ((m.readSrc b.reg).getLsbD 0), 4,
      fun m => oneLane m (m.readPair a.reg) 0#64⟩
  | .waitw d a => some ⟨guarded, fun _ => [], fun m => [m.sname d], free_, fourWaits, false, true, fun _ _ => .waitw a, 4, fun _ => []⟩
  | .waitv d a b => some ⟨guarded, fun m => m.spUses a 1 ++ m.ssUses b 2, fun m => [m.sname d],
      fun s m => fits s m (m.readPair a.reg) 4 4 [.global, .scratch], fourWaits, false, true, fun _ m => .waitv (m.readSrc b.reg), 4,
      fun m => oneLane m (m.readPair a.reg) 0#64⟩
  | _ => none

/-- The die a frame request names: 4 is the slice's own (R177). -/
def poolDie (m : Slice) (b : Fin 5) : Fin 4 := if b.val = 4 then Fin.ofNat 4 (m.core / 48) else Fin.ofNat 4 b.val

/-- The supervisor's page-table instructions, the rewrite table's and QPUSH (R100, R175, R177, R230, R231). -/
def systemTable (i : Instr) : Option Launch :=
  match i with
  | .ptew d a b => some ⟨guarded, fun m => m.spUses a 1 ++ m.spUses b 2, fun m => [m.sname d], free_, open_, false,
      true, fun _ m => .ptew (m.readPair a.reg) (m.readPair b.reg), 8, fun _ => []⟩
  | .fpool d a b => some ⟨guarded, fun _ => [], fun m => m.pairNames d, free_, open_, false, true,
      fun _ m => .fpool a (poolDie m b), 8, fun _ => []⟩
  | .trule d a b => some ⟨guarded, fun m => m.spUses a 1 ++ m.ssUses b 2, fun m => [m.sname d],
      fun s m => fits s m (m.readPair a.reg) 32 32 [.global, .scratch], open_, false, true,
      fun _ m => .trule (m.readSrc b.reg), 32, fun m => oneLane m (m.readPair a.reg) 0#64⟩
  | .qpush d a b => some ⟨guarded, fun m => m.spUses a 1 ++ m.ssUses b 2, fun m => [m.sname d], free_, pushRoom, false, true,
      fun _ m => .qpush (m.readPair a.reg) (m.readSrc b.reg), 64, fun _ => []⟩
  | .trwq d a b => some ⟨guarded, fun _ => [], fun m => [m.sname d], free_, open_, false, true, fun _ _ => .trwq b a, 4, fun _ => []⟩
  | _ => none

/-- The fabric is enabled for the slice's context (R342, R353). -/
def fabricOn (s : State) (m : Slice) : Prop := s.fab.quota ≠ 0#16 ∧ s.fab.en.getLsbD (s.ctxOfWave m.wave).val = true

/-- A remote access (R353, R354): a peer it names exists; a multicast names none. -/
def remote (kind : TxnKind) (mc : Bool) (uses : Slice → List SrcUse) (dst : List RegName) (addr data : Slice → Fin 4 → DWord) : Option Launch :=
  some ⟨guarded, uses, fun _ => dst, fun s m => fabricOn s m ∧ lanesFit s m (addr m) 4 [.fabric] ∧
      (mc = false → ∀ i : Fin 4, m.active.getLsbD i.val = true → (addr m i).extractLsb' 47 9 ≤ s.fab.npeer), open_, false, false,
    fun _ _ => kind, 4, fun m => eachLane m (addr m) (data m) fun _ => 0#32⟩

/-- Group 0xE (R352–R355, R366). -/
def fabricTable (i : Instr) : Option Launch :=
  match i with
  | .stx d a b => remote (.stx b) b (fun m => vsUses d 0 ++ m.spUses a 1) [] (step4 a) (wordOf d)
  | .amx d a b => remote (.amx b.op b.mc) b.mc (fun m => vsUses d 0 ++ m.spUses a 1) [] (step4 a) (wordOf d)
  | .amxr d a b => remote (.amxr b) false (fun m => m.spUses a 1) [vregName d] (step4 a) fun m i => ((m.readReg d).get i).setWidth 64
  | .ldx d a b => remote .ldx false (fun m => m.spUses a 1 ++ vsUses b 2) [vregName d] (at_ a b) fun _ _ => 0#64
  | .wake d a b => some ⟨guarded, fun m => m.ssUses a 1 ++ m.ssUses b 2, fun _ => [],
      fun s m => fabricOn s m ∧ (m.readSrc a.reg).toNat ≤ s.fab.npeer.toNat, open_, false, true,
      fun _ m => .wake d.mailbox d.deferred ((m.readSrc a.reg).setWidth 9) (m.readSrc b.reg), 4, fun _ => []⟩
  | .xarr d => some ⟨fun _ => true, fun _ => [], fun m => [m.sname d], fabricOn, arrivalRoom, true, true, fun _ _ => .xarr, 4, fun _ => []⟩
  | .xwait d a => some ⟨guarded, fun m => m.ssUses a 1, fun m => [m.sname d], fabricOn, fourWaits, false, true,
      fun _ m => .xwait (m.readSrc a.reg), 4, fun _ => []⟩
  | .xfence d a => some ⟨guarded, fun m => m.spUses a 1, fun m => [m.sname d],
      fun s m => fabricOn s m ∧ fits s m (m.readPair a.reg) 64 64 [.scratch], fourWaits, true, true, fun _ _ => .xfence, 64,
      fun m => oneLane m (m.readPair a.reg) 0#64⟩
  | .nsend d a => some ⟨guarded, fun m => m.spUses a 1, fun m => [m.sname d], fabricOn, open_, false, true,
      fun _ m => .nsend (m.readPair a.reg), 64, fun _ => []⟩
  | .npost d a => some ⟨guarded, fun m => m.spUses a 1, fun m => [m.sname d], fabricOn, open_, false, true,
      fun _ m => .npost (m.readPair a.reg), 64, fun _ => []⟩
  | _ => none

/-! ### Group 0x0: transfers of control -/

/-- The caches and what they write back apart: what bringing a line of code in may change. -/
def aside (s : State) : State := { s.beyond with tlb := [], lines := [], cdata := [], hbm := [], sealed := [], ilines := [] }

/-- The bytes of memory are as before, but for the lines that were fetched: the 128 bytes of their cached copy, under the ASID or the
global one; and, where a line with changed data stood at such an address, the blocks of the frame it is written back to (R66, R254,
R255). -/
def fetchedOnly (s t : State) (reads : List (BitVec 16 × DWord)) : Prop :=
  (∀ a, memRead t.cdata a ≠ memRead s.cdata a → ∃ r ∈ reads, ∃ tag, (tag = r.1 ∨ tag = 0#16) ∧
    lineKey tag (offsetOf r.2 / 128 * 128) ≤ a ∧ a < lineKey tag (offsetOf r.2 / 128 * 128) + 128) ∧
  ∀ a, memRead t.hbm a ≠ memRead s.hbm a → ∃ r ∈ reads, ∃ l ∈ s.lines, l.dirty = true ∧ (l.asid = r.1 ∨ l.asid = 0#16) ∧
    l.va = offsetOf r.2 / 128 * 128 ∧ l.pa / 16 * 16 ≤ a ∧ a < (l.pa + 143) / 16 * 16

/-- Beyond the slices only the caches change, and they only by the lines fetched. -/
def fetching (targets : Cur → Slice → List DWord) : Rest := fun s c ms t =>
  aside t = aside s ∧ fetchedOnly s t (ms.flatMap fun m => (targets c m).map fun a => (s.sliceAsid m, a))

/-- R65: a target at which an instruction may start. -/
def reachable (s : State) (m : Slice) (a : DWord) : Prop :=
  a.toNat % 4 = 0 ∧ ∃ l t, s.codeLine m.core (s.sliceAsid m) a = .line l t ∧ headerCode (l.words.get 0) (slotOf a).val ≠ 2#2

/-- pc + 4 · off (R86). -/
def target (pc : DWord) (off : BitVec 16) : DWord := pc + BitVec.ofInt 64 (4 * off.toInt)

/-- The lanes that take a branch (R87). -/
def taken (i : Instr) (m : Slice) : BitVec 4 :=
  match i with
  | .bra _ => m.active
  | .brp (.pred p) _ => m.active &&& m.p.get p
  | .brp (.predNot p) _ => m.active &&& ~~~(m.p.get p)
  | .brp (.nz x) _ => if m.readSrc x.reg = 0#32 then 0#4 else m.active
  | .brp (.zero x) _ => if m.readSrc x.reg = 0#32 then m.active else 0#4
  | _ => 0#4

/-- The free entries of the current segment: of 12, or of 4 in a handler (R37, R38). -/
def room (m : Slice) : Nat := if modeSup m.mode then 4 - m.sup.length else 12 - m.stack.length

/-- Push entries, the topmost first. -/
def push (m sl : Slice) (es : List StackEntry) : Slice :=
  if modeSup m.mode then { sl with sup := es ++ m.sup } else { sl with stack := es ++ m.stack }

/-- A branch (R87): no lane takes it, or every lane of the mask, or some; then the rest is pushed over the join entry. -/
def branch (i : Instr) (off : BrOffsets) (uses : Slice → List SrcUse) : Option Effect :=
  some ⟨fun _ => true, uses, fun _ => [],
    fun s c m => taken i m ≠ 0#4 → reachable s m (target c.pc off.toff) ∧
      (m.amask &&& ~~~(taken i m) ≠ 0#4 → off.joff ≠ 0#16 ∧ reachable s m (target c.pc off.joff) ∧ 2 ≤ room m),
    fun _ c _ m sl =>
      let left := m.amask &&& ~~~(taken i m)
      if taken i m = 0#4 then sl
      else if left = 0#4 then { sl with pc := target c.pc off.toff }
      else { push m sl [⟨m.mode, left, true, c.nxt⟩, ⟨m.mode, m.amask, false, target c.pc off.joff⟩] with
        amask := taken i m, pc := target c.pc off.toff }⟩

/-- BRA and BRP (R87). -/
def branchTable (i : Instr) : Option Effect :=
  match i with
  | .bra off => branch i off fun _ => []
  | .brp (.nz x) off | .brp (.zero x) off => branch i off fun m => m.ssUses x 2
  | .brp (.pred _) off | .brp (.predNot _) off => branch i off fun _ => []
  | _ => none

/-- What a branch fetches: its target, and the join's where it parts the mask. -/
def branchReads (i : Instr) (c : Cur) (m : Slice) : List DWord :=
  match i with
  | .bra off | .brp _ off =>
    if taken i m = 0#4 then [] else if m.amask &&& ~~~(taken i m) = 0#4 then [target c.pc off.toff] else
      [target c.pc off.toff, target c.pc off.joff]
  | _ => []

/-- A transfer of the whole mask, whose lanes must all be active (R88); the target is read before the link is written. -/
def whole (uses : Slice → List SrcUse) (dst : Slice → List RegName) (dest : Cur → Slice → DWord) (link : Cur → Slice → Slice) : Option Effect :=
  some ⟨guarded, uses, dst, fun s c m => m.amask &&& ~~~m.active = 0#4 ∧ reachable s m (dest c m),
    fun _ c _ m sl => { link c sl with pc := dest c m }⟩

/-- Where a whole-mask transfer goes (R86, R88). -/
def wholeTarget (i : Instr) (c : Cur) (m : Slice) : DWord :=
  match i with
  | .bri a | .ret a | .calli _ a => m.readPair a.reg
  | .call _ lit => c.pc + BitVec.ofInt 64 (4 * lit.toInt)
  | _ => c.nxt

/-- BRI, CALL, CALLI, RET (R88). -/
def wholeTable (i : Instr) : Option Effect :=
  match i with
  | .bri a | .ret a => whole (fun m => m.spUses a 1) (fun _ => []) (wholeTarget i) fun _ sl => sl
  | .call d _ => whole (fun _ => []) (fun m => m.pairNames d) (wholeTarget i) fun c sl => sl.setPair d c.nxt
  | .calli d a => whole (fun m => m.spUses a 1) (fun m => m.pairNames d) (wholeTarget i) fun c sl => sl.setPair d c.nxt
  | _ => none

/-- A region begins at pc (R170). -/
def region (sl : Slice) (pc : DWord) : Slice :=
  { sl with rgnpc := pc, rgncnt := sl.rgncnt + 1#32, rgnMask := sl.amask, rgnDepth := sl.stack.length + sl.sup.length }

/-- Every access of the slice is translated, and none has faulted (R92, R169). -/
def still (s : State) (m : Slice) : Prop := s.resolved m.sid = true ∧ s.faultedTxns m.sid = []

/-- What RETR and RETT need (R173): an empty supervisor segment, a legal MODE in s62, a mask in s63, and for RETT no late cause. -/
def returnable (s : State) (m : Slice) (back : DWord) (rett : Bool) : Prop :=
  m.sup = [] ∧ modeLegal (m.bank.get 2).val = true ∧ (m.bank.get 3).val.toNat < 16 ∧ (rett = true → m.taken.getLsbD 7 = false) ∧
    reachable s m back ∧ still s m

/-- MODE from s62 with SUP = 0 (R173). -/
def userMode (m : Slice) : Word := (m.bank.get 2).val &&& ~~~(1#32 <<< 24)

/-- RETR and RETT (R173). -/
def returnTable (i : Instr) : Option Effect :=
  match i with
  | .retr => some ⟨fun _ => true, fun _ => [], fun _ => [], fun s _ m => returnable s m m.rgnpc false, fun _ _ _ m sl =>
      region { sl with
        stack := m.stack.drop (m.stack.length - m.rgnDepth), amask := m.rgnMask &&& (m.bank.get 3).val.setWidth 4
        mode := userMode m, pc := m.rgnpc } m.rgnpc⟩
  | .rett => some ⟨fun _ => true, fun _ => [], fun _ => [], fun s _ m => returnable s m m.tpc true, fun _ _ _ m sl =>
      region { sl with amask := (m.bank.get 3).val.setWidth 4, mode := userMode m, pc := m.tpc } m.tpc⟩
  | _ => none

/-- Returning releases the pages the slice faulted on first (R176), and fetches. -/
def returning (i : Instr) : Rest := fun s _ ms t =>
  aside t = aside { s with firstFaults := s.firstFaults.filter fun f => !(ms.map (·.sid)).contains f.sid } ∧
    fetchedOnly s t (ms.map fun m => (s.sliceAsid m, if i = .retr then m.rgnpc else m.tpc))

/-- A mask and stack entries without the lanes that exit. -/
def without (x : BitVec 4) (es : List StackEntry) : List StackEntry := es.map fun e => { e with mask := e.mask &&& ~~~x }

/-- A slice without the lanes that exit: gone from the mask, every stack entry and, in a handler, s63 (R89, R174). -/
def exited (m sl : Slice) : Slice :=
  { sl with
    amask := m.amask &&& ~~~m.active, stack := without m.active m.stack, sup := without m.active m.sup
    bank := if modeSup m.mode then m.bank.set 3 { m.bank.get 3 with val := (m.bank.get 3).val &&& ~~~(m.active.setWidth 32) } else m.bank }

/-- EXIT where a lane of the slice is left (R89, R170): it goes on at the next instruction and a region begins there, in a handler too
(the model's reading, log 29); or, with no lane of the mask left, the paths on its stack are popped until one has a lane. -/
def exitTable (i : Instr) : Option Effect :=
  match i with
  | .exit => some ⟨guarded, fun _ => [], fun _ => [],
      fun s c m => (m.amask &&& ~~~m.active ≠ 0#4 ∨ ((exited m m).popAll 16).amask ≠ 0#4) ∧ (m.exitWaits c.nxt = true → still s m),
      fun _ c _ m sl =>
        let u := exited m sl
        if u.amask = 0#4 then (exited m m).popAll 16 else region { u with pc := c.nxt } c.nxt⟩
  | _ => none

/-! ### MODE, the control registers, time, crews -/

/-- The value CSRW or SETM writes in a member. -/
def written (a : SSrc) (m : Slice) : Word := m.readSrc a.reg

/-- What a write of a control register leaves in its slice (R21, R82, R165). -/
def csrSlice (b : Csr) (x : Word) (sl : Slice) : Slice :=
  match b with
  | .fstat => { sl with fstat := x &&& 0x1F#32 }
  | .tcause => { sl with tcause := x &&& 0x7FCFF01F#32 }
  | .tdet0 => { sl with tdet := sl.tdet.extractLsb' 32 64 ++ x }
  | .tdet1 => { sl with tdet := sl.tdet.extractLsb' 64 32 ++ x ++ sl.tdet.extractLsb' 0 32 }
  | .tdet2 => { sl with tdet := x ++ sl.tdet.extractLsb' 0 64 }
  | .tpcl => { sl with tpc := sl.tpc.extractLsb' 32 32 ++ x }
  | .tpch => { sl with tpc := x ++ sl.tpc.extractLsb' 0 32 }
  | _ => sl

/-- What it leaves in its core (R47, R82). -/
def csrCore (b : Csr) (x : Word) (r : CoreRec) : CoreRec :=
  match b with
  | .gtmo => { r with gtmo := x.setWidth 20 }
  | .swpt => { r with swpt := x.setWidth 20 }
  | .quant => { r with quant := x.setWidth 20 }
  | _ => r

/-- CSRW, SETM, SETMI and RDTS (R83–R85). -/
def writeTable (i : Instr) : Option Effect :=
  match i with
  | .csrw a b => some ⟨guarded, fun m => m.ssUses a 1, fun _ => [], always, fun _ _ _ m sl => csrSlice b (written a m) sl⟩
  | .setm a => some ⟨guarded, fun m => m.ssUses a 1, fun _ => [], fun _ _ m => modeLegal (written a m) = true,
      fun _ _ _ m sl => { sl with mode := (written a m &&& ~~~(1#32 <<< 24)) ||| (m.mode &&& (1#32 <<< 24)) }⟩
  | .setmi lit => some ⟨guarded, fun _ => [], fun _ => [], always,
      fun _ _ _ m sl => { sl with mode := (lit &&& ~~~(1#32 <<< 24)) ||| (m.mode &&& (1#32 <<< 24)) }⟩
  | .rdts d => some ⟨guarded, fun _ => [], fun m => m.pairNames d, always,
      fun s _ _ _ sl => sl.setPair d s.tick.tsc⟩
  | _ => none

/-- What they leave elsewhere: the core's registers as the last member wrote them, the rewrite windows closed where RPERM changes
(R228), the counter gone on by a free amount and never back (R85; log 4). -/
def writeRest (i : Instr) : Rest := fun s _ ms t =>
  match i with
  | .csrw a b => t.beyond = (match ms.getLast? with
      | some m => s.setCore m.core (csrCore b (written a m) (s.core m.core))
      | none => s).beyond
  | .setm a => t.beyond = ((ms.filter fun m => modeRperm m.mode != modeRperm (written a m)).foldl State.flushSlice s).beyond
  | .setmi lit => t.beyond = ((ms.filter fun m => modeRperm m.mode != modeRperm lit).foldl State.flushSlice s).beyond
  | .rdts _ => s.tsc.toNat ≤ t.tsc.toNat ∧ t.tsc = s.tick.tsc ∧
      ({ t.beyond with tsc := s.tsc, tscPause := s.tscPause, ticks := s.ticks } : State) = s.beyond
  | _ => True

/-- JOIN, and LEAVE of a crew without a barrier word (R43). -/
def crewTable (i : Instr) : Option Effect :=
  match i with
  | .join a => some ⟨guarded, fun _ => [], fun _ => [], fun s _ m => s.memWf = true ∧ ∀ e, s.crew m.core a = some e → e.wave = m.wave,
      fun _ _ _ m sl => { sl with crews := m.crews ||| (1#32 <<< a.val) }⟩
  | .leave a => some ⟨guarded, fun _ => [], fun _ => [], fun s _ m => (s.crew m.core a).bind (s.crewWord m.core) = none,
      fun _ _ _ m sl => { sl with crews := m.crews &&& ~~~(1#32 <<< a.val) }⟩
  | _ => none

/-- The crew's entry and its barrier word: a crew that was free is bound to the wave of its first member; a bound word expects one more
for each new member, 4095 at most; the entry is free when no member is left (R43, R193). -/
def crewRest (i : Instr) : Rest := fun s _ ms t =>
  match i with
  | .join a => match ms.filter fun m => !m.crews.getLsbD a.val with
    | [] => t.beyond = s.beyond
    | m :: more => match s.crew m.core a with
      | none => t.beyond = (s.setCrew m.core a (some ⟨m.wave, none, 0⟩)).beyond
      | some e => match s.crewWord m.core e with
        | none => t.beyond = s.beyond
        | some w =>
          let x := s.barWord m.core w
          t.beyond = (s.setBar m.core w (barMake x (barPhase x) (barArr x) (min (barExp x + (m :: more).length) 4095))).beyond
  | .leave a => match ms.filter fun m => m.crews.getLsbD a.val with
    | [] => t.beyond = s.beyond
    | m :: more => t.beyond = (if s.slices.all fun x =>
          !(x.core == m.core && x.crews.getLsbD a.val) || ((m :: more).map (·.sid)).contains x.sid then s.setCrew m.core a none else s).beyond
  | _ => True

/-! ### Barrier words and crews (R186–R193) -/

/-- The address of a scratch word in its core's store. -/
def barAddr (s : State) (m : Slice) (a : SPairSrc) : Nat := ((s.core m.core).share m.wave).spad + offsetOf (m.readPair a.reg)

/-- A core's record without its scratchpad and crew table. -/
def coreRest (r : CoreRec) : CoreRec := { r with spad := [], crews := Vector.replicate 32 none }

/-- Beyond the slices only the scratchpads and crew tables of the cores change. -/
def onlyScratch (s t : State) : Prop :=
  ({ t.beyond with cores := s.cores } : State) = s.beyond ∧ ∀ k, coreRest (t.core k) = coreRest (s.core k)

/-- Every byte of every scratchpad outside the words at the addresses given is as before. -/
def scratchKept (s t : State) (words : List (Nat × Nat)) : Prop :=
  ∀ k a, (∀ w ∈ words, w.1 = k → ¬ (w.2 ≤ a ∧ a < w.2 + 4)) → memRead (t.core k).spad a = memRead (s.core k).spad a

/-- What BARI leaves in its word: the count given, or of a crew's word the crew's members and the count, 4095 at most; 0 for a crew
that is free (R188, R193). -/
def initial (s : State) (m : Slice) (d : Option (Fin 32)) (n : Nat) : Nat :=
  match d with
  | none => n
  | some k => if (s.crew m.core k).isNone then 0 else min (s.crewCount m.core k + n) 4095

/-! ### Group 0xB (R233–R237) -/

/-- A command as its instruction gives it. -/
structure Order where
  kind : CmdKind
  chk : Bool
  queue : Fin 8
  size : Nat
  align : Nat
  d : SReg
  a : SPairSrc

/-- The engine commands: a descriptor of 32 bytes, or SHLD's source of 1 KiB (R236, R237). -/
def orderOf (i : Instr) : Option Order :=
  match i with
  | .cpy d a b => some ⟨.cpy, b.chk, b.queue, 32, 32, d, a⟩
  | .cpys d a b => some ⟨.cpys, b.chk, b.queue, 32, 32, d, a⟩
  | .cbdc d a b => some ⟨.cbdc, b.chk, b.queue, 32, 32, d, a⟩
  | .cpyam d a b => some ⟨.cpyam, b.chk, b.queue, 32, 32, d, a⟩
  | .gath d a b => some ⟨.gath, b.chk, b.queue, 32, 32, d, a⟩
  | .scat d a b => some ⟨.scat, b.chk, b.queue, 32, 32, d, a⟩
  | .shld d a b => some ⟨.shld b.tbl, b.chk, b.queue, 1024, 64, d, a⟩
  | _ => none

/-- The read of a descriptor, in pieces of 64 bytes at most, that the k-th member's command waits for. -/
def orderTxn (o : Order) (s : State) (c : Cur) (m : Slice) (k : Nat) : Txn :=
  ⟨s.nextId + 2 * k, .command (s.nextId + 2 * k + 1), m.core, s.ctxOfWave m.wave, m.wave, min o.size 64, true,
    [⟨m.sid, m.slot, c.pc, m.active, [m.sname o.d], m.rgncnt, modeSup m.mode⟩],
    (List.range ((o.size + 63) / 64)).flatMap fun i => oneLane m (m.readPair o.a.reg + BitVec.ofNat 64 (64 * i)) 0#64, none, [],
    s.fab.step, false⟩

/-- The k-th member's command, its descriptor still to be read. -/
def orderCmd (o : Order) (s : State) (m : Slice) (k : Nat) : Cmd :=
  ⟨s.nextId + 2 * k + 1, m.core, m.core / 8, o.queue, s.ctxOfWave m.wave, m.wave, m.sid, o.kind, o.chk, s.nextId + 2 * k, none, [], [],
    false, false, 0, 0#8⟩

/-! ### Group 0xC (R200–R220) -/

/-- The tile instructions and the fields each captures (R201, R220). -/
def tileForm (i : Instr) : Option TileForm :=
  match i with
  | .tldb a b => some ⟨0x0#4, .unused, .scal a, .scal b, none, none⟩
  | .tmma d a b => some ⟨0x1#4, .num d.val, .scal a, .scal b, none, none⟩
  | .tmmat d a b => some ⟨0x2#4, .num d.val, .scal a, .scal b, none, none⟩
  | .ttrn d a => some ⟨0x3#4, .num (2 * d.val), .num (2 * a.val), .unused, none, none⟩
  | .tscl d a b => some ⟨0x4#4, .num d.val, .num a.val, .scal b, none, none⟩
  | .tzero d b => some ⟨0x5#4, .num d.val, .unused, .num b.val, none, none⟩
  | .tadd d a b => some ⟨0x6#4, .num d.val, .num a.val, .num b.val, none, none⟩
  | .taccr d a b => some ⟨0x7#4, .unused, .num a.val, .num b.val, none, some d⟩
  | .taccw d a b => some ⟨0x8#4, .num d.val, .unused, .num b.val, some a, none⟩
  | .taccs d a b => some ⟨0x9#4, .num d.val, .scal a, .scal b, none, none⟩
  | .taccl d a => some ⟨0xA#4, .num d.val, .scal a, .unused, none, none⟩
  | .tmxs a => some ⟨0xB#4, .unused, .scal a, .unused, none, none⟩
  | _ => none

/-- The registers a tile instruction reads in a member: its scalars in the member at position 0 alone (R201). -/
def tileUses (f : TileForm) (m : Slice) : List SrcUse :=
  (if m.slot % 8 = 0 then f.d.uses m 0 ++ f.a.uses m 1 ++ f.b.uses m 2 else []) ++
    (match f.vec with
     | some x => vsUses x 1
     | none => [])

/-- The value of a captured field. -/
def field (m : Slice) (f : TileField) : Word :=
  match f with
  | .unused => 0#32
  | .num n => BitVec.ofNat 32 n
  | .scal x => m.readSrc x.reg

/-- The instruction as it stands in the queue. -/
def captured (f : TileForm) (c : Cur) (m : Slice) : TileOp := ⟨f.op, field m f.d, field m f.a, field m f.b, m.mode, c.pc⟩

/-- What a full gang needs to issue a tile instruction (R200, R201, R203, R204, R213, R218): eight members with every lane active, `lead`
at position 0; the captured fields pass the checks; the queue and its window have room; no store to the core's windows is on its way. -/
structure TileReady (f : TileForm) (s : State) (c : Cur) (ms : List Slice) (lead : Slice) : Prop where
  eight : ms.length = 8
  lanes : ∀ m ∈ ms, m.active = 15#4
  first : ms.find? (fun m => m.slot % 8 == 0) = some lead
  regs : ∀ m ∈ ms, m.ready (tileUses f m) ((f.dst.map vregName).toList) = true
  types : ∀ m ∈ ms, m.slot % 8 = 0 → tileAdmits f.op m.mode = true
  checks : ∀ m ∈ ms, m.slot % 8 = 0 → (captured f c m).check ((s.core m.core).share m.wave)
    (tsaAfter (s.octetFor m.core m.oct m.wave).tsa ((s.octetFor m.core m.oct m.wave).queue.map (·.op))) = none
  octet : ∀ m ∈ ms, m.core = lead.core ∧ m.oct = lead.oct ∧ m.wave = lead.wave
  room : (s.octetFor lead.core lead.oct lead.wave).queue.length < 16 ∧
    (s.octetFor lead.core lead.oct lead.wave).queue.length < 8 + (s.octetFor lead.core lead.oct lead.wave).dispatched
  stores : ∀ m ∈ ms, s.storesPending m.sid [.scratch, .accum] = false
  names : ∀ x ∈ (s.octet lead.core lead.oct).queue, x.id < s.nextId

/-- The entry of an instruction, open unless it is the flush point TACCR itself. -/
def entryOf (f : TileForm) (s : State) (c : Cur) (ms : List Slice) (lead : Slice) : TileEntry :=
  let id := if f.dst.isSome then s.nextId + 1 else s.nextId
  { id := id, op := captured f c lead, ctx := s.ctxOfWave lead.wave, wave := lead.wave, later := 0, open_ := f.dst.isNone, rule := none,
    group := id, origs := [], last := true
    rows := (match f.vec with
      | some x => (bySlot ms).map fun m => m.readV x.reg
      | none => [])
    txn := if f.dst.isSome then some s.nextId else none }

/-- The state at the arrival of an instruction: TACCR closes the window (R228), and an octet is reset when another wave first uses it. -/
def arrival (f : TileForm) (s : State) (lead : Slice) : OctetRec :=
  (if f.dst.isSome then s.flushPoint lead.core lead.oct else s).octetFor lead.core lead.oct lead.wave

/-- The queue after an arrival: the entries in front of it are one arrival older; where a rule of the context applies, its replacement
stands for the group that ends with the arrival (R218, R219, R224). -/
def queueAfter (f : TileForm) (s : State) (c : Cur) (ms : List Slice) (lead : Slice) : List TileEntry :=
  let o := arrival f s lead
  let e := entryOf f s c ms lead
  let older (l : List TileEntry) := l.map fun x => { x with later := x.later + 1 }
  match (tryRules { o with queue := o.queue ++ [e] } ((s.core lead.core).share lead.wave)
      ((List.finRange 64).map fun x => (x, (s.ctx (s.ctxOfWave lead.wave)).rules.get x)) 0 0).1 with
  | none => older o.queue ++ [e]
  | some (x, n, os) => older (o.queue.take (o.queue.length + 1 - n)) ++
      replacements (e.id + 1) x ((o.queue ++ [e]).drop (o.queue.length + 1 - n)) os

/-- The machine without its tile queues, its outstanding operations and its rewrite counters. -/
def asideTile (s : State) : State :=
  { beyondOps s with octets := [], ctxs := s.ctxs.map fun x => { x with rwcnt := Vector.replicate 6 0#32, rwrule := Vector.replicate 64 0#32 } }

/-! ### Engines and tiles (R206–R211, R235–R241) -/

/-- An engine performs an entry; nothing is to stop it (R300, R305, R363). -/
structure Serves (s : State) (engine : BitVec 16) (e : Entry) : Prop where
  taken : ∃ v, s.serving? engine = some v ∧ s.servedEntry v = some e ∧ v.stop = none
  free : s.fab.copying = false

/-- An engine does the next unit of a command: its checks passed before, or pass now (R238). -/
structure Goes (s : State) (c : Cmd) : Prop where
  fine : c.checked = true ∧ c.err = 0#8 ∨ c.checked = false ∧ s.checkCmd c = 0#8
  more : c.unit < c.units
  only : ∀ x ∈ s.cmds, x.id = c.id → x = c
  place : c.core < 192
  store : (s.core c.core).spad.wf = true

/-- Where the share of a command's wave begins in its core's scratchpad. -/
def shareOf (s : State) (c : Cmd) : Nat := ((s.core c.core).share c.wave).spad

/-- The index list a GATH or SCAT goes by: as it stood in the scratchpad when the command was checked (log 53). -/
def indexList (s : State) (c : Cmd) : List Byte :=
  if c.checked = true then c.index
  else if c.kind = .gath ∨ c.kind = .scat then readBytes (s.core c.core).spad (shareOf s c + dIdx c.d) (4 * dLen c.d) else []

/-- The commands once a unit of one of them is done. -/
def unitDone (s : State) (c : Cmd) : List Cmd :=
  s.cmds.map fun x => if x.id = c.id then { c with checked := true, index := indexList s c, unit := c.unit + 1 } else x

/-- A unit done: the scratchpad of the command's core is `m` and the command has done one unit more; nothing else changes. -/
def Moves (s t : State) (c : Cmd) (m : Mem) : Prop :=
  t.core c.core = { s.core c.core with spad := m } ∧ (∀ k, k ≠ c.core → t.core k = s.core k) ∧ t.cmds = unitDone s c ∧
  ({ t with cores := s.cores, cmds := s.cmds } : State) = s

/-- The pieces of a segment of CPY, CPYS or CPYAM: source, destination, bytes. A segment is 4,096 bytes of the destination image, which of
CPYS is the rows end to end (R241). -/
def pieces (c : Cmd) : List (DWord × DWord × Nat) :=
  let lo := 4096 * c.unit
  match c.kind with
  | .cpys => (List.range (dNrow c.d)).filterMap fun r =>
      let a := max lo (r * dRowlen c.d)
      let b := min (lo + 4096) ((r + 1) * dRowlen c.d)
      let off := BitVec.ofNat 64 (a - r * dRowlen c.d)
      if a < b then some (dSrc c.d + BitVec.ofInt 64 (r * (dW5 c.d).toInt) + off, dDst c.d + BitVec.ofInt 64 (r * (dW6 c.d).toInt) + off, b - a)
      else none
  | _ => [(dSrc c.d + BitVec.ofNat 64 lo, dDst c.d + BitVec.ofNat 64 lo, min 4096 (dLen c.d - lo))]

/-- The bytes of a segment's source in a store. -/
def sources (m : Mem) (base : Nat) (ps : List (DWord × DWord × Nat)) : List (List Byte) :=
  ps.map fun p => readBytes m (base + offsetOf p.1) p.2.2

/-- A store after a segment: the whole source is read before a byte of the destination is written (R241). -/
def afterSegment (m : Mem) (base : Nat) (ps : List (DWord × DWord × Nat)) : Mem :=
  (ps.zip (sources m base ps)).foldl (fun x p => writeBytes x (base + offsetOf p.1.2.1) p.2) m

/-- The magnitude pattern of an element of CPYAM in FP32 (R241). -/
def magnitude (elt x : Nat) : Nat :=
  let v := decFp (if elt = 0 then .fp32 else if elt = 1 then .bf16 else .fp16) false x
  if v.isNan then 0x7FC00000 else bitsOf .fp32 v % 2 ^ 31

/-- The largest magnitude of a segment's source elements. -/
def largest (elt : Nat) (bs : List Byte) : Nat :=
  let n := if elt = 0 then 4 else 2
  ((List.range (bs.length / n)).map fun i => magnitude elt (ofBytes ((bs.drop (n * i)).take n))).foldl max 0

/-- The rows of a block of GATH or SCAT that its indices name: source and destination (R241). -/
def blockRows (s : State) (c : Cmd) : List (DWord × DWord) :=
  (List.range (min 64 (dLen c.d - 64 * c.unit))).filterMap fun i =>
    let n := 64 * c.unit + i
    let j : Word := fieldOf (indexList s c) (4 * n) 4 32
    let row (a : DWord) (k : Nat) : DWord := a + BitVec.ofNat 64 (k * dRowsz c.d)
    if j = 0xFFFFFFFF#32 then none
    else some (if c.kind = .gath then (row (dSrc c.d) j.toNat, row (dDst c.d) n) else (row (dSrc c.d) n, row (dDst c.d) j.toNat))

/-- The bytes a segment of CBDC writes for its indices: eight weights of each, in the format (R131, R241). -/
def cbdcBytesOf (s : State) (c : Cmd) (f : FpFmt) (n : Nat) (idx scales : List Byte) : List Byte :=
  (List.range n).flatMap fun i =>
    let x : BitVec 16 := fieldOf idx (2 * i) 2 16
    let entry := s.shellEntry c.ctx (ctlTbl (dCtl c.d)) (x.extractLsb' 8 8).toNat
    (List.range 8).flatMap fun k => toBytes (fmtWidth f / 8) (cbdPattern f (cb2Weight entry x (scales.getD (i / 4) 0#8).toNat k))

/-- The target of a CBDC (R240). -/
def cbdcFmt (c : Cmd) : FpFmt := if ctlFmt (dCtl c.d) = 0 then .e4m3 else if ctlFmt (dCtl c.d) = 1 then .e5m2 else .bf16

/-- An integer as 32 bits (R28): saturated with MODE.OSAT, else wrapped. -/
def narrow (sat : Bool) (x : Int) : Nat := ((if sat then max (-2 ^ 31) (min (2 ^ 31 - 1) x) else x) % 2 ^ 32).toNat

/-- A byte as a signed integer. -/
def signedByte (b : Byte) : Int := b.toInt

/-- Element (i, e) of A and (e, j) of B of a float TMMA or TMMAT in a K row, with its block scale (R205–R207). -/
def floatA (r : CoreRec) (h : Share) (tsa : Word) (o : TileOp) (f : FpFmt) (mx : Bool) (row i e : Nat) : FVal :=
  let w := fmtWidth f
  let x := readBits r.spad (h.spad + o.a.toNat + 1536 * row) (if o.op = 1#4 then 768 * i + w * e else w * (16 * e + i)) w
  if mx then mxDec f (modeUnitScale o.mode) (memRead r.spad (h.spad + tsa.toNat + 128 * row + 8 * i + e / 32)).toNat x else decFp f false x

def floatB (r : CoreRec) (h : Share) (o : TileOp) (f : FpFmt) (mx : Bool) (row j e : Nat) : FVal :=
  let x := readBits r.bdata (bAddr j (h.rows + tdBrow o.b + row) 0) (fmtWidth f * e) (fmtWidth f)
  if mx then mxDec f (modeUnitScale o.mode) (memRead r.bside (sideAddr j (h.rows + tdBrow o.b + row) (e / 32))).toNat x
  else decFp f false x

/-- One rounding to a format as MODE says (R23). -/
def rounded (o : TileOp) (f : FpFmt) (x : FVal) : Nat := (roundFp f (modeRnd o.mode) (modeOsat o.mode) (modeFtz o.mode) x).1

/-- What one unit of a tile instruction leaves in the accumulator (R206, R208–R211): how many tiles from tile D on it writes, and
element (i, j) of the k-th of them. `row` is the K row, `tsa` the octet's TSA. -/
def tileValue (r : CoreRec) (h : Share) (tsa : Word) (o : TileOp) (rows : List Lanes) (row : Nat) :
    Option (Nat × (Nat → Nat → Nat → Nat)) :=
  let old (t i j : Nat) : Nat := r.tileElem h t i j
  let int (t i j : Nat) : Int := (BitVec.ofNat 32 (old t i j)).toInt
  let sat := modeOsat o.mode
  match o.op.toNat with
  | 1 | 2 => match matFmt (modeEtype o.mode) with
    | some .int8 => some (1, fun _ i j => narrow sat (int o.d.toNat i j + ((List.range 96).map fun e =>
        signedByte (memRead r.spad (h.spad + o.a.toNat + 1536 * row + if o.op = 1#4 then 96 * i + e else 16 * e + i)) *
          signedByte (memRead r.bdata (bAddr j (h.rows + tdBrow o.b + row) e))).sum))
    | some (.fp f mx) => some (1, fun _ i j => kroSum (modeRnd o.mode) sat (modeFtz o.mode) (decFp .fp32 false (old o.d.toNat i j))
        ((List.range (768 / fmtWidth f)).map fun e => ((floatA r h tsa o f mx row i e).mul (floatB r h o f mx row j e)).1))
    | none => none
  | 3 => some (2, fun k i j => old (o.a.toNat + j / 16) (j % 16) (16 * k + i))
  | 4 => some (1, fun _ i j => if intMode (modeEtype o.mode) then narrow sat (int o.a.toNat i j * o.b.toInt)
      else rounded o .fp32 ((decFp .fp32 false (old o.a.toNat i j)).mul (decFp .fp32 (modeFtz o.mode) o.b.toNat)).1)
  | 5 => some (o.b.toNat + 1, fun _ _ _ => 0)
  | 6 => some (1, fun _ i j => if intMode (modeEtype o.mode) then narrow sat (int o.a.toNat i j + int o.b.toNat i j)
      else rounded o .fp32 (FVal.add (modeRnd o.mode) (decFp .fp32 false (old o.a.toNat i j)) (decFp .fp32 false (old o.b.toNat i j))).1)
  | 8 => if o.b.toNat < 16 then
      some (1, fun _ i j => if i = o.b.toNat then ((rows.getD (j / 4) (Lanes.all 0#32)).get (Fin.ofNat 4 j)).toNat else old o.d.toNat i j)
    else none
  | 10 => match imageFmt (modeEtype o.mode) with
    | some f => some (1, fun _ i j =>
        let n := imageWidth f / 8
        let x := readLE r.spad (h.spad + o.a.toNat + n * (32 * i + j)) n
        match f with
        | .inl g => bitsOf .fp32 (decFp g false x)
        | .inr w => ((BitVec.ofNat w x).toInt % 2 ^ 32).toNat)
    | none => none
  | _ => none

/-- The pattern TACCS stores for an element of its tile, in n bytes (R211). -/
def storedValue (o : TileOp) (f : FpFmt ⊕ Nat) (c : Nat) : Nat :=
  let k := decFp .fp32 (modeFtz o.mode) o.b.toNat
  match f with
  | .inl g => rounded o g ((decFp .fp32 false c).mul k).1
  | .inr w => ((cvtInt w (modeRnd o.mode) ((FVal.ofInt (BitVec.ofNat 32 c).toInt).mul k).1).1 % 2 ^ w).toNat

/-- The array of a core performs a unit of the entry at the head of an octet's queue (R215). -/
structure AtArray (s : State) (core o : Nat) (x : TileEntry) (rest : List TileEntry) : Prop where
  serves : ∃ e, Serves s (matrixLeaf core) e ∧ s.servedOctet core e = some o
  queue : (s.octet core o).queue = x :: rest
  place : core < 192
  stores : (s.core core).accm.wf = true ∧ (s.core core).spad.wf = true ∧ (s.core core).bdata.wf = true ∧ (s.core core).bside.wf = true

/-- The entry leaves the queue with its last row (R212, R216). -/
def rowDone (s t : State) (core o : Nat) (x : TileEntry) (rest : List TileEntry) : Prop :=
  let row := (s.octet core o).resume
  (row + 1 < x.op.rows → (t.octet core o).queue = x :: rest ∧ (t.octet core o).resume = row + 1) ∧
  (x.op.rows ≤ row + 1 → (t.octet core o).queue = rest ∧ (t.octet core o).resume = 0)

/-- Every other core, HBM and, unless the entry is a TACCR, the slices are as before. -/
def elsewhere (s t : State) (core : Nat) : Prop := (∀ k, k ≠ core → t.core k = s.core k) ∧ t.hbm = s.hbm ∧ t.cdata = s.cdata

/-! ### Host packets (R314–R322) -/

/-- A queue performs the packet at its head: it is ready, no check fails, no access of it waits, and its buffer list is empty (R319). -/
structure Performs (s : State) (fn : Fin 17) (q : Fin 16) (op : Nat) (p : BitVec 2560) : Prop where
  head : s.headSlot fn q = p
  ready : s.queueReady fn q = true
  names : slotOp p = op
  checks : s.packetFault fn p = none
  free : s.packetHeld fn p = false
  plain : slotNbl p = 0

/-- A state without host memory, messages and contexts. -/
def asideHost (s : State) : State := { s with hostMem := [], out := [], ctxs := Vector.replicate 17 Ctx.reset }

/-- A context without its queues. -/
def sansQueues (c : Ctx) : Ctx := { c with queues := Vector.replicate 16 HostQueue.reset }

/-- The contexts are as before, their queues apart. -/
def sameContexts (s t : State) : Prop := ∀ c, sansQueues (t.ctx c) = sansQueues (s.ctx c)

/-- A queue goes on to its next packet, and the completion record of the one at its head is reserved for it; the registers the host
writes, and every other queue of the function, are as before (R317, R319). -/
structure Passes (s t : State) (fn : Fin 17) (q : Fin 16) : Prop where
  head : (t.queue fn q).qhead.toNat = ((s.queue fn q).qhead.toNat + 1) % (s.queue fn q).size
  reserved : (t.queue fn q).cqnext = ((s.queue fn q).cqnext + 1) % (s.queue fn q).csize
  cfg : (t.queue fn q).qcfg = (s.queue fn q).qcfg ∧ (t.queue fn q).cqcfg = (s.queue fn q).cqcfg
  bases : (t.queue fn q).qbase = (s.queue fn q).qbase ∧ (t.queue fn q).cqbase = (s.queue fn q).cqbase
  bells : (t.queue fn q).qtail = (s.queue fn q).qtail ∧ (t.queue fn q).cqhead = (s.queue fn q).cqhead
  others : ∀ r, r ≠ q → t.queue fn r = s.queue fn r

/-- The completion record of a packet at ring index `idx` (R321). -/
def recordBits (q : Fin 16) (idx : Word) (p : BitVec 2560) (k : Completion) : BitVec 256 :=
  0#64 ++ k.detail ++ k.waveid ++ k.word ++ idx ++ 0#8 ++ BitVec.ofNat 8 q.val ++ p.extractLsb' 0 8 ++ k.status ++ p.extractLsb' 32 32

/-- Nothing is reported beyond a status (R321). -/
def plainly (status : BitVec 8) : Completion := ⟨status, 0#32, 0#32, 0#32⟩

/-- The record of the packet at the head of a queue of `s` stands in `t`: at the place reserved for it in the completion ring, in the host
memory `hm` that the action has left; CQTAIL passes over it where it is the next record, and stands where an earlier one is
missing; no packet waits that did not; and after the messages `out` of the action an interrupt goes out if the packet asks for it
(R316, R319, R321). -/
structure Recorded (s : State) (hm : Mem) (out : List OutMsg) (t : State) (fn : Fin 17) (q : Fin 16) (p : BitVec 2560) (k : Completion) :
    Prop where
  record : t.hostMem = writeLE hm ((s.queue fn q).cqbase.toNat + 32 * (s.queue fn q).cqnext) 32 (recordBits q (s.queue fn q).qhead p k).toNat
  tail : (s.queue fn q).cqtail.toNat = (s.queue fn q).cqnext → (s.queue fn q).ahead = [] →
    (t.queue fn q).cqtail.toNat = ((s.queue fn q).cqnext + 1) % (s.queue fn q).csize ∧ (t.queue fn q).ahead = []
  stands : (s.queue fn q).cqtail.toNat ≠ (s.queue fn q).cqnext → (s.queue fn q).cqtail.toNat ∉ (s.queue fn q).ahead →
    (t.queue fn q).cqtail = (s.queue fn q).cqtail ∧ (s.queue fn q).cqnext ∈ (t.queue fn q).ahead
  jobs : (t.queue fn q).jobs = (s.queue fn q).jobs
  interrupt : t.out = out ++ (if p.getLsbD 18 then [.interrupt fn ((s.queue fn q).qcfg.extractLsb' 8 8).toNat] else [])

/-- The packet at the head of a queue of `s` has been performed and its record is written. -/
def Done (s : State) (hm : Mem) (out : List OutMsg) (t : State) (fn : Fin 17) (q : Fin 16) (p : BitVec 2560) (k : Completion) : Prop :=
  Passes s t fn q ∧ Recorded s hm out t fn q p k

/-- The packet at the head of a queue of `s` has been performed, and its record waits (R319). -/
def Waits (s t : State) (fn : Fin 17) (q : Fin 16) (p : BitVec 2560) (w : HostWait) : Prop :=
  Passes s t fn q ∧ t.hostMem = s.hostMem ∧ (t.queue fn q).cqtail = (s.queue fn q).cqtail ∧ (t.queue fn q).ahead = (s.queue fn q).ahead ∧
    (t.queue fn q).jobs = (s.queue fn q).jobs ++ [⟨(s.queue fn q).qhead.toNat, (s.queue fn q).cqnext, p, w⟩]

/-- A context holds the fields of its record, with an empty region table and shell tables and its rewrite counters at 0 (R325). -/
structure recordHolds (c : Ctx) (r : BitVec 2048) : Prop where
  asid : c.asid = some (r.extractLsb' 0 16)
  roots : ∀ k : Fin 8, c.roots.get k = r.extractLsb' (768 + 64 * k.val) 64
  part : c.dmask = r.extractLsb' 40 4 ∧ c.sched = r.getLsbD 36 ∧ c.enc = r.getLsbD 37
  grant : c.gbase = r.extractLsb' 448 64 ∧ c.glen = r.extractLsb' 512 64
  arena : c.save = r.extractLsb' 384 64 ∧ c.savelen = r.extractLsb' 128 64
  trapv : c.trapv = r.extractLsb' 576 64
  empty : c.regions = [] ∧ c.shells = []
  counts : (∀ i, c.rwcnt.get i = 0#32) ∧ ∀ i, c.rwrule.get i = 0#32

/-! ### Waiting at issue (R35, R36) -/

/-- The source that traps in a member whose registers to be written are full: of the empty ones, in field order, the first whose policy is
trap (R35). -/
def emptyTrap (e : Effect) (m : Slice) : Option SrcUse :=
  if e.acts m = true ∧ ∀ r ∈ e.dst m, m.isFull r = true then (e.uses m).find? fun u => !m.isFull u.reg && u.trap else none

/-- The register a member waits for: the first empty one it writes; else, where no empty source has the policy trap, the first empty one it
reads, in field order (R35, R36). -/
def emptyWait (e : Effect) (m : Slice) : Option RegName :=
  if e.acts m = true then
    match (e.dst m).find? fun r => !m.isFull r with
    | some r => some r
    | none => if (emptyTrap e m).isSome then none else ((e.uses m).find? fun u => !m.isFull u.reg).map (·.reg)
  else none

/-! ### Path ends (R39) -/

/-- The entries of the current segment of the stack, the topmost first (R37, R38). -/
def entries (m : Slice) : List StackEntry := if modeSup m.mode then m.sup else m.stack

/-- The top entry restored: its mask, its MODE and its PC; a region begins there if the stack is then lower than the region's (R39, R170). -/
def popped (m : Slice) : Slice :=
  match entries m with
  | [] => m
  | e :: es =>
    let x : Slice := { (if modeSup m.mode then { m with sup := es } else { m with stack := es }) with
      amask := e.mask, mode := e.mode, pc := e.pc }
    if x.stack.length + x.sup.length < m.rgnDepth then region x e.pc else x

/-- At most n entries restored, up to one with a lane (R39). -/
def unwound (n : Nat) (m : Slice) : Slice :=
  match n with
  | 0 => m
  | k + 1 =>
    let x := popped m
    if x.amask = 0#4 ∧ entries x ≠ [] then unwound k x else x

/-! ### Messages -/

/-- Interrupts alone, and of counters: what events that wrap a counter send while an operation of the host accesses memory (R328). -/
def Interrupts (l : List OutMsg) : Prop := ∀ m ∈ l, ∃ c v, m = .interrupt c v

end Sys2Proof.Claims

open Sys2Proof Sys2Proof.Machine Sys2Proof.Claims

/-! ## Encodings -/

/-- Every well-formed instruction that has a word decodes from its words to itself, with every operand at every value the encoding
admits (R57–R64, R78). -/
def Obligations.DecodeEncode : Prop := ∀ i : Instr, i.wf = true → encode i ≠ [] → decodeWords (encode i) = .ok i

/-- Words that decode are those of a well-formed instruction, and no other: no bit of an encoding is ignored (R63, R64). -/
def Obligations.EncodeDecode : Prop := ∀ (ws : List Word) (i : Instr), decodeWords ws = .ok i → i.wf = true ∧ encode i = ws

/-- Words written out bit by bit from the encoding tables (R57–R63, R74) decode to the instructions they stand for. -/
def Obligations.WrittenWords : Prop :=
  decodeWords [0x00#8 ++ 0#24] = .ok .nop ∧
  decodeWords [0x10#8 ++ 3#8 ++ 4#8 ++ 5#8] = .ok (.add 3 ⟨.s 4, false⟩ ⟨.s 5, false⟩) ∧
  decodeWords [0x20#8 ++ 63#8 ++ 0#16, 0xDEADBEEF#32] = .ok (.li 63 0xDEADBEEF#32) ∧
  decodeWords [0x30#8 ++ 1#8 ++ 2#8 ++ 3#8] = .ok (.vadd ⟨.v 1, false⟩ ⟨.v 2, false⟩ ⟨.v 3, false⟩ none)

/-! ## The step -/

/-- What a core's turn needs for its gang to issue the instruction at its PC (R48–R56, R376): `l` is the line of code there, `h` its
header, and the words at the PC's slot are those of `i`; in a version 1 line the restrictions of its group hold for every member. -/
structure FetchesAt (s : State) (g : Gang) (m : Slice) (ms : List Slice) (l : ILine) (t : State) (i : Instr) : Prop where
  members : s.membersOf g = m :: ms
  quiet : ∀ x ∈ m :: ms, x.late = false ∧ x.pathEnds = false
  aligned : m.pc.toNat % 4 = 0
  line : s.codeLine m.core (s.sliceAsid m) m.pc = .line l t
  version : (headerVersion (l.words.get 0)).isSome = true
  starts : headerCode (l.words.get 0) (slotOf m.pc).val ≠ 2#2
  words : decodeWords (l.words.get (slotOf m.pc) ::
    (List.range (extCount (l.words.get 0) (slotOf m.pc).val 15)).map fun j => l.words.toList.getD ((slotOf m.pc).val + 1 + j) 0#32) = .ok i
  mode : opSupervisor ((l.words.get (slotOf m.pc)).extractLsb' 24 8) = true → ∀ x ∈ m :: ms, modeSup x.mode = true
  group : headerVersion (l.words.get 0) = some true → ∀ x ∈ m :: ms,
    groupBreach l (slotOf m.pc).val x.mode = false ∧ bypassMisuse l (slotOf m.pc).val = false

/-- A step runs the instruction decoded at the PC of the core's next gang: exec of it, with the gang, its PC and the next PC latched —
behind the extension words in the line, else word 1 of the next line (R51) — and then what follows every step at once; a step of the
agenda that has no instruction word is exec of it. The agenda, what follows every step at once (`settleOutcome`), and the count of how
often the other ready gangs of the core were passed over (`passOver`, R48) are the model's own (DESIGN CHOICE, log 2, 48). -/
def Obligations.StepRunsDecoded : Prop :=
  (∀ s k rest g m ms l t i, s.agenda = .issue k :: rest → s.nextGang (fun x => x.core == k) = some g →
    FetchesAt (State.passOver { s with agenda := rest } g) g m ms l t i →
    let n := extCount (l.words.get 0) (slotOf m.pc).val 15
    let c : Cur := ⟨g.gid, m.pc,
      if (slotOf m.pc).val + n ≤ 14 then m.pc + BitVec.ofNat 64 (4 * (n + 1)) else (m.pc &&& ~~~63#64) + 68#64,
      l.words.get (slotOf m.pc),
      headerVersion (l.words.get 0) == some false && headerCode (l.words.get 0) (slotOf m.pc).val == 1#2⟩
    step s = settleOutcome (exec i { t with cur := some c })) ∧
  ∀ s i rest, s.agenda = .event i :: rest → step s = settleOutcome (exec i { s with agenda := rest })

/-- Every instruction and every step of the machine answers a next state, whatever the state: nothing stops it. A trap, an error or a wait
is a next state (R164); that a step whose conditions do not hold leaves the state as it is, is the model's choice (log 2). -/
def Obligations.NeverStops : Prop := ∀ (i : Instr) (s : State), ∃ t, exec i s = .next t

/-! ## Reset -/

/-- What reset leaves: GTMO = 4096 and SWPT = 2048 (R47), QUANT = 1000 (R82), every core at 2.7 GHz (R278), four domains online, no slice,
no gang, no wave; the fabric disabled (R342), every function TDISP UNLOCKED (R323), every mailbox 0 and not pending (R98). The mailboxes, the TDISP states and the frequency at reset are the
model's choice (log 6). -/
def Obligations.ResetState : Prop :=
  let s := State.reset
  (∀ k, (s.core k).gtmo = 4096#20 ∧ (s.core k).swpt = 2048#20 ∧ (s.core k).quant = 1000#20 ∧ (s.core k).freq = 27) ∧
  s.online = 15#4 ∧ s.slices = [] ∧ s.gangs = [] ∧ s.waves = [] ∧ s.fab.quota = 0#16 ∧
  (∀ c, (s.ctx c).tdisp = .unlocked ∧ ∀ m, ((s.ctx c).mailboxes.get m).pend = false ∧ ((s.ctx c).mailboxes.get m).value = 0#32)

/-- At reset every memory keeps the canonical form. That an unlisted byte reads 0 is the model's choice (log 5). -/
def Obligations.ResetMemory : Prop := State.reset.memWf = true

/-! ## Instructions of a slice's own registers -/

/-- Group 0x1, the scalar arithmetic: each result, on signed or unsigned values, whatever MODE holds; no other register and no flag
changes, no trap is taken, and no modifier word belongs to the instruction (R79). -/
def Obligations.ScalarArithmetic : Prop :=
  (Table scalarTable fun _ => quiet) ∧ ∀ i e, scalarTable i = some e → (encode i).length = 1

/-- The literal and pair forms, GETM and CSRR (R80, R81, R83, R84); NOP, RGN, FETST, FEMRK and PREF (R63, R92, R95, R96, R146). -/
def Obligations.LiteralsAndPlainControl : Prop :=
  (Table literalTable fun _ => quiet) ∧
  Table plainTable fun _ => quiet

/-- Groups 0x3 and 0x4, the integer vector instructions, on elements of the width of MODE.ETYPE, in the active lanes (R104, R109–R114). -/
def Obligations.VectorInteger : Prop := Table integerTable fun _ => quiet

/-- Group 0x5, floating point: each result and the exceptions it raises, under the element types an instruction admits (R104, R105,
R115–R119). The special inputs of an approximation give the exact results; for every other finite input whose result does not overflow,
an FP32 result lies inside the bound of R118 or is the exact value, cut to 190 bits and more, rounded to nearest: which of the values
inside the bound it is, is the part's own (the model's reading, log 13). -/
def Obligations.VectorFloat : Prop :=
  (Table floatTable fun _ => quiet) ∧
  (∀ r ∈ approxSpecials, ∀ (sl : Slice) (z : Word), modeEtype sl.mode = .fp32 → modeFtz sl.mode = false → modeOsat sl.mode = false →
    approxForm r.1 none sl r.2.1 z = r.2.2) ∧
  ∀ (op : ApproxOp) (sl : Slice) (x z : Word) (neg : Bool) (m : Nat) (e : Int), modeEtype sl.mode = .fp32 → modeFtz sl.mode = false →
    decFp .fp32 false x.toNat = .fin neg m e → approxSpecial op (.fin neg m e) = none →
    let mid := approxMid op neg m e
    let y := decFp .fp32 false (approxForm op none sl x z).1.toNat
    (ratOf mid).abs ≤ (2 ^ 24 - 1) * 2 ^ 104 →
      y = decFp .fp32 false (roundFp .fp32 .rne true false mid).1 ∨ withinR118 op (.fin neg m e) mid y

/-- Group 0x6, complex numbers (R120–R123). How a twiddle factor is rounded is the model's reading (log 14). -/
def Obligations.VectorComplex : Prop := Table complexTable fun _ => quiet

/-- Group 0x7, conversions (R124–R131). -/
def Obligations.Conversions : Prop := Table convertTable fun _ => quiet

/-- Group 0x8, across lanes and slices, in slice and in gang scope (R132–R137). -/
def Obligations.CrossLane : Prop := Table crossTable fun _ => quiet

/-- CSRW, SETM, SETMI, RDTS (R82–R85). The amount by which the time-stamp counter has gone on is the model's free value (log 4). -/
def Obligations.ControlWrites : Prop := Table writeTable writeRest

/-- JOIN and LEAVE (R43, R193). LEAVE of a crew whose barrier word is bound, in one slice: EXP counts one less; if arrivals were waiting and
are now enough, the phase completes; an EXP of 0 stays 0 (the model's choice, log 49). -/
def Obligations.Crews : Prop :=
  (Table crewTable crewRest) ∧
  ∀ a s c g ms m e w, Issuing s c g ms → ms.filter guarded = [m] → m.crews.getLsbD a.val = true →
    s.crew m.core a = some e → s.crewWord m.core e = some w → m.core < 192 → s.memWf = true →
    let x := s.barWord m.core w
    ∃ t, exec (.leave a) s = .next t ∧
      (t.slice? m.sid).map (·.crews) = some (m.crews &&& ~~~(1#32 <<< a.val)) ∧
      t.barWord m.core w = (if barArr x ≠ 0 ∧ barExp x - 1 ≤ barArr x then barMake x (!barPhase x) 0 (barExp x - 1)
        else barMake x (barPhase x) (barArr x) (barExp x - 1)) ∧
      scratchKept s t [(m.core, w)] ∧
      t.crew m.core a = (if s.slices.all fun y => !(y.core == m.core && y.crews.getLsbD a.val) || y.sid == m.sid then none else some e)

/-! ## Control -/

/-- BRA and BRP (R38, R86, R87): no lane, every lane or some lanes take the branch; what is fetched to check a target changes caches alone. -/
def Obligations.Branches : Prop := Table branchTable fun i => fetching (branchReads i)

/-- BRI, CALL, CALLI, RET (R88): the whole mask goes to the target, the link is written; with no lane active the PC moves on. -/
def Obligations.WholeTransfers : Prop := Table wholeTable fun i => fetching fun c m => [wholeTarget i c m]

/-- RETR and RETT (R173, R174): the mode, the mask and the PC the trapped slice goes on with. -/
def Obligations.HandlerReturns : Prop := Table returnTable returning

/-- EXIT (R89). Where a lane of the slice is left, the slice goes on. With its last lanes the slice is gone, from its gang too, and its wave
has one slice less to finish; in a handler whose trapped slice has lanes left it returns as RETR does after a late trap, else as RETT
(R174). That an EXIT which leaves lanes active enters a region in a handler too is the model's reading (log 29). -/
def Obligations.Exit : Prop :=
  (Table exitTable fun _ => quiet) ∧
  ∀ s c g ms m, Issuing s c g ms → ms.filter guarded = [m] → still s m → m.amask &&& ~~~m.active = 0#4 →
    ((exited m m).popAll 16).amask = 0#4 →
    let u := (exited m m).popAll 16
    ((modeSup m.mode = false ∨ (u.bank.get 3).val.extractLsb' 0 4 = 0#4) → ∃ t, exec .exit s = .next t ∧
      t.slice? m.sid = none ∧ (∀ x ∈ t.gangs, m.sid ∉ x.members) ∧
      ∀ w, s.wave? m.wave = some w → (t.wave? m.wave).map (·.live) = some (w.live - 1)) ∧
    (modeSup m.mode = true → (u.bank.get 3).val.extractLsb' 0 4 ≠ 0#4 → m.taken.getLsbD 7 = false →
      returnable s u u.tpc true → ∃ t, exec .exit s = .next t ∧
        t.slice? m.sid = some (region { u with amask := (u.bank.get 3).val.setWidth 4, mode := userMode u, pc := u.tpc } u.tpc)) ∧
    (modeSup m.mode = true → (u.bank.get 3).val.extractLsb' 0 4 ≠ 0#4 → m.taken.getLsbD 7 = true →
      returnable s u u.rgnpc false → ∃ t, exec .exit s = .next t ∧
        t.slice? m.sid = some (region { u with
          stack := u.stack.drop (u.stack.length - u.rgnDepth), amask := u.rgnMask &&& (u.bank.get 3).val.setWidth 4
          mode := userMode u, pc := u.rgnpc } u.rgnpc))

/-- YIELD sends its gang to the tail of its rank, in a line of either version, and changes nothing else (R90): it is ready, from a moment after
every other (`since` of the model). In a version 1 line it ends its group: one that the header does not let end it breaks
the restriction of R54. -/
def Obligations.YieldTail : Prop :=
  (∀ (l : ILine) (i : Nat) (mode : Word), 1 ≤ i → i < 15 → l.words.toList[i]? = some 0x08000000#32 → headerCode (l.words.get 0) i = 0#2 →
    headerCode (l.words.get 0) (i + 1) ≠ 2#2 → groupBreach l i mode = true) ∧
  ∀ s c g ms, Issuing s c g ms → ∃ t n, exec .yield s = .next t ∧
    (∀ m ∈ ms, t.slice? m.sid = some { m with pc := c.nxt }) ∧ (∀ b, b ∉ ms.map (·.sid) → t.slice? b = s.slice? b) ∧
    s.nextId ≤ n ∧ t.gangs = s.gangs.map (fun x => if x.gid = c.gid then { x with wait := .ready, since := n, passed := 0 } else x) ∧
    t.beyond = s.beyond

/-- REGANG (R42, R93): the slices arrive at the instance of their block and PC, which is opened if there is none. While a slice of the
block is missing, and the instance is not timed with GTMO = 0, the gang waits in it. The last arrival closes the instance, and so does
any arrival where it is timed and GTMO = 0: the slices
that stand in one octet form one gang in the order of their slots, ready to issue, and where at most one instance of that wave, block and
PC was open, none is left. -/
def Obligations.Regang : Prop :=
  (∀ timed s c g m ms, Issuing s c g (m :: ms) →
     let old := s.regangs.find? fun r => r.wave == m.wave && r.block == m.block && r.pc == c.pc
     let arrived := ((old.map (·.arrived)).getD []) ++ (m :: ms).map (·.sid)
     let timed' := ((old.map (·.timed)).getD false) || timed
     (∃ x ∈ s.slices, x.wave = m.wave ∧ x.block = m.block ∧ x.sid ∉ arrived) → (timed' = true → (s.core m.core).gtmo ≠ 0#20) →
     c.yields = false →
     ∃ t id, exec (.regang timed) s = .next t ∧ (∀ y ∈ m :: ms, t.slice? y.sid = some { y with pc := c.nxt }) ∧
       (∃ r ∈ t.regangs, r = ⟨id, m.wave, m.block, c.pc, arrived, timed'⟩) ∧
       t.gangs = s.gangs.map (fun x => if x.gid = c.gid then { x with wait := .regang id } else x)) ∧
  ∀ timed s c g m ms, Issuing s c g (m :: ms) →
    let old := s.regangs.find? fun r => r.wave == m.wave && r.block == m.block && r.pc == c.pc
    let arrived := ((old.map (·.arrived)).getD []) ++ (m :: ms).map (·.sid)
    let timed' := ((old.map (·.timed)).getD false) || timed
    (∀ x ∈ s.slices, x.wave = m.wave → x.block = m.block → x.sid ∈ arrived) ∨ timed' = true ∧ (s.core m.core).gtmo = 0#20 →
    c.yields = false →
    let stand := (arrived.filterMap s.slice?).filter fun x => x.place == .resident
    ∃ t, exec (.regang timed) s = .next t ∧
      (∀ r ∈ t.regangs, r ∈ s.regangs ∧ old.map (·.id) ≠ some r.id) ∧
      ((s.regangs.filter fun r => r.wave == m.wave && r.block == m.block && r.pc == c.pc).length ≤ 1 →
        ∀ r ∈ t.regangs, ¬ (r.wave = m.wave ∧ r.block = m.block ∧ r.pc = c.pc)) ∧
      ∀ x ∈ stand, ∃ h ∈ t.gangs, h.core = x.core ∧ h.octet = x.oct ∧ h.wait = .ready ∧
        h.members = (bySlot (stand.filter fun y => y.core == x.core && y.oct == x.oct)).map (·.sid)

/-- TRAP (R91, R166): every acting member raises the software trap, whose TPC is the next instruction and whose detail holds the code; with
no active lane in any member it only moves on; with code 0xFFFF in a wave that a debugger is attached to, it stops as a breakpoint instead (R179). -/
def Obligations.SoftwareTrap : Prop :=
  ∀ code s c g ms, Issuing s c g ms →
    ((code ≠ 0xFFFF#16 ∨ ∀ m ∈ ms, s.attached m = false) → ms.filter guarded ≠ [] →
      exec (.trap code) s = .next { s.raiseAll ((ms.filter guarded).map fun m =>
        (m.sid, ⟨0xD#5, 0#8, 0#8, code, 0#64, m.active, c.nxt, false, none⟩)) with cur := none }) ∧
    (ms.filter guarded = [] → ∃ t, exec (.trap code) s = .next t ∧ (∀ m ∈ ms, t.slice? m.sid = some { m with pc := c.nxt }) ∧
      t.beyond = s.beyond) ∧
    (code = 0xFFFF#16 → (∀ m ∈ ms, s.attached m = true) → ∃ t, exec (.trap code) s = .next t ∧
      ∀ m ∈ ms, guarded m = true → (t.slice? m.sid).map (·.stopped) = some true ∧ (t.slice? m.sid).map (·.pc) = some c.nxt)

/-! ## Waiting and trapping at issue (R35, R36, R376) -/

/-- A scalar instruction of a gang one of whose members waits (`emptyWait`) parks the gang on that register, that of the first such member
by slot; nothing else happens but that the rewrite windows of the gang's octets close (R35, R36, R41, R228). If no member waits, those
whose source traps (`emptyTrap`) take the full/empty trap, 2/0x01, which names the field (R35, R166). That a wait of one member comes before a
trap of another is the model's reading (log 11). -/
def Obligations.EmptyRegisters : Prop :=
  (∀ i e s c g ms x r, scalarTable i = some e → Issuing s c g ms →
     (ms.findSome? fun m => (emptyWait e m).map fun r => (m.sid, r)) = some (x, r) →
     exec i s = .next { (ms.foldl State.flushSlice s).startWait c.gid (.parked x r) with cur := none }) ∧
  ∀ i e s c g ms, scalarTable i = some e → Issuing s c g ms → (∀ m ∈ ms, emptyWait e m = none) →
    (∀ m ∈ ms, e.acts m = true → ∀ u ∈ e.uses m, m.isFull u.reg = true → m.badToken u.reg = false) →
    (∃ m ∈ ms, (emptyTrap e m).isSome = true) →
    exec i s = .next { s.raiseAll (ms.filterMap fun m => (emptyTrap e m).map fun u =>
      (m.sid, ⟨2#5, 1#8, u.field, BitVec.ofNat 16 u.which, 0#64, m.active, c.pc, false, none⟩)) with cur := none }

/-- In a member with MODE.SUP = 0, a supervisor-only instruction raises the privilege trap, whatever its lanes and registers; a
supervisor's control register does so where a lane is active and the registers of CSRR or CSRW are full (R61, R76, R83, R166, R376): group 8,
case 1 for an opcode, case 2 with its number for a control register. -/
def Obligations.PrivilegeTrap : Prop :=
  ∀ i s c g m, Issuing s c g [m] → modeSup m.mode = false →
    (i = .retr ∨ i = .rett ∨ (∃ d a b, i = .ptew d a b) ∨ (∃ d a b, i = .fpool d a b) ∨ (∃ d a b, i = .trule d a b) →
      exec i s = .next { s.raiseTrap m.sid ⟨8#5, 1#8, 0#8, 0#16, c.word.setWidth 64, m.active, c.pc, false, none⟩ with cur := none }) ∧
    ∀ b, (m.active ≠ 0#4 ∧ ((∃ d, i = .csrr d b ∧ m.ready [] [m.sname d] = true) ∧ csrTrap b = true ∨
        (∃ a, i = .csrw a b ∧ m.ready (m.ssUses a 1) [] = true) ∧ csrWriteSup b = true)) →
      exec i s = .next { s.raiseTrap m.sid ⟨8#5, 2#8, encCsr b, 0#16, c.word.setWidth 64, m.active, c.pc, false, none⟩ with cur := none }

/-- Taking a trap with nothing outstanding (R164–R168): TCAUSE, the detail and TPC are written, and what was taken is kept (R165); the bank saves the save-area address,
MODE and the mask; SUP := 1 and GEN := 0; the mask is the lanes that trapped; the PC is the vector, the wave's or, with 0 there, the
context's. -/
def Obligations.TrapEntry : Prop :=
  ∀ (s : State) (sl : Slice) (r : TrapRec), s.slice? sl.sid = some sl →
    ((∀ t ∈ s.txns, ∀ l ∈ t.lanes, l.sid ≠ sl.sid) ∨
      (s.faultedTxns sl.sid = [] ∧ s.resolved sl.sid = true ∧ (r.group.toNat < 5 ∨ 7 < r.group.toNat))) →
    modeSup sl.mode = false → s.vectorOf sl ≠ 0#64 → r.late = false → r.group ≠ 0xE#5 →
    let x := (r.reg.map sl.clearMark).getD sl
    (s.raiseTrap sl.sid r).slice? sl.sid = some { x with
      tcause := 0#12 ++ sl.amask ++ r.lanes ++ 0#7 ++ r.group
      tdet := r.case ++ r.field ++ r.mid ++ r.low
      tpc := r.tpc
      taken := r.case ++ 0#3 ++ r.group
      bank := #v[⟨(s.saveArea sl).setWidth 32, true, false⟩, ⟨(s.saveArea sl).extractLsb' 32 32, true, false⟩, ⟨sl.mode, true, false⟩,
        ⟨sl.amask.setWidth 32, true, false⟩]
      mode := (sl.mode ||| 0x01000000#32) &&& ~~~0x10#32
      amask := r.lanes, sup := [], pc := s.vectorOf sl, pend := none, late := false }

/-- A trap inside a handler ends its wave (R164, R166): STAT 0x0F with the case, the detail with the nested trap's case, group and PC and
the handled trap's case and group, and no slice of the wave is left. -/
def Obligations.DoubleFault : Prop :=
  ∀ (s : State) (sl : Slice) (r : TrapRec) (w : Wave), s.slice? sl.sid = some sl → modeSup sl.mode = true → r.late = false →
    r.group ≠ 0xE#5 → s.wave? sl.wave = some w → w.ended = none →
    ((s.raiseTrap sl.sid r).wave? sl.wave).bind (·.ended) = some ⟨0#8 ++ r.case ++ 0x0F#8 ++ 1#8,
      r.case ++ 0#3 ++ r.group ++ sl.taken.extractLsb' 8 8 ++ 0#3 ++ sl.taken.extractLsb' 0 5 ++ r.tpc, r.tpc, sl.core, none⟩ ∧
    ∀ x ∈ (s.raiseTrap sl.sid r).slices, x.wave ≠ sl.wave

/-! ## Memory and synchronisation at issue -/

/-- The loads at issue (R34, R139, R144): an access for each active lane joins the outstanding operations, the destinations are empty. -/
def Obligations.LoadsIssue : Prop := LaunchTable loadTable

/-- The stores at issue (R144, R350): no byte of memory changes; the bytes are those of R144 and R145, written when the store is performed. -/
def Obligations.StoresIssue : Prop := LaunchTable storeTable

/-- The atomics at issue (R155–R158, R162): operands and addresses of every active lane, and the destination empty. -/
def Obligations.AtomicsIssue : Prop := LaunchTable atomicTable

/-- Fences, barrier arrivals and tests, and waits at issue (R97–R99, R152, R189, R191, R273). -/
def Obligations.SyncIssue : Prop := LaunchTable syncTable

/-- PTEW, FPOOL, TRULE, TRWQ and QPUSH at issue (R100, R175, R177, R230, R231). -/
def Obligations.SystemIssue : Prop := LaunchTable systemTable

/-- Group 0xE at issue (R353–R355, R366): what is accepted by the fabric engine is outstanding first; a register that returns is empty. -/
def Obligations.FabricIssue : Prop := LaunchTable fabricTable

/-- BARI (R188, R193): the word of the last member holds its count; a crew's entry is bound to it, with EXTRA; every other byte of the
scratchpads is as before. BARW (R191): the members whose word shows the phase they name wait, and their gang with them; with none, it
goes on. From when the wait counts is the model's `since` (log 48). -/
def Obligations.BarrierWords : Prop :=
  (∀ d a b s c g ms l, Issuing s c g ms → (ms.filter guarded).getLast? = some l → s.memWf = true → c.yields = false →
     (∀ m ∈ ms, guarded m = true → m.ready (m.spUses a 1 ++ m.ssUses b 2) [] = true ∧ fits s m (m.readPair a.reg) 4 4 [.scratch] ∧
       m.core < 192 ∧ s.mustWait (.store none) m (m.readPair a.reg) = false ∧
       ∀ k, d = some k → ∀ e, s.crew m.core k = some e → e.wave = m.wave) →
     let n (m : Slice) := ((m.readSrc b.reg).extractLsb' 0 12).toNat
     ∃ t, exec (.bari d a b) s = .next t ∧ (∀ m ∈ ms, ∃ x, t.slice? m.sid = some x ∧ x.pc = c.nxt) ∧
       t.barWord l.core (barAddr s l a) = BitVec.ofNat 32 (initial s l d (n l)) ∧
       scratchKept s t ((ms.filter guarded).map fun m => (m.core, barAddr s m a)) ∧
       (∀ k, t.crew l.core k = if d = some k then (s.crew l.core k).map fun e => { e with word := some (offsetOf (l.readPair a.reg)), extra := n l }
         else s.crew l.core k) ∧
       t.gangs = s.gangs) ∧
  ∀ a b s c g ms, Issuing s c g ms → c.yields = false →
    (∀ m ∈ ms, m.ready (m.spUses a 1 ++ m.ssUses b 2) [] = true ∧ fits s m (m.readPair a.reg) 4 4 [.scratch] ∧
      s.mustWait (.load none) m (m.readPair a.reg) = false) →
    let waits := ms.filter fun m => barPhase (s.barWord m.core (barAddr s m a)) == (m.readSrc b.reg).getLsbD 0
    ∃ t n, exec (.barw a b) s = .next t ∧ (∀ m ∈ ms, ∃ x, t.slice? m.sid = some x ∧ x.pc = c.nxt) ∧ s.nextId ≤ n ∧
      t.gangs = (if waits = [] then s.gangs else s.gangs.map fun x =>
        if x.gid = c.gid then { x with wait := .barw c.pc (waits.map fun m => (m.sid, barAddr s m a)), since := n } else x) ∧
      t.cores = s.cores ∧ t.hbm = s.hbm ∧ t.cdata = s.cdata

/-! ## Engines and tiles at issue -/

/-- The engine commands (R233, R237): each acting slice's token is empty and its command stands in the issue order, in ascending
order of the members; nothing else changes, and the gang waits where the queue has no room for all of them. -/
def Obligations.EngineIssue : Prop :=
  ∀ i o s c g ms, orderOf i = some o → Issuing s c g ms →
    (∀ m ∈ ms, guarded m = true → m.ready (m.spUses o.a 1) [m.sname o.d] = true ∧
      fits s m (m.readPair o.a.reg) o.size o.align [.global, .scratch]) →
    let acting := ms.filter guarded
    ((∀ m ∈ acting, (s.queueCmds m.core o.queue).length + acting.length ≤ 16) → ∃ t, exec i s = .next t ∧
      (∀ m ∈ ms, t.slice? m.sid = some { (if guarded m then (m.clearMarks (m.spUses o.a 1)).setFull (m.sname o.d) false else m) with
        pc := c.nxt }) ∧
      (∀ b, b ∉ ms.map (·.sid) → t.slice? b = s.slice? b) ∧
      t.txns = s.txns ++ acting.zipIdx.map (fun p => orderTxn o s c p.1 p.2) ∧
      t.cmds = s.cmds ++ acting.zipIdx.map (fun p => orderCmd o s p.1 p.2) ∧
      ({ beyondOps t with cmds := [] } : State) = { beyondOps s with cmds := [] } ∧
      (c.yields = false → t.gangs = s.gangs ∧ t.nextId = s.nextId + 2 * acting.length)) ∧
    ((∃ m, acting.head? = some m ∧ 16 < (s.queueCmds m.core o.queue).length + acting.length) →
      exec i s = .next { s.setWait c.gid (.held true) with cur := none })

/-- QFENCE (R242): each acting slice's fence takes its place in the issue order of its core; the rewrite windows close (R228). -/
def Obligations.QueueFence : Prop :=
  ∀ q s c g ms, Issuing s c g ms → ∃ t, exec (.qfence q) s = .next t ∧
    (∀ m ∈ ms, t.slice? m.sid = some { m with pc := c.nxt }) ∧ (∀ b, b ∉ ms.map (·.sid) → t.slice? b = s.slice? b) ∧
    t.qfences = s.qfences ++ (ms.filter guarded).zipIdx.map (fun p => ⟨p.1.core, q.mask, s.nextId + p.2⟩) ∧
    ({ t.beyond with qfences := [] } : State) = { ((ms.filter guarded).foldl State.flushSlice s).beyond with qfences := [] }

/-- The tile instructions (R200, R201, R218–R220, R224): the instruction captured from the member at position 0 joins its octet's queue,
where a rewrite rule may replace it with those before it; TACCR's destinations are empty until its row is read (R210). When an original is
released and how TSA follows is the model's reading (log 31). -/
def Obligations.TileIssue : Prop :=
  ∀ i f s c g ms lead, tileForm i = some f → Issuing s c g ms → TileReady f s c ms lead → ∃ t, exec i s = .next t ∧
    (∀ m ∈ ms, t.slice? m.sid = some { ((f.dst.map vregName).toList.foldl (fun x r => x.setFull r false) (m.clearMarks (tileUses f m))) with
      pc := c.nxt }) ∧
    (∀ b, b ∉ ms.map (·.sid) → t.slice? b = s.slice? b) ∧
    (t.octet lead.core lead.oct).queue = queueAfter f s c ms lead ∧
    (t.octet lead.core lead.oct).tsa = (s.octetFor lead.core lead.oct lead.wave).tsa ∧
    (∀ k o, ¬ (k = lead.core ∧ o = lead.oct) → t.octet k o = s.octet k o) ∧
    (f.dst = none → t.txns = s.txns) ∧ (f.dst.isSome = true → ∃ x, t.txns = s.txns ++ [x] ∧ x.id = s.nextId ∧ x.kind = .taccr s.nextId ∧
      x.parts.map (·.sid) = ms.map (·.sid)) ∧
    asideTile t = asideTile s ∧ (c.yields = false → t.gangs = s.gangs)

/-- TSYNC (R214): it issues when its octet's queue is empty and no store of its slices to the accumulator window is on its way, and then
changes nothing; else its gang waits, with the rewrite window closed (R228). -/
def Obligations.TileSync : Prop :=
  ∀ s c g ms, Issuing s c g ms → (∀ m ∈ ms, m.core = g.core ∧ m.oct = g.octet) →
    ((s.octet g.core g.octet).queue = [] → (∀ m ∈ ms, s.storesPending m.sid [.accum] = false) → ∃ t, exec .tsync s = .next t ∧
      (∀ m ∈ ms, t.slice? m.sid = some { m with pc := c.nxt }) ∧ (∀ b, b ∉ ms.map (·.sid) → t.slice? b = s.slice? b) ∧
      t.beyond = s.beyond) ∧
    (ms ≠ [] → ((s.octet g.core g.octet).queue ≠ [] ∨ ∃ m ∈ ms, s.storesPending m.sid [.accum] = true) →
      exec .tsync s = .next { (s.flushPoint g.core g.octet).setWait c.gid (.held true) with cur := none })

/-! ## Memory -/

/-- The laws of a memory (R3, R153), whose list of bytes is the model's own, an unlisted one reading 0 (log 5): a byte written is read back, every other byte reads as before, and the canonical form is kept. Two
memories in canonical form that read the same at every address are equal. -/
def Obligations.MemoryLaws : Prop :=
  (∀ (m : Mem) (a : Nat) (bs : List Byte), m.wf = true →
     (writeBytes m a bs).wf = true ∧ readBytes (writeBytes m a bs) a bs.length = bs ∧
     (∀ b, b < a ∨ a + bs.length ≤ b → memRead (writeBytes m a bs) b = memRead m b) ∧
     ∀ n : Nat, n < 2 ^ (8 * bs.length) → ofBytes (toBytes bs.length n) = n) ∧
  ∀ m n : Mem, m.wf = true → n.wf = true → (∀ a, memRead m a = memRead n a) → m = n

/-- An operation that is due: its lanes are translated, what is ordered before it is done, and what it reads or writes holds no error. -/
structure Due (s : State) (t : Txn) : Prop where
  here : s.txn? t.id = some t
  ready : s.ready t = true
  clean : s.poisonOf t = none
  apart : (t.parts.map (·.sid)).Nodup

/-- Bringing lines in may write back a line whose data differs, into its own frame; it writes no other byte of physical memory (R254). -/
def backOnly (s v : State) : Prop :=
  ∀ a, memRead v.hbm a ≠ memRead s.hbm a → ∃ l ∈ s.lines, l.dirty = true ∧ l.pa / 16 * 16 ≤ a ∧ a < (l.pa + 143) / 16 * 16

/-- Which slices have read a value is left apart. -/
def unseen (l : List Txn) : List Txn := l.map fun x => { x with seen := [] }

/-- The word a lane of a load takes: the bytes at its own address; a scalar destination has the one value of its slice's access (R34,
R144). -/
def loaded (v : State) (t : Txn) (asid : BitVec 16) (p : Part) (i : Fin 4) : Nat :=
  match t.lanes.find? fun l => l.sid == p.sid && (p.dst.any RegName.scalar || l.lane == i) with
  | some l => ofBytes (v.readWindow t.core t.wave asid l.addr t.size)
  | none => 0

/-- REGISTER_FILL of a load (R34, R144, R145, R159): the active lanes of every destination take the bytes at their addresses,
little-endian and zero-extended, and its registers are full; an acquire of die scope or wider is noted in its slices. The lines it reads are
brought in; no other byte of memory changes, and no other slice. -/
def Obligations.LoadFills : Prop :=
  ∀ (s : State) (t : Txn) (acq : Option Scope), t.kind = .load acq → Due s t →
    let v := s.fillLanes t t.lanes
    let val := loaded v t (s.txnAsid t)
    ∃ u, exec (.registerFill t.id) s = .next u ∧
      (∀ p ∈ t.parts, u.slice? p.sid = (s.slice? p.sid).map fun m =>
        { (m.fillPart p p.mask (Lanes.ofFn fun i => BitVec.ofNat 32 (val p i)) (Lanes.ofFn fun i => BitVec.ofNat 32 (val p i / 2 ^ 32))) with
          acqAt := if t.kind.wideAcquire then s.nextId else m.acqAt }) ∧
      (∀ b, b ∉ t.parts.map (·.sid) → u.slice? b = s.slice? b) ∧ unseen u.txns = unseen (s.txns.filter fun x => x.id != t.id) ∧
      u.writes.map (fun w => { w with seen := [] }) = s.writes.map (fun w => { w with seen := [] }) ∧
      u.hbm = v.hbm ∧ u.cdata = v.cdata ∧ backOnly s u ∧ u.cores = s.cores ∧ u.gangs = s.gangs ∧ u.ctxs = v.ctxs

/-- STORE_DIE_POINT of a store of one lane (R144, R145, R149, R269). In the scratchpad its bytes stand at its address and every other byte is as
before. In the global window its die reads them, and no other byte of any die changes, with no other write on its way. With `coreOnly` the
store is visible in its core alone, at the next place of the order of the core points. -/
def Obligations.StorePerformed : Prop :=
  ∀ (s : State) (t : Txn) (rel : Option Scope) (l : LaneAcc), t.kind = .store rel → Due s t → t.lanes = [l] →
    let data := toBytes t.size l.data.toNat
    let base := ((s.core t.core).share t.wave).spad + offsetOf l.addr
    (windowOf l.addr = some .scratch → t.core < 192 → (s.core t.core).spad.wf = true →
      ∃ u, exec (.storeDiePoint t.id false) s = .next u ∧ readBytes (u.core t.core).spad base t.size = data ∧
        (∀ a, a < base ∨ base + t.size ≤ a → memRead (u.core t.core).spad a = memRead (s.core t.core).spad a) ∧
        (∀ k, k ≠ t.core → u.core k = s.core k) ∧ u.hbm = s.hbm ∧ u.cdata = s.cdata ∧ u.writes = s.writes ∧ u.slices = s.slices ∧
        u.txns = s.txns.filter fun x => x.id != t.id) ∧
    (windowOf l.addr = some .global → s.landing? t.ctx l.off = none → (s.hit? (viaCore t.core) (s.txnAsid t) l.off).isSome = true →
      s.writes = [] → l.off / 128 = (l.off + t.size - 1) / 128 → t.core < 192 →
      ∃ u, exec (.storeDiePoint t.id false) s = .next u ∧ u.viewBytes (coreDie t.core) (s.txnAsid t) l.off t.size = data ∧
        (∀ die asid va, ¬ (die = coreDie t.core ∧ s.tagOf asid va = s.tagOf (s.txnAsid t) l.off ∧ l.off ≤ va ∧ va < l.off + t.size) →
          u.viewByte die asid va = s.viewByte die asid va) ∧
        u.hbm = s.hbm ∧ u.cores = s.cores ∧ u.slices = s.slices) ∧
    (windowOf l.addr = some .global → s.landing? t.ctx l.off = none →
      exec (.storeDiePoint t.id true) s = .next { s with
        nextId := s.nextId + 1
        txns := s.txns.map fun u => if u.id == t.id then { u with atCore := u.atCore.or (some s.nextId) } else u })

/-- WRITE_APPLY_AT_DIE (R269–R271) of the only write on its way: the die shows its bytes from then on; at its home it takes its place in the
home order; once every die has applied it, its bytes stand in the line and no write is left. The place of a write in the home order is the
model's reading (log 9). -/
def Obligations.WriteApplied : Prop :=
  ∀ (s : State) (w : DieWrite) (die : Fin 5), s.writes = [w] → s.mayApply w die = true →
    (∀ va, w.va ≤ va → va < w.va + w.bytes.length → s.tagOf w.asid va = w.asid) → s.cdata.wf = true →
    ∃ u, exec (.writeApplyAtDie w.id die) s = .next u ∧ u.viewBytes die w.asid w.va w.bytes.length = w.bytes ∧
      u.writes = (if (w.applied ||| (1#5 <<< die.val)) &&& s.diesUp = s.diesUp then []
        else [{ w with applied := w.applied ||| (1#5 <<< die.val), home := w.home.or (some s.nextId) }]) ∧
      u.hbm = s.hbm ∧ u.slices = s.slices ∧ u.cores = s.cores

/-- The new word of an atomic (R158): wrapping addition, the smaller or the larger by sign, bitwise, the new value if the old one equals
the compare value, or the operand; FP32 addition rounds to nearest and FP32 minimum and maximum follow FMIN and FMAX (`f`). -/
def atomicResult (op : AtomOp) (ty : AtomTy) (f : Word → Word → Word) (old b cmp : Word) : Word :=
  match op, ty with
  | .add, .f32 | .min, .f32 | .max, .f32 => f old b
  | .add, _ => BitVec.ofInt 32 (old.toInt + b.toInt)
  | .min, .s32 => BitVec.ofInt 32 (min old.toInt b.toInt)
  | .min, .u32 => BitVec.ofNat 32 (min old.toNat b.toNat)
  | .max, .s32 => BitVec.ofInt 32 (max old.toInt b.toInt)
  | .max, .u32 => BitVec.ofNat 32 (max old.toNat b.toNat)
  | .and, _ => old &&& b
  | .or, _ => old ||| b
  | .xor, _ => old ^^^ b
  | .cas, _ => if old = cmp then b else old
  | .xchg, _ => b

/-- REGISTER_FILL of an atomic of one lane in the scratchpad (R158): the word takes the new value, a destination the old one; no other byte
changes. AMAXX exchanges (R162). -/
def Obligations.AtomicPerformed : Prop :=
  ∀ (s : State) (t : Txn) (l : LaneAcc) (p : Part), Due s t → t.lanes = [l] → t.parts = [p] → p.sid = l.sid → t.size = 4 →
    windowOf l.addr = some .scratch → t.core < 192 → (s.core t.core).spad.wf = true →
    let base := ((s.core t.core).share t.wave).spad + offsetOf l.addr
    let old : Word := BitVec.ofNat 32 (readLE (s.core t.core).spad base 4)
    ∀ new : Word,
      (∃ op ty use ord sc rd, t.kind = .atomic op ty use ord sc rd ∧
        new = atomicResult op ty (fun x y => atomNew op ty x y) old (l.data.setWidth 32) l.cmp) ∨
      (t.kind = .amaxx ∧ new = l.data.setWidth 32) →
    ∃ u, exec (.registerFill t.id) s = .next u ∧ readLE (u.core t.core).spad base 4 = new.toNat ∧
      (∀ a, a < base ∨ base + 4 ≤ a → memRead (u.core t.core).spad a = memRead (s.core t.core).spad a) ∧
      (∀ k, k ≠ t.core → u.core k = s.core k) ∧ u.hbm = s.hbm ∧ u.cdata = s.cdata ∧
      (t.scalar = false → p.mask.getLsbD l.lane.val = true → ∀ r, p.dst = [r] → ∀ m, s.slice? p.sid = some m →
        ∃ x, u.slice? p.sid = some x ∧ x.isFull r = true ∧ (∀ n, r = .v n → (x.v.get n).val.get l.lane = old)) ∧
      (∀ b, b ≠ p.sid → u.slice? b = s.slice? b)

/-- REGISTER_FILL of a BARR of one slice (R189, R278): the arrival counts, its register takes the phase it arrived in; the arrival that
makes ARR reach EXP completes the phase: ARR := 0 and PHASE flips, and a budgeted one is numbered as a flip of its wave on its core. Of a
BART (R191): 1 if the phase named is over, else 0. -/
def Obligations.BarrierPerformed : Prop :=
  ∀ (s : State) (t : Txn) (l : LaneAcc) (p : Part) (m : Slice) (n : Fin 64), Due s t → t.lanes = [l] → t.parts = [p] → p.sid = l.sid →
    p.dst = [.s n] → s.slice? p.sid = some m → t.core < 192 → (s.core t.core).spad.wf = true →
    let a := ((s.core t.core).share t.wave).spad + offsetOf l.addr
    let w := s.barWord t.core a
    (∀ budg, t.kind = .barr budg → ∃ u x, exec (.registerFill t.id) s = .next u ∧ u.slice? p.sid = some x ∧
      x.s = m.s.set n ⟨if barPhase w then 1#32 else 0#32, true, false⟩ ∧
      u.barWord t.core a = (if barExp w ≤ barArr w + 1 then barMake w (!barPhase w) 0 (barExp w)
        else barMake w (barPhase w) (barArr w + 1) (barExp w)) ∧ scratchKept s u [(t.core, a)] ∧
      (u.core t.core).flipTimes t.wave = (s.core t.core).flipTimes t.wave ++
        (if budg = true ∧ barExp w ≤ barArr w + 1 then [u.tsc] else [])) ∧
    ∀ ph, t.kind = .bart ph → ∃ u x, exec (.registerFill t.id) s = .next u ∧ u.slice? p.sid = some x ∧
      x.s = m.s.set n ⟨if barPhase w = ph then 0#32 else 1#32, true, false⟩ ∧ u.cores = s.cores ∧ u.hbm = s.hbm

/-! ## Translation, late faults and path ends -/

/-- PAGE_WALK (R261, R264, R171, R176): the access that waits for its page takes the leaf the walk ends in, or its slice becomes the
page's first faulter, with the fault's group and case; a malformed entry is logged. LATE_FAULT_REPORT marks a slice whose gang may issue, or
that is stopped or has no slot, and is taken at once by one whose gang issues nothing. TRAP_ENTRY enters the trap of a slice whose accesses are
all translated (log 23, 50); PATH_END_POP restores, in each member whose path ends and that is not held by the debugger, the entry on top of
the stack, and at once the next while the mask restored is 0 (log 27). -/
def Obligations.TranslationSteps : Prop :=
  (∀ (s : State) (asid : BitVec 16) (va : DWord) (t : Txn) (l : LaneAcc), s.pageHeld asid (offsetOf va) = false →
    s.walkLane asid (offsetOf va) = some (t, l) →
    let fault (u : State) (g : BitVec 5) (k : BitVec 8) : State := { u with
      firstFaults := u.firstFaults ++ [⟨s.txnAsid t, l.off / 65536, l.sid, none, g, k⟩] }
    (∀ e, s.walk (s.txnAsid t) l.off = .leaf e → e.grants t.kind.acc = true →
      (∀ x ∈ s.tlb, x.covers (s.txnAsid t) l.off = true → x.leaf.size = e.size) → ∃ u, exec (.pageWalk asid va) s = .next u ∧
      u.txnGranted t l.off = true ∧ u.hbm = s.hbm ∧ u.cdata = s.cdata ∧ u.slices = s.slices ∧ u.txns = s.txns) ∧
    ((s.slice? l.sid).isSome = true → t.discarded l.sid = false →
      (∀ g k, (s.walk (s.txnAsid t) l.off = .fault g k ∨
          ∃ e, s.walk (s.txnAsid t) l.off = .leaf e ∧ e.grants t.kind.acc = false ∧ g = 5#5 ∧ k = 5#8) →
        exec (.pageWalk asid va) s = .next (fault s g k)) ∧
      ∀ pa, s.walk (s.txnAsid t) l.off = .malformed pa →
        exec (.pageWalk asid va) s = .next (fault (s.logMalformed t.ctx pa) 6#5 1#8))) ∧
  (∀ (s : State) (t : Txn) (p : Part) (m : Slice), s.txn? t.id = some t →
    (t.parts.filter fun p => t.lanes.any fun l => l.sid == p.sid && s.laneFaulted t l) = [p] → s.slice? p.sid = some m →
    m.pend = none → m.late = false →
    ((m.place ≠ .resident ∨ m.stopped = true ∨ s.gangOf p.sid = none ∨ ∃ g, s.gangOf p.sid = some g ∧ s.mayIssue g = true) →
      exec (.lateFaultReport t.id) s = .next (s.modSlice p.sid fun x => { x with late := true })) ∧
    ∀ g, m.place = .resident → m.stopped = false → s.gangOf p.sid = some g → s.mayIssue g = false →
      exec (.lateFaultReport t.id) s = .next (s.raiseTrap p.sid (lateReport m))) ∧
  (∀ (s : State) (m : Slice) (r : TrapRec), s.sliceAt m.core m.slot = some m → s.slice? m.sid = some m → m.pend = some r → r.late = false →
    r.group ≠ 0xE#5 → modeSup m.mode = false → s.resolved m.sid = true → s.faultedTxns m.sid = [] → s.vectorOf m ≠ 0#64 →
    ∃ u, exec (.trapEntry m.core m.slot) s = .next u ∧ u.slice? m.sid = some (m.enter r false (s.saveArea m) (s.vectorOf m))) ∧
  ∀ (s : State) (core slot : Nat) (m : Slice) (g : Gang), s.sliceAt core slot = some m → s.gangOf m.sid = some g → g.wait = .ready →
    g.members.Nodup →
    let pops (x : Slice) : Bool := x.pathEnds && (!x.stopped || x.stepping)
    (∀ x ∈ s.membersOf g, pops x = true → still s x) →
    ∃ u, exec (.pathEndPop core slot) s = .next u ∧
      (∀ x ∈ s.membersOf g, u.slice? x.sid = some (if pops x then unwound 17 x else x)) ∧
      (∀ b, b ∉ (s.membersOf g).map (·.sid) → u.slice? b = s.slice? b) ∧ u.beyond = s.beyond ∧ u.gangs = s.gangs

/-! ## Gangs, presences and waves -/

/-- No key is in use, so that memory holds what was written, and nothing is on its way: no line stands and no write is in flight. -/
structure Settled (s : State) : Prop where
  plain : s.sealed = [] ∧ ∀ c, (s.ctx c).key = 0
  lines : s.lines = []
  writes : s.writes = []
  wf : s.hbm.wf = true

/-- The places of the slices. -/
def places (l : List Slice) : List (Nat × Place × Nat) := l.map fun x => (x.sid, x.place, x.slot)

/-- The units of a context's arena stand apart in memory, each of 4 KiB at `pa`, and whatever they hold, their pages are mapped for reading and
writing: no table of the context's tree stands in them. -/
structure Placed (s : State) (c : Fin 17) (units : List Nat) (pa : Nat → Nat) : Prop where
  apart : ∀ m ∈ units, ∀ n ∈ units, m ≠ n → pa m + 4096 ≤ pa n ∨ pa n + 4096 ≤ pa m
  walks : ∀ h : Mem, (∀ a, (∀ n ∈ units, a < pa n ∨ pa n + 4096 ≤ a) → memRead h a = memRead s.hbm a) →
    ∀ n ∈ units, ∀ k, k = 0 ∨ k = waitsOff → ∃ e, ({ s with hbm := h } : State).walk (s.asidOf c) (s.arenaVa c (unitOff n) + k) = .leaf e ∧
      e.w = true ∧ e.frame + (s.arenaVa c (unitOff n) + k) % 2 ^ pageShift e.size = pa n + k

/-- The steps that move gangs and presences (R42, R45, R304–R306, R311, R326). REGANG_TIMEOUT forms one gang for each octet of the slices
that have arrived. GANG_SWAP_OUT takes the gang that has been parked longest from its octet, its slices swapped out, and writes each slice's image
to a unit of the arena of its own: the registers and the control state, the open REGANG instance it is in, and its armed waits.
GANG_RESTORE brings one back, ready — but waiting on where its waiters at a barrier are not released — each slice at its slot modulo 8 of the octet
it returns to and with what its image holds by then. WAVE_PREEMPTION
saves the victim's presence, its slices saved; PRESENCE_RESTORE brings its slices and its shares back. STAGING_COPY writes
one segment into the wave's scratchpad share. Which units an image takes and how it is laid out is the model's choice (log 15). -/
def Obligations.GangSteps : Prop :=
  (∀ (s : State) (r : RegangInst), s.regangs.find? (fun x => x.id == r.id && x.timed) = some r →
    (∀ a ∈ r.arrived, ∃ x ∈ s.slices, x.sid = a ∧ x.place = .resident) →
    let stand := (r.arrived.filterMap s.slice?).filter fun x => x.place == .resident
    ∃ t, exec (.regangTimeout r.id) s = .next t ∧ (∀ x ∈ t.regangs, x.id ≠ r.id) ∧ t.slices = s.slices ∧
      ∀ x ∈ stand, ∃ h ∈ t.gangs, h.core = x.core ∧ h.octet = x.oct ∧ h.wait = .ready ∧
        h.members = (bySlot (stand.filter fun y => y.core == x.core && y.oct == x.oct)).map (·.sid)) ∧
  (∀ (s : State) (core octet : Nat) (g : Gang), g ∈ s.gangs → g.core = core → g.octet = octet → s.maySwap g = true →
    (∀ x ∈ s.gangs, x.core = core → x.octet = octet → s.maySwap x = true → x = g ∨ g.since < x.since) →
    ∃ t p, exec (.gangSwapOut core octet) s = .next t ∧ t.gangs = s.gangs.filter (fun x => x.gid != g.gid) ∧ t.parks = s.parks ++ [p] ∧
      p.gang = g ∧ p.image.map (·.sid) = (s.membersOf g).map (·.sid) ∧
      t.slices = s.slices.map (fun x => if g.members.contains x.sid then { x with place := .swapped } else x) ∧ t.cores = s.cores ∧
      ∀ pa, Settled s → Placed s p.ctx (p.image.map (·.unit)) pa →
        (∀ x ∈ s.membersOf g, x.stack.length ≤ 12 ∧ x.sup.length ≤ 4) →
        (∀ i ∈ p.image, ∀ x, s.slice? i.sid = some x →
          let bs := x.imageBytes ++ s.regangBytes x.sid
          readBytes t.hbm (pa i.unit) bs.length = bs ∧ readBytes t.hbm (pa i.unit + waitsOff) 1024 = s.waitsBytes x.sid) ∧
        ∀ a, (∀ i ∈ p.image, a < pa i.unit ∨ pa i.unit + 4096 ≤ a) → memRead t.hbm a = memRead s.hbm a) ∧
  (∀ (s : State) (core oct entry : Nat) (p : Park), s.nextReturn core = some (.gang p oct entry) →
    ∃ t, exec (.gangRestore core) s = .next t ∧
      places t.slices = s.slices.map (fun x =>
        if p.gang.members.contains x.sid then (x.sid, .resident, 8 * oct + x.slot % 8) else (x.sid, x.place, x.slot)) ∧
      (∃ h ∈ t.gangs, h.members = p.gang.members ∧ h.octet = oct ∧ h.wait = match p.gang.wait with
        | .barw pc ws => if ws = [] then .ready else .barw pc ws
        | _ => .ready) ∧
      (∀ q ∈ t.parks, q.gang.gid ≠ p.gang.gid) ∧ t.cores = s.cores ∧
      (∀ b, b ∉ p.gang.members → b ∉ p.image.map (·.sid) → t.slice? b = s.slice? b) ∧
      (Settled s → t.hbm = s.hbm ∧ ((p.image.map (·.sid)).Nodup → ∀ i ∈ p.image, ∀ x e, s.slice? i.sid = some x →
        p.gang.members.contains i.sid = true → s.walk (s.asidOf p.ctx) (s.arenaVa p.ctx (unitOff i.unit)) = .leaf e → e.r = true →
        t.slice? i.sid = some { x.ofImage (readBytes s.hbm
          (e.frame + s.arenaVa p.ctx (unitOff i.unit) % 2 ^ pageShift e.size) 4096) with
            place := .resident, slot := 8 * oct + x.slot % 8 }))) ∧
  (∀ (s : State) (dom : Fin 4) (w v : Wave) (b : Block) (k : Nat) (e : Entry), s.wave? w.num = some w → w.lowBlock dom.val = some b →
    s.isIn w.ctx dom.val = true → s.online.getLsbD dom.val = true → (∀ j ∈ coresOf dom.val, s.canPlace j w = false) →
    (coresOf dom.val).find? (fun j => s.wavePasses j w) = some k → s.victim k = some (v, e) → s.saveReady k v.num = true →
    (s.slices.map (·.sid)).Nodup →
    ∃ t, exec (.wavePreemption dom w.num) s = .next t ∧ (∃ p ∈ t.presences, p.wave = v.num ∧ p.core = k) ∧
      (t.node (waveLeaf k)).preempts = (s.node (waveLeaf k)).preempts + 1#48 ∧
      ∀ x ∈ s.presenceSlices k v.num, ∃ y, t.slice? x.sid = some y ∧ y.place = .saved) ∧
  (∀ (s : State) (core entry : Nat) (p : Presence) (h : Share) (m : List (Nat × Nat)), s.nextReturn core = some (.presence p h m entry) →
    let v := s.readPresence p
    ∃ t, exec (.presenceRestore core) s = .next t ∧ (∀ q ∈ t.presences, ¬ (q.core = p.core ∧ q.wave = p.wave)) ∧
      places t.slices = s.slices.map (fun x => if x.core == p.core && x.wave == p.wave && x.place == .saved then
        (x.sid, .resident, 8 * octMap m x.oct + x.slot % 8) else (x.sid, x.place, x.slot)) ∧
      (core < 192 → (s.core core).spad.wf = true → v.1.spad.wf = true →
        (∀ a, a < h.spadLen → memRead (t.core core).spad (h.spad + a) = memRead v.1.spad a) ∧
        ∀ a, a < h.spad ∨ h.spad + h.spadLen ≤ a → memRead (t.core core).spad a = memRead (s.core core).spad a)) ∧
  ∀ (s t : State) (core n src dst : Nat) (e : Entry) (w : Word) (bs : List Byte), (s.core core).retired = false → core < 192 →
    s.fab.copying = false → s.stagingEntry core = some (e, w, n) → (stagingPieces (s.waveRecord w))[n]? = some (src, dst) →
    s.rangeHeld (coreDie core) (s.asidOf (s.ctxOfWave w)) src 4096 .r = false →
    s.readErr (coreDie core) (s.ctxOfWave w) src 4096 = .ok (bs, t) → (t.core core).spad.wf = true →
    ∃ u, exec (.stagingCopy core) s = .next u ∧
      readBytes (u.core core).spad (((t.core core).share w).spad + dst) bs.length = bs ∧ u.slices = t.slices ∧ u.hbm = t.hbm

/-- BLOCK_PLACE (R40, R44, R276): the first wave with a block that some core of the domain takes. Its slices stand in the core's lowest free
octet, in one gang that is ready: all lanes active, s0–s15 the arguments, every other register 0 and full, at the wave's entry. In which octet they stand and which
block is next are the model's choice (log 16, 42). STEAL_REQUEST (R277) hands the thief the higher half of the blocks of the domain that has most, and it
lists the wave from then on (R276). PREEMPTION_STOP (R300, R310) stops the engine for the leaf whose head has passed the test, and it takes the head
that stands there now. -/
def Obligations.PlacementSteps : Prop :=
  (∀ (s : State) (dom : Fin 4) (k : Nat) (w : Wave) (b : Block),
    (s.listed dom.val).findSome? (fun p => ((coresOf dom.val).find? fun k => s.canPlace k p.1).map fun k => (k, p)) = some (k, w, b) →
    let oct := (s.freeOct k).getD 0
    let n := min 8 (w.n - 8 * b.j)
    ∃ t new, exec (.blockPlace dom) s = .next t ∧ t.slices = s.slices ++ new ∧ new.length = n ∧
      (∀ i x, new[i]? = some x → x.sid = s.nextId + i ∧ x.wave = w.num ∧ x.idx = BitVec.ofNat 32 (8 * b.j + i) ∧ x.core = k ∧
        x.slot = 8 * oct + i ∧ x.place = .resident ∧ x.pc = w.entry ∧ x.mode = w.mode ∧ x.amask = 15#4 ∧ x.stack = [] ∧ x.sup = [] ∧
        x.rgnpc = w.entry ∧ x.rgncnt = 0#32 ∧ x.fstat = 0#32 ∧ x.crews = 0#32 ∧
        (∀ j : Fin 64, x.s.get j = ⟨if h : j.val < 16 then w.args.get ⟨j.val, h⟩ else 0#32, true, false⟩) ∧
        (∀ j : Fin 96, x.v.get j = ⟨Lanes.all 0#32, true⟩) ∧ ∀ j : Fin 8, x.p.get j = 0#4) ∧
      (∃ g ∈ t.gangs, g.core = k ∧ g.octet = oct ∧ g.members = (List.range n).map (s.nextId + ·) ∧ g.wait = .ready) ∧
      ∀ x ∈ t.waves, x.num = w.num → ∀ y ∈ x.blocks, y.j ≠ b.j) ∧
  (∀ (s : State) (dom : Fin 4) (w : Wave), s.wave? w.num = some w → w.dies.getLsbD dom.val = true → s.isIn w.ctx dom.val = true →
    w.owned dom.val = [] → (∃ k ∈ coresOf dom.val, s.canPlace k w = true) →
    let bs := w.owned (w.richest dom.val)
    ∃ t, exec (.stealRequest dom w.num) s = .next t ∧
      (t.wave? w.num).map (·.blocks) = some (w.blocks.map fun b =>
        if bs.contains b && decide ((bs.filter fun x => b.j < x.j).length < (bs.length + 1) / 2) then { b with dom := dom } else b) ∧
      (∀ d e, launchEntry w.num (s.launches.get d) = some e → (launchEntry w.num (t.launches.get dom)).isSome = true) ∧
      ({ t with waves := s.waves, launches := s.launches } : State) = s) ∧
  ∀ (s : State) (node g : BitVec 16) (v : Serving) (e : Entry), leafEngine node = some g → s.serving? g = some v →
    s.servedEntry v = some e → v.stop = some node →
    ∃ t, exec (.preemptionStop node) s = .next t ∧
      t.serving? g = (s.entries node).head?.map (fun h => ⟨g, node, h.id, none⟩) ∧ (∀ h, h ≠ g → t.serving? h = s.serving? h) ∧
      t.nodes = s.nodes ∧ t.slices = s.slices ∧ t.cores = s.cores ∧ t.hbm = s.hbm

/-! ## Engines -/

/-- The engines (R194, R235, R238, R239, R241, R243, R299). COPY_SEGMENT does one segment of CPY, CPYS, CPYAM or CBDC, or the whole of
SHLD: within the scratchpad every byte, and to or from the global window a segment that lies in one cached line there; CPYAM folds the
largest magnitude into AMA. A descriptor with a bad field ends its command with ERR 0x01 and moves nothing. GATHER_BLOCK takes the index list
when it checks the command (the model's reading, log 53), and in the same step moves the rows that the first 64 indices name, in ascending order.
COPY_COMPLETE fills the command's token with its status word, with the check mark the command asks for, and then arrives at its barrier word;
a COPY task ends with its status word. -/
def Obligations.EngineSteps : Prop :=
  (∀ (s : State) (cluster : Fin 24) (e : Entry) (c : Cmd), s.boardingDue cluster.val = false → Serves s (engineLeaf cluster.val) e →
    s.entryCmd e = some c → Goes s c →
    let core := s.core c.core
    let base := shareOf s c
    let die := coreDie c.core
    let asid := s.asidOf c.ctx
    (c.kind = .cpy ∨ c.kind = .cpys ∨ c.kind = .cpyam →
      (∀ p ∈ pieces c, windowOf p.1 = some .scratch ∧ windowOf p.2.1 = some .scratch) →
      let m := afterSegment core.spad base (pieces c)
      (c.kind ≠ .cpyam → ∃ t, exec (.copySegment cluster) s = .next t ∧ Moves s t c m) ∧
      (c.kind = .cpyam → windowOf (dAux c.d) = some .scratch →
        let a := base + offsetOf (dAux c.d)
        let x := largest (ctlElt (dCtl c.d)) (sources core.spad base (pieces c)).flatten
        ∃ t, exec (.copySegment cluster) s = .next t ∧ Moves s t c (writeBytes m a (toBytes 4 (max x (readLE m a 4)))))) ∧
    (c.kind = .cbdc → ctlFmt (dCtl c.d) ≠ 3 →
      let z := fmtWidth (cbdcFmt c)
      let i := 4096 / z * c.unit
      let n := min (4096 / z) (dLen c.d - i)
      let idx := dSrc c.d + BitVec.ofNat 64 (2 * i)
      let scl := dAux c.d + BitVec.ofNat 64 (i / 4)
      let dst := dDst c.d + BitVec.ofNat 64 (i * z)
      windowOf idx = some .scratch → windowOf scl = some .scratch → windowOf dst = some .scratch →
      ∃ t, exec (.copySegment cluster) s = .next t ∧ Moves s t c (writeBytes core.spad (base + offsetOf dst)
        (cbdcBytesOf s c (cbdcFmt c) n (readBytes core.spad (base + offsetOf idx) (2 * n))
          (readBytes core.spad (base + offsetOf scl) ((n + 3) / 4))))) ∧
    (∀ tbl, c.kind = .shld tbl → ∃ t, exec (.copySegment cluster) s = .next t ∧
      t.ctx c.ctx = { s.ctx c.ctx with shells := writeBytes (s.ctx c.ctx).shells (1024 * tbl.val) c.desc } ∧
      (∀ k, k ≠ c.ctx → t.ctx k = s.ctx k) ∧ t.cmds = unitDone s c ∧ ({ t with ctxs := s.ctxs, cmds := s.cmds } : State) = s) ∧
    (c.kind = .cpy → s.poison = [] →
      let a := dSrc c.d + BitVec.ofNat 64 (4096 * c.unit)
      let b := dDst c.d + BitVec.ofNat 64 (4096 * c.unit)
      let n := min 4096 (dLen c.d - 4096 * c.unit)
      let near (x : DWord) (acc : Acc) : Prop := offsetOf x / 128 = (offsetOf x + n - 1) / 128 ∧
        s.granted (viaDie die) asid (offsetOf x) acc = true ∧ (s.hit? (viaDie die) asid (offsetOf x)).isSome = true
      (windowOf a = some .global → windowOf b = some .scratch → near a .r →
        ∃ t, exec (.copySegment cluster) s = .next t ∧
          t.core c.core = { core with spad := writeBytes core.spad (base + offsetOf b) (s.viewBytes die asid (offsetOf a) n) } ∧
          (∀ k, k ≠ c.core → t.core k = s.core k) ∧ t.cmds = unitDone s c ∧ t.hbm = s.hbm ∧ t.cdata = s.cdata ∧ t.slices = s.slices) ∧
      (windowOf a = some .scratch → windowOf b = some .global → near b .w → s.writes = [] → s.cdata.wf = true →
        ∃ t, exec (.copySegment cluster) s = .next t ∧
          t.viewBytes die asid (offsetOf b) n = readBytes core.spad (base + offsetOf a) n ∧
          (∀ d tag va, ¬ (d = die ∧ s.tagOf tag va = s.tagOf asid (offsetOf b) ∧ offsetOf b ≤ va ∧ va < offsetOf b + n) →
            t.viewByte d tag va = s.viewByte d tag va) ∧
          t.cmds = unitDone s c ∧ t.hbm = s.hbm ∧ t.cores = s.cores ∧ t.slices = s.slices))) ∧
  (∀ (s : State) (cluster : Fin 24) (e : Entry) (c : Cmd), s.boardingDue cluster.val = false → Serves s (engineLeaf cluster.val) e →
    s.entryCmd e = some c → c.checked = false → c.fieldBad = true →
    exec (.copySegment cluster) s = .next { s with
      cmds := s.cmds.map fun x => if x.id = c.id then { x with checked := true, err := 1#8 } else x }) ∧
  (∀ (s : State) (cluster : Fin 24) (e : Entry) (c : Cmd), Serves s (gatherLeaf cluster.val) e → s.entryCmd e = some c →
    c.kind = .gath ∨ c.kind = .scat → Goes s c →
    (∀ p ∈ blockRows s c, windowOf p.1 = some .scratch ∧ windowOf p.2 = some .scratch) →
    ∃ t, exec (.gatherBlock cluster) s = .next t ∧ Moves s t c ((blockRows s c).foldl (fun m p =>
      writeBytes m (shareOf s c + offsetOf p.2) (readBytes m (shareOf s c + offsetOf p.1) (dRowsz c.d))) (s.core c.core).spad)) ∧
  ∀ (s : State) (c : Cmd), s.cmds.find? (fun x => x.id == c.id) = some c → c.finished = true → s.isSaved c.core c.wave = false →
    (∀ w ∈ s.writes, c.id ∈ w.by_ → w.applied.getLsbD (coreDie c.core).val = true) →
    (∀ t p n, c.task = none → s.txns.find? (fun t => t.id == c.txn && t.kind == .token c.id) = some t → t.parts = [p] → p.dst = [.s n] →
      ∃ u, exec (.copyComplete c.id) s = .next u ∧
        u.slice? p.sid = (s.slice? p.sid).map (fun m => { m with
          s := m.s.set n ⟨0x80#8 ++ c.err ++ BitVec.ofNat 16 (min c.unit 0xFFFF), true, c.chk⟩ }) ∧
        u.cmds = s.cmds.filter (fun x => x.id != c.id) ∧ u.txns = s.txns.filter (fun x => x.id != t.id) ∧
        (p.sid, RegName.s n, c.id) ∈ u.tokens ∧ u.hbm = s.hbm ∧
        (ctlBen (dCtl c.d) = false → ∀ k, (u.core k).spad = (s.core k).spad) ∧
        (c.kind = .cpy → ctlBen (dCtl c.d) = true → s.boffBad c = false → c.core < 192 → (s.core c.core).spad.wf = true →
          let a := ((s.core c.core).share c.wave).spad + ctlBoff (dCtl c.d)
          let w := s.barWord c.core a
          u.barWord c.core a = (if barExp w ≤ barArr w + 1 then barMake w (!barPhase w) 0 (barExp w)
            else barMake w (barPhase w) (barArr w + 1) (barExp w)) ∧ scratchKept s u [(c.core, a)])) ∧
    ∀ id, c.task = some id → ∃ u, exec (.copyComplete c.id) s = .next u ∧
      (u.task? id).map (·.phase) = (s.task? id).map (fun _ => .ending (0x80#8 ++ c.err ++ BitVec.ofNat 16 (min c.unit 0xFFFF))) ∧
      u.slices = s.slices ∧ u.cores = s.cores ∧ u.hbm = s.hbm

/-- TILE_PERFORM (R205–R212, R215): one K row, or one whole instruction, at the head of the octet the array serves. The tiles it
writes hold the elements of `tileValue`, and every other byte of the accumulator is as before; TACCS writes the image of its tile,
TLDB a row of every column slice, TMXS the octet's TSA, TACCR its destinations. Nothing else changes, and the instruction
leaves the queue with its last row. That one step is one K row, or one whole instruction without K rows, is the model's choice (log 31). -/
def Obligations.TilePerformed : Prop :=
  (∀ (s : State) (core o : Nat) (x : TileEntry) (rest : List TileEntry) (n : Nat) (f : Nat → Nat → Nat → Nat),
    AtArray s core o x rest →
    let h := (s.core core).share x.wave
    tileValue (s.core core) h (s.octet core o).tsa x.op x.rows (s.octet core o).resume = some (n, f) →
    ∃ t, exec (.tilePerform core) s = .next t ∧
      (∀ k i j, k < n → i < 16 → j < 32 → (t.core core).tileElem h (x.op.d.toNat + k) i j = f k i j % 2 ^ 32) ∧
      (∀ a, a < 2048 * (h.acct + x.op.d.toNat) ∨ 2048 * (h.acct + x.op.d.toNat + n) ≤ a →
        memRead (t.core core).accm a = memRead (s.core core).accm a) ∧
      (t.core core).spad = (s.core core).spad ∧ (t.core core).bdata = (s.core core).bdata ∧ (t.core core).bside = (s.core core).bside ∧
      elsewhere s t core ∧ t.slices = s.slices ∧ rowDone s t core o x rest) ∧
  (∀ (s : State) (core o : Nat) (x : TileEntry) (rest : List TileEntry) (f : FpFmt ⊕ Nat),
    AtArray s core o x rest → x.op.op = 0x9#4 → imageFmt (modeEtype x.op.mode) = some f →
    let h := (s.core core).share x.wave
    let n := imageWidth f / 8
    let at_ := h.spad + x.op.a.toNat
    ∃ t, exec (.tilePerform core) s = .next t ∧
      (∀ i j, i < 16 → j < 32 → readLE (t.core core).spad (at_ + n * (32 * i + j)) n =
        storedValue x.op f ((s.core core).tileElem h x.op.d.toNat i j) % 256 ^ n) ∧
      (∀ a, a < at_ ∨ at_ + 512 * n ≤ a → memRead (t.core core).spad a = memRead (s.core core).spad a) ∧
      (t.core core).accm = (s.core core).accm ∧ (t.core core).bdata = (s.core core).bdata ∧ (t.core core).bside = (s.core core).bside ∧
      elsewhere s t core ∧ t.slices = s.slices ∧ rowDone s t core o x rest) ∧
  (∀ (s : State) (core o : Nat) (x : TileEntry) (rest : List TileEntry),
    AtArray s core o x rest → x.op.op = 0x0#4 →
    let h := (s.core core).share x.wave
    let row := (s.octet core o).resume
    let at_ := h.rows + tdBrow x.op.b + row
    let src := h.spad + x.op.a.toNat
    at_ < 512 → ∃ t, exec (.tilePerform core) s = .next t ∧
      (tdSide x.op.b = false →
        (∀ j e, j < 32 → e < 96 → memRead (t.core core).bdata (bAddr j at_ e) = memRead (s.core core).spad (src + 3072 * row + 96 * j + e)) ∧
        (∀ a, (∀ j, j < 32 → a < bAddr j at_ 0 ∨ bAddr j at_ 0 + 96 ≤ a) → memRead (t.core core).bdata a = memRead (s.core core).bdata a) ∧
        (t.core core).bside = (s.core core).bside) ∧
      (tdSide x.op.b = true →
        (∀ j e, j < 32 → e < 8 → memRead (t.core core).bside (sideAddr j at_ e) = memRead (s.core core).spad (src + 256 * row + 8 * j + e)) ∧
        (∀ a, (∀ j, j < 32 → a < sideAddr j at_ 0 ∨ sideAddr j at_ 0 + 8 ≤ a) →
          memRead (t.core core).bside a = memRead (s.core core).bside a) ∧ (t.core core).bdata = (s.core core).bdata) ∧
      (t.core core).spad = (s.core core).spad ∧ (t.core core).accm = (s.core core).accm ∧ elsewhere s t core ∧ t.slices = s.slices ∧
      rowDone s t core o x rest) ∧
  (∀ (s : State) (core o : Nat) (x : TileEntry) (rest : List TileEntry), AtArray s core o x rest → x.op.op = 0xB#4 →
    ∃ t, exec (.tilePerform core) s = .next t ∧ (t.octet core o).tsa = x.op.a ∧ (t.core core).accm = (s.core core).accm ∧
      (t.core core).spad = (s.core core).spad ∧ (t.core core).bdata = (s.core core).bdata ∧ (t.core core).bside = (s.core core).bside ∧
      elsewhere s t core ∧ t.slices = s.slices ∧ rowDone s t core o x rest) ∧
  ∀ (s : State) (core o : Nat) (x : TileEntry) (rest : List TileEntry) (id : Nat) (u : Txn), AtArray s core o x rest → x.op.op = 0x7#4 →
    x.txn = some id → s.txns.find? (fun t => t.id == id) = some u → (u.parts.map (·.sid)).Nodup →
    let h := (s.core core).share x.wave
    ∃ t, exec (.tilePerform core) s = .next t ∧
      (∀ p ∈ u.parts, ∀ n, p.dst = [.v n] → t.slice? p.sid = (s.slice? p.sid).map fun m => { m with
        v := m.v.set n ⟨Lanes.ofFn fun i =>
          BitVec.ofNat 32 ((s.core core).tileElem h x.op.a.toNat x.op.b.toNat (4 * (p.slot % 8) + i.val)), true⟩ }) ∧
      (∀ b, b ∉ u.parts.map (·.sid) → t.slice? b = s.slice? b) ∧ t.txns = s.txns.filter (fun y => y.id != id) ∧
      (t.core core).accm = (s.core core).accm ∧ (t.core core).spad = (s.core core).spad ∧
      (t.core core).bdata = (s.core core).bdata ∧ (t.core core).bside = (s.core core).bside ∧ elsewhere s t core ∧ rowDone s t core o x rest

/-! ## The rank tree, tasks and the world switch -/

/-- The rank tree (R288, R291, R299, R303, R308, R309, R327). An entry stands directly behind the last one it does not precede. A refresh
ranks every entry anew and inserts them again, head to tail. A release moves a COPY to the next node of its path, with its fields and
T0, where no node of a lower id releases into it; a LAUNCH becomes a wave, or finishes refused. A finish takes the task away; a COPY without a counter has STAT written. A
bundle's COPY member enters its leaf when the phase starts; a phase whose members are done ends the bundle with the first failure, or
enters its node again. A world switch gives the turn to the next context. -/
def Obligations.TreeSteps : Prop :=
  (∀ (es : List Entry) (e : Entry), ∃ a b, es = a ++ b ∧ insertEntry es e = a ++ e :: b ∧
    (∀ x ∈ b, rankPrecedes e.rank x.rank = true) ∧ ∀ x, a.getLast? = some x → rankPrecedes e.rank x.rank = false) ∧
  (∀ (s : State) (node : BitVec 16), s.nodeKnown node = true → descRefresh (s.node node).desc ≠ 0 →
    ∃ t, exec (.nodeRefresh node) s = .next t ∧
      (t.node node).entries = ((s.node node).entries.map fun e => { e with
        rank := (runProg (s.nodeProg (s.node node)) ⟨e.f, descN (s.node node).desc, descK (s.node node).desc, t.tsc, e.t0⟩).1 }).foldl
          insertEntry [] ∧
      (t.node node).desc = (s.node node).desc ∧ (∀ n, n ≠ node → t.node n = s.node n) ∧ t.tasks = s.tasks ∧ t.slices = s.slices) ∧
  (∀ (s : State) (node : BitVec 16) (e : Entry) (es : List Entry) (k : Task), isInner node = true → s.nodeKnown node = true →
    s.entries node = e :: es → e.kind = .task k.id → s.task? k.id = some k → s.releases k.ctx = true →
    (recKind k.record = 1 → s.isIn k.ctx (engineDomain (recTgt k.record)) = true →
      s.nodeRoom (s.nextNode node (recTgt k.record)) = true → s.nextNode node (recTgt k.record) ≠ node →
      (∀ n ∈ s.nodes, n.node < node → s.goesInto n (s.nextNode node (recTgt k.record)) = false) →
      ∃ t, exec (.nodeRelease node) s = .next t ∧ t.entries node = (e :: es).filter (fun x => x.id != e.id) ∧
        (∃ x ∈ t.entries (s.nextNode node (recTgt k.record)), x.kind = e.kind ∧ x.f = e.f ∧ x.t0 = e.t0) ∧ t.tasks = s.tasks) ∧
    (∀ r body rs, recKind k.record = 0 → s.launchPlan k.ctx k.record = .goes r body rs →
      ∃ t w, exec (.nodeRelease node) s = .next t ∧ t.entries node = (e :: es).filter (fun x => x.id != e.id) ∧
        t.waves = s.waves ++ [w] ∧ w.num = s.nextWave ∧ w.ctx = k.ctx ∧ w.task = k.id ∧ w.n = (r.extractLsb' 128 32).toNat ∧
        w.entry = r.extractLsb' 0 64 ∧ w.trapv = r.extractLsb' 64 64 ∧ w.mode = r.extractLsb' 192 32 &&& ~~~(1#32 <<< 24) ∧
        (∀ i : Fin 16, w.args.get i = r.extractLsb' (384 + 32 * i.val) 32) ∧ w.live = w.n ∧ w.rank = e.rank ∧
        (t.task? k.id).map (fun x => (x.phase, x.wave)) = some (.running, w.num)) ∧
    ∀ st body u, recKind k.record = 0 → s.launchPlan k.ctx k.record = .refused st body u →
      ∃ t, exec (.nodeRelease node) s = .next t ∧ t.entries node = (e :: es).filter (fun x => x.id != e.id) ∧
        (t.task? k.id).map (·.phase) = some (.ending st) ∧ t.waves = s.waves) ∧
  (∀ (s : State) (k : Task) (st : Word), s.task? k.id = some k → s.dueStat k = some st → s.writes = [] →
    s.finishHeld k = false →
    (∃ t, exec (.taskFinish k.id) s = .next t ∧ t.task? k.id = none ∧ (recKind k.record = 0 → t.wave? k.wave = none) ∧
      ∀ b i, k.bundle = some (b, i) → b ≠ k.id → recKind k.record ≠ 0 →
        (t.task? b).map (·.done) = (s.task? b).map fun x => x.done ++ [(i, st)]) ∧
    (k.host = none → k.bundle = none → k.finishAt = some (40, 0#64) → recKind k.record = 1 →
      windowOf (recBody k.record + 40#64) = some .global → s.cdata.wf = true →
      let va := offsetOf (recBody k.record + 40#64)
      s.granted (viaDie 4) (s.asidOf k.ctx) va .w = true → (s.hit? (viaDie 4) (s.asidOf k.ctx) va).isSome = true → va / 128 = (va + 3) / 128 →
      ∃ t, exec (.taskFinish k.id) s = .next t ∧ t.viewBytes 4 (s.asidOf k.ctx) va 4 = toBytes 4 st.toNat)) ∧
  (∀ (s : State) (node : BitVec 16) (e : Entry) (es : List Entry) (k : Task) (r : BitVec 512), isInner node = true →
    s.nodeKnown node = true → s.entries node = e :: es → e.kind = .task k.id → s.task? k.id = some k → recKind k.record = 2 →
    s.releases k.ctx = true → k.body ≠ [] → k.chosen = [r] → recKind r = 1 → recTgt r ≠ node → (s.entries (recTgt r)).length < 64 →
    ∃ t x, exec (.bundlePhaseStart node) s = .next t ∧ x ∈ t.tasks ∧ x.record = r ∧ x.bundle = some (k.id, 0) ∧
      (∃ y ∈ t.entries (recTgt r), y.kind = .task x.id ∧ y.f = recF r) ∧ (t.task? k.id).map (·.phase) = some .running ∧
      ∀ y ∈ t.entries node, y.id ≠ e.id) ∧
  (∀ (s : State) (k : Task), s.task? k.id = some k → recKind k.record = 2 → k.phase = .running → k.done.length = k.chosen.length →
    (∀ st, k.firstFailure = some st →
      ∃ t, exec (.bundlePhaseRetire k.id) s = .next t ∧ (t.task? k.id).map (·.phase) = some (.ending st) ∧ t.nodes = s.nodes) ∧
    (k.firstFailure = none → bunPhases (BitVec.ofNat 1280 (ofBytes k.body)) ≤ k.phases + 1 →
      ∃ t, exec (.bundlePhaseRetire k.id) s = .next t ∧ (t.task? k.id).map (·.phase) = some (.ending 0#32) ∧ t.nodes = s.nodes) ∧
    (k.firstFailure = none → k.phases + 1 < bunPhases (BitVec.ofNat 1280 (ofBytes k.body)) → s.nodeRoom k.entry = true →
      ∃ t, exec (.bundlePhaseRetire k.id) s = .next t ∧ (t.task? k.id).map (fun x => (x.phase, x.phases)) = some (.waiting, k.phases + 1) ∧
        ∃ y ∈ t.entries k.entry, y.kind = .task k.id ∧ y.t0 = k.t0 ∧ y.f = recF k.record)) ∧
  ∀ (s : State) (dom : Fin 4) (c n : Fin 17), s.turnOf dom.val = some c → s.nextTurn dom.val c = some n → n ≠ c →
    (∀ p ∈ s.presencesOn c dom.val, s.saveReady p.1 p.2.num = true) →
    s.unitsFit c ((s.presencesOn c dom.val).map fun p => s.presenceUnits p.1 p.2).sum = true →
    ∃ t, exec (.worldSwitch dom) s = .next t ∧ t.turns = s.turns.set dom n

/-! ## The host -/

/-- Packets at the head of a queue (R314–R317, R319–R321). FLUSH is done at once. A PUSH that is accepted waits for its task, which stands
in its entry node; one that is refused tells the status. DMA moves bytes that lie in one line, either way; bytes brought in complete
their packet once every die has applied them. LOAD of an object puts its bytes in place and merges its region table, or tells the
loader's status (log 19, 43); a counter that wraps meanwhile sends its interrupt. A malformed packet is answered with STATUS 0x04. A capability fault halts the queue at its packet. When a
record is written is the model's reading (log 39). -/
def Obligations.HostPackets : Prop :=
  (∀ s fn q p, Performs s fn q 0x04 p → ∃ t, exec (.flush fn q) s = .next t ∧ Done s s.hostMem s.out t fn q p (plainly 0#8) ∧
    asideHost t = asideHost s ∧ sameContexts s t) ∧
  (∀ s fn q p bs v, Performs s fn q 0x01 p →
    let e : BitVec 16 := (slotArg p 1).setWidth 16
    let r : BitVec 512 := BitVec.ofNat 512 (ofBytes bs)
    s.nodeKnown e = true → (if isInner e then descCtx (s.node e).desc = fn.val else fn = 0) →
    (s.advanceHead fn q).readRecord 4 fn (slotArg p 0) = some (bs, v) → (s.advanceHead fn q).recordPoisoned fn (slotArg p 0) = false →
    v.recordBad r (some e) = none → v.nodeRoom e = true →
    ∃ t id t0, exec (.push fn q) s = .next t ∧ Waits s t fn q p (.task id) ∧
      t.tasks = s.tasks ++ [⟨id, fn, r, t0, e, [], .waiting, some q, 0#32, none, [], [], 0⟩] ∧
      (t.entries e).length = (s.entries e).length + 1 ∧ (∃ x ∈ t.entries e, x.kind = .task id) ∧ t.slices = s.slices) ∧
  (∀ s fn q p st u, Performs s fn q 0x01 p → (s.advanceHead fn q).recordPoisoned fn (slotArg p 0) = false →
    (s.advanceHead fn q).pushTask 4 fn (slotArg p 0) (slotArg p 1).lo (some q) = (st, none, u) →
    ∃ t, exec (.push fn q) s = .next t ∧ Done s s.hostMem u.out t fn q p ⟨1#8, st, 0#32, 0#32⟩ ∧ asideHost t = asideHost u) ∧
  (∀ s fn q p, Performs s fn q 0x03 p →
    let n := ((slotArg p 2).extractLsb' 0 32).toNat
    let host := (slotArg p 0).toNat
    let va := offsetOf (slotArg p 1)
    let asid := s.asidOf fn
    (n = 0 → ∃ t, exec (.dma fn q) s = .next t ∧ Done s s.hostMem s.out t fn q p (plainly 0#8) ∧ asideHost t = asideHost s ∧
      sameContexts s t) ∧
    (0 < n → windowOf (slotArg p 1) ≠ some .global → ∃ t, exec (.dma fn q) s = .next t ∧
      Done s s.hostMem s.out t fn q p ⟨6#8, 16#32, 0#32, 0#32⟩ ∧ asideHost t = asideHost s ∧ sameContexts s t) ∧
    (windowOf (slotArg p 1) = some .global → 0 < n → va / 128 = (va + n - 1) / 128 → (s.hit? (viaDie 4) asid va).isSome = true →
      s.poison = [] →
      ((slotArg p 2).getLsbD 32 = false → s.granted (viaDie 4) asid va .w = true → s.landing? fn va = none → s.writes = [] →
        s.cdata.wf = true →
        ∃ t, exec (.dma fn q) s = .next t ∧ t.viewBytes 4 asid va n = readBytes s.hostMem host n ∧ t.hbm = s.hbm ∧ t.slices = s.slices ∧
          t.cores = s.cores ∧ sameContexts s t ∧ (s.online = 0#4 → Done s s.hostMem s.out t fn q p (plainly 0#8)) ∧
          (s.online ≠ 0#4 → Waits s t fn q p (.writes (t.writes.map (·.id)) (plainly 0#8)) ∧ t.writes.length = 1)) ∧
      ((slotArg p 2).getLsbD 32 = true → s.granted (viaDie 4) asid va .r = true →
        ∃ t, exec (.dma fn q) s = .next t ∧
          Done s (writeBytes s.hostMem host (s.viewBytes 4 asid va n)) s.out t fn q p (plainly 0#8) ∧ asideHost t = asideHost s ∧
          sameContexts s t))) ∧
  (∀ (s : State) (fn : Fin 17) (q : Fin 16) (j : HostJob) (ids : List Nat) (k : Completion),
    (s.queue fn q).jobs = [j] → j.wait = .writes ids k → j.cq = (s.queue fn q).cqtail.toNat →
    (∀ w ∈ s.writes, w.id ∈ ids → w.applied &&& s.diesUp = s.diesUp) →
    let t := s.closeJobs fn q
    t.hostMem = writeLE s.hostMem ((s.queue fn q).cqbase.toNat + 32 * j.cq) 32 (recordBits q (BitVec.ofNat 32 j.idx) j.slot k).toNat ∧
      (t.queue fn q).jobs = []) ∧
  (∀ s fn q p w, Performs s fn q 0x02 p →
    let n := (slotArg p 2).toNat
    let o := readBytes s.hostMem (slotArg p 0).toNat n
    let va := offsetOf (slotArg p 1)
    let area := slotArg p 3
    let asid := s.asidOf fn
    leavesGlobal (slotArg p 1) n = false → (s.advanceHead fn q).putBytes fn va o = (true, w) →
    let v := w.invalidateRange asid va n
    (hdrPortable (objHeader o) = false → v.loadStatus fn o area = (0, 0) →
      ∃ t l, exec (.load fn q) s = .next t ∧ Interrupts l ∧ Done s s.hostMem (w.out ++ l) t fn q p (plainly 0#8) ∧
        (t.ctx fn).regions = mergeRegions (s.ctx fn).regions o ∧ t.slices = s.slices) ∧
    (∀ u, hdrPortable (objHeader o) = true → v.loadStatus fn o area = (0, 0) → leavesGlobal area (hdrCodesz (objHeader o) + 64) = false →
      v.putNative fn o va (offsetOf area) = (true, u) →
      ∃ t l, exec (.load fn q) s = .next t ∧ Interrupts l ∧ Done s s.hostMem (u.out ++ l) t fn q p (plainly 0#8) ∧
        (t.ctx fn).regions = mergeRegions (s.ctx fn).regions o ∧ t.slices = s.slices) ∧
    ∀ k i, k ≠ 0 → v.loadStatus fn o area = (k, i) →
      ∃ t l, exec (.load fn q) s = .next t ∧ Interrupts l ∧ Done s s.hostMem (w.out ++ l) t fn q p ⟨1#8, BitVec.ofNat 32 k, BitVec.ofNat 32 i, 0#32⟩ ∧
        (t.ctx fn).regions = (s.ctx fn).regions) ∧
  (∀ s fn q, s.queueReady fn q = true → slotMalformed (s.headSlot fn q) = true → ∃ t, exec (.malformedPacket fn q) s = .next t ∧
    Done s s.hostMem s.out t fn q (s.headSlot fn q) (plainly 4#8) ∧ asideHost t = asideHost s ∧ sameContexts s t) ∧
  ∀ s fn q k, s.queueReady fn q = true → slotOp (s.headSlot fn q) = 0x03 → slotMalformed (s.headSlot fn q) = false →
    (s.ctx fn).asid ≠ none → s.capFault fn (s.headSlot fn q) = some k →
    ∃ t, exec (.dma fn q) s = .next t ∧ (t.queue fn q).qhead = (s.queue fn q).qhead ∧ (t.queue fn q).halted = true ∧
      (t.queue fn q).cqnext = ((s.queue fn q).cqnext + 1) % (s.queue fn q).csize ∧
      Recorded s s.hostMem s.out t fn q (s.headSlot fn q) ⟨2#8, BitVec.ofNat 32 k, 0#32, 0#32⟩ ∧ asideHost t = asideHost s ∧
      sameContexts s t

/-- Packets that write the tables of the package (R177, R230, R259, R260, R262, R281, R286, R292, R320, R325). `u` is the state after
the object that ARG0 names has been read; a counter that wraps while memory is accessed sends its interrupt. The frame list of POOL stands in host memory (the model's reading, log 46). -/
def Obligations.HostTables : Prop :=
  (∀ s fn q p bs u, Performs s fn q 0x05 p → (s.advanceHead fn q).readField fn (slotArg p 0) 64 = .ok (bs, u) →
    let node : BitVec 16 := (slotArg p 1).setWidth 16
    let d : BitVec 512 := BitVec.ofNat 512 (ofBytes bs)
    (u.descRefused node d = false → ∃ t, exec (.node fn q) s = .next t ∧ Done s s.hostMem u.out t fn q p (plainly 0#8) ∧
      (t.node node).desc = (if isInner node then d else d &&& ~~~0x1F#512) ∧
      (t.node node).entries = (u.node node).entries ∧ (∀ n, n ≠ node → t.node n = u.node n) ∧ sameContexts u t) ∧
    (u.descRefused node d = true → ∃ t, exec (.node fn q) s = .next t ∧
      Done s s.hostMem u.out t fn q p (plainly 1#8) ∧ asideHost t = asideHost u)) ∧
  (∀ s fn q p bs u, Performs s fn q 0x06 p → (s.advanceHead fn q).readField fn (slotArg p 0) 32 = .ok (bs, u) →
    let x : BitVec 256 := BitVec.ofNat 256 (ofBytes bs)
    let c : Fin 17 := Fin.ofNat 17 ((slotArg p 1).extractLsb' 8 5).toNat
    let i : Fin 64 := ((slotArg p 1).extractLsb' 0 6).toFin
    (progOk x = true → ∃ t, exec (.prog fn q) s = .next t ∧ Done s s.hostMem u.out t fn q p (plainly 0#8) ∧
      (t.ctx c).prog i = x ∧ (∀ j, j ≠ i → (t.ctx c).prog j = (s.ctx c).prog j) ∧ asideHost t = asideHost u) ∧
    (progOk x = false → ∃ t, exec (.prog fn q) s = .next t ∧ Done s s.hostMem u.out t fn q p (plainly 1#8) ∧ sameContexts u t ∧
      asideHost t = asideHost u)) ∧
  (∀ s fn q p bs u, Performs s fn q 0x07 p → (s.advanceHead fn q).readField fn (slotArg p 0) 16 = .ok (bs, u) →
    let h : BitVec 128 := BitVec.ofNat 128 (ofBytes bs)
    (homeRefused u.online h = false → ∃ t l, exec (.home fn q) s = .next t ∧ Interrupts l ∧ Done s s.hostMem (u.out ++ l) t fn q p (plainly 0#8) ∧
      (t.ctx fn).homes = (s.ctx fn).homes.set ((slotArg p 1).extractLsb' 0 6).toFin h ∧ t.slices = s.slices ∧ t.cores = s.cores) ∧
    (homeRefused u.online h = true → ∃ t, exec (.home fn q) s = .next t ∧ Done s s.hostMem u.out t fn q p (plainly 1#8) ∧
      sameContexts u t ∧ asideHost t = asideHost u)) ∧
  (∀ s fn q p, Performs s fn q 0x08 p →
    (∃ t st bits, exec (.pte fn q) s = .next t ∧ Done s s.hostMem s.out t fn q p ⟨st, bits, 0#32, 0#32⟩ ∧
      (bits = 0#32 → st = 0#8) ∧ (bits ≠ 0#32 → st = 1#8) ∧ bits.toNat < 256 ∧ t.slices = s.slices ∧ t.tlb = s.tlb) ∧
    ((slotArg p 2).extractLsb' 0 2 = 0#2 → s.sealed = [] → s.hbm.wf = true →
      (∀ k, k < 8 → s.root fn k / 2 ^ 36 = k ∧ s.root fn k % 2 ^ 20 = 0) → ∃ t, exec (.pte fn q) s = .next t ∧
        Done s s.hostMem s.out t fn q p (plainly 0#8) ∧
        ∀ k, k < 8 → readLE t.hbm (s.root fn k + 8 * (offsetOf (slotArg p 0) / 2 ^ 39 % 2 ^ 17)) 8 =
          if (slotArg p 2).getLsbD 2 then readLE s.hostMem ((slotArg p 3).toNat + 8 * k) 8 else (slotArg p 1).toNat)) ∧
  (∀ s fn q p, Performs s fn q 0x09 p →
    let big := (slotArg p 2).getLsbD 0
    let size := if big then 2 ^ 21 else 65536
    let dom : Fin 4 := ((slotArg p 2).extractLsb' 2 2).toFin
    let frames := ((List.range (slotArg p 1).toNat).map fun i => readLE s.hostMem ((slotArg p 0).toNat + 8 * i) 8).filter
      fun a => !s.trust.frameRetired a size
    ∃ t, exec (.pool fn q) s = .next t ∧ Done s s.hostMem s.out t fn q p (plainly 0#8) ∧
      (t.ctx fn).pool big dom = (s.ctx fn).pool big dom ++ frames ∧
      (∀ f ∈ frames, ∀ a, f ≤ a → a < f + size → memRead t.hbm a = 0#8) ∧
      (∀ a, (∀ f ∈ frames, a < f ∨ f + size ≤ a) → memRead t.hbm a = memRead s.hbm a) ∧ t.slices = s.slices ∧ t.cores = s.cores) ∧
  (∀ s fn q p bs u, Performs s fn q 0x0A p → (s.advanceHead fn q).readField fn (slotArg p 0) 2048 = .ok (bs, u) →
    (imageRefused (ruleImage bs) = none → ∃ t, exec (.rules fn q) s = .next t ∧
      Done s s.hostMem u.out t fn q p (plainly 0#8) ∧
      (∀ i : Fin 64, (t.ctx fn).rules.get i = fieldOf bs (32 * i.val) 32 256) ∧ asideHost t = asideHost u) ∧
    ∀ k, imageRefused (ruleImage bs) = some k → ∃ t, exec (.rules fn q) s = .next t ∧
      Done s s.hostMem u.out t fn q p ⟨1#8, BitVec.ofNat 32 k, 0#32, 0#32⟩ ∧ sameContexts u t ∧ asideHost t = asideHost u) ∧
  (∀ s fn q p, Performs s fn q 0x0B p →
    let r : BitVec 2048 := BitVec.ofNat 2048 (readLE s.hostMem (slotArg p 0).toNat 256)
    let c : Fin 17 := Fin.ofNat 17 ((slotArg p 1).extractLsb' 0 5).toNat
    let refused := (s.advanceHead fn q).recordRefused c (slotArg p 0) r
    let begun := (s.advanceHead fn q).withRecord c r
    (refused = true → ∃ t, exec (.ctx fn q) s = .next t ∧ Done s s.hostMem s.out t fn q p (plainly 1#8) ∧ sameContexts s t ∧
      asideHost t = asideHost s) ∧
    (refused = false → r.extractLsb' 64 64 = 0#64 → ∃ t l, exec (.ctx fn q) s = .next t ∧ Interrupts l ∧
      Done s s.hostMem (s.out ++ l) t fn q p (plainly 0#8) ∧ recordHolds (t.ctx c) r ∧ ∀ i, (t.ctx c).rules.get i = 0#256) ∧
    (∀ v u, refused = false → r.extractLsb' 64 64 ≠ 0#64 → begun.recordRules c r = .ok (v, u) → ∃ t l, exec (.ctx fn q) s = .next t ∧
      Interrupts l ∧ Done s s.hostMem (s.out ++ l) t fn q p (plainly 0#8) ∧ recordHolds (t.ctx c) r ∧ (t.ctx c).rules = v) ∧
    ∀ k, refused = false → r.extractLsb' 64 64 ≠ 0#64 → begun.recordRules c r = .error k → ∃ t, exec (.ctx fn q) s = .next t ∧
      Done s s.hostMem s.out t fn q p ⟨1#8, BitVec.ofNat 32 k, 0#32, 0#32⟩ ∧ sameContexts s t ∧ asideHost t = asideHost s) ∧
  (∀ s fn q p, Performs s fn q 0x0C p → ∃ t n hm l, exec (.offline fn q) s = .next t ∧
    Interrupts l ∧ Done s hm (s.out ++ l) t fn q p ⟨0#8, 0#32, BitVec.ofNat 32 n, 0#32⟩ ∧
    (∀ a, a < (slotArg p 0).toNat ∨ (slotArg p 0).toNat + 16 * n ≤ a → memRead hm a = memRead s.hostMem a) ∧
    t.online = s.online &&& ~~~(1#4 <<< ((slotArg p 1).extractLsb' 0 2).toNat)) ∧
  ∀ s fn q p, Performs s fn q 0x0D p →
    let d : Fin 4 := ((slotArg p 1).extractLsb' 0 2).toFin
    (s.domainGone d = false → ∃ t l, exec (.online fn q) s = .next t ∧ Interrupts l ∧ Done s s.hostMem (s.out ++ l) t fn q p (plainly 0#8) ∧
      t.online = s.online ||| (1#4 <<< d.val) ∧ t.slices = s.slices ∧ t.cores = s.cores) ∧
    (s.domainGone d = true → ∃ t, exec (.online fn q) s = .next t ∧ Done s s.hostMem s.out t fn q p (plainly 1#8) ∧
      asideHost t = asideHost s ∧ sameContexts s t)

/-- Registers the host writes (R5, R69, R268, R317, R318, R324, R328, R329, R342, R349, R365). QTAIL and CQHEAD take what is written; QCFG
takes EN and QVEC, LOG only while EN = 0, and enabling sets QHEAD, CQTAIL and HALT to 0. LDCFG is written while LOCK = 0, APERR is
cleared by a one, a counter keeps 48 bits. A virtual function writes none of the physical function's registers. The aperture reads and
writes memory as it is stored; with a key that is missing it does neither, and APERR is set. Enabling the fabric sets STEP and the
arrival count to 0 (that it clears the banks and counts too is the model's reading, log 34); FXID is written only while QUOTA = 0; a descriptor
waits for its crossing. A counter that wraps reads 0 and sets its PCOVF bit: a counter of clk, cache or memory events may wrap at any time
(the model's choice, log 17). A reuse report that contradicts the class is made. -/
def Obligations.HostRegisters : Prop :=
  (∀ fn q v s, exec (.qtailDoorbell fn q v) s = .next (s.setCtx fn { s.ctx fn with
    queues := (s.ctx fn).queues.set q { s.queue fn q with qtail := v } })) ∧
  (∀ fn q v s, exec (.cqheadWrite fn q v) s = .next (s.setCtx fn { s.ctx fn with
    queues := (s.ctx fn).queues.set q { s.queue fn q with cqhead := v } })) ∧
  (∀ fn q v s, ∃ k : HostQueue, exec (.qcfgWrite fn q v) s = .next (s.setCtx fn { s.ctx fn with queues := (s.ctx fn).queues.set q k }) ∧
    k.en = v.getLsbD 6 ∧ k.qcfg.extractLsb' 8 8 = v.extractLsb' 8 8 ∧
    ((s.queue fn q).en = true → k.qcfg.extractLsb' 0 4 = (s.queue fn q).qcfg.extractLsb' 0 4) ∧
    ((s.queue fn q).en = false → k.size = if 2 ≤ (v.extractLsb' 0 4).toNat ∧ (v.extractLsb' 0 4).toNat ≤ 12
      then 2 ^ (v.extractLsb' 0 4).toNat else 4) ∧
    (v.getLsbD 6 = true → (s.queue fn q).en = false → k.qhead = 0#32 ∧ k.cqtail = 0#32 ∧ k.halted = false) ∧
    (¬ (v.getLsbD 6 = true ∧ (s.queue fn q).en = false) → k.qhead = (s.queue fn q).qhead ∧ k.cqtail = (s.queue fn q).cqtail ∧
      k.halted = ((s.queue fn q).halted && !v.getLsbD 7)) ∧
    k.qbase = (s.queue fn q).qbase ∧ k.qtail = (s.queue fn q).qtail ∧ k.cqbase = (s.queue fn q).cqbase ∧
    k.cqcfg = (s.queue fn q).cqcfg ∧ k.cqhead = (s.queue fn q).cqhead) ∧
  (∀ v s, exec (.registerWrite 0 0x40#32 v) s =
    .next (if s.ldcfg.getLsbD 2 then s else { s with ldcfg := 0#29 ++ v.extractLsb' 0 3 })) ∧
  (∀ v s, exec (.registerWrite 0 0x30#32 v) s =
    .next { s with apctl := BitVec.ofBool (s.apctl.getLsbD 31 && !v.getLsbD 31) ++ 0#14 ++ v.extractLsb' 0 17 }) ∧
  (∀ fn v s, exec (.registerWrite fn 0x800#32 v) s =
    .next (s.setCtx fn { s.ctx fn with pccnt := (s.ctx fn).pccnt.set 0 (0#16 ++ v.extractLsb' 0 48) })) ∧
  (∀ v s, (∀ q, (s.queue 0 q).en = false) → exec (.registerWrite 0 0x20#32 v) s =
    .next (s.setCtx 0 { s.ctx 0 with hwbase := v.extractLsb' 12 52 ++ 0#12 })) ∧
  (∀ fn v s, fn ≠ 0 → exec (.registerWrite fn 0x40#32 v) s = .next s ∧ exec (.registerWrite fn 0x30#32 v) s = .next s ∧
    exec (.registerWrite fn 0x20#32 v) s = .next s) ∧
  (∀ (off : BitVec 39) (bs : List Byte) n s, s.apctl.getLsbD 16 = false → s.sealed = [] → s.poison = [] →
    off.toNat + bs.length ≤ 2 ^ 39 → exec (.apertureAccess off (some bs) n) s = .next { s with hbm := writeBytes s.hbm off.toNat bs }) ∧
  (∀ (off : BitVec 39) n s, s.apctl.getLsbD 16 = false → s.sealed = [] → off.toNat + n ≤ 2 ^ 39 →
    exec (.apertureAccess off none n) s = .next { s with out := s.out ++ [.aperture (readBytes s.hbm off.toNat n)] }) ∧
  (∀ (off : BitVec 39) bs n s, s.apctl.getLsbD 16 = true → s.apctl.extractLsb' 0 16 = 0#16 → (s.ctx 0).key = 0 →
    exec (.apertureAccess off (some bs) n) s = .next { s with apctl := s.apctl ||| 0x80000000#32 } ∧
    exec (.apertureAccess off none n) s =
      .next { s with apctl := s.apctl ||| 0x80000000#32, out := s.out ++ [.aperture (List.replicate n 0xFF#8)] }) ∧
  (∀ (v : Word) s, v.extractLsb' 0 16 ≠ 0#16 → s.fab.quota = 0#16 → ∃ t, exec (.fxquotaWrite v) s = .next t ∧
    t.fab.quota = v.extractLsb' 0 16 ∧ t.fab.step = 0 ∧ t.fab.arrived = 0 ∧ t.fab.crossed = 0 ∧ t.fab.bankSize = s.fab.lbsz.toNat ∧
    (∀ b, t.fab.banks.get b = []) ∧ ({ t with fab := s.fab } : State) = s) ∧
  (∀ (v : Word) s, exec (.fxidWrite v) s = .next (if s.fab.quota = 0#16 then { s with fab := { s.fab with
      npeer := v.extractLsb' 16 9
      peer := if v.extractLsb' 16 9 < v.extractLsb' 0 9 then v.extractLsb' 16 9 else v.extractLsb' 0 9 } } else s)) ∧
  (∀ w v s, exec (.lwDescriptorWrite w v) s = .next { s with fab := { s.fab with
    written := s.fab.written.set w v, lwPending := s.fab.lwPending ||| (1#64 <<< w.val) } }) ∧
  (∀ c k s, (s.ctx c).timed k = true → s.releases c = true → ((s.ctx c).pccnt.get k).toNat < 2 ^ 48 →
    ∃ t, exec (.counterOverflow c k) s = .next t ∧ (t.ctx c).pccnt.get k = 0#64 ∧ (t.ctx c).pcovf = (s.ctx c).pcovf ||| (1#8 <<< k.val) ∧
      t.out = s.out ++ (if (s.ctx c).pcovf.getLsbD k.val then [] else [.interrupt c (s.ctx c).cvec]) ∧ t.slices = s.slices) ∧
  ∀ wave (range : Fin 16) (dom : Fin 4) misses s w e, s.wave? wave = some w → w.ranges[range.val]? = some e →
    s.online.getLsbD dom.val = true → e.len ≠ 0#32 → misses ≤ 65536 → s.lastReport wave range dom = none → s.reportHeld w.ctx = false →
    ((e.cls = 0 ∨ e.cls = 1) ∧ 4 * misses < 65536 ∨ e.cls = 3 ∧ 3 * 65536 < 4 * misses) →
    ∃ t, exec (.reuseReport wave range dom misses) s = .next t ∧ t.lastReport wave range dom = some t.tsc ∧ t.slices = s.slices ∧
      t.cores = s.cores

/-- The debugger (R178–R180). An operation reaches a slice of the caller's waves, or answers 0x03. Stop halts a slice and tells the
reason; resume and step ask for a stopped slice, else 0x02. Attach and detach set the wave's attachment; a detach resumes its slices.
Read gives the four lanes and the full/empty bit. Write fills a register of a stopped slice; over a pending fill it is BUSY, or, forced,
the debugger's value stands. -/
def Obligations.DebugSteps : Prop :=
  (∀ fn t s, s.dbgSlice fn t = none → ∀ i ∈ [Instr.dbgStop fn t, .dbgResume fn t, .dbgStep fn t, .dbgAttach fn t, .dbgDetach fn t],
    exec i s = .next { s with dbg := s.dbg.set fn { s.dbg.get fn with status := 3#8, last := none } }) ∧
  ∀ fn t s m, s.dbgSlice fn t = some m → s.slice? m.sid = some m →
    (m.stopped = false → m.pend = none → ∃ u x, exec (.dbgStop fn t) s = .next u ∧ u.slice? m.sid = some x ∧ x.stopped = true ∧
      x.pc = m.pc ∧ (modeSup m.mode = false → x.tpc = m.pc ∧ x.tcause.extractLsb' 0 5 = 0xC#5) ∧
      (modeSup m.mode = true → x.tcause = m.tcause ∧ x.tdet = m.tdet ∧ x.tpc = m.tpc) ∧
      (∀ b, b ≠ m.sid → u.slice? b = s.slice? b) ∧ (u.dbg.get 0).reason = 1#4 ∧ (u.dbg.get fn).status = 0#8) ∧
    (∃ u, exec (.dbgResume fn t) s = .next u ∧ (u.dbg.get fn).status = (if m.stopped then 0#8 else 2#8) ∧
      (m.stopped = false → u.slices = s.slices) ∧
      (m.stopped = true → (∀ x ∈ s.slices, x.late = false) → u.slice? m.sid = some { m with stopped := false, stepping := false } ∧
        ∀ b, b ≠ m.sid → u.slice? b = s.slice? b)) ∧
    (∃ u, exec (.dbgStep fn t) s = .next u ∧ (u.dbg.get fn).status = (if m.stopped then 0#8 else 2#8) ∧
      u.slice? m.sid = some (if m.stopped then { m with stepping := true } else m) ∧ ∀ b, b ≠ m.sid → u.slice? b = s.slice? b) ∧
    (∃ u, exec (.dbgAttach fn t) s = .next u ∧ (u.wave? m.wave).map (·.attached) = (s.wave? m.wave).map (fun _ => true) ∧
      u.slices = s.slices ∧ (u.dbg.get fn).status = 0#8) ∧
    (∀ w, s.wave? m.wave = some w → w.attached = true → ∃ u, exec (.dbgDetach fn t) s = .next u ∧
      (u.wave? m.wave).map (·.attached) = some false ∧ (∀ x ∈ u.slices, x.wave = m.wave → x.stopped = false) ∧
      (u.dbg.get fn).status = 0#8) ∧
    (∀ n : Fin 96, ∃ u, exec (.dbgRead fn t false (BitVec.ofNat 7 n.val)) s = .next u ∧ (u.dbg.get fn).data = (m.v.get n).val ∧
      (u.dbg.get fn).full = (m.v.get n).full ∧ (u.dbg.get fn).status = 0#8 ∧ u.slices = s.slices) ∧
    (∀ n : Fin 64, ∃ u, exec (.dbgRead fn t true (BitVec.ofNat 7 n.val)) s = .next u ∧ (u.dbg.get fn).data = Lanes.all (m.s.get n).val ∧
      (u.dbg.get fn).full = (m.s.get n).full ∧ (u.dbg.get fn).status = 0#8 ∧ u.slices = s.slices) ∧
    ∀ (n : Fin 64) (mask : BitVec 4) (force : Bool) (x : Word),
      let i := Instr.dbgWrite fn t true (BitVec.ofNat 7 n.val) mask force x
      (m.stopped = false → ∃ u, exec i s = .next u ∧ (u.dbg.get fn).status = 2#8 ∧ u.slices = s.slices) ∧
      (m.stopped = true → ((m.s.get n).full = true ∨ s.producing m.sid (.s n) = false ∨ force = true) → ∃ u, exec i s = .next u ∧
        u.slice? m.sid = some { m with s := m.s.set n ⟨x, true, false⟩ } ∧ (u.dbg.get fn).status = 0#8 ∧
        ∀ b, b ≠ m.sid → u.slice? b = s.slice? b) ∧
      (m.stopped = true → (m.s.get n).full = false → s.producing m.sid (.s n) = true → force = false → ∃ u, exec i s = .next u ∧
        u.slices = s.slices ∧ u.txns = s.txns ∧ (u.dbg.get fn).status = 1#8)

/-! ## The fabric and the network -/

/-- The fabric engine (R341–R351, R354, R356–R363). DEVICE_ARRIVAL sends the arrival once the operations of its step are acknowledged. A
crossing is applied with the first broadcast: its bank is empty, its status stands, descriptors take effect. A crossing applies a
word under SUM and under OWNER. An entry is judged against its descriptor and answered. The reply of an LDX waits in a fabric leaf for a
plane, as a packet does (log 16). A wake stands in its mailbox, or is given to the
head waiter. An acknowledgement ends an operation; a reply fills the lane's register. An unreachable peer fails its operations, and
one whose packet has not left never leaves. The counter steps forward to a beacon more than 1 µs ahead, pauses for one more than 1 µs behind, and never
decreases: how far it goes between two readings is free (log 4). A packet leaves its leaf's head on a plane that is up.
A checkpoint runs from GO over START to DONE, and holds memory with every line written back. The corners between acceptance and landing follow
the model's reading (log 34). -/
def Obligations.FabricSteps : Prop :=
  (∀ s : State, s.fab.arriving = true → s.fab.copying = false → (∀ o ∈ s.fab.ops, o.step + 1 = s.fab.step → o.acked = true) →
    exec .deviceArrival s = .next { s with
      out := s.out ++ [.arrival (s.fab.step - 1)], fab := { s.fab with arriving := false, arrivalSent := true } }) ∧
  (∀ (s : State) (b : CrossingMsg), s.fab.arrivalSent = true → b.step.toNat = s.fab.crossed → s.fab.crossed < s.fab.step →
    s.loadsBefore s.fab.crossed = false →
    ∃ t, exec (.crossingApply b) s = .next t ∧ s.tsc.toNat ≤ t.tsc.toNat ∧ t.fab.crossed = s.fab.crossed + 1 ∧ t.fab.arrivalSent = false ∧
      OutMsg.crossed s.fab.crossed ∈ t.out ∧ t.fab.step = s.fab.step ∧ t.fab.lwPending = 0#64 ∧
      (s.fab.banks.get (stepBank s.fab.crossed) = [] → s.fab.banks.get (stepBank (s.fab.crossed + 1)) = [] → s.fab.ldxHeld = [] →
        t.fab.stat = (s.fab.accs.get (stepBank s.fab.crossed)).word ∧
        t.fab.statuses.head? = some (s.fab.crossed, (s.fab.accs.get (stepBank s.fab.crossed)).word) ∧ t.hbm = s.hbm ∧ t.cdata = s.cdata)) ∧
  (∀ (x : Word) (a b : LandEntry), a.op = .stx → b.op = .stx → a.peer < b.peer →
    applyWord 0 x [a] = (a.data, [], []) ∧ applyWord 3 x [a, b] = (x + a.data + b.data, [], []) ∧
    applyWord 1 x [a, b] = (a.data, [], []) ∧ applyWord 2 x [a, b] = (b.data, [], []) ∧ applyWord 10 x [a, b] = (x, [], [a, b]) ∧
    sortEntries [b, a] = [a, b]) ∧
  (∀ (s : State) (p : BitVec 9) (step : DWord), ∃ t, exec (.peerCrossingComplete p step) s = .next t ∧
    t.peerCount p = max (s.peerCount p) (step.toNat + 1) ∧ (∀ q, q ≠ p → t.peerCount q = s.peerCount q) ∧
    ({ t with fab := s.fab } : State) = s) ∧
  (∀ (s : State) (e : LandEntry), e.step.toNat = s.fab.crossed →
    let d := s.fab.inForce.get (e.off.extractLsb' 41 6).toFin
    let bank := s.fab.banks.get (stepBank s.fab.crossed)
    (lwEn d = true → (e.off.extractLsb' 0 41).toNat < lwLen d → lwCtx d = e.ctx.val → (lwRule d = 0 → e.peer = lwOwner d) →
      (lwRule d = 10 → e.op = .stx) → bank.length < 256 * s.fab.bankSize → ∃ t, exec (.landingEntryReceipt e) s = .next t ∧
        t.fab.banks.get (stepBank s.fab.crossed) = bank ++ [⟨e, true⟩] ∧ t.out = s.out ++ [.ack e.peer e.seq false]) ∧
    (lwEn d = false ∨ lwLen d ≤ (e.off.extractLsb' 0 41).toNat ∨ lwCtx d ≠ e.ctx.val →
      ∃ t, exec (.landingEntryReceipt e) s = .next t ∧ t.fab.banks = s.fab.banks ∧ t.out = s.out ++ [.ack e.peer e.seq true] ∧
        (t.fab.accs.get (stepBank s.fab.crossed)).rng = true ∧ e.peer ∈ (t.fab.accs.get (stepBank s.fab.crossed)).bad)) ∧
  (∀ (s : State) (r : LdxRequest), s.fab.crossed < r.step.toNat → r.step.toNat ≤ s.fab.crossed + 1 →
    exec (.ldxRequestReceipt r) s = .next { s with fab := { s.fab with ldxHeld := s.fab.ldxHeld ++ [r] } }) ∧
  (∀ (s : State) (r : LdxRequest), r.step.toNat = s.fab.crossed →
    let d := s.fab.inForce.get (r.off.extractLsb' 41 6).toFin
    let va := lwBase d + (r.off.extractLsb' 0 41).toNat
    lwEn d = true → (r.off.extractLsb' 0 41).toNat < lwLen d → lwCtx d = r.ctx.val → s.granted (viaDie 4) (s.asidOf r.ctx) va .r = true →
    (s.hit? (viaDie 4) (s.asidOf r.ctx) va).isSome = true → va / 128 = (va + 3) / 128 →
    exec (.ldxRequestReceipt r) s = .next { s with nextId := s.nextId + 1, fab := { s.fab with replies := s.fab.replies ++
      [⟨s.nextId, r.ctx, r.peer, r.seq, BitVec.ofNat 32 (ofBytes (s.viewBytes 4 (s.asidOf r.ctx) va 4))⟩] } }) ∧
  (∀ (s : State) (w : WakeMsg), s.tagOk w.step = true → (s.ctx w.ctx).asid ≠ none →
    (w.deferred = true → exec (.wakeReceipt w) s = .next { s with
      out := s.out ++ [.ack w.peer w.seq false], fab := { s.fab with wakes := s.fab.wakes ++ [w] } }) ∧
    (w.deferred = false → ((s.ctx w.ctx).mailboxes.get w.mailbox).pend = true → ∃ t, exec (.wakeReceipt w) s = .next t ∧
      (t.ctx w.ctx).mailboxes.get w.mailbox = ⟨((s.ctx w.ctx).mailboxes.get w.mailbox).value ||| w.value, true⟩ ∧ t.txns = s.txns) ∧
    (w.deferred = false → ((s.ctx w.ctx).mailboxes.get w.mailbox).pend = false → s.waiters w.ctx w.mailbox = [] →
      ∃ t, exec (.wakeReceipt w) s = .next t ∧ (t.ctx w.ctx).mailboxes.get w.mailbox = ⟨w.value, true⟩ ∧ t.txns = s.txns) ∧
    ∀ x p n r, w.deferred = false → ((s.ctx w.ctx).mailboxes.get w.mailbox).pend = false → s.waiters w.ctx w.mailbox = x :: r →
      x.parts = [p] → p.dst = [.s n] → ∃ t, exec (.wakeReceipt w) s = .next t ∧
        t.slice? p.sid = (s.slice? p.sid).map (fun m => { m with s := m.s.set n ⟨w.value, true, false⟩ }) ∧
        t.txns = s.txns.filter (fun y => y.id != x.id) ∧ t.ctxs = s.ctxs) ∧
  (∀ (s : State) (o : FabOp) (p : BitVec 9), s.fab.ops.find? (fun x => x.seq == o.seq) = some o → o.sent = true → o.dest = .peer p →
    (o.kind = .stx → exec (.fabricAck o.seq p false none) s = .next { s with fab := { s.fab with
      ops := s.fab.ops.map fun x => if x.seq = o.seq then { x with acked := true } else x } }) ∧
    (o.kind = .stx → ∃ t, exec (.fabricAck o.seq p true none) s = .next t ∧ p ∈ (t.ctx o.ctx).failed ∧
      t.fab.ops = s.fab.ops.map fun x => if x.seq = o.seq then { x with acked := true } else x) ∧
    ∀ v t l b n, o.kind = .ldx → s.txns.find? (fun t => t.id == o.txn) = some t → t.lanes = [l] → l.sid = o.sid → l.lane = o.lane →
      t.parts = [b] → b.sid = o.sid → b.dst = [.v n] → t.scalar = false → ∀ m, s.slice? o.sid = some m →
      ∃ u x, exec (.fabricAck o.seq p false (some v)) s = .next u ∧ u.slice? o.sid = some x ∧ (x.v.get n).full = true ∧
        (x.v.get n).val.get l.lane = v ∧ u.txns = s.txns.filter (fun y => y.id != t.id) ∧
        u.fab.ops = s.fab.ops.filter (fun y => y.seq != o.seq)) ∧
  (∀ (s : State) (o : FabOp) (p : BitVec 9), s.fab.ops = [o] → o.acked = false → o.dest = .peer p → o.kind = .stx →
    ∃ t, exec (.peerUnreachable p) s = .next t ∧ p ∈ (t.ctx o.ctx).failed ∧ t.fab.ops = [{ o with sent := true, acked := true }]) ∧
  (∀ plane group (s : State), exec (.integrityRetry plane group) s = .next { s with out := s.out ++ [.retryRequest plane group] } ∧
    exec (.retryRequestReceipt group) s = .next { s with out := s.out ++ [.resend group] }) ∧
  (∀ (ref : DWord) (s : State), (s.tsc.toNat + 1000 < ref.toNat → exec (.timeBeacon ref) s = .next { s with tsc := ref, tscPause := 0#64 }) ∧
    (ref.toNat + 1000 < s.tsc.toNat → exec (.timeBeacon ref) s = .next { s with tscPause := s.tsc - ref }) ∧
    ∃ t, exec (.timeBeacon ref) s = .next t ∧ s.tsc.toNat ≤ t.tsc.toNat ∧
      ({ t with tsc := s.tsc, tscPause := s.tscPause, ticks := s.ticks } : State) = s) ∧
  (∀ (s : State) (g : Fin 9) (plane : Fin 144) (e : Entry) (es : List Entry) (o : FabOp), s.planeFits g.val plane.val = true →
    s.fab.copying = false → s.entries (fabricLeaf g.val) = e :: es → e.kind = .packet o.seq →
    s.fab.ops.find? (fun x => x.seq == o.seq) = some o → ∃ t, exec (.fabricPacketSend g plane) s = .next t ∧
      t.entries (fabricLeaf g.val) = (e :: es).filter (fun x => x.id != e.id) ∧ OutMsg.fabric o plane.val ∈ t.out ∧
      t.fab.ops = s.fab.ops.map fun x => if x.seq = o.seq then { x with sent := true } else x) ∧
  (∀ (s : State) (g : Fin 9) (plane : Fin 144) (e : Entry) (es : List Entry) (r : FabReply), s.planeFits g.val plane.val = true →
    s.fab.copying = false → s.entries (fabricLeaf g.val) = e :: es → e.kind = .packet r.id → (∀ x ∈ s.fab.ops, x.seq ≠ r.id) →
    s.fab.replies.find? (fun x => x.id == r.id) = some r → ∃ t, exec (.fabricPacketSend g plane) s = .next t ∧
      t.entries (fabricLeaf g.val) = (e :: es).filter (fun x => x.id != e.id) ∧ OutMsg.reply r.peer r.seq r.data ∈ t.out ∧
      t.fab.replies = s.fab.replies.filter (fun x => x.id != r.id) ∧ t.fab.ops = s.fab.ops) ∧
  (∀ s : State, s.fab.copying = false → exec .checkpointGo s = .next { s with fab := { s.fab with ckgo := true, ckstat := 1#4 } }) ∧
  (∀ s : State, s.fab.copying = true → s.fab.ckstat = 1#4 →
    exec (.checkpointStart false) s = .next { s with fab := { s.fab with ckstat := 4#4, copying := false } } ∧
    (∃ t bs l, exec (.checkpointStart true) s = .next t ∧ t.fab.ckstat = 2#4 ∧ t.fab.copying = true ∧ Interrupts l ∧
      t.out = s.out ++ l ++ [.checkpoint s.fab.ckpeer t.hbm t.sealed bs] ∧ t.slices = s.slices ∧ ∀ l ∈ t.lines, l.dirty = false) ∧
    (s.lines = [] → s.writes = [] → exec (.checkpointStart true) s = .next { s with
      out := s.out ++ [.checkpoint s.fab.ckpeer s.hbm s.sealed (s.fab.banks.get 0 ++ s.fab.banks.get 1)]
      fab := { s.fab with ckstat := 2#4 } })) ∧
  ∀ s : State, s.fab.copying = true → s.fab.ckstat = 2#4 →
    exec .checkpointDone s = .next { s with fab := { s.fab with ckstat := 3#4, copying := false } }

/-- The network engine (R99, R364–R366). The head of the network leaf is sent: a READ as a request, a SEND or WRITE with the data read from
local memory; a request whose data cannot be read fails. A SEND finds the earliest matching RECV, a WRITE its endpoint's context, a READ request is
answered with the data, which waits in the
network leaf (log 16), a reply is placed; each is answered. Nothing arrives or completes while a checkpoint is copied. A request completes with 1 added to its counter, as a release, and first to the error
count behind it where it failed. A WAITV whose word has reached the threshold fills. A message arriving whole is the model's reading (log 21). -/
def Obligations.NetworkSteps : Prop :=
  (∀ (s : State) (port : Fin 4) (e : Entry) (es : List Entry) (r : NetReq), s.entries networkLeaf = e :: es → e.kind = .request r.id →
    s.fab.copying = false → s.netReqs.find? (fun x => x.id == r.id) = some r →
    (r.kind = .read → ∃ t, exec (.networkPacketSend port) s = .next t ∧ t.entries networkLeaf = (e :: es).filter (fun x => x.id != e.id) ∧
      t.out = s.out ++ [.net (.readRequest r.ep r.raddr r.len r.id)] ∧
      t.netReqs = s.netReqs.map fun x => if x.id = r.id then { x with sent := true } else x) ∧
    (r.kind = .send ∨ r.kind = .write → s.netHeld r.ctx r.laddr r.len .r = false →
      (∀ bs v, s.readObject r.ctx r.laddr r.len = .ok (bs, v) → ∃ t, exec (.networkPacketSend port) s = .next t ∧
        t.entries networkLeaf = (e :: es).filter (fun x => x.id != e.id) ∧
        t.out = v.out ++ [.net (if r.kind = .send then .send r.ep r.raddr bs else .write r.ep r.raddr bs)] ∧
        t.netReqs = s.netReqs.map fun x => if x.id = r.id then { x with sent := true } else x) ∧
      ∀ err v, s.readObject r.ctx r.laddr r.len = .error (err, v) → ∃ t, exec (.networkPacketSend port) s = .next t ∧ t.out = v.out ∧
        t.netReqs = s.netReqs.map fun x => if x.id = r.id then { x with failed := true } else x)) ∧
  (∀ (s : State) (port : Fin 4) (e : Entry) (es : List Entry) (r : NetReply), s.entries networkLeaf = e :: es → e.kind = .request r.id →
    s.fab.copying = false → (∀ x ∈ s.netReqs, x.id ≠ r.id) → s.netReplies.find? (fun x => x.id == r.id) = some r →
    ∃ t, exec (.networkPacketSend port) s = .next t ∧ t.entries networkLeaf = (e :: es).filter (fun x => x.id != e.id) ∧
      t.out = s.out ++ [.net r.packet] ∧ t.netReplies = s.netReplies.filter (fun x => x.id != r.id) ∧ t.netReqs = s.netReqs) ∧
  (∀ (s : State) p, s.fab.copying = true → exec (.networkPacketReceipt p) s = .next s) ∧
  (∀ (s : State) id failed, s.fab.copying = true → exec (.networkRequestComplete id failed) s = .next s) ∧
  (∀ (s : State) ep bits data, s.fab.copying = false → s.matchRecv ep bits = none → exec (.networkPacketReceipt (.send ep bits data)) s =
    .next { s with out := s.out ++ [.netAnswer (.send ep bits data) false] }) ∧
  (∀ (s : State) ep bits data r, s.fab.copying = false → s.matchRecv ep bits = some r → s.receiptHeld (.send ep bits data) = false →
    (r.len < data.length → exec (.networkPacketReceipt (.send ep bits data)) s =
      .next { s with out := s.out ++ [.netAnswer (.send ep bits data) false] }) ∧
    ∀ ok v, data.length ≤ r.len → s.placeData r.ctx r.laddr data = (ok, v) → exec (.networkPacketReceipt (.send ep bits data)) s =
      .next { v with
        out := v.out ++ [.netAnswer (.send ep bits data) ok]
        netReqs := v.netReqs.map fun x => if x.id = r.id then (if ok then { x with placed := true } else { x with failed := true }) else x }) ∧
  (∀ (s : State) ep raddr data, s.fab.copying = false → s.endpointCtx ep = none → exec (.networkPacketReceipt (.write ep raddr data)) s =
    .next { s with out := s.out ++ [.netAnswer (.write ep raddr data) false] }) ∧
  (∀ (s : State) ep raddr c, s.fab.copying = false → s.endpointCtx ep = some c →
    (∀ data ok v, s.receiptHeld (.write ep raddr data) = false → s.placeData c raddr data = (ok, v) →
      exec (.networkPacketReceipt (.write ep raddr data)) s =
        .next { v with out := v.out ++ [.netAnswer (.write ep raddr data) ok] }) ∧
    ∀ len id bs v, s.receiptHeld (.readRequest ep raddr len id) = false → s.readObject c raddr len = .ok (bs, v) →
      exec (.networkPacketReceipt (.readRequest ep raddr len id)) s = .next { v with
        nextId := v.nextId + 1, netReplies := v.netReplies ++ [⟨v.nextId, c, .readReply id bs⟩] }) ∧
  (∀ (s : State) id data r ok v, s.fab.copying = false → s.readFor id = some r → r.len = data.length → s.receiptHeld (.readReply id data) = false →
    s.placeData r.ctx r.laddr data = (ok, v) → exec (.networkPacketReceipt (.readReply id data)) s = .next { v with
      netReqs := v.netReqs.map fun x => if x.id = r.id then (if ok then { x with placed := true } else { x with failed := true }) else x }) ∧
  (∀ (s : State) (r : NetReq) (failed : Bool), s.netReqs.find? (fun x => x.id == r.id) = some r →
    (r.kind = .send ∧ r.sent = true ∨ r.kind = .write ∧ r.sent = true ∨ r.kind = .read ∧ r.sent = true ∧ (failed = true ∨ r.placed = true) ∨
      r.kind = .recv ∧ r.placed = true ∨ r.failed = true) → s.fab.copying = false → s.writes = [] → s.addHeld r.ctx r.cntr = false →
    ∃ t, exec (.networkRequestComplete r.id failed) s = .next t ∧ t.netReqs = s.netReqs.filter (fun x => x.id != r.id) ∧
      t.slices = s.slices ∧ t.cores = s.cores ∧
      (r.cntr.toNat % 8 = 0 → windowOf r.cntr = some .global → s.cdata.wf = true →
        let asid := s.asidOf r.ctx
        let va := offsetOf r.cntr
        let die := s.homeDie asid va
        let old (a : Nat) : Word := BitVec.ofNat 32 (ofBytes (s.viewBytes die asid a 4))
        s.granted (viaDie die) asid va .w = true → (s.hit? (viaDie die) asid va).isSome = true →
        t.viewBytes die asid va 4 = toBytes 4 (old va + 1#32).toNat ∧
        t.viewBytes die asid (va + 4) 4 =
          toBytes 4 (old (va + 4) + (if r.failed = true ∨ failed = true then 1#32 else 0#32)).toNat)) ∧
  ∀ (s : State) (t : Txn) (v : Word) (l : LaneAcc) (p : Part) (n : Fin 64), Due s t → t.kind = .waitv v → t.lanes = [l] → t.parts = [p] →
    p.dst = [.s n] → s.inSaved t = false → windowOf l.addr = some .scratch →
    let x : Word := BitVec.ofNat 32 (readLE (s.core t.core).spad (((s.core t.core).share t.wave).spad + offsetOf l.addr) 4)
    ((x - v).toNat < 2 ^ 31 → ∃ u, exec (.waitvRecheck t.id) s = .next u ∧
      u.slice? p.sid = (s.slice? p.sid).map (fun m => { m with s := m.s.set n ⟨x, true, false⟩ }) ∧
      u.txns = s.txns.filter (fun y => y.id != t.id)) ∧
    (2 ^ 31 ≤ (x - v).toNat → ∃ u, exec (.waitvRecheck t.id) s = .next u ∧ u.slices = s.slices ∧ u.txns = s.txns)

/-! ## The trust die -/

/-- The boot record and its steps (R5, R331, R333–R335, R338, R339). Clearing the record makes every step normal. A result of a step that
is not in progress does nothing. A success sets COUNT to 0 and goes on; a failure of the normal way adds 1 and starts again at step 0,
with every register reset; a failed alternate ends booting. A domain whose base die has failed twice is skipped. Power-on and a reset
start the boot; only a reset keeps memory. A recovery fetch reports a fetch or a measurement that failed; an image that passes is booted
and, with COMMIT, replaces the flash copy. An update is refused until recovery ends. That a boot goes on with step 12 done is the
model's reading (DEDUCED, log 18). -/
def Obligations.BootSteps : Prop :=
  (∀ s : State, exec .bootRecordClear s = .next { s with trust := { s.trust with record := 0#64, planeFails := [] } }) ∧
  (∀ (s : State) k plane ok, s.trust.power ≠ .booting k → exec (.bootStepResult k plane ok) s = .next s) ∧
  (∀ (s : State) plane, s.trust.power = .booting 0 → s.trust.stepCount 0 < 2 → s.online ≠ 0#4 → ∃ t, exec (.bootStepResult 0 plane true) s = .next t ∧
    t.trust.power = .booting 1 ∧ t.trust.stepCount 0 = 0 ∧ t.trust.stepState 0 = 0#2 ∧
    (2, Config.measure 2 s.trust.image) ∈ t.trust.measured ∧ t.online = s.online) ∧
  (∀ (s : State) plane, s.trust.power = .booting 12 → s.trust.stepCount 12 < 2 → s.online ≠ 0#4 → ∃ t, exec (.bootStepResult 12 plane true) s = .next t ∧
    t.trust.power = .up ∧ t.trust.stepCount 12 = 0 ∧ (∀ j < 12, t.trust.stepCount j = s.trust.stepCount j) ∧
    ({ t with trust := s.trust } : State) = s) ∧
  (∀ (s : State) (k : Fin 13) plane, s.trust.power = .booting k → k ≠ 11 → s.trust.stepCount k.val < 2 →
    s.trust.lostDomains ≠ 15#4 → ∃ t,
    exec (.bootStepResult k plane false) s = .next t ∧ t.trust.stepCount k.val = s.trust.stepCount k.val + 1 ∧
    (∀ j < 13, j ≠ k.val → t.trust.stepCount j = s.trust.stepCount j) ∧
    t.trust.power = (if t.trust.stepCount 0 = 2 then .recovery 0 else .booting 0) ∧
    t.slices = [] ∧ t.txns = [] ∧ t.ctxs = State.reset.ctxs ∧ t.fab.planes = 0#144 ∧ t.hbm = s.hbm) ∧
  (∀ (s : State) (k : Fin 13) plane, s.trust.power = .booting k → k = 1 ∨ k = 10 → s.trust.stepCount k.val = 2 →
    exec (.bootStepResult k plane false) s = .next { s with trust := { s.trust with power := .halted k } }) ∧
  (∀ (s : State) (d : Fin 4) plane (k : Fin 13), k.val = d.val + 1 → s.trust.power = .booting k → s.trust.stepCount k.val < 2 →
    s.trust.stepCount (d.val + 2) = 2 → s.trust.stepCount (d.val + 3) < 2 →
    s.trust.stepCount (if d.val = 3 then 2 else d.val + 7) < 2 → s.online &&& ~~~(1#4 <<< d.val) ≠ 0#4 → ∃ t,
    exec (.bootStepResult k plane true) s = .next t ∧ t.trust.stepState (d.val + 2) = 1#2 ∧ t.trust.stepCount (d.val + 2) = 2 ∧
    t.online.getLsbD d.val = false ∧ t.skipped.getLsbD d.val = true) ∧
  (∀ s : State, ∃ t, exec .powerOn s = .next t ∧ t.hbm = [] ∧ t.trust.retiredNow = [] ∧ t.trust.retired = s.trust.retired ∧
    (({ s.trust with retiredNow := [] } : Trust).lostDomains ≠ 15#4 →
      t.trust.power = if s.trust.stepCount 0 = 2 then .recovery 0 else .booting 0) ∧ t.slices = [] ∧ t.ctxs = State.reset.ctxs) ∧
  (∀ s : State, ∃ t, exec .deviceReset s = .next t ∧ t.hbm = s.hbm ∧ t.trust.record = s.trust.record ∧ t.trust.flash = s.trust.flash ∧
    (s.trust.lostDomains ≠ 15#4 → t.trust.power = if s.trust.stepCount 0 = 2 then .recovery 0 else .booting 0) ∧ t.slices = [] ∧ t.txns = [] ∧
    t.ctxs = State.reset.ctxs ∧ t.tsc = State.reset.tsc ∧ t.ldcfg = State.reset.ldcfg) ∧
  (∀ (s : State) commit k, s.trust.power = .recovery k →
    exec (.recoveryGo commit) s = .next { s with trust := { s.trust with rcvstat := 1#4, commit := commit } }) ∧
  (∀ (s : State) (k : Fin 13), s.trust.power = .recovery k → s.trust.rcvstat = 1#4 →
    let image := readBytes s.hostMem s.trust.rcvaddr.toNat s.trust.rcvlen.toNat
    (∀ passed, exec (.recoveryFetchEnd false passed) s = .next { s with trust := { s.trust with rcvstat := 4#4 } }) ∧
    (s.trust.rcvlen.toNat ≤ 2 ^ 26 →
      exec (.recoveryFetchEnd true false) s = .next { s with trust := { s.trust with rcvstat := 3#4 } } ∧
      (k = 12 → s.online ≠ 0#4 → ∃ t, exec (.recoveryFetchEnd true true) s = .next t ∧ t.trust.power = .up ∧
        t.trust.rcvstat = 2#4 ∧ t.trust.image = image ∧ t.trust.flash = (if s.trust.commit then image else s.trust.flash) ∧
        (s.trust.commit = true → t.trust.stepCount 12 = 0) ∧ (s.trust.commit = false → t.trust.record = s.trust.record)))) ∧
  ∀ (s : State) image, ((∀ k, s.trust.power ≠ .recovery k) →
      exec (.firmwareUpdate image) s = .next { s with trust := { s.trust with flash := image } }) ∧
    ∀ k, s.trust.power = .recovery k → exec (.firmwareUpdate image) s = .next s

/-- TDISP, function reset and the SPDM responder (R323, R325, R331, R332). A virtual function's interface goes from unlocked to LOCKED and
from LOCKED to RUN. A reset function holds no ASID and none of its work. Every SPDM request is answered with the named content, once what
it builds on is negotiated; which request builds on which is taken from SPDM (PRESUMED, log 20), the message's form is free (log 20). What a
function reset leaves is the model's reading (log 40). -/
def Obligations.TrustSteps : Prop :=
  let answer (s : State) (p : Spdm) (req : Nat) (content : List Byte) : State := { s with
    out := s.out ++ [.spdm (Config.spdmMessage req s.ticks content)], ticks := s.ticks + 1, trust := { s.trust with spdm := p } }
  (∀ (s : State) fn, fn ≠ 0 → ((s.ctx fn).tdisp = .unlocked →
      exec (.tdispLock fn) s = .next (s.setCtx fn { s.ctx fn with tdisp := .locked })) ∧
    ((s.ctx fn).tdisp = .locked → exec (.tdispRun fn) s = .next (s.setCtx fn { s.ctx fn with tdisp := .run })) ∧
    ((s.ctx fn).tdisp ≠ .locked → exec (.tdispRun fn) s = .next s)) ∧
  (∀ (s : State) fn, ∃ t, exec (.functionReset fn) s = .next t ∧ (t.ctx fn).asid = none ∧ (t.ctx fn).tdisp = .unlocked ∧
    (∀ x ∈ t.waves, x.ctx ≠ fn) ∧ (∀ x ∈ t.tasks, x.ctx ≠ fn) ∧ ∀ x ∈ t.txns, x.ctx ≠ fn) ∧
  (∀ s : State, exec .getVersion s = .next (answer s ⟨true, false, false, false, false, 0, s.trust.spdm.ide⟩ 0x84 [])) ∧
  (∀ s : State, s.trust.spdm.version = true →
    exec .getCapabilities s = .next (answer s { s.trust.spdm with caps := true } 0xE1 [])) ∧
  (∀ (s : State) (o : SpdmOffer), s.trust.spdm.caps = true →
    (o.ecdsaP384 = true → o.sha384 = true → o.aes256Gcm = true →
      exec (.negotiateAlgorithms o) s = .next (answer s { s.trust.spdm with algs := true } 0xE3 [])) ∧
    (o.ecdsaP384 = false ∨ o.sha384 = false ∨ o.aes256Gcm = false →
      exec (.negotiateAlgorithms o) s = .next (answer s s.trust.spdm 0 []))) ∧
  (∀ s : State, s.trust.spdm.algs = true → exec .getDigests s = .next (answer s s.trust.spdm 0x81 []) ∧
    exec .getCertificate s = .next (answer s s.trust.spdm 0x82 []) ∧
    (∀ nonce, exec (.challenge nonce) s = .next (answer s s.trust.spdm 0x83 (toBytes 32 nonce.toNat))) ∧
    (∀ index, exec (.getMeasurements index) s = .next (answer s s.trust.spdm 0xE0
      ((s.measurements index).flatMap fun m => BitVec.ofNat 8 m.1 :: toBytes 48 m.2.toNat))) ∧
    ∀ share, exec (.keyExchange share) s =
      .next (answer s { s.trust.spdm with opened := true, finished := false, updates := 0 } 0xE4 (toBytes 96 share.toNat))) ∧
  (∀ s : State, s.trust.spdm.algs = false → exec .getDigests s = .next (answer s s.trust.spdm 0 []) ∧
    ∀ index, exec (.getMeasurements index) s = .next (answer s s.trust.spdm 0 [])) ∧
  (∀ s : State, s.trust.spdm.opened = true → s.trust.spdm.finished = false →
    exec (.finish true) s = .next (answer s { s.trust.spdm with
      finished := true, ide := s.trust.spdm.ide ++ [Config.spdmMessage 0 s.ticks []] } 0xE5 []) ∧
    exec (.finish false) s = .next (answer s { s.trust.spdm with opened := false } 0 [])) ∧
  ∀ s : State, s.trust.spdm.finished = true →
    exec .keyUpdate s = .next (answer s { s.trust.spdm with updates := s.trust.spdm.updates + 1 } 0xE9 [])

/-- Errors, tests, frequency, temperature and power (R197, R198, R275, R278, R280, R336–R339). An error is logged and starts one test of
its structure; a core under test is marked; an uncorrected one poisons what it hit, and ends the wave that consumed it. A test that passes
ends; a core, or a lane with its plane, that fails is retired. A core without a budgeted flip moves one step towards 2.7 GHz in each 100 µs; a hot die's
cores, and under the cap every core, move one step down, not below 2.2 GHz. A shutdown keeps a log entry. PCAP takes 1,500 W to 3,600 W.
A retraining changes nothing a program sees. When a frequency steps, what a shutdown leaves and the fields of a log entry are the
model's readings (log 36, 40, 41). -/
def Obligations.EnvironmentSteps : Prop :=
  (∀ (s : State) (e : ErrorEvent), e.uncorrected = false → e.unit = .tuiquelLane → (∀ t ∈ s.trust.tests, ¬ (t.1 = e.unit ∧ t.2.1 = e.loc)) →
    ∃ t tsc, exec (.errorDetected e) s = .next t ∧ t.trust.tests = s.trust.tests ++ [(e.unit, e.loc, s.trust.logged)] ∧
      t.trust.log = ((⟨tsc, e.addr, e.ctx, e.loc, 6#8, 1#8, 1#8⟩ : LogEntry) :: s.trust.log).take 4096 ∧ t.tsc = tsc ∧
      t.trust.logged = s.trust.logged + 1 ∧ s.tsc.toNat ≤ tsc.toNat ∧
      ({ t with trust := s.trust, tsc := s.tsc, tscPause := s.tscPause, ticks := s.ticks } : State) = s) ∧
  (∀ (s : State) (e : ErrorEvent), s.trust.tests.any (fun t => t.1 == e.unit && t.2.1 == e.loc) = true → e.uncorrected = false →
    ∃ t, exec (.errorDetected e) s = .next t ∧ t.trust.tests = s.trust.tests ∧ t.trust.logged = s.trust.logged + 1) ∧
  (∀ (s : State) (e : ErrorEvent), e.unit = .core → e.loc.toNat < 192 → e.uncorrected = false → s.trust.tests = [] →
    ∃ t, exec (.errorDetected e) s = .next t ∧ (t.core e.loc.toNat).testing = true ∧ t.slices = s.slices ∧ t.waves = s.waves) ∧
  (∀ (s : State) (e : ErrorEvent), e.unit = .hbmFrame → e.uncorrected = true → e.consumer = .none →
    ∃ t, exec (.errorDetected e) s = .next t ∧ e.addr.toNat / 128 ∈ t.poison ∧ t.waves = s.waves) ∧
  (∀ (s : State) (e : ErrorEvent) core slot m w, e.uncorrected = true → e.consumer = .registerFile core slot →
    s.sliceAt core slot = some m → s.wave? m.wave = some w → w.ended = none →
    ∃ t, exec (.errorDetected e) s = .next t ∧ ∃ k, (t.wave? m.wave).bind (·.ended) = some k ∧
      k.stat = endStat 0xE#5 1#8 ∧ k.pc = m.pc ∧ k.core = core) ∧
  (∀ (s : State) unit loc pass, (∀ t ∈ s.trust.tests, ¬ (t.1 = unit ∧ t.2.1 = loc)) → exec (.selfTestEnd unit loc pass) s = .next s) ∧
  (∀ (s : State) loc n, s.trust.tests = [(.core, loc, n)] → exec (.selfTestEnd .core loc true) s =
    .next (({ s with trust := { s.trust with tests := [] } } : State).setCore loc.toNat { s.core loc.toNat with testing := false })) ∧
  (∀ (s : State) loc n, s.trust.tests = [(.core, loc, n)] → loc.toNat < 192 → ∃ t, exec (.selfTestEnd .core loc false) s = .next t ∧
    (t.core loc.toNat).retired = true ∧ (t.core loc.toNat).testing = false ∧ (t.core loc.toNat).shares = [] ∧
    (.core, loc) ∈ t.trust.retired ∧ t.trust.tests = []) ∧
  (∀ (s : State) loc n, s.trust.tests = [(.tuiquelLane, loc, n)] → ∃ t, exec (.selfTestEnd .tuiquelLane loc false) s = .next t ∧
    t.fab.planes = s.fab.planes &&& ~~~(1#144 <<< loc.toNat) ∧ (.tuiquelLane, loc) ∈ t.trust.retired) ∧
  (∀ (s : State) (k : Fin 192), (s.core k.val).flips = [] → ∃ t, exec (.frequencyDecay k.val) s = .next t ∧ t.tsc = s.tick.tsc ∧
    (t.core k.val).freq = (if (t.tsc - (s.core k.val).decayed).toNat < 100000 then (s.core k.val).freq
      else if (s.core k.val).freq < 27 then (if Config.overLimit s.tick.ticks (dieOfCore k.val) then (s.core k.val).freq
        else (s.core k.val).freq + 1) else if 27 < (s.core k.val).freq
      then (s.core k.val).freq - 1 else (s.core k.val).freq) ∧ (∀ j, j ≠ k.val → t.core j = s.core j) ∧ t.slices = s.slices) ∧
  (∀ (s : State) (d : Fin 4), ∃ t, exec (.tempThrottle (.compute d)) s = .next t ∧ (∀ k : Fin 192, t.core k.val = { s.core k.val with
    freq := (s.core k.val).freq - if k.val / 48 = d.val ∧ 22 < (s.core k.val).freq then 1 else 0 }) ∧
    ({ t with cores := s.cores } : State) = s) ∧
  (∀ (s : State) die, (∀ d, die ≠ .compute d) → exec (.tempThrottle die) s = .next s) ∧
  (∀ s : State, ∃ t, exec .pcapLimitReached s = .next t ∧ (∀ k : Fin 192, t.core k.val = { s.core k.val with
    freq := (s.core k.val).freq - if 22 < (s.core k.val).freq then 1 else 0 }) ∧ ({ t with cores := s.cores } : State) = s) ∧
  (∀ (s : State) die, ∃ t e, exec (.tempShutdown die) s = .next t ∧ t.trust.power = .shutdown ∧ t.slices = [] ∧ t.txns = [] ∧
    t.trust.log = (e :: s.trust.log).take 4096) ∧
  (∀ (s : State) stack, exec (.hbmTempRefresh stack) s =
    .next { s with trust := { s.trust with hbmHot := s.trust.hbmHot ||| (1#8 <<< stack.val) } }) ∧
  (∀ (s : State) w, (1500 ≤ w → w ≤ 3600 → exec (.pcapSet w) s = .next { s with trust := { s.trust with pcap := w } }) ∧
    (w < 1500 ∨ 3600 < w → exec (.pcapSet w) s = .next s)) ∧
  ∀ a b s, exec (.dieToDieLinkRetraining a b) s = .next s

/-! ## Every step -/

/-- Every step keeps the canonical form of every memory of the machine: the HBM, the dies' caches, each core's scratchpad, accumulators
and B-stack, the host's memory, the endpoint table, the shells and the saved presences (R3). The form is the model's own (log 5). -/
def Obligations.StepKeepsMemory : Prop :=
  ∀ s t : State, s.memWf = true → step s = .next t → t.memWf = true
end

