-- ==== Sys2Proof/Laws/Fields.lean ====
section
/-! SUPPORT. The field decoders undo the field encoders of Decode.lean, and a word is its four bytes (R56–R61). -/

set_option Elab.async false

namespace Sys2Proof

/-- The bytes of a word laid out by `Raw.word` are read back as its fields (R61). -/
@[simp] theorem Raw.ofWord_word (op d a b : BitVec 8) (exts : List Word) :
    Raw.ofWord (Raw.word op d a b) exts = ⟨op, d, a, b, exts⟩ := by
  simp only [Raw.ofWord, Raw.word, Raw.mk.injEq, and_true]
  have p : ∀ i, BitVec.getLsbD (w := 32) (op ++ d ++ a ++ b) i = if i < 8 then b.getLsbD i else
      if i < 16 then a.getLsbD (i - 8) else if i < 24 then d.getLsbD (i - 16) else op.getLsbD (i - 24) := by
    intro i
    have p1 : ∀ (x : BitVec 24) (y : BitVec 8) j, BitVec.getLsbD (w := 32) (x ++ y) j =
        if j < 8 then y.getLsbD j else x.getLsbD (j - 8) := fun _ _ _ => BitVec.getLsbD_append
    have p2 : ∀ (x : BitVec 16) (y : BitVec 8) j, BitVec.getLsbD (w := 24) (x ++ y) j =
        if j < 8 then y.getLsbD j else x.getLsbD (j - 8) := fun _ _ _ => BitVec.getLsbD_append
    have p3 : ∀ (x : BitVec 8) (y : BitVec 8) j, BitVec.getLsbD (w := 16) (x ++ y) j =
        if j < 8 then y.getLsbD j else x.getLsbD (j - 8) := fun _ _ _ => BitVec.getLsbD_append
    simp only [p1, p2, p3]
    grind
  refine ⟨?_, ?_, ?_, ?_⟩ <;> ext i hi <;> simp only [BitVec.getElem_extractLsb', p] <;> grind

@[simp] theorem Dec.fn_ap {α β : Type} (f : α → β) (x : α) : (Dec.fn f).ap (.ok x) = .ok (f x) := rfl
@[simp] theorem Dec.ok_ap {α β : Type} (f : α → β) (x : α) : Dec.ap (.ok f) (.ok x) = .ok (f x) := rfl
@[simp] theorem Dec.fn_chk {α : Type} (x : α) : (Dec.fn x).chk (.ok ()) = .ok x := rfl
@[simp] theorem Dec.ok_chk {α : Type} (x : α) : Dec.chk (.ok x) (.ok ()) = .ok x := rfl
@[simp] theorem Dec.zero_zero : Dec.zero 0#8 = .ok () := rfl
@[simp] theorem Dec.noExt_nil : Dec.noExt [] = .ok () := rfl
@[simp] theorem Dec.lit_one (w : Word) : Dec.lit [w] = .ok w := rfl
@[simp] theorem Dec.litFirst_cons (w : Word) (t : List Word) : Dec.litFirst (w :: t) = .ok w := rfl

/-! ### Registers (R59, R60, R77, R107) -/

@[simp] theorem Dec.vsrc_enc (x : VSrc) : Dec.vsrc (encVSrc x) = .ok x := by
  obtain ⟨r, t⟩ := x
  cases r with
  | v n => revert n t; decide +kernel
  | o n => revert n t; decide +kernel
  | w n => revert n t; decide +kernel
  | z => revert t; decide +kernel
  | laneId => revert t; decide +kernel
  | sliceIdx => revert t; decide +kernel

theorem VReg.forall_of {P : VReg → Prop} (hv : ∀ n, P (.v n)) (ho : ∀ n, P (.o n)) (r : VReg) : P r := by
  cases r with
  | v n => exact hv n
  | o n => exact ho n

@[simp] theorem Dec.vdst_enc (x : VDst) : Dec.vdst (encVDst x) = .ok x := by
  obtain ⟨r, t⟩ := x
  cases r with
  | v n => revert n t; decide +kernel
  | o n => revert n t; decide +kernel

@[simp] theorem Dec.vfill_enc (x : VReg) : Dec.vfill (encVFill x) = .ok x := by
  cases x with
  | v n => revert n; decide +kernel
  | o n => revert n; decide +kernel

@[simp] theorem Dec.vpair_enc (x : VPairSrc) : Dec.vpair (encVPair x) = .ok x := by
  obtain ⟨r, t⟩ := x
  cases r with
  | v n => revert n t; decide +kernel
  | o n => revert n t; decide +kernel
  | w n => revert n t; decide +kernel

@[simp] theorem Dec.vpairDst_enc (x : VPairDst) : Dec.vpairDst (encVPairDst x) = .ok x := by
  obtain ⟨r, t⟩ := x
  cases r with
  | v n => revert n t; decide +kernel
  | o n => revert n t; decide +kernel

@[simp] theorem Dec.vpairFill_enc (x : VPairReg) : Dec.vpairFill (encVPairFill x) = .ok x := by
  cases x with
  | v n => revert n; decide +kernel
  | o n => revert n; decide +kernel

@[simp] theorem Dec.ssrc_enc (x : SSrc) : Dec.ssrc (encSSrc x) = .ok x := by
  obtain ⟨r, t⟩ := x
  cases r with
  | s n => revert n t; decide +kernel
  | z => revert t; decide +kernel
  | sliceIdx => revert t; decide +kernel

@[simp] theorem Dec.sdst_enc (x : SReg) : Dec.sdst (encSDst x) = .ok x := by revert x; decide +kernel

@[simp] theorem Dec.spair_enc (x : SPairSrc) : Dec.spair (encSPair x) = .ok x := by
  obtain ⟨r, t⟩ := x
  cases r with
  | none => revert t; decide +kernel
  | some n => revert n t; decide +kernel

@[simp] theorem Dec.spairDst_enc (x : SPairReg) : Dec.spairDst (encSPairDst x) = .ok x := by revert x; decide +kernel

/-! ### Immediates -/

@[simp] theorem Dec.imm_enc {n : Nat} (x : Fin n) (h : n ≤ 256) : Dec.imm n (encImm x) = .ok x := by
  have : x.val % 256 = x.val := by omega
  simp [Dec.imm, encImm, this]

@[simp] theorem Dec.bit_enc (x : Bool) : Dec.bit (encBit x) = .ok x := by revert x; decide
@[simp] theorem Dec.tile_enc (x : Tile) : Dec.tile (encTile x) = .ok x := rfl
@[simp] theorem Dec.tilePair_enc (x : TilePair) : Dec.tilePair (encTilePair x) = .ok x := by revert x; decide +kernel
@[simp] theorem Dec.csr_enc (x : Csr) : Dec.csr (encCsr x) = .ok x := by cases x <;> rfl

@[simp] theorem Dec.icmp_enc (x : ICmp) : Dec.icmp (encICmp x) = .ok x := by
  obtain ⟨c, p⟩ := x; cases c <;> revert p <;> decide +kernel
@[simp] theorem Dec.fcmp_enc (x : FCmp) : Dec.fcmp (encFCmp x) = .ok x := by
  obtain ⟨c, p⟩ := x; cases c <;> revert p <;> decide +kernel
@[simp] theorem Dec.plogD_enc (x : PLogD) : Dec.plogD (encPLogD x) = .ok x := by
  obtain ⟨c, p⟩ := x; cases c <;> revert p <;> decide +kernel
@[simp] theorem Dec.cvtF_enc (x : CvtF) : Dec.cvtF (encCvtF x) = .ok x := by
  obtain ⟨k, f⟩ := x; cases f <;> revert k <;> decide +kernel
@[simp] theorem Dec.cvtI_enc (x : CvtI) : Dec.cvtI (encCvtI x) = .ok x := by
  obtain ⟨k, f⟩ := x; cases f <;> revert k <;> decide +kernel
@[simp] theorem Dec.unpkB_enc (x : UnpkB) : Dec.unpkB (encUnpkB x) = .ok x := by
  obtain ⟨a, b⟩ := x; revert a b; decide +kernel
@[simp] theorem Dec.cbdB_enc (x : CbdB) (h : x.ok = true) : Dec.cbdB (encCbdB x) = .ok x := by
  obtain ⟨f, k⟩ := x; revert h; cases f <;> revert k <;> decide +kernel
@[simp] theorem Dec.scanB_enc (x : ScanB) : Dec.scanB (encScanB x) = .ok x := by
  obtain ⟨g, e, o⟩ := x; cases o <;> revert g e <;> decide +kernel
@[simp] theorem Dec.redB_enc (x : RedB) : Dec.redB (encRedB x) = .ok x := by
  obtain ⟨g, o⟩ := x; cases o <;> revert g <;> decide +kernel
@[simp] theorem Dec.memImm_enc (x : MemImm) : Dec.memImm (encMemImm x) = .ok x := by
  obtain ⟨h, s⟩ := x; cases s <;> revert h <;> decide +kernel
@[simp] theorem Dec.hintOnly_enc (x : Hint) : Dec.hintOnly (encHintOnly x) = .ok x := by revert x; decide +kernel
@[simp] theorem Dec.prefImm_enc (x : PrefImm) : Dec.prefImm (encPrefImm x) = .ok x := by
  obtain ⟨h, l⟩ := x; cases l <;> revert h <;> decide +kernel
@[simp] theorem Dec.crewField_enc (x : Option (Fin 32)) : Dec.crewField (encCrewField x) = .ok x := by
  revert x; decide +kernel
@[simp] theorem Dec.cmdImm_enc (x : CmdImm) : Dec.cmdImm (encCmdImm x) = .ok x := by
  obtain ⟨c, q⟩ := x; revert c q; decide +kernel
@[simp] theorem Dec.shldImm_enc (x : ShldImm) : Dec.shldImm (encShldImm x) = .ok x := by
  obtain ⟨t, c, q⟩ := x; revert t c q; decide +kernel
@[simp] theorem Dec.qmask_enc (x : QMask) (h : x.ok = true) : Dec.qmask (encQMask x) = .ok x := by
  obtain ⟨m⟩ := x; revert m; decide +kernel
@[simp] theorem Dec.rwSel_enc (x : RwSel) : Dec.rwSel (encRwSel x) = .ok x := by
  cases x with
  | rule n => revert n; decide +kernel
  | _ => rfl
@[simp] theorem Dec.amxrImm_enc (x : AmOp) : Dec.amxrImm (encAmxrImm x) = .ok x := by cases x <;> rfl
@[simp] theorem Dec.amxImm_enc (x : AmxImm) (h : x.ok = true) : Dec.amxImm (encAmxImm x) = .ok x := by
  obtain ⟨o, m⟩ := x; revert h; cases o <;> revert m <;> decide +kernel
@[simp] theorem Dec.wakeD_enc (x : WakeD) : Dec.wakeD (encWakeD x) = .ok x := by
  obtain ⟨m, d⟩ := x; revert m d; decide +kernel
@[simp] theorem Dec.feSrc_enc (x : FeSrc) : Dec.feSrc x.isScl x.field = .ok x := by
  cases x <;> simp [Dec.feSrc, FeSrc.isScl, FeSrc.field, Dec.ap, Dec.fn]
@[simp] theorem encBit_bit0 (x : Bool) : (encBit x)[0] = x := by revert x; decide

@[simp] theorem Dec.scope_code (x : Scope) : Dec.scope x.code.toNat = .ok x := by cases x <;> rfl
@[simp] theorem Dec.hint_code (x : Hint) : Dec.hint (hintCode x) = .ok x := by revert x; decide +kernel

/-! ### Extension words -/

/-- A bit of a modifier word, layout by layout (R57). -/
theorem encModifier_bit (m : Modifier) (i : Nat) : (encModifier m).getLsbD i =
    if i < 1 then m.absa && decide (i = 0)
    else if i < 2 then m.nega && decide (i = 1)
    else if i < 3 then m.absb && decide (i = 2)
    else if i < 4 then m.negb && decide (i = 3)
    else if i < 8 then false
    else if i < 14 then m.scale.getLsbD (i - 8)
    else if i < 20 then false
    else if i < 21 then m.sat && decide (i = 20)
    else if i < 27 then m.cls.getLsbD (i - 21)
    else m.clmp && decide (i = 27) := by
  have p0 : ∀ (x : BitVec 4) (y : BitVec 1) j, BitVec.getLsbD (w := 5) (x ++ y) j =
      if j < 1 then y.getLsbD j else x.getLsbD (j - 1) := fun _ _ _ => BitVec.getLsbD_append
  have p1 : ∀ (x : BitVec 5) (y : BitVec 6) j, BitVec.getLsbD (w := 11) (x ++ y) j =
      if j < 6 then y.getLsbD j else x.getLsbD (j - 6) := fun _ _ _ => BitVec.getLsbD_append
  have p2 : ∀ (x : BitVec 11) (y : BitVec 1) j, BitVec.getLsbD (w := 12) (x ++ y) j =
      if j < 1 then y.getLsbD j else x.getLsbD (j - 1) := fun _ _ _ => BitVec.getLsbD_append
  have p3 : ∀ (x : BitVec 12) (y : BitVec 6) j, BitVec.getLsbD (w := 18) (x ++ y) j =
      if j < 6 then y.getLsbD j else x.getLsbD (j - 6) := fun _ _ _ => BitVec.getLsbD_append
  have p4 : ∀ (x : BitVec 18) (y : BitVec 6) j, BitVec.getLsbD (w := 24) (x ++ y) j =
      if j < 6 then y.getLsbD j else x.getLsbD (j - 6) := fun _ _ _ => BitVec.getLsbD_append
  have p5 : ∀ (x : BitVec 24) (y : BitVec 4) j, BitVec.getLsbD (w := 28) (x ++ y) j =
      if j < 4 then y.getLsbD j else x.getLsbD (j - 4) := fun _ _ _ => BitVec.getLsbD_append
  have p6 : ∀ (x : BitVec 28) (y : BitVec 1) j, BitVec.getLsbD (w := 29) (x ++ y) j =
      if j < 1 then y.getLsbD j else x.getLsbD (j - 1) := fun _ _ _ => BitVec.getLsbD_append
  have p7 : ∀ (x : BitVec 29) (y : BitVec 1) j, BitVec.getLsbD (w := 30) (x ++ y) j =
      if j < 1 then y.getLsbD j else x.getLsbD (j - 1) := fun _ _ _ => BitVec.getLsbD_append
  have p8 : ∀ (x : BitVec 30) (y : BitVec 1) j, BitVec.getLsbD (w := 31) (x ++ y) j =
      if j < 1 then y.getLsbD j else x.getLsbD (j - 1) := fun _ _ _ => BitVec.getLsbD_append
  have p9 : ∀ (x : BitVec 31) (y : BitVec 1) j, BitVec.getLsbD (w := 32) (x ++ y) j =
      if j < 1 then y.getLsbD j else x.getLsbD (j - 1) := fun _ _ _ => BitVec.getLsbD_append
  have q : ∀ (c : Bool) j, (BitVec.ofBool c).getLsbD j = (c && decide (j = 0)) := by
    intro c j; cases c <;> simp
  simp only [encModifier, p0, p1, p2, p3, p4, p5, p6, p7, p8, p9, q, BitVec.getLsbD_zero]
  clear p0 p1 p2 p3 p4 p5 p6 p7 p8 p9 q
  by_cases h : i < 28
  · interval_cases i <;> simp
  · have : ¬ i = 27 := by omega
    repeat rw [if_neg (by omega)]
    rw [decide_eq_false this]
    grind

@[simp] theorem Dec.modifier_enc (acc : ModAccept) (m : Modifier) (h : m.ok acc = true) :
    Dec.modifier acc (encModifier m) = .ok m := by
  have e : (⟨(encModifier m).getLsbD 27, (encModifier m).extractLsb' 21 6, (encModifier m).getLsbD 20,
      (encModifier m).extractLsb' 8 6, (encModifier m).getLsbD 3, (encModifier m).getLsbD 2, (encModifier m).getLsbD 1,
      (encModifier m).getLsbD 0⟩ : Modifier) = m := by
    have h1 : (encModifier m).extractLsb' 21 6 = m.cls := by
      ext i hi; simp [encModifier_bit]; grind
    have h2 : (encModifier m).extractLsb' 8 6 = m.scale := by
      ext i hi; simp [encModifier_bit]; grind
    rw [h1, h2]
    simp only [encModifier_bit]
    simp
  have z1 : (encModifier m).extractLsb' 28 4 = 0#4 := by
    ext i hi; simp [encModifier_bit]; grind
  have z2 : (encModifier m).extractLsb' 14 6 = 0#6 := by
    ext i hi; simp [encModifier_bit]; grind
  have z3 : (encModifier m).extractLsb' 4 4 = 0#4 := by
    ext i hi; simp [encModifier_bit]; grind
  simp only [Dec.modifier, e, z1, z2, z3, h, true_and, if_true]

@[simp] theorem Dec.mod_enc (acc : ModAccept) (m : Option Modifier) (h : modOk acc m = true) :
    Dec.mod acc (encMod m) = .ok m := by
  cases m with
  | none => rfl
  | some m => simp [Dec.mod, encMod, Dec.modifier_enc acc m h]

@[simp] theorem Dec.offsets_enc (o : BrOffsets) : Dec.offsets [encOffsets o] = .ok o := by
  obtain ⟨t, j⟩ := o
  simp only [Dec.offsets, Dec.lit_one, Dec.fn_ap, encOffsets, Except.ok.injEq, BrOffsets.mk.injEq]
  have p : ∀ i, BitVec.getLsbD (w := 32) (t ++ j) i = if i < 16 then j.getLsbD i else t.getLsbD (i - 16) :=
    fun _ => BitVec.getLsbD_append
  constructor <;> ext i hi <;> simp [p, hi]

@[simp] theorem Dec.modeLit_enc (w : Word) (h : modeLegal w = true) : Dec.modeLit [w] = .ok w := by simp [Dec.modeLit, h]

/-- The fields of an atomic's literal are read back (R156). -/
theorem atomFields (a : BitVec 8) (c d f : BitVec 3) (e g : BitVec 2) (r : Bool) (w : Word)
    (hw : w = a ++ 0#5 ++ c ++ d ++ e ++ f ++ g ++ BitVec.ofBool r ++ 0#5) :
    w.extractLsb' 24 8 = a ∧ w.extractLsb' 19 5 = 0#5 ∧ w.extractLsb' 16 3 = c ∧ w.extractLsb' 13 3 = d ∧
    w.extractLsb' 11 2 = e ∧ w.extractLsb' 8 3 = f ∧ w.extractLsb' 6 2 = g ∧ w.getLsbD 5 = r ∧
    w.extractLsb' 0 5 = 0#5 := by
  have p : ∀ i, w.getLsbD i = if i < 5 then false else if i < 6 then (r && decide (i = 5)) else
      if i < 8 then g.getLsbD (i - 6) else if i < 11 then f.getLsbD (i - 8) else if i < 13 then e.getLsbD (i - 11) else
      if i < 16 then d.getLsbD (i - 13) else if i < 19 then c.getLsbD (i - 16) else if i < 24 then false else
      a.getLsbD (i - 24) := by
    intro i
    have p0 : ∀ (x : BitVec 8) (y : BitVec 5) j, BitVec.getLsbD (w := 13) (x ++ y) j =
        if j < 5 then y.getLsbD j else x.getLsbD (j - 5) := fun _ _ _ => BitVec.getLsbD_append
    have p1 : ∀ (x : BitVec 13) (y : BitVec 3) j, BitVec.getLsbD (w := 16) (x ++ y) j =
        if j < 3 then y.getLsbD j else x.getLsbD (j - 3) := fun _ _ _ => BitVec.getLsbD_append
    have p2 : ∀ (x : BitVec 16) (y : BitVec 3) j, BitVec.getLsbD (w := 19) (x ++ y) j =
        if j < 3 then y.getLsbD j else x.getLsbD (j - 3) := fun _ _ _ => BitVec.getLsbD_append
    have p3 : ∀ (x : BitVec 19) (y : BitVec 2) j, BitVec.getLsbD (w := 21) (x ++ y) j =
        if j < 2 then y.getLsbD j else x.getLsbD (j - 2) := fun _ _ _ => BitVec.getLsbD_append
    have p4 : ∀ (x : BitVec 21) (y : BitVec 3) j, BitVec.getLsbD (w := 24) (x ++ y) j =
        if j < 3 then y.getLsbD j else x.getLsbD (j - 3) := fun _ _ _ => BitVec.getLsbD_append
    have p5 : ∀ (x : BitVec 24) (y : BitVec 2) j, BitVec.getLsbD (w := 26) (x ++ y) j =
        if j < 2 then y.getLsbD j else x.getLsbD (j - 2) := fun _ _ _ => BitVec.getLsbD_append
    have p6 : ∀ (x : BitVec 26) (y : BitVec 1) j, BitVec.getLsbD (w := 27) (x ++ y) j =
        if j < 1 then y.getLsbD j else x.getLsbD (j - 1) := fun _ _ _ => BitVec.getLsbD_append
    have p7 : ∀ (x : BitVec 27) (y : BitVec 5) j, BitVec.getLsbD (w := 32) (x ++ y) j =
        if j < 5 then y.getLsbD j else x.getLsbD (j - 5) := fun _ _ _ => BitVec.getLsbD_append
    have q : ∀ (c : Bool) j, (BitVec.ofBool c).getLsbD j = (c && decide (j = 0)) := by
      intro c j; cases c <;> simp
    rw [hw]
    simp only [p0, p1, p2, p3, p4, p5, p6, p7, q, BitVec.getLsbD_zero]
    clear p0 p1 p2 p3 p4 p5 p6 p7 q
    by_cases h : i < 24
    · interval_cases i <;> simp
    · grind
  clear hw
  refine ⟨?_, ?_, ?_, ?_, ?_, ?_, ?_, ?_, ?_⟩
  case refine_8 => simp only [p]; simp
  all_goals ext i hi; simp only [BitVec.getElem_extractLsb', p, BitVec.getElem_zero]; grind

/-- RET is bit [5] (R156). -/
@[simp] theorem encAtomLit_ret (ret : Bool) (l : AtomLit) : (encAtomLit ret l).getLsbD 5 = ret :=
  (atomFields _ _ _ _ _ _ _ _ rfl).2.2.2.2.2.2.2.1

@[simp] theorem Dec.atomWord_enc (op : AtomOp) (ret : Bool) (l : AtomLit) (h : l.ok op = true) :
    Dec.atomWord op (encAtomLit ret l) = .ok l := by
  obtain ⟨h1, h2, h3, h4, h5, h6, h7, -, h9⟩ := atomFields _ _ _ _ _ _ _ _ (rfl : encAtomLit ret l = _)
  simp only [Dec.atomWord, h1, h2, h3, h4, h5, h6, h7, h9, Dec.vsrc_enc, Dec.scope_code, Dec.hint_code]
  obtain ⟨off, sc, hi, o, u, t⟩ := l
  cases o <;> cases u <;> cases t <;> simp [h]

@[simp] theorem Dec.atomLit_enc (op : AtomOp) (ret : Bool) (l : AtomLit) (h : l.ok op = true) :
    Dec.atomLit op [encAtomLit ret l] = .ok l := Dec.atomWord_enc op ret l h

@[simp] theorem Dec.atomD_enc (op a b : BitVec 8) (d : Option VReg) (l : AtomLit) :
    Dec.atomD ⟨op, encAtomDst d, a, b, [encAtomLit d.isSome l]⟩ = .ok d := by
  cases d with
  | none => simp only [Dec.atomD, atomRet, encAtomLit_ret, Option.isSome_none, Dec.atomDst, encAtomDst]; rfl
  | some r => simp only [Dec.atomD, atomRet, encAtomLit_ret, Option.isSome_some, Dec.atomDst, encAtomDst]; simp

end Sys2Proof
end

