-- ==== Sys2Proof/Laws/FieldsInv.lean ====
section
/-! SUPPORT. A field that decodes is the field its value encodes to (R56–R61): with Laws/Fields.lean, no two values share a field. -/

set_option Elab.async false

namespace Sys2Proof

/-- Whether an encoder gives back every field byte its decoder accepts. -/
def Dec.exact {α : Type} (d : BitVec 8 → Dec α) (e : α → BitVec 8) : Bool :=
  (List.range 256).all fun n => match d (BitVec.ofNat 8 n) with
    | .ok y => e y == BitVec.ofNat 8 n
    | .error _ => true

/-- What `Dec.exact` says of one field. -/
theorem Dec.of_exact {α : Type} {d : BitVec 8 → Dec α} {e : α → BitVec 8} (h : Dec.exact d e = true) {x : BitVec 8} {y : α}
    (hx : d x = .ok y) : e y = x := by
  have h' := List.all_eq_true.mp h x.toNat (by simpa using x.isLt)
  simpa [hx] using h'

theorem Dec.vsrc_inv {x : BitVec 8} {y} (h : Dec.vsrc x = .ok y) : encVSrc y = x := Dec.of_exact (by decide +kernel) h

theorem Dec.vdst_inv {x : BitVec 8} {y} (h : Dec.vdst x = .ok y) : encVDst y = x := Dec.of_exact (by decide +kernel) h

theorem Dec.vfill_inv {x : BitVec 8} {y} (h : Dec.vfill x = .ok y) : encVFill y = x := Dec.of_exact (by decide +kernel) h

theorem Dec.vpair_inv {x : BitVec 8} {y} (h : Dec.vpair x = .ok y) : encVPair y = x := Dec.of_exact (by decide +kernel) h

theorem Dec.vpairDst_inv {x : BitVec 8} {y} (h : Dec.vpairDst x = .ok y) : encVPairDst y = x := Dec.of_exact (by decide +kernel) h

theorem Dec.vpairFill_inv {x : BitVec 8} {y} (h : Dec.vpairFill x = .ok y) : encVPairFill y = x := Dec.of_exact (by decide +kernel) h

theorem Dec.ssrc_inv {x : BitVec 8} {y} (h : Dec.ssrc x = .ok y) : encSSrc y = x := Dec.of_exact (by decide +kernel) h

theorem Dec.sdst_inv {x : BitVec 8} {y} (h : Dec.sdst x = .ok y) : encSDst y = x := Dec.of_exact (by decide +kernel) h

theorem Dec.spair_inv {x : BitVec 8} {y} (h : Dec.spair x = .ok y) : encSPair y = x := Dec.of_exact (by decide +kernel) h

theorem Dec.spairDst_inv {x : BitVec 8} {y} (h : Dec.spairDst x = .ok y) : encSPairDst y = x := Dec.of_exact (by decide +kernel) h

theorem Dec.bit_inv {x : BitVec 8} {y} (h : Dec.bit x = .ok y) : encBit y = x := Dec.of_exact (by decide +kernel) h

theorem Dec.tile_inv {x : BitVec 8} {y} (h : Dec.tile x = .ok y) : encTile y = x := Dec.of_exact (by decide +kernel) h

theorem Dec.tilePair_inv {x : BitVec 8} {y} (h : Dec.tilePair x = .ok y) : encTilePair y = x := Dec.of_exact (by decide +kernel) h

theorem Dec.csr_inv {x : BitVec 8} {y} (h : Dec.csr x = .ok y) : encCsr y = x := Dec.of_exact (by decide +kernel) h

theorem Dec.icmp_inv {x : BitVec 8} {y} (h : Dec.icmp x = .ok y) : encICmp y = x := Dec.of_exact (by decide +kernel) h

theorem Dec.fcmp_inv {x : BitVec 8} {y} (h : Dec.fcmp x = .ok y) : encFCmp y = x := Dec.of_exact (by decide +kernel) h

theorem Dec.plogD_inv {x : BitVec 8} {y} (h : Dec.plogD x = .ok y) : encPLogD y = x := Dec.of_exact (by decide +kernel) h

theorem Dec.cvtF_inv {x : BitVec 8} {y} (h : Dec.cvtF x = .ok y) : encCvtF y = x := Dec.of_exact (by decide +kernel) h

theorem Dec.cvtI_inv {x : BitVec 8} {y} (h : Dec.cvtI x = .ok y) : encCvtI y = x := Dec.of_exact (by decide +kernel) h

theorem Dec.unpkB_inv {x : BitVec 8} {y} (h : Dec.unpkB x = .ok y) : encUnpkB y = x := Dec.of_exact (by decide +kernel) h

theorem Dec.cbdB_inv {x : BitVec 8} {y} (h : Dec.cbdB x = .ok y) : encCbdB y = x := Dec.of_exact (by decide +kernel) h

theorem Dec.scanB_inv {x : BitVec 8} {y} (h : Dec.scanB x = .ok y) : encScanB y = x := Dec.of_exact (by decide +kernel) h

theorem Dec.redB_inv {x : BitVec 8} {y} (h : Dec.redB x = .ok y) : encRedB y = x := Dec.of_exact (by decide +kernel) h

theorem Dec.memImm_inv {x : BitVec 8} {y} (h : Dec.memImm x = .ok y) : encMemImm y = x := Dec.of_exact (by decide +kernel) h

theorem Dec.hintOnly_inv {x : BitVec 8} {y} (h : Dec.hintOnly x = .ok y) : encHintOnly y = x := Dec.of_exact (by decide +kernel) h

theorem Dec.prefImm_inv {x : BitVec 8} {y} (h : Dec.prefImm x = .ok y) : encPrefImm y = x := Dec.of_exact (by decide +kernel) h

theorem Dec.crewField_inv {x : BitVec 8} {y} (h : Dec.crewField x = .ok y) : encCrewField y = x := Dec.of_exact (by decide +kernel) h

theorem Dec.cmdImm_inv {x : BitVec 8} {y} (h : Dec.cmdImm x = .ok y) : encCmdImm y = x := Dec.of_exact (by decide +kernel) h

theorem Dec.shldImm_inv {x : BitVec 8} {y} (h : Dec.shldImm x = .ok y) : encShldImm y = x := Dec.of_exact (by decide +kernel) h

theorem Dec.qmask_inv {x : BitVec 8} {y} (h : Dec.qmask x = .ok y) : encQMask y = x := Dec.of_exact (by decide +kernel) h

theorem Dec.rwSel_inv {x : BitVec 8} {y} (h : Dec.rwSel x = .ok y) : encRwSel y = x := Dec.of_exact (by decide +kernel) h

theorem Dec.amxrImm_inv {x : BitVec 8} {y} (h : Dec.amxrImm x = .ok y) : encAmxrImm y = x := Dec.of_exact (by decide +kernel) h

theorem Dec.amxImm_inv {x : BitVec 8} {y} (h : Dec.amxImm x = .ok y) : encAmxImm y = x := Dec.of_exact (by decide +kernel) h

theorem Dec.wakeD_inv {x : BitVec 8} {y} (h : Dec.wakeD x = .ok y) : encWakeD y = x := Dec.of_exact (by decide +kernel) h

theorem Dec.imm_inv {n : Nat} {x : BitVec 8} {y : Fin n} (h : Dec.imm n x = .ok y) : encImm y = x := by
  unfold Dec.imm at h
  split at h
  · injection h with h
    subst h
    simp [encImm]
  · cases h

/-! ### When a decoder accepts -/

theorem Dec.ap_ok {α β : Type} (f : Dec (α → β)) (x : Dec α) (y : β) : f.ap x = .ok y ↔ ∃ g, f = .ok g ∧ ∃ v, x = .ok v ∧ g v = y := by
  cases f <;> cases x <;> simp [Dec.ap]
theorem Dec.chk_ok {α : Type} (x : Dec α) (c : Dec Unit) (y : α) : x.chk c = .ok y ↔ x = .ok y ∧ c = .ok () := by
  cases x <;> cases c <;> simp [Dec.chk]
theorem Dec.fn_ok {α : Type} (f y : α) : Dec.fn f = .ok y ↔ f = y := by simp [Dec.fn]
theorem Dec.zero_ok (x : BitVec 8) (u : Unit) : Dec.zero x = .ok u ↔ x = 0#8 := by unfold Dec.zero; split <;> simp_all
theorem Dec.noExt_ok (e : List Word) (u : Unit) : Dec.noExt e = .ok u ↔ e = [] := by cases e <;> simp [Dec.noExt]
theorem Dec.lit_ok (e : List Word) (w : Word) : Dec.lit e = .ok w ↔ e = [w] := by
  rcases e with _|⟨a,_|⟨b,t⟩⟩ <;> simp [Dec.lit]
theorem Dec.imm_ok {n : Nat} {x : BitVec 8} {y : Fin n} (h : n ≤ 256) : Dec.imm n x = .ok y ↔ encImm y = x := ⟨Dec.imm_inv, by rintro rfl; simp [h]⟩
theorem Dec.vsrc_ok (x y) : Dec.vsrc x = .ok y ↔ encVSrc y = x := ⟨Dec.vsrc_inv, by rintro rfl; simp⟩
theorem Dec.vdst_ok (x y) : Dec.vdst x = .ok y ↔ encVDst y = x := ⟨Dec.vdst_inv, by rintro rfl; simp⟩
theorem Dec.vfill_ok (x y) : Dec.vfill x = .ok y ↔ encVFill y = x := ⟨Dec.vfill_inv, by rintro rfl; simp⟩
theorem Dec.vpair_ok (x y) : Dec.vpair x = .ok y ↔ encVPair y = x := ⟨Dec.vpair_inv, by rintro rfl; simp⟩
theorem Dec.vpairDst_ok (x y) : Dec.vpairDst x = .ok y ↔ encVPairDst y = x := ⟨Dec.vpairDst_inv, by rintro rfl; simp⟩
theorem Dec.vpairFill_ok (x y) : Dec.vpairFill x = .ok y ↔ encVPairFill y = x := ⟨Dec.vpairFill_inv, by rintro rfl; simp⟩
theorem Dec.ssrc_ok (x y) : Dec.ssrc x = .ok y ↔ encSSrc y = x := ⟨Dec.ssrc_inv, by rintro rfl; simp⟩
theorem Dec.sdst_ok (x y) : Dec.sdst x = .ok y ↔ encSDst y = x := ⟨Dec.sdst_inv, by rintro rfl; simp⟩
theorem Dec.spair_ok (x y) : Dec.spair x = .ok y ↔ encSPair y = x := ⟨Dec.spair_inv, by rintro rfl; simp⟩
theorem Dec.spairDst_ok (x y) : Dec.spairDst x = .ok y ↔ encSPairDst y = x := ⟨Dec.spairDst_inv, by rintro rfl; simp⟩
theorem Dec.bit_ok (x y) : Dec.bit x = .ok y ↔ encBit y = x := ⟨Dec.bit_inv, by rintro rfl; simp⟩
theorem Dec.tile_ok (x y) : Dec.tile x = .ok y ↔ encTile y = x := ⟨Dec.tile_inv, by rintro rfl; simp⟩
theorem Dec.tilePair_ok (x y) : Dec.tilePair x = .ok y ↔ encTilePair y = x := ⟨Dec.tilePair_inv, by rintro rfl; simp⟩
theorem Dec.csr_ok (x y) : Dec.csr x = .ok y ↔ encCsr y = x := ⟨Dec.csr_inv, by rintro rfl; simp⟩
theorem Dec.icmp_ok (x y) : Dec.icmp x = .ok y ↔ encICmp y = x := ⟨Dec.icmp_inv, by rintro rfl; simp⟩
theorem Dec.fcmp_ok (x y) : Dec.fcmp x = .ok y ↔ encFCmp y = x := ⟨Dec.fcmp_inv, by rintro rfl; simp⟩
theorem Dec.plogD_ok (x y) : Dec.plogD x = .ok y ↔ encPLogD y = x := ⟨Dec.plogD_inv, by rintro rfl; simp⟩
theorem Dec.cvtF_ok (x y) : Dec.cvtF x = .ok y ↔ encCvtF y = x := ⟨Dec.cvtF_inv, by rintro rfl; simp⟩
theorem Dec.cvtI_ok (x y) : Dec.cvtI x = .ok y ↔ encCvtI y = x := ⟨Dec.cvtI_inv, by rintro rfl; simp⟩
theorem Dec.unpkB_ok (x y) : Dec.unpkB x = .ok y ↔ encUnpkB y = x := ⟨Dec.unpkB_inv, by rintro rfl; simp⟩
theorem Dec.scanB_ok (x y) : Dec.scanB x = .ok y ↔ encScanB y = x := ⟨Dec.scanB_inv, by rintro rfl; simp⟩
theorem Dec.redB_ok (x y) : Dec.redB x = .ok y ↔ encRedB y = x := ⟨Dec.redB_inv, by rintro rfl; simp⟩
theorem Dec.memImm_ok (x y) : Dec.memImm x = .ok y ↔ encMemImm y = x := ⟨Dec.memImm_inv, by rintro rfl; simp⟩
theorem Dec.hintOnly_ok (x y) : Dec.hintOnly x = .ok y ↔ encHintOnly y = x := ⟨Dec.hintOnly_inv, by rintro rfl; simp⟩
theorem Dec.prefImm_ok (x y) : Dec.prefImm x = .ok y ↔ encPrefImm y = x := ⟨Dec.prefImm_inv, by rintro rfl; simp⟩
theorem Dec.crewField_ok (x y) : Dec.crewField x = .ok y ↔ encCrewField y = x := ⟨Dec.crewField_inv, by rintro rfl; simp⟩
theorem Dec.cmdImm_ok (x y) : Dec.cmdImm x = .ok y ↔ encCmdImm y = x := ⟨Dec.cmdImm_inv, by rintro rfl; simp⟩
theorem Dec.shldImm_ok (x y) : Dec.shldImm x = .ok y ↔ encShldImm y = x := ⟨Dec.shldImm_inv, by rintro rfl; simp⟩
theorem Dec.rwSel_ok (x y) : Dec.rwSel x = .ok y ↔ encRwSel y = x := ⟨Dec.rwSel_inv, by rintro rfl; simp⟩
theorem Dec.amxrImm_ok (x y) : Dec.amxrImm x = .ok y ↔ encAmxrImm y = x := ⟨Dec.amxrImm_inv, by rintro rfl; simp⟩
theorem Dec.wakeD_ok (x y) : Dec.wakeD x = .ok y ↔ encWakeD y = x := ⟨Dec.wakeD_inv, by rintro rfl; simp⟩

end Sys2Proof
end

