-- ==== Sys2Proof/Laws/State.lean ====
section
/-! SUPPORT. What each update of the state leaves in each field: one lemma per field per update, so that no later proof unfolds a record
update. -/

set_option Elab.async false

namespace Sys2Proof.Machine

variable (s : State)

/-! ### State.modSlice -/

@[simp] theorem State.modSlice_cur (a : Nat) (f : Slice → Slice) : (s.modSlice a f).cur = s.cur := rfl
@[simp] theorem State.modSlice_agenda (a : Nat) (f : Slice → Slice) : (s.modSlice a f).agenda = s.agenda := rfl
@[simp] theorem State.modSlice_ticks (a : Nat) (f : Slice → Slice) : (s.modSlice a f).ticks = s.ticks := rfl
@[simp] theorem State.modSlice_nextId (a : Nat) (f : Slice → Slice) : (s.modSlice a f).nextId = s.nextId := rfl
@[simp] theorem State.modSlice_gangs (a : Nat) (f : Slice → Slice) : (s.modSlice a f).gangs = s.gangs := rfl
@[simp] theorem State.modSlice_regangs (a : Nat) (f : Slice → Slice) : (s.modSlice a f).regangs = s.regangs := rfl
@[simp] theorem State.modSlice_txns (a : Nat) (f : Slice → Slice) : (s.modSlice a f).txns = s.txns := rfl
@[simp] theorem State.modSlice_waves (a : Nat) (f : Slice → Slice) : (s.modSlice a f).waves = s.waves := rfl
@[simp] theorem State.modSlice_cores (a : Nat) (f : Slice → Slice) : (s.modSlice a f).cores = s.cores := rfl
@[simp] theorem State.modSlice_firstFaults (a : Nat) (f : Slice → Slice) : (s.modSlice a f).firstFaults = s.firstFaults := rfl
@[simp] theorem State.modSlice_tlb (a : Nat) (f : Slice → Slice) : (s.modSlice a f).tlb = s.tlb := rfl
@[simp] theorem State.modSlice_lines (a : Nat) (f : Slice → Slice) : (s.modSlice a f).lines = s.lines := rfl
@[simp] theorem State.modSlice_copies (a : Nat) (f : Slice → Slice) : (s.modSlice a f).copies = s.copies := rfl
@[simp] theorem State.modSlice_cdata (a : Nat) (f : Slice → Slice) : (s.modSlice a f).cdata = s.cdata := rfl
@[simp] theorem State.modSlice_hbm (a : Nat) (f : Slice → Slice) : (s.modSlice a f).hbm = s.hbm := rfl
@[simp] theorem State.modSlice_poison (a : Nat) (f : Slice → Slice) : (s.modSlice a f).poison = s.poison := rfl
@[simp] theorem State.modSlice_sealed (a : Nat) (f : Slice → Slice) : (s.modSlice a f).sealed = s.sealed := rfl
@[simp] theorem State.modSlice_writes (a : Nat) (f : Slice → Slice) : (s.modSlice a f).writes = s.writes := rfl
@[simp] theorem State.modSlice_ilines (a : Nat) (f : Slice → Slice) : (s.modSlice a f).ilines = s.ilines := rfl
@[simp] theorem State.modSlice_octets (a : Nat) (f : Slice → Slice) : (s.modSlice a f).octets = s.octets := rfl
@[simp] theorem State.modSlice_cmds (a : Nat) (f : Slice → Slice) : (s.modSlice a f).cmds = s.cmds := rfl
@[simp] theorem State.modSlice_qfences (a : Nat) (f : Slice → Slice) : (s.modSlice a f).qfences = s.qfences := rfl
@[simp] theorem State.modSlice_tokens (a : Nat) (f : Slice → Slice) : (s.modSlice a f).tokens = s.tokens := rfl
@[simp] theorem State.modSlice_nodes (a : Nat) (f : Slice → Slice) : (s.modSlice a f).nodes = s.nodes := rfl
@[simp] theorem State.modSlice_serving (a : Nat) (f : Slice → Slice) : (s.modSlice a f).serving = s.serving := rfl
@[simp] theorem State.modSlice_tasks (a : Nat) (f : Slice → Slice) : (s.modSlice a f).tasks = s.tasks := rfl
@[simp] theorem State.modSlice_launches (a : Nat) (f : Slice → Slice) : (s.modSlice a f).launches = s.launches := rfl
@[simp] theorem State.modSlice_turns (a : Nat) (f : Slice → Slice) : (s.modSlice a f).turns = s.turns := rfl
@[simp] theorem State.modSlice_parks (a : Nat) (f : Slice → Slice) : (s.modSlice a f).parks = s.parks := rfl
@[simp] theorem State.modSlice_presences (a : Nat) (f : Slice → Slice) : (s.modSlice a f).presences = s.presences := rfl
@[simp] theorem State.modSlice_nextWave (a : Nat) (f : Slice → Slice) : (s.modSlice a f).nextWave = s.nextWave := rfl
@[simp] theorem State.modSlice_online (a : Nat) (f : Slice → Slice) : (s.modSlice a f).online = s.online := rfl
@[simp] theorem State.modSlice_ctxs (a : Nat) (f : Slice → Slice) : (s.modSlice a f).ctxs = s.ctxs := rfl
@[simp] theorem State.modSlice_dbg (a : Nat) (f : Slice → Slice) : (s.modSlice a f).dbg = s.dbg := rfl
@[simp] theorem State.modSlice_tsc (a : Nat) (f : Slice → Slice) : (s.modSlice a f).tsc = s.tsc := rfl
@[simp] theorem State.modSlice_tscPause (a : Nat) (f : Slice → Slice) : (s.modSlice a f).tscPause = s.tscPause := rfl
@[simp] theorem State.modSlice_hostMem (a : Nat) (f : Slice → Slice) : (s.modSlice a f).hostMem = s.hostMem := rfl
@[simp] theorem State.modSlice_fab (a : Nat) (f : Slice → Slice) : (s.modSlice a f).fab = s.fab := rfl
@[simp] theorem State.modSlice_endpoints (a : Nat) (f : Slice → Slice) : (s.modSlice a f).endpoints = s.endpoints := rfl
@[simp] theorem State.modSlice_netReqs (a : Nat) (f : Slice → Slice) : (s.modSlice a f).netReqs = s.netReqs := rfl
@[simp] theorem State.modSlice_netReplies (a : Nat) (f : Slice → Slice) : (s.modSlice a f).netReplies = s.netReplies := rfl
@[simp] theorem State.modSlice_out (a : Nat) (f : Slice → Slice) : (s.modSlice a f).out = s.out := rfl
@[simp] theorem State.modSlice_ldcfg (a : Nat) (f : Slice → Slice) : (s.modSlice a f).ldcfg = s.ldcfg := rfl
@[simp] theorem State.modSlice_cached (a : Nat) (f : Slice → Slice) : (s.modSlice a f).cached = s.cached := rfl
@[simp] theorem State.modSlice_apctl (a : Nat) (f : Slice → Slice) : (s.modSlice a f).apctl = s.apctl := rfl
@[simp] theorem State.modSlice_skipped (a : Nat) (f : Slice → Slice) : (s.modSlice a f).skipped = s.skipped := rfl
@[simp] theorem State.modSlice_reports (a : Nat) (f : Slice → Slice) : (s.modSlice a f).reports = s.reports := rfl
@[simp] theorem State.modSlice_rounds (a : Nat) (f : Slice → Slice) : (s.modSlice a f).rounds = s.rounds := rfl
@[simp] theorem State.modSlice_trust (a : Nat) (f : Slice → Slice) : (s.modSlice a f).trust = s.trust := rfl

/-! ### State.putSlice -/

@[simp] theorem State.putSlice_cur (x : Slice) : (s.putSlice x).cur = s.cur := rfl
@[simp] theorem State.putSlice_agenda (x : Slice) : (s.putSlice x).agenda = s.agenda := rfl
@[simp] theorem State.putSlice_ticks (x : Slice) : (s.putSlice x).ticks = s.ticks := rfl
@[simp] theorem State.putSlice_nextId (x : Slice) : (s.putSlice x).nextId = s.nextId := rfl
@[simp] theorem State.putSlice_slices (x : Slice) : (s.putSlice x).slices = s.slices.map fun y => if y.sid == x.sid then x else y := rfl
@[simp] theorem State.putSlice_gangs (x : Slice) : (s.putSlice x).gangs = s.gangs := rfl
@[simp] theorem State.putSlice_regangs (x : Slice) : (s.putSlice x).regangs = s.regangs := rfl
@[simp] theorem State.putSlice_txns (x : Slice) : (s.putSlice x).txns = s.txns := rfl
@[simp] theorem State.putSlice_waves (x : Slice) : (s.putSlice x).waves = s.waves := rfl
@[simp] theorem State.putSlice_cores (x : Slice) : (s.putSlice x).cores = s.cores := rfl
@[simp] theorem State.putSlice_firstFaults (x : Slice) : (s.putSlice x).firstFaults = s.firstFaults := rfl
@[simp] theorem State.putSlice_tlb (x : Slice) : (s.putSlice x).tlb = s.tlb := rfl
@[simp] theorem State.putSlice_lines (x : Slice) : (s.putSlice x).lines = s.lines := rfl
@[simp] theorem State.putSlice_copies (x : Slice) : (s.putSlice x).copies = s.copies := rfl
@[simp] theorem State.putSlice_cdata (x : Slice) : (s.putSlice x).cdata = s.cdata := rfl
@[simp] theorem State.putSlice_hbm (x : Slice) : (s.putSlice x).hbm = s.hbm := rfl
@[simp] theorem State.putSlice_poison (x : Slice) : (s.putSlice x).poison = s.poison := rfl
@[simp] theorem State.putSlice_sealed (x : Slice) : (s.putSlice x).sealed = s.sealed := rfl
@[simp] theorem State.putSlice_writes (x : Slice) : (s.putSlice x).writes = s.writes := rfl
@[simp] theorem State.putSlice_ilines (x : Slice) : (s.putSlice x).ilines = s.ilines := rfl
@[simp] theorem State.putSlice_octets (x : Slice) : (s.putSlice x).octets = s.octets := rfl
@[simp] theorem State.putSlice_cmds (x : Slice) : (s.putSlice x).cmds = s.cmds := rfl
@[simp] theorem State.putSlice_qfences (x : Slice) : (s.putSlice x).qfences = s.qfences := rfl
@[simp] theorem State.putSlice_tokens (x : Slice) : (s.putSlice x).tokens = s.tokens := rfl
@[simp] theorem State.putSlice_nodes (x : Slice) : (s.putSlice x).nodes = s.nodes := rfl
@[simp] theorem State.putSlice_serving (x : Slice) : (s.putSlice x).serving = s.serving := rfl
@[simp] theorem State.putSlice_tasks (x : Slice) : (s.putSlice x).tasks = s.tasks := rfl
@[simp] theorem State.putSlice_launches (x : Slice) : (s.putSlice x).launches = s.launches := rfl
@[simp] theorem State.putSlice_turns (x : Slice) : (s.putSlice x).turns = s.turns := rfl
@[simp] theorem State.putSlice_parks (x : Slice) : (s.putSlice x).parks = s.parks := rfl
@[simp] theorem State.putSlice_presences (x : Slice) : (s.putSlice x).presences = s.presences := rfl
@[simp] theorem State.putSlice_nextWave (x : Slice) : (s.putSlice x).nextWave = s.nextWave := rfl
@[simp] theorem State.putSlice_online (x : Slice) : (s.putSlice x).online = s.online := rfl
@[simp] theorem State.putSlice_ctxs (x : Slice) : (s.putSlice x).ctxs = s.ctxs := rfl
@[simp] theorem State.putSlice_dbg (x : Slice) : (s.putSlice x).dbg = s.dbg := rfl
@[simp] theorem State.putSlice_tsc (x : Slice) : (s.putSlice x).tsc = s.tsc := rfl
@[simp] theorem State.putSlice_tscPause (x : Slice) : (s.putSlice x).tscPause = s.tscPause := rfl
@[simp] theorem State.putSlice_hostMem (x : Slice) : (s.putSlice x).hostMem = s.hostMem := rfl
@[simp] theorem State.putSlice_fab (x : Slice) : (s.putSlice x).fab = s.fab := rfl
@[simp] theorem State.putSlice_endpoints (x : Slice) : (s.putSlice x).endpoints = s.endpoints := rfl
@[simp] theorem State.putSlice_netReqs (x : Slice) : (s.putSlice x).netReqs = s.netReqs := rfl
@[simp] theorem State.putSlice_netReplies (x : Slice) : (s.putSlice x).netReplies = s.netReplies := rfl
@[simp] theorem State.putSlice_out (x : Slice) : (s.putSlice x).out = s.out := rfl
@[simp] theorem State.putSlice_ldcfg (x : Slice) : (s.putSlice x).ldcfg = s.ldcfg := rfl
@[simp] theorem State.putSlice_cached (x : Slice) : (s.putSlice x).cached = s.cached := rfl
@[simp] theorem State.putSlice_apctl (x : Slice) : (s.putSlice x).apctl = s.apctl := rfl
@[simp] theorem State.putSlice_skipped (x : Slice) : (s.putSlice x).skipped = s.skipped := rfl
@[simp] theorem State.putSlice_reports (x : Slice) : (s.putSlice x).reports = s.reports := rfl
@[simp] theorem State.putSlice_rounds (x : Slice) : (s.putSlice x).rounds = s.rounds := rfl
@[simp] theorem State.putSlice_trust (x : Slice) : (s.putSlice x).trust = s.trust := rfl

/-! ### State.dropTxn -/

@[simp] theorem State.dropTxn_cur (n : Nat) : (s.dropTxn n).cur = s.cur := rfl
@[simp] theorem State.dropTxn_agenda (n : Nat) : (s.dropTxn n).agenda = s.agenda := rfl
@[simp] theorem State.dropTxn_ticks (n : Nat) : (s.dropTxn n).ticks = s.ticks := rfl
@[simp] theorem State.dropTxn_nextId (n : Nat) : (s.dropTxn n).nextId = s.nextId := rfl
@[simp] theorem State.dropTxn_slices (n : Nat) : (s.dropTxn n).slices = s.slices := rfl
@[simp] theorem State.dropTxn_gangs (n : Nat) : (s.dropTxn n).gangs = s.gangs := rfl
@[simp] theorem State.dropTxn_regangs (n : Nat) : (s.dropTxn n).regangs = s.regangs := rfl
@[simp] theorem State.dropTxn_txns (n : Nat) : (s.dropTxn n).txns = s.txns.filter fun t => t.id != n := rfl
@[simp] theorem State.dropTxn_waves (n : Nat) : (s.dropTxn n).waves = s.waves := rfl
@[simp] theorem State.dropTxn_cores (n : Nat) : (s.dropTxn n).cores = s.cores := rfl
@[simp] theorem State.dropTxn_firstFaults (n : Nat) : (s.dropTxn n).firstFaults = s.firstFaults := rfl
@[simp] theorem State.dropTxn_tlb (n : Nat) : (s.dropTxn n).tlb = s.tlb := rfl
@[simp] theorem State.dropTxn_lines (n : Nat) : (s.dropTxn n).lines = s.lines := rfl
@[simp] theorem State.dropTxn_copies (n : Nat) : (s.dropTxn n).copies = s.copies := rfl
@[simp] theorem State.dropTxn_cdata (n : Nat) : (s.dropTxn n).cdata = s.cdata := rfl
@[simp] theorem State.dropTxn_hbm (n : Nat) : (s.dropTxn n).hbm = s.hbm := rfl
@[simp] theorem State.dropTxn_poison (n : Nat) : (s.dropTxn n).poison = s.poison := rfl
@[simp] theorem State.dropTxn_sealed (n : Nat) : (s.dropTxn n).sealed = s.sealed := rfl
@[simp] theorem State.dropTxn_writes (n : Nat) : (s.dropTxn n).writes = s.writes := rfl
@[simp] theorem State.dropTxn_ilines (n : Nat) : (s.dropTxn n).ilines = s.ilines := rfl
@[simp] theorem State.dropTxn_octets (n : Nat) : (s.dropTxn n).octets = s.octets := rfl
@[simp] theorem State.dropTxn_cmds (n : Nat) : (s.dropTxn n).cmds = s.cmds := rfl
@[simp] theorem State.dropTxn_qfences (n : Nat) : (s.dropTxn n).qfences = s.qfences := rfl
@[simp] theorem State.dropTxn_tokens (n : Nat) : (s.dropTxn n).tokens = s.tokens := rfl
@[simp] theorem State.dropTxn_nodes (n : Nat) : (s.dropTxn n).nodes = s.nodes := rfl
@[simp] theorem State.dropTxn_serving (n : Nat) : (s.dropTxn n).serving = s.serving := rfl
@[simp] theorem State.dropTxn_tasks (n : Nat) : (s.dropTxn n).tasks = s.tasks := rfl
@[simp] theorem State.dropTxn_launches (n : Nat) : (s.dropTxn n).launches = s.launches := rfl
@[simp] theorem State.dropTxn_turns (n : Nat) : (s.dropTxn n).turns = s.turns := rfl
@[simp] theorem State.dropTxn_parks (n : Nat) : (s.dropTxn n).parks = s.parks := rfl
@[simp] theorem State.dropTxn_presences (n : Nat) : (s.dropTxn n).presences = s.presences := rfl
@[simp] theorem State.dropTxn_nextWave (n : Nat) : (s.dropTxn n).nextWave = s.nextWave := rfl
@[simp] theorem State.dropTxn_online (n : Nat) : (s.dropTxn n).online = s.online := rfl
@[simp] theorem State.dropTxn_ctxs (n : Nat) : (s.dropTxn n).ctxs = s.ctxs := rfl
@[simp] theorem State.dropTxn_dbg (n : Nat) : (s.dropTxn n).dbg = s.dbg := rfl
@[simp] theorem State.dropTxn_tsc (n : Nat) : (s.dropTxn n).tsc = s.tsc := rfl
@[simp] theorem State.dropTxn_tscPause (n : Nat) : (s.dropTxn n).tscPause = s.tscPause := rfl
@[simp] theorem State.dropTxn_hostMem (n : Nat) : (s.dropTxn n).hostMem = s.hostMem := rfl
@[simp] theorem State.dropTxn_fab (n : Nat) : (s.dropTxn n).fab = s.fab := rfl
@[simp] theorem State.dropTxn_endpoints (n : Nat) : (s.dropTxn n).endpoints = s.endpoints := rfl
@[simp] theorem State.dropTxn_netReqs (n : Nat) : (s.dropTxn n).netReqs = s.netReqs := rfl
@[simp] theorem State.dropTxn_netReplies (n : Nat) : (s.dropTxn n).netReplies = s.netReplies := rfl
@[simp] theorem State.dropTxn_out (n : Nat) : (s.dropTxn n).out = s.out := rfl
@[simp] theorem State.dropTxn_ldcfg (n : Nat) : (s.dropTxn n).ldcfg = s.ldcfg := rfl
@[simp] theorem State.dropTxn_cached (n : Nat) : (s.dropTxn n).cached = s.cached := rfl
@[simp] theorem State.dropTxn_apctl (n : Nat) : (s.dropTxn n).apctl = s.apctl := rfl
@[simp] theorem State.dropTxn_skipped (n : Nat) : (s.dropTxn n).skipped = s.skipped := rfl
@[simp] theorem State.dropTxn_reports (n : Nat) : (s.dropTxn n).reports = s.reports := rfl
@[simp] theorem State.dropTxn_rounds (n : Nat) : (s.dropTxn n).rounds = s.rounds := rfl
@[simp] theorem State.dropTxn_trust (n : Nat) : (s.dropTxn n).trust = s.trust := rfl

/-! ### State.addTxn -/

@[simp] theorem State.addTxn_cur (k : TxnKind) (x : Slice) (n : Nat) (b : Bool) (ps : List Part) (ls : List LaneAcc) : (s.addTxn k x n b ps ls).cur = s.cur := rfl
@[simp] theorem State.addTxn_agenda (k : TxnKind) (x : Slice) (n : Nat) (b : Bool) (ps : List Part) (ls : List LaneAcc) : (s.addTxn k x n b ps ls).agenda = s.agenda := rfl
@[simp] theorem State.addTxn_ticks (k : TxnKind) (x : Slice) (n : Nat) (b : Bool) (ps : List Part) (ls : List LaneAcc) : (s.addTxn k x n b ps ls).ticks = s.ticks := rfl
@[simp] theorem State.addTxn_nextId (k : TxnKind) (x : Slice) (n : Nat) (b : Bool) (ps : List Part) (ls : List LaneAcc) : (s.addTxn k x n b ps ls).nextId = s.nextId + 1 := rfl
@[simp] theorem State.addTxn_slices (k : TxnKind) (x : Slice) (n : Nat) (b : Bool) (ps : List Part) (ls : List LaneAcc) : (s.addTxn k x n b ps ls).slices = s.slices := rfl
@[simp] theorem State.addTxn_gangs (k : TxnKind) (x : Slice) (n : Nat) (b : Bool) (ps : List Part) (ls : List LaneAcc) : (s.addTxn k x n b ps ls).gangs = s.gangs := rfl
@[simp] theorem State.addTxn_regangs (k : TxnKind) (x : Slice) (n : Nat) (b : Bool) (ps : List Part) (ls : List LaneAcc) : (s.addTxn k x n b ps ls).regangs = s.regangs := rfl
@[simp] theorem State.addTxn_txns (k : TxnKind) (x : Slice) (n : Nat) (b : Bool) (ps : List Part) (ls : List LaneAcc) :
    (s.addTxn k x n b ps ls).txns = s.txns ++ [⟨s.nextId, k, x.core, s.ctxOfWave x.wave, x.wave, n, b, ps, ls, none, [], s.fab.step, false⟩] := rfl
@[simp] theorem State.addTxn_waves (k : TxnKind) (x : Slice) (n : Nat) (b : Bool) (ps : List Part) (ls : List LaneAcc) : (s.addTxn k x n b ps ls).waves = s.waves := rfl
@[simp] theorem State.addTxn_cores (k : TxnKind) (x : Slice) (n : Nat) (b : Bool) (ps : List Part) (ls : List LaneAcc) : (s.addTxn k x n b ps ls).cores = s.cores := rfl
@[simp] theorem State.addTxn_firstFaults (k : TxnKind) (x : Slice) (n : Nat) (b : Bool) (ps : List Part) (ls : List LaneAcc) : (s.addTxn k x n b ps ls).firstFaults = s.firstFaults := rfl
@[simp] theorem State.addTxn_tlb (k : TxnKind) (x : Slice) (n : Nat) (b : Bool) (ps : List Part) (ls : List LaneAcc) : (s.addTxn k x n b ps ls).tlb = s.tlb := rfl
@[simp] theorem State.addTxn_lines (k : TxnKind) (x : Slice) (n : Nat) (b : Bool) (ps : List Part) (ls : List LaneAcc) : (s.addTxn k x n b ps ls).lines = s.lines := rfl
@[simp] theorem State.addTxn_copies (k : TxnKind) (x : Slice) (n : Nat) (b : Bool) (ps : List Part) (ls : List LaneAcc) : (s.addTxn k x n b ps ls).copies = s.copies := rfl
@[simp] theorem State.addTxn_cdata (k : TxnKind) (x : Slice) (n : Nat) (b : Bool) (ps : List Part) (ls : List LaneAcc) : (s.addTxn k x n b ps ls).cdata = s.cdata := rfl
@[simp] theorem State.addTxn_hbm (k : TxnKind) (x : Slice) (n : Nat) (b : Bool) (ps : List Part) (ls : List LaneAcc) : (s.addTxn k x n b ps ls).hbm = s.hbm := rfl
@[simp] theorem State.addTxn_poison (k : TxnKind) (x : Slice) (n : Nat) (b : Bool) (ps : List Part) (ls : List LaneAcc) : (s.addTxn k x n b ps ls).poison = s.poison := rfl
@[simp] theorem State.addTxn_sealed (k : TxnKind) (x : Slice) (n : Nat) (b : Bool) (ps : List Part) (ls : List LaneAcc) : (s.addTxn k x n b ps ls).sealed = s.sealed := rfl
@[simp] theorem State.addTxn_writes (k : TxnKind) (x : Slice) (n : Nat) (b : Bool) (ps : List Part) (ls : List LaneAcc) : (s.addTxn k x n b ps ls).writes = s.writes := rfl
@[simp] theorem State.addTxn_ilines (k : TxnKind) (x : Slice) (n : Nat) (b : Bool) (ps : List Part) (ls : List LaneAcc) : (s.addTxn k x n b ps ls).ilines = s.ilines := rfl
@[simp] theorem State.addTxn_octets (k : TxnKind) (x : Slice) (n : Nat) (b : Bool) (ps : List Part) (ls : List LaneAcc) : (s.addTxn k x n b ps ls).octets = s.octets := rfl
@[simp] theorem State.addTxn_cmds (k : TxnKind) (x : Slice) (n : Nat) (b : Bool) (ps : List Part) (ls : List LaneAcc) : (s.addTxn k x n b ps ls).cmds = s.cmds := rfl
@[simp] theorem State.addTxn_qfences (k : TxnKind) (x : Slice) (n : Nat) (b : Bool) (ps : List Part) (ls : List LaneAcc) : (s.addTxn k x n b ps ls).qfences = s.qfences := rfl
@[simp] theorem State.addTxn_tokens (k : TxnKind) (x : Slice) (n : Nat) (b : Bool) (ps : List Part) (ls : List LaneAcc) : (s.addTxn k x n b ps ls).tokens = s.tokens := rfl
@[simp] theorem State.addTxn_nodes (k : TxnKind) (x : Slice) (n : Nat) (b : Bool) (ps : List Part) (ls : List LaneAcc) : (s.addTxn k x n b ps ls).nodes = s.nodes := rfl
@[simp] theorem State.addTxn_serving (k : TxnKind) (x : Slice) (n : Nat) (b : Bool) (ps : List Part) (ls : List LaneAcc) : (s.addTxn k x n b ps ls).serving = s.serving := rfl
@[simp] theorem State.addTxn_tasks (k : TxnKind) (x : Slice) (n : Nat) (b : Bool) (ps : List Part) (ls : List LaneAcc) : (s.addTxn k x n b ps ls).tasks = s.tasks := rfl
@[simp] theorem State.addTxn_launches (k : TxnKind) (x : Slice) (n : Nat) (b : Bool) (ps : List Part) (ls : List LaneAcc) : (s.addTxn k x n b ps ls).launches = s.launches := rfl
@[simp] theorem State.addTxn_turns (k : TxnKind) (x : Slice) (n : Nat) (b : Bool) (ps : List Part) (ls : List LaneAcc) : (s.addTxn k x n b ps ls).turns = s.turns := rfl
@[simp] theorem State.addTxn_parks (k : TxnKind) (x : Slice) (n : Nat) (b : Bool) (ps : List Part) (ls : List LaneAcc) : (s.addTxn k x n b ps ls).parks = s.parks := rfl
@[simp] theorem State.addTxn_presences (k : TxnKind) (x : Slice) (n : Nat) (b : Bool) (ps : List Part) (ls : List LaneAcc) : (s.addTxn k x n b ps ls).presences = s.presences := rfl
@[simp] theorem State.addTxn_nextWave (k : TxnKind) (x : Slice) (n : Nat) (b : Bool) (ps : List Part) (ls : List LaneAcc) : (s.addTxn k x n b ps ls).nextWave = s.nextWave := rfl
@[simp] theorem State.addTxn_online (k : TxnKind) (x : Slice) (n : Nat) (b : Bool) (ps : List Part) (ls : List LaneAcc) : (s.addTxn k x n b ps ls).online = s.online := rfl
@[simp] theorem State.addTxn_ctxs (k : TxnKind) (x : Slice) (n : Nat) (b : Bool) (ps : List Part) (ls : List LaneAcc) : (s.addTxn k x n b ps ls).ctxs = s.ctxs := rfl
@[simp] theorem State.addTxn_dbg (k : TxnKind) (x : Slice) (n : Nat) (b : Bool) (ps : List Part) (ls : List LaneAcc) : (s.addTxn k x n b ps ls).dbg = s.dbg := rfl
@[simp] theorem State.addTxn_tsc (k : TxnKind) (x : Slice) (n : Nat) (b : Bool) (ps : List Part) (ls : List LaneAcc) : (s.addTxn k x n b ps ls).tsc = s.tsc := rfl
@[simp] theorem State.addTxn_tscPause (k : TxnKind) (x : Slice) (n : Nat) (b : Bool) (ps : List Part) (ls : List LaneAcc) : (s.addTxn k x n b ps ls).tscPause = s.tscPause := rfl
@[simp] theorem State.addTxn_hostMem (k : TxnKind) (x : Slice) (n : Nat) (b : Bool) (ps : List Part) (ls : List LaneAcc) : (s.addTxn k x n b ps ls).hostMem = s.hostMem := rfl
@[simp] theorem State.addTxn_fab (k : TxnKind) (x : Slice) (n : Nat) (b : Bool) (ps : List Part) (ls : List LaneAcc) : (s.addTxn k x n b ps ls).fab = s.fab := rfl
@[simp] theorem State.addTxn_endpoints (k : TxnKind) (x : Slice) (n : Nat) (b : Bool) (ps : List Part) (ls : List LaneAcc) : (s.addTxn k x n b ps ls).endpoints = s.endpoints := rfl
@[simp] theorem State.addTxn_netReqs (k : TxnKind) (x : Slice) (n : Nat) (b : Bool) (ps : List Part) (ls : List LaneAcc) : (s.addTxn k x n b ps ls).netReqs = s.netReqs := rfl
@[simp] theorem State.addTxn_netReplies (k : TxnKind) (x : Slice) (n : Nat) (b : Bool) (ps : List Part) (ls : List LaneAcc) : (s.addTxn k x n b ps ls).netReplies = s.netReplies := rfl
@[simp] theorem State.addTxn_out (k : TxnKind) (x : Slice) (n : Nat) (b : Bool) (ps : List Part) (ls : List LaneAcc) : (s.addTxn k x n b ps ls).out = s.out := rfl
@[simp] theorem State.addTxn_ldcfg (k : TxnKind) (x : Slice) (n : Nat) (b : Bool) (ps : List Part) (ls : List LaneAcc) : (s.addTxn k x n b ps ls).ldcfg = s.ldcfg := rfl
@[simp] theorem State.addTxn_cached (k : TxnKind) (x : Slice) (n : Nat) (b : Bool) (ps : List Part) (ls : List LaneAcc) : (s.addTxn k x n b ps ls).cached = s.cached := rfl
@[simp] theorem State.addTxn_apctl (k : TxnKind) (x : Slice) (n : Nat) (b : Bool) (ps : List Part) (ls : List LaneAcc) : (s.addTxn k x n b ps ls).apctl = s.apctl := rfl
@[simp] theorem State.addTxn_skipped (k : TxnKind) (x : Slice) (n : Nat) (b : Bool) (ps : List Part) (ls : List LaneAcc) : (s.addTxn k x n b ps ls).skipped = s.skipped := rfl
@[simp] theorem State.addTxn_reports (k : TxnKind) (x : Slice) (n : Nat) (b : Bool) (ps : List Part) (ls : List LaneAcc) : (s.addTxn k x n b ps ls).reports = s.reports := rfl
@[simp] theorem State.addTxn_rounds (k : TxnKind) (x : Slice) (n : Nat) (b : Bool) (ps : List Part) (ls : List LaneAcc) : (s.addTxn k x n b ps ls).rounds = s.rounds := rfl
@[simp] theorem State.addTxn_trust (k : TxnKind) (x : Slice) (n : Nat) (b : Bool) (ps : List Part) (ls : List LaneAcc) : (s.addTxn k x n b ps ls).trust = s.trust := rfl

/-! ### State.setCore -/

@[simp] theorem State.setCore_cur (k : Nat) (r : CoreRec) : (s.setCore k r).cur = s.cur := rfl
@[simp] theorem State.setCore_agenda (k : Nat) (r : CoreRec) : (s.setCore k r).agenda = s.agenda := rfl
@[simp] theorem State.setCore_ticks (k : Nat) (r : CoreRec) : (s.setCore k r).ticks = s.ticks := rfl
@[simp] theorem State.setCore_nextId (k : Nat) (r : CoreRec) : (s.setCore k r).nextId = s.nextId := rfl
@[simp] theorem State.setCore_slices (k : Nat) (r : CoreRec) : (s.setCore k r).slices = s.slices := rfl
@[simp] theorem State.setCore_gangs (k : Nat) (r : CoreRec) : (s.setCore k r).gangs = s.gangs := rfl
@[simp] theorem State.setCore_regangs (k : Nat) (r : CoreRec) : (s.setCore k r).regangs = s.regangs := rfl
@[simp] theorem State.setCore_txns (k : Nat) (r : CoreRec) : (s.setCore k r).txns = s.txns := rfl
@[simp] theorem State.setCore_waves (k : Nat) (r : CoreRec) : (s.setCore k r).waves = s.waves := rfl
@[simp] theorem State.setCore_cores (k : Nat) (r : CoreRec) : (s.setCore k r).cores = s.cores.setIfInBounds k r := rfl
@[simp] theorem State.setCore_firstFaults (k : Nat) (r : CoreRec) : (s.setCore k r).firstFaults = s.firstFaults := rfl
@[simp] theorem State.setCore_tlb (k : Nat) (r : CoreRec) : (s.setCore k r).tlb = s.tlb := rfl
@[simp] theorem State.setCore_lines (k : Nat) (r : CoreRec) : (s.setCore k r).lines = s.lines := rfl
@[simp] theorem State.setCore_copies (k : Nat) (r : CoreRec) : (s.setCore k r).copies = s.copies := rfl
@[simp] theorem State.setCore_cdata (k : Nat) (r : CoreRec) : (s.setCore k r).cdata = s.cdata := rfl
@[simp] theorem State.setCore_hbm (k : Nat) (r : CoreRec) : (s.setCore k r).hbm = s.hbm := rfl
@[simp] theorem State.setCore_poison (k : Nat) (r : CoreRec) : (s.setCore k r).poison = s.poison := rfl
@[simp] theorem State.setCore_sealed (k : Nat) (r : CoreRec) : (s.setCore k r).sealed = s.sealed := rfl
@[simp] theorem State.setCore_writes (k : Nat) (r : CoreRec) : (s.setCore k r).writes = s.writes := rfl
@[simp] theorem State.setCore_ilines (k : Nat) (r : CoreRec) : (s.setCore k r).ilines = s.ilines := rfl
@[simp] theorem State.setCore_octets (k : Nat) (r : CoreRec) : (s.setCore k r).octets = s.octets := rfl
@[simp] theorem State.setCore_cmds (k : Nat) (r : CoreRec) : (s.setCore k r).cmds = s.cmds := rfl
@[simp] theorem State.setCore_qfences (k : Nat) (r : CoreRec) : (s.setCore k r).qfences = s.qfences := rfl
@[simp] theorem State.setCore_tokens (k : Nat) (r : CoreRec) : (s.setCore k r).tokens = s.tokens := rfl
@[simp] theorem State.setCore_nodes (k : Nat) (r : CoreRec) : (s.setCore k r).nodes = s.nodes := rfl
@[simp] theorem State.setCore_serving (k : Nat) (r : CoreRec) : (s.setCore k r).serving = s.serving := rfl
@[simp] theorem State.setCore_tasks (k : Nat) (r : CoreRec) : (s.setCore k r).tasks = s.tasks := rfl
@[simp] theorem State.setCore_launches (k : Nat) (r : CoreRec) : (s.setCore k r).launches = s.launches := rfl
@[simp] theorem State.setCore_turns (k : Nat) (r : CoreRec) : (s.setCore k r).turns = s.turns := rfl
@[simp] theorem State.setCore_parks (k : Nat) (r : CoreRec) : (s.setCore k r).parks = s.parks := rfl
@[simp] theorem State.setCore_presences (k : Nat) (r : CoreRec) : (s.setCore k r).presences = s.presences := rfl
@[simp] theorem State.setCore_nextWave (k : Nat) (r : CoreRec) : (s.setCore k r).nextWave = s.nextWave := rfl
@[simp] theorem State.setCore_online (k : Nat) (r : CoreRec) : (s.setCore k r).online = s.online := rfl
@[simp] theorem State.setCore_ctxs (k : Nat) (r : CoreRec) : (s.setCore k r).ctxs = s.ctxs := rfl
@[simp] theorem State.setCore_dbg (k : Nat) (r : CoreRec) : (s.setCore k r).dbg = s.dbg := rfl
@[simp] theorem State.setCore_tsc (k : Nat) (r : CoreRec) : (s.setCore k r).tsc = s.tsc := rfl
@[simp] theorem State.setCore_tscPause (k : Nat) (r : CoreRec) : (s.setCore k r).tscPause = s.tscPause := rfl
@[simp] theorem State.setCore_hostMem (k : Nat) (r : CoreRec) : (s.setCore k r).hostMem = s.hostMem := rfl
@[simp] theorem State.setCore_fab (k : Nat) (r : CoreRec) : (s.setCore k r).fab = s.fab := rfl
@[simp] theorem State.setCore_endpoints (k : Nat) (r : CoreRec) : (s.setCore k r).endpoints = s.endpoints := rfl
@[simp] theorem State.setCore_netReqs (k : Nat) (r : CoreRec) : (s.setCore k r).netReqs = s.netReqs := rfl
@[simp] theorem State.setCore_netReplies (k : Nat) (r : CoreRec) : (s.setCore k r).netReplies = s.netReplies := rfl
@[simp] theorem State.setCore_out (k : Nat) (r : CoreRec) : (s.setCore k r).out = s.out := rfl
@[simp] theorem State.setCore_ldcfg (k : Nat) (r : CoreRec) : (s.setCore k r).ldcfg = s.ldcfg := rfl
@[simp] theorem State.setCore_cached (k : Nat) (r : CoreRec) : (s.setCore k r).cached = s.cached := rfl
@[simp] theorem State.setCore_apctl (k : Nat) (r : CoreRec) : (s.setCore k r).apctl = s.apctl := rfl
@[simp] theorem State.setCore_skipped (k : Nat) (r : CoreRec) : (s.setCore k r).skipped = s.skipped := rfl
@[simp] theorem State.setCore_reports (k : Nat) (r : CoreRec) : (s.setCore k r).reports = s.reports := rfl
@[simp] theorem State.setCore_rounds (k : Nat) (r : CoreRec) : (s.setCore k r).rounds = s.rounds := rfl
@[simp] theorem State.setCore_trust (k : Nat) (r : CoreRec) : (s.setCore k r).trust = s.trust := rfl

/-! ### State.setCtx -/

@[simp] theorem State.setCtx_cur (c : Fin 17) (x : Ctx) : (s.setCtx c x).cur = s.cur := rfl
@[simp] theorem State.setCtx_agenda (c : Fin 17) (x : Ctx) : (s.setCtx c x).agenda = s.agenda := rfl
@[simp] theorem State.setCtx_ticks (c : Fin 17) (x : Ctx) : (s.setCtx c x).ticks = s.ticks := rfl
@[simp] theorem State.setCtx_nextId (c : Fin 17) (x : Ctx) : (s.setCtx c x).nextId = s.nextId := rfl
@[simp] theorem State.setCtx_slices (c : Fin 17) (x : Ctx) : (s.setCtx c x).slices = s.slices := rfl
@[simp] theorem State.setCtx_gangs (c : Fin 17) (x : Ctx) : (s.setCtx c x).gangs = s.gangs := rfl
@[simp] theorem State.setCtx_regangs (c : Fin 17) (x : Ctx) : (s.setCtx c x).regangs = s.regangs := rfl
@[simp] theorem State.setCtx_txns (c : Fin 17) (x : Ctx) : (s.setCtx c x).txns = s.txns := rfl
@[simp] theorem State.setCtx_waves (c : Fin 17) (x : Ctx) : (s.setCtx c x).waves = s.waves := rfl
@[simp] theorem State.setCtx_cores (c : Fin 17) (x : Ctx) : (s.setCtx c x).cores = s.cores := rfl
@[simp] theorem State.setCtx_firstFaults (c : Fin 17) (x : Ctx) : (s.setCtx c x).firstFaults = s.firstFaults := rfl
@[simp] theorem State.setCtx_tlb (c : Fin 17) (x : Ctx) : (s.setCtx c x).tlb = s.tlb := rfl
@[simp] theorem State.setCtx_lines (c : Fin 17) (x : Ctx) : (s.setCtx c x).lines = s.lines := rfl
@[simp] theorem State.setCtx_copies (c : Fin 17) (x : Ctx) : (s.setCtx c x).copies = s.copies := rfl
@[simp] theorem State.setCtx_cdata (c : Fin 17) (x : Ctx) : (s.setCtx c x).cdata = s.cdata := rfl
@[simp] theorem State.setCtx_hbm (c : Fin 17) (x : Ctx) : (s.setCtx c x).hbm = s.hbm := rfl
@[simp] theorem State.setCtx_poison (c : Fin 17) (x : Ctx) : (s.setCtx c x).poison = s.poison := rfl
@[simp] theorem State.setCtx_sealed (c : Fin 17) (x : Ctx) : (s.setCtx c x).sealed = s.sealed := rfl
@[simp] theorem State.setCtx_writes (c : Fin 17) (x : Ctx) : (s.setCtx c x).writes = s.writes := rfl
@[simp] theorem State.setCtx_ilines (c : Fin 17) (x : Ctx) : (s.setCtx c x).ilines = s.ilines := rfl
@[simp] theorem State.setCtx_octets (c : Fin 17) (x : Ctx) : (s.setCtx c x).octets = s.octets := rfl
@[simp] theorem State.setCtx_cmds (c : Fin 17) (x : Ctx) : (s.setCtx c x).cmds = s.cmds := rfl
@[simp] theorem State.setCtx_qfences (c : Fin 17) (x : Ctx) : (s.setCtx c x).qfences = s.qfences := rfl
@[simp] theorem State.setCtx_tokens (c : Fin 17) (x : Ctx) : (s.setCtx c x).tokens = s.tokens := rfl
@[simp] theorem State.setCtx_nodes (c : Fin 17) (x : Ctx) : (s.setCtx c x).nodes = s.nodes := rfl
@[simp] theorem State.setCtx_serving (c : Fin 17) (x : Ctx) : (s.setCtx c x).serving = s.serving := rfl
@[simp] theorem State.setCtx_tasks (c : Fin 17) (x : Ctx) : (s.setCtx c x).tasks = s.tasks := rfl
@[simp] theorem State.setCtx_launches (c : Fin 17) (x : Ctx) : (s.setCtx c x).launches = s.launches := rfl
@[simp] theorem State.setCtx_turns (c : Fin 17) (x : Ctx) : (s.setCtx c x).turns = s.turns := rfl
@[simp] theorem State.setCtx_parks (c : Fin 17) (x : Ctx) : (s.setCtx c x).parks = s.parks := rfl
@[simp] theorem State.setCtx_presences (c : Fin 17) (x : Ctx) : (s.setCtx c x).presences = s.presences := rfl
@[simp] theorem State.setCtx_nextWave (c : Fin 17) (x : Ctx) : (s.setCtx c x).nextWave = s.nextWave := rfl
@[simp] theorem State.setCtx_online (c : Fin 17) (x : Ctx) : (s.setCtx c x).online = s.online := rfl
@[simp] theorem State.setCtx_ctxs (c : Fin 17) (x : Ctx) : (s.setCtx c x).ctxs = s.ctxs.set c x := rfl
@[simp] theorem State.setCtx_dbg (c : Fin 17) (x : Ctx) : (s.setCtx c x).dbg = s.dbg := rfl
@[simp] theorem State.setCtx_tsc (c : Fin 17) (x : Ctx) : (s.setCtx c x).tsc = s.tsc := rfl
@[simp] theorem State.setCtx_tscPause (c : Fin 17) (x : Ctx) : (s.setCtx c x).tscPause = s.tscPause := rfl
@[simp] theorem State.setCtx_hostMem (c : Fin 17) (x : Ctx) : (s.setCtx c x).hostMem = s.hostMem := rfl
@[simp] theorem State.setCtx_fab (c : Fin 17) (x : Ctx) : (s.setCtx c x).fab = s.fab := rfl
@[simp] theorem State.setCtx_endpoints (c : Fin 17) (x : Ctx) : (s.setCtx c x).endpoints = s.endpoints := rfl
@[simp] theorem State.setCtx_netReqs (c : Fin 17) (x : Ctx) : (s.setCtx c x).netReqs = s.netReqs := rfl
@[simp] theorem State.setCtx_netReplies (c : Fin 17) (x : Ctx) : (s.setCtx c x).netReplies = s.netReplies := rfl
@[simp] theorem State.setCtx_out (c : Fin 17) (x : Ctx) : (s.setCtx c x).out = s.out := rfl
@[simp] theorem State.setCtx_ldcfg (c : Fin 17) (x : Ctx) : (s.setCtx c x).ldcfg = s.ldcfg := rfl
@[simp] theorem State.setCtx_cached (c : Fin 17) (x : Ctx) : (s.setCtx c x).cached = s.cached := rfl
@[simp] theorem State.setCtx_apctl (c : Fin 17) (x : Ctx) : (s.setCtx c x).apctl = s.apctl := rfl
@[simp] theorem State.setCtx_skipped (c : Fin 17) (x : Ctx) : (s.setCtx c x).skipped = s.skipped := rfl
@[simp] theorem State.setCtx_reports (c : Fin 17) (x : Ctx) : (s.setCtx c x).reports = s.reports := rfl
@[simp] theorem State.setCtx_rounds (c : Fin 17) (x : Ctx) : (s.setCtx c x).rounds = s.rounds := rfl
@[simp] theorem State.setCtx_trust (c : Fin 17) (x : Ctx) : (s.setCtx c x).trust = s.trust := rfl

/-! ### State.modGang -/

@[simp] theorem State.modGang_cur (a : Nat) (f : Gang → Gang) : (s.modGang a f).cur = s.cur := rfl
@[simp] theorem State.modGang_agenda (a : Nat) (f : Gang → Gang) : (s.modGang a f).agenda = s.agenda := rfl
@[simp] theorem State.modGang_ticks (a : Nat) (f : Gang → Gang) : (s.modGang a f).ticks = s.ticks := rfl
@[simp] theorem State.modGang_nextId (a : Nat) (f : Gang → Gang) : (s.modGang a f).nextId = s.nextId := rfl
@[simp] theorem State.modGang_slices (a : Nat) (f : Gang → Gang) : (s.modGang a f).slices = s.slices := rfl
@[simp] theorem State.modGang_gangs (a : Nat) (f : Gang → Gang) : (s.modGang a f).gangs = s.gangs.map fun g => if g.gid == a then f g else g := rfl
@[simp] theorem State.modGang_regangs (a : Nat) (f : Gang → Gang) : (s.modGang a f).regangs = s.regangs := rfl
@[simp] theorem State.modGang_txns (a : Nat) (f : Gang → Gang) : (s.modGang a f).txns = s.txns := rfl
@[simp] theorem State.modGang_waves (a : Nat) (f : Gang → Gang) : (s.modGang a f).waves = s.waves := rfl
@[simp] theorem State.modGang_cores (a : Nat) (f : Gang → Gang) : (s.modGang a f).cores = s.cores := rfl
@[simp] theorem State.modGang_firstFaults (a : Nat) (f : Gang → Gang) : (s.modGang a f).firstFaults = s.firstFaults := rfl
@[simp] theorem State.modGang_tlb (a : Nat) (f : Gang → Gang) : (s.modGang a f).tlb = s.tlb := rfl
@[simp] theorem State.modGang_lines (a : Nat) (f : Gang → Gang) : (s.modGang a f).lines = s.lines := rfl
@[simp] theorem State.modGang_copies (a : Nat) (f : Gang → Gang) : (s.modGang a f).copies = s.copies := rfl
@[simp] theorem State.modGang_cdata (a : Nat) (f : Gang → Gang) : (s.modGang a f).cdata = s.cdata := rfl
@[simp] theorem State.modGang_hbm (a : Nat) (f : Gang → Gang) : (s.modGang a f).hbm = s.hbm := rfl
@[simp] theorem State.modGang_poison (a : Nat) (f : Gang → Gang) : (s.modGang a f).poison = s.poison := rfl
@[simp] theorem State.modGang_sealed (a : Nat) (f : Gang → Gang) : (s.modGang a f).sealed = s.sealed := rfl
@[simp] theorem State.modGang_writes (a : Nat) (f : Gang → Gang) : (s.modGang a f).writes = s.writes := rfl
@[simp] theorem State.modGang_ilines (a : Nat) (f : Gang → Gang) : (s.modGang a f).ilines = s.ilines := rfl
@[simp] theorem State.modGang_octets (a : Nat) (f : Gang → Gang) : (s.modGang a f).octets = s.octets := rfl
@[simp] theorem State.modGang_cmds (a : Nat) (f : Gang → Gang) : (s.modGang a f).cmds = s.cmds := rfl
@[simp] theorem State.modGang_qfences (a : Nat) (f : Gang → Gang) : (s.modGang a f).qfences = s.qfences := rfl
@[simp] theorem State.modGang_tokens (a : Nat) (f : Gang → Gang) : (s.modGang a f).tokens = s.tokens := rfl
@[simp] theorem State.modGang_nodes (a : Nat) (f : Gang → Gang) : (s.modGang a f).nodes = s.nodes := rfl
@[simp] theorem State.modGang_serving (a : Nat) (f : Gang → Gang) : (s.modGang a f).serving = s.serving := rfl
@[simp] theorem State.modGang_tasks (a : Nat) (f : Gang → Gang) : (s.modGang a f).tasks = s.tasks := rfl
@[simp] theorem State.modGang_launches (a : Nat) (f : Gang → Gang) : (s.modGang a f).launches = s.launches := rfl
@[simp] theorem State.modGang_turns (a : Nat) (f : Gang → Gang) : (s.modGang a f).turns = s.turns := rfl
@[simp] theorem State.modGang_parks (a : Nat) (f : Gang → Gang) : (s.modGang a f).parks = s.parks := rfl
@[simp] theorem State.modGang_presences (a : Nat) (f : Gang → Gang) : (s.modGang a f).presences = s.presences := rfl
@[simp] theorem State.modGang_nextWave (a : Nat) (f : Gang → Gang) : (s.modGang a f).nextWave = s.nextWave := rfl
@[simp] theorem State.modGang_online (a : Nat) (f : Gang → Gang) : (s.modGang a f).online = s.online := rfl
@[simp] theorem State.modGang_ctxs (a : Nat) (f : Gang → Gang) : (s.modGang a f).ctxs = s.ctxs := rfl
@[simp] theorem State.modGang_dbg (a : Nat) (f : Gang → Gang) : (s.modGang a f).dbg = s.dbg := rfl
@[simp] theorem State.modGang_tsc (a : Nat) (f : Gang → Gang) : (s.modGang a f).tsc = s.tsc := rfl
@[simp] theorem State.modGang_tscPause (a : Nat) (f : Gang → Gang) : (s.modGang a f).tscPause = s.tscPause := rfl
@[simp] theorem State.modGang_hostMem (a : Nat) (f : Gang → Gang) : (s.modGang a f).hostMem = s.hostMem := rfl
@[simp] theorem State.modGang_fab (a : Nat) (f : Gang → Gang) : (s.modGang a f).fab = s.fab := rfl
@[simp] theorem State.modGang_endpoints (a : Nat) (f : Gang → Gang) : (s.modGang a f).endpoints = s.endpoints := rfl
@[simp] theorem State.modGang_netReqs (a : Nat) (f : Gang → Gang) : (s.modGang a f).netReqs = s.netReqs := rfl
@[simp] theorem State.modGang_netReplies (a : Nat) (f : Gang → Gang) : (s.modGang a f).netReplies = s.netReplies := rfl
@[simp] theorem State.modGang_out (a : Nat) (f : Gang → Gang) : (s.modGang a f).out = s.out := rfl
@[simp] theorem State.modGang_ldcfg (a : Nat) (f : Gang → Gang) : (s.modGang a f).ldcfg = s.ldcfg := rfl
@[simp] theorem State.modGang_cached (a : Nat) (f : Gang → Gang) : (s.modGang a f).cached = s.cached := rfl
@[simp] theorem State.modGang_apctl (a : Nat) (f : Gang → Gang) : (s.modGang a f).apctl = s.apctl := rfl
@[simp] theorem State.modGang_skipped (a : Nat) (f : Gang → Gang) : (s.modGang a f).skipped = s.skipped := rfl
@[simp] theorem State.modGang_reports (a : Nat) (f : Gang → Gang) : (s.modGang a f).reports = s.reports := rfl
@[simp] theorem State.modGang_rounds (a : Nat) (f : Gang → Gang) : (s.modGang a f).rounds = s.rounds := rfl
@[simp] theorem State.modGang_trust (a : Nat) (f : Gang → Gang) : (s.modGang a f).trust = s.trust := rfl

/-! ### State.setWait -/

@[simp] theorem State.setWait_cur (a : Nat) (w : GangWait) : (s.setWait a w).cur = s.cur := rfl
@[simp] theorem State.setWait_agenda (a : Nat) (w : GangWait) : (s.setWait a w).agenda = s.agenda := rfl
@[simp] theorem State.setWait_ticks (a : Nat) (w : GangWait) : (s.setWait a w).ticks = s.ticks := rfl
@[simp] theorem State.setWait_nextId (a : Nat) (w : GangWait) : (s.setWait a w).nextId = s.nextId := rfl
@[simp] theorem State.setWait_slices (a : Nat) (w : GangWait) : (s.setWait a w).slices = s.slices := rfl
@[simp] theorem State.setWait_gangs (a : Nat) (w : GangWait) :
    (s.setWait a w).gangs = s.gangs.map fun g => if g.gid == a then { g with wait := w } else g := rfl
@[simp] theorem State.setWait_regangs (a : Nat) (w : GangWait) : (s.setWait a w).regangs = s.regangs := rfl
@[simp] theorem State.setWait_txns (a : Nat) (w : GangWait) : (s.setWait a w).txns = s.txns := rfl
@[simp] theorem State.setWait_waves (a : Nat) (w : GangWait) : (s.setWait a w).waves = s.waves := rfl
@[simp] theorem State.setWait_cores (a : Nat) (w : GangWait) : (s.setWait a w).cores = s.cores := rfl
@[simp] theorem State.setWait_firstFaults (a : Nat) (w : GangWait) : (s.setWait a w).firstFaults = s.firstFaults := rfl
@[simp] theorem State.setWait_tlb (a : Nat) (w : GangWait) : (s.setWait a w).tlb = s.tlb := rfl
@[simp] theorem State.setWait_lines (a : Nat) (w : GangWait) : (s.setWait a w).lines = s.lines := rfl
@[simp] theorem State.setWait_copies (a : Nat) (w : GangWait) : (s.setWait a w).copies = s.copies := rfl
@[simp] theorem State.setWait_cdata (a : Nat) (w : GangWait) : (s.setWait a w).cdata = s.cdata := rfl
@[simp] theorem State.setWait_hbm (a : Nat) (w : GangWait) : (s.setWait a w).hbm = s.hbm := rfl
@[simp] theorem State.setWait_poison (a : Nat) (w : GangWait) : (s.setWait a w).poison = s.poison := rfl
@[simp] theorem State.setWait_sealed (a : Nat) (w : GangWait) : (s.setWait a w).sealed = s.sealed := rfl
@[simp] theorem State.setWait_writes (a : Nat) (w : GangWait) : (s.setWait a w).writes = s.writes := rfl
@[simp] theorem State.setWait_ilines (a : Nat) (w : GangWait) : (s.setWait a w).ilines = s.ilines := rfl
@[simp] theorem State.setWait_octets (a : Nat) (w : GangWait) : (s.setWait a w).octets = s.octets := rfl
@[simp] theorem State.setWait_cmds (a : Nat) (w : GangWait) : (s.setWait a w).cmds = s.cmds := rfl
@[simp] theorem State.setWait_qfences (a : Nat) (w : GangWait) : (s.setWait a w).qfences = s.qfences := rfl
@[simp] theorem State.setWait_tokens (a : Nat) (w : GangWait) : (s.setWait a w).tokens = s.tokens := rfl
@[simp] theorem State.setWait_nodes (a : Nat) (w : GangWait) : (s.setWait a w).nodes = s.nodes := rfl
@[simp] theorem State.setWait_serving (a : Nat) (w : GangWait) : (s.setWait a w).serving = s.serving := rfl
@[simp] theorem State.setWait_tasks (a : Nat) (w : GangWait) : (s.setWait a w).tasks = s.tasks := rfl
@[simp] theorem State.setWait_launches (a : Nat) (w : GangWait) : (s.setWait a w).launches = s.launches := rfl
@[simp] theorem State.setWait_turns (a : Nat) (w : GangWait) : (s.setWait a w).turns = s.turns := rfl
@[simp] theorem State.setWait_parks (a : Nat) (w : GangWait) : (s.setWait a w).parks = s.parks := rfl
@[simp] theorem State.setWait_presences (a : Nat) (w : GangWait) : (s.setWait a w).presences = s.presences := rfl
@[simp] theorem State.setWait_nextWave (a : Nat) (w : GangWait) : (s.setWait a w).nextWave = s.nextWave := rfl
@[simp] theorem State.setWait_online (a : Nat) (w : GangWait) : (s.setWait a w).online = s.online := rfl
@[simp] theorem State.setWait_ctxs (a : Nat) (w : GangWait) : (s.setWait a w).ctxs = s.ctxs := rfl
@[simp] theorem State.setWait_dbg (a : Nat) (w : GangWait) : (s.setWait a w).dbg = s.dbg := rfl
@[simp] theorem State.setWait_tsc (a : Nat) (w : GangWait) : (s.setWait a w).tsc = s.tsc := rfl
@[simp] theorem State.setWait_tscPause (a : Nat) (w : GangWait) : (s.setWait a w).tscPause = s.tscPause := rfl
@[simp] theorem State.setWait_hostMem (a : Nat) (w : GangWait) : (s.setWait a w).hostMem = s.hostMem := rfl
@[simp] theorem State.setWait_fab (a : Nat) (w : GangWait) : (s.setWait a w).fab = s.fab := rfl
@[simp] theorem State.setWait_endpoints (a : Nat) (w : GangWait) : (s.setWait a w).endpoints = s.endpoints := rfl
@[simp] theorem State.setWait_netReqs (a : Nat) (w : GangWait) : (s.setWait a w).netReqs = s.netReqs := rfl
@[simp] theorem State.setWait_netReplies (a : Nat) (w : GangWait) : (s.setWait a w).netReplies = s.netReplies := rfl
@[simp] theorem State.setWait_out (a : Nat) (w : GangWait) : (s.setWait a w).out = s.out := rfl
@[simp] theorem State.setWait_ldcfg (a : Nat) (w : GangWait) : (s.setWait a w).ldcfg = s.ldcfg := rfl
@[simp] theorem State.setWait_cached (a : Nat) (w : GangWait) : (s.setWait a w).cached = s.cached := rfl
@[simp] theorem State.setWait_apctl (a : Nat) (w : GangWait) : (s.setWait a w).apctl = s.apctl := rfl
@[simp] theorem State.setWait_skipped (a : Nat) (w : GangWait) : (s.setWait a w).skipped = s.skipped := rfl
@[simp] theorem State.setWait_reports (a : Nat) (w : GangWait) : (s.setWait a w).reports = s.reports := rfl
@[simp] theorem State.setWait_rounds (a : Nat) (w : GangWait) : (s.setWait a w).rounds = s.rounds := rfl
@[simp] theorem State.setWait_trust (a : Nat) (w : GangWait) : (s.setWait a w).trust = s.trust := rfl

/-! ### State.wakeGang -/

@[simp] theorem State.wakeGang_cur (a : Nat) : (s.wakeGang a).cur = s.cur := rfl
@[simp] theorem State.wakeGang_agenda (a : Nat) : (s.wakeGang a).agenda = s.agenda := rfl
@[simp] theorem State.wakeGang_ticks (a : Nat) : (s.wakeGang a).ticks = s.ticks := rfl
@[simp] theorem State.wakeGang_nextId (a : Nat) : (s.wakeGang a).nextId = s.nextId + 1 := rfl
@[simp] theorem State.wakeGang_slices (a : Nat) : (s.wakeGang a).slices = s.slices := rfl
@[simp] theorem State.wakeGang_gangs (a : Nat) :
    (s.wakeGang a).gangs = s.gangs.map fun g => if g.gid == a then { g with wait := .ready, since := s.nextId, passed := 0 } else g := rfl
@[simp] theorem State.wakeGang_regangs (a : Nat) : (s.wakeGang a).regangs = s.regangs := rfl
@[simp] theorem State.wakeGang_txns (a : Nat) : (s.wakeGang a).txns = s.txns := rfl
@[simp] theorem State.wakeGang_waves (a : Nat) : (s.wakeGang a).waves = s.waves := rfl
@[simp] theorem State.wakeGang_cores (a : Nat) : (s.wakeGang a).cores = s.cores := rfl
@[simp] theorem State.wakeGang_firstFaults (a : Nat) : (s.wakeGang a).firstFaults = s.firstFaults := rfl
@[simp] theorem State.wakeGang_tlb (a : Nat) : (s.wakeGang a).tlb = s.tlb := rfl
@[simp] theorem State.wakeGang_lines (a : Nat) : (s.wakeGang a).lines = s.lines := rfl
@[simp] theorem State.wakeGang_copies (a : Nat) : (s.wakeGang a).copies = s.copies := rfl
@[simp] theorem State.wakeGang_cdata (a : Nat) : (s.wakeGang a).cdata = s.cdata := rfl
@[simp] theorem State.wakeGang_hbm (a : Nat) : (s.wakeGang a).hbm = s.hbm := rfl
@[simp] theorem State.wakeGang_poison (a : Nat) : (s.wakeGang a).poison = s.poison := rfl
@[simp] theorem State.wakeGang_sealed (a : Nat) : (s.wakeGang a).sealed = s.sealed := rfl
@[simp] theorem State.wakeGang_writes (a : Nat) : (s.wakeGang a).writes = s.writes := rfl
@[simp] theorem State.wakeGang_ilines (a : Nat) : (s.wakeGang a).ilines = s.ilines := rfl
@[simp] theorem State.wakeGang_octets (a : Nat) : (s.wakeGang a).octets = s.octets := rfl
@[simp] theorem State.wakeGang_cmds (a : Nat) : (s.wakeGang a).cmds = s.cmds := rfl
@[simp] theorem State.wakeGang_qfences (a : Nat) : (s.wakeGang a).qfences = s.qfences := rfl
@[simp] theorem State.wakeGang_tokens (a : Nat) : (s.wakeGang a).tokens = s.tokens := rfl
@[simp] theorem State.wakeGang_nodes (a : Nat) : (s.wakeGang a).nodes = s.nodes := rfl
@[simp] theorem State.wakeGang_serving (a : Nat) : (s.wakeGang a).serving = s.serving := rfl
@[simp] theorem State.wakeGang_tasks (a : Nat) : (s.wakeGang a).tasks = s.tasks := rfl
@[simp] theorem State.wakeGang_launches (a : Nat) : (s.wakeGang a).launches = s.launches := rfl
@[simp] theorem State.wakeGang_turns (a : Nat) : (s.wakeGang a).turns = s.turns := rfl
@[simp] theorem State.wakeGang_parks (a : Nat) : (s.wakeGang a).parks = s.parks := rfl
@[simp] theorem State.wakeGang_presences (a : Nat) : (s.wakeGang a).presences = s.presences := rfl
@[simp] theorem State.wakeGang_nextWave (a : Nat) : (s.wakeGang a).nextWave = s.nextWave := rfl
@[simp] theorem State.wakeGang_online (a : Nat) : (s.wakeGang a).online = s.online := rfl
@[simp] theorem State.wakeGang_ctxs (a : Nat) : (s.wakeGang a).ctxs = s.ctxs := rfl
@[simp] theorem State.wakeGang_dbg (a : Nat) : (s.wakeGang a).dbg = s.dbg := rfl
@[simp] theorem State.wakeGang_tsc (a : Nat) : (s.wakeGang a).tsc = s.tsc := rfl
@[simp] theorem State.wakeGang_tscPause (a : Nat) : (s.wakeGang a).tscPause = s.tscPause := rfl
@[simp] theorem State.wakeGang_hostMem (a : Nat) : (s.wakeGang a).hostMem = s.hostMem := rfl
@[simp] theorem State.wakeGang_fab (a : Nat) : (s.wakeGang a).fab = s.fab := rfl
@[simp] theorem State.wakeGang_endpoints (a : Nat) : (s.wakeGang a).endpoints = s.endpoints := rfl
@[simp] theorem State.wakeGang_netReqs (a : Nat) : (s.wakeGang a).netReqs = s.netReqs := rfl
@[simp] theorem State.wakeGang_netReplies (a : Nat) : (s.wakeGang a).netReplies = s.netReplies := rfl
@[simp] theorem State.wakeGang_out (a : Nat) : (s.wakeGang a).out = s.out := rfl
@[simp] theorem State.wakeGang_ldcfg (a : Nat) : (s.wakeGang a).ldcfg = s.ldcfg := rfl
@[simp] theorem State.wakeGang_cached (a : Nat) : (s.wakeGang a).cached = s.cached := rfl
@[simp] theorem State.wakeGang_apctl (a : Nat) : (s.wakeGang a).apctl = s.apctl := rfl
@[simp] theorem State.wakeGang_skipped (a : Nat) : (s.wakeGang a).skipped = s.skipped := rfl
@[simp] theorem State.wakeGang_reports (a : Nat) : (s.wakeGang a).reports = s.reports := rfl
@[simp] theorem State.wakeGang_rounds (a : Nat) : (s.wakeGang a).rounds = s.rounds := rfl
@[simp] theorem State.wakeGang_trust (a : Nat) : (s.wakeGang a).trust = s.trust := rfl

/-! ### State.startWait -/

@[simp] theorem State.startWait_cur (a : Nat) (w : GangWait) : (s.startWait a w).cur = s.cur := rfl
@[simp] theorem State.startWait_agenda (a : Nat) (w : GangWait) : (s.startWait a w).agenda = s.agenda := rfl
@[simp] theorem State.startWait_ticks (a : Nat) (w : GangWait) : (s.startWait a w).ticks = s.ticks := rfl
@[simp] theorem State.startWait_nextId (a : Nat) (w : GangWait) : (s.startWait a w).nextId = s.nextId + 1 := rfl
@[simp] theorem State.startWait_slices (a : Nat) (w : GangWait) : (s.startWait a w).slices = s.slices := rfl
@[simp] theorem State.startWait_gangs (a : Nat) (w : GangWait) :
    (s.startWait a w).gangs = s.gangs.map fun g => if g.gid == a then { g with wait := w, since := s.nextId } else g := rfl
@[simp] theorem State.startWait_regangs (a : Nat) (w : GangWait) : (s.startWait a w).regangs = s.regangs := rfl
@[simp] theorem State.startWait_txns (a : Nat) (w : GangWait) : (s.startWait a w).txns = s.txns := rfl
@[simp] theorem State.startWait_waves (a : Nat) (w : GangWait) : (s.startWait a w).waves = s.waves := rfl
@[simp] theorem State.startWait_cores (a : Nat) (w : GangWait) : (s.startWait a w).cores = s.cores := rfl
@[simp] theorem State.startWait_firstFaults (a : Nat) (w : GangWait) : (s.startWait a w).firstFaults = s.firstFaults := rfl
@[simp] theorem State.startWait_tlb (a : Nat) (w : GangWait) : (s.startWait a w).tlb = s.tlb := rfl
@[simp] theorem State.startWait_lines (a : Nat) (w : GangWait) : (s.startWait a w).lines = s.lines := rfl
@[simp] theorem State.startWait_copies (a : Nat) (w : GangWait) : (s.startWait a w).copies = s.copies := rfl
@[simp] theorem State.startWait_cdata (a : Nat) (w : GangWait) : (s.startWait a w).cdata = s.cdata := rfl
@[simp] theorem State.startWait_hbm (a : Nat) (w : GangWait) : (s.startWait a w).hbm = s.hbm := rfl
@[simp] theorem State.startWait_poison (a : Nat) (w : GangWait) : (s.startWait a w).poison = s.poison := rfl
@[simp] theorem State.startWait_sealed (a : Nat) (w : GangWait) : (s.startWait a w).sealed = s.sealed := rfl
@[simp] theorem State.startWait_writes (a : Nat) (w : GangWait) : (s.startWait a w).writes = s.writes := rfl
@[simp] theorem State.startWait_ilines (a : Nat) (w : GangWait) : (s.startWait a w).ilines = s.ilines := rfl
@[simp] theorem State.startWait_octets (a : Nat) (w : GangWait) : (s.startWait a w).octets = s.octets := rfl
@[simp] theorem State.startWait_cmds (a : Nat) (w : GangWait) : (s.startWait a w).cmds = s.cmds := rfl
@[simp] theorem State.startWait_qfences (a : Nat) (w : GangWait) : (s.startWait a w).qfences = s.qfences := rfl
@[simp] theorem State.startWait_tokens (a : Nat) (w : GangWait) : (s.startWait a w).tokens = s.tokens := rfl
@[simp] theorem State.startWait_nodes (a : Nat) (w : GangWait) : (s.startWait a w).nodes = s.nodes := rfl
@[simp] theorem State.startWait_serving (a : Nat) (w : GangWait) : (s.startWait a w).serving = s.serving := rfl
@[simp] theorem State.startWait_tasks (a : Nat) (w : GangWait) : (s.startWait a w).tasks = s.tasks := rfl
@[simp] theorem State.startWait_launches (a : Nat) (w : GangWait) : (s.startWait a w).launches = s.launches := rfl
@[simp] theorem State.startWait_turns (a : Nat) (w : GangWait) : (s.startWait a w).turns = s.turns := rfl
@[simp] theorem State.startWait_parks (a : Nat) (w : GangWait) : (s.startWait a w).parks = s.parks := rfl
@[simp] theorem State.startWait_presences (a : Nat) (w : GangWait) : (s.startWait a w).presences = s.presences := rfl
@[simp] theorem State.startWait_nextWave (a : Nat) (w : GangWait) : (s.startWait a w).nextWave = s.nextWave := rfl
@[simp] theorem State.startWait_online (a : Nat) (w : GangWait) : (s.startWait a w).online = s.online := rfl
@[simp] theorem State.startWait_ctxs (a : Nat) (w : GangWait) : (s.startWait a w).ctxs = s.ctxs := rfl
@[simp] theorem State.startWait_dbg (a : Nat) (w : GangWait) : (s.startWait a w).dbg = s.dbg := rfl
@[simp] theorem State.startWait_tsc (a : Nat) (w : GangWait) : (s.startWait a w).tsc = s.tsc := rfl
@[simp] theorem State.startWait_tscPause (a : Nat) (w : GangWait) : (s.startWait a w).tscPause = s.tscPause := rfl
@[simp] theorem State.startWait_hostMem (a : Nat) (w : GangWait) : (s.startWait a w).hostMem = s.hostMem := rfl
@[simp] theorem State.startWait_fab (a : Nat) (w : GangWait) : (s.startWait a w).fab = s.fab := rfl
@[simp] theorem State.startWait_endpoints (a : Nat) (w : GangWait) : (s.startWait a w).endpoints = s.endpoints := rfl
@[simp] theorem State.startWait_netReqs (a : Nat) (w : GangWait) : (s.startWait a w).netReqs = s.netReqs := rfl
@[simp] theorem State.startWait_netReplies (a : Nat) (w : GangWait) : (s.startWait a w).netReplies = s.netReplies := rfl
@[simp] theorem State.startWait_out (a : Nat) (w : GangWait) : (s.startWait a w).out = s.out := rfl
@[simp] theorem State.startWait_ldcfg (a : Nat) (w : GangWait) : (s.startWait a w).ldcfg = s.ldcfg := rfl
@[simp] theorem State.startWait_cached (a : Nat) (w : GangWait) : (s.startWait a w).cached = s.cached := rfl
@[simp] theorem State.startWait_apctl (a : Nat) (w : GangWait) : (s.startWait a w).apctl = s.apctl := rfl
@[simp] theorem State.startWait_skipped (a : Nat) (w : GangWait) : (s.startWait a w).skipped = s.skipped := rfl
@[simp] theorem State.startWait_reports (a : Nat) (w : GangWait) : (s.startWait a w).reports = s.reports := rfl
@[simp] theorem State.startWait_rounds (a : Nat) (w : GangWait) : (s.startWait a w).rounds = s.rounds := rfl
@[simp] theorem State.startWait_trust (a : Nat) (w : GangWait) : (s.startWait a w).trust = s.trust := rfl

/-! ### State.queueReply -/

@[simp] theorem State.queueReply_cur (c : Fin 17) (p : BitVec 9) (n : Nat) (x : Word) : (s.queueReply c p n x).cur = s.cur := rfl
@[simp] theorem State.queueReply_agenda (c : Fin 17) (p : BitVec 9) (n : Nat) (x : Word) : (s.queueReply c p n x).agenda = s.agenda := rfl
@[simp] theorem State.queueReply_ticks (c : Fin 17) (p : BitVec 9) (n : Nat) (x : Word) : (s.queueReply c p n x).ticks = s.ticks := rfl
@[simp] theorem State.queueReply_nextId (c : Fin 17) (p : BitVec 9) (n : Nat) (x : Word) : (s.queueReply c p n x).nextId = s.nextId + 1 := rfl
@[simp] theorem State.queueReply_slices (c : Fin 17) (p : BitVec 9) (n : Nat) (x : Word) : (s.queueReply c p n x).slices = s.slices := rfl
@[simp] theorem State.queueReply_gangs (c : Fin 17) (p : BitVec 9) (n : Nat) (x : Word) : (s.queueReply c p n x).gangs = s.gangs := rfl
@[simp] theorem State.queueReply_regangs (c : Fin 17) (p : BitVec 9) (n : Nat) (x : Word) : (s.queueReply c p n x).regangs = s.regangs := rfl
@[simp] theorem State.queueReply_txns (c : Fin 17) (p : BitVec 9) (n : Nat) (x : Word) : (s.queueReply c p n x).txns = s.txns := rfl
@[simp] theorem State.queueReply_waves (c : Fin 17) (p : BitVec 9) (n : Nat) (x : Word) : (s.queueReply c p n x).waves = s.waves := rfl
@[simp] theorem State.queueReply_cores (c : Fin 17) (p : BitVec 9) (n : Nat) (x : Word) : (s.queueReply c p n x).cores = s.cores := rfl
@[simp] theorem State.queueReply_firstFaults (c : Fin 17) (p : BitVec 9) (n : Nat) (x : Word) : (s.queueReply c p n x).firstFaults = s.firstFaults := rfl
@[simp] theorem State.queueReply_tlb (c : Fin 17) (p : BitVec 9) (n : Nat) (x : Word) : (s.queueReply c p n x).tlb = s.tlb := rfl
@[simp] theorem State.queueReply_lines (c : Fin 17) (p : BitVec 9) (n : Nat) (x : Word) : (s.queueReply c p n x).lines = s.lines := rfl
@[simp] theorem State.queueReply_copies (c : Fin 17) (p : BitVec 9) (n : Nat) (x : Word) : (s.queueReply c p n x).copies = s.copies := rfl
@[simp] theorem State.queueReply_cdata (c : Fin 17) (p : BitVec 9) (n : Nat) (x : Word) : (s.queueReply c p n x).cdata = s.cdata := rfl
@[simp] theorem State.queueReply_hbm (c : Fin 17) (p : BitVec 9) (n : Nat) (x : Word) : (s.queueReply c p n x).hbm = s.hbm := rfl
@[simp] theorem State.queueReply_poison (c : Fin 17) (p : BitVec 9) (n : Nat) (x : Word) : (s.queueReply c p n x).poison = s.poison := rfl
@[simp] theorem State.queueReply_sealed (c : Fin 17) (p : BitVec 9) (n : Nat) (x : Word) : (s.queueReply c p n x).sealed = s.sealed := rfl
@[simp] theorem State.queueReply_writes (c : Fin 17) (p : BitVec 9) (n : Nat) (x : Word) : (s.queueReply c p n x).writes = s.writes := rfl
@[simp] theorem State.queueReply_ilines (c : Fin 17) (p : BitVec 9) (n : Nat) (x : Word) : (s.queueReply c p n x).ilines = s.ilines := rfl
@[simp] theorem State.queueReply_octets (c : Fin 17) (p : BitVec 9) (n : Nat) (x : Word) : (s.queueReply c p n x).octets = s.octets := rfl
@[simp] theorem State.queueReply_cmds (c : Fin 17) (p : BitVec 9) (n : Nat) (x : Word) : (s.queueReply c p n x).cmds = s.cmds := rfl
@[simp] theorem State.queueReply_qfences (c : Fin 17) (p : BitVec 9) (n : Nat) (x : Word) : (s.queueReply c p n x).qfences = s.qfences := rfl
@[simp] theorem State.queueReply_tokens (c : Fin 17) (p : BitVec 9) (n : Nat) (x : Word) : (s.queueReply c p n x).tokens = s.tokens := rfl
@[simp] theorem State.queueReply_nodes (c : Fin 17) (p : BitVec 9) (n : Nat) (x : Word) : (s.queueReply c p n x).nodes = s.nodes := rfl
@[simp] theorem State.queueReply_serving (c : Fin 17) (p : BitVec 9) (n : Nat) (x : Word) : (s.queueReply c p n x).serving = s.serving := rfl
@[simp] theorem State.queueReply_tasks (c : Fin 17) (p : BitVec 9) (n : Nat) (x : Word) : (s.queueReply c p n x).tasks = s.tasks := rfl
@[simp] theorem State.queueReply_launches (c : Fin 17) (p : BitVec 9) (n : Nat) (x : Word) : (s.queueReply c p n x).launches = s.launches := rfl
@[simp] theorem State.queueReply_turns (c : Fin 17) (p : BitVec 9) (n : Nat) (x : Word) : (s.queueReply c p n x).turns = s.turns := rfl
@[simp] theorem State.queueReply_parks (c : Fin 17) (p : BitVec 9) (n : Nat) (x : Word) : (s.queueReply c p n x).parks = s.parks := rfl
@[simp] theorem State.queueReply_presences (c : Fin 17) (p : BitVec 9) (n : Nat) (x : Word) : (s.queueReply c p n x).presences = s.presences := rfl
@[simp] theorem State.queueReply_nextWave (c : Fin 17) (p : BitVec 9) (n : Nat) (x : Word) : (s.queueReply c p n x).nextWave = s.nextWave := rfl
@[simp] theorem State.queueReply_online (c : Fin 17) (p : BitVec 9) (n : Nat) (x : Word) : (s.queueReply c p n x).online = s.online := rfl
@[simp] theorem State.queueReply_ctxs (c : Fin 17) (p : BitVec 9) (n : Nat) (x : Word) : (s.queueReply c p n x).ctxs = s.ctxs := rfl
@[simp] theorem State.queueReply_dbg (c : Fin 17) (p : BitVec 9) (n : Nat) (x : Word) : (s.queueReply c p n x).dbg = s.dbg := rfl
@[simp] theorem State.queueReply_tsc (c : Fin 17) (p : BitVec 9) (n : Nat) (x : Word) : (s.queueReply c p n x).tsc = s.tsc := rfl
@[simp] theorem State.queueReply_tscPause (c : Fin 17) (p : BitVec 9) (n : Nat) (x : Word) : (s.queueReply c p n x).tscPause = s.tscPause := rfl
@[simp] theorem State.queueReply_hostMem (c : Fin 17) (p : BitVec 9) (n : Nat) (x : Word) : (s.queueReply c p n x).hostMem = s.hostMem := rfl
@[simp] theorem State.queueReply_fab (c : Fin 17) (p : BitVec 9) (n : Nat) (x : Word) :
    (s.queueReply c p n x).fab = { s.fab with replies := s.fab.replies ++ [⟨s.nextId, c, p, n, x⟩] } := rfl
@[simp] theorem State.queueReply_endpoints (c : Fin 17) (p : BitVec 9) (n : Nat) (x : Word) : (s.queueReply c p n x).endpoints = s.endpoints := rfl
@[simp] theorem State.queueReply_netReqs (c : Fin 17) (p : BitVec 9) (n : Nat) (x : Word) : (s.queueReply c p n x).netReqs = s.netReqs := rfl
@[simp] theorem State.queueReply_netReplies (c : Fin 17) (p : BitVec 9) (n : Nat) (x : Word) : (s.queueReply c p n x).netReplies = s.netReplies := rfl
@[simp] theorem State.queueReply_out (c : Fin 17) (p : BitVec 9) (n : Nat) (x : Word) : (s.queueReply c p n x).out = s.out := rfl
@[simp] theorem State.queueReply_ldcfg (c : Fin 17) (p : BitVec 9) (n : Nat) (x : Word) : (s.queueReply c p n x).ldcfg = s.ldcfg := rfl
@[simp] theorem State.queueReply_cached (c : Fin 17) (p : BitVec 9) (n : Nat) (x : Word) : (s.queueReply c p n x).cached = s.cached := rfl
@[simp] theorem State.queueReply_apctl (c : Fin 17) (p : BitVec 9) (n : Nat) (x : Word) : (s.queueReply c p n x).apctl = s.apctl := rfl
@[simp] theorem State.queueReply_skipped (c : Fin 17) (p : BitVec 9) (n : Nat) (x : Word) : (s.queueReply c p n x).skipped = s.skipped := rfl
@[simp] theorem State.queueReply_reports (c : Fin 17) (p : BitVec 9) (n : Nat) (x : Word) : (s.queueReply c p n x).reports = s.reports := rfl
@[simp] theorem State.queueReply_rounds (c : Fin 17) (p : BitVec 9) (n : Nat) (x : Word) : (s.queueReply c p n x).rounds = s.rounds := rfl
@[simp] theorem State.queueReply_trust (c : Fin 17) (p : BitVec 9) (n : Nat) (x : Word) : (s.queueReply c p n x).trust = s.trust := rfl

/-! ### State.setOctet -/

@[simp] theorem State.setOctet_cur (o : OctetRec) : (s.setOctet o).cur = s.cur := rfl
@[simp] theorem State.setOctet_agenda (o : OctetRec) : (s.setOctet o).agenda = s.agenda := rfl
@[simp] theorem State.setOctet_ticks (o : OctetRec) : (s.setOctet o).ticks = s.ticks := rfl
@[simp] theorem State.setOctet_nextId (o : OctetRec) : (s.setOctet o).nextId = s.nextId := rfl
@[simp] theorem State.setOctet_slices (o : OctetRec) : (s.setOctet o).slices = s.slices := rfl
@[simp] theorem State.setOctet_gangs (o : OctetRec) : (s.setOctet o).gangs = s.gangs := rfl
@[simp] theorem State.setOctet_regangs (o : OctetRec) : (s.setOctet o).regangs = s.regangs := rfl
@[simp] theorem State.setOctet_txns (o : OctetRec) : (s.setOctet o).txns = s.txns := rfl
@[simp] theorem State.setOctet_waves (o : OctetRec) : (s.setOctet o).waves = s.waves := rfl
@[simp] theorem State.setOctet_cores (o : OctetRec) : (s.setOctet o).cores = s.cores := rfl
@[simp] theorem State.setOctet_firstFaults (o : OctetRec) : (s.setOctet o).firstFaults = s.firstFaults := rfl
@[simp] theorem State.setOctet_tlb (o : OctetRec) : (s.setOctet o).tlb = s.tlb := rfl
@[simp] theorem State.setOctet_lines (o : OctetRec) : (s.setOctet o).lines = s.lines := rfl
@[simp] theorem State.setOctet_copies (o : OctetRec) : (s.setOctet o).copies = s.copies := rfl
@[simp] theorem State.setOctet_cdata (o : OctetRec) : (s.setOctet o).cdata = s.cdata := rfl
@[simp] theorem State.setOctet_hbm (o : OctetRec) : (s.setOctet o).hbm = s.hbm := rfl
@[simp] theorem State.setOctet_poison (o : OctetRec) : (s.setOctet o).poison = s.poison := rfl
@[simp] theorem State.setOctet_sealed (o : OctetRec) : (s.setOctet o).sealed = s.sealed := rfl
@[simp] theorem State.setOctet_writes (o : OctetRec) : (s.setOctet o).writes = s.writes := rfl
@[simp] theorem State.setOctet_ilines (o : OctetRec) : (s.setOctet o).ilines = s.ilines := rfl
@[simp] theorem State.setOctet_octets (o : OctetRec) :
    (s.setOctet o).octets = o :: s.octets.filter fun x => !(x.core == o.core && x.oct == o.oct) := rfl
@[simp] theorem State.setOctet_cmds (o : OctetRec) : (s.setOctet o).cmds = s.cmds := rfl
@[simp] theorem State.setOctet_qfences (o : OctetRec) : (s.setOctet o).qfences = s.qfences := rfl
@[simp] theorem State.setOctet_tokens (o : OctetRec) : (s.setOctet o).tokens = s.tokens := rfl
@[simp] theorem State.setOctet_nodes (o : OctetRec) : (s.setOctet o).nodes = s.nodes := rfl
@[simp] theorem State.setOctet_serving (o : OctetRec) : (s.setOctet o).serving = s.serving := rfl
@[simp] theorem State.setOctet_tasks (o : OctetRec) : (s.setOctet o).tasks = s.tasks := rfl
@[simp] theorem State.setOctet_launches (o : OctetRec) : (s.setOctet o).launches = s.launches := rfl
@[simp] theorem State.setOctet_turns (o : OctetRec) : (s.setOctet o).turns = s.turns := rfl
@[simp] theorem State.setOctet_parks (o : OctetRec) : (s.setOctet o).parks = s.parks := rfl
@[simp] theorem State.setOctet_presences (o : OctetRec) : (s.setOctet o).presences = s.presences := rfl
@[simp] theorem State.setOctet_nextWave (o : OctetRec) : (s.setOctet o).nextWave = s.nextWave := rfl
@[simp] theorem State.setOctet_online (o : OctetRec) : (s.setOctet o).online = s.online := rfl
@[simp] theorem State.setOctet_ctxs (o : OctetRec) : (s.setOctet o).ctxs = s.ctxs := rfl
@[simp] theorem State.setOctet_dbg (o : OctetRec) : (s.setOctet o).dbg = s.dbg := rfl
@[simp] theorem State.setOctet_tsc (o : OctetRec) : (s.setOctet o).tsc = s.tsc := rfl
@[simp] theorem State.setOctet_tscPause (o : OctetRec) : (s.setOctet o).tscPause = s.tscPause := rfl
@[simp] theorem State.setOctet_hostMem (o : OctetRec) : (s.setOctet o).hostMem = s.hostMem := rfl
@[simp] theorem State.setOctet_fab (o : OctetRec) : (s.setOctet o).fab = s.fab := rfl
@[simp] theorem State.setOctet_endpoints (o : OctetRec) : (s.setOctet o).endpoints = s.endpoints := rfl
@[simp] theorem State.setOctet_netReqs (o : OctetRec) : (s.setOctet o).netReqs = s.netReqs := rfl
@[simp] theorem State.setOctet_netReplies (o : OctetRec) : (s.setOctet o).netReplies = s.netReplies := rfl
@[simp] theorem State.setOctet_out (o : OctetRec) : (s.setOctet o).out = s.out := rfl
@[simp] theorem State.setOctet_ldcfg (o : OctetRec) : (s.setOctet o).ldcfg = s.ldcfg := rfl
@[simp] theorem State.setOctet_cached (o : OctetRec) : (s.setOctet o).cached = s.cached := rfl
@[simp] theorem State.setOctet_apctl (o : OctetRec) : (s.setOctet o).apctl = s.apctl := rfl
@[simp] theorem State.setOctet_skipped (o : OctetRec) : (s.setOctet o).skipped = s.skipped := rfl
@[simp] theorem State.setOctet_reports (o : OctetRec) : (s.setOctet o).reports = s.reports := rfl
@[simp] theorem State.setOctet_rounds (o : OctetRec) : (s.setOctet o).rounds = s.rounds := rfl
@[simp] theorem State.setOctet_trust (o : OctetRec) : (s.setOctet o).trust = s.trust := rfl

/-! ### State.setNode -/

@[simp] theorem State.setNode_cur (n : NodeRec) : (s.setNode n).cur = s.cur := rfl
@[simp] theorem State.setNode_agenda (n : NodeRec) : (s.setNode n).agenda = s.agenda := rfl
@[simp] theorem State.setNode_ticks (n : NodeRec) : (s.setNode n).ticks = s.ticks := rfl
@[simp] theorem State.setNode_nextId (n : NodeRec) : (s.setNode n).nextId = s.nextId := rfl
@[simp] theorem State.setNode_slices (n : NodeRec) : (s.setNode n).slices = s.slices := rfl
@[simp] theorem State.setNode_gangs (n : NodeRec) : (s.setNode n).gangs = s.gangs := rfl
@[simp] theorem State.setNode_regangs (n : NodeRec) : (s.setNode n).regangs = s.regangs := rfl
@[simp] theorem State.setNode_txns (n : NodeRec) : (s.setNode n).txns = s.txns := rfl
@[simp] theorem State.setNode_waves (n : NodeRec) : (s.setNode n).waves = s.waves := rfl
@[simp] theorem State.setNode_cores (n : NodeRec) : (s.setNode n).cores = s.cores := rfl
@[simp] theorem State.setNode_firstFaults (n : NodeRec) : (s.setNode n).firstFaults = s.firstFaults := rfl
@[simp] theorem State.setNode_tlb (n : NodeRec) : (s.setNode n).tlb = s.tlb := rfl
@[simp] theorem State.setNode_lines (n : NodeRec) : (s.setNode n).lines = s.lines := rfl
@[simp] theorem State.setNode_copies (n : NodeRec) : (s.setNode n).copies = s.copies := rfl
@[simp] theorem State.setNode_cdata (n : NodeRec) : (s.setNode n).cdata = s.cdata := rfl
@[simp] theorem State.setNode_hbm (n : NodeRec) : (s.setNode n).hbm = s.hbm := rfl
@[simp] theorem State.setNode_poison (n : NodeRec) : (s.setNode n).poison = s.poison := rfl
@[simp] theorem State.setNode_sealed (n : NodeRec) : (s.setNode n).sealed = s.sealed := rfl
@[simp] theorem State.setNode_writes (n : NodeRec) : (s.setNode n).writes = s.writes := rfl
@[simp] theorem State.setNode_ilines (n : NodeRec) : (s.setNode n).ilines = s.ilines := rfl
@[simp] theorem State.setNode_octets (n : NodeRec) : (s.setNode n).octets = s.octets := rfl
@[simp] theorem State.setNode_cmds (n : NodeRec) : (s.setNode n).cmds = s.cmds := rfl
@[simp] theorem State.setNode_qfences (n : NodeRec) : (s.setNode n).qfences = s.qfences := rfl
@[simp] theorem State.setNode_tokens (n : NodeRec) : (s.setNode n).tokens = s.tokens := rfl
@[simp] theorem State.setNode_nodes (n : NodeRec) : (s.setNode n).nodes = n :: s.nodes.filter fun x => x.node != n.node := rfl
@[simp] theorem State.setNode_serving (n : NodeRec) : (s.setNode n).serving = s.serving := rfl
@[simp] theorem State.setNode_tasks (n : NodeRec) : (s.setNode n).tasks = s.tasks := rfl
@[simp] theorem State.setNode_launches (n : NodeRec) : (s.setNode n).launches = s.launches := rfl
@[simp] theorem State.setNode_turns (n : NodeRec) : (s.setNode n).turns = s.turns := rfl
@[simp] theorem State.setNode_parks (n : NodeRec) : (s.setNode n).parks = s.parks := rfl
@[simp] theorem State.setNode_presences (n : NodeRec) : (s.setNode n).presences = s.presences := rfl
@[simp] theorem State.setNode_nextWave (n : NodeRec) : (s.setNode n).nextWave = s.nextWave := rfl
@[simp] theorem State.setNode_online (n : NodeRec) : (s.setNode n).online = s.online := rfl
@[simp] theorem State.setNode_ctxs (n : NodeRec) : (s.setNode n).ctxs = s.ctxs := rfl
@[simp] theorem State.setNode_dbg (n : NodeRec) : (s.setNode n).dbg = s.dbg := rfl
@[simp] theorem State.setNode_tsc (n : NodeRec) : (s.setNode n).tsc = s.tsc := rfl
@[simp] theorem State.setNode_tscPause (n : NodeRec) : (s.setNode n).tscPause = s.tscPause := rfl
@[simp] theorem State.setNode_hostMem (n : NodeRec) : (s.setNode n).hostMem = s.hostMem := rfl
@[simp] theorem State.setNode_fab (n : NodeRec) : (s.setNode n).fab = s.fab := rfl
@[simp] theorem State.setNode_endpoints (n : NodeRec) : (s.setNode n).endpoints = s.endpoints := rfl
@[simp] theorem State.setNode_netReqs (n : NodeRec) : (s.setNode n).netReqs = s.netReqs := rfl
@[simp] theorem State.setNode_netReplies (n : NodeRec) : (s.setNode n).netReplies = s.netReplies := rfl
@[simp] theorem State.setNode_out (n : NodeRec) : (s.setNode n).out = s.out := rfl
@[simp] theorem State.setNode_ldcfg (n : NodeRec) : (s.setNode n).ldcfg = s.ldcfg := rfl
@[simp] theorem State.setNode_cached (n : NodeRec) : (s.setNode n).cached = s.cached := rfl
@[simp] theorem State.setNode_apctl (n : NodeRec) : (s.setNode n).apctl = s.apctl := rfl
@[simp] theorem State.setNode_skipped (n : NodeRec) : (s.setNode n).skipped = s.skipped := rfl
@[simp] theorem State.setNode_reports (n : NodeRec) : (s.setNode n).reports = s.reports := rfl
@[simp] theorem State.setNode_rounds (n : NodeRec) : (s.setNode n).rounds = s.rounds := rfl
@[simp] theorem State.setNode_trust (n : NodeRec) : (s.setNode n).trust = s.trust := rfl

/-! ### State.modEntries -/

@[simp] theorem State.modEntries_cur (n : BitVec 16) (f : List Entry → List Entry) : (s.modEntries n f).cur = s.cur := rfl
@[simp] theorem State.modEntries_agenda (n : BitVec 16) (f : List Entry → List Entry) : (s.modEntries n f).agenda = s.agenda := rfl
@[simp] theorem State.modEntries_ticks (n : BitVec 16) (f : List Entry → List Entry) : (s.modEntries n f).ticks = s.ticks := rfl
@[simp] theorem State.modEntries_nextId (n : BitVec 16) (f : List Entry → List Entry) : (s.modEntries n f).nextId = s.nextId := rfl
@[simp] theorem State.modEntries_slices (n : BitVec 16) (f : List Entry → List Entry) : (s.modEntries n f).slices = s.slices := rfl
@[simp] theorem State.modEntries_gangs (n : BitVec 16) (f : List Entry → List Entry) : (s.modEntries n f).gangs = s.gangs := rfl
@[simp] theorem State.modEntries_regangs (n : BitVec 16) (f : List Entry → List Entry) : (s.modEntries n f).regangs = s.regangs := rfl
@[simp] theorem State.modEntries_txns (n : BitVec 16) (f : List Entry → List Entry) : (s.modEntries n f).txns = s.txns := rfl
@[simp] theorem State.modEntries_waves (n : BitVec 16) (f : List Entry → List Entry) : (s.modEntries n f).waves = s.waves := rfl
@[simp] theorem State.modEntries_cores (n : BitVec 16) (f : List Entry → List Entry) : (s.modEntries n f).cores = s.cores := rfl
@[simp] theorem State.modEntries_firstFaults (n : BitVec 16) (f : List Entry → List Entry) : (s.modEntries n f).firstFaults = s.firstFaults := rfl
@[simp] theorem State.modEntries_tlb (n : BitVec 16) (f : List Entry → List Entry) : (s.modEntries n f).tlb = s.tlb := rfl
@[simp] theorem State.modEntries_lines (n : BitVec 16) (f : List Entry → List Entry) : (s.modEntries n f).lines = s.lines := rfl
@[simp] theorem State.modEntries_copies (n : BitVec 16) (f : List Entry → List Entry) : (s.modEntries n f).copies = s.copies := rfl
@[simp] theorem State.modEntries_cdata (n : BitVec 16) (f : List Entry → List Entry) : (s.modEntries n f).cdata = s.cdata := rfl
@[simp] theorem State.modEntries_hbm (n : BitVec 16) (f : List Entry → List Entry) : (s.modEntries n f).hbm = s.hbm := rfl
@[simp] theorem State.modEntries_poison (n : BitVec 16) (f : List Entry → List Entry) : (s.modEntries n f).poison = s.poison := rfl
@[simp] theorem State.modEntries_sealed (n : BitVec 16) (f : List Entry → List Entry) : (s.modEntries n f).sealed = s.sealed := rfl
@[simp] theorem State.modEntries_writes (n : BitVec 16) (f : List Entry → List Entry) : (s.modEntries n f).writes = s.writes := rfl
@[simp] theorem State.modEntries_ilines (n : BitVec 16) (f : List Entry → List Entry) : (s.modEntries n f).ilines = s.ilines := rfl
@[simp] theorem State.modEntries_octets (n : BitVec 16) (f : List Entry → List Entry) : (s.modEntries n f).octets = s.octets := rfl
@[simp] theorem State.modEntries_cmds (n : BitVec 16) (f : List Entry → List Entry) : (s.modEntries n f).cmds = s.cmds := rfl
@[simp] theorem State.modEntries_qfences (n : BitVec 16) (f : List Entry → List Entry) : (s.modEntries n f).qfences = s.qfences := rfl
@[simp] theorem State.modEntries_tokens (n : BitVec 16) (f : List Entry → List Entry) : (s.modEntries n f).tokens = s.tokens := rfl
@[simp] theorem State.modEntries_serving (n : BitVec 16) (f : List Entry → List Entry) : (s.modEntries n f).serving = s.serving := rfl
@[simp] theorem State.modEntries_tasks (n : BitVec 16) (f : List Entry → List Entry) : (s.modEntries n f).tasks = s.tasks := rfl
@[simp] theorem State.modEntries_launches (n : BitVec 16) (f : List Entry → List Entry) : (s.modEntries n f).launches = s.launches := rfl
@[simp] theorem State.modEntries_turns (n : BitVec 16) (f : List Entry → List Entry) : (s.modEntries n f).turns = s.turns := rfl
@[simp] theorem State.modEntries_parks (n : BitVec 16) (f : List Entry → List Entry) : (s.modEntries n f).parks = s.parks := rfl
@[simp] theorem State.modEntries_presences (n : BitVec 16) (f : List Entry → List Entry) : (s.modEntries n f).presences = s.presences := rfl
@[simp] theorem State.modEntries_nextWave (n : BitVec 16) (f : List Entry → List Entry) : (s.modEntries n f).nextWave = s.nextWave := rfl
@[simp] theorem State.modEntries_online (n : BitVec 16) (f : List Entry → List Entry) : (s.modEntries n f).online = s.online := rfl
@[simp] theorem State.modEntries_ctxs (n : BitVec 16) (f : List Entry → List Entry) : (s.modEntries n f).ctxs = s.ctxs := rfl
@[simp] theorem State.modEntries_dbg (n : BitVec 16) (f : List Entry → List Entry) : (s.modEntries n f).dbg = s.dbg := rfl
@[simp] theorem State.modEntries_tsc (n : BitVec 16) (f : List Entry → List Entry) : (s.modEntries n f).tsc = s.tsc := rfl
@[simp] theorem State.modEntries_tscPause (n : BitVec 16) (f : List Entry → List Entry) : (s.modEntries n f).tscPause = s.tscPause := rfl
@[simp] theorem State.modEntries_hostMem (n : BitVec 16) (f : List Entry → List Entry) : (s.modEntries n f).hostMem = s.hostMem := rfl
@[simp] theorem State.modEntries_fab (n : BitVec 16) (f : List Entry → List Entry) : (s.modEntries n f).fab = s.fab := rfl
@[simp] theorem State.modEntries_endpoints (n : BitVec 16) (f : List Entry → List Entry) : (s.modEntries n f).endpoints = s.endpoints := rfl
@[simp] theorem State.modEntries_netReqs (n : BitVec 16) (f : List Entry → List Entry) : (s.modEntries n f).netReqs = s.netReqs := rfl
@[simp] theorem State.modEntries_netReplies (n : BitVec 16) (f : List Entry → List Entry) : (s.modEntries n f).netReplies = s.netReplies := rfl
@[simp] theorem State.modEntries_out (n : BitVec 16) (f : List Entry → List Entry) : (s.modEntries n f).out = s.out := rfl
@[simp] theorem State.modEntries_ldcfg (n : BitVec 16) (f : List Entry → List Entry) : (s.modEntries n f).ldcfg = s.ldcfg := rfl
@[simp] theorem State.modEntries_cached (n : BitVec 16) (f : List Entry → List Entry) : (s.modEntries n f).cached = s.cached := rfl
@[simp] theorem State.modEntries_apctl (n : BitVec 16) (f : List Entry → List Entry) : (s.modEntries n f).apctl = s.apctl := rfl
@[simp] theorem State.modEntries_skipped (n : BitVec 16) (f : List Entry → List Entry) : (s.modEntries n f).skipped = s.skipped := rfl
@[simp] theorem State.modEntries_reports (n : BitVec 16) (f : List Entry → List Entry) : (s.modEntries n f).reports = s.reports := rfl
@[simp] theorem State.modEntries_rounds (n : BitVec 16) (f : List Entry → List Entry) : (s.modEntries n f).rounds = s.rounds := rfl
@[simp] theorem State.modEntries_trust (n : BitVec 16) (f : List Entry → List Entry) : (s.modEntries n f).trust = s.trust := rfl

/-! ### State.modTask -/

@[simp] theorem State.modTask_cur (a : Nat) (f : Task → Task) : (s.modTask a f).cur = s.cur := rfl
@[simp] theorem State.modTask_agenda (a : Nat) (f : Task → Task) : (s.modTask a f).agenda = s.agenda := rfl
@[simp] theorem State.modTask_ticks (a : Nat) (f : Task → Task) : (s.modTask a f).ticks = s.ticks := rfl
@[simp] theorem State.modTask_nextId (a : Nat) (f : Task → Task) : (s.modTask a f).nextId = s.nextId := rfl
@[simp] theorem State.modTask_slices (a : Nat) (f : Task → Task) : (s.modTask a f).slices = s.slices := rfl
@[simp] theorem State.modTask_gangs (a : Nat) (f : Task → Task) : (s.modTask a f).gangs = s.gangs := rfl
@[simp] theorem State.modTask_regangs (a : Nat) (f : Task → Task) : (s.modTask a f).regangs = s.regangs := rfl
@[simp] theorem State.modTask_txns (a : Nat) (f : Task → Task) : (s.modTask a f).txns = s.txns := rfl
@[simp] theorem State.modTask_waves (a : Nat) (f : Task → Task) : (s.modTask a f).waves = s.waves := rfl
@[simp] theorem State.modTask_cores (a : Nat) (f : Task → Task) : (s.modTask a f).cores = s.cores := rfl
@[simp] theorem State.modTask_firstFaults (a : Nat) (f : Task → Task) : (s.modTask a f).firstFaults = s.firstFaults := rfl
@[simp] theorem State.modTask_tlb (a : Nat) (f : Task → Task) : (s.modTask a f).tlb = s.tlb := rfl
@[simp] theorem State.modTask_lines (a : Nat) (f : Task → Task) : (s.modTask a f).lines = s.lines := rfl
@[simp] theorem State.modTask_copies (a : Nat) (f : Task → Task) : (s.modTask a f).copies = s.copies := rfl
@[simp] theorem State.modTask_cdata (a : Nat) (f : Task → Task) : (s.modTask a f).cdata = s.cdata := rfl
@[simp] theorem State.modTask_hbm (a : Nat) (f : Task → Task) : (s.modTask a f).hbm = s.hbm := rfl
@[simp] theorem State.modTask_poison (a : Nat) (f : Task → Task) : (s.modTask a f).poison = s.poison := rfl
@[simp] theorem State.modTask_sealed (a : Nat) (f : Task → Task) : (s.modTask a f).sealed = s.sealed := rfl
@[simp] theorem State.modTask_writes (a : Nat) (f : Task → Task) : (s.modTask a f).writes = s.writes := rfl
@[simp] theorem State.modTask_ilines (a : Nat) (f : Task → Task) : (s.modTask a f).ilines = s.ilines := rfl
@[simp] theorem State.modTask_octets (a : Nat) (f : Task → Task) : (s.modTask a f).octets = s.octets := rfl
@[simp] theorem State.modTask_cmds (a : Nat) (f : Task → Task) : (s.modTask a f).cmds = s.cmds := rfl
@[simp] theorem State.modTask_qfences (a : Nat) (f : Task → Task) : (s.modTask a f).qfences = s.qfences := rfl
@[simp] theorem State.modTask_tokens (a : Nat) (f : Task → Task) : (s.modTask a f).tokens = s.tokens := rfl
@[simp] theorem State.modTask_nodes (a : Nat) (f : Task → Task) : (s.modTask a f).nodes = s.nodes := rfl
@[simp] theorem State.modTask_serving (a : Nat) (f : Task → Task) : (s.modTask a f).serving = s.serving := rfl
@[simp] theorem State.modTask_tasks (a : Nat) (f : Task → Task) : (s.modTask a f).tasks = s.tasks.map fun t => if t.id == a then f t else t := rfl
@[simp] theorem State.modTask_launches (a : Nat) (f : Task → Task) : (s.modTask a f).launches = s.launches := rfl
@[simp] theorem State.modTask_turns (a : Nat) (f : Task → Task) : (s.modTask a f).turns = s.turns := rfl
@[simp] theorem State.modTask_parks (a : Nat) (f : Task → Task) : (s.modTask a f).parks = s.parks := rfl
@[simp] theorem State.modTask_presences (a : Nat) (f : Task → Task) : (s.modTask a f).presences = s.presences := rfl
@[simp] theorem State.modTask_nextWave (a : Nat) (f : Task → Task) : (s.modTask a f).nextWave = s.nextWave := rfl
@[simp] theorem State.modTask_online (a : Nat) (f : Task → Task) : (s.modTask a f).online = s.online := rfl
@[simp] theorem State.modTask_ctxs (a : Nat) (f : Task → Task) : (s.modTask a f).ctxs = s.ctxs := rfl
@[simp] theorem State.modTask_dbg (a : Nat) (f : Task → Task) : (s.modTask a f).dbg = s.dbg := rfl
@[simp] theorem State.modTask_tsc (a : Nat) (f : Task → Task) : (s.modTask a f).tsc = s.tsc := rfl
@[simp] theorem State.modTask_tscPause (a : Nat) (f : Task → Task) : (s.modTask a f).tscPause = s.tscPause := rfl
@[simp] theorem State.modTask_hostMem (a : Nat) (f : Task → Task) : (s.modTask a f).hostMem = s.hostMem := rfl
@[simp] theorem State.modTask_fab (a : Nat) (f : Task → Task) : (s.modTask a f).fab = s.fab := rfl
@[simp] theorem State.modTask_endpoints (a : Nat) (f : Task → Task) : (s.modTask a f).endpoints = s.endpoints := rfl
@[simp] theorem State.modTask_netReqs (a : Nat) (f : Task → Task) : (s.modTask a f).netReqs = s.netReqs := rfl
@[simp] theorem State.modTask_netReplies (a : Nat) (f : Task → Task) : (s.modTask a f).netReplies = s.netReplies := rfl
@[simp] theorem State.modTask_out (a : Nat) (f : Task → Task) : (s.modTask a f).out = s.out := rfl
@[simp] theorem State.modTask_ldcfg (a : Nat) (f : Task → Task) : (s.modTask a f).ldcfg = s.ldcfg := rfl
@[simp] theorem State.modTask_cached (a : Nat) (f : Task → Task) : (s.modTask a f).cached = s.cached := rfl
@[simp] theorem State.modTask_apctl (a : Nat) (f : Task → Task) : (s.modTask a f).apctl = s.apctl := rfl
@[simp] theorem State.modTask_skipped (a : Nat) (f : Task → Task) : (s.modTask a f).skipped = s.skipped := rfl
@[simp] theorem State.modTask_reports (a : Nat) (f : Task → Task) : (s.modTask a f).reports = s.reports := rfl
@[simp] theorem State.modTask_rounds (a : Nat) (f : Task → Task) : (s.modTask a f).rounds = s.rounds := rfl
@[simp] theorem State.modTask_trust (a : Nat) (f : Task → Task) : (s.modTask a f).trust = s.trust := rfl

/-! ### State.modCmd -/

@[simp] theorem State.modCmd_cur (a : Nat) (f : Cmd → Cmd) : (s.modCmd a f).cur = s.cur := rfl
@[simp] theorem State.modCmd_agenda (a : Nat) (f : Cmd → Cmd) : (s.modCmd a f).agenda = s.agenda := rfl
@[simp] theorem State.modCmd_ticks (a : Nat) (f : Cmd → Cmd) : (s.modCmd a f).ticks = s.ticks := rfl
@[simp] theorem State.modCmd_nextId (a : Nat) (f : Cmd → Cmd) : (s.modCmd a f).nextId = s.nextId := rfl
@[simp] theorem State.modCmd_slices (a : Nat) (f : Cmd → Cmd) : (s.modCmd a f).slices = s.slices := rfl
@[simp] theorem State.modCmd_gangs (a : Nat) (f : Cmd → Cmd) : (s.modCmd a f).gangs = s.gangs := rfl
@[simp] theorem State.modCmd_regangs (a : Nat) (f : Cmd → Cmd) : (s.modCmd a f).regangs = s.regangs := rfl
@[simp] theorem State.modCmd_txns (a : Nat) (f : Cmd → Cmd) : (s.modCmd a f).txns = s.txns := rfl
@[simp] theorem State.modCmd_waves (a : Nat) (f : Cmd → Cmd) : (s.modCmd a f).waves = s.waves := rfl
@[simp] theorem State.modCmd_cores (a : Nat) (f : Cmd → Cmd) : (s.modCmd a f).cores = s.cores := rfl
@[simp] theorem State.modCmd_firstFaults (a : Nat) (f : Cmd → Cmd) : (s.modCmd a f).firstFaults = s.firstFaults := rfl
@[simp] theorem State.modCmd_tlb (a : Nat) (f : Cmd → Cmd) : (s.modCmd a f).tlb = s.tlb := rfl
@[simp] theorem State.modCmd_lines (a : Nat) (f : Cmd → Cmd) : (s.modCmd a f).lines = s.lines := rfl
@[simp] theorem State.modCmd_copies (a : Nat) (f : Cmd → Cmd) : (s.modCmd a f).copies = s.copies := rfl
@[simp] theorem State.modCmd_cdata (a : Nat) (f : Cmd → Cmd) : (s.modCmd a f).cdata = s.cdata := rfl
@[simp] theorem State.modCmd_hbm (a : Nat) (f : Cmd → Cmd) : (s.modCmd a f).hbm = s.hbm := rfl
@[simp] theorem State.modCmd_poison (a : Nat) (f : Cmd → Cmd) : (s.modCmd a f).poison = s.poison := rfl
@[simp] theorem State.modCmd_sealed (a : Nat) (f : Cmd → Cmd) : (s.modCmd a f).sealed = s.sealed := rfl
@[simp] theorem State.modCmd_writes (a : Nat) (f : Cmd → Cmd) : (s.modCmd a f).writes = s.writes := rfl
@[simp] theorem State.modCmd_ilines (a : Nat) (f : Cmd → Cmd) : (s.modCmd a f).ilines = s.ilines := rfl
@[simp] theorem State.modCmd_octets (a : Nat) (f : Cmd → Cmd) : (s.modCmd a f).octets = s.octets := rfl
@[simp] theorem State.modCmd_cmds (a : Nat) (f : Cmd → Cmd) : (s.modCmd a f).cmds = s.cmds.map fun c => if c.id == a then f c else c := rfl
@[simp] theorem State.modCmd_qfences (a : Nat) (f : Cmd → Cmd) : (s.modCmd a f).qfences = s.qfences := rfl
@[simp] theorem State.modCmd_tokens (a : Nat) (f : Cmd → Cmd) : (s.modCmd a f).tokens = s.tokens := rfl
@[simp] theorem State.modCmd_nodes (a : Nat) (f : Cmd → Cmd) : (s.modCmd a f).nodes = s.nodes := rfl
@[simp] theorem State.modCmd_serving (a : Nat) (f : Cmd → Cmd) : (s.modCmd a f).serving = s.serving := rfl
@[simp] theorem State.modCmd_tasks (a : Nat) (f : Cmd → Cmd) : (s.modCmd a f).tasks = s.tasks := rfl
@[simp] theorem State.modCmd_launches (a : Nat) (f : Cmd → Cmd) : (s.modCmd a f).launches = s.launches := rfl
@[simp] theorem State.modCmd_turns (a : Nat) (f : Cmd → Cmd) : (s.modCmd a f).turns = s.turns := rfl
@[simp] theorem State.modCmd_parks (a : Nat) (f : Cmd → Cmd) : (s.modCmd a f).parks = s.parks := rfl
@[simp] theorem State.modCmd_presences (a : Nat) (f : Cmd → Cmd) : (s.modCmd a f).presences = s.presences := rfl
@[simp] theorem State.modCmd_nextWave (a : Nat) (f : Cmd → Cmd) : (s.modCmd a f).nextWave = s.nextWave := rfl
@[simp] theorem State.modCmd_online (a : Nat) (f : Cmd → Cmd) : (s.modCmd a f).online = s.online := rfl
@[simp] theorem State.modCmd_ctxs (a : Nat) (f : Cmd → Cmd) : (s.modCmd a f).ctxs = s.ctxs := rfl
@[simp] theorem State.modCmd_dbg (a : Nat) (f : Cmd → Cmd) : (s.modCmd a f).dbg = s.dbg := rfl
@[simp] theorem State.modCmd_tsc (a : Nat) (f : Cmd → Cmd) : (s.modCmd a f).tsc = s.tsc := rfl
@[simp] theorem State.modCmd_tscPause (a : Nat) (f : Cmd → Cmd) : (s.modCmd a f).tscPause = s.tscPause := rfl
@[simp] theorem State.modCmd_hostMem (a : Nat) (f : Cmd → Cmd) : (s.modCmd a f).hostMem = s.hostMem := rfl
@[simp] theorem State.modCmd_fab (a : Nat) (f : Cmd → Cmd) : (s.modCmd a f).fab = s.fab := rfl
@[simp] theorem State.modCmd_endpoints (a : Nat) (f : Cmd → Cmd) : (s.modCmd a f).endpoints = s.endpoints := rfl
@[simp] theorem State.modCmd_netReqs (a : Nat) (f : Cmd → Cmd) : (s.modCmd a f).netReqs = s.netReqs := rfl
@[simp] theorem State.modCmd_netReplies (a : Nat) (f : Cmd → Cmd) : (s.modCmd a f).netReplies = s.netReplies := rfl
@[simp] theorem State.modCmd_out (a : Nat) (f : Cmd → Cmd) : (s.modCmd a f).out = s.out := rfl
@[simp] theorem State.modCmd_ldcfg (a : Nat) (f : Cmd → Cmd) : (s.modCmd a f).ldcfg = s.ldcfg := rfl
@[simp] theorem State.modCmd_cached (a : Nat) (f : Cmd → Cmd) : (s.modCmd a f).cached = s.cached := rfl
@[simp] theorem State.modCmd_apctl (a : Nat) (f : Cmd → Cmd) : (s.modCmd a f).apctl = s.apctl := rfl
@[simp] theorem State.modCmd_skipped (a : Nat) (f : Cmd → Cmd) : (s.modCmd a f).skipped = s.skipped := rfl
@[simp] theorem State.modCmd_reports (a : Nat) (f : Cmd → Cmd) : (s.modCmd a f).reports = s.reports := rfl
@[simp] theorem State.modCmd_rounds (a : Nat) (f : Cmd → Cmd) : (s.modCmd a f).rounds = s.rounds := rfl
@[simp] theorem State.modCmd_trust (a : Nat) (f : Cmd → Cmd) : (s.modCmd a f).trust = s.trust := rfl

/-! ### State.modReq -/

@[simp] theorem State.modReq_cur (a : Nat) (f : NetReq → NetReq) : (s.modReq a f).cur = s.cur := rfl
@[simp] theorem State.modReq_agenda (a : Nat) (f : NetReq → NetReq) : (s.modReq a f).agenda = s.agenda := rfl
@[simp] theorem State.modReq_ticks (a : Nat) (f : NetReq → NetReq) : (s.modReq a f).ticks = s.ticks := rfl
@[simp] theorem State.modReq_nextId (a : Nat) (f : NetReq → NetReq) : (s.modReq a f).nextId = s.nextId := rfl
@[simp] theorem State.modReq_slices (a : Nat) (f : NetReq → NetReq) : (s.modReq a f).slices = s.slices := rfl
@[simp] theorem State.modReq_gangs (a : Nat) (f : NetReq → NetReq) : (s.modReq a f).gangs = s.gangs := rfl
@[simp] theorem State.modReq_regangs (a : Nat) (f : NetReq → NetReq) : (s.modReq a f).regangs = s.regangs := rfl
@[simp] theorem State.modReq_txns (a : Nat) (f : NetReq → NetReq) : (s.modReq a f).txns = s.txns := rfl
@[simp] theorem State.modReq_waves (a : Nat) (f : NetReq → NetReq) : (s.modReq a f).waves = s.waves := rfl
@[simp] theorem State.modReq_cores (a : Nat) (f : NetReq → NetReq) : (s.modReq a f).cores = s.cores := rfl
@[simp] theorem State.modReq_firstFaults (a : Nat) (f : NetReq → NetReq) : (s.modReq a f).firstFaults = s.firstFaults := rfl
@[simp] theorem State.modReq_tlb (a : Nat) (f : NetReq → NetReq) : (s.modReq a f).tlb = s.tlb := rfl
@[simp] theorem State.modReq_lines (a : Nat) (f : NetReq → NetReq) : (s.modReq a f).lines = s.lines := rfl
@[simp] theorem State.modReq_copies (a : Nat) (f : NetReq → NetReq) : (s.modReq a f).copies = s.copies := rfl
@[simp] theorem State.modReq_cdata (a : Nat) (f : NetReq → NetReq) : (s.modReq a f).cdata = s.cdata := rfl
@[simp] theorem State.modReq_hbm (a : Nat) (f : NetReq → NetReq) : (s.modReq a f).hbm = s.hbm := rfl
@[simp] theorem State.modReq_poison (a : Nat) (f : NetReq → NetReq) : (s.modReq a f).poison = s.poison := rfl
@[simp] theorem State.modReq_sealed (a : Nat) (f : NetReq → NetReq) : (s.modReq a f).sealed = s.sealed := rfl
@[simp] theorem State.modReq_writes (a : Nat) (f : NetReq → NetReq) : (s.modReq a f).writes = s.writes := rfl
@[simp] theorem State.modReq_ilines (a : Nat) (f : NetReq → NetReq) : (s.modReq a f).ilines = s.ilines := rfl
@[simp] theorem State.modReq_octets (a : Nat) (f : NetReq → NetReq) : (s.modReq a f).octets = s.octets := rfl
@[simp] theorem State.modReq_cmds (a : Nat) (f : NetReq → NetReq) : (s.modReq a f).cmds = s.cmds := rfl
@[simp] theorem State.modReq_qfences (a : Nat) (f : NetReq → NetReq) : (s.modReq a f).qfences = s.qfences := rfl
@[simp] theorem State.modReq_tokens (a : Nat) (f : NetReq → NetReq) : (s.modReq a f).tokens = s.tokens := rfl
@[simp] theorem State.modReq_nodes (a : Nat) (f : NetReq → NetReq) : (s.modReq a f).nodes = s.nodes := rfl
@[simp] theorem State.modReq_serving (a : Nat) (f : NetReq → NetReq) : (s.modReq a f).serving = s.serving := rfl
@[simp] theorem State.modReq_tasks (a : Nat) (f : NetReq → NetReq) : (s.modReq a f).tasks = s.tasks := rfl
@[simp] theorem State.modReq_launches (a : Nat) (f : NetReq → NetReq) : (s.modReq a f).launches = s.launches := rfl
@[simp] theorem State.modReq_turns (a : Nat) (f : NetReq → NetReq) : (s.modReq a f).turns = s.turns := rfl
@[simp] theorem State.modReq_parks (a : Nat) (f : NetReq → NetReq) : (s.modReq a f).parks = s.parks := rfl
@[simp] theorem State.modReq_presences (a : Nat) (f : NetReq → NetReq) : (s.modReq a f).presences = s.presences := rfl
@[simp] theorem State.modReq_nextWave (a : Nat) (f : NetReq → NetReq) : (s.modReq a f).nextWave = s.nextWave := rfl
@[simp] theorem State.modReq_online (a : Nat) (f : NetReq → NetReq) : (s.modReq a f).online = s.online := rfl
@[simp] theorem State.modReq_ctxs (a : Nat) (f : NetReq → NetReq) : (s.modReq a f).ctxs = s.ctxs := rfl
@[simp] theorem State.modReq_dbg (a : Nat) (f : NetReq → NetReq) : (s.modReq a f).dbg = s.dbg := rfl
@[simp] theorem State.modReq_tsc (a : Nat) (f : NetReq → NetReq) : (s.modReq a f).tsc = s.tsc := rfl
@[simp] theorem State.modReq_tscPause (a : Nat) (f : NetReq → NetReq) : (s.modReq a f).tscPause = s.tscPause := rfl
@[simp] theorem State.modReq_hostMem (a : Nat) (f : NetReq → NetReq) : (s.modReq a f).hostMem = s.hostMem := rfl
@[simp] theorem State.modReq_fab (a : Nat) (f : NetReq → NetReq) : (s.modReq a f).fab = s.fab := rfl
@[simp] theorem State.modReq_endpoints (a : Nat) (f : NetReq → NetReq) : (s.modReq a f).endpoints = s.endpoints := rfl
@[simp] theorem State.modReq_netReqs (a : Nat) (f : NetReq → NetReq) : (s.modReq a f).netReqs = s.netReqs.map fun r => if r.id == a then f r else r := rfl
@[simp] theorem State.modReq_netReplies (a : Nat) (f : NetReq → NetReq) : (s.modReq a f).netReplies = s.netReplies := rfl
@[simp] theorem State.modReq_out (a : Nat) (f : NetReq → NetReq) : (s.modReq a f).out = s.out := rfl
@[simp] theorem State.modReq_ldcfg (a : Nat) (f : NetReq → NetReq) : (s.modReq a f).ldcfg = s.ldcfg := rfl
@[simp] theorem State.modReq_cached (a : Nat) (f : NetReq → NetReq) : (s.modReq a f).cached = s.cached := rfl
@[simp] theorem State.modReq_apctl (a : Nat) (f : NetReq → NetReq) : (s.modReq a f).apctl = s.apctl := rfl
@[simp] theorem State.modReq_skipped (a : Nat) (f : NetReq → NetReq) : (s.modReq a f).skipped = s.skipped := rfl
@[simp] theorem State.modReq_reports (a : Nat) (f : NetReq → NetReq) : (s.modReq a f).reports = s.reports := rfl
@[simp] theorem State.modReq_rounds (a : Nat) (f : NetReq → NetReq) : (s.modReq a f).rounds = s.rounds := rfl
@[simp] theorem State.modReq_trust (a : Nat) (f : NetReq → NetReq) : (s.modReq a f).trust = s.trust := rfl

/-! ### State.modFabOp -/

@[simp] theorem State.modFabOp_cur (a : Nat) (f : FabOp → FabOp) : (s.modFabOp a f).cur = s.cur := rfl
@[simp] theorem State.modFabOp_agenda (a : Nat) (f : FabOp → FabOp) : (s.modFabOp a f).agenda = s.agenda := rfl
@[simp] theorem State.modFabOp_ticks (a : Nat) (f : FabOp → FabOp) : (s.modFabOp a f).ticks = s.ticks := rfl
@[simp] theorem State.modFabOp_nextId (a : Nat) (f : FabOp → FabOp) : (s.modFabOp a f).nextId = s.nextId := rfl
@[simp] theorem State.modFabOp_slices (a : Nat) (f : FabOp → FabOp) : (s.modFabOp a f).slices = s.slices := rfl
@[simp] theorem State.modFabOp_gangs (a : Nat) (f : FabOp → FabOp) : (s.modFabOp a f).gangs = s.gangs := rfl
@[simp] theorem State.modFabOp_regangs (a : Nat) (f : FabOp → FabOp) : (s.modFabOp a f).regangs = s.regangs := rfl
@[simp] theorem State.modFabOp_txns (a : Nat) (f : FabOp → FabOp) : (s.modFabOp a f).txns = s.txns := rfl
@[simp] theorem State.modFabOp_waves (a : Nat) (f : FabOp → FabOp) : (s.modFabOp a f).waves = s.waves := rfl
@[simp] theorem State.modFabOp_cores (a : Nat) (f : FabOp → FabOp) : (s.modFabOp a f).cores = s.cores := rfl
@[simp] theorem State.modFabOp_firstFaults (a : Nat) (f : FabOp → FabOp) : (s.modFabOp a f).firstFaults = s.firstFaults := rfl
@[simp] theorem State.modFabOp_tlb (a : Nat) (f : FabOp → FabOp) : (s.modFabOp a f).tlb = s.tlb := rfl
@[simp] theorem State.modFabOp_lines (a : Nat) (f : FabOp → FabOp) : (s.modFabOp a f).lines = s.lines := rfl
@[simp] theorem State.modFabOp_copies (a : Nat) (f : FabOp → FabOp) : (s.modFabOp a f).copies = s.copies := rfl
@[simp] theorem State.modFabOp_cdata (a : Nat) (f : FabOp → FabOp) : (s.modFabOp a f).cdata = s.cdata := rfl
@[simp] theorem State.modFabOp_hbm (a : Nat) (f : FabOp → FabOp) : (s.modFabOp a f).hbm = s.hbm := rfl
@[simp] theorem State.modFabOp_poison (a : Nat) (f : FabOp → FabOp) : (s.modFabOp a f).poison = s.poison := rfl
@[simp] theorem State.modFabOp_sealed (a : Nat) (f : FabOp → FabOp) : (s.modFabOp a f).sealed = s.sealed := rfl
@[simp] theorem State.modFabOp_writes (a : Nat) (f : FabOp → FabOp) : (s.modFabOp a f).writes = s.writes := rfl
@[simp] theorem State.modFabOp_ilines (a : Nat) (f : FabOp → FabOp) : (s.modFabOp a f).ilines = s.ilines := rfl
@[simp] theorem State.modFabOp_octets (a : Nat) (f : FabOp → FabOp) : (s.modFabOp a f).octets = s.octets := rfl
@[simp] theorem State.modFabOp_cmds (a : Nat) (f : FabOp → FabOp) : (s.modFabOp a f).cmds = s.cmds := rfl
@[simp] theorem State.modFabOp_qfences (a : Nat) (f : FabOp → FabOp) : (s.modFabOp a f).qfences = s.qfences := rfl
@[simp] theorem State.modFabOp_tokens (a : Nat) (f : FabOp → FabOp) : (s.modFabOp a f).tokens = s.tokens := rfl
@[simp] theorem State.modFabOp_nodes (a : Nat) (f : FabOp → FabOp) : (s.modFabOp a f).nodes = s.nodes := rfl
@[simp] theorem State.modFabOp_serving (a : Nat) (f : FabOp → FabOp) : (s.modFabOp a f).serving = s.serving := rfl
@[simp] theorem State.modFabOp_tasks (a : Nat) (f : FabOp → FabOp) : (s.modFabOp a f).tasks = s.tasks := rfl
@[simp] theorem State.modFabOp_launches (a : Nat) (f : FabOp → FabOp) : (s.modFabOp a f).launches = s.launches := rfl
@[simp] theorem State.modFabOp_turns (a : Nat) (f : FabOp → FabOp) : (s.modFabOp a f).turns = s.turns := rfl
@[simp] theorem State.modFabOp_parks (a : Nat) (f : FabOp → FabOp) : (s.modFabOp a f).parks = s.parks := rfl
@[simp] theorem State.modFabOp_presences (a : Nat) (f : FabOp → FabOp) : (s.modFabOp a f).presences = s.presences := rfl
@[simp] theorem State.modFabOp_nextWave (a : Nat) (f : FabOp → FabOp) : (s.modFabOp a f).nextWave = s.nextWave := rfl
@[simp] theorem State.modFabOp_online (a : Nat) (f : FabOp → FabOp) : (s.modFabOp a f).online = s.online := rfl
@[simp] theorem State.modFabOp_ctxs (a : Nat) (f : FabOp → FabOp) : (s.modFabOp a f).ctxs = s.ctxs := rfl
@[simp] theorem State.modFabOp_dbg (a : Nat) (f : FabOp → FabOp) : (s.modFabOp a f).dbg = s.dbg := rfl
@[simp] theorem State.modFabOp_tsc (a : Nat) (f : FabOp → FabOp) : (s.modFabOp a f).tsc = s.tsc := rfl
@[simp] theorem State.modFabOp_tscPause (a : Nat) (f : FabOp → FabOp) : (s.modFabOp a f).tscPause = s.tscPause := rfl
@[simp] theorem State.modFabOp_hostMem (a : Nat) (f : FabOp → FabOp) : (s.modFabOp a f).hostMem = s.hostMem := rfl
@[simp] theorem State.modFabOp_fab (a : Nat) (f : FabOp → FabOp) :
    (s.modFabOp a f).fab = { s.fab with ops := s.fab.ops.map fun o => if o.seq == a then f o else o } := rfl
@[simp] theorem State.modFabOp_endpoints (a : Nat) (f : FabOp → FabOp) : (s.modFabOp a f).endpoints = s.endpoints := rfl
@[simp] theorem State.modFabOp_netReqs (a : Nat) (f : FabOp → FabOp) : (s.modFabOp a f).netReqs = s.netReqs := rfl
@[simp] theorem State.modFabOp_netReplies (a : Nat) (f : FabOp → FabOp) : (s.modFabOp a f).netReplies = s.netReplies := rfl
@[simp] theorem State.modFabOp_out (a : Nat) (f : FabOp → FabOp) : (s.modFabOp a f).out = s.out := rfl
@[simp] theorem State.modFabOp_ldcfg (a : Nat) (f : FabOp → FabOp) : (s.modFabOp a f).ldcfg = s.ldcfg := rfl
@[simp] theorem State.modFabOp_cached (a : Nat) (f : FabOp → FabOp) : (s.modFabOp a f).cached = s.cached := rfl
@[simp] theorem State.modFabOp_apctl (a : Nat) (f : FabOp → FabOp) : (s.modFabOp a f).apctl = s.apctl := rfl
@[simp] theorem State.modFabOp_skipped (a : Nat) (f : FabOp → FabOp) : (s.modFabOp a f).skipped = s.skipped := rfl
@[simp] theorem State.modFabOp_reports (a : Nat) (f : FabOp → FabOp) : (s.modFabOp a f).reports = s.reports := rfl
@[simp] theorem State.modFabOp_rounds (a : Nat) (f : FabOp → FabOp) : (s.modFabOp a f).rounds = s.rounds := rfl
@[simp] theorem State.modFabOp_trust (a : Nat) (f : FabOp → FabOp) : (s.modFabOp a f).trust = s.trust := rfl

/-! ### State.addFabOp -/

@[simp] theorem State.addFabOp_cur (o : FabOp) : (s.addFabOp o).cur = s.cur := rfl
@[simp] theorem State.addFabOp_agenda (o : FabOp) : (s.addFabOp o).agenda = s.agenda := rfl
@[simp] theorem State.addFabOp_ticks (o : FabOp) : (s.addFabOp o).ticks = s.ticks := rfl
@[simp] theorem State.addFabOp_nextId (o : FabOp) : (s.addFabOp o).nextId = s.nextId + 1 := rfl
@[simp] theorem State.addFabOp_slices (o : FabOp) : (s.addFabOp o).slices = s.slices := rfl
@[simp] theorem State.addFabOp_gangs (o : FabOp) : (s.addFabOp o).gangs = s.gangs := rfl
@[simp] theorem State.addFabOp_regangs (o : FabOp) : (s.addFabOp o).regangs = s.regangs := rfl
@[simp] theorem State.addFabOp_txns (o : FabOp) : (s.addFabOp o).txns = s.txns := rfl
@[simp] theorem State.addFabOp_waves (o : FabOp) : (s.addFabOp o).waves = s.waves := rfl
@[simp] theorem State.addFabOp_cores (o : FabOp) : (s.addFabOp o).cores = s.cores := rfl
@[simp] theorem State.addFabOp_firstFaults (o : FabOp) : (s.addFabOp o).firstFaults = s.firstFaults := rfl
@[simp] theorem State.addFabOp_tlb (o : FabOp) : (s.addFabOp o).tlb = s.tlb := rfl
@[simp] theorem State.addFabOp_lines (o : FabOp) : (s.addFabOp o).lines = s.lines := rfl
@[simp] theorem State.addFabOp_copies (o : FabOp) : (s.addFabOp o).copies = s.copies := rfl
@[simp] theorem State.addFabOp_cdata (o : FabOp) : (s.addFabOp o).cdata = s.cdata := rfl
@[simp] theorem State.addFabOp_hbm (o : FabOp) : (s.addFabOp o).hbm = s.hbm := rfl
@[simp] theorem State.addFabOp_poison (o : FabOp) : (s.addFabOp o).poison = s.poison := rfl
@[simp] theorem State.addFabOp_sealed (o : FabOp) : (s.addFabOp o).sealed = s.sealed := rfl
@[simp] theorem State.addFabOp_writes (o : FabOp) : (s.addFabOp o).writes = s.writes := rfl
@[simp] theorem State.addFabOp_ilines (o : FabOp) : (s.addFabOp o).ilines = s.ilines := rfl
@[simp] theorem State.addFabOp_octets (o : FabOp) : (s.addFabOp o).octets = s.octets := rfl
@[simp] theorem State.addFabOp_cmds (o : FabOp) : (s.addFabOp o).cmds = s.cmds := rfl
@[simp] theorem State.addFabOp_qfences (o : FabOp) : (s.addFabOp o).qfences = s.qfences := rfl
@[simp] theorem State.addFabOp_tokens (o : FabOp) : (s.addFabOp o).tokens = s.tokens := rfl
@[simp] theorem State.addFabOp_nodes (o : FabOp) : (s.addFabOp o).nodes = s.nodes := rfl
@[simp] theorem State.addFabOp_serving (o : FabOp) : (s.addFabOp o).serving = s.serving := rfl
@[simp] theorem State.addFabOp_tasks (o : FabOp) : (s.addFabOp o).tasks = s.tasks := rfl
@[simp] theorem State.addFabOp_launches (o : FabOp) : (s.addFabOp o).launches = s.launches := rfl
@[simp] theorem State.addFabOp_turns (o : FabOp) : (s.addFabOp o).turns = s.turns := rfl
@[simp] theorem State.addFabOp_parks (o : FabOp) : (s.addFabOp o).parks = s.parks := rfl
@[simp] theorem State.addFabOp_presences (o : FabOp) : (s.addFabOp o).presences = s.presences := rfl
@[simp] theorem State.addFabOp_nextWave (o : FabOp) : (s.addFabOp o).nextWave = s.nextWave := rfl
@[simp] theorem State.addFabOp_online (o : FabOp) : (s.addFabOp o).online = s.online := rfl
@[simp] theorem State.addFabOp_ctxs (o : FabOp) : (s.addFabOp o).ctxs = s.ctxs := rfl
@[simp] theorem State.addFabOp_dbg (o : FabOp) : (s.addFabOp o).dbg = s.dbg := rfl
@[simp] theorem State.addFabOp_tsc (o : FabOp) : (s.addFabOp o).tsc = s.tsc := rfl
@[simp] theorem State.addFabOp_tscPause (o : FabOp) : (s.addFabOp o).tscPause = s.tscPause := rfl
@[simp] theorem State.addFabOp_hostMem (o : FabOp) : (s.addFabOp o).hostMem = s.hostMem := rfl
@[simp] theorem State.addFabOp_fab (o : FabOp) :
    (s.addFabOp o).fab = { s.fab with ops := s.fab.ops ++ [{ o with seq := s.nextId, step := s.fab.step }] } := rfl
@[simp] theorem State.addFabOp_endpoints (o : FabOp) : (s.addFabOp o).endpoints = s.endpoints := rfl
@[simp] theorem State.addFabOp_netReqs (o : FabOp) : (s.addFabOp o).netReqs = s.netReqs := rfl
@[simp] theorem State.addFabOp_netReplies (o : FabOp) : (s.addFabOp o).netReplies = s.netReplies := rfl
@[simp] theorem State.addFabOp_out (o : FabOp) : (s.addFabOp o).out = s.out := rfl
@[simp] theorem State.addFabOp_ldcfg (o : FabOp) : (s.addFabOp o).ldcfg = s.ldcfg := rfl
@[simp] theorem State.addFabOp_cached (o : FabOp) : (s.addFabOp o).cached = s.cached := rfl
@[simp] theorem State.addFabOp_apctl (o : FabOp) : (s.addFabOp o).apctl = s.apctl := rfl
@[simp] theorem State.addFabOp_skipped (o : FabOp) : (s.addFabOp o).skipped = s.skipped := rfl
@[simp] theorem State.addFabOp_reports (o : FabOp) : (s.addFabOp o).reports = s.reports := rfl
@[simp] theorem State.addFabOp_rounds (o : FabOp) : (s.addFabOp o).rounds = s.rounds := rfl
@[simp] theorem State.addFabOp_trust (o : FabOp) : (s.addFabOp o).trust = s.trust := rfl

/-! ### State.modAcc -/

@[simp] theorem State.modAcc_cur (t : Nat) (f : StepAcc → StepAcc) : (s.modAcc t f).cur = s.cur := rfl
@[simp] theorem State.modAcc_agenda (t : Nat) (f : StepAcc → StepAcc) : (s.modAcc t f).agenda = s.agenda := rfl
@[simp] theorem State.modAcc_ticks (t : Nat) (f : StepAcc → StepAcc) : (s.modAcc t f).ticks = s.ticks := rfl
@[simp] theorem State.modAcc_nextId (t : Nat) (f : StepAcc → StepAcc) : (s.modAcc t f).nextId = s.nextId := rfl
@[simp] theorem State.modAcc_slices (t : Nat) (f : StepAcc → StepAcc) : (s.modAcc t f).slices = s.slices := rfl
@[simp] theorem State.modAcc_gangs (t : Nat) (f : StepAcc → StepAcc) : (s.modAcc t f).gangs = s.gangs := rfl
@[simp] theorem State.modAcc_regangs (t : Nat) (f : StepAcc → StepAcc) : (s.modAcc t f).regangs = s.regangs := rfl
@[simp] theorem State.modAcc_txns (t : Nat) (f : StepAcc → StepAcc) : (s.modAcc t f).txns = s.txns := rfl
@[simp] theorem State.modAcc_waves (t : Nat) (f : StepAcc → StepAcc) : (s.modAcc t f).waves = s.waves := rfl
@[simp] theorem State.modAcc_cores (t : Nat) (f : StepAcc → StepAcc) : (s.modAcc t f).cores = s.cores := rfl
@[simp] theorem State.modAcc_firstFaults (t : Nat) (f : StepAcc → StepAcc) : (s.modAcc t f).firstFaults = s.firstFaults := rfl
@[simp] theorem State.modAcc_tlb (t : Nat) (f : StepAcc → StepAcc) : (s.modAcc t f).tlb = s.tlb := rfl
@[simp] theorem State.modAcc_lines (t : Nat) (f : StepAcc → StepAcc) : (s.modAcc t f).lines = s.lines := rfl
@[simp] theorem State.modAcc_copies (t : Nat) (f : StepAcc → StepAcc) : (s.modAcc t f).copies = s.copies := rfl
@[simp] theorem State.modAcc_cdata (t : Nat) (f : StepAcc → StepAcc) : (s.modAcc t f).cdata = s.cdata := rfl
@[simp] theorem State.modAcc_hbm (t : Nat) (f : StepAcc → StepAcc) : (s.modAcc t f).hbm = s.hbm := rfl
@[simp] theorem State.modAcc_poison (t : Nat) (f : StepAcc → StepAcc) : (s.modAcc t f).poison = s.poison := rfl
@[simp] theorem State.modAcc_sealed (t : Nat) (f : StepAcc → StepAcc) : (s.modAcc t f).sealed = s.sealed := rfl
@[simp] theorem State.modAcc_writes (t : Nat) (f : StepAcc → StepAcc) : (s.modAcc t f).writes = s.writes := rfl
@[simp] theorem State.modAcc_ilines (t : Nat) (f : StepAcc → StepAcc) : (s.modAcc t f).ilines = s.ilines := rfl
@[simp] theorem State.modAcc_octets (t : Nat) (f : StepAcc → StepAcc) : (s.modAcc t f).octets = s.octets := rfl
@[simp] theorem State.modAcc_cmds (t : Nat) (f : StepAcc → StepAcc) : (s.modAcc t f).cmds = s.cmds := rfl
@[simp] theorem State.modAcc_qfences (t : Nat) (f : StepAcc → StepAcc) : (s.modAcc t f).qfences = s.qfences := rfl
@[simp] theorem State.modAcc_tokens (t : Nat) (f : StepAcc → StepAcc) : (s.modAcc t f).tokens = s.tokens := rfl
@[simp] theorem State.modAcc_nodes (t : Nat) (f : StepAcc → StepAcc) : (s.modAcc t f).nodes = s.nodes := rfl
@[simp] theorem State.modAcc_serving (t : Nat) (f : StepAcc → StepAcc) : (s.modAcc t f).serving = s.serving := rfl
@[simp] theorem State.modAcc_tasks (t : Nat) (f : StepAcc → StepAcc) : (s.modAcc t f).tasks = s.tasks := rfl
@[simp] theorem State.modAcc_launches (t : Nat) (f : StepAcc → StepAcc) : (s.modAcc t f).launches = s.launches := rfl
@[simp] theorem State.modAcc_turns (t : Nat) (f : StepAcc → StepAcc) : (s.modAcc t f).turns = s.turns := rfl
@[simp] theorem State.modAcc_parks (t : Nat) (f : StepAcc → StepAcc) : (s.modAcc t f).parks = s.parks := rfl
@[simp] theorem State.modAcc_presences (t : Nat) (f : StepAcc → StepAcc) : (s.modAcc t f).presences = s.presences := rfl
@[simp] theorem State.modAcc_nextWave (t : Nat) (f : StepAcc → StepAcc) : (s.modAcc t f).nextWave = s.nextWave := rfl
@[simp] theorem State.modAcc_online (t : Nat) (f : StepAcc → StepAcc) : (s.modAcc t f).online = s.online := rfl
@[simp] theorem State.modAcc_ctxs (t : Nat) (f : StepAcc → StepAcc) : (s.modAcc t f).ctxs = s.ctxs := rfl
@[simp] theorem State.modAcc_dbg (t : Nat) (f : StepAcc → StepAcc) : (s.modAcc t f).dbg = s.dbg := rfl
@[simp] theorem State.modAcc_tsc (t : Nat) (f : StepAcc → StepAcc) : (s.modAcc t f).tsc = s.tsc := rfl
@[simp] theorem State.modAcc_tscPause (t : Nat) (f : StepAcc → StepAcc) : (s.modAcc t f).tscPause = s.tscPause := rfl
@[simp] theorem State.modAcc_hostMem (t : Nat) (f : StepAcc → StepAcc) : (s.modAcc t f).hostMem = s.hostMem := rfl
@[simp] theorem State.modAcc_fab (t : Nat) (f : StepAcc → StepAcc) :
    (s.modAcc t f).fab = { s.fab with accs := s.fab.accs.set (stepBank t) (f (s.fab.accs.get (stepBank t))) } := rfl
@[simp] theorem State.modAcc_endpoints (t : Nat) (f : StepAcc → StepAcc) : (s.modAcc t f).endpoints = s.endpoints := rfl
@[simp] theorem State.modAcc_netReqs (t : Nat) (f : StepAcc → StepAcc) : (s.modAcc t f).netReqs = s.netReqs := rfl
@[simp] theorem State.modAcc_netReplies (t : Nat) (f : StepAcc → StepAcc) : (s.modAcc t f).netReplies = s.netReplies := rfl
@[simp] theorem State.modAcc_out (t : Nat) (f : StepAcc → StepAcc) : (s.modAcc t f).out = s.out := rfl
@[simp] theorem State.modAcc_ldcfg (t : Nat) (f : StepAcc → StepAcc) : (s.modAcc t f).ldcfg = s.ldcfg := rfl
@[simp] theorem State.modAcc_cached (t : Nat) (f : StepAcc → StepAcc) : (s.modAcc t f).cached = s.cached := rfl
@[simp] theorem State.modAcc_apctl (t : Nat) (f : StepAcc → StepAcc) : (s.modAcc t f).apctl = s.apctl := rfl
@[simp] theorem State.modAcc_skipped (t : Nat) (f : StepAcc → StepAcc) : (s.modAcc t f).skipped = s.skipped := rfl
@[simp] theorem State.modAcc_reports (t : Nat) (f : StepAcc → StepAcc) : (s.modAcc t f).reports = s.reports := rfl
@[simp] theorem State.modAcc_rounds (t : Nat) (f : StepAcc → StepAcc) : (s.modAcc t f).rounds = s.rounds := rfl
@[simp] theorem State.modAcc_trust (t : Nat) (f : StepAcc → StepAcc) : (s.modAcc t f).trust = s.trust := rfl

/-! ### State.send -/

@[simp] theorem State.send_cur (o : OutMsg) : (s.send o).cur = s.cur := rfl
@[simp] theorem State.send_agenda (o : OutMsg) : (s.send o).agenda = s.agenda := rfl
@[simp] theorem State.send_ticks (o : OutMsg) : (s.send o).ticks = s.ticks := rfl
@[simp] theorem State.send_nextId (o : OutMsg) : (s.send o).nextId = s.nextId := rfl
@[simp] theorem State.send_slices (o : OutMsg) : (s.send o).slices = s.slices := rfl
@[simp] theorem State.send_gangs (o : OutMsg) : (s.send o).gangs = s.gangs := rfl
@[simp] theorem State.send_regangs (o : OutMsg) : (s.send o).regangs = s.regangs := rfl
@[simp] theorem State.send_txns (o : OutMsg) : (s.send o).txns = s.txns := rfl
@[simp] theorem State.send_waves (o : OutMsg) : (s.send o).waves = s.waves := rfl
@[simp] theorem State.send_cores (o : OutMsg) : (s.send o).cores = s.cores := rfl
@[simp] theorem State.send_firstFaults (o : OutMsg) : (s.send o).firstFaults = s.firstFaults := rfl
@[simp] theorem State.send_tlb (o : OutMsg) : (s.send o).tlb = s.tlb := rfl
@[simp] theorem State.send_lines (o : OutMsg) : (s.send o).lines = s.lines := rfl
@[simp] theorem State.send_copies (o : OutMsg) : (s.send o).copies = s.copies := rfl
@[simp] theorem State.send_cdata (o : OutMsg) : (s.send o).cdata = s.cdata := rfl
@[simp] theorem State.send_hbm (o : OutMsg) : (s.send o).hbm = s.hbm := rfl
@[simp] theorem State.send_poison (o : OutMsg) : (s.send o).poison = s.poison := rfl
@[simp] theorem State.send_sealed (o : OutMsg) : (s.send o).sealed = s.sealed := rfl
@[simp] theorem State.send_writes (o : OutMsg) : (s.send o).writes = s.writes := rfl
@[simp] theorem State.send_ilines (o : OutMsg) : (s.send o).ilines = s.ilines := rfl
@[simp] theorem State.send_octets (o : OutMsg) : (s.send o).octets = s.octets := rfl
@[simp] theorem State.send_cmds (o : OutMsg) : (s.send o).cmds = s.cmds := rfl
@[simp] theorem State.send_qfences (o : OutMsg) : (s.send o).qfences = s.qfences := rfl
@[simp] theorem State.send_tokens (o : OutMsg) : (s.send o).tokens = s.tokens := rfl
@[simp] theorem State.send_nodes (o : OutMsg) : (s.send o).nodes = s.nodes := rfl
@[simp] theorem State.send_serving (o : OutMsg) : (s.send o).serving = s.serving := rfl
@[simp] theorem State.send_tasks (o : OutMsg) : (s.send o).tasks = s.tasks := rfl
@[simp] theorem State.send_launches (o : OutMsg) : (s.send o).launches = s.launches := rfl
@[simp] theorem State.send_turns (o : OutMsg) : (s.send o).turns = s.turns := rfl
@[simp] theorem State.send_parks (o : OutMsg) : (s.send o).parks = s.parks := rfl
@[simp] theorem State.send_presences (o : OutMsg) : (s.send o).presences = s.presences := rfl
@[simp] theorem State.send_nextWave (o : OutMsg) : (s.send o).nextWave = s.nextWave := rfl
@[simp] theorem State.send_online (o : OutMsg) : (s.send o).online = s.online := rfl
@[simp] theorem State.send_ctxs (o : OutMsg) : (s.send o).ctxs = s.ctxs := rfl
@[simp] theorem State.send_dbg (o : OutMsg) : (s.send o).dbg = s.dbg := rfl
@[simp] theorem State.send_tsc (o : OutMsg) : (s.send o).tsc = s.tsc := rfl
@[simp] theorem State.send_tscPause (o : OutMsg) : (s.send o).tscPause = s.tscPause := rfl
@[simp] theorem State.send_hostMem (o : OutMsg) : (s.send o).hostMem = s.hostMem := rfl
@[simp] theorem State.send_fab (o : OutMsg) : (s.send o).fab = s.fab := rfl
@[simp] theorem State.send_endpoints (o : OutMsg) : (s.send o).endpoints = s.endpoints := rfl
@[simp] theorem State.send_netReqs (o : OutMsg) : (s.send o).netReqs = s.netReqs := rfl
@[simp] theorem State.send_netReplies (o : OutMsg) : (s.send o).netReplies = s.netReplies := rfl
@[simp] theorem State.send_out (o : OutMsg) : (s.send o).out = s.out ++ [o] := rfl
@[simp] theorem State.send_ldcfg (o : OutMsg) : (s.send o).ldcfg = s.ldcfg := rfl
@[simp] theorem State.send_cached (o : OutMsg) : (s.send o).cached = s.cached := rfl
@[simp] theorem State.send_apctl (o : OutMsg) : (s.send o).apctl = s.apctl := rfl
@[simp] theorem State.send_skipped (o : OutMsg) : (s.send o).skipped = s.skipped := rfl
@[simp] theorem State.send_reports (o : OutMsg) : (s.send o).reports = s.reports := rfl
@[simp] theorem State.send_rounds (o : OutMsg) : (s.send o).rounds = s.rounds := rfl
@[simp] theorem State.send_trust (o : OutMsg) : (s.send o).trust = s.trust := rfl

/-! ### State.tick -/

@[simp] theorem State.tick_cur : s.tick.cur = s.cur := rfl
@[simp] theorem State.tick_agenda : s.tick.agenda = s.agenda := rfl
@[simp] theorem State.tick_ticks : s.tick.ticks = s.ticks + 1 := rfl
@[simp] theorem State.tick_nextId : s.tick.nextId = s.nextId := rfl
@[simp] theorem State.tick_slices : s.tick.slices = s.slices := rfl
@[simp] theorem State.tick_gangs : s.tick.gangs = s.gangs := rfl
@[simp] theorem State.tick_regangs : s.tick.regangs = s.regangs := rfl
@[simp] theorem State.tick_txns : s.tick.txns = s.txns := rfl
@[simp] theorem State.tick_waves : s.tick.waves = s.waves := rfl
@[simp] theorem State.tick_cores : s.tick.cores = s.cores := rfl
@[simp] theorem State.tick_firstFaults : s.tick.firstFaults = s.firstFaults := rfl
@[simp] theorem State.tick_tlb : s.tick.tlb = s.tlb := rfl
@[simp] theorem State.tick_lines : s.tick.lines = s.lines := rfl
@[simp] theorem State.tick_copies : s.tick.copies = s.copies := rfl
@[simp] theorem State.tick_cdata : s.tick.cdata = s.cdata := rfl
@[simp] theorem State.tick_hbm : s.tick.hbm = s.hbm := rfl
@[simp] theorem State.tick_poison : s.tick.poison = s.poison := rfl
@[simp] theorem State.tick_sealed : s.tick.sealed = s.sealed := rfl
@[simp] theorem State.tick_writes : s.tick.writes = s.writes := rfl
@[simp] theorem State.tick_ilines : s.tick.ilines = s.ilines := rfl
@[simp] theorem State.tick_octets : s.tick.octets = s.octets := rfl
@[simp] theorem State.tick_cmds : s.tick.cmds = s.cmds := rfl
@[simp] theorem State.tick_qfences : s.tick.qfences = s.qfences := rfl
@[simp] theorem State.tick_tokens : s.tick.tokens = s.tokens := rfl
@[simp] theorem State.tick_nodes : s.tick.nodes = s.nodes := rfl
@[simp] theorem State.tick_serving : s.tick.serving = s.serving := rfl
@[simp] theorem State.tick_tasks : s.tick.tasks = s.tasks := rfl
@[simp] theorem State.tick_launches : s.tick.launches = s.launches := rfl
@[simp] theorem State.tick_turns : s.tick.turns = s.turns := rfl
@[simp] theorem State.tick_parks : s.tick.parks = s.parks := rfl
@[simp] theorem State.tick_presences : s.tick.presences = s.presences := rfl
@[simp] theorem State.tick_nextWave : s.tick.nextWave = s.nextWave := rfl
@[simp] theorem State.tick_online : s.tick.online = s.online := rfl
@[simp] theorem State.tick_ctxs : s.tick.ctxs = s.ctxs := rfl
@[simp] theorem State.tick_dbg : s.tick.dbg = s.dbg := rfl
@[simp] theorem State.tick_hostMem : s.tick.hostMem = s.hostMem := rfl
@[simp] theorem State.tick_fab : s.tick.fab = s.fab := rfl
@[simp] theorem State.tick_endpoints : s.tick.endpoints = s.endpoints := rfl
@[simp] theorem State.tick_netReqs : s.tick.netReqs = s.netReqs := rfl
@[simp] theorem State.tick_netReplies : s.tick.netReplies = s.netReplies := rfl
@[simp] theorem State.tick_out : s.tick.out = s.out := rfl
@[simp] theorem State.tick_ldcfg : s.tick.ldcfg = s.ldcfg := rfl
@[simp] theorem State.tick_cached : s.tick.cached = s.cached := rfl
@[simp] theorem State.tick_apctl : s.tick.apctl = s.apctl := rfl
@[simp] theorem State.tick_skipped : s.tick.skipped = s.skipped := rfl
@[simp] theorem State.tick_reports : s.tick.reports = s.reports := rfl
@[simp] theorem State.tick_rounds : s.tick.rounds = s.rounds := rfl
@[simp] theorem State.tick_trust : s.tick.trust = s.trust := rfl

/-! ### State.logError -/

@[simp] theorem State.logError_cur (e : LogEntry) : (s.logError e).cur = s.cur := rfl
@[simp] theorem State.logError_agenda (e : LogEntry) : (s.logError e).agenda = s.agenda := rfl
@[simp] theorem State.logError_ticks (e : LogEntry) : (s.logError e).ticks = s.ticks := rfl
@[simp] theorem State.logError_nextId (e : LogEntry) : (s.logError e).nextId = s.nextId := rfl
@[simp] theorem State.logError_slices (e : LogEntry) : (s.logError e).slices = s.slices := rfl
@[simp] theorem State.logError_gangs (e : LogEntry) : (s.logError e).gangs = s.gangs := rfl
@[simp] theorem State.logError_regangs (e : LogEntry) : (s.logError e).regangs = s.regangs := rfl
@[simp] theorem State.logError_txns (e : LogEntry) : (s.logError e).txns = s.txns := rfl
@[simp] theorem State.logError_waves (e : LogEntry) : (s.logError e).waves = s.waves := rfl
@[simp] theorem State.logError_cores (e : LogEntry) : (s.logError e).cores = s.cores := rfl
@[simp] theorem State.logError_firstFaults (e : LogEntry) : (s.logError e).firstFaults = s.firstFaults := rfl
@[simp] theorem State.logError_tlb (e : LogEntry) : (s.logError e).tlb = s.tlb := rfl
@[simp] theorem State.logError_lines (e : LogEntry) : (s.logError e).lines = s.lines := rfl
@[simp] theorem State.logError_copies (e : LogEntry) : (s.logError e).copies = s.copies := rfl
@[simp] theorem State.logError_cdata (e : LogEntry) : (s.logError e).cdata = s.cdata := rfl
@[simp] theorem State.logError_hbm (e : LogEntry) : (s.logError e).hbm = s.hbm := rfl
@[simp] theorem State.logError_poison (e : LogEntry) : (s.logError e).poison = s.poison := rfl
@[simp] theorem State.logError_sealed (e : LogEntry) : (s.logError e).sealed = s.sealed := rfl
@[simp] theorem State.logError_writes (e : LogEntry) : (s.logError e).writes = s.writes := rfl
@[simp] theorem State.logError_ilines (e : LogEntry) : (s.logError e).ilines = s.ilines := rfl
@[simp] theorem State.logError_octets (e : LogEntry) : (s.logError e).octets = s.octets := rfl
@[simp] theorem State.logError_cmds (e : LogEntry) : (s.logError e).cmds = s.cmds := rfl
@[simp] theorem State.logError_qfences (e : LogEntry) : (s.logError e).qfences = s.qfences := rfl
@[simp] theorem State.logError_tokens (e : LogEntry) : (s.logError e).tokens = s.tokens := rfl
@[simp] theorem State.logError_nodes (e : LogEntry) : (s.logError e).nodes = s.nodes := rfl
@[simp] theorem State.logError_serving (e : LogEntry) : (s.logError e).serving = s.serving := rfl
@[simp] theorem State.logError_tasks (e : LogEntry) : (s.logError e).tasks = s.tasks := rfl
@[simp] theorem State.logError_launches (e : LogEntry) : (s.logError e).launches = s.launches := rfl
@[simp] theorem State.logError_turns (e : LogEntry) : (s.logError e).turns = s.turns := rfl
@[simp] theorem State.logError_parks (e : LogEntry) : (s.logError e).parks = s.parks := rfl
@[simp] theorem State.logError_presences (e : LogEntry) : (s.logError e).presences = s.presences := rfl
@[simp] theorem State.logError_nextWave (e : LogEntry) : (s.logError e).nextWave = s.nextWave := rfl
@[simp] theorem State.logError_online (e : LogEntry) : (s.logError e).online = s.online := rfl
@[simp] theorem State.logError_ctxs (e : LogEntry) : (s.logError e).ctxs = s.ctxs := rfl
@[simp] theorem State.logError_dbg (e : LogEntry) : (s.logError e).dbg = s.dbg := rfl
@[simp] theorem State.logError_tsc (e : LogEntry) : (s.logError e).tsc = s.tsc := rfl
@[simp] theorem State.logError_tscPause (e : LogEntry) : (s.logError e).tscPause = s.tscPause := rfl
@[simp] theorem State.logError_hostMem (e : LogEntry) : (s.logError e).hostMem = s.hostMem := rfl
@[simp] theorem State.logError_fab (e : LogEntry) : (s.logError e).fab = s.fab := rfl
@[simp] theorem State.logError_endpoints (e : LogEntry) : (s.logError e).endpoints = s.endpoints := rfl
@[simp] theorem State.logError_netReqs (e : LogEntry) : (s.logError e).netReqs = s.netReqs := rfl
@[simp] theorem State.logError_netReplies (e : LogEntry) : (s.logError e).netReplies = s.netReplies := rfl
@[simp] theorem State.logError_out (e : LogEntry) : (s.logError e).out = s.out := rfl
@[simp] theorem State.logError_ldcfg (e : LogEntry) : (s.logError e).ldcfg = s.ldcfg := rfl
@[simp] theorem State.logError_cached (e : LogEntry) : (s.logError e).cached = s.cached := rfl
@[simp] theorem State.logError_apctl (e : LogEntry) : (s.logError e).apctl = s.apctl := rfl
@[simp] theorem State.logError_skipped (e : LogEntry) : (s.logError e).skipped = s.skipped := rfl
@[simp] theorem State.logError_reports (e : LogEntry) : (s.logError e).reports = s.reports := rfl
@[simp] theorem State.logError_rounds (e : LogEntry) : (s.logError e).rounds = s.rounds := rfl
@[simp] theorem State.logError_trust (e : LogEntry) :
    (s.logError e).trust = { s.trust with log := (e :: s.trust.log).take 4096, logged := s.trust.logged + 1, wraps := if s.trust.log.length < 4096 then s.trust.wraps else s.trust.wraps + 1 } := rfl

/-! ### State.readLine -/

@[simp] theorem State.readLine_cur (g : BitVec 16) (k pa : Nat) : (s.readLine g k pa).cur = s.cur := rfl
@[simp] theorem State.readLine_agenda (g : BitVec 16) (k pa : Nat) : (s.readLine g k pa).agenda = s.agenda := rfl
@[simp] theorem State.readLine_ticks (g : BitVec 16) (k pa : Nat) : (s.readLine g k pa).ticks = s.ticks := rfl
@[simp] theorem State.readLine_nextId (g : BitVec 16) (k pa : Nat) : (s.readLine g k pa).nextId = s.nextId := rfl
@[simp] theorem State.readLine_slices (g : BitVec 16) (k pa : Nat) : (s.readLine g k pa).slices = s.slices := rfl
@[simp] theorem State.readLine_gangs (g : BitVec 16) (k pa : Nat) : (s.readLine g k pa).gangs = s.gangs := rfl
@[simp] theorem State.readLine_regangs (g : BitVec 16) (k pa : Nat) : (s.readLine g k pa).regangs = s.regangs := rfl
@[simp] theorem State.readLine_txns (g : BitVec 16) (k pa : Nat) : (s.readLine g k pa).txns = s.txns := rfl
@[simp] theorem State.readLine_waves (g : BitVec 16) (k pa : Nat) : (s.readLine g k pa).waves = s.waves := rfl
@[simp] theorem State.readLine_cores (g : BitVec 16) (k pa : Nat) : (s.readLine g k pa).cores = s.cores := rfl
@[simp] theorem State.readLine_firstFaults (g : BitVec 16) (k pa : Nat) : (s.readLine g k pa).firstFaults = s.firstFaults := rfl
@[simp] theorem State.readLine_tlb (g : BitVec 16) (k pa : Nat) : (s.readLine g k pa).tlb = s.tlb := rfl
@[simp] theorem State.readLine_lines (g : BitVec 16) (k pa : Nat) : (s.readLine g k pa).lines = s.lines ++ [⟨g, k, pa, false, []⟩] := rfl
@[simp] theorem State.readLine_copies (g : BitVec 16) (k pa : Nat) : (s.readLine g k pa).copies = s.copies := rfl
@[simp] theorem State.readLine_cdata (g : BitVec 16) (k pa : Nat) :
    (s.readLine g k pa).cdata = writeBytes s.cdata (lineKey g k) (s.physRead (s.keyOf g) pa 128) := rfl
@[simp] theorem State.readLine_hbm (g : BitVec 16) (k pa : Nat) : (s.readLine g k pa).hbm = s.hbm := rfl
@[simp] theorem State.readLine_poison (g : BitVec 16) (k pa : Nat) : (s.readLine g k pa).poison = s.poison := rfl
@[simp] theorem State.readLine_sealed (g : BitVec 16) (k pa : Nat) : (s.readLine g k pa).sealed = s.sealed := rfl
@[simp] theorem State.readLine_writes (g : BitVec 16) (k pa : Nat) : (s.readLine g k pa).writes = s.writes := rfl
@[simp] theorem State.readLine_ilines (g : BitVec 16) (k pa : Nat) : (s.readLine g k pa).ilines = s.ilines := rfl
@[simp] theorem State.readLine_octets (g : BitVec 16) (k pa : Nat) : (s.readLine g k pa).octets = s.octets := rfl
@[simp] theorem State.readLine_cmds (g : BitVec 16) (k pa : Nat) : (s.readLine g k pa).cmds = s.cmds := rfl
@[simp] theorem State.readLine_qfences (g : BitVec 16) (k pa : Nat) : (s.readLine g k pa).qfences = s.qfences := rfl
@[simp] theorem State.readLine_tokens (g : BitVec 16) (k pa : Nat) : (s.readLine g k pa).tokens = s.tokens := rfl
@[simp] theorem State.readLine_nodes (g : BitVec 16) (k pa : Nat) : (s.readLine g k pa).nodes = s.nodes := rfl
@[simp] theorem State.readLine_serving (g : BitVec 16) (k pa : Nat) : (s.readLine g k pa).serving = s.serving := rfl
@[simp] theorem State.readLine_tasks (g : BitVec 16) (k pa : Nat) : (s.readLine g k pa).tasks = s.tasks := rfl
@[simp] theorem State.readLine_launches (g : BitVec 16) (k pa : Nat) : (s.readLine g k pa).launches = s.launches := rfl
@[simp] theorem State.readLine_turns (g : BitVec 16) (k pa : Nat) : (s.readLine g k pa).turns = s.turns := rfl
@[simp] theorem State.readLine_parks (g : BitVec 16) (k pa : Nat) : (s.readLine g k pa).parks = s.parks := rfl
@[simp] theorem State.readLine_presences (g : BitVec 16) (k pa : Nat) : (s.readLine g k pa).presences = s.presences := rfl
@[simp] theorem State.readLine_nextWave (g : BitVec 16) (k pa : Nat) : (s.readLine g k pa).nextWave = s.nextWave := rfl
@[simp] theorem State.readLine_online (g : BitVec 16) (k pa : Nat) : (s.readLine g k pa).online = s.online := rfl
@[simp] theorem State.readLine_ctxs (g : BitVec 16) (k pa : Nat) : (s.readLine g k pa).ctxs = s.ctxs := rfl
@[simp] theorem State.readLine_dbg (g : BitVec 16) (k pa : Nat) : (s.readLine g k pa).dbg = s.dbg := rfl
@[simp] theorem State.readLine_tsc (g : BitVec 16) (k pa : Nat) : (s.readLine g k pa).tsc = s.tsc := rfl
@[simp] theorem State.readLine_tscPause (g : BitVec 16) (k pa : Nat) : (s.readLine g k pa).tscPause = s.tscPause := rfl
@[simp] theorem State.readLine_hostMem (g : BitVec 16) (k pa : Nat) : (s.readLine g k pa).hostMem = s.hostMem := rfl
@[simp] theorem State.readLine_fab (g : BitVec 16) (k pa : Nat) : (s.readLine g k pa).fab = s.fab := rfl
@[simp] theorem State.readLine_endpoints (g : BitVec 16) (k pa : Nat) : (s.readLine g k pa).endpoints = s.endpoints := rfl
@[simp] theorem State.readLine_netReqs (g : BitVec 16) (k pa : Nat) : (s.readLine g k pa).netReqs = s.netReqs := rfl
@[simp] theorem State.readLine_netReplies (g : BitVec 16) (k pa : Nat) : (s.readLine g k pa).netReplies = s.netReplies := rfl
@[simp] theorem State.readLine_out (g : BitVec 16) (k pa : Nat) : (s.readLine g k pa).out = s.out := rfl
@[simp] theorem State.readLine_ldcfg (g : BitVec 16) (k pa : Nat) : (s.readLine g k pa).ldcfg = s.ldcfg := rfl
@[simp] theorem State.readLine_cached (g : BitVec 16) (k pa : Nat) : (s.readLine g k pa).cached = s.cached := rfl
@[simp] theorem State.readLine_apctl (g : BitVec 16) (k pa : Nat) : (s.readLine g k pa).apctl = s.apctl := rfl
@[simp] theorem State.readLine_skipped (g : BitVec 16) (k pa : Nat) : (s.readLine g k pa).skipped = s.skipped := rfl
@[simp] theorem State.readLine_reports (g : BitVec 16) (k pa : Nat) : (s.readLine g k pa).reports = s.reports := rfl
@[simp] theorem State.readLine_rounds (g : BitVec 16) (k pa : Nat) : (s.readLine g k pa).rounds = s.rounds := rfl
@[simp] theorem State.readLine_trust (g : BitVec 16) (k pa : Nat) : (s.readLine g k pa).trust = s.trust := rfl

/-! ### State.dropLine -/

@[simp] theorem State.dropLine_cur (l : Line) : (s.dropLine l).cur = s.cur := rfl
@[simp] theorem State.dropLine_agenda (l : Line) : (s.dropLine l).agenda = s.agenda := rfl
@[simp] theorem State.dropLine_ticks (l : Line) : (s.dropLine l).ticks = s.ticks := rfl
@[simp] theorem State.dropLine_nextId (l : Line) : (s.dropLine l).nextId = s.nextId := rfl
@[simp] theorem State.dropLine_slices (l : Line) : (s.dropLine l).slices = s.slices := rfl
@[simp] theorem State.dropLine_gangs (l : Line) : (s.dropLine l).gangs = s.gangs := rfl
@[simp] theorem State.dropLine_regangs (l : Line) : (s.dropLine l).regangs = s.regangs := rfl
@[simp] theorem State.dropLine_txns (l : Line) : (s.dropLine l).txns = s.txns := rfl
@[simp] theorem State.dropLine_waves (l : Line) : (s.dropLine l).waves = s.waves := rfl
@[simp] theorem State.dropLine_cores (l : Line) : (s.dropLine l).cores = s.cores := rfl
@[simp] theorem State.dropLine_firstFaults (l : Line) : (s.dropLine l).firstFaults = s.firstFaults := rfl
@[simp] theorem State.dropLine_tlb (l : Line) : (s.dropLine l).tlb = s.tlb := rfl
@[simp] theorem State.dropLine_lines (l : Line) : (s.dropLine l).lines = s.lines.filter fun x => !(x.asid == l.asid && x.va == l.va) := rfl
@[simp] theorem State.dropLine_copies (l : Line) : (s.dropLine l).copies = s.copies := rfl
@[simp] theorem State.dropLine_cdata (l : Line) : (s.dropLine l).cdata = memClear s.cdata (lineKey l.asid l.va) 128 := rfl
@[simp] theorem State.dropLine_hbm (l : Line) : (s.dropLine l).hbm = s.hbm := rfl
@[simp] theorem State.dropLine_poison (l : Line) : (s.dropLine l).poison = s.poison := rfl
@[simp] theorem State.dropLine_sealed (l : Line) : (s.dropLine l).sealed = s.sealed := rfl
@[simp] theorem State.dropLine_writes (l : Line) : (s.dropLine l).writes = s.writes := rfl
@[simp] theorem State.dropLine_ilines (l : Line) : (s.dropLine l).ilines = s.ilines := rfl
@[simp] theorem State.dropLine_octets (l : Line) : (s.dropLine l).octets = s.octets := rfl
@[simp] theorem State.dropLine_cmds (l : Line) : (s.dropLine l).cmds = s.cmds := rfl
@[simp] theorem State.dropLine_qfences (l : Line) : (s.dropLine l).qfences = s.qfences := rfl
@[simp] theorem State.dropLine_tokens (l : Line) : (s.dropLine l).tokens = s.tokens := rfl
@[simp] theorem State.dropLine_nodes (l : Line) : (s.dropLine l).nodes = s.nodes := rfl
@[simp] theorem State.dropLine_serving (l : Line) : (s.dropLine l).serving = s.serving := rfl
@[simp] theorem State.dropLine_tasks (l : Line) : (s.dropLine l).tasks = s.tasks := rfl
@[simp] theorem State.dropLine_launches (l : Line) : (s.dropLine l).launches = s.launches := rfl
@[simp] theorem State.dropLine_turns (l : Line) : (s.dropLine l).turns = s.turns := rfl
@[simp] theorem State.dropLine_parks (l : Line) : (s.dropLine l).parks = s.parks := rfl
@[simp] theorem State.dropLine_presences (l : Line) : (s.dropLine l).presences = s.presences := rfl
@[simp] theorem State.dropLine_nextWave (l : Line) : (s.dropLine l).nextWave = s.nextWave := rfl
@[simp] theorem State.dropLine_online (l : Line) : (s.dropLine l).online = s.online := rfl
@[simp] theorem State.dropLine_ctxs (l : Line) : (s.dropLine l).ctxs = s.ctxs := rfl
@[simp] theorem State.dropLine_dbg (l : Line) : (s.dropLine l).dbg = s.dbg := rfl
@[simp] theorem State.dropLine_tsc (l : Line) : (s.dropLine l).tsc = s.tsc := rfl
@[simp] theorem State.dropLine_tscPause (l : Line) : (s.dropLine l).tscPause = s.tscPause := rfl
@[simp] theorem State.dropLine_hostMem (l : Line) : (s.dropLine l).hostMem = s.hostMem := rfl
@[simp] theorem State.dropLine_fab (l : Line) : (s.dropLine l).fab = s.fab := rfl
@[simp] theorem State.dropLine_endpoints (l : Line) : (s.dropLine l).endpoints = s.endpoints := rfl
@[simp] theorem State.dropLine_netReqs (l : Line) : (s.dropLine l).netReqs = s.netReqs := rfl
@[simp] theorem State.dropLine_netReplies (l : Line) : (s.dropLine l).netReplies = s.netReplies := rfl
@[simp] theorem State.dropLine_out (l : Line) : (s.dropLine l).out = s.out := rfl
@[simp] theorem State.dropLine_ldcfg (l : Line) : (s.dropLine l).ldcfg = s.ldcfg := rfl
@[simp] theorem State.dropLine_cached (l : Line) : (s.dropLine l).cached = s.cached := rfl
@[simp] theorem State.dropLine_apctl (l : Line) : (s.dropLine l).apctl = s.apctl := rfl
@[simp] theorem State.dropLine_skipped (l : Line) : (s.dropLine l).skipped = s.skipped := rfl
@[simp] theorem State.dropLine_reports (l : Line) : (s.dropLine l).reports = s.reports := rfl
@[simp] theorem State.dropLine_rounds (l : Line) : (s.dropLine l).rounds = s.rounds := rfl
@[simp] theorem State.dropLine_trust (l : Line) : (s.dropLine l).trust = s.trust := rfl

/-! ### State.releaseFaults -/

@[simp] theorem State.releaseFaults_cur (a : Nat) : (s.releaseFaults a).cur = s.cur := rfl
@[simp] theorem State.releaseFaults_agenda (a : Nat) : (s.releaseFaults a).agenda = s.agenda := rfl
@[simp] theorem State.releaseFaults_ticks (a : Nat) : (s.releaseFaults a).ticks = s.ticks := rfl
@[simp] theorem State.releaseFaults_nextId (a : Nat) : (s.releaseFaults a).nextId = s.nextId := rfl
@[simp] theorem State.releaseFaults_slices (a : Nat) : (s.releaseFaults a).slices = s.slices := rfl
@[simp] theorem State.releaseFaults_gangs (a : Nat) : (s.releaseFaults a).gangs = s.gangs := rfl
@[simp] theorem State.releaseFaults_regangs (a : Nat) : (s.releaseFaults a).regangs = s.regangs := rfl
@[simp] theorem State.releaseFaults_txns (a : Nat) : (s.releaseFaults a).txns = s.txns := rfl
@[simp] theorem State.releaseFaults_waves (a : Nat) : (s.releaseFaults a).waves = s.waves := rfl
@[simp] theorem State.releaseFaults_cores (a : Nat) : (s.releaseFaults a).cores = s.cores := rfl
@[simp] theorem State.releaseFaults_firstFaults (a : Nat) : (s.releaseFaults a).firstFaults = s.firstFaults.filter fun f => f.sid != a := rfl
@[simp] theorem State.releaseFaults_tlb (a : Nat) : (s.releaseFaults a).tlb = s.tlb := rfl
@[simp] theorem State.releaseFaults_lines (a : Nat) : (s.releaseFaults a).lines = s.lines := rfl
@[simp] theorem State.releaseFaults_copies (a : Nat) : (s.releaseFaults a).copies = s.copies := rfl
@[simp] theorem State.releaseFaults_cdata (a : Nat) : (s.releaseFaults a).cdata = s.cdata := rfl
@[simp] theorem State.releaseFaults_hbm (a : Nat) : (s.releaseFaults a).hbm = s.hbm := rfl
@[simp] theorem State.releaseFaults_poison (a : Nat) : (s.releaseFaults a).poison = s.poison := rfl
@[simp] theorem State.releaseFaults_sealed (a : Nat) : (s.releaseFaults a).sealed = s.sealed := rfl
@[simp] theorem State.releaseFaults_writes (a : Nat) : (s.releaseFaults a).writes = s.writes := rfl
@[simp] theorem State.releaseFaults_ilines (a : Nat) : (s.releaseFaults a).ilines = s.ilines := rfl
@[simp] theorem State.releaseFaults_octets (a : Nat) : (s.releaseFaults a).octets = s.octets := rfl
@[simp] theorem State.releaseFaults_cmds (a : Nat) : (s.releaseFaults a).cmds = s.cmds := rfl
@[simp] theorem State.releaseFaults_qfences (a : Nat) : (s.releaseFaults a).qfences = s.qfences := rfl
@[simp] theorem State.releaseFaults_tokens (a : Nat) : (s.releaseFaults a).tokens = s.tokens := rfl
@[simp] theorem State.releaseFaults_nodes (a : Nat) : (s.releaseFaults a).nodes = s.nodes := rfl
@[simp] theorem State.releaseFaults_serving (a : Nat) : (s.releaseFaults a).serving = s.serving := rfl
@[simp] theorem State.releaseFaults_tasks (a : Nat) : (s.releaseFaults a).tasks = s.tasks := rfl
@[simp] theorem State.releaseFaults_launches (a : Nat) : (s.releaseFaults a).launches = s.launches := rfl
@[simp] theorem State.releaseFaults_turns (a : Nat) : (s.releaseFaults a).turns = s.turns := rfl
@[simp] theorem State.releaseFaults_parks (a : Nat) : (s.releaseFaults a).parks = s.parks := rfl
@[simp] theorem State.releaseFaults_presences (a : Nat) : (s.releaseFaults a).presences = s.presences := rfl
@[simp] theorem State.releaseFaults_nextWave (a : Nat) : (s.releaseFaults a).nextWave = s.nextWave := rfl
@[simp] theorem State.releaseFaults_online (a : Nat) : (s.releaseFaults a).online = s.online := rfl
@[simp] theorem State.releaseFaults_ctxs (a : Nat) : (s.releaseFaults a).ctxs = s.ctxs := rfl
@[simp] theorem State.releaseFaults_dbg (a : Nat) : (s.releaseFaults a).dbg = s.dbg := rfl
@[simp] theorem State.releaseFaults_tsc (a : Nat) : (s.releaseFaults a).tsc = s.tsc := rfl
@[simp] theorem State.releaseFaults_tscPause (a : Nat) : (s.releaseFaults a).tscPause = s.tscPause := rfl
@[simp] theorem State.releaseFaults_hostMem (a : Nat) : (s.releaseFaults a).hostMem = s.hostMem := rfl
@[simp] theorem State.releaseFaults_fab (a : Nat) : (s.releaseFaults a).fab = s.fab := rfl
@[simp] theorem State.releaseFaults_endpoints (a : Nat) : (s.releaseFaults a).endpoints = s.endpoints := rfl
@[simp] theorem State.releaseFaults_netReqs (a : Nat) : (s.releaseFaults a).netReqs = s.netReqs := rfl
@[simp] theorem State.releaseFaults_netReplies (a : Nat) : (s.releaseFaults a).netReplies = s.netReplies := rfl
@[simp] theorem State.releaseFaults_out (a : Nat) : (s.releaseFaults a).out = s.out := rfl
@[simp] theorem State.releaseFaults_ldcfg (a : Nat) : (s.releaseFaults a).ldcfg = s.ldcfg := rfl
@[simp] theorem State.releaseFaults_cached (a : Nat) : (s.releaseFaults a).cached = s.cached := rfl
@[simp] theorem State.releaseFaults_apctl (a : Nat) : (s.releaseFaults a).apctl = s.apctl := rfl
@[simp] theorem State.releaseFaults_skipped (a : Nat) : (s.releaseFaults a).skipped = s.skipped := rfl
@[simp] theorem State.releaseFaults_reports (a : Nat) : (s.releaseFaults a).reports = s.reports := rfl
@[simp] theorem State.releaseFaults_rounds (a : Nat) : (s.releaseFaults a).rounds = s.rounds := rfl
@[simp] theorem State.releaseFaults_trust (a : Nat) : (s.releaseFaults a).trust = s.trust := rfl

end Sys2Proof.Machine
end

