-- ==== Sys2Proof/Laws/Issue.lean ====
section
/-! SUPPORT. What the issue of an instruction by a gang does (R33–R36, R41, R376): the decision, the members that move on, and what an
instruction that changes only its own slices leaves. -/

set_option Elab.async false

namespace Sys2Proof.Machine

/-! ### The decision -/

/-- Ready registers let an instruction go (R35, R36). -/
theorem Slice.regVerdict_ready {sl : Slice} {c : Cur} {dst : List RegName} {us : List SrcUse} (h : sl.ready us dst = true) :
    sl.regVerdict c dst us = .go := by
  simp only [Slice.ready, Bool.and_eq_true, List.all_eq_true, Bool.not_eq_true'] at h
  obtain ⟨hd, hu⟩ := h
  have e1 : (dst.find? fun r => !sl.isFull r) = none := by
    simp only [List.find?_eq_none]
    intro r hr; simp [hd r hr]
  have e2 : (us.any fun u => !sl.isFull u.reg && u.trap) = false := by
    simp only [List.any_eq_false]
    intro u h; simp [(hu u h).1]
  have e3 : (us.find? fun u => !sl.isFull u.reg) = none := by
    simp only [List.find?_eq_none]
    intro u h; simp [(hu u h).1]
  have e4 : (us.find? fun u => sl.badToken u.reg) = none := by
    simp only [List.find?_eq_none]
    intro u h; simp [(hu u h).2]
  simp only [Slice.regVerdict, e1, e2, e3, e4, Bool.false_eq_true, if_false]

/-- A calm slice waits for nothing (R35, R36). -/
theorem Slice.waitVerdict_calm {sl : Slice} {dst : List RegName} {us : List SrcUse} (h : sl.calm us dst = true) :
    sl.waitVerdict dst us = .go := by
  simp only [Slice.calm, Bool.and_eq_true, List.all_eq_true, Bool.or_eq_true] at h
  obtain ⟨hd, hu⟩ := h
  have e1 : (dst.find? fun r => !sl.isFull r) = none := by
    simp only [List.find?_eq_none]
    intro r hr; simp [hd r hr]
  have e2 : (us.find? fun u => !sl.isFull u.reg && !u.trap) = none := by
    simp only [List.find?_eq_none]
    intro u h; rcases hu u h with h | h <;> simp [h]
  simp only [Slice.waitVerdict, e1, e2]

/-- An instruction that nothing holds in a member has the verdict go there. -/
theorem Issue.verdict_clear {k : Issue} {c : Cur} {m : Slice} (h : k.clear c m) : k.verdict c m = .go := by
  unfold Issue.verdict
  simp only
  split
  · rename_i ha
    obtain ⟨hr, he⟩ := h.2.1 ha
    rw [Slice.regVerdict_ready hr]
    simp only [he]
  · rename_i ha
    split
    · rename_i hw
      exact Slice.waitVerdict_calm (h.2.2 (by simpa using ha) hw)
    · rfl

theorem firstWait_go {k : Issue} {c : Cur} (ms : List Slice) (h : ∀ m ∈ ms, k.clear c m) :
    firstWait (ms.map fun m => (m.sid, k.verdict c m)) = none := by
  simp only [firstWait, List.findSome?_eq_none_iff, List.mem_map]
  rintro _ ⟨m, hm, rfl⟩
  simp [Issue.verdict_clear (h m hm), Verdict.wait?]

theorem trapsOf_go {k : Issue} {c : Cur} (ms : List Slice) (h : ∀ m ∈ ms, k.clear c m) :
    trapsOf (ms.map fun m => (m.sid, k.verdict c m)) = [] := by
  simp only [trapsOf, List.filterMap_eq_nil_iff, List.mem_map]
  rintro _ ⟨m, hm, rfl⟩
  simp [Issue.verdict_clear (h m hm), Verdict.trap?]

/-- With nothing that holds it, the instruction issues. -/
theorem Issue.decide_goes {k : Issue} {c : Cur} {ms : List Slice} (h : ∀ m ∈ ms, k.clear c m) :
    k.decide_ c false ms = .goes := by
  have g : (ms.filterMap fun m => (k.gateTrap c m).map fun t => (m.sid, t)) = [] := by
    simp only [List.filterMap_eq_nil_iff]
    intro m hm
    simp [(h m hm).1]
  simp [Issue.decide_, g, firstWait_go ms h, trapsOf_go ms h]

/-- What issue comes to when nothing holds the instruction and no queue is full. -/
theorem State.issue_goes {s : State} {k : Issue} {hold : Cur → List Slice → State → Bool}
    {perform : Cur → List Slice → State → State} {c : Cur} {g : Gang} {ms : List Slice} (hi : Issuing s c g ms)
    (hc : ∀ m ∈ ms, k.clear c m) (hh : hold c (ms.filter k.kind.acts) s = false) :
    s.issue k hold perform = (perform c (ms.filter k.kind.acts) (s.advance k c ms)).afterIssue c ms := by
  have hg := hi.gang
  simp only [State.issue, hi.latch, hg, hi.members, hh, Issue.decide_goes hc]

/-! ### Slices by their identity -/

/-- The slices a change of one slice leaves. -/
def modList (ls : List Slice) (sid : Nat) (f : Slice → Slice) : List Slice := ls.map fun x => if x.sid == sid then f x else x

theorem find?_modList (ls : List Slice) (a b : Nat) (f : Slice → Slice) (hf : ∀ x, (f x).sid = x.sid) :
    (modList ls a f).find? (fun x => x.sid == b) =
      if a = b then (ls.find? fun x => x.sid == b).map f else ls.find? fun x => x.sid == b := by
  induction ls with
  | nil => simp [modList]
  | cons x t ih =>
    simp only [modList] at ih
    simp only [modList, List.map_cons, List.find?_cons, ih]
    by_cases hx : x.sid = a <;> by_cases hb : x.sid = b <;> by_cases hab : a = b <;> simp_all [beq_iff_eq]
    all_goals grind

@[simp] theorem State.modSlice_slices (s : State) (a : Nat) (f : Slice → Slice) :
    (s.modSlice a f).slices = modList s.slices a f := rfl

/-- A slice after a change of one slice. -/
theorem State.slice?_modSlice (s : State) (a b : Nat) (f : Slice → Slice) (hf : ∀ x, (f x).sid = x.sid) :
    (s.modSlice a f).slice? b = if a = b then (s.slice? b).map f else s.slice? b := find?_modList s.slices a b f hf

/-- A search by an identity that no member has finds none. -/
theorem find?_absent {ms : List Slice} {b : Nat} (h : b ∉ ms.map (·.sid)) : (ms.find? fun m => m.sid == b) = none :=
  List.find?_eq_none.mpr fun _ hx e => h (eq_of_beq e ▸ List.mem_map_of_mem hx)

/-- Changing the slices of a list with different identities changes each as it says, once. -/
theorem find?_foldl_modList (ms : List Slice) (F : Slice → Slice → Slice) (hF : ∀ m x, (F m x).sid = x.sid)
    (hd : (ms.map (·.sid)).Nodup) (ls : List Slice) (b : Nat) :
    (ms.foldl (fun l m => modList l m.sid (F m)) ls).find? (fun x => x.sid == b) =
      match ms.find? fun m => m.sid == b with
      | some m => (ls.find? fun x => x.sid == b).map (F m)
      | none => ls.find? fun x => x.sid == b := by
  induction ms generalizing ls with
  | nil => rfl
  | cons m t ih =>
    simp only [List.map_cons, List.nodup_cons] at hd
    simp only [List.foldl_cons, ih hd.2, List.find?_cons]
    by_cases hm : m.sid = b
    · have hn : (t.find? fun x => x.sid == b) = none := find?_absent (hm ▸ hd.1)
      simp [hn, hm, find?_modList, hF]
    · have hm' : (m.sid == b) = false := by simp [hm]
      simp only [hm', find?_modList _ _ _ _ (hF m), hm, if_false]

/-- A fold of state changes that each change one slice, seen through its slices. -/
theorem slices_foldl (ms : List Slice) (G : State → Slice → State) (F : Slice → Slice → Slice)
    (hG : ∀ t m, (G t m).slices = modList t.slices m.sid (F m)) (s : State) :
    (ms.foldl G s).slices = ms.foldl (fun l m => modList l m.sid (F m)) s.slices := by
  induction ms generalizing s with
  | nil => rfl
  | cons m t ih => simp only [List.foldl_cons, ih, hG]

/-! ### Members -/

theorem State.slice?_sid {s : State} {a : Nat} {x : Slice} (h : s.slice? a = some x) : x.sid = a := by
  simpa using List.find?_some h

/-- A member of a gang is the slice its identity names. -/
theorem State.slice?_member {s : State} {g : Gang} {m : Slice} (h : m ∈ s.membersOf g) : s.slice? m.sid = some m := by
  simp only [State.membersOf, List.mem_filter, List.mem_filterMap] at h
  obtain ⟨⟨a, -, ha⟩, -⟩ := h
  rwa [State.slice?_sid ha]

/-- The members of a gang without repeats have different identities. -/
theorem State.members_distinct {s : State} {g : Gang} (h : g.members.Nodup) : ((s.membersOf g).map (·.sid)).Nodup := by
  have hs : ((g.members.filterMap s.slice?).map (·.sid)).Sublist g.members := by
    generalize g.members = l
    induction l with
    | nil => simp
    | cons a t ih =>
      simp only [List.filterMap_cons]
      cases ha : s.slice? a with
      | none => exact ih.cons _
      | some x => simp only [List.map_cons, State.slice?_sid ha]; exact ih.cons_cons _
  exact (List.Sublist.trans (List.filter_sublist.map _) hs).nodup h

/-- Searching members with different identities by one's identity finds that member. -/
theorem find?_member {ms : List Slice} {m : Slice} (hd : (ms.map (·.sid)).Nodup) (h : m ∈ ms) :
    (ms.find? fun x => x.sid == m.sid) = some m := by
  obtain ⟨x, hx⟩ := Option.isSome_iff_exists.mp
    ((List.find?_isSome (p := fun x => x.sid == m.sid)).mpr ⟨m, h, beq_self_eq_true m.sid⟩)
  have hs : x.sid = m.sid := by simpa using List.find?_some hx
  exact hx.trans (congrArg some (List.inj_on_of_nodup_map hd (List.mem_of_find?_eq_some hx) h hs))

/-! ### What is apart from the slices -/

@[simp] theorem State.modSlice_beyond (s : State) (a : Nat) (f : Slice → Slice) : (s.modSlice a f).beyond = s.beyond := rfl

@[simp] theorem State.readTokens_slices (s : State) (a : Nat) (us : List SrcUse) : (s.readTokens a us).slices = s.slices := by
  unfold State.readTokens; dsimp only; split <;> rfl
@[simp] theorem State.readTokens_gangs (s : State) (a : Nat) (us : List SrcUse) : (s.readTokens a us).gangs = s.gangs := by
  unfold State.readTokens; dsimp only; split <;> rfl
@[simp] theorem State.readTokens_nextId (s : State) (a : Nat) (us : List SrcUse) : (s.readTokens a us).nextId = s.nextId := by
  unfold State.readTokens; dsimp only; split <;> rfl
@[simp] theorem State.readTokens_beyond (s : State) (a : Nat) (us : List SrcUse) : (s.readTokens a us).beyond = s.beyond := by
  unfold State.readTokens
  dsimp only
  split
  · rfl
  · simp only [State.beyond, List.map_map, State.mk.injEq, true_and, and_true]
    apply List.map_congr_left
    intro w _
    simp only [Function.comp]
    split <;> rfl

/-- What a fold of changes leaves alone if each change does. -/
theorem foldl_keeps {σ α β : Type} (p : σ → β) (G : σ → α → σ) (h : ∀ t m, p (G t m) = p t) (ms : List α) (s : σ) :
    p (ms.foldl G s) = p s := by
  induction ms generalizing s with
  | nil => rfl
  | cons m t ih => simp only [List.foldl_cons, ih, h]

/-! ### A slice's registers and its identity -/

@[simp] theorem Slice.clearMark_sid (sl : Slice) (r : RegName) : (sl.clearMark r).sid = sl.sid := by cases r <;> rfl
@[simp] theorem Slice.clearMark_stepping (sl : Slice) (r : RegName) : (sl.clearMark r).stepping = sl.stepping := by cases r <;> rfl

theorem Slice.clearMarks_keeps {β : Type} (p : Slice → β) (h : ∀ sl r, p (sl.clearMark r) = p sl) (us : List SrcUse) (sl : Slice) :
    p (sl.clearMarks us) = p sl := by
  unfold Slice.clearMarks
  induction us generalizing sl with
  | nil => rfl
  | cons u t ih => simp only [List.foldl_cons, ih, h]

@[simp] theorem Slice.clearMarks_sid (sl : Slice) (us : List SrcUse) : (sl.clearMarks us).sid = sl.sid :=
  Slice.clearMarks_keeps (·.sid) Slice.clearMark_sid us sl
@[simp] theorem Slice.clearMarks_stepping (sl : Slice) (us : List SrcUse) : (sl.clearMarks us).stepping = sl.stepping :=
  Slice.clearMarks_keeps (·.stepping) Slice.clearMark_stepping us sl

@[simp] theorem Issue.moved_sid (k : Issue) (c : Cur) (m : Slice) : (k.moved c m).sid = m.sid := by
  unfold Issue.moved; split <;> simp
@[simp] theorem Issue.moved_stepping (k : Issue) (c : Cur) (m : Slice) : (k.moved c m).stepping = m.stepping := by
  unfold Issue.moved; split <;> simp
@[simp] theorem Issue.moved_pc (k : Issue) (c : Cur) (m : Slice) : (k.moved c m).pc = c.nxt := rfl

/-! ### Moving on -/

/-- Every member moves on; a slice that is no member stays. -/
theorem State.slice?_advance {s : State} {k : Issue} {c : Cur} {ms : List Slice} (hd : (ms.map (·.sid)).Nodup) (b : Nat) :
    (s.advance k c ms).slice? b =
      match ms.find? fun m => m.sid == b with
      | some m => (s.slice? b).map fun sl => { (if k.kind.acts m then sl.clearMarks (k.srcs m) else sl) with pc := c.nxt }
      | none => s.slice? b := by
  unfold State.advance State.slice?
  rw [slices_foldl ms _ (fun m sl => { (if k.kind.acts m then sl.clearMarks (k.srcs m) else sl) with pc := c.nxt })
    (by intro t m; split <;> simp)]
  exact find?_foldl_modList ms _ (by intro m x; simp only; split <;> simp) hd s.slices b

@[simp] theorem State.advance_beyond (s : State) (k : Issue) (c : Cur) (ms : List Slice) :
    (s.advance k c ms).beyond = s.beyond :=
  foldl_keeps State.beyond _ (by intro t m; split <;> simp) ms s
@[simp] theorem State.advance_gangs (s : State) (k : Issue) (c : Cur) (ms : List Slice) :
    (s.advance k c ms).gangs = s.gangs :=
  foldl_keeps State.gangs _ (by intro t m; split <;> simp) ms s
@[simp] theorem State.advance_nextId (s : State) (k : Issue) (c : Cur) (ms : List Slice) :
    (s.advance k c ms).nextId = s.nextId :=
  foldl_keeps State.nextId _ (by intro t m; split <;> simp) ms s

@[simp] theorem State.wakeGang_beyond (s : State) (g : Nat) : (s.wakeGang g).beyond = s.beyond := rfl

/-- Without a stepped member nothing is stopped after an instruction. -/
theorem State.afterIssue_free {s : State} {c : Cur} {ms : List Slice} (h : ∀ m ∈ ms, s.steps m.sid = false) :
    s.afterIssue c ms =
      { (if c.yields then (match s.gang? c.gid with
          | some g => if g.wait = .ready then s.wakeGang c.gid else s
          | none => s) else s) with cur := none } := by
  have e : ms.foldl (fun t m => if t.steps m.sid then t.stopSlice m.sid 3#8 else t) s = s := by
    induction ms with
    | nil => rfl
    | cons m t ih =>
      simp only [List.foldl_cons, h m (List.mem_cons_self ..), Bool.false_eq_true, if_false]
      exact ih fun x hx => h x (List.mem_cons_of_mem _ hx)
  simp only [State.afterIssue, e] <;> rfl

theorem State.afterIssue_slices {s : State} {c : Cur} {ms : List Slice} (h : ∀ m ∈ ms, s.steps m.sid = false) :
    (s.afterIssue c ms).slices = s.slices := by
  rw [State.afterIssue_free h]; dsimp only; split
  · split
    · split <;> rfl
    · rfl
  · rfl
theorem State.afterIssue_beyond {s : State} {c : Cur} {ms : List Slice} (h : ∀ m ∈ ms, s.steps m.sid = false) :
    (s.afterIssue c ms).beyond = s.beyond := by
  rw [State.afterIssue_free h]; dsimp only; split
  · split
    · split <;> rfl
    · rfl
  · rfl
theorem State.afterIssue_gangs {s : State} {c : Cur} {ms : List Slice} (h : ∀ m ∈ ms, s.steps m.sid = false) (hy : c.yields = false) :
    (s.afterIssue c ms).gangs = s.gangs ∧ (s.afterIssue c ms).nextId = s.nextId := by
  rw [State.afterIssue_free h]; simp [hy]
theorem State.afterIssue_cur {s : State} {c : Cur} {ms : List Slice} (h : ∀ m ∈ ms, s.steps m.sid = false) :
    (s.afterIssue c ms).cur = none := by
  rw [State.afterIssue_free h]

/-- The gang as the issue began has the members it found. -/
theorem Issuing.mem {s : State} {c : Cur} {g : Gang} {ms : List Slice} (h : Issuing s c g ms) {m : Slice} (hm : m ∈ ms) :
    s.slice? m.sid = some m := State.slice?_member (h.members ▸ hm)

theorem Issuing.nodup {s : State} {c : Cur} {g : Gang} {ms : List Slice} (h : Issuing s c g ms) : (ms.map (·.sid)).Nodup :=
  h.members ▸ State.members_distinct h.distinct

/-- After issue each member stands at the next instruction. -/
theorem Issuing.moved {s : State} {c : Cur} {g : Gang} {ms : List Slice} (h : Issuing s c g ms) (k : Issue) {m : Slice}
    (hm : m ∈ ms) : (s.advance k c ms).slice? m.sid = some (k.moved c m) := by
  rw [State.slice?_advance h.nodup, find?_member h.nodup hm, h.mem hm]; rfl

theorem Issuing.moved_other {s : State} {c : Cur} {g : Gang} {ms : List Slice} (h : Issuing s c g ms) (k : Issue) {b : Nat}
    (hb : b ∉ ms.map (·.sid)) : (s.advance k c ms).slice? b = s.slice? b := by
  rw [State.slice?_advance h.nodup, find?_absent hb]

/-- Searching the members that pass a test by a member's identity finds that member if it passes. -/
theorem Issuing.find?_acting {s : State} {c : Cur} {g : Gang} {ms : List Slice} (h : Issuing s c g ms) (p : Slice → Bool) {m : Slice}
    (hm : m ∈ ms) : ((ms.filter p).find? fun x => x.sid == m.sid) = if p m then some m else none := by
  split
  · exact find?_member ((List.filter_sublist.map _).nodup h.nodup) (List.mem_filter.mpr ⟨hm, ‹_›⟩)
  · refine find?_absent fun e => ?_
    obtain ⟨x, hx, hs⟩ := List.mem_map.mp e
    have hx := List.mem_filter.mp hx
    exact absurd (List.inj_on_of_nodup_map h.nodup hx.1 hm hs ▸ hx.2) ‹_›

/-! ### What an issue leaves -/

/-- The slices before the stop of stepped ones, when what the instruction performs changes the members in which it acts as `F` says. -/
theorem Issuing.slice?_performed {s v : State} {k : Issue} {F : Slice → Slice → Slice} {c : Cur} {g : Gang} {ms : List Slice}
    (hi : Issuing s c g ms) (hF : ∀ m x, (F m x).sid = x.sid)
    (hp : v.slices = (ms.filter k.kind.acts).foldl (fun l m => modList l m.sid (F m)) (s.advance k c ms).slices) :
    (∀ m ∈ ms, v.slice? m.sid = some (if k.kind.acts m then F m (k.moved c m) else k.moved c m)) ∧
    ∀ b, b ∉ ms.map (·.sid) → v.slice? b = s.slice? b := by
  have hd : ((ms.filter k.kind.acts).map (·.sid)).Nodup := (List.filter_sublist.map _).nodup hi.nodup
  have hs (b : Nat) : v.slice? b =
      match (ms.filter k.kind.acts).find? fun m => m.sid == b with
      | some m => ((s.advance k c ms).slice? b).map (F m)
      | none => (s.advance k c ms).slice? b := by
    unfold State.slice?
    rw [hp]
    exact find?_foldl_modList _ F hF hd _ b
  refine ⟨fun m hm => ?_, fun b hb => ?_⟩
  · rw [hs, hi.moved k hm, hi.find?_acting _ hm]
    cases k.kind.acts m <;> rfl
  · rw [hs, hi.moved_other k hb, find?_absent fun e => hb ((List.filter_sublist.map _).subset e)]

/-- No member is stepped after an instruction that steps none. -/
theorem Issuing.unstepped {s v : State} {k : Issue} {F : Slice → Slice → Slice} {c : Cur} {g : Gang} {ms : List Slice}
    (hi : Issuing s c g ms) (hF : ∀ m x, (F m x).sid = x.sid) (hS : ∀ m x, (F m x).stepping = x.stepping)
    (hp : v.slices = (ms.filter k.kind.acts).foldl (fun l m => modList l m.sid (F m)) (s.advance k c ms).slices) :
    ∀ m ∈ ms, v.steps m.sid = false := by
  intro m hm
  unfold State.steps
  rw [(hi.slice?_performed hF hp).1 m hm]
  simp only [Option.map_some, Option.getD_some]
  split <;> simp [hS, hi.free m hm]

/-- What the issue of an instruction leaves of the slices, when what it performs changes the members in which it acts as `F` says. -/
theorem State.issue_slices {s : State} {k : Issue} {hold : Cur → List Slice → State → Bool}
    {perform : Cur → List Slice → State → State} {F : Slice → Slice → Slice} {c : Cur} {g : Gang} {ms : List Slice} (hi : Issuing s c g ms)
    (hc : ∀ m ∈ ms, k.clear c m) (hh : hold c (ms.filter k.kind.acts) s = false) (hF : ∀ m x, (F m x).sid = x.sid)
    (hS : ∀ m x, (F m x).stepping = x.stepping)
    (hp : (perform c (ms.filter k.kind.acts) (s.advance k c ms)).slices =
      (ms.filter k.kind.acts).foldl (fun l m => modList l m.sid (F m)) (s.advance k c ms).slices) :
    (∀ m ∈ ms, (s.issue k hold perform).slice? m.sid = some (if k.kind.acts m then F m (k.moved c m) else k.moved c m)) ∧
    ∀ b, b ∉ ms.map (·.sid) → (s.issue k hold perform).slice? b = s.slice? b := by
  have e (b : Nat) : (s.issue k hold perform).slice? b =
      (perform c (ms.filter k.kind.acts) (s.advance k c ms)).slice? b := by
    rw [State.issue_goes hi hc hh]
    unfold State.slice?
    rw [State.afterIssue_slices (hi.unstepped hF hS hp)]
  simp only [e]
  exact hi.slice?_performed hF hp

/-- What the issue of an instruction leaves beyond the slices is what it performed there, unless it steps a member. -/
theorem State.issue_beyond {s : State} {k : Issue} {hold : Cur → List Slice → State → Bool}
    {perform : Cur → List Slice → State → State} {c : Cur} {g : Gang} {ms : List Slice} (hi : Issuing s c g ms)
    (hc : ∀ m ∈ ms, k.clear c m) (hh : hold c (ms.filter k.kind.acts) s = false)
    (hv : ∀ m ∈ ms, (perform c (ms.filter k.kind.acts) (s.advance k c ms)).steps m.sid = false) :
    let v := perform c (ms.filter k.kind.acts) (s.advance k c ms)
    (s.issue k hold perform).beyond = v.beyond ∧ (s.issue k hold perform).cur = none ∧
    (c.yields = false → (s.issue k hold perform).gangs = v.gangs ∧ (s.issue k hold perform).nextId = v.nextId) := by
  simp only [State.issue_goes hi hc hh]
  exact ⟨State.afterIssue_beyond hv, State.afterIssue_cur hv, fun hy => State.afterIssue_gangs hv hy⟩

/-! ### Instructions that only change their own slices -/

/-- What an instruction that only changes its own slices leaves: in every member where it acts, the new slice; every other member moved
on; every other slice, and everything beyond the slices, as before; the gangs too, unless the instruction yields. The new slice may be
computed from the acting members as they stood at issue and from the machine once all have moved on. -/
theorem State.issueSlices_law {s : State} {k : Issue} {hold : Cur → List Slice → State → Bool}
    {f : Cur → List Slice → State → Slice → Slice → Slice} {c : Cur} {g : Gang} {ms : List Slice} (hi : Issuing s c g ms)
    (hc : ∀ m ∈ ms, k.clear c m) (hh : hold c (ms.filter k.kind.acts) s = false) (hf : ∀ c l t m x, (f c l t m x).sid = x.sid)
    (hs : ∀ c l t m x, (f c l t m x).stepping = x.stepping) {u : State} (hu : u = s.issue k hold fun c l t => l.foldl (fun x m => x.modSlice m.sid (f c l t m)) t) :
    (∀ m ∈ ms, u.slice? m.sid = some (if k.kind.acts m then
        f c (ms.filter k.kind.acts) (s.advance k c ms) m (k.moved c m) else k.moved c m)) ∧
    (∀ b, b ∉ ms.map (·.sid) → u.slice? b = s.slice? b) ∧ u.beyond = s.beyond ∧ u.cur = none ∧
    (c.yields = false → u.gangs = s.gangs ∧ u.nextId = s.nextId) := by
  subst hu
  have keeps {β : Type} (p : State → β) (h : ∀ (t : State) a x, p (t.modSlice a x) = p t) (F : Slice → Slice → Slice) (l : List Slice)
      (t : State) : p (l.foldl (fun x m => x.modSlice m.sid (F m)) t) = p t := foldl_keeps p _ (fun t m => h t _ _) l t
  let perform : Cur → List Slice → State → State := fun c l t => l.foldl (fun x m => x.modSlice m.sid (f c l t m)) t
  have hp := slices_foldl (ms.filter k.kind.acts) (fun x m => x.modSlice m.sid (f c (ms.filter k.kind.acts) (s.advance k c ms) m))
    (f c (ms.filter k.kind.acts) (s.advance k c ms)) (fun _ _ => rfl) (s.advance k c ms)
  obtain ⟨a1, a2⟩ := State.issue_slices (perform := perform) (F := f c (ms.filter k.kind.acts) (s.advance k c ms)) hi hc hh
    (hf _ _ _) (hs _ _ _) hp
  obtain ⟨b1, b2, b3⟩ := State.issue_beyond (perform := perform) hi hc hh (hi.unstepped (hf _ _ _) (hs _ _ _) hp)
  refine ⟨a1, a2, b1.trans ?_, b2, fun hy => ⟨(b3 hy).1.trans ?_, (b3 hy).2.trans ?_⟩⟩
  · rw [keeps State.beyond fun _ _ _ => rfl, State.advance_beyond]
  · rw [keeps State.gangs fun _ _ _ => rfl, State.advance_gangs]
  · rw [keeps State.nextId fun _ _ _ => rfl, State.advance_nextId]

/-- The law of `State.issueLocal`. -/
theorem State.issueLocal_law {s : State} {k : Issue} {f : Slice → Slice → Slice} {c : Cur} {g : Gang} {ms : List Slice}
    (hi : Issuing s c g ms) (hc : ∀ m ∈ ms, k.clear c m) (hf : ∀ m x, (f m x).sid = x.sid) (hs : ∀ m x, (f m x).stepping = x.stepping) :
    (∀ m ∈ ms, (s.issueLocal k f).slice? m.sid = some (if k.kind.acts m then f m (k.moved c m) else k.moved c m)) ∧
    (∀ b, b ∉ ms.map (·.sid) → (s.issueLocal k f).slice? b = s.slice? b) ∧ (s.issueLocal k f).beyond = s.beyond ∧
    (s.issueLocal k f).cur = none ∧
    (c.yields = false → (s.issueLocal k f).gangs = s.gangs ∧ (s.issueLocal k f).nextId = s.nextId) :=
  State.issueSlices_law (f := fun _ _ _ => f) hi hc rfl (fun _ _ _ => hf) (fun _ _ _ => hs) rfl

end Sys2Proof.Machine
end

