-- ==== Sys2Proof/Laws/Launch.lean ====
section
/-! SUPPORT. What an instruction that leaves an operation outstanding does at issue (R34, R142): its operations join the list in order, its
destinations are empty, and nothing else changes; what a flush point leaves (R228). -/

set_option Elab.async false

namespace Sys2Proof.Machine

/-! ### Flush points (R228) -/

/-- A flush point changes the octet's open windows and one count of a context, nothing else. -/
theorem State.flushPoint_keeps (s : State) (core oct : Nat) :
    ({ s.flushPoint core oct with octets := s.octets, ctxs := s.ctxs } : State) = s := by
  unfold State.flushPoint; dsimp only; split <;> rfl

theorem State.flushPoint_field {β : Type} (p : State → β) (h : ∀ s : State, ∀ o x, p { s with octets := o, ctxs := x } = p s) (s : State)
    (core oct : Nat) : p (s.flushPoint core oct) = p s := by
  have := congrArg p (State.flushPoint_keeps s core oct)
  rwa [h] at this

@[simp] theorem State.flushSlice_slices (s : State) (m : Slice) : (s.flushSlice m).slices = s.slices :=
  State.flushPoint_field State.slices (fun _ _ _ => rfl) s _ _
@[simp] theorem State.flushSlice_txns (s : State) (m : Slice) : (s.flushSlice m).txns = s.txns :=
  State.flushPoint_field State.txns (fun _ _ _ => rfl) s _ _
@[simp] theorem State.flushSlice_gangs (s : State) (m : Slice) : (s.flushSlice m).gangs = s.gangs :=
  State.flushPoint_field State.gangs (fun _ _ _ => rfl) s _ _
@[simp] theorem State.flushSlice_nextId (s : State) (m : Slice) : (s.flushSlice m).nextId = s.nextId :=
  State.flushPoint_field State.nextId (fun _ _ _ => rfl) s _ _
@[simp] theorem State.flushSlice_waves (s : State) (m : Slice) : (s.flushSlice m).waves = s.waves :=
  State.flushPoint_field State.waves (fun _ _ _ => rfl) s _ _
@[simp] theorem State.flushSlice_fab (s : State) (m : Slice) : (s.flushSlice m).fab = s.fab :=
  State.flushPoint_field State.fab (fun _ _ _ => rfl) s _ _
@[simp] theorem State.flushSlice_cores (s : State) (m : Slice) : (s.flushSlice m).cores = s.cores :=
  State.flushPoint_field State.cores (fun _ _ _ => rfl) s _ _

/-- A flush point looks at the octets and contexts alone, so what it leaves beyond the slices depends on what was there. -/
theorem State.flushSlice_beyond {s t : State} (h : s.beyond = t.beyond) (m : Slice) : (s.flushSlice m).beyond = (t.flushSlice m).beyond := by
  have ho : s.octets = t.octets := (congrArg State.octets h : s.beyond.octets = t.beyond.octets)
  have hc : s.ctxs = t.ctxs := (congrArg State.ctxs h : s.beyond.ctxs = t.beyond.ctxs)
  have he : s.octet m.core m.oct = t.octet m.core m.oct := by unfold State.octet; rw [ho]
  unfold State.flushSlice State.flushPoint
  dsimp only
  rw [he]
  split
  · exact h
  · have hx : ∀ c, s.ctx c = t.ctx c := fun c => by unfold State.ctx; rw [hc]
    simp only [State.beyond, State.setCtx, State.setOctet, hx, ho, hc]
    simp only [State.beyond, State.mk.injEq] at h
    simp [h]

/-! ### Marking destinations empty (R34) -/

@[simp] theorem Slice.setFull_sid (x : Slice) (r : RegName) (b : Bool) : (x.setFull r b).sid = x.sid := by cases r <;> rfl
@[simp] theorem Slice.setFull_pc (x : Slice) (r : RegName) (b : Bool) : (x.setFull r b).pc = x.pc := by cases r <;> rfl

/-- Marking a register changes no PC, and a change of the PC no register. -/
theorem Slice.setFull_withPc (x : Slice) (r : RegName) (b : Bool) (pc : DWord) :
    ({ x with pc := pc } : Slice).setFull r b = { x.setFull r b with pc := pc } := by cases r <;> rfl

/-- A slice with destinations marked empty. -/
def Slice.emptied (x : Slice) (dst : List RegName) : Slice := dst.foldl (fun y r => y.setFull r false) x

@[simp] theorem Slice.emptied_sid (x : Slice) (dst : List RegName) : (x.emptied dst).sid = x.sid := by
  unfold Slice.emptied
  induction dst generalizing x with
  | nil => rfl
  | cons r t ih => simp [List.foldl_cons, ih]

@[simp] theorem Slice.emptied_stepping (x : Slice) (dst : List RegName) : (x.emptied dst).stepping = x.stepping := by
  unfold Slice.emptied
  exact foldl_keeps Slice.stepping (fun y r => y.setFull r false) (fun y r => by cases r <;> rfl) dst x
theorem Slice.emptied_withPc (x : Slice) (dst : List RegName) (pc : DWord) :
    ({ x with pc := pc } : Slice).emptied dst = { x.emptied dst with pc := pc } := by
  unfold Slice.emptied
  induction dst generalizing x with
  | nil => rfl
  | cons r t ih => simp only [List.foldl_cons, Slice.setFull_withPc, ih]

theorem State.markEmpty_eq (s : State) (a : Nat) (dst : List RegName) : s.markEmpty a dst = s.modSlice a fun x => x.emptied dst := rfl

@[simp] theorem State.markEmpty_slices (s : State) (a : Nat) (dst : List RegName) :
    (s.markEmpty a dst).slices = modList s.slices a fun x => x.emptied dst := rfl

/-! ### One operation for each slice -/

/-- The operations `State.sliceTxns` adds, named from `n` on. -/
def State.sliceOps (s : State) (c : Cur) (n : Nat) (ms : List Slice) (kind : Slice → TxnKind) (size : Nat) (dst : Slice → List RegName)
    (lanes : Slice → List LaneAcc) : List Txn :=
  (ms.zipIdx n).map fun (m, k) =>
    ⟨k, kind m, m.core, s.ctxOfWave m.wave, m.wave, size, true, [m.part c (dst m)], lanes m, none, [],
      s.fab.step, false⟩

theorem State.sliceTxns_law (ms : List Slice) (s : State) (c : Cur) (kind : Slice → TxnKind) (size : Nat) (dst : Slice → List RegName)
    (lanes : Slice → List LaneAcc) :
    let u := s.sliceTxns c ms kind size dst lanes
    u.slices = ms.foldl (fun l m => modList l m.sid fun x => x.emptied (dst m)) s.slices ∧
    u.txns = s.txns ++ s.sliceOps c s.nextId ms kind size dst lanes ∧ u.nextId = s.nextId + ms.length ∧
    ({ u with slices := [], txns := [], nextId := 0 } : State) = { s with slices := [], txns := [], nextId := 0 } := by
  induction ms generalizing s with
  | nil => simp [State.sliceTxns, State.sliceOps]
  | cons m t ih =>
    have e : s.sliceTxns c (m :: t) kind size dst lanes =
      ((s.markEmpty m.sid (dst m)).addTxn (kind m) m size true [m.part c (dst m)] (lanes m)).sliceTxns c t kind size dst lanes := rfl
    obtain ⟨h1, h2, h3, h4⟩ := ih ((s.markEmpty m.sid (dst m)).addTxn (kind m) m size true [m.part c (dst m)] (lanes m))
    simp only [e]
    refine ⟨?_, ?_, ?_, ?_⟩
    · rw [h1]; rfl
    · rw [h2]
      simp only [State.sliceOps, State.addTxn_txns, State.addTxn_nextId, List.zipIdx_cons, List.map_cons, List.append_assoc,
        List.singleton_append]
      rfl
    · rw [h3]; simp only [State.addTxn_nextId, List.length_cons, State.markEmpty_eq, State.modSlice_nextId]; omega
    · rw [h4]; rfl

/-! ### One operation for the gang -/

/-- The operation `State.gangTxn` adds. -/
def State.gangOp (s : State) (c : Cur) (ms : List Slice) (kind : TxnKind) (size : Nat) (dst : Slice → List RegName) (lanes : List LaneAcc) :
    List Txn :=
  match ms with
  | [] => []
  | m :: _ => [⟨s.nextId, kind, m.core, s.ctxOfWave m.wave, m.wave, size, false, ms.map fun x => x.part c (dst x), lanes, none, [],
      s.fab.step, false⟩]

theorem State.markAll_keeps (ms : List Slice) (s : State) (dst : Slice → List RegName) :
    let u := ms.foldl (fun x k => x.markEmpty k.sid (dst k)) s
    u.slices = ms.foldl (fun l m => modList l m.sid fun x => x.emptied (dst m)) s.slices ∧ ({ u with slices := s.slices } : State) = s := by
  induction ms generalizing s with
  | nil => exact ⟨rfl, rfl⟩
  | cons m t ih =>
    obtain ⟨h1, h2⟩ := ih (s.markEmpty m.sid (dst m))
    refine ⟨h1, ?_⟩
    have := congrArg (fun x : State => { x with slices := s.slices }) h2
    exact this

theorem State.gangTxn_law (ms : List Slice) (s : State) (c : Cur) (kind : TxnKind) (size : Nat) (dst : Slice → List RegName)
    (lanes : List LaneAcc) :
    let u := s.gangTxn c ms kind size dst lanes
    u.slices = ms.foldl (fun l m => modList l m.sid fun x => x.emptied (dst m)) s.slices ∧
    u.txns = s.txns ++ s.gangOp c ms kind size dst lanes ∧ u.nextId = s.nextId + (s.gangOp c ms kind size dst lanes).length ∧
    ({ u with slices := [], txns := [], nextId := 0 } : State) = { s with slices := [], txns := [], nextId := 0 } := by
  cases ms with
  | nil => exact ⟨rfl, by simp [State.gangTxn, State.gangOp], rfl, rfl⟩
  | cons m t =>
    obtain ⟨h1, h2⟩ := State.markAll_keeps (m :: t) s dst
    generalize hv : (m :: t).foldl (fun x k => x.markEmpty k.sid (dst k)) s = v at h1 h2
    have e : s.gangTxn c (m :: t) kind size dst lanes =
      v.addTxn kind m size false ((m :: t).map fun k => k.part c (dst k)) lanes := by rw [← hv]; rfl
    have hs : v = { s with slices := v.slices } := by
      have := congrArg (fun x : State => { x with slices := v.slices }) h2
      exact this
    simp only [e]
    refine ⟨h1, ?_, ?_, ?_⟩
    · rw [hs]; rfl
    · rw [hs]; rfl
    · rw [hs]; rfl

/-! ### Issue and launch together -/

/-- The machine beyond the slices and the outstanding operations. -/
def State.beyondTxns (s : State) : State := { s.beyond with txns := [] }

theorem State.beyondTxns_of_beyond {s t : State} (h : s.beyond = t.beyond) : s.beyondTxns = t.beyondTxns :=
  congrArg (fun x : State => ({ x with txns := [] } : State)) h

/-- A slice in which an instruction acted: moved on, its destinations empty. -/
theorem Issue.moved_emptied (k : Issue) (c : Cur) (m : Slice) (h : k.kind.acts m = true) (dst : List RegName) :
    (k.moved c m).emptied dst = { (m.clearMarks (k.srcs m)).emptied dst with pc := c.nxt } := by
  unfold Issue.moved
  rw [Slice.emptied_withPc, h]; rfl

/-- What the issue of an instruction that leaves operations outstanding does, given what its launch does to the state after the members
moved on. -/
theorem State.issueTxns_law {s : State} {k : Issue} {hold : Cur → List Slice → State → Bool}
    {perform : Cur → List Slice → State → State} {dst : Slice → List RegName} {c : Cur} {g : Gang} {ms : List Slice}
    (hi : Issuing s c g ms) (hc : ∀ m ∈ ms, k.clear c m) (hh : hold c (ms.filter k.kind.acts) s = false)
    {ops : List Txn} {base : State}
    (hp : let u := perform c (ms.filter k.kind.acts) (s.advance k c ms)
      u.slices = (ms.filter k.kind.acts).foldl (fun l m => modList l m.sid fun x => x.emptied (dst m)) (s.advance k c ms).slices ∧
      u.txns = s.txns ++ ops ∧ u.nextId = s.nextId + ops.length ∧ u.beyondTxns = base.beyondTxns ∧ u.gangs = s.gangs) :
    let u := s.issue k hold perform
    (∀ m ∈ ms, u.slice? m.sid = some (if k.kind.acts m then { (m.clearMarks (k.srcs m)).emptied (dst m) with pc := c.nxt }
      else k.moved c m)) ∧
    (∀ b, b ∉ ms.map (·.sid) → u.slice? b = s.slice? b) ∧ u.txns = s.txns ++ ops ∧ u.beyondTxns = base.beyondTxns ∧ u.cur = none ∧
    (c.yields = false → u.gangs = s.gangs ∧ u.nextId = s.nextId + ops.length) := by
  obtain ⟨p1, p2, p3, p4, p5⟩ := hp
  obtain ⟨a1, a2⟩ := State.issue_slices (F := fun m x => x.emptied (dst m)) hi hc hh (fun m x => Slice.emptied_sid x _)
    (fun m x => Slice.emptied_stepping x _) p1
  obtain ⟨b1, b2, b3⟩ := State.issue_beyond (perform := perform) hi hc hh
    (hi.unstepped (fun m x => Slice.emptied_sid x _) (fun m x => Slice.emptied_stepping x _) p1)
  refine ⟨?_, a2, ?_, ?_, b2, ?_⟩
  · intro m hm
    rw [a1 m hm]
    cases ha : k.kind.acts m with
    | true => simp only [if_pos]; rw [Issue.moved_emptied k c m ha]
    | false => rfl
  · have := congrArg State.txns b1
    rw [← p2]; exact this
  · rw [← p4]; exact State.beyondTxns_of_beyond b1
  · intro hy
    obtain ⟨g1, g2⟩ := b3 hy
    exact ⟨g1.trans p5, g2.trans p3⟩

end Sys2Proof.Machine
end

