-- ==== Sys2Proof/Laws/Memory.lean ====
section
/-! SUPPORT. The laws of a memory: every operation on it keeps the canonical form (addresses strictly rising, no entry 0), a byte written is
read back, and every other byte reads as before. -/

set_option Elab.async false

namespace Sys2Proof.Machine

/-- An address lies above a bound, if there is one. -/
def above (lo : Option Nat) (a : Nat) : Prop := ∀ l, lo = some l → l < a

theorem Mem.wfAbove_cons {lo : Option Nat} {a : Nat} {b : Byte} {m : Mem} :
    Mem.wfAbove lo ((a, b) :: m) = true ↔ above lo a ∧ b ≠ 0#8 ∧ Mem.wfAbove (some a) m = true := by
  cases lo <;> simp [Mem.wfAbove, above, and_assoc]

/-- A lower bound may be weakened. -/
theorem Mem.wfAbove_weaken {lo lo' : Option Nat} {m : Mem} (h : Mem.wfAbove lo m = true) (hl : ∀ a, above lo a → above lo' a) :
    Mem.wfAbove lo' m = true := by
  cases m with
  | nil => rfl
  | cons c t =>
    obtain ⟨a, b⟩ := c
    rw [Mem.wfAbove_cons] at h ⊢
    exact ⟨hl a h.1, h.2⟩

/-- A memory in canonical form has it without a bound. -/
theorem Mem.wf_of_wfAbove {lo : Option Nat} {m : Mem} (h : Mem.wfAbove lo m = true) : m.wf = true :=
  Mem.wfAbove_weaken h fun _ _ l hl => by cases hl

theorem memWrite_wfAbove {lo : Option Nat} {m : Mem} (h : Mem.wfAbove lo m = true) (a : Nat) (b : Byte) (ha : above lo a) :
    Mem.wfAbove lo (memWrite m a b) = true := by
  induction m generalizing lo with
  | nil =>
    simp only [memWrite]
    split
    · rfl
    · rw [Mem.wfAbove_cons]; exact ⟨ha, ‹_›, rfl⟩
  | cons c t ih =>
    obtain ⟨k, v⟩ := c
    rw [Mem.wfAbove_cons] at h
    have up : ∀ x, above (some k) x → above lo x := fun x hx l hl => Nat.lt_trans (h.1 l hl) (hx k rfl)
    simp only [memWrite]
    split
    · split
      · rw [Mem.wfAbove_cons]; exact h
      · rw [Mem.wfAbove_cons, Mem.wfAbove_cons]
        exact ⟨ha, ‹_›, fun l hl => by cases hl; assumption, h.2⟩
    · split
      · subst_vars
        split
        · exact Mem.wfAbove_weaken h.2.2 up
        · rw [Mem.wfAbove_cons]; exact ⟨ha, ‹_›, h.2.2⟩
      · rw [Mem.wfAbove_cons]
        exact ⟨h.1, h.2.1, ih h.2.2 fun l hl => by cases hl; omega⟩

/-- A write keeps the canonical form. -/
@[simp] theorem memWrite_wf {m : Mem} (h : m.wf = true) (a : Nat) (b : Byte) : (memWrite m a b).wf = true :=
  memWrite_wfAbove h a b fun _ hl => by cases hl

/-- Below its bound a memory reads 0. -/
theorem memRead_below {lo : Option Nat} {m : Mem} (h : Mem.wfAbove lo m = true) {a : Nat} (ha : ¬ above lo a) : memRead m a = 0#8 := by
  induction m generalizing lo with
  | nil => rfl
  | cons c t ih =>
    obtain ⟨k, v⟩ := c
    rw [Mem.wfAbove_cons] at h
    simp only [above, not_forall] at ha
    obtain ⟨l, hl, hla⟩ := ha
    have hk := h.1 l hl
    rw [memRead, if_neg (by omega)]
    exact ih h.2.2 fun hc => by have := hc k rfl; omega

theorem memRead_memWrite_above {lo : Option Nat} {m : Mem} (h : Mem.wfAbove lo m = true) (a c : Nat) (b : Byte) :
    memRead (memWrite m a b) c = if c = a then b else memRead m c := by
  induction m generalizing lo with
  | nil =>
    rw [memWrite]
    split
    · subst_vars; split <;> rfl
    · by_cases hc : c = a
      · simp only [memRead]; rw [if_pos hc.symm, if_pos hc]
      · simp only [memRead]; rw [if_neg (fun e : a = c => hc e.symm), if_neg hc]
  | cons x t ih =>
    obtain ⟨k, v⟩ := x
    rw [Mem.wfAbove_cons] at h
    have z : ∀ y, y ≤ k → memRead t y = 0#8 := fun y hy => memRead_below h.2.2 fun hc => by have := hc k rfl; omega
    rw [memWrite]
    by_cases h1 : a < k
    · rw [if_pos h1]
      by_cases hc : c = a
      · subst hc
        rw [if_pos rfl]
        split
        · subst_vars; rw [memRead, if_neg (by omega)]; exact z c (by omega)
        · rw [memRead, if_pos rfl]
      · rw [if_neg hc]
        split
        · rfl
        · rw [memRead, if_neg (fun e => hc e.symm)]
    · rw [if_neg h1]
      by_cases h2 : a = k
      · subst h2
        rw [if_pos rfl]
        by_cases hc : c = a
        · subst hc
          rw [if_pos rfl]
          split
          · subst_vars; exact z c (Nat.le_refl c)
          · rw [memRead, if_pos rfl]
        · have hc' : ¬ a = c := fun e => hc e.symm
          rw [if_neg hc]
          split <;> simp [memRead, hc']
      · rw [if_neg h2, memRead, memRead]
        by_cases hk : k = c
        · rw [if_pos hk, if_pos hk, if_neg (by omega)]
        · rw [if_neg hk, if_neg hk]; exact ih h.2.2

/-- A byte after a write: the byte written, or what it was. -/
theorem memRead_memWrite {m : Mem} (h : m.wf = true) (a c : Nat) (b : Byte) :
    memRead (memWrite m a b) c = if c = a then b else memRead m c := memRead_memWrite_above h a c b

/-- Writing bytes keeps the canonical form. -/
@[simp] theorem writeBytes_wf {m : Mem} (h : m.wf = true) (a : Nat) (bs : List Byte) : (writeBytes m a bs).wf = true := by
  induction bs generalizing m a with
  | nil => exact h
  | cons b t ih => exact ih (memWrite_wf h a b) (a + 1)

/-- A byte outside the bytes written reads as before. -/
theorem memRead_writeBytes_outside {m : Mem} (h : m.wf = true) (a : Nat) (bs : List Byte) {c : Nat} (hc : c < a ∨ a + bs.length ≤ c) :
    memRead (writeBytes m a bs) c = memRead m c := by
  induction bs generalizing m a with
  | nil => rfl
  | cons b t ih =>
    simp only [List.length_cons] at hc
    rw [writeBytes, ih (memWrite_wf h a b) (a + 1) (by omega), memRead_memWrite h, if_neg (by omega)]

/-- A byte that was written is read back. -/
theorem memRead_writeBytes_inside {m : Mem} (h : m.wf = true) (a : Nat) (bs : List Byte) {i : Nat} (hi : i < bs.length) :
    memRead (writeBytes m a bs) (a + i) = bs[i] := by
  induction bs generalizing m a i with
  | nil => simp at hi
  | cons b t ih =>
    cases i with
    | zero =>
      rw [writeBytes, memRead_writeBytes_outside (memWrite_wf h a b) (a + 1) t (by omega), memRead_memWrite h, if_pos (by omega)]; rfl
    | succ j =>
      rw [writeBytes, show a + (j + 1) = a + 1 + j by omega, ih (memWrite_wf h a b) (a + 1) (by simpa using hi)]; rfl

/-- Dropping entries keeps the canonical form. -/
theorem Mem.filter_wfAbove {lo : Option Nat} {m : Mem} (h : Mem.wfAbove lo m = true) (p : Nat × Byte → Bool) :
    Mem.wfAbove lo (m.filter p) = true := by
  induction m generalizing lo with
  | nil => rfl
  | cons c t ih =>
    obtain ⟨k, v⟩ := c
    rw [Mem.wfAbove_cons] at h
    rw [List.filter_cons]
    split
    · rw [Mem.wfAbove_cons]; exact ⟨h.1, h.2.1, ih h.2.2⟩
    · exact Mem.wfAbove_weaken (ih h.2.2) fun x hx l hl => Nat.lt_trans (h.1 l hl) (hx k rfl)

/-- Clearing a range keeps the canonical form. -/
@[simp] theorem memClear_wf {m : Mem} (h : m.wf = true) (lo len : Nat) : (memClear m lo len).wf = true := Mem.filter_wfAbove h _

/-- A range of a memory keeps the canonical form. -/
@[simp] theorem memSlice_wf {m : Mem} (h : m.wf = true) (lo len : Nat) : (memSlice m lo len).wf = true := Mem.filter_wfAbove h _

/-- Memory operations that each keep the canonical form keep it one after another. -/
theorem memFold_wf {κ : Type} {op : Mem → κ → Mem} (keeps : ∀ {n : Mem} (k : κ), n.wf = true → (op n k).wf = true) (ks : List κ)
    {m : Mem} (start : m.wf = true) : (ks.foldl op m).wf = true :=
  List.foldlRecOn (motive := fun n => Mem.wf n = true) ks op start fun _ hn k _ => keeps k hn

/-- Copying a range keeps the canonical form of the memory copied into. -/
@[simp] theorem memCopy_wf (m : Mem) (src : Nat) {n : Mem} (h : n.wf = true) (dst len : Nat) : (memCopy m src n dst len).wf = true :=
  memFold_wf (fun _ hx => memWrite_wf hx _ _) _ (memClear_wf h dst len)

/-- Moving rows of a B-stack keeps the canonical form. -/
@[simp] theorem moveRows_wf (m : Mem) (row : Nat) {n : Mem} (h : n.wf = true) (row' len size : Nat) (at_ : Nat → Nat → Nat) :
    (moveRows m row n row' len size at_).wf = true :=
  memFold_wf (fun _ hx => memCopy_wf _ _ hx _ _) _ h

/-- The canonical form of a memory: its addresses rise from entry to entry, and no entry is 0. -/
theorem Mem.wf_iff {m : Mem} : m.wf = true ↔ m.Pairwise (fun x y => x.1 < y.1) ∧ ∀ x ∈ m, x.2 ≠ 0#8 := by
  have h : ∀ (m : Mem) lo, Mem.wfAbove lo m = true ↔
      (∀ x ∈ m, above lo x.1) ∧ m.Pairwise (fun x y => x.1 < y.1) ∧ ∀ x ∈ m, x.2 ≠ 0#8 := by
    intro m
    induction m with
    | nil => intro lo; simp [Mem.wfAbove]
    | cons c t ih =>
      intro lo
      rw [Mem.wfAbove_cons, ih]
      constructor
      · rintro ⟨h1, h2, h3, h4, h5⟩
        refine ⟨fun x hx => ?_, List.pairwise_cons.mpr ⟨fun x hx => h3 x hx _ rfl, h4⟩, fun x hx => ?_⟩
        · cases hx with
          | head => exact h1
          | tail _ hx => exact fun l hl => Nat.lt_trans (h1 l hl) (h3 x hx _ rfl)
        · cases hx with
          | head => exact h2
          | tail _ hx => exact h5 x hx
      · rintro ⟨h1, h2, h3⟩
        have h2 := List.pairwise_cons.mp h2
        exact ⟨h1 c (.head t), h3 c (.head t), fun x hx l hl => Option.some.inj hl ▸ h2.1 x hx, h2.2, fun x hx => h3 x (.tail c hx)⟩
  have : ∀ x ∈ m, above none x.1 := fun _ _ _ hl => nomatch hl
  exact (h m none).trans (and_iff_right this)

/-- An address that no entry names reads 0. -/
theorem memRead_unlisted {m : Mem} {a : Nat} (h : ∀ x ∈ m, x.1 ≠ a) : memRead m a = 0#8 := by
  induction m with
  | nil => rfl
  | cons c t ih => rw [memRead, if_neg (h c (.head t))]; exact ih fun x hx => h x (.tail c hx)

/-- An entry of a memory in canonical form is what its address reads as. -/
theorem memRead_listed {m : Mem} (h : m.wf = true) {a : Nat} {b : Byte} (hb : (a, b) ∈ m) : memRead m a = b := by
  replace h := (Mem.wf_iff.mp h).1
  induction m with
  | nil => cases hb
  | cons c t ih =>
    have h := List.pairwise_cons.mp h
    cases hb with
    | head => rw [memRead, if_pos rfl]
    | tail _ hb => rw [memRead, if_neg (by have := h.1 _ hb; simp only at this; omega)]; exact ih hb h.2

/-- The entries of a list of bytes laid out from an address on: those that are not 0. -/
theorem mem_sparseBytes (bs : List Byte) (a : Nat) (x : Nat × Byte) :
    x ∈ sparseBytes a bs ↔ a ≤ x.1 ∧ bs[x.1 - a]? = some x.2 ∧ x.2 ≠ 0#8 := by
  induction bs generalizing a with
  | nil => simp [sparseBytes]
  | cons b t ih =>
    obtain ⟨k, v⟩ := x
    have hs : a < k → k - a = k - (a + 1) + 1 := by omega
    rw [sparseBytes]
    rcases Nat.lt_trichotomy k a with hk | hk | hk
    · split <;> simp [ih, show ¬ a ≤ k by omega, show ¬ a + 1 ≤ k by omega, show k ≠ a by omega]
    · subst hk
      split <;> simp [ih, show ¬ k + 1 ≤ k by omega] <;> grind
    · split <;> simp [ih, hs hk, show a ≤ k by omega, show a + 1 ≤ k by omega, show k ≠ a by omega]

theorem sparseBytes_rise (bs : List Byte) (a : Nat) : (sparseBytes a bs).Pairwise (fun x y => x.1 < y.1) := by
  induction bs generalizing a with
  | nil => exact .nil
  | cons b t ih =>
    rw [sparseBytes]
    split
    · exact ih _
    · exact .cons (fun x hx => ((mem_sparseBytes _ _ _).mp hx).1) (ih _)

/-- What a memory lists after bytes are spliced in. -/
theorem mem_memSplice {m : Mem} {a : Nat} {bs : List Byte} {x : Nat × Byte} : x ∈ memSplice m a bs ↔
    (x ∈ m ∧ (x.1 < a ∨ a + bs.length ≤ x.1)) ∨ x ∈ sparseBytes a bs := by
  simp only [memSplice, List.mem_append, List.mem_filter, decide_eq_true_eq]
  grind

/-- Splicing bytes in keeps the canonical form. -/
@[simp] theorem memSplice_wf {m : Mem} (h : m.wf = true) (a : Nat) (bs : List Byte) : (memSplice m a bs).wf = true := by
  rw [Mem.wf_iff] at h ⊢
  have inside : ∀ x ∈ sparseBytes a bs, a ≤ x.1 ∧ x.1 < a + bs.length := fun x hx => by
    obtain ⟨h1, h2, -⟩ := (mem_sparseBytes _ _ _).mp hx
    obtain ⟨h2, -⟩ := List.getElem?_eq_some_iff.mp h2
    exact ⟨h1, by omega⟩
  refine ⟨?_, fun x hx => ?_⟩
  · simp only [memSplice, List.pairwise_append, List.mem_append, List.mem_filter, decide_eq_true_eq]
    refine ⟨h.1.filter _, ⟨sparseBytes_rise bs a, h.1.filter _, fun x hx y hy => ?_⟩, fun x hx y hy => ?_⟩
    · have := inside x hx; omega
    · rcases hy with hy | hy
      · have := inside y hy; omega
      · omega
  · rcases mem_memSplice.mp hx with hx | hx
    · exact h.2 x hx.1
    · exact ((mem_sparseBytes _ _ _).mp hx).2.2

/-- A byte after bytes are spliced in: the byte put there, or what it was. -/
theorem memRead_memSplice {m : Mem} (h : m.wf = true) (a c : Nat) (bs : List Byte) :
    memRead (memSplice m a bs) c = if a ≤ c ∧ c < a + bs.length then bs.getD (c - a) 0#8 else memRead m c := by
  have hw := memSplice_wf h a bs
  split
  · rename_i hc
    have hl : c - a < bs.length := by omega
    rw [List.getD_eq_getElem _ _ hl]
    by_cases hz : bs[c - a] = 0#8
    · rw [hz]
      refine memRead_unlisted fun x hx e => ?_
      rcases mem_memSplice.mp hx with hx | hx
      · omega
      · obtain ⟨-, h2, h3⟩ := (mem_sparseBytes _ _ _).mp hx
        rw [e, List.getElem?_eq_getElem hl, hz] at h2
        exact h3 (Option.some.inj h2).symm
    · exact memRead_listed hw (mem_memSplice.mpr (.inr ((mem_sparseBytes _ _ _).mpr ⟨hc.1, List.getElem?_eq_getElem hl, hz⟩)))
  · rename_i hc
    have out : ∀ b, (c, b) ∈ memSplice m a bs ↔ (c, b) ∈ m := fun b => by
      rw [mem_memSplice]
      refine ⟨fun hx => ?_, fun hx => .inl ⟨hx, by simp only; omega⟩⟩
      rcases hx with hx | hx
      · exact hx.1
      · obtain ⟨h1, h2, -⟩ := (mem_sparseBytes _ _ _).mp hx
        obtain ⟨h2, -⟩ := List.getElem?_eq_some_iff.mp h2
        simp only at h1 h2
        omega
    by_cases hm : ∃ b, (c, b) ∈ m
    · obtain ⟨b, hb⟩ := hm
      rw [memRead_listed h hb, memRead_listed hw ((out b).mpr hb)]
    · have no : ∀ n : Mem, (∀ b, (c, b) ∉ n) → ∀ x ∈ n, x.1 ≠ c := fun n hn x hx e => hn x.2 (e ▸ hx)
      have hm := not_exists.mp hm
      rw [memRead_unlisted (no m hm), memRead_unlisted (no _ fun b hb => hm b ((out b).mp hb))]

/-- Physical memory keeps the canonical form through a write of a range (log 5). -/
theorem State.physPut_wf {s : State} (h : s.hbm.wf = true) (hs : s.sealed = []) (pa : Nat) (bs : List Byte) :
    (s.physPut 0 pa bs).hbm.wf = true := by
  simp [State.physPut, hs, memSplice_wf h]

/-- The bytes read are as many as were asked for. -/
@[simp] theorem readBytes_length (m : Mem) (a n : Nat) : (readBytes m a n).length = n := by simp [readBytes]

/-- A number's bytes are as many as were asked for. -/
@[simp] theorem toBytes_length (n x : Nat) : (toBytes n x).length = n := by
  induction n generalizing x with
  | zero => rfl
  | succ k ih => simp [toBytes, ih]

/-- The number of a number's bytes: the number, cut to them (R3). -/
theorem ofBytes_toBytes (n x : Nat) : ofBytes (toBytes n x) = x % 2 ^ (8 * n) := by
  induction n generalizing x with
  | zero => simp [toBytes, ofBytes, Nat.mod_one]
  | succ k ih =>
    rw [toBytes, ofBytes, ih]
    rw [show 2 ^ (8 * (k + 1)) = 256 * 2 ^ (8 * k) by rw [Nat.mul_add, Nat.pow_add]; ring, Nat.mod_mul]
    simp

/-- Every byte of an empty memory reads 0 (log 5). -/
@[simp] theorem memRead_nil (a : Nat) : memRead [] a = 0#8 := rfl

/-! ### Walks: which table entries they read -/

/-- The places of the entries that a walk reads (R262). -/
def walkReads (rd : Nat → DWord) (ls : List (Nat × Nat × Option (Fin 3))) (table va : Nat) : List Nat :=
  match ls with
  | [] => []
  | (sh, w, _) :: rest =>
    let pa := table + 8 * (va / 2 ^ sh % 2 ^ w)
    pa :: if (rd pa).getLsbD 0 && (rd pa).extractLsb' 6 2 == 3#2 then walkReads rd rest (((rd pa).extractLsb' 8 56).toNat * 256) va else []

/-- A walk depends on the entries it reads alone. -/
theorem walkFrom_congr {rd rd' : Nat → DWord} (stack va : Nat) (ls : List (Nat × Nat × Option (Fin 3))) (table : Nat)
    (h : ∀ pa ∈ walkReads rd ls table va, rd' pa = rd pa) : walkFrom rd' stack ls table va = walkFrom rd stack ls table va := by
  induction ls generalizing table with
  | nil => rfl
  | cons l rest ih =>
    obtain ⟨sh, w, sz⟩ := l
    simp only [Machine.walkReads, List.forall_mem_cons] at h
    unfold walkFrom
    simp only [h.1]
    split
    · next hc => rw [if_pos hc] at h; rw [ih _ h.2]
    · rfl

/-- The places of the entries that the walk of an address reads. -/
def State.walkReads (s : State) (asid : BitVec 16) (va : Nat) : List Nat :=
  match s.ctxOfAsid asid with
  | none => []
  | some c => Machine.walkReads s.tableWord levels ((s.ctx c).roots.toList.getD (walkStack asid va) 0#64).toNat va

/-- Where no key is in use, the walk of an address does not see a change of memory outside the entries it reads (R262). -/
theorem State.walk_congr {s : State} (h : Mem) (asid : BitVec 16) (va : Nat) (plain : s.sealed = [])
    (same : ∀ pa ∈ s.walkReads asid va, readBytes h pa 8 = readBytes s.hbm pa 8) :
    ({ s with hbm := h } : State).walk asid va = s.walk asid va := by
  have word (m : Mem) (pa : Nat) : ({ s with hbm := m } : State).tableWord pa = BitVec.ofNat 64 (ofBytes (readBytes m pa 8)) := by
    simp [State.tableWord, State.physRead, plain]
  have agree (pa : Nat) (hp : pa ∈ s.walkReads asid va) : ({ s with hbm := h } : State).tableWord pa = s.tableWord pa :=
    by rw [word h pa, same pa hp, ← word s.hbm pa]
  simp only [State.walkReads] at agree
  show (match s.ctxOfAsid asid with | none => _ | some c => _) = (match s.ctxOfAsid asid with | none => _ | some c => _)
  cases hc : s.ctxOfAsid asid with
  | none => rfl
  | some c => rw [hc] at agree; exact walkFrom_congr _ _ _ _ agree

/-- Bytes that read alike one by one read alike together. -/
theorem readBytes_congr {m m' : Mem} {a n : Nat} (h : ∀ c, a ≤ c → c < a + n → memRead m c = memRead m' c) :
    readBytes m a n = readBytes m' a n := by
  simp only [readBytes]
  exact List.map_congr_left fun i hi => h _ (by omega) (by have := List.mem_range.1 hi; omega)

end Sys2Proof.Machine
end

