-- ==== Sys2Proof/Laws/PerInstr.lean ====
section
/-! SUPPORT. Statements about every instruction as syntax, one lemma for each constructor. -/

set_option Elab.async false

namespace Sys2Proof.Laws

namespace RoundTrip

/-- A well-formed instruction that has an encoding is what its words decode to (R56–R61). -/
def Statement (i : Instr) : Prop := i.wf = true → encode i ≠ [] → decodeWords (encode i) = .ok i

theorem nop : Statement (.nop) := by
  intro _ _
  simp [encode, decodeWords, decodeRaw, decodeGroup0]

theorem bra (off : BrOffsets) : Statement (.bra off) := by
  intro _ _
  simp [encode, decodeWords, decodeRaw, decodeGroup0]

theorem brp (c : BrCond) (off : BrOffsets) : Statement (.brp c off) := by
  intro _ _
  cases c <;> simp [encode, encBrp, decodeWords, decodeRaw, decodeGroup0, Dec.brp]

theorem bri (a : SPairSrc) : Statement (.bri a) := by
  intro _ _
  simp [encode, decodeWords, decodeRaw, decodeGroup0]

theorem call (d : SPairReg) (lit : Word) : Statement (.call d lit) := by
  intro _ _
  simp [encode, decodeWords, decodeRaw, decodeGroup0]

theorem calli (d : SPairReg) (a : SPairSrc) : Statement (.calli d a) := by
  intro _ _
  simp [encode, decodeWords, decodeRaw, decodeGroup0]

theorem ret (a : SPairSrc) : Statement (.ret a) := by
  intro _ _
  simp [encode, decodeWords, decodeRaw, decodeGroup0]

theorem exit : Statement (.exit) := by
  intro _ _
  simp [encode, decodeWords, decodeRaw, decodeGroup0]

theorem yield : Statement (.yield) := by
  intro _ _
  simp [encode, decodeWords, decodeRaw, decodeGroup0]

theorem trap (code : BitVec 16) : Statement (.trap code) := by
  intro _ _
  have h : code.extractLsb' 8 8 ++ code.extractLsb' 0 8 = code := by
    ext i hi
    simp
    grind
  simp [encode, decodeWords, decodeRaw, decodeGroup0, Dec.trap, h]

theorem rgn : Statement (.rgn) := by
  intro _ _
  simp [encode, decodeWords, decodeRaw, decodeGroup0]

theorem regang (a : Bool) : Statement (.regang a) := by
  intro _ _
  simp [encode, decodeWords, decodeRaw, decodeGroup0]

theorem fetst (p : PReg) (r : FeSrc) : Statement (.fetst p r) := by
  intro _ _
  simp [encode, decodeWords, decodeRaw, decodeGroup0, Dec.fetst]

theorem femrk (r : FullReg) (full : Bool) : Statement (.femrk r full) := by
  intro _ _
  simp only [encode, decodeWords, Raw.ofWord_word, decodeRaw]
  cases r with
  | vec r => cases r with
    | v n => revert n full; decide +kernel
    | o n => revert n full; decide +kernel
  | scl n => revert n full; decide +kernel

theorem retr : Statement (.retr) := by
  intro _ _
  simp [encode, decodeWords, decodeRaw, decodeGroup0]

theorem rett : Statement (.rett) := by
  intro _ _
  simp [encode, decodeWords, decodeRaw, decodeGroup0]

theorem add (d : SReg) (a : SSrc) (b : SSrc) : Statement (.add d a b) := by
  intro _ _
  simp [encode, decodeWords, decodeRaw, decodeGroup1]

theorem sub (d : SReg) (a : SSrc) (b : SSrc) : Statement (.sub d a b) := by
  intro _ _
  simp [encode, decodeWords, decodeRaw, decodeGroup1]

theorem mul (d : SReg) (a : SSrc) (b : SSrc) : Statement (.mul d a b) := by
  intro _ _
  simp [encode, decodeWords, decodeRaw, decodeGroup1]

theorem mulhs (d : SReg) (a : SSrc) (b : SSrc) : Statement (.mulhs d a b) := by
  intro _ _
  simp [encode, decodeWords, decodeRaw, decodeGroup1]

theorem mulhu (d : SReg) (a : SSrc) (b : SSrc) : Statement (.mulhu d a b) := by
  intro _ _
  simp [encode, decodeWords, decodeRaw, decodeGroup1]

theorem divs (d : SReg) (a : SSrc) (b : SSrc) : Statement (.divs d a b) := by
  intro _ _
  simp [encode, decodeWords, decodeRaw, decodeGroup1]

theorem divu (d : SReg) (a : SSrc) (b : SSrc) : Statement (.divu d a b) := by
  intro _ _
  simp [encode, decodeWords, decodeRaw, decodeGroup1]

theorem andS (d : SReg) (a : SSrc) (b : SSrc) : Statement (.andS d a b) := by
  intro _ _
  simp [encode, decodeWords, decodeRaw, decodeGroup1]

theorem orS (d : SReg) (a : SSrc) (b : SSrc) : Statement (.orS d a b) := by
  intro _ _
  simp [encode, decodeWords, decodeRaw, decodeGroup1]

theorem xorS (d : SReg) (a : SSrc) (b : SSrc) : Statement (.xorS d a b) := by
  intro _ _
  simp [encode, decodeWords, decodeRaw, decodeGroup1]

theorem shl (d : SReg) (a : SSrc) (b : SSrc) : Statement (.shl d a b) := by
  intro _ _
  simp [encode, decodeWords, decodeRaw, decodeGroup1]

theorem shr (d : SReg) (a : SSrc) (b : SSrc) : Statement (.shr d a b) := by
  intro _ _
  simp [encode, decodeWords, decodeRaw, decodeGroup1]

theorem sar (d : SReg) (a : SSrc) (b : SSrc) : Statement (.sar d a b) := by
  intro _ _
  simp [encode, decodeWords, decodeRaw, decodeGroup1]

theorem mins (d : SReg) (a : SSrc) (b : SSrc) : Statement (.mins d a b) := by
  intro _ _
  simp [encode, decodeWords, decodeRaw, decodeGroup1]

theorem maxs (d : SReg) (a : SSrc) (b : SSrc) : Statement (.maxs d a b) := by
  intro _ _
  simp [encode, decodeWords, decodeRaw, decodeGroup1]

theorem slt (d : SReg) (a : SSrc) (b : SSrc) : Statement (.slt d a b) := by
  intro _ _
  simp [encode, decodeWords, decodeRaw, decodeGroup1]

theorem li (d : SReg) (lit : Word) : Statement (.li d lit) := by
  intro _ _
  simp [encode, decodeWords, decodeRaw, decodeGroup2]

theorem addi (d : SReg) (a : SSrc) (lit : Word) : Statement (.addi d a lit) := by
  intro _ _
  simp [encode, decodeWords, decodeRaw, decodeGroup2]

theorem andi (d : SReg) (a : SSrc) (lit : Word) : Statement (.andi d a lit) := by
  intro _ _
  simp [encode, decodeWords, decodeRaw, decodeGroup2]

theorem ori (d : SReg) (a : SSrc) (lit : Word) : Statement (.ori d a lit) := by
  intro _ _
  simp [encode, decodeWords, decodeRaw, decodeGroup2]

theorem ptew (d : SReg) (a : SPairSrc) (b : SPairSrc) : Statement (.ptew d a b) := by
  intro _ _
  simp [encode, decodeWords, decodeRaw, decodeGroup2]

theorem addp (d : SPairReg) (a : SPairSrc) (b : SSrc) : Statement (.addp d a b) := by
  intro _ _
  simp [encode, decodeWords, decodeRaw, decodeGroup2]

theorem addpi (d : SPairReg) (a : SPairSrc) (lit : Word) : Statement (.addpi d a lit) := by
  intro _ _
  simp [encode, decodeWords, decodeRaw, decodeGroup2]

theorem csrr (d : SReg) (b : Csr) : Statement (.csrr d b) := by
  intro _ _
  simp [encode, decodeWords, decodeRaw, decodeGroup2]

theorem csrw (a : SSrc) (b : Csr) : Statement (.csrw a b) := by
  intro _ _
  simp [encode, decodeWords, decodeRaw, decodeGroup2]

theorem setm (a : SSrc) : Statement (.setm a) := by
  intro _ _
  simp [encode, decodeWords, decodeRaw, decodeGroup2]

theorem setmi (lit : Word) : Statement (.setmi lit) := by
  intro h _
  simp only [Instr.wf] at h
  simp [encode, decodeWords, decodeRaw, decodeGroup2, h]

theorem getm (d : SReg) : Statement (.getm d) := by
  intro _ _
  simp [encode, decodeWords, decodeRaw, decodeGroup2]

theorem rdts (d : SPairReg) : Statement (.rdts d) := by
  intro _ _
  simp [encode, decodeWords, decodeRaw, decodeGroup2]

theorem join (a : Fin 32) : Statement (.join a) := by
  intro _ _
  simp [encode, decodeWords, decodeRaw, decodeGroup2]

theorem leave (a : Fin 32) : Statement (.leave a) := by
  intro _ _
  simp [encode, decodeWords, decodeRaw, decodeGroup2]

theorem fpool (d : SPairReg) (a : Bool) (b : Fin 5) : Statement (.fpool d a b) := by
  intro _ _
  simp [encode, decodeWords, decodeRaw, decodeGroup2]

theorem vadd (d : VDst) (a : VSrc) (b : VSrc) (m : Option Modifier) : Statement (.vadd d a b m) := by
  intro h _
  simp only [Instr.wf] at h
  simp [encode, decodeWords, decodeRaw, decodeGroup3, h]

theorem vsub (d : VDst) (a : VSrc) (b : VSrc) (m : Option Modifier) : Statement (.vsub d a b m) := by
  intro h _
  simp only [Instr.wf] at h
  simp [encode, decodeWords, decodeRaw, decodeGroup3, h]

theorem vmul (d : VDst) (a : VSrc) (b : VSrc) (m : Option Modifier) : Statement (.vmul d a b m) := by
  intro h _
  simp only [Instr.wf] at h
  simp [encode, decodeWords, decodeRaw, decodeGroup3, h]

theorem vmulh (d : VDst) (a : VSrc) (b : VSrc) (m : Option Modifier) : Statement (.vmulh d a b m) := by
  intro h _
  simp only [Instr.wf] at h
  simp [encode, decodeWords, decodeRaw, decodeGroup3, h]

theorem vmad (d : VDst) (a : VSrc) (b : VSrc) (m : Option Modifier) : Statement (.vmad d a b m) := by
  intro h _
  simp only [Instr.wf] at h
  simp [encode, decodeWords, decodeRaw, decodeGroup3, h]

theorem vmin (d : VDst) (a : VSrc) (b : VSrc) (m : Option Modifier) : Statement (.vmin d a b m) := by
  intro h _
  simp only [Instr.wf] at h
  simp [encode, decodeWords, decodeRaw, decodeGroup3, h]

theorem vmax (d : VDst) (a : VSrc) (b : VSrc) (m : Option Modifier) : Statement (.vmax d a b m) := by
  intro h _
  simp only [Instr.wf] at h
  simp [encode, decodeWords, decodeRaw, decodeGroup3, h]

theorem vminu (d : VDst) (a : VSrc) (b : VSrc) (m : Option Modifier) : Statement (.vminu d a b m) := by
  intro h _
  simp only [Instr.wf] at h
  simp [encode, decodeWords, decodeRaw, decodeGroup3, h]

theorem vmaxu (d : VDst) (a : VSrc) (b : VSrc) (m : Option Modifier) : Statement (.vmaxu d a b m) := by
  intro h _
  simp only [Instr.wf] at h
  simp [encode, decodeWords, decodeRaw, decodeGroup3, h]

theorem vabsd (d : VDst) (a : VSrc) (b : VSrc) (m : Option Modifier) : Statement (.vabsd d a b m) := by
  intro h _
  simp only [Instr.wf] at h
  simp [encode, decodeWords, decodeRaw, decodeGroup3, h]

theorem vand (d : VDst) (a : VSrc) (b : VSrc) (m : Option Modifier) : Statement (.vand d a b m) := by
  intro h _
  simp only [Instr.wf] at h
  simp [encode, decodeWords, decodeRaw, decodeGroup3, h]

theorem vor (d : VDst) (a : VSrc) (b : VSrc) (m : Option Modifier) : Statement (.vor d a b m) := by
  intro h _
  simp only [Instr.wf] at h
  simp [encode, decodeWords, decodeRaw, decodeGroup3, h]

theorem vxor (d : VDst) (a : VSrc) (b : VSrc) (m : Option Modifier) : Statement (.vxor d a b m) := by
  intro h _
  simp only [Instr.wf] at h
  simp [encode, decodeWords, decodeRaw, decodeGroup3, h]

theorem vandn (d : VDst) (a : VSrc) (b : VSrc) (m : Option Modifier) : Statement (.vandn d a b m) := by
  intro h _
  simp only [Instr.wf] at h
  simp [encode, decodeWords, decodeRaw, decodeGroup3, h]

theorem vshl (d : VDst) (a : VSrc) (b : VSrc) (m : Option Modifier) : Statement (.vshl d a b m) := by
  intro h _
  simp only [Instr.wf] at h
  simp [encode, decodeWords, decodeRaw, decodeGroup3, h]

theorem vshr (d : VDst) (a : VSrc) (b : VSrc) (m : Option Modifier) : Statement (.vshr d a b m) := by
  intro h _
  simp only [Instr.wf] at h
  simp [encode, decodeWords, decodeRaw, decodeGroup3, h]

theorem vsar (d : VDst) (a : VSrc) (b : VSrc) (m : Option Modifier) : Statement (.vsar d a b m) := by
  intro h _
  simp only [Instr.wf] at h
  simp [encode, decodeWords, decodeRaw, decodeGroup4, h]

theorem vrot (d : VDst) (a : VSrc) (b : VSrc) (m : Option Modifier) : Statement (.vrot d a b m) := by
  intro h _
  simp only [Instr.wf] at h
  simp [encode, decodeWords, decodeRaw, decodeGroup4, h]

theorem vcmp (d : ICmp) (a : VSrc) (b : VSrc) (m : Option Modifier) : Statement (.vcmp d a b m) := by
  intro h _
  simp only [Instr.wf] at h
  simp [encode, decodeWords, decodeRaw, decodeGroup4, h]

theorem vsel (d : VDst) (a : VSrc) (b : VSrc) (m : Option Modifier) : Statement (.vsel d a b m) := by
  intro h _
  simp only [Instr.wf] at h
  simp [encode, decodeWords, decodeRaw, decodeGroup4, h]

theorem vli (d : VDst) (lit : Word) (m : Option Modifier) : Statement (.vli d lit m) := by
  intro h _
  simp only [Instr.wf] at h
  simp [encode, decodeWords, decodeRaw, decodeGroup4, h]

theorem vbcs (d : VDst) (a : SSrc) (m : Option Modifier) : Statement (.vbcs d a m) := by
  intro h _
  simp only [Instr.wf] at h
  simp [encode, decodeWords, decodeRaw, decodeGroup4, h]

theorem vclz (d : VDst) (a : VSrc) (m : Option Modifier) : Statement (.vclz d a m) := by
  intro h _
  simp only [Instr.wf] at h
  simp [encode, decodeWords, decodeRaw, decodeGroup4, h]

theorem vbitc (d : VDst) (a : VSrc) (m : Option Modifier) : Statement (.vbitc d a m) := by
  intro h _
  simp only [Instr.wf] at h
  simp [encode, decodeWords, decodeRaw, decodeGroup4, h]

theorem plog (d : PLogD) (a b : PReg) (m : Option Modifier) : Statement (.plog d a b m) := by
  intro h e
  clear e
  simp only [Instr.wf, Bool.and_eq_true] at h
  have c : codeField (encPLogD d) = (match d.op with
      | .and => 0 | .or => 1 | .xor => 2 | .andn => 3 | .not => 4 | .mov => 5 | .set => 6 | .clr => 7) := by
    clear h
    obtain ⟨o, p⟩ := d
    revert p
    cases o <;> decide
  have u : Dec.plogUnused ⟨0x48#8, encPLogD d, encImm a, encImm b, encMod m⟩ = .ok () := by
    obtain ⟨-, h⟩ := h
    simp only [Dec.plogUnused, c]
    simp only [plogOk] at h
    cases ho : d.op <;> simp_all [encImm]
  simp [encode, decodeWords, decodeRaw, decodeGroup4, h, u]

theorem vdot4 (d : VDst) (a : VSrc) (b : VSrc) (m : Option Modifier) : Statement (.vdot4 d a b m) := by
  intro h _
  simp only [Instr.wf] at h
  simp [encode, decodeWords, decodeRaw, decodeGroup4, h]

theorem fadd (d : VDst) (a : VSrc) (b : VSrc) (m : Option Modifier) : Statement (.fadd d a b m) := by
  intro h _
  simp only [Instr.wf] at h
  simp [encode, decodeWords, decodeRaw, decodeGroup5, h]

theorem fsub (d : VDst) (a : VSrc) (b : VSrc) (m : Option Modifier) : Statement (.fsub d a b m) := by
  intro h _
  simp only [Instr.wf] at h
  simp [encode, decodeWords, decodeRaw, decodeGroup5, h]

theorem fmul (d : VDst) (a : VSrc) (b : VSrc) (m : Option Modifier) : Statement (.fmul d a b m) := by
  intro h _
  simp only [Instr.wf] at h
  simp [encode, decodeWords, decodeRaw, decodeGroup5, h]

theorem ffma (d : VDst) (a : VSrc) (b : VSrc) (m : Option Modifier) : Statement (.ffma d a b m) := by
  intro h _
  simp only [Instr.wf] at h
  simp [encode, decodeWords, decodeRaw, decodeGroup5, h]

theorem ffms (d : VDst) (a : VSrc) (b : VSrc) (m : Option Modifier) : Statement (.ffms d a b m) := by
  intro h _
  simp only [Instr.wf] at h
  simp [encode, decodeWords, decodeRaw, decodeGroup5, h]

theorem fmin (d : VDst) (a : VSrc) (b : VSrc) (m : Option Modifier) : Statement (.fmin d a b m) := by
  intro h _
  simp only [Instr.wf] at h
  simp [encode, decodeWords, decodeRaw, decodeGroup5, h]

theorem fmax (d : VDst) (a : VSrc) (b : VSrc) (m : Option Modifier) : Statement (.fmax d a b m) := by
  intro h _
  simp only [Instr.wf] at h
  simp [encode, decodeWords, decodeRaw, decodeGroup5, h]

theorem fcmp (d : FCmp) (a : VSrc) (b : VSrc) (m : Option Modifier) : Statement (.fcmp d a b m) := by
  intro h _
  simp only [Instr.wf] at h
  simp [encode, decodeWords, decodeRaw, decodeGroup5, h]

theorem frcp (d : VDst) (a : VSrc) (m : Option Modifier) : Statement (.frcp d a m) := by
  intro h _
  simp only [Instr.wf] at h
  simp [encode, decodeWords, decodeRaw, decodeGroup5, h]

theorem frsq (d : VDst) (a : VSrc) (m : Option Modifier) : Statement (.frsq d a m) := by
  intro h _
  simp only [Instr.wf] at h
  simp [encode, decodeWords, decodeRaw, decodeGroup5, h]

theorem fexp2 (d : VDst) (a : VSrc) (m : Option Modifier) : Statement (.fexp2 d a m) := by
  intro h _
  simp only [Instr.wf] at h
  simp [encode, decodeWords, decodeRaw, decodeGroup5, h]

theorem flog2 (d : VDst) (a : VSrc) (m : Option Modifier) : Statement (.flog2 d a m) := by
  intro h _
  simp only [Instr.wf] at h
  simp [encode, decodeWords, decodeRaw, decodeGroup5, h]

theorem fsin (d : VDst) (a : VSrc) (m : Option Modifier) : Statement (.fsin d a m) := by
  intro h _
  simp only [Instr.wf] at h
  simp [encode, decodeWords, decodeRaw, decodeGroup5, h]

theorem fcos (d : VDst) (a : VSrc) (m : Option Modifier) : Statement (.fcos d a m) := by
  intro h _
  simp only [Instr.wf] at h
  simp [encode, decodeWords, decodeRaw, decodeGroup5, h]

theorem ftanh (d : VDst) (a : VSrc) (m : Option Modifier) : Statement (.ftanh d a m) := by
  intro h _
  simp only [Instr.wf] at h
  simp [encode, decodeWords, decodeRaw, decodeGroup5, h]

theorem fclass (d : VDst) (a : VSrc) (m : Option Modifier) : Statement (.fclass d a m) := by
  intro h _
  simp only [Instr.wf] at h
  simp [encode, decodeWords, decodeRaw, decodeGroup5, h]

theorem cmul (d : VDst) (a : VSrc) (b : VSrc) (m : Option Modifier) : Statement (.cmul d a b m) := by
  intro h _
  simp only [Instr.wf] at h
  simp [encode, decodeWords, decodeRaw, decodeGroup6, h]

theorem cfma (d : VDst) (a : VSrc) (b : VSrc) (m : Option Modifier) : Statement (.cfma d a b m) := by
  intro h _
  simp only [Instr.wf] at h
  simp [encode, decodeWords, decodeRaw, decodeGroup6, h]

theorem cconj (d : VDst) (a : VSrc) (m : Option Modifier) : Statement (.cconj d a m) := by
  intro h _
  simp only [Instr.wf] at h
  simp [encode, decodeWords, decodeRaw, decodeGroup6, h]

theorem cbfly (d : VPairDst) (a : VPairSrc) (b : VSrc) (m : Option Modifier) : Statement (.cbfly d a b m) := by
  intro h _
  simp only [Instr.wf] at h
  simp [encode, decodeWords, decodeRaw, decodeGroup6, h]

theorem ctwid (d : VDst) (a : VSrc) (b : Fin 25) (m : Option Modifier) : Statement (.ctwid d a b m) := by
  intro h _
  simp only [Instr.wf] at h
  simp [encode, decodeWords, decodeRaw, decodeGroup6, h]

theorem fcvt (d : VDst) (a : VSrc) (b : CvtF) (m : Option Modifier) : Statement (.fcvt d a b m) := by
  intro h _
  simp only [Instr.wf] at h
  simp [encode, decodeWords, decodeRaw, decodeGroup7, h]

theorem ftoi (d : VDst) (a : VSrc) (b : CvtF) (m : Option Modifier) : Statement (.ftoi d a b m) := by
  intro h _
  simp only [Instr.wf] at h
  simp [encode, decodeWords, decodeRaw, decodeGroup7, h]

theorem itof (d : VDst) (a : VSrc) (b : CvtI) (m : Option Modifier) : Statement (.itof d a b m) := by
  intro h _
  simp only [Instr.wf] at h
  simp [encode, decodeWords, decodeRaw, decodeGroup7, h]

theorem pack (d : VDst) (a : VSrc) (b : VSrc) (m : Option Modifier) : Statement (.pack d a b m) := by
  intro h _
  simp only [Instr.wf] at h
  simp [encode, decodeWords, decodeRaw, decodeGroup7, h]

theorem unpk (d : VDst) (a : VSrc) (b : UnpkB) (m : Option Modifier) : Statement (.unpk d a b m) := by
  intro h _
  simp only [Instr.wf] at h
  simp [encode, decodeWords, decodeRaw, decodeGroup7, h]

theorem mxq (d : VDst) (a : VSrc) (m : Option Modifier) : Statement (.mxq d a m) := by
  intro h _
  simp only [Instr.wf] at h
  simp [encode, decodeWords, decodeRaw, decodeGroup7, h]

theorem mxdq (d : VDst) (a : VSrc) (m : Option Modifier) : Statement (.mxdq d a m) := by
  intro h _
  simp only [Instr.wf] at h
  simp [encode, decodeWords, decodeRaw, decodeGroup7, h]

theorem cbd (d : VDst) (a : VSrc) (b : CbdB) (m : Option Modifier) : Statement (.cbd d a b m) := by
  intro h _
  simp only [Instr.wf, Bool.and_eq_true] at h
  simp [encode, decodeWords, decodeRaw, decodeGroup7, h]

theorem vballot (d : VDst) (a : PReg) (b : Bool) : Statement (.vballot d a b) := by
  intro _ _
  simp [encode, decodeWords, decodeRaw, decodeGroup8]

theorem vpopc (d : VDst) (a : VSrc) (b : Bool) : Statement (.vpopc d a b) := by
  intro _ _
  simp [encode, decodeWords, decodeRaw, decodeGroup8]

theorem vshuf (d : VDst) (a : VSrc) (b : VSrc) : Statement (.vshuf d a b) := by
  intro _ _
  simp [encode, decodeWords, decodeRaw, decodeGroup8]

theorem vscan (d : VDst) (a : VSrc) (b : ScanB) : Statement (.vscan d a b) := by
  intro _ _
  simp [encode, decodeWords, decodeRaw, decodeGroup8]

theorem vred (d : VDst) (a : VSrc) (b : RedB) : Statement (.vred d a b) := by
  intro _ _
  simp [encode, decodeWords, decodeRaw, decodeGroup8]

theorem vbcast (d : VDst) (a : VSrc) (b : Fin 32) : Statement (.vbcast d a b) := by
  intro _ _
  simp [encode, decodeWords, decodeRaw, decodeGroup8]

theorem vmovs (d : SReg) (a : VSrc) (b : Fin 4) : Statement (.vmovs d a b) := by
  intro _ _
  simp [encode, decodeWords, decodeRaw, decodeGroup8]

theorem ldB (d : VReg) (a : SPairSrc) (b : VSrc) : Statement (.ldB d a b) := by
  intro _ _
  simp [encode, decodeWords, decodeRaw, decodeGroup9]

theorem ldH (d : VReg) (a : SPairSrc) (b : VSrc) : Statement (.ldH d a b) := by
  intro _ _
  simp [encode, decodeWords, decodeRaw, decodeGroup9]

theorem ldW (d : VReg) (a : SPairSrc) (b : VSrc) : Statement (.ldW d a b) := by
  intro _ _
  simp [encode, decodeWords, decodeRaw, decodeGroup9]

theorem ldAcq (d : VReg) (a : SPairSrc) (b : MemImm) : Statement (.ldAcq d a b) := by
  intro _ _
  simp [encode, decodeWords, decodeRaw, decodeGroup9]

theorem stB (d : VSrc) (a : SPairSrc) (b : VSrc) : Statement (.stB d a b) := by
  intro _ _
  simp [encode, decodeWords, decodeRaw, decodeGroup9]

theorem stH (d : VSrc) (a : SPairSrc) (b : VSrc) : Statement (.stH d a b) := by
  intro _ _
  simp [encode, decodeWords, decodeRaw, decodeGroup9]

theorem stW (d : VSrc) (a : SPairSrc) (b : VSrc) : Statement (.stW d a b) := by
  intro _ _
  simp [encode, decodeWords, decodeRaw, decodeGroup9]

theorem stRel (d : VSrc) (a : SPairSrc) (b : MemImm) : Statement (.stRel d a b) := by
  intro _ _
  simp [encode, decodeWords, decodeRaw, decodeGroup9]

theorem lds (d : SReg) (a : SPairSrc) (b : Hint) : Statement (.lds d a b) := by
  intro _ _
  simp [encode, decodeWords, decodeRaw, decodeGroup9]

theorem sts (d : SSrc) (a : SPairSrc) (b : Hint) : Statement (.sts d a b) := by
  intro _ _
  simp [encode, decodeWords, decodeRaw, decodeGroup9]

theorem ldp (d : VPairReg) (a : SPairSrc) (b : VSrc) : Statement (.ldp d a b) := by
  intro _ _
  simp [encode, decodeWords, decodeRaw, decodeGroup9]

theorem stp (d : VPairSrc) (a : SPairSrc) (b : VSrc) : Statement (.stp d a b) := by
  intro _ _
  simp [encode, decodeWords, decodeRaw, decodeGroup9]

theorem ldsAcq (d : SReg) (a : SPairSrc) (b : MemImm) : Statement (.ldsAcq d a b) := by
  intro _ _
  simp [encode, decodeWords, decodeRaw, decodeGroup9]

theorem stsRel (d : SSrc) (a : SPairSrc) (b : MemImm) : Statement (.stsRel d a b) := by
  intro _ _
  simp [encode, decodeWords, decodeRaw, decodeGroup9]

theorem pref (a : SPairSrc) (b : PrefImm) : Statement (.pref a b) := by
  intro _ _
  simp [encode, decodeWords, decodeRaw, decodeGroup9]

theorem atomAdd (d : Option VReg) (a : SPairSrc) (b : VSrc) (l : AtomLit) : Statement (.atomAdd d a b l) := by
  intro h _
  simp only [Instr.wf] at h
  simp [encode, decodeWords, decodeRaw, decodeGroupA, h]

theorem atomMin (d : Option VReg) (a : SPairSrc) (b : VSrc) (l : AtomLit) : Statement (.atomMin d a b l) := by
  intro h _
  simp only [Instr.wf] at h
  simp [encode, decodeWords, decodeRaw, decodeGroupA, h]

theorem atomMax (d : Option VReg) (a : SPairSrc) (b : VSrc) (l : AtomLit) : Statement (.atomMax d a b l) := by
  intro h _
  simp only [Instr.wf] at h
  simp [encode, decodeWords, decodeRaw, decodeGroupA, h]

theorem atomAnd (d : Option VReg) (a : SPairSrc) (b : VSrc) (l : AtomLit) : Statement (.atomAnd d a b l) := by
  intro h _
  simp only [Instr.wf] at h
  simp [encode, decodeWords, decodeRaw, decodeGroupA, h]

theorem atomOr (d : Option VReg) (a : SPairSrc) (b : VSrc) (l : AtomLit) : Statement (.atomOr d a b l) := by
  intro h _
  simp only [Instr.wf] at h
  simp [encode, decodeWords, decodeRaw, decodeGroupA, h]

theorem atomXor (d : Option VReg) (a : SPairSrc) (b : VSrc) (l : AtomLit) : Statement (.atomXor d a b l) := by
  intro h _
  simp only [Instr.wf] at h
  simp [encode, decodeWords, decodeRaw, decodeGroupA, h]

theorem atomCas (d : Option VReg) (a : SPairSrc) (b : VPairSrc) (l : AtomLit) : Statement (.atomCas d a b l) := by
  intro h _
  simp only [Instr.wf] at h
  simp [encode, decodeWords, decodeRaw, decodeGroupA, h]

theorem atomXchg (d : Option VReg) (a : SPairSrc) (b : VSrc) (l : AtomLit) : Statement (.atomXchg d a b l) := by
  intro h _
  simp only [Instr.wf] at h
  simp [encode, decodeWords, decodeRaw, decodeGroupA, h]

theorem amaxx (d : SReg) (a : SPairSrc) (b : SSrc) : Statement (.amaxx d a b) := by
  intro _ _
  simp [encode, decodeWords, decodeRaw, decodeGroupA]

theorem fence (scope : Scope) : Statement (.fence scope) := by
  intro _ _
  cases scope <;> decide +kernel

theorem fenceAcq (scope : Scope) : Statement (.fenceAcq scope) := by
  intro _ _
  cases scope <;> decide +kernel

theorem fenceRel (scope : Scope) : Statement (.fenceRel scope) := by
  intro _ _
  cases scope <;> decide +kernel

theorem bari (d : Option (Fin 32)) (a : SPairSrc) (b : SSrc) : Statement (.bari d a b) := by
  intro _ _
  simp [encode, decodeWords, decodeRaw, decodeGroupA]

theorem barr (d : SReg) (a : SPairSrc) (b : Bool) : Statement (.barr d a b) := by
  intro _ _
  simp [encode, decodeWords, decodeRaw, decodeGroupA]

theorem barw (a : SPairSrc) (b : SSrc) : Statement (.barw a b) := by
  intro _ _
  simp [encode, decodeWords, decodeRaw, decodeGroupA]

theorem bart (d : SReg) (a : SPairSrc) (b : SSrc) : Statement (.bart d a b) := by
  intro _ _
  simp [encode, decodeWords, decodeRaw, decodeGroupA]

theorem waitv (d : SReg) (a : SPairSrc) (b : SSrc) : Statement (.waitv d a b) := by
  intro _ _
  simp [encode, decodeWords, decodeRaw, decodeGroupA]

theorem waitw (d : SReg) (a : Fin 64) : Statement (.waitw d a) := by
  intro _ _
  simp [encode, decodeWords, decodeRaw, decodeGroupA]

theorem cpy (d : SReg) (a : SPairSrc) (b : CmdImm) : Statement (.cpy d a b) := by
  intro _ _
  simp [encode, decodeWords, decodeRaw, decodeGroupB]

theorem cpys (d : SReg) (a : SPairSrc) (b : CmdImm) : Statement (.cpys d a b) := by
  intro _ _
  simp [encode, decodeWords, decodeRaw, decodeGroupB]

theorem cbdc (d : SReg) (a : SPairSrc) (b : CmdImm) : Statement (.cbdc d a b) := by
  intro _ _
  simp [encode, decodeWords, decodeRaw, decodeGroupB]

theorem cpyam (d : SReg) (a : SPairSrc) (b : CmdImm) : Statement (.cpyam d a b) := by
  intro _ _
  simp [encode, decodeWords, decodeRaw, decodeGroupB]

theorem gath (d : SReg) (a : SPairSrc) (b : CmdImm) : Statement (.gath d a b) := by
  intro _ _
  simp [encode, decodeWords, decodeRaw, decodeGroupB]

theorem scat (d : SReg) (a : SPairSrc) (b : CmdImm) : Statement (.scat d a b) := by
  intro _ _
  simp [encode, decodeWords, decodeRaw, decodeGroupB]

theorem qfence (b : QMask) : Statement (.qfence b) := by
  intro h _
  simp only [Instr.wf] at h
  simp [encode, decodeWords, decodeRaw, decodeGroupB, h]

theorem shld (d : SReg) (a : SPairSrc) (b : ShldImm) : Statement (.shld d a b) := by
  intro _ _
  simp [encode, decodeWords, decodeRaw, decodeGroupB]

theorem tldb (a : SSrc) (b : SSrc) : Statement (.tldb a b) := by
  intro _ _
  simp [encode, decodeWords, decodeRaw, decodeGroupC]

theorem tmma (d : Tile) (a : SSrc) (b : SSrc) : Statement (.tmma d a b) := by
  intro _ _
  simp [encode, decodeWords, decodeRaw, decodeGroupC]

theorem tmmat (d : Tile) (a : SSrc) (b : SSrc) : Statement (.tmmat d a b) := by
  intro _ _
  simp [encode, decodeWords, decodeRaw, decodeGroupC]

theorem ttrn (d : TilePair) (a : TilePair) : Statement (.ttrn d a) := by
  intro _ _
  simp [encode, decodeWords, decodeRaw, decodeGroupC]

theorem tscl (d : Tile) (a : Tile) (b : SSrc) : Statement (.tscl d a b) := by
  intro _ _
  simp [encode, decodeWords, decodeRaw, decodeGroupC]

theorem tzero (d : Tile) (b : Fin 16) : Statement (.tzero d b) := by
  intro _ _
  simp [encode, decodeWords, decodeRaw, decodeGroupC]

theorem tadd (d : Tile) (a : Tile) (b : Tile) : Statement (.tadd d a b) := by
  intro _ _
  simp [encode, decodeWords, decodeRaw, decodeGroupC]

theorem taccr (d : VReg) (a : Tile) (b : Fin 16) : Statement (.taccr d a b) := by
  intro _ _
  simp [encode, decodeWords, decodeRaw, decodeGroupC]

theorem taccw (d : Tile) (a : VSrc) (b : Fin 16) : Statement (.taccw d a b) := by
  intro _ _
  simp [encode, decodeWords, decodeRaw, decodeGroupC]

theorem taccs (d : Tile) (a : SSrc) (b : SSrc) : Statement (.taccs d a b) := by
  intro _ _
  simp [encode, decodeWords, decodeRaw, decodeGroupC]

theorem taccl (d : Tile) (a : SSrc) : Statement (.taccl d a) := by
  intro _ _
  simp [encode, decodeWords, decodeRaw, decodeGroupC]

theorem tmxs (a : SSrc) : Statement (.tmxs a) := by
  intro _ _
  simp [encode, decodeWords, decodeRaw, decodeGroupC]

theorem tsync : Statement (.tsync) := by
  intro _ _
  simp [encode, decodeWords, decodeRaw, decodeGroupC]

theorem trule (d : SReg) (a : SPairSrc) (b : SSrc) : Statement (.trule d a b) := by
  intro _ _
  simp [encode, decodeWords, decodeRaw, decodeGroupC]

theorem trwq (d : SReg) (a : Bool) (b : RwSel) : Statement (.trwq d a b) := by
  intro _ _
  simp [encode, decodeWords, decodeRaw, decodeGroupC]

theorem stx (d : VSrc) (a : SPairSrc) (b : Bool) : Statement (.stx d a b) := by
  intro _ _
  simp [encode, decodeWords, decodeRaw, decodeGroupE]

theorem ldx (d : VReg) (a : SPairSrc) (b : VSrc) : Statement (.ldx d a b) := by
  intro _ _
  simp [encode, decodeWords, decodeRaw, decodeGroupE]

theorem amx (d : VSrc) (a : SPairSrc) (b : AmxImm) : Statement (.amx d a b) := by
  intro h _
  simp only [Instr.wf] at h
  simp [encode, decodeWords, decodeRaw, decodeGroupE, h]

theorem amxr (d : VReg) (a : SPairSrc) (b : AmOp) : Statement (.amxr d a b) := by
  intro _ _
  simp [encode, decodeWords, decodeRaw, decodeGroupE]

theorem wake (d : WakeD) (a : SSrc) (b : SSrc) : Statement (.wake d a b) := by
  intro _ _
  simp [encode, decodeWords, decodeRaw, decodeGroupE]

theorem xarr (d : SReg) : Statement (.xarr d) := by
  intro _ _
  simp [encode, decodeWords, decodeRaw, decodeGroupE]

theorem xwait (d : SReg) (a : SSrc) : Statement (.xwait d a) := by
  intro _ _
  simp [encode, decodeWords, decodeRaw, decodeGroupE]

theorem xfence (d : SReg) (a : SPairSrc) : Statement (.xfence d a) := by
  intro _ _
  simp [encode, decodeWords, decodeRaw, decodeGroupE]

theorem nsend (d : SReg) (a : SPairSrc) : Statement (.nsend d a) := by
  intro _ _
  simp [encode, decodeWords, decodeRaw, decodeGroupE]

theorem npost (d : SReg) (a : SPairSrc) : Statement (.npost d a) := by
  intro _ _
  simp [encode, decodeWords, decodeRaw, decodeGroupE]

theorem qpush (d : SReg) (a : SPairSrc) (b : SSrc) : Statement (.qpush d a b) := by
  intro _ _
  simp [encode, decodeWords, decodeRaw, decodeGroupE]

theorem pathEndPop (core slot : Nat) : Statement (.pathEndPop core slot) := fun _ h => absurd rfl h

theorem registerFill (id : Nat) : Statement (.registerFill id) := fun _ h => absurd rfl h

theorem regangTimeout (id : Nat) : Statement (.regangTimeout id) := fun _ h => absurd rfl h

theorem gangSwapOut (core octet : Nat) : Statement (.gangSwapOut core octet) := fun _ h => absurd rfl h

theorem gangRestore (core : Nat) : Statement (.gangRestore core) := fun _ h => absurd rfl h

theorem lateFaultReport (id : Nat) : Statement (.lateFaultReport id) := fun _ h => absurd rfl h

theorem trapEntry (core slot : Nat) : Statement (.trapEntry core slot) := fun _ h => absurd rfl h

theorem pageWalk (asid : BitVec 16) (va : DWord) : Statement (.pageWalk asid va) := fun _ h => absurd rfl h

theorem storeDiePoint (id : Nat) (coreOnly : Bool) : Statement (.storeDiePoint id coreOnly) := fun _ h => absurd rfl h

theorem writeApplyAtDie (id : Nat) (die : Fin 5) : Statement (.writeApplyAtDie id die) := fun _ h => absurd rfl h

theorem reuseReport (wave : Word) (range : Fin 16) (dom : Fin 4) (misses : Nat) : Statement (.reuseReport wave range dom misses) := fun _ h => absurd rfl h

theorem copySegment (cluster : Fin 24) : Statement (.copySegment cluster) := fun _ h => absurd rfl h

theorem gatherBlock (cluster : Fin 24) : Statement (.gatherBlock cluster) := fun _ h => absurd rfl h

theorem copyComplete (id : Nat) : Statement (.copyComplete id) := fun _ h => absurd rfl h

theorem tilePerform (core : Nat) : Statement (.tilePerform core) := fun _ h => absurd rfl h

theorem errorDetected (e : ErrorEvent) : Statement (.errorDetected e) := fun _ h => absurd rfl h

theorem selfTestEnd (unit : ErrUnit) (loc : Word) (pass : Bool) : Statement (.selfTestEnd unit loc pass) := fun _ h => absurd rfl h

theorem frequencyDecay (core : Nat) : Statement (.frequencyDecay core) := fun _ h => absurd rfl h

theorem nodeRefresh (node : BitVec 16) : Statement (.nodeRefresh node) := fun _ h => absurd rfl h

theorem nodeRelease (node : BitVec 16) : Statement (.nodeRelease node) := fun _ h => absurd rfl h

theorem preemptionStop (node : BitVec 16) : Statement (.preemptionStop node) := fun _ h => absurd rfl h

theorem blockPlace (dom : Fin 4) : Statement (.blockPlace dom) := fun _ h => absurd rfl h

theorem stealRequest (dom : Fin 4) (wave : Word) : Statement (.stealRequest dom wave) := fun _ h => absurd rfl h

theorem wavePreemption (dom : Fin 4) (wave : Word) : Statement (.wavePreemption dom wave) := fun _ h => absurd rfl h

theorem presenceRestore (core : Nat) : Statement (.presenceRestore core) := fun _ h => absurd rfl h

theorem stagingCopy (core : Nat) : Statement (.stagingCopy core) := fun _ h => absurd rfl h

theorem taskFinish (task : Nat) : Statement (.taskFinish task) := fun _ h => absurd rfl h

theorem bundlePhaseStart (node : BitVec 16) : Statement (.bundlePhaseStart node) := fun _ h => absurd rfl h

theorem bundlePhaseRetire (task : Nat) : Statement (.bundlePhaseRetire task) := fun _ h => absurd rfl h

theorem worldSwitch (dom : Fin 4) : Statement (.worldSwitch dom) := fun _ h => absurd rfl h

theorem counterOverflow (ctx : Fin 17) (k : Fin 8) : Statement (.counterOverflow ctx k) := fun _ h => absurd rfl h

theorem qtailDoorbell (fn : Fin 17) (q : Fin 16) (tail : Word) : Statement (.qtailDoorbell fn q tail) := fun _ h => absurd rfl h

theorem qcfgWrite (fn : Fin 17) (q : Fin 16) (val : Word) : Statement (.qcfgWrite fn q val) := fun _ h => absurd rfl h

theorem cqheadWrite (fn : Fin 17) (q : Fin 16) (val : Word) : Statement (.cqheadWrite fn q val) := fun _ h => absurd rfl h

theorem push (fn : Fin 17) (q : Fin 16) : Statement (.push fn q) := fun _ h => absurd rfl h

theorem load (fn : Fin 17) (q : Fin 16) : Statement (.load fn q) := fun _ h => absurd rfl h

theorem dma (fn : Fin 17) (q : Fin 16) : Statement (.dma fn q) := fun _ h => absurd rfl h

theorem flush (fn : Fin 17) (q : Fin 16) : Statement (.flush fn q) := fun _ h => absurd rfl h

theorem node (fn : Fin 17) (q : Fin 16) : Statement (.node fn q) := fun _ h => absurd rfl h

theorem prog (fn : Fin 17) (q : Fin 16) : Statement (.prog fn q) := fun _ h => absurd rfl h

theorem home (fn : Fin 17) (q : Fin 16) : Statement (.home fn q) := fun _ h => absurd rfl h

theorem pte (fn : Fin 17) (q : Fin 16) : Statement (.pte fn q) := fun _ h => absurd rfl h

theorem pool (fn : Fin 17) (q : Fin 16) : Statement (.pool fn q) := fun _ h => absurd rfl h

theorem rules (fn : Fin 17) (q : Fin 16) : Statement (.rules fn q) := fun _ h => absurd rfl h

theorem ctx (fn : Fin 17) (q : Fin 16) : Statement (.ctx fn q) := fun _ h => absurd rfl h

theorem offline (fn : Fin 17) (q : Fin 16) : Statement (.offline fn q) := fun _ h => absurd rfl h

theorem online (fn : Fin 17) (q : Fin 16) : Statement (.online fn q) := fun _ h => absurd rfl h

theorem dbgStop (fn : Fin 17) (at_ : DbgTarget) : Statement (.dbgStop fn at_) := fun _ h => absurd rfl h

theorem dbgResume (fn : Fin 17) (at_ : DbgTarget) : Statement (.dbgResume fn at_) := fun _ h => absurd rfl h

theorem dbgStep (fn : Fin 17) (at_ : DbgTarget) : Statement (.dbgStep fn at_) := fun _ h => absurd rfl h

theorem dbgRead (fn : Fin 17) (at_ : DbgTarget) (scl : Bool) (reg : BitVec 7) : Statement (.dbgRead fn at_ scl reg) := fun _ h => absurd rfl h

theorem dbgWrite (fn : Fin 17) (at_ : DbgTarget) (scl : Bool) (reg : BitVec 7) (lmask : BitVec 4) (force : Bool) (data : Word) : Statement (.dbgWrite fn at_ scl reg lmask force data) := fun _ h => absurd rfl h

theorem dbgAttach (fn : Fin 17) (at_ : DbgTarget) : Statement (.dbgAttach fn at_) := fun _ h => absurd rfl h

theorem dbgDetach (fn : Fin 17) (at_ : DbgTarget) : Statement (.dbgDetach fn at_) := fun _ h => absurd rfl h

theorem apertureAccess (off : BitVec 39) (write : Option (List Byte)) (count : Nat) : Statement (.apertureAccess off write count) := fun _ h => absurd rfl h

theorem registerWrite (fn : Fin 17) (off : BitVec 32) (val : DWord) : Statement (.registerWrite fn off val) := fun _ h => absurd rfl h

theorem fxquotaWrite (val : Word) : Statement (.fxquotaWrite val) := fun _ h => absurd rfl h

theorem fxidWrite (val : Word) : Statement (.fxidWrite val) := fun _ h => absurd rfl h

theorem lwDescriptorWrite (w : Fin 64) (val : BitVec 256) : Statement (.lwDescriptorWrite w val) := fun _ h => absurd rfl h

theorem deviceArrival : Statement (.deviceArrival) := fun _ h => absurd rfl h

theorem crossingApply (b : CrossingMsg) : Statement (.crossingApply b) := fun _ h => absurd rfl h

theorem peerCrossingComplete (peer : BitVec 9) (step : DWord) : Statement (.peerCrossingComplete peer step) := fun _ h => absurd rfl h

theorem landingEntryReceipt (e : LandEntry) : Statement (.landingEntryReceipt e) := fun _ h => absurd rfl h

theorem ldxRequestReceipt (r : LdxRequest) : Statement (.ldxRequestReceipt r) := fun _ h => absurd rfl h

theorem wakeReceipt (w : WakeMsg) : Statement (.wakeReceipt w) := fun _ h => absurd rfl h

theorem fabricAck (id : Nat) (peer : BitVec 9) (rejected : Bool) (reply : Option Word) : Statement (.fabricAck id peer rejected reply) := fun _ h => absurd rfl h

theorem peerUnreachable (peer : BitVec 9) : Statement (.peerUnreachable peer) := fun _ h => absurd rfl h

theorem integrityRetry (plane : Nat) (group : Nat) : Statement (.integrityRetry plane group) := fun _ h => absurd rfl h

theorem timeBeacon (ref : DWord) : Statement (.timeBeacon ref) := fun _ h => absurd rfl h

theorem checkpointGo : Statement (.checkpointGo) := fun _ h => absurd rfl h

theorem checkpointStart (accepted : Bool) : Statement (.checkpointStart accepted) := fun _ h => absurd rfl h

theorem checkpointDone : Statement (.checkpointDone) := fun _ h => absurd rfl h

theorem networkPacketReceipt (p : NetPacket) : Statement (.networkPacketReceipt p) := fun _ h => absurd rfl h

theorem networkRequestComplete (id : Nat) (failed : Bool) : Statement (.networkRequestComplete id failed) := fun _ h => absurd rfl h

theorem recoveryGo (commit : Bool) : Statement (.recoveryGo commit) := fun _ h => absurd rfl h

theorem powerOn : Statement (.powerOn) := fun _ h => absurd rfl h

theorem bootStepResult (step : Fin 13) (plane : Fin 144) (ok : Bool) : Statement (.bootStepResult step plane ok) := fun _ h => absurd rfl h

theorem deviceReset : Statement (.deviceReset) := fun _ h => absurd rfl h

theorem functionReset (fn : Fin 17) : Statement (.functionReset fn) := fun _ h => absurd rfl h

theorem tdispLock (fn : Fin 17) : Statement (.tdispLock fn) := fun _ h => absurd rfl h

theorem tdispRun (fn : Fin 17) : Statement (.tdispRun fn) := fun _ h => absurd rfl h

theorem getVersion : Statement (.getVersion) := fun _ h => absurd rfl h

theorem getCapabilities : Statement (.getCapabilities) := fun _ h => absurd rfl h

theorem negotiateAlgorithms (offer : SpdmOffer) : Statement (.negotiateAlgorithms offer) := fun _ h => absurd rfl h

theorem getDigests : Statement (.getDigests) := fun _ h => absurd rfl h

theorem getCertificate : Statement (.getCertificate) := fun _ h => absurd rfl h

theorem challenge (nonce : BitVec 256) : Statement (.challenge nonce) := fun _ h => absurd rfl h

theorem getMeasurements (index : BitVec 8) : Statement (.getMeasurements index) := fun _ h => absurd rfl h

theorem keyExchange (share : BitVec 768) : Statement (.keyExchange share) := fun _ h => absurd rfl h

theorem finish (verified : Bool) : Statement (.finish verified) := fun _ h => absurd rfl h

theorem keyUpdate : Statement (.keyUpdate) := fun _ h => absurd rfl h

theorem bootRecordClear : Statement (.bootRecordClear) := fun _ h => absurd rfl h

theorem firmwareUpdate (image : List Byte) : Statement (.firmwareUpdate image) := fun _ h => absurd rfl h

theorem pcapSet (watts : Nat) : Statement (.pcapSet watts) := fun _ h => absurd rfl h

theorem tempThrottle (die : DieId) : Statement (.tempThrottle die) := fun _ h => absurd rfl h

theorem tempShutdown (die : DieId) : Statement (.tempShutdown die) := fun _ h => absurd rfl h

theorem hbmTempRefresh (stack : Fin 8) : Statement (.hbmTempRefresh stack) := fun _ h => absurd rfl h

theorem dieToDieLinkRetraining (a b : Fin 5) : Statement (.dieToDieLinkRetraining a b) := fun _ h => absurd rfl h

theorem fabricPacketSend (group : Fin 9) (plane : Fin 144) : Statement (.fabricPacketSend group plane) := fun _ h => absurd rfl h

theorem networkPacketSend (port : Fin 4) : Statement (.networkPacketSend port) := fun _ h => absurd rfl h

theorem malformedPacket (fn : Fin 17) (q : Fin 16) : Statement (.malformedPacket fn q) := fun _ h => absurd rfl h

theorem pcapLimitReached : Statement (.pcapLimitReached) := fun _ h => absurd rfl h

theorem recoveryFetchEnd (fetched passed : Bool) : Statement (.recoveryFetchEnd fetched passed) := fun _ h => absurd rfl h

theorem retryRequestReceipt (group : Nat) : Statement (.retryRequestReceipt group) := fun _ h => absurd rfl h

theorem waitvRecheck (id : Nat) : Statement (.waitvRecheck id) := fun _ h => absurd rfl h

end RoundTrip

end Sys2Proof.Laws
end

