-- ==== Sys2Proof/Tests/Slice0.lean ====
section
/-! SUPPORT. The model's own tests: terms that WellFormed refuses, words of the encoding tables of the spec, single steps whose result is
worked out by hand from the rules, and for every statement with hypotheses a concrete state that meets them. -/

set_option Elab.async false

namespace Sys2Proof.Tests

open Sys2Proof Sys2Proof.Machine

/-- A vector source under the block policy. -/
abbrev bv (n : Fin 96) : VSrc := ⟨.v n, false⟩
/-- A vector destination without the shift into w0. -/
abbrev dv (n : Fin 96) : VDst := ⟨.v n, false⟩
/-- A scalar source under the block policy. -/
abbrev bs (n : Fin 64) : SSrc := ⟨.s n, false⟩
/-- A pair source under the block policy; `n` is half the register number. -/
abbrev bp (n : Fin 32) : SPairSrc := ⟨some n, false⟩


/-! ### Ill-formed terms -/

/-- A modifier word with no field set. -/
def plainMod : Modifier := ⟨false, 0#6, false, 0#6, false, false, false, false⟩

/-- Each check of WellFormed refuses a term: the columns of R108 one by one, an odd clamp base (R57), a reserved MODE (R84), an
inadmissible atomic literal (R157), a predicate field PLOG does not read (R114), part 2 of an FP8 target (R131), an empty queue mask
(R242), AMX with XCHG (R352). -/
theorem test_ill_formed :
    (Instr.fmin (dv 1) (bv 2) (bv 3) (some { plainMod with scale := 1#6 })).wf = false ∧
    (Instr.fclass (dv 1) (bv 2) (some { plainMod with nega := true })).wf = false ∧
    (Instr.frcp (dv 1) (bv 2) (some { plainMod with absb := true })).wf = false ∧
    (Instr.vmin (dv 1) (bv 2) (bv 3) (some { plainMod with sat := true })).wf = false ∧
    (Instr.ftoi (dv 1) (bv 2) ⟨0, .fp32⟩ (some { plainMod with clmp := true })).wf = false ∧
    (Instr.fmul (dv 1) (bv 2) (bv 3) (some { plainMod with clmp := true, cls := 3#6 })).wf = false ∧
    (Instr.setmi 0x000001C0#32).wf = false ∧ (Instr.setmi 0x00000A00#32).wf = false ∧ (Instr.setmi 0x02000000#32).wf = false ∧
    (Instr.atomAdd none (bp 3) (bv 5) ⟨⟨.z, false⟩, .die, none, .acq, .commutative, .s32⟩).wf = false ∧
    (Instr.atomXchg none (bp 3) (bv 5) ⟨⟨.z, false⟩, .die, none, .relaxed, .commutative, .s32⟩).wf = false ∧
    (Instr.atomXor none (bp 3) (bv 5) ⟨⟨.z, false⟩, .die, none, .relaxed, .speculative, .s32⟩).wf = false ∧
    (Instr.atomAnd none (bp 3) (bv 5) ⟨⟨.z, false⟩, .die, none, .relaxed, .unpaired, .u32⟩).wf = false ∧
    (Instr.plog ⟨.not, 1⟩ 2 3 none).wf = false ∧ (Instr.plog ⟨.set, 1⟩ 2 0 none).wf = false ∧
    (Instr.cbd (dv 1) (bv 2) ⟨.e4m3, 2⟩ none).wf = false ∧
    (Instr.qfence ⟨0#8⟩).wf = false ∧
    (Instr.amx (bv 3) (bp 3) ⟨.xchg, false⟩).wf = false := by
  decide +kernel

/-- The conditions of DecodeEncode and EncodeDecode are met. -/
theorem test_witness_DecodeEncode :
    (Instr.add 3 (bs 4) (bs 5)).wf = true ∧ encode (.add 3 (bs 4) (bs 5)) ≠ [] := by decide +kernel
/-! ### Decoding: words written out from the opcode map (R61) and the field tables, one for every instruction word -/

/-- Group 0x0 (R78, R86, R87): mode 1 names a predicate, mode 2 a scalar; the code of TRAP spans A and B; B[1] of FEMRK is the file. -/
theorem test_decode_group0 :
    decodeWords [0x00000000#32] = .ok .nop ∧
    decodeWords [0x01000000#32, 0x0010FFFC#32] = .ok (.bra ⟨0x10#16, 0xFFFC#16⟩) ∧
    decodeWords [0x02050100#32, 0x00020008#32] = .ok (.brp (.predNot 5) ⟨2#16, 8#16⟩) ∧
    decodeWords [0x02000287#32, 0x00020008#32] = .ok (.brp (.nz ⟨.s 7, true⟩) ⟨2#16, 8#16⟩) ∧
    decodeWords [0x03000600#32] = .ok (.bri (bp 3)) ∧
    decodeWords [0x04080000#32, 0xFFFFFFF0#32] = .ok (.call 4 0xFFFFFFF0#32) ∧
    decodeWords [0x05080600#32] = .ok (.calli 4 (bp 3)) ∧
    decodeWords [0x06000800#32] = .ok (.ret (bp 4)) ∧
    decodeWords [0x07000000#32] = .ok .exit ∧
    decodeWords [0x08000000#32] = .ok .yield ∧
    decodeWords [0x09001234#32] = .ok (.trap 0x1234#16) ∧
    decodeWords [0x0A000000#32] = .ok .rgn ∧
    decodeWords [0x0B000100#32] = .ok (.regang true) ∧
    decodeWords [0x0C036100#32] = .ok (.fetst 3 (.vec ⟨.o 1, false⟩)) ∧
    decodeWords [0x0D050003#32] = .ok (.femrk (.scl 5) true) ∧
    decodeWords [0x0E000000#32] = .ok .retr ∧
    decodeWords [0x0F000000#32] = .ok .rett :=
  ⟨rfl, rfl, rfl, rfl, rfl, rfl, rfl, rfl, rfl, rfl, rfl, rfl, rfl, rfl, rfl, rfl, rfl⟩

/-- R59, R95, R107: FETST names w0, z and the slice index; a pair destination 112 is a wrong destination, 116 is no pair. -/
theorem test_decode_class_edges :
    decodeWords [0x0C037000#32] = .ok (.fetst 3 (.vec ⟨.w 0, false⟩)) ∧
    decodeWords [0x0C03F601#32] = .ok (.fetst 3 (.scl ⟨.sliceIdx, true⟩)) ∧
    decodeWords [0x0C037701#32] = .error 2 ∧
    decodeWords [0x9A700600#32] = .error 5 ∧
    decodeWords [0x9A740600#32] = .error 2 := ⟨rfl, rfl, rfl, rfl, rfl⟩

/-- Group 0x1 (R78). -/
theorem test_decode_group1 :
    decodeWords [0x10030405#32] = .ok (.add 3 (bs 4) (bs 5)) ∧
    decodeWords [0x11030405#32] = .ok (.sub 3 (bs 4) (bs 5)) ∧
    decodeWords [0x12030405#32] = .ok (.mul 3 (bs 4) (bs 5)) ∧
    decodeWords [0x13030405#32] = .ok (.mulhs 3 (bs 4) (bs 5)) ∧
    decodeWords [0x14030405#32] = .ok (.mulhu 3 (bs 4) (bs 5)) ∧
    decodeWords [0x15030405#32] = .ok (.divs 3 (bs 4) (bs 5)) ∧
    decodeWords [0x16030405#32] = .ok (.divu 3 (bs 4) (bs 5)) ∧
    decodeWords [0x17030405#32] = .ok (.andS 3 (bs 4) (bs 5)) ∧
    decodeWords [0x18030405#32] = .ok (.orS 3 (bs 4) (bs 5)) ∧
    decodeWords [0x19030405#32] = .ok (.xorS 3 (bs 4) (bs 5)) ∧
    decodeWords [0x1A030405#32] = .ok (.shl 3 (bs 4) (bs 5)) ∧
    decodeWords [0x1B030405#32] = .ok (.shr 3 (bs 4) (bs 5)) ∧
    decodeWords [0x1C030405#32] = .ok (.sar 3 (bs 4) (bs 5)) ∧
    decodeWords [0x1D030405#32] = .ok (.mins 3 (bs 4) (bs 5)) ∧
    decodeWords [0x1E0304F4#32] = .ok (.maxs 3 (bs 4) ⟨.z, true⟩) ∧
    decodeWords [0x1F037605#32] = .ok (.slt 3 ⟨.sliceIdx, false⟩ (bs 5)) :=
  ⟨rfl, rfl, rfl, rfl, rfl, rfl, rfl, rfl, rfl, rfl, rfl, rfl, rfl, rfl, rfl, rfl⟩

/-- Group 0x2 (R78, R82, R174): PTEW and FPOOL take their fields by Traps, Idempotent Regions and In-Lane Fault Handling. -/
theorem test_decode_group2 :
    decodeWords [0x20070000#32, 0xDEADBEEF#32] = .ok (.li 7 0xDEADBEEF#32) ∧
    decodeWords [0x21070400#32, 0xFFFFFFFF#32] = .ok (.addi 7 (bs 4) 0xFFFFFFFF#32) ∧
    decodeWords [0x22070400#32, 0x0000FF00#32] = .ok (.andi 7 (bs 4) 0xFF00#32) ∧
    decodeWords [0x23070400#32, 0x00000001#32] = .ok (.ori 7 (bs 4) 1#32) ∧
    decodeWords [0x24070408#32] = .ok (.ptew 7 (bp 2) (bp 4)) ∧
    decodeWords [0x25060804#32] = .ok (.addp 3 (bp 4) (bs 4)) ∧
    decodeWords [0x26067400#32, 0xFFFFFFF8#32] = .ok (.addpi 3 ⟨none, false⟩ 0xFFFFFFF8#32) ∧
    decodeWords [0x27090008#32] = .ok (.csrr 9 .slotid) ∧
    decodeWords [0x28000918#32] = .ok (.csrw (bs 9) .quant) ∧
    decodeWords [0x29000900#32] = .ok (.setm (bs 9)) ∧
    decodeWords [0x2A000000#32, 0x00000060#32] = .ok (.setmi 0x60#32) ∧
    decodeWords [0x2B090000#32] = .ok (.getm 9) ∧
    decodeWords [0x2C0A0000#32] = .ok (.rdts 5) ∧
    decodeWords [0x2D001F00#32] = .ok (.join 31) ∧
    decodeWords [0x2E000000#32] = .ok (.leave 0) ∧
    decodeWords [0x2F0A0104#32] = .ok (.fpool 5 true 4) :=
  ⟨rfl, rfl, rfl, rfl, rfl, rfl, rfl, rfl, rfl, rfl, rfl, rfl, rfl, rfl, rfl, rfl⟩

/-- Group 0x3 (R109), with a modifier word, the shift of the destination and the trap policy of a source. -/
theorem test_decode_group3 :
    decodeWords [0x30810203#32, 0x00103F00#32] =
      .ok (.vadd ⟨.v 1, true⟩ (bv 2) (bv 3) (some ⟨false, 0#6, true, 63#6, false, false, false, false⟩)) ∧
    decodeWords [0x31018203#32] = .ok (.vsub (dv 1) ⟨.v 2, true⟩ (bv 3) none) ∧
    decodeWords [0x32016070#32] = .ok (.vmul (dv 1) ⟨.o 0, false⟩ ⟨.w 0, false⟩ none) ∧
    decodeWords [0x33010203#32] = .ok (.vmulh (dv 1) (bv 2) (bv 3) none) ∧
    decodeWords [0x34010203#32] = .ok (.vmad (dv 1) (bv 2) (bv 3) none) ∧
    decodeWords [0x35010203#32] = .ok (.vmin (dv 1) (bv 2) (bv 3) none) ∧
    decodeWords [0x36010203#32] = .ok (.vmax (dv 1) (bv 2) (bv 3) none) ∧
    decodeWords [0x37010203#32] = .ok (.vminu (dv 1) (bv 2) (bv 3) none) ∧
    decodeWords [0x38010203#32] = .ok (.vmaxu (dv 1) (bv 2) (bv 3) none) ∧
    decodeWords [0x39010203#32] = .ok (.vabsd (dv 1) (bv 2) (bv 3) none) ∧
    decodeWords [0x3A010203#32] = .ok (.vand (dv 1) (bv 2) (bv 3) none) ∧
    decodeWords [0x3B010203#32] = .ok (.vor (dv 1) (bv 2) (bv 3) none) ∧
    decodeWords [0x3C010203#32] = .ok (.vxor (dv 1) (bv 2) (bv 3) none) ∧
    decodeWords [0x3D010203#32] = .ok (.vandn (dv 1) (bv 2) (bv 3) none) ∧
    decodeWords [0x3E017576#32] = .ok (.vshl (dv 1) ⟨.laneId, false⟩ ⟨.sliceIdx, false⟩ none) ∧
    decodeWords [0x3F010274#32] = .ok (.vshr (dv 1) (bv 2) ⟨.z, false⟩ none) :=
  ⟨rfl, rfl, rfl, rfl, rfl, rfl, rfl, rfl, rfl, rfl, rfl, rfl, rfl, rfl, rfl, rfl⟩

/-- Group 0x4 (R109, R112, R114). -/
theorem test_decode_group4 :
    decodeWords [0x40010203#32] = .ok (.vsar (dv 1) (bv 2) (bv 3) none) ∧
    decodeWords [0x41010203#32] = .ok (.vrot (dv 1) (bv 2) (bv 3) none) ∧
    decodeWords [0x42130203#32] = .ok (.vcmp ⟨.lt, 3⟩ (bv 2) (bv 3) none) ∧
    decodeWords [0x43010203#32] = .ok (.vsel (dv 1) (bv 2) (bv 3) none) ∧
    decodeWords [0x44010000#32, 0x3F800000#32] = .ok (.vli (dv 1) 0x3F800000#32 none) ∧
    decodeWords [0x45010700#32] = .ok (.vbcs (dv 1) (bs 7) none) ∧
    decodeWords [0x46010200#32] = .ok (.vclz (dv 1) (bv 2) none) ∧
    decodeWords [0x47010200#32] = .ok (.vbitc (dv 1) (bv 2) none) ∧
    decodeWords [0x481A0304#32] = .ok (.plog ⟨.andn, 2⟩ 3 4 none) ∧
    decodeWords [0x49010203#32] = .ok (.vdot4 (dv 1) (bv 2) (bv 3) none) :=
  ⟨rfl, rfl, rfl, rfl, rfl, rfl, rfl, rfl, rfl, rfl⟩

/-- Group 0x5 (R115, R117). -/
theorem test_decode_group5 :
    decodeWords [0x50010203#32, 0x00000006#32] =
      .ok (.fadd (dv 1) (bv 2) (bv 3) (some ⟨false, 0#6, false, 0#6, false, true, true, false⟩)) ∧
    decodeWords [0x51010203#32] = .ok (.fsub (dv 1) (bv 2) (bv 3) none) ∧
    decodeWords [0x52010203#32] = .ok (.fmul (dv 1) (bv 2) (bv 3) none) ∧
    decodeWords [0x53010203#32] = .ok (.ffma (dv 1) (bv 2) (bv 3) none) ∧
    decodeWords [0x54010203#32, 0x08400000#32] =
      .ok (.ffms (dv 1) (bv 2) (bv 3) (some ⟨true, 2#6, false, 0#6, false, false, false, false⟩)) ∧
    decodeWords [0x55010203#32] = .ok (.fmin (dv 1) (bv 2) (bv 3) none) ∧
    decodeWords [0x56010203#32] = .ok (.fmax (dv 1) (bv 2) (bv 3) none) ∧
    decodeWords [0x573F0203#32] = .ok (.fcmp ⟨.ord, 7⟩ (bv 2) (bv 3) none) ∧
    decodeWords [0x58010200#32] = .ok (.frcp (dv 1) (bv 2) none) ∧
    decodeWords [0x59010200#32] = .ok (.frsq (dv 1) (bv 2) none) ∧
    decodeWords [0x5A010200#32] = .ok (.fexp2 (dv 1) (bv 2) none) ∧
    decodeWords [0x5B010200#32] = .ok (.flog2 (dv 1) (bv 2) none) ∧
    decodeWords [0x5C010200#32] = .ok (.fsin (dv 1) (bv 2) none) ∧
    decodeWords [0x5D010200#32] = .ok (.fcos (dv 1) (bv 2) none) ∧
    decodeWords [0x5E010200#32] = .ok (.ftanh (dv 1) (bv 2) none) ∧
    decodeWords [0x5F010200#32] = .ok (.fclass (dv 1) (bv 2) none) :=
  ⟨rfl, rfl, rfl, rfl, rfl, rfl, rfl, rfl, rfl, rfl, rfl, rfl, rfl, rfl, rfl, rfl⟩

/-- Groups 0x6, 0x7 and 0x8 (R120, R124, R125, R128, R131, R132, R135). -/
theorem test_decode_groups6to8 :
    decodeWords [0x60010203#32] = .ok (.cmul (dv 1) (bv 2) (bv 3) none) ∧
    decodeWords [0x61010203#32] = .ok (.cfma (dv 1) (bv 2) (bv 3) none) ∧
    decodeWords [0x62010200#32] = .ok (.cconj (dv 1) (bv 2) none) ∧
    decodeWords [0x630A0414#32] = .ok (.cbfly ⟨.v 5, false⟩ ⟨.v 2, false⟩ (bv 20) none) ∧
    decodeWords [0x64010218#32] = .ok (.ctwid (dv 1) (bv 2) 24 none) ∧
    decodeWords [0x73010203#32] = .ok (.pack (dv 1) (bv 2) (bv 3) none) ∧
    decodeWords [0x74010203#32] = .ok (.unpk (dv 1) (bv 2) ⟨true, true⟩ none) ∧
    decodeWords [0x75010200#32] = .ok (.mxq (dv 1) (bv 2) none) ∧
    decodeWords [0x76010200#32] = .ok (.mxdq (dv 1) (bv 2) none) ∧
    decodeWords [0x77010209#32] = .ok (.cbd (dv 1) (bv 2) ⟨.bf16, 1⟩ none) ∧
    decodeWords [0x80010501#32] = .ok (.vballot (dv 1) 5 true) ∧
    decodeWords [0x81010201#32] = .ok (.vpopc (dv 1) (bv 2) true) ∧
    decodeWords [0x82010203#32] = .ok (.vshuf (dv 1) (bv 2) (bv 3)) ∧
    decodeWords [0x83010218#32] = .ok (.vscan (dv 1) (bv 2) ⟨true, true, .add⟩) ∧
    decodeWords [0x84010216#32] = .ok (.vred (dv 1) (bv 2) ⟨true, .minu⟩) ∧
    decodeWords [0x8501021F#32] = .ok (.vbcast (dv 1) (bv 2) 31) ∧
    decodeWords [0x86070203#32] = .ok (.vmovs 7 (bv 2) 3) :=
  ⟨rfl, rfl, rfl, rfl, rfl, rfl, rfl, rfl, rfl, rfl, rfl, rfl, rfl, rfl, rfl, rfl, rfl⟩

/-- FCVT, FTOI and ITOF with part 1; the codes are the ETYPE codes FP32, BF16 and INT8 of MODE. -/
theorem test_decode_conversions :
    decodeWords [0x70010210#32] = .ok (.fcvt (dv 1) (bv 2) ⟨1, .fp32⟩ none) ∧
    decodeWords [0x71010211#32] = .ok (.ftoi (dv 1) (bv 2) ⟨1, .bf16⟩ none) ∧
    decodeWords [0x72010218#32] = .ok (.itof (dv 1) (bv 2) ⟨1, .i8⟩ none) :=
  ⟨rfl, rfl, rfl⟩

/-- Group 0x9 (R142, R143, R146); the word of LDS.ACQ is the one R143 gives. -/
theorem test_decode_group9 :
    decodeWords [0x90030605#32] = .ok (.ldB (.v 3) (bp 3) (bv 5)) ∧
    decodeWords [0x91030605#32] = .ok (.ldH (.v 3) (bp 3) (bv 5)) ∧
    decodeWords [0x92030605#32] = .ok (.ldW (.v 3) (bp 3) (bv 5)) ∧
    decodeWords [0x93030604#32] = .ok (.ldAcq (.v 3) (bp 3) ⟨none, .package⟩) ∧
    decodeWords [0x94030605#32] = .ok (.stB (bv 3) (bp 3) (bv 5)) ∧
    decodeWords [0x95030605#32] = .ok (.stH (bv 3) (bp 3) (bv 5)) ∧
    decodeWords [0x96830605#32] = .ok (.stW ⟨.v 3, true⟩ (bp 3) (bv 5)) ∧
    decodeWords [0x97030675#32] = .ok (.stRel (bv 3) (bp 3) ⟨some 3, .pod⟩) ∧
    decodeWords [0x98030640#32] = .ok (.lds 3 (bp 3) (some 0)) ∧
    decodeWords [0x99030600#32] = .ok (.sts (bs 3) (bp 3) none) ∧
    decodeWords [0x9A040605#32] = .ok (.ldp (.v 2) (bp 3) (bv 5)) ∧
    decodeWords [0x9B700605#32] = .ok (.stp ⟨.w 0, false⟩ (bp 3) (bv 5)) ∧
    decodeWords [0x9C080653#32] = .ok (.ldsAcq 8 (bp 3) ⟨some 1, .die⟩) ∧
    decodeWords [0x9D080601#32] = .ok (.stsRel (bs 8) (bp 3) ⟨none, .crew⟩) ∧
    decodeWords [0x9E000662#32] = .ok (.pref (bp 3) ⟨some 2, .l3⟩) :=
  ⟨rfl, rfl, rfl, rfl, rfl, rfl, rfl, rfl, rfl, rfl, rfl, rfl, rfl, rfl, rfl⟩

/-- Group 0xA (R155, R156, R152, R187, R78); the words of ATOM.ADD are the ones R155 gives. -/
theorem test_decode_groupA :
    decodeWords [0xA0040605#32, 0x74030120#32] =
      .ok (.atomAdd (some (.v 4)) (bp 3) (bv 5) ⟨⟨.z, false⟩, .die, none, .relaxed, .commutative, .s32⟩) ∧
    decodeWords [0xA1040605#32, 0x05040060#32] =
      .ok (.atomMin (some (.v 4)) (bp 3) (bv 5) ⟨bv 5, .package, none, .relaxed, .unpaired, .u32⟩) ∧
    decodeWords [0xA2040605#32, 0x850208A0#32] =
      .ok (.atomMax (some (.v 4)) (bp 3) (bv 5) ⟨⟨.v 5, true⟩, .core, none, .acq, .unpaired, .f32⟩) ∧
    decodeWords [0xA3000605#32, 0x7403A000#32] =
      .ok (.atomAnd none (bp 3) (bv 5) ⟨⟨.z, false⟩, .die, some 1, .relaxed, .unpaired, .s32⟩) ∧
    decodeWords [0xA4000605#32, 0x74031000#32] =
      .ok (.atomOr none (bp 3) (bv 5) ⟨⟨.z, false⟩, .die, none, .rel, .unpaired, .s32⟩) ∧
    decodeWords [0xA5000605#32, 0x74030200#32] =
      .ok (.atomXor none (bp 3) (bv 5) ⟨⟨.z, false⟩, .die, none, .relaxed, .nonOrdering, .s32⟩) ∧
    decodeWords [0xA6040608#32, 0x74051820#32] =
      .ok (.atomCas (some (.v 4)) (bp 3) ⟨.v 4, false⟩ ⟨⟨.z, false⟩, .pod, none, .acqRel, .unpaired, .s32⟩) ∧
    decodeWords [0xA7040605#32, 0x74000320#32] =
      .ok (.atomXchg (some (.v 4)) (bp 3) (bv 5) ⟨⟨.z, false⟩, .slice, none, .relaxed, .quantum, .s32⟩) ∧
    decodeWords [0xA8030605#32] = .ok (.amaxx 3 (bp 3) (bs 5)) ∧
    decodeWords [0xA9000500#32] = .ok (.fence .pod) ∧
    decodeWords [0xA9000301#32] = .ok (.fenceAcq .die) ∧
    decodeWords [0xA9000202#32] = .ok (.fenceRel .core) ∧
    decodeWords [0xAA230605#32] = .ok (.bari (some 3) (bp 3) (bs 5)) ∧
    decodeWords [0xAB030601#32] = .ok (.barr 3 (bp 3) true) ∧
    decodeWords [0xAC000605#32] = .ok (.barw (bp 3) (bs 5)) ∧
    decodeWords [0xAD030605#32] = .ok (.bart 3 (bp 3) (bs 5)) ∧
    decodeWords [0xAE030605#32] = .ok (.waitv 3 (bp 3) (bs 5)) ∧
    decodeWords [0xAF033F00#32] = .ok (.waitw 3 63) :=
  ⟨rfl, rfl, rfl, rfl, rfl, rfl, rfl, rfl, rfl, rfl, rfl, rfl, rfl, rfl, rfl, rfl, rfl, rfl⟩

/-- Group 0xB (R236); the words of CPY and SHLD are the ones R236 gives. -/
theorem test_decode_groupB :
    decodeWords [0xB00C060A#32] = .ok (.cpy 12 (bp 3) ⟨true, 2⟩) ∧
    decodeWords [0xB10C0607#32] = .ok (.cpys 12 (bp 3) ⟨false, 7⟩) ∧
    decodeWords [0xB20C060A#32] = .ok (.cbdc 12 (bp 3) ⟨true, 2⟩) ∧
    decodeWords [0xB30C060A#32] = .ok (.cpyam 12 (bp 3) ⟨true, 2⟩) ∧
    decodeWords [0xB40C060A#32] = .ok (.gath 12 (bp 3) ⟨true, 2⟩) ∧
    decodeWords [0xB50C060A#32] = .ok (.scat 12 (bp 3) ⟨true, 2⟩) ∧
    decodeWords [0xB6000081#32] = .ok (.qfence ⟨0x81#8⟩) ∧
    decodeWords [0xB70D0631#32] = .ok (.shld 13 (bp 3) ⟨3, false, 1⟩) :=
  ⟨rfl, rfl, rfl, rfl, rfl, rfl, rfl, rfl⟩

/-- Group 0xC (R202, R230, R231); the word of TMMA is the one R202 gives. -/
theorem test_decode_groupC :
    decodeWords [0xC0000809#32] = .ok (.tldb (bs 8) (bs 9)) ∧
    decodeWords [0xC1050809#32] = .ok (.tmma 5 (bs 8) (bs 9)) ∧
    decodeWords [0xC2FF0889#32] = .ok (.tmmat 255 (bs 8) ⟨.s 9, true⟩) ∧
    decodeWords [0xC3060800#32] = .ok (.ttrn 3 4) ∧
    decodeWords [0xC4050609#32] = .ok (.tscl 5 6 (bs 9)) ∧
    decodeWords [0xC505000F#32] = .ok (.tzero 5 15) ∧
    decodeWords [0xC6050607#32] = .ok (.tadd 5 6 7) ∧
    decodeWords [0xC7030602#32] = .ok (.taccr (.v 3) 6 2) ∧
    decodeWords [0xC8050302#32] = .ok (.taccw 5 (bv 3) 2) ∧
    decodeWords [0xC9050809#32] = .ok (.taccs 5 (bs 8) (bs 9)) ∧
    decodeWords [0xCA050800#32] = .ok (.taccl 5 (bs 8)) ∧
    decodeWords [0xCB000800#32] = .ok (.tmxs (bs 8)) ∧
    decodeWords [0xCC000000#32] = .ok .tsync ∧
    decodeWords [0xCD070809#32] = .ok (.trule 7 (bp 4) (bs 9)) ∧
    decodeWords [0xCE070145#32] = .ok (.trwq 7 true (.rule 5)) :=
  ⟨rfl, rfl, rfl, rfl, rfl, rfl, rfl, rfl, rfl, rfl, rfl, rfl, rfl, rfl, rfl⟩

/-- Group 0xE (R352, R78); the words of STX, STX.MC, AMXR, WAKE, XARR and XWAIT are the ones R352 gives. -/
theorem test_decode_groupE :
    decodeWords [0xE0030600#32] = .ok (.stx (bv 3) (bp 3) false) ∧
    decodeWords [0xE0030601#32] = .ok (.stx (bv 3) (bp 3) true) ∧
    decodeWords [0xE1030605#32] = .ok (.ldx (.v 3) (bp 3) (bv 5)) ∧
    decodeWords [0xE2030613#32] = .ok (.amx (bv 3) (bp 3) ⟨.maxS32, true⟩) ∧
    decodeWords [0xE3040601#32] = .ok (.amxr (.v 4) (bp 3) .addF32) ∧
    decodeWords [0xE4450A0B#32] = .ok (.wake ⟨5, true⟩ (bs 10) (bs 11)) ∧
    decodeWords [0xE5070000#32] = .ok (.xarr 7) ∧
    decodeWords [0xE6080700#32] = .ok (.xwait 8 (bs 7)) ∧
    decodeWords [0xE7080600#32] = .ok (.xfence 8 (bp 3)) ∧
    decodeWords [0xE8080600#32] = .ok (.nsend 8 (bp 3)) ∧
    decodeWords [0xE9080600#32] = .ok (.npost 8 (bp 3)) ∧
    decodeWords [0xEA080604#32] = .ok (.qpush 8 (bp 3) (bs 4)) :=
  ⟨rfl, rfl, rfl, rfl, rfl, rfl, rfl, rfl, rfl, rfl, rfl, rfl⟩

/-- Words the decoder refuses, with the case of R64: an unassigned opcode (0x4A, 0xF0), a register no source names (R59), a vector
destination z and w0 (R31), a non-zero unused field (R60), a shift on a scalar destination (R60), an odd pair (R77), a CSR no rule
assigns (R78). -/
theorem test_decode_refuses :
    decodeWords [0x4A000000#32] = .error 1 ∧
    decodeWords [0xF0000000#32] = .error 1 ∧
    decodeWords [0x30017703#32] = .error 2 ∧
    decodeWords [0x30740203#32] = .error 5 ∧
    decodeWords [0x30700203#32] = .error 5 ∧
    decodeWords [0x00000001#32] = .error 3 ∧
    decodeWords [0x10830405#32] = .error 5 ∧
    decodeWords [0x03000700#32] = .error 2 ∧
    decodeWords [0x27090007#32] = .error 3 :=
  ⟨rfl, rfl, rfl, rfl, rfl, rfl, rfl, rfl, rfl⟩

/-! ### A small machine: one wave with slices in octet 0 of core 0, at word 1 of a line of NOPs, their gang latched -/

/-- A slice of the small machine, its registers 0 and full but for the pairs s[6] (a scratchpad address) and s[8] (a fabric address). -/
def labSlice (mode : Word) (i : Nat) : Slice :=
  let m := Slice.create (1 + i) 0#32 (BitVec.ofNat 32 i) 0 i 4#64 mode (Vector.replicate 16 0#32)
  { m with s := ((m.s.set 6 ⟨0x100#32, true, false⟩).set 7 ⟨0xFE000000#32, true, false⟩).set 9 ⟨0x01000000#32, true, false⟩ }

/-- The wave of the small machine. -/
def labWave : Wave :=
  ⟨0#32, 0, 0, 8, 1#4, 4#64, 0x40#64, 0#32, Vector.replicate 16 0#32, 0, 0, 0, [], [], 8, 0#16, false, none⟩

/-- What the small machine has latched: gang 9, at word 1 of line 0. -/
def labCur : Cur := ⟨9, 4#64, 8#64, 0#32, false⟩

/-- The gang of the given slices. -/
def labGang (ms : List Slice) : Gang := ⟨9, 0, 0, ms.map (·.sid), .ready, 9, 0⟩

/-- The small machine: core 0 has 64 KiB of scratchpad, 64 tiles and 4 rows for the wave, the fabric is enabled for context 0. -/
def lab (ms : List Slice) : State :=
  { State.reset with
    slices := ms, gangs := [labGang ms], waves := [labWave], nextId := 10, cur := some labCur
    cores := State.reset.cores.set 0 { CoreRec.reset with shares := [⟨0#32, 0, 65536, 0, 64, 0, 4⟩] }
    ilines := [⟨0, 0#16, 0, Vector.replicate 16 0#32⟩]
    fab := { Fabric.reset with quota := 1#16, en := 1#17 } }

/-- One slice, all lanes active. -/
def one (mode : Word) : List Slice := [labSlice mode 0]

/-- A full gang of eight slices. -/
def eight (mode : Word) : List Slice := (List.range 8).map (labSlice mode)

/-- A trap of group 2. -/
def fullEmptyTrap : TrapRec := ⟨2#5, 1#8, 0#8, 1#16, 0#64, 15#4, 4#64, false, none⟩

theorem test_witness_Issuing_one : Issuing (lab (one 0#32)) labCur (labGang (one 0#32)) (one 0#32) :=
  ⟨rfl, by decide +kernel, by decide +kernel, by decide +kernel, by decide +kernel⟩

theorem test_witness_Issuing_sup :
    Issuing (lab (one 0x1000000#32)) labCur (labGang (one 0x1000000#32)) (one 0x1000000#32) :=
  ⟨rfl, by decide +kernel, by decide +kernel, by decide +kernel, by decide +kernel⟩

theorem test_witness_Issuing_eight : Issuing (lab (eight 0#32)) labCur (labGang (eight 0#32)) (eight 0#32) :=
  ⟨rfl, by decide +kernel, by decide +kernel, by decide +kernel, by decide +kernel⟩

/-- The conditions of a `Table` statement on an instruction, for one acting slice of the small machine. -/
def Meets (table : Instr → Option Claims.Effect) (m : Slice) (i : Instr) : Prop :=
  ∃ e, table i = some e ∧ Claims.permitted i m ∧ e.acts m = true ∧ m.ready (e.uses m) (e.dst m) = true ∧ e.need (lab [m]) labCur m

/-- The conditions of a `LaunchTable` statement on an instruction, for one acting slice of the small machine. -/
def Starts (table : Instr → Option Claims.Launch) (m : Slice) (i : Instr) : Prop :=
  ∃ l, table i = some l ∧ Claims.permitted i m ∧ l.acts m = true ∧ m.ready (l.uses m) (l.dst m) = true ∧ l.need (lab [m]) m ∧
    l.room (lab [m]) [m]

/-! ### Witnesses: instructions of a slice's own registers -/

theorem test_witness_ScalarArithmetic : ∀ i ∈ ([.add 3 (bs 4) (bs 5), .sub 3 (bs 4) (bs 5), .mul 3 (bs 4) (bs 5), .mulhs 3 (bs 4) (bs 5),
    .mulhu 3 (bs 4) (bs 5), .divs 3 (bs 4) (bs 5), .divu 3 (bs 4) (bs 5), .andS 3 (bs 4) (bs 5), .orS 3 (bs 4) (bs 5), .xorS 3 (bs 4) (bs 5),
    .shl 3 (bs 4) (bs 5), .shr 3 (bs 4) (bs 5), .sar 3 (bs 4) (bs 5), .mins 3 (bs 4) (bs 5), .maxs 3 (bs 4) (bs 5), .slt 3 (bs 4) (bs 5)] :
    List Instr), Meets Claims.scalarTable (labSlice 0#32 0) i := by
  intro i hi
  fin_cases hi <;> exact ⟨_, rfl, trivial, by decide +kernel, by decide +kernel, trivial⟩

/-! ### Single steps; the expected values stand in the spec's worked examples or are worked out by hand from the named rule -/

/-- The first slice after an instruction of the small machine. -/
def after (i : Instr) (ms : List Slice) : Option Slice :=
  match exec i (lab ms) with
  | .next t => t.slice? 1
  | _ => none

/-- The scalar register an instruction leaves, with s[4] and s[5] given. -/
def scalarAfter (i : Instr) (a b : Word) (n : Fin 64) : Option Word :=
  let m := labSlice 0#32 0
  (after i [{ m with s := (m.s.set 4 ⟨a, true, false⟩).set 5 ⟨b, true, false⟩ }]).map fun x => (x.s.get n).val

/-- Lanes of zeros. -/
def zeros : Lanes := ⟨0#32, 0#32, 0#32, 0#32⟩

/-- The first slice with vector registers v[1], v[2] and v[4] given, under a MODE. -/
def vecSlice (mode : Word) (a b c : Lanes) : Slice :=
  let m := labSlice mode 0
  { m with v := ((m.v.set 1 ⟨a, true⟩).set 2 ⟨b, true⟩).set 4 ⟨c, true⟩ }

/-- The vector register and the flags an instruction leaves. -/
def vecAfter (i : Instr) (m : Slice) (n : Fin 96) : Option (Lanes × Word) :=
  (after i [m]).map fun x => ((x.v.get n).val, x.fstat)

/-- R79: a sum wraps, a quotient by 0 is all ones, −2^31 ÷ −1 is −2^31, a shift by 32 gives 0, SAR by 40 gives the sign. -/
theorem test_scalar_corners :
    scalarAfter (.add 3 (bs 4) (bs 5)) 0xFFFFFFFF#32 2#32 3 = some 1#32 ∧
    scalarAfter (.sub 3 (bs 4) (bs 5)) 1#32 2#32 3 = some 0xFFFFFFFF#32 ∧
    scalarAfter (.mulhs 3 (bs 4) (bs 5)) 0xFFFFFFFF#32 2#32 3 = some 0xFFFFFFFF#32 ∧
    scalarAfter (.mulhu 3 (bs 4) (bs 5)) 0xFFFFFFFF#32 2#32 3 = some 1#32 ∧
    scalarAfter (.divu 3 (bs 4) (bs 5)) 7#32 0#32 3 = some 0xFFFFFFFF#32 ∧
    scalarAfter (.divs 3 (bs 4) (bs 5)) 0xFFFFFFF9#32 2#32 3 = some 0xFFFFFFFD#32 ∧
    scalarAfter (.divs 3 (bs 4) (bs 5)) 0x80000000#32 0xFFFFFFFF#32 3 = some 0x80000000#32 ∧
    scalarAfter (.shl 3 (bs 4) (bs 5)) 1#32 32#32 3 = some 0#32 ∧
    scalarAfter (.sar 3 (bs 4) (bs 5)) 0x80000000#32 40#32 3 = some 0xFFFFFFFF#32 ∧
    scalarAfter (.slt 3 (bs 4) (bs 5)) 0xFFFFFFFF#32 0#32 3 = some 1#32 := by decide +kernel

/-- R77, R80: ADDP carries from the low half of a pair into the high half and sign-extends its scalar. -/
theorem test_addp_carries :
    scalarAfter (.addp 6 (bp 2) ⟨.s 5, false⟩) 0#32 0xFFFFFFFF#32 12 = some 0xFFFFFFFF#32 ∧
    scalarAfter (.addp 6 (bp 2) ⟨.s 5, false⟩) 0#32 0xFFFFFFFF#32 13 = some 0xFFFFFFFE#32 := by decide +kernel

/-- The worked roundings of 01_number_formats.md, FP32 to BF16: ties under RNE and RNA. -/
theorem test_fcvt_ties :
    (vecAfter (.fcvt (dv 3) (bv 1) ⟨0, .fp32⟩ none) (vecSlice 0x20#32 ⟨0x3F808000#32, 0x3F818000#32, 0#32, 0x3F800000#32⟩ zeros zeros) 3).map
      (·.1) = some ⟨0x3F80#32, 0x3F82#32, 0#32, 0x3F80#32⟩ ∧
    (vecAfter (.fcvt (dv 3) (bv 1) ⟨0, .fp32⟩ none) (vecSlice 0x820#32 ⟨0x3F808000#32, 0#32, 0#32, 0#32⟩ zeros zeros) 3).map
      (·.1.l0) = some 0x3F81#32 := by decide +kernel

/-- The same table, to E4M3: 300.0 and 500.0 under RNE, and 500.0 under RTZ and with OSAT. -/
theorem test_fcvt_e4m3 :
    (vecAfter (.fcvt (dv 3) (bv 1) ⟨1, .fp32⟩ none) (vecSlice 0x60#32 ⟨0x43960000#32, 0x43FA0000#32, 0#32, 0#32⟩ zeros zeros) 3).map (·.1) =
      some ⟨0x7900#32, 0x7F00#32, 0#32, 0#32⟩ ∧
    (vecAfter (.fcvt (dv 3) (bv 1) ⟨0, .fp32⟩ none) (vecSlice 0x260#32 ⟨0x43FA0000#32, 0#32, 0#32, 0#32⟩ zeros zeros) 3).map (·.1.l0) =
      some 0x7E#32 ∧
    (vecAfter (.fcvt (dv 3) (bv 1) ⟨0, .fp32⟩ none) (vecSlice 0x1060#32 ⟨0x43FA0000#32, 0#32, 0#32, 0#32⟩ zeros zeros) 3).map (·.1.l0) =
      some 0x7E#32 := by decide +kernel

/-- The same table: FMUL of 2^−125 and 0.25 under FTZ is flushed, with UF and NX. -/
theorem test_fmul_flushes :
    vecAfter (.fmul (dv 3) (bv 1) (bv 2) none)
      (vecSlice 0x8000#32 ⟨0x01000000#32, 0#32, 0#32, 0#32⟩ ⟨0x3E800000#32, 0#32, 0#32, 0#32⟩ zeros) 3 =
      some (⟨0#32, 0#32, 0#32, 0#32⟩, 3#32) := by decide +kernel

/-- The tree sum of R25's example: lanes 1.0, 2^24, 1.0, −2^24 give 1.0. -/
theorem test_vred_tree :
    (vecAfter (.vred (dv 3) (bv 1) ⟨false, .add⟩)
      (vecSlice 0#32 ⟨0x3F800000#32, 0x4B800000#32, 0x3F800000#32, 0xCB800000#32⟩ zeros zeros) 3).map (·.1) =
      some ⟨0x3F800000#32, 0x3F800000#32, 0x3F800000#32, 0x3F800000#32⟩ := by decide +kernel

/-- The butterfly of R123's example, its twiddle in v1: v10 takes the sum and v11 the difference, and NX is set. -/
theorem test_cbfly_example :
    let m0 := vecSlice 0x160#32 ⟨0x3F3504F3#32, 0xBF3504F3#32, 0#32, 0#32⟩ zeros ⟨0x3F800000#32, 0#32, 0#32, 0#32⟩
    let m := { m0 with v := m0.v.set 5 ⟨⟨0x3F000000#32, 0x3F000000#32, 0#32, 0#32⟩, true⟩ }
    (after (.cbfly ⟨.v 5, false⟩ ⟨.v 2, false⟩ (bv 1) none) [m]).map
      (fun x => ((x.v.get 10).val.l0, (x.v.get 10).val.l1, (x.v.get 11).val.l0, (x.v.get 11).val.l1, x.fstat)) =
      some (0x3FDA827A#32, 0#32, 0x3E95F61A#32, 0#32, 1#32) := by decide +kernel

/-- The example of R130: MXQ of 5.0, −1.3, 0.2 and 7.5 in a full gang. -/
theorem test_mxq_example :
    let ms := (eight 0xE0#32).map fun m => if m.sid = 1 then { m with v := m.v.set 1 ⟨⟨0x40A00000#32, 0xBFA66666#32, 0x3E4CCCCD#32, 0x40F00000#32⟩, true⟩ } else m
    (after (.mxq (dv 7) (bv 1) none) ms).map (fun x => ((x.v.get 7).val, x.fstat)) =
      some (⟨0x7F06#32, 0x7F0B#32, 0x7F00#32, 0x7F07#32⟩, 7#32) := by decide +kernel

/-- The example of R15 and R17: weight 0 of index 0x2A5B with scale 0x7E under shell entry 0x01234567 is −0.9375, 0xB7 in E4M3; the table
is loaded in context 0. -/
theorem test_cb2_example :
    cb2Round .e4m3 (cb2Weight 0x01234567#32 0x2A5B#16 0x7E 0) = 0xB7 ∧ cb2Round .e4m3 (cb2Weight 0x01234567#32 0x2A5B#16 0x7E 1) = 0x35 := by
  decide +kernel

/-- R91: TRAP enters the handler of its wave, with the next instruction as resume PC. -/
theorem test_trap_detail :
    (after (.trap 0x1234#16) (one 0#32)).map (fun x => (x.pc, x.tpc, modeSup x.mode)) = some (0x40#64, 8#64, true) := by decide +kernel

/-- R84: SETMI writes MODE and the program counter goes on. -/
theorem test_setmi : (after (.setmi 0x1260#32) (one 0#32)).map (fun x => (x.mode, x.pc)) = some (0x1260#32, 8#64) := by decide +kernel

/-- The step of a placed word: ADDI s4, s4, −1 (0x2104_0400, the word of the example of 04_slice_scalar_control.md) from reset. -/
theorem test_step_of_a_word :
    (match step (State.reset.withFetchWord 64 0xFFFFFFFF21040400) with
     | .next t => (t.slices.map fun m => (m.s.get 4).val) == List.replicate 8 0xFFFFFFFF#32 && t.slices.all fun m => m.s.get 4 == ⟨0xFFFFFFFF#32, true, false⟩
     | _ => false) = true := by decide +kernel

/-- A slice whose lanes are all inactive under the guard. -/
def guardedOff : Slice := labSlice 0x10#32 0

/-- What the small machine's gang waits for after an instruction, and where its slice stands. -/
def stands (i : Instr) (m : Slice) : Option (GangWait × DWord) :=
  match exec i (lab [m]) with
  | .next t => match t.gang? 9, t.slice? 1 with
    | some g, some x => some (g.wait, x.pc)
    | _, _ => none
  | _ => none

/-- R35, R36, R76: without an active lane a vector instruction still waits for its empty destination and for an empty source under the
block policy, but not for one under the trap policy; a scalar-class instruction waits for nothing. -/
theorem test_waits_without_lanes :
    stands (.vadd (dv 1) (bv 2) (bv 4) none) (guardedOff.setFull (.v 1) false) = some (.parked 1 (.v 1), 4#64) ∧
    stands (.vadd (dv 1) (bv 2) (bv 4) none) (guardedOff.setFull (.v 2) false) = some (.parked 1 (.v 2), 4#64) ∧
    stands (.vadd (dv 1) ⟨.v 2, true⟩ (bv 4) none) (guardedOff.setFull (.v 2) false) = some (.ready, 8#64) ∧
    stands (.add 3 (bs 4) (bs 5)) (guardedOff.setFull (.s 3) false) = some (.ready, 8#64) := by decide +kernel

/-- R34, R95: a source without a full/empty bit is never empty; bit [7] changes nothing. -/
theorem test_fetst_sources :
    (after (.fetst 3 (.vec ⟨.w 0, false⟩)) (one 0#32)).map (fun x => x.p.get 3) = some 15#4 ∧
    (after (.fetst 3 (.vec ⟨.v 1, true⟩)) [(labSlice 0#32 0).setFull (.v 1) false]).map (fun x => x.p.get 3) = some 0#4 := by
  decide +kernel

/-- The line the small machine's gang fetches from, with a header word. -/
def codeOf (h : Word) : ILine := ⟨0, 0#16, 0, (Vector.replicate 16 0#32).set 0 h⟩

/-- The NOP at the gang's PC is fetched, in a line of version 0 and of version 1. -/
theorem test_witness_StepRunsDecoded : ∀ h ∈ [0#32, 0x40000000#32],
    let s : State := { lab (one 0#32) with ilines := [codeOf h], agenda := [.issue 0] }
    s.nextGang (fun x => x.core == 0) = some (labGang (one 0#32)) ∧
    let u := State.passOver { s with agenda := [] } (labGang (one 0#32))
    FetchesAt u (labGang (one 0#32)) (labSlice 0#32 0) [] (codeOf h) u .nop := by
  intro h hh
  fin_cases hh
  all_goals exact ⟨by decide +kernel, by decide +kernel, by decide +kernel, by decide +kernel, by rfl, by decide +kernel, by decide +kernel,
    by decide +kernel, by decide +kernel, by decide +kernel⟩

theorem test_witness_LiteralsAndPlainControl :
    (∀ i ∈ ([.li 3 5#32, .addi 3 (bs 4) 5#32, .andi 3 (bs 4) 5#32, .ori 3 (bs 4) 5#32, .addp 5 (bp 3) (bs 5), .addpi 5 (bp 3) 8#32,
      .getm 3, .csrr 3 .slotid] : List Instr), Meets Claims.literalTable (labSlice 0#32 0) i) ∧
    (∀ i ∈ ([.nop, .rgn, .fetst 3 (.vec ⟨.v 1, false⟩), .femrk (.scl 5) false, .pref (bp 3) ⟨none, .l1⟩] : List Instr),
      Meets Claims.plainTable (labSlice 0#32 0) i) ∧
    Meets Claims.literalTable (labSlice 0x1000000#32 0) (.csrr 3 .tcause) := by
  refine ⟨?_, ?_, ?_⟩
  · intro i hi
    fin_cases hi <;> exact ⟨_, rfl, by first | trivial | (intro _ h; cases h), by decide +kernel, by decide +kernel, by trivial⟩
  · intro i hi
    fin_cases hi <;> exact ⟨_, rfl, trivial, by decide +kernel, by decide +kernel, by trivial⟩
  · exact ⟨_, rfl, fun _ => by decide +kernel, by decide +kernel, by decide +kernel, by trivial⟩

theorem test_witness_VectorInteger : ∀ i ∈ ([.vadd (dv 1) (bv 2) (bv 3) none, .vsub (dv 1) (bv 2) (bv 3) none,
    .vmul (dv 1) (bv 2) (bv 3) none, .vmad (dv 1) (bv 2) (bv 3) none, .vmulh (dv 1) (bv 2) (bv 3) none, .vmin (dv 1) (bv 2) (bv 3) none,
    .vmax (dv 1) (bv 2) (bv 3) none, .vminu (dv 1) (bv 2) (bv 3) none, .vmaxu (dv 1) (bv 2) (bv 3) none, .vabsd (dv 1) (bv 2) (bv 3) none,
    .vand (dv 1) (bv 2) (bv 3) none, .vor (dv 1) (bv 2) (bv 3) none, .vxor (dv 1) (bv 2) (bv 3) none, .vandn (dv 1) (bv 2) (bv 3) none,
    .vshl (dv 1) (bv 2) (bv 3) none, .vshr (dv 1) (bv 2) (bv 3) none, .vsar (dv 1) (bv 2) (bv 3) none, .vrot (dv 1) (bv 2) (bv 3) none,
    .vcmp ⟨.lt, 3⟩ (bv 2) (bv 3) none, .vsel (dv 1) (bv 2) (bv 3) none, .vli (dv 1) 5#32 none, .vbcs (dv 1) (bs 4) none,
    .vclz (dv 1) (bv 2) none, .vbitc (dv 1) (bv 2) none, .plog ⟨.set, 2⟩ 0 0 none, .vdot4 (dv 1) (bv 2) (bv 3) none] : List Instr),
    Meets Claims.integerTable (labSlice 0x100#32 0) i := by
  intro i hi
  fin_cases hi <;> exact ⟨_, rfl, trivial, by decide +kernel, by decide +kernel, by trivial⟩

theorem test_witness_VectorFloat : ∀ i ∈ ([.fadd (dv 1) (bv 2) (bv 3) none, .fsub (dv 1) (bv 2) (bv 3) none,
    .fmul (dv 1) (bv 2) (bv 3) none, .ffma (dv 1) (bv 2) (bv 3) none, .ffms (dv 1) (bv 2) (bv 3) none, .fmin (dv 1) (bv 2) (bv 3) none,
    .fmax (dv 1) (bv 2) (bv 3) none, .fcmp ⟨.lt, 3⟩ (bv 2) (bv 3) none, .frcp (dv 1) (bv 2) none, .frsq (dv 1) (bv 2) none,
    .fexp2 (dv 1) (bv 2) none, .flog2 (dv 1) (bv 2) none, .fsin (dv 1) (bv 2) none, .fcos (dv 1) (bv 2) none, .ftanh (dv 1) (bv 2) none,
    .fclass (dv 1) (bv 2) none] : List Instr), Meets Claims.floatTable (labSlice 0#32 0) i := by
  intro i hi
  fin_cases hi <;> exact ⟨_, rfl, trivial, by decide +kernel, by decide +kernel, by unfold Claims.realMode; decide +kernel⟩

/-- 3.0 under FTANH, and 0.75 under FEXP2: no special input, and results far below overflow. -/
theorem test_witness_VectorFloat_bound :
    modeEtype (labSlice 0#32 0).mode = .fp32 ∧ modeFtz (labSlice 0#32 0).mode = false ∧ modeOsat (labSlice 0#32 0).mode = false ∧
    (match decFp .fp32 false 0x40400000 with
      | .fin neg m e => (approxSpecial .tanh (.fin neg m e)).isNone &&
          decide ((Claims.ratOf (approxMid .tanh neg m e)).abs ≤ (2 ^ 24 - 1) * 2 ^ 104)
      | _ => false) = true ∧
    (match decFp .fp32 false 0x3F400000 with
      | .fin neg m e => (approxSpecial .exp2 (.fin neg m e)).isNone &&
          decide ((Claims.ratOf (approxMid .exp2 neg m e)).abs ≤ (2 ^ 24 - 1) * 2 ^ 104)
      | _ => false) = true := by
  refine ⟨rfl, rfl, rfl, ?_, ?_⟩ <;> decide +kernel

theorem test_witness_VectorComplex : ∀ i ∈ ([.cmul (dv 1) (bv 2) (bv 3) none, .cfma (dv 1) (bv 2) (bv 3) none, .cconj (dv 1) (bv 2) none,
    .cbfly ⟨.v 5, false⟩ ⟨.v 2, false⟩ (bv 20) none, .ctwid (dv 1) (bv 2) 24 none] : List Instr),
    Meets Claims.complexTable (labSlice 0x160#32 0) i := by
  intro i hi
  fin_cases hi <;> exact ⟨_, rfl, trivial, by decide +kernel, by decide +kernel, by trivial⟩

theorem test_witness_Conversions :
    Meets Claims.convertTable (labSlice 0#32 0) (.fcvt (dv 1) (bv 2) ⟨1, .bf16⟩ none) ∧
    Meets Claims.convertTable (labSlice 0x100#32 0) (.ftoi (dv 1) (bv 2) ⟨3, .fp32⟩ none) ∧
    Meets Claims.convertTable (labSlice 0#32 0) (.itof (dv 1) (bv 2) ⟨3, .i8⟩ none) ∧
    Meets Claims.convertTable (labSlice 0x100#32 0) (.pack (dv 1) (bv 2) (bv 3) none) ∧
    Meets Claims.convertTable (labSlice 0x100#32 0) (.unpk (dv 1) (bv 2) ⟨true, true⟩ none) ∧
    Meets Claims.convertTable (labSlice 0xA0#32 0) (.mxq (dv 1) (bv 2) none) ∧
    Meets Claims.convertTable (labSlice 0xA0#32 0) (.mxdq (dv 1) (bv 2) none) ∧
    Meets Claims.convertTable (labSlice 0#32 0) (.cbd (dv 1) (bv 2) ⟨.bf16, 3⟩ none) :=
  ⟨⟨_, rfl, trivial, by decide +kernel, by decide +kernel, by unfold Claims.convertible; decide +kernel⟩,
   ⟨_, rfl, trivial, by decide +kernel, by decide +kernel, by unfold Claims.convertible; decide +kernel⟩,
   ⟨_, rfl, trivial, by decide +kernel, by decide +kernel, by unfold Claims.convertible; decide +kernel⟩,
   ⟨_, rfl, trivial, by decide +kernel, by decide +kernel, by decide +kernel⟩,
   ⟨_, rfl, trivial, by decide +kernel, by decide +kernel, by decide +kernel⟩,
   ⟨_, rfl, trivial, by decide +kernel, by decide +kernel, by decide +kernel⟩,
   ⟨_, rfl, trivial, by decide +kernel, by decide +kernel, by decide +kernel⟩,
   ⟨_, rfl, trivial, by decide +kernel, by decide +kernel, by trivial⟩⟩

theorem test_witness_CrossLane : ∀ i ∈ ([.vballot (dv 1) 5 true, .vpopc (dv 1) (bv 2) true, .vshuf (dv 1) (bv 2) (bv 3),
    .vbcast (dv 1) (bv 2) 31, .vmovs 7 (bv 2) 3, .vscan (dv 1) (bv 2) ⟨true, true, .add⟩, .vred (dv 1) (bv 2) ⟨true, .add⟩] : List Instr),
    Meets Claims.crossTable (labSlice 0#32 0) i := by
  intro i hi
  fin_cases hi <;> exact ⟨_, rfl, trivial, by decide +kernel, by decide +kernel, by
    first | trivial | (unfold Claims.gangFull; decide +kernel)⟩

theorem test_witness_ControlWrites :
    (∀ i ∈ ([.csrw (bs 4) .fstat, .setm (bs 4), .setmi 0x60#32, .rdts 5] : List Instr), Meets Claims.writeTable (labSlice 0#32 0) i) ∧
    Meets Claims.writeTable (labSlice 0x1000000#32 0) (.csrw (bs 4) .gtmo) := by
  refine ⟨?_, ⟨_, rfl, fun _ => by decide +kernel, by decide +kernel, by decide +kernel, by trivial⟩⟩
  intro i hi
  fin_cases hi <;> exact ⟨_, rfl, by first | trivial | (intro _ h; cases h), by decide +kernel, by decide +kernel, by trivial⟩

theorem test_witness_Crews :
    (∀ i ∈ ([.join 3, .leave 3] : List Instr), Meets Claims.crewTable (labSlice 0#32 0) i) ∧
    let m : Slice := { labSlice 0#32 0 with crews := 8#32 }
    let s : State := (lab [m]).setCrew 0 3 (some ⟨0#32, some 64, 0⟩)
    Issuing s labCur (labGang [m]) [m] ∧ [m].filter Claims.guarded = [m] ∧ m.crews.getLsbD 3 = true ∧
      s.crew m.core 3 = some ⟨0#32, some 64, 0⟩ ∧ m.core < 192 ∧ s.memWf = true := by
  refine ⟨?_, ⟨rfl, by decide +kernel, by decide +kernel, by decide +kernel, by decide +kernel⟩, by decide +kernel, by decide +kernel,
    by decide +kernel, by decide +kernel, by decide +kernel⟩
  intro i hi
  fin_cases hi
  · exact ⟨_, rfl, trivial, by decide +kernel, by decide +kernel, by decide +kernel, fun e h => by
      rw [show (lab [labSlice 0#32 0]).crew (labSlice 0#32 0).core 3 = none from by decide +kernel] at h; cases h⟩
  · exact ⟨_, rfl, trivial, by decide +kernel, by decide +kernel, by decide +kernel⟩

/-! ### Witnesses: control -/

/-- Lanes 0 and 1 take the branch of lanes where bit i of p0 is 1. -/
def parting : Slice := { labSlice 0#32 0 with p := (labSlice 0#32 0).p.set 0 3#4 }

/-- A word of the small machine's line of code at which an instruction may start. -/
theorem lab_reachable (pc : DWord) (h : pc = 4#64 ∨ pc = 16#64 ∨ pc = 32#64) (ms : List Slice) (m : Slice) (hm : m.core = 0)
    (ha : (lab ms).sliceAsid m = 0#16) : Claims.reachable (lab ms) m pc := by
  refine ⟨?_, ⟨0, 0#16, 0, Vector.replicate 16 0#32⟩, lab ms, ?_, ?_⟩
  · rcases h with rfl | rfl | rfl <;> decide
  · rw [hm, ha]; rcases h with rfl | rfl | rfl <;> rfl
  · rcases h with rfl | rfl | rfl <;> decide

theorem test_witness_Branches :
    Meets Claims.branchTable (labSlice 0#32 0) (.bra ⟨3#16, 0#16⟩) ∧ Claims.taken (.bra ⟨3#16, 0#16⟩) (labSlice 0#32 0) = 15#4 ∧
    Meets Claims.branchTable parting (.brp (.pred 0) ⟨3#16, 7#16⟩) ∧ Claims.taken (.brp (.pred 0) ⟨3#16, 7#16⟩) parting = 3#4 ∧
    Meets Claims.branchTable (labSlice 0#32 0) (.brp (.nz (bs 4)) ⟨3#16, 0#16⟩) ∧
    Claims.taken (.brp (.nz (bs 4)) ⟨3#16, 0#16⟩) (labSlice 0#32 0) = 0#4 := by
  refine ⟨⟨_, rfl, trivial, by decide +kernel, by decide +kernel, fun _ =>
      ⟨lab_reachable 16#64 (by decide) _ _ rfl (by rfl), fun h => absurd (by decide +kernel) h⟩⟩, by decide +kernel,
    ⟨_, rfl, trivial, by decide +kernel, by decide +kernel, fun _ => ⟨lab_reachable 16#64 (by decide) _ _ rfl (by rfl),
      fun _ => ⟨by decide, lab_reachable 32#64 (by decide) _ _ rfl (by rfl), by decide +kernel⟩⟩⟩, by decide +kernel,
    ⟨_, rfl, trivial, by decide +kernel, by decide +kernel, fun h => absurd (by decide +kernel) h⟩, by decide +kernel⟩

/-- The pair s[10] holds the address of word 4 of the line. -/
def aiming : Slice := { labSlice 0#32 0 with s := (labSlice 0#32 0).s.set 10 ⟨16#32, true, false⟩ }

theorem test_witness_WholeTransfers : ∀ i ∈ ([.bri (bp 5), .call 6 3#32, .calli 6 (bp 5), .ret (bp 5)] : List Instr),
    Meets Claims.wholeTable aiming i := by
  intro i hi
  fin_cases hi <;> exact ⟨_, rfl, trivial, by decide +kernel, by decide +kernel, by decide +kernel, by
    refine lab_reachable _ ?_ _ _ rfl rfl; decide +kernel⟩

/-- A slice in a handler: MODE and a mask of two lanes saved, nothing on its stacks, the region and the trapped PC in the line. -/
def handling : Slice :=
  { labSlice 0x1000000#32 0 with
    bank := (labSlice 0#32 0).bank.set 3 ⟨3#32, true, false⟩, tpc := 16#64, rgnpc := 4#64, rgnMask := 15#4 }

theorem test_witness_HandlerReturns : Meets Claims.returnTable handling .retr ∧ Meets Claims.returnTable handling .rett := by
  refine ⟨⟨_, rfl, (by decide +kernel : modeSup handling.mode = true), by decide +kernel, by decide +kernel, ?_⟩,
    ⟨_, rfl, (by decide +kernel : modeSup handling.mode = true), by decide +kernel, by decide +kernel, ?_⟩⟩
  · refine ⟨by decide +kernel, by decide +kernel, by decide +kernel, fun h => by (cases h), ?_, ?_⟩
    · exact lab_reachable 4#64 (by decide) _ _ rfl (by rfl)
    · exact ⟨by decide +kernel, by decide +kernel⟩
  · refine ⟨by decide +kernel, by decide +kernel, by decide +kernel, fun _ => by decide +kernel, ?_, ?_⟩
    · exact lab_reachable 16#64 (by decide) _ _ rfl (by rfl)
    · exact ⟨by decide +kernel, by decide +kernel⟩

/-- A handler in lanes 0 and 1 of a slice whose trapped path has all four. -/
def leaving (taken : BitVec 16) : Slice :=
  { handling with bank := (labSlice 0#32 0).bank.set 3 ⟨15#32, true, false⟩, amask := 3#4, taken := taken }

theorem test_witness_Exit :
    Meets Claims.exitTable { parting with mode := 0x10#32 } .exit ∧
    (∀ m ∈ [labSlice 0#32 0, leaving 0#16, leaving 0x80#16],
      Issuing (lab [m]) labCur (labGang [m]) [m] ∧ [m].filter Claims.guarded = [m] ∧ Claims.still (lab [m]) m ∧
        m.amask &&& ~~~m.active = 0#4 ∧ ((Claims.exited m m).popAll 16).amask = 0#4) ∧
    (∀ m ∈ [leaving 0#16, leaving 0x80#16], modeSup m.mode = true ∧
      (((Claims.exited m m).popAll 16).bank.get 3).val.extractLsb' 0 4 ≠ 0#4) ∧
    (let u := (Claims.exited (leaving 0#16) (leaving 0#16)).popAll 16
     (leaving 0#16).taken.getLsbD 7 = false ∧ Claims.returnable (lab [leaving 0#16]) u u.tpc true) ∧
    (let u := (Claims.exited (leaving 0x80#16) (leaving 0x80#16)).popAll 16
     (leaving 0x80#16).taken.getLsbD 7 = true ∧ Claims.returnable (lab [leaving 0x80#16]) u u.rgnpc false) ∧
    modeSup (labSlice 0#32 0).mode = false ∧ (lab (one 0#32)).wave? 0#32 = some labWave := by
  refine ⟨⟨_, rfl, trivial, by decide +kernel, by decide +kernel, .inl (by decide +kernel), fun _ => ⟨by decide +kernel, by decide +kernel⟩⟩,
    ?_, by decide +kernel, ⟨by decide +kernel, by decide +kernel, by decide +kernel, by decide +kernel, fun _ => by decide +kernel,
      lab_reachable 16#64 (by decide) _ _ (by rfl) (by rfl), by decide +kernel, by decide +kernel⟩,
    ⟨by decide +kernel, by decide +kernel, by decide +kernel, by decide +kernel, fun h => by (cases h),
      lab_reachable 4#64 (by decide) _ _ (by rfl) (by rfl), by decide +kernel, by decide +kernel⟩, by decide +kernel, by decide +kernel⟩
  intro m hm
  fin_cases hm <;> exact ⟨⟨rfl, by decide +kernel, by decide +kernel, by decide +kernel, by decide +kernel⟩, by decide +kernel,
    ⟨by decide +kernel, by decide +kernel⟩, by decide +kernel, by decide +kernel⟩

/-- The members of a `Table` or `LaunchTable` gang in which the instruction does not act: one without an active lane, with an empty source
under the trap policy. -/
theorem test_witness_rests :
    let m := guardedOff.setFull (.v 2) false
    Issuing (lab [m]) labCur (labGang [m]) [m] ∧ Claims.guarded m = false ∧
    Claims.perLane (.vadd (dv 1) ⟨.v 2, true⟩ (bv 4) none) = true ∧ m.calm (vsUses ⟨.v 2, true⟩ 1 ++ vsUses (bv 4) 2) [.v 1] = true ∧
    Claims.perLane (.add 3 (bs 4) (bs 5)) = false :=
  ⟨⟨rfl, by decide +kernel, by decide +kernel, by decide +kernel, by decide +kernel⟩, by decide +kernel, rfl, by decide +kernel, rfl⟩

/-! ### Witnesses: gangs, traps -/

theorem test_witness_YieldTail :
    (let l : ILine := ⟨0, 0#16, 0, ((Vector.replicate 16 0#32).set 0 0x40000000#32).set 3 0x08000000#32⟩
     l.words.toList[3]? = some 0x08000000#32 ∧ headerCode (l.words.get 0) 3 = 0#2 ∧ headerCode (l.words.get 0) 4 ≠ 2#2) ∧
    Issuing (lab (eight 0#32)) labCur (labGang (eight 0#32)) (eight 0#32) := ⟨by decide +kernel, test_witness_Issuing_eight⟩

/-- Two slices of a block, of which the gang holds the first; the second stands in no gang. -/
def half : State := { lab (one 0#32) with slices := one 0#32 ++ [labSlice 0#32 1] }

theorem test_witness_Regang :
    (Issuing half labCur (labGang (one 0#32)) (one 0#32) ∧
      (∃ x ∈ half.slices, x.wave = 0#32 ∧ x.block = (labSlice 0#32 0).block ∧ x.sid ∉ [1]) ∧ (half.core 0).gtmo ≠ 0#20) ∧
    (Issuing (lab (eight 0#32)) labCur (labGang (eight 0#32)) (eight 0#32) ∧ labCur.yields = false ∧
      ∀ x ∈ (lab (eight 0#32)).slices, x.sid ∈ (eight 0#32).map (·.sid)) ∧
    (let s : State := { half with cores := half.cores.set 0 { half.cores.get 0 with gtmo := 0#20 } }
     Issuing s labCur (labGang (one 0#32)) (one 0#32) ∧ (s.core (labSlice 0#32 0).core).gtmo = 0#20 ∧ ∃ x ∈ s.slices, x.sid ∉ [1]) :=
  ⟨⟨⟨rfl, by decide +kernel, by decide +kernel, by decide +kernel, by decide +kernel⟩, by decide +kernel, by decide +kernel⟩,
   ⟨test_witness_Issuing_eight, rfl, by decide +kernel⟩,
   ⟨rfl, by decide +kernel, by decide +kernel, by decide +kernel, by decide +kernel⟩, by decide +kernel, by decide +kernel⟩

/-- A slice with no lane active. -/
def silent : Slice := { labSlice 0#32 0 with amask := 0#4 }

theorem test_witness_SoftwareTrap :
    Issuing (lab (one 0#32)) labCur (labGang (one 0#32)) (one 0#32) ∧ (one 0#32).filter Claims.guarded ≠ [] ∧
    (∀ m ∈ one 0#32, (lab (one 0#32)).attached m = false) ∧
    (Issuing (lab [silent]) labCur (labGang [silent]) [silent] ∧ [silent].filter Claims.guarded = []) ∧
    (let s : State := { lab (one 0#32) with waves := [{ labWave with attached := true }] }
     Issuing s labCur (labGang (one 0#32)) (one 0#32) ∧ ∀ m ∈ one 0#32, s.attached m = true) :=
  ⟨test_witness_Issuing_one, by decide +kernel, by decide +kernel,
   ⟨⟨rfl, by decide +kernel, by decide +kernel, by decide +kernel, by decide +kernel⟩, by decide +kernel⟩,
   ⟨rfl, by decide +kernel, by decide +kernel, by decide +kernel, by decide +kernel⟩, by decide +kernel⟩

/-- A slice whose s[4] is empty. -/
def lacking : Slice := (labSlice 0#32 0).setFull (.s 4) false

/-- A gang of two of which the second lacks s[4]. -/
def lackingPair : List Slice := [labSlice 0#32 0, (labSlice 0#32 1).setFull (.s 4) false]

/-- The second member waits for its destination, or for its source under the block policy, whatever the other source's; it traps on a source
under the trap policy, also where the other source is under the block policy. -/
theorem test_witness_EmptyRegisters :
    Issuing (lab lackingPair) labCur (labGang lackingPair) lackingPair ∧
    (∀ i ∈ ([.add 4 (bs 5) (bs 5), .add 3 (bs 4) (bs 5), .add 3 (bs 5) (bs 4), .add 3 ⟨.s 5, true⟩ (bs 4)] : List Instr),
      ∃ e, Claims.scalarTable i = some e ∧
        (lackingPair.findSome? fun m => (Claims.emptyWait e m).map fun r => (m.sid, r)) = some (2, .s 4)) ∧
    (∀ i ∈ ([.add 3 ⟨.s 4, true⟩ ⟨.s 5, true⟩, .add 3 (bs 5) ⟨.s 4, true⟩, .add 3 (bs 4) ⟨.s 4, true⟩] : List Instr),
      ∃ e, Claims.scalarTable i = some e ∧ (∀ m ∈ lackingPair, Claims.emptyWait e m = none) ∧
        (∀ m ∈ lackingPair, e.acts m = true → ∀ u ∈ e.uses m, m.isFull u.reg = true → m.badToken u.reg = false) ∧
        ∃ m ∈ lackingPair, (Claims.emptyTrap e m).isSome = true) := by
  refine ⟨⟨rfl, by decide +kernel, by decide +kernel, by decide +kernel, by decide +kernel⟩, ?_, ?_⟩
  all_goals
    intro i hi
    fin_cases hi <;> exact ⟨_, rfl, by dsimp only; decide +kernel⟩

theorem test_witness_PrivilegeTrap :
    Issuing (lab (one 0#32)) labCur (labGang (one 0#32)) [labSlice 0#32 0] ∧ modeSup (labSlice 0#32 0).mode = false ∧
      csrTrap .tcause = true ∧ csrWriteSup .gtmo = true :=
  ⟨test_witness_Issuing_one, by decide +kernel, rfl, rfl⟩

theorem test_witness_TrapEntry :
    let s := lab (one 0#32)
    let m := labSlice 0#32 0
    s.slice? m.sid = some m ∧ (∀ t ∈ s.txns, ∀ l ∈ t.lanes, l.sid ≠ m.sid) ∧ s.faultedTxns m.sid = [] ∧ s.resolved m.sid = true ∧
      fullEmptyTrap.group.toNat < 5 ∧ modeSup m.mode = false ∧ s.vectorOf m ≠ 0#64 ∧ fullEmptyTrap.late = false := by
  decide +kernel

theorem test_witness_DoubleFault :
    let s := lab (one 0x1000000#32)
    let m := labSlice 0x1000000#32 0
    s.slice? m.sid = some m ∧ modeSup m.mode = true ∧ fullEmptyTrap.late = false ∧ s.wave? m.wave = some labWave ∧
      labWave.ended = none := by
  decide +kernel

/-! ### Witnesses: memory, synchronisation, engines and tiles at issue -/

/-- The literal of an atomic at die scope. -/
def dieLit : AtomLit := ⟨⟨.z, false⟩, .die, none, .relaxed, .unpaired, .s32⟩

theorem test_witness_LoadsIssue : ∀ i ∈ ([.ldB (.v 1) (bp 3) (bv 2), .ldH (.v 1) (bp 3) (bv 2), .ldW (.v 1) (bp 3) (bv 2),
    .ldAcq (.v 1) (bp 3) ⟨none, .die⟩, .ldp (.v 2) (bp 3) (bv 2), .lds 3 (bp 3) none, .ldsAcq 3 (bp 3) ⟨none, .die⟩] : List Instr),
    Starts Claims.loadTable (labSlice 0#32 0) i := by
  intro i hi
  fin_cases hi <;> refine ⟨_, rfl, trivial, by decide +kernel, by decide +kernel, ?_, trivial⟩
  all_goals first
    | exact ⟨.scratch, by decide +kernel, by decide +kernel, by decide +kernel, by decide +kernel, by decide +kernel⟩
    | (intro i _; fin_cases i <;>
        exact ⟨.scratch, by decide +kernel, by decide +kernel, by decide +kernel, by decide +kernel, by decide +kernel⟩)

theorem test_witness_StoresIssue : ∀ i ∈ ([.stB (bv 1) (bp 3) (bv 2), .stH (bv 1) (bp 3) (bv 2), .stW (bv 1) (bp 3) (bv 2),
    .stRel (bv 1) (bp 3) ⟨none, .die⟩, .stp ⟨.v 2, false⟩ (bp 3) (bv 2), .sts (bs 3) (bp 3) none, .stsRel (bs 3) (bp 3) ⟨none, .die⟩] :
    List Instr), Starts Claims.storeTable (labSlice 0#32 0) i := by
  intro i hi
  fin_cases hi <;> refine ⟨_, rfl, trivial, by decide +kernel, by decide +kernel, ?_, trivial⟩
  all_goals first
    | exact ⟨.scratch, by decide +kernel, by decide +kernel, by decide +kernel, by decide +kernel, by decide +kernel⟩
    | (refine ⟨?_, fun _ => by unfold Claims.clearOfLanding; decide +kernel⟩
       intro i _; fin_cases i <;>
        exact ⟨.scratch, by decide +kernel, by decide +kernel, by decide +kernel, by decide +kernel, by decide +kernel⟩)

theorem test_witness_AtomicsIssue : ∀ i ∈ ([.atomAdd (some (.v 4)) (bp 3) (bv 5) dieLit, .atomMin none (bp 3) (bv 5) dieLit,
    .atomMax none (bp 3) (bv 5) dieLit, .atomAnd none (bp 3) (bv 5) dieLit, .atomOr none (bp 3) (bv 5) dieLit,
    .atomXor none (bp 3) (bv 5) dieLit, .atomXchg none (bp 3) (bv 5) dieLit, .atomCas none (bp 3) ⟨.v 4, false⟩ dieLit,
    .amaxx 3 (bp 3) (bs 5)] : List Instr), Starts Claims.atomicTable (labSlice 0#32 0) i := by
  intro i hi
  fin_cases hi <;> refine ⟨_, rfl, trivial, by decide +kernel, by decide +kernel, ⟨?_, by
    first | decide +kernel | (unfold Claims.clearOfLanding; decide +kernel)⟩, trivial⟩
  all_goals first
    | exact ⟨.scratch, by decide +kernel, by decide +kernel, by decide +kernel, by decide +kernel, by decide +kernel⟩
    | (intro i _; fin_cases i <;>
        exact ⟨.scratch, by decide +kernel, by decide +kernel, by decide +kernel, by decide +kernel, by decide +kernel⟩)

theorem test_witness_SyncIssue : ∀ i ∈ ([.fence .pod, .fenceAcq .die, .fenceRel .core, .barr 3 (bp 3) false, .bart 3 (bp 3) (bs 5),
    .waitw 3 63, .waitv 3 (bp 3) (bs 5)] : List Instr), Starts Claims.syncTable (labSlice 0#32 0) i := by
  intro i hi
  fin_cases hi <;> refine ⟨_, rfl, trivial, by decide +kernel, by decide +kernel, ?_, by
    first | trivial | (unfold Claims.fourWaits; decide +kernel)⟩
  all_goals first
    | trivial
    | exact ⟨.scratch, by decide +kernel, by decide +kernel, by decide +kernel, by decide +kernel, by decide +kernel⟩

theorem test_witness_SystemIssue : (∀ i ∈ ([.ptew 3 (bp 1) (bp 2), .fpool 6 true 4, .trule 3 (bp 3) (bs 5)] : List Instr),
      Starts Claims.systemTable (labSlice 0x1000000#32 0) i) ∧
    ∀ i ∈ ([.qpush 3 (bp 1) (bs 5), .trwq 3 true (.rule 5)] : List Instr), Starts Claims.systemTable (labSlice 0#32 0) i := by
  constructor
  · intro i hi
    fin_cases hi <;> refine ⟨_, rfl, (by decide +kernel : modeSup (labSlice 0x1000000#32 0).mode = true), by decide +kernel,
      by decide +kernel, ?_, trivial⟩
    all_goals first
      | trivial
      | exact ⟨.scratch, by decide +kernel, by decide +kernel, by decide +kernel, by decide +kernel, by decide +kernel⟩
  · intro i hi
    fin_cases hi <;> exact ⟨_, rfl, trivial, by decide +kernel, by decide +kernel, trivial, by
      first | trivial | (unfold Claims.pushRoom; decide +kernel)⟩

theorem test_witness_FabricIssue : ∀ i ∈ ([.stx (bv 3) (bp 4) false, .stx (bv 3) (bp 4) true, .amx (bv 3) (bp 4) ⟨.maxS32, false⟩,
    .amxr (.v 4) (bp 4) .addF32, .ldx (.v 3) (bp 4) (bv 5), .wake ⟨5, true⟩ (bs 10) (bs 11), .xarr 3, .xwait 3 (bs 5), .xfence 3 (bp 3),
    .nsend 3 (bp 1), .npost 3 (bp 1)] : List Instr), Starts Claims.fabricTable (labSlice 0#32 0) i := by
  have on : Claims.fabricOn (lab [labSlice 0#32 0]) (labSlice 0#32 0) := ⟨by decide +kernel, by decide +kernel⟩
  intro i hi
  fin_cases hi <;> refine ⟨_, rfl, trivial, by decide +kernel, by decide +kernel, ?_, by
    first | trivial | (unfold Claims.fourWaits; decide +kernel) | (unfold Claims.arrivalRoom; decide +kernel)⟩
  all_goals first
    | exact on
    | exact ⟨on, by decide +kernel⟩
    | exact ⟨on, .scratch, by decide +kernel, by decide +kernel, by decide +kernel, by decide +kernel, by decide +kernel⟩
    | (refine ⟨on, ?_, by decide +kernel⟩
       intro i _; fin_cases i <;>
        exact ⟨.fabric, by decide +kernel, by decide +kernel, by decide +kernel, by decide +kernel, by decide +kernel⟩)

/-- Sixteen copies of slice 1 that stand in queue 2 of core 0. -/
def fullQueue : List Cmd := List.replicate 16 ⟨5, 0, 0, 2, 0, 0#32, 1, .cpy, false, 4, none, [], [], true, false, 0, 0#8⟩

theorem test_witness_BarrierWords :
    (let m := labSlice 0#32 0
     (one 0#32).filter Claims.guarded = [m] ∧ (lab (one 0#32)).memWf = true ∧ labCur.yields = false ∧
      m.ready (m.spUses (bp 3) 1 ++ m.ssUses (bs 5) 2) [] = true ∧
      Claims.fits (lab (one 0#32)) m (m.readPair (bp 3).reg) 4 4 [.scratch] ∧ m.core < 192 ∧
      (lab (one 0#32)).mustWait (.store none) m (m.readPair (bp 3).reg) = false ∧
      (lab (one 0#32)).mustWait (.load none) m (m.readPair (bp 3).reg) = false ∧ (lab (one 0#32)).crew 0 3 = none) ∧
    (let s : State := (lab (one 0#32)).setCrew 0 3 (some ⟨0#32, none, 0⟩)
     Issuing s labCur (labGang (one 0#32)) (one 0#32) ∧ s.crew 0 3 = some ⟨(labSlice 0#32 0).wave, none, 0⟩) :=
  ⟨⟨by decide +kernel, by decide +kernel, rfl, by decide +kernel,
    ⟨.scratch, by decide +kernel, by decide +kernel, by decide +kernel, by decide +kernel, by decide +kernel⟩, by decide +kernel,
    by decide +kernel, by decide +kernel, by decide +kernel⟩,
   ⟨rfl, by decide +kernel, by decide +kernel, by decide +kernel, by decide +kernel⟩, by decide +kernel⟩

theorem test_witness_EngineIssue :
    (∀ i ∈ ([.cpy 12 (bp 3) ⟨true, 2⟩, .cpys 12 (bp 3) ⟨true, 2⟩, .cbdc 12 (bp 3) ⟨true, 2⟩, .cpyam 12 (bp 3) ⟨true, 2⟩,
      .gath 12 (bp 3) ⟨true, 2⟩, .scat 12 (bp 3) ⟨true, 2⟩, .shld 12 (bp 3) ⟨3, true, 2⟩] : List Instr), ∃ o, Claims.orderOf i = some o ∧
      ∀ cs ∈ [[], fullQueue], let s : State := { lab (one 0#32) with cmds := cs }
        Issuing s labCur (labGang (one 0#32)) (one 0#32) ∧
        (∀ m ∈ one 0#32, Claims.guarded m = true → m.ready (m.spUses o.a 1) [m.sname o.d] = true ∧
          Claims.fits s m (m.readPair o.a.reg) o.size o.align [.global, .scratch]) ∧
        (s.queueCmds 0 o.queue).length = cs.length) := by
  intro i hi
  fin_cases hi <;> refine ⟨_, rfl, fun cs hc => ?_⟩ <;> fin_cases hc <;>
    refine ⟨⟨rfl, by decide +kernel, by decide +kernel, by decide +kernel, by decide +kernel⟩, ?_, by decide +kernel⟩
  all_goals
    intro m hm _
    obtain rfl := List.mem_singleton.1 hm
    exact ⟨by decide +kernel, .scratch, by decide +kernel, by decide +kernel, by decide +kernel, by decide +kernel, by decide +kernel⟩

theorem test_witness_QueueFence : Issuing (lab (one 0#32)) labCur (labGang (one 0#32)) (one 0#32) := test_witness_Issuing_one

/-- A slice of the gang that issues tile instructions: INT8 for the matrix forms, INT32 for the others. -/
theorem test_witness_TileIssue :
    (∀ i ∈ ([.tldb (bs 10) (bs 11), .tmma 5 (bs 10) (bs 11), .tmmat 5 (bs 10) (bs 11), .ttrn 3 4, .tscl 5 6 (bs 11), .tzero 5 15,
      .tadd 5 6 7, .taccr (.v 3) 6 2, .taccw 5 (bv 3) 2, .tmxs (bs 10)] : List Instr), ∃ f, Claims.tileForm i = some f ∧
      Claims.TileReady f (lab (eight 0x100#32)) labCur (eight 0x100#32) (labSlice 0x100#32 0)) ∧
    ∀ i ∈ ([.taccs 5 (bs 10) (bs 11), .taccl 5 (bs 10)] : List Instr), ∃ f, Claims.tileForm i = some f ∧
      Claims.TileReady f (lab (eight 0x140#32)) labCur (eight 0x140#32) (labSlice 0x140#32 0) := by
  constructor
  all_goals
    intro i hi
    fin_cases hi <;> (refine ⟨_, rfl, ?_, ?_, ?_, ?_, ?_, ?_, ?_, ?_, ?_, ?_⟩ <;> decide +kernel)

/-- An instruction that waits in the tile queue of octet 0 of core 0. -/
def queued (op : TileOp) : TileEntry :=
  { id := 5, op := op, ctx := 0, wave := 0#32, later := 0, open_ := true, rule := none, group := 5, origs := [], last := true, rows := [],
    txn := none }

/-- TADD a2, a0, a1 on integers. -/
def waitingAdd : TileOp := ⟨6#4, 2#32, 0#32, 1#32, 0x140#32, 4#64⟩

theorem test_witness_TileSync :
    Issuing (lab (eight 0#32)) labCur (labGang (eight 0#32)) (eight 0#32) ∧
    (∀ m ∈ eight 0#32, m.core = 0 ∧ m.oct = 0) ∧ ((lab (eight 0#32)).octet 0 0).queue = [] ∧
    (∀ m ∈ eight 0#32, (lab (eight 0#32)).storesPending m.sid [.accum] = false) ∧
    (let s : State := { lab (eight 0#32) with octets := [⟨0, 0, 0#32, [queued waitingAdd], 0#32, 0⟩] }
     Issuing s labCur (labGang (eight 0#32)) (eight 0#32) ∧ (s.octet 0 0).queue ≠ []) ∧
    (let s : State := { lab (eight 0#32) with txns := [⟨5, .store none, 0, 0, 0#32, 4, false, [⟨1, 0, 4#64, 1#4, [], 0#32, false⟩],
       [⟨1, 0, 0, 0xFD00000000000000#64, 0#64, 0#32, none⟩], none, [], 0, false⟩] }
     Issuing s labCur (labGang (eight 0#32)) (eight 0#32) ∧ ∃ m ∈ eight 0#32, s.storesPending m.sid [.accum] = true) :=
  ⟨test_witness_Issuing_eight, by decide +kernel, by decide +kernel, by decide +kernel,
   ⟨⟨rfl, by decide +kernel, by decide +kernel, by decide +kernel, by decide +kernel⟩, by decide +kernel⟩,
   ⟨rfl, by decide +kernel, by decide +kernel, by decide +kernel, by decide +kernel⟩, by decide +kernel⟩

/-! ### Witnesses: memory and translation -/

/-- An operation of lane 0 of slice 1. -/
def txn (kind : TxnKind) (size : Nat) (addr data : DWord) (dst : List RegName) : Txn :=
  ⟨5, kind, 0, 0, 0#32, size, false, [⟨1, 0, 4#64, 1#4, dst, 0#32, false⟩], [⟨1, 0, 0, addr, data, 0#32, none⟩], none, [], 0, false⟩

/-- The small machine with an outstanding operation. -/
def pending (t : Txn) : State := { lab (one 0#32) with txns := [t] }

/-- Line k of page 0 of ASID 0, from the frame at 3 MiB, readable and writable, in the caches of core 0 and of domain 0. -/
def cachedLine (k : Nat) : Line :=
  ⟨0#16, 128 * k, 0x300000 + 128 * k, false, [.l1 0, .l2 0, .l3].map fun c => ⟨c, false, true, true⟩⟩

/-- The same, with the line at global address 0 in the caches. -/
def pendingGlobal (t : Txn) : State := { pending t with lines := [cachedLine 0] }

/-- A scratchpad address and a global one. -/
def scratchAddr : DWord := 0xFE00000000000100#64

theorem test_witness_MemoryLaws : Mem.wf [(3, 7#8), (9, 1#8)] = true ∧ 258 < 2 ^ (8 * [1#8, 2#8].length) := by decide

theorem test_witness_LoadFills :
    let t := txn (.load none) 4 scratchAddr 0#64 [.v 1]
    Due (pending t) t :=
  ⟨by decide +kernel, by decide +kernel, by decide +kernel, by decide +kernel⟩

theorem test_witness_StorePerformed :
    (let t := txn (.store none) 4 scratchAddr 0x55667788#64 []
     Due (pending t) t ∧ windowOf scratchAddr = some .scratch ∧ ((pending t).core 0).spad.wf = true) ∧
    (let t := txn (.store none) 4 0x10#64 0x55667788#64 []
     let s := pendingGlobal t
     Due s t ∧ windowOf 0x10#64 = some .global ∧ s.landing? 0 0x10 = none ∧ (s.hit? (viaCore t.core) (s.txnAsid t) 0x10).isSome = true ∧ s.writes = [] ∧
       0x10 / 128 = (0x10 + 4 - 1) / 128) :=
  ⟨⟨⟨by decide +kernel, by decide +kernel, by decide +kernel, by decide +kernel⟩, by decide +kernel, by decide +kernel⟩,
   ⟨⟨by decide +kernel, by decide +kernel, by decide +kernel, by decide +kernel⟩, by decide +kernel, by decide +kernel, by decide +kernel,
    by decide +kernel, by decide +kernel⟩⟩

theorem test_witness_WriteApplied :
    let w : DieWrite := ⟨5, 0#16, 0x10, [1#8, 2#8], 1, 2#5, [], [], [], 0, none⟩
    let s : State := { lab (one 0#32) with writes := [w], lines := [cachedLine 0] }
    (∃ die : Fin 5, s.mayApply w die = true) ∧ (∀ va < 0x12, 0x10 ≤ va → s.tagOf w.asid va = w.asid) ∧ s.cdata.wf = true := by
  decide +kernel

theorem test_witness_AtomicPerformed :
    (let t := txn (.atomic .add .s32 .unpaired .relaxed .die true) 4 scratchAddr 3#64 [.v 1]
     Due (pending t) t ∧ t.size = 4 ∧ windowOf scratchAddr = some .scratch ∧ t.core < 192 ∧ ((pending t).core t.core).spad.wf = true) ∧
    (let t := txn .amaxx 4 scratchAddr 3#64 [.s 1]
     Due (pending t) t) :=
  ⟨⟨⟨by decide +kernel, by decide +kernel, by decide +kernel, by decide +kernel⟩, rfl, by decide +kernel, by decide +kernel,
    by decide +kernel⟩, ⟨by decide +kernel, by decide +kernel, by decide +kernel, by decide +kernel⟩⟩

theorem test_witness_BarrierPerformed : ∀ k ∈ [TxnKind.barr false, .bart true],
    let t := txn k 4 scratchAddr 0#64 [.s 1]
    Due (pending t) t ∧ (pending t).slice? 1 = some (labSlice 0#32 0) ∧ ((pending t).core t.core).spad.wf = true := by
  intro k hk
  fin_cases hk <;> exact ⟨⟨by decide +kernel, by decide +kernel, by decide +kernel, by decide +kernel⟩, by decide +kernel, by decide +kernel⟩

/-- A load of global address 0x10, not translated. -/
def strayLoad : Txn := txn (.load none) 4 0x10#64 0#64 [.v 1]

/-- Page tables of ASID 0 whose leaf for the 64 KiB page of an address is `e`, in the stack that page is walked in. -/
def tables (va e : Nat) : Mem :=
  let b := 2 ^ 36 * walkStack 0#16 va
  writeLE (writeLE (writeLE (writeLE [] (b + 0x202000 + 8 * (va / 2 ^ 16 % 32)) 8 e) (b + 0x201000 + 8 * (va / 2 ^ 21 % 512)) 8 (b + 0x2020C1))
    (b + 0x200000 + 8 * (va / 2 ^ 30 % 512)) 8 (b + 0x2010C1)) (b + 0x100000 + 8 * (va / 2 ^ 39)) 8 (b + 0x2000C1)

/-- A machine whose context 0 has ASID 0 and page tables that map the page of an address. -/
def paged (s : State) (va e : Nat) : State :=
  { s.setCtx 0 { s.ctx 0 with asid := some 0#16, roots := Vector.ofFn fun k : Fin 8 => BitVec.ofNat 64 (2 ^ 36 * k.val + 0x100000) } with
    hbm := tables va e }

/-- The same load with a leaf for page 0. -/
def mappedTo (e : Nat) : State := paged (pending strayLoad) 0 e

/-- Page 0 at the frame at 3 MiB, readable, writable, executable. -/
def mapped : State := mappedTo 0x30000F

/-- Slice 1 with a trap that waits for its accesses. -/
def trapping : Slice := { labSlice 0#32 0 with pend := some fullEmptyTrap }

/-- Slice 1 at the end of a path: its PC is the pending entry's. -/
def pathEnding : Slice := { labSlice 0#32 0 with stack := [⟨0#32, 15#4, false, 4#64⟩], rgnDepth := 1 }

/-- Slices 1 to 3 as one gang: two at the end of a path, the second with an entry without a lane on top; the third in the middle of one. -/
def pathPair : List Slice :=
  [pathEnding, { labSlice 0#32 1 with stack := [⟨0#32, 0#4, false, 4#64⟩, ⟨0#32, 12#4, true, 20#64⟩], rgnDepth := 2 }, labSlice 0#32 2]

theorem test_witness_TranslationSteps :
    (mapped.pageHeld 0#16 0x10 = false ∧ mapped.walkLane 0#16 0 = some (strayLoad, ⟨1, 0, 0, 0x10#64, 0#64, 0#32, none⟩) ∧
      mapped.walk 0#16 0x10 = .leaf ⟨0x300000, 0, false, true, true, true⟩ ∧ mapped.tlb = [] ∧
      Leaf.grants ⟨0x300000, 0, false, true, true, true⟩ strayLoad.kind.acc = true) ∧
    (let s := pending strayLoad
     s.pageHeld 0#16 0x10 = false ∧ s.walkLane 0#16 0 = some (strayLoad, ⟨1, 0, 0, 0x10#64, 0#64, 0#32, none⟩) ∧
      s.walk 0#16 0x10 = .fault 6#5 1#8 ∧ (s.slice? 1).isSome = true ∧ strayLoad.discarded 1 = false) ∧
    (let s : State := { pending strayLoad with firstFaults := [⟨0#16, 0, 1, none, 6#5, 1#8⟩] }
     s.txn? 5 = some strayLoad ∧ (strayLoad.parts.filter fun p => strayLoad.lanes.any fun l => l.sid == p.sid && s.laneFaulted strayLoad l) =
        strayLoad.parts ∧ s.slice? 1 = some (labSlice 0#32 0) ∧ (labSlice 0#32 0).pend = none ∧ (labSlice 0#32 0).late = false ∧
      s.gangOf 1 = some (labGang (one 0#32)) ∧ s.mayIssue (labGang (one 0#32)) = true ∧
      (let u : State := { s with gangs := [{ labGang (one 0#32) with wait := .parked 1 (.v 1) }] }
       u.gangOf 1 = some { labGang (one 0#32) with wait := .parked 1 (.v 1) } ∧
         u.mayIssue { labGang (one 0#32) with wait := .parked 1 (.v 1) } = false ∧ (labSlice 0#32 0).place = .resident ∧
         (labSlice 0#32 0).stopped = false)) ∧
    ((mappedTo 0x300009).walk 0#16 0x10 = .leaf ⟨0x300000, 0, false, true, false, false⟩ ∧
      Leaf.grants ⟨0x300000, 0, false, true, false, false⟩ strayLoad.kind.acc = false) ∧
    (mappedTo 0x300011).walk 0#16 0x10 = .malformed 0x202000 ∧
    (let s := lab [trapping]
     s.sliceAt 0 0 = some trapping ∧ s.slice? 1 = some trapping ∧ trapping.pend = some fullEmptyTrap ∧ fullEmptyTrap.late = false ∧
      modeSup trapping.mode = false ∧ s.resolved 1 = true ∧ s.faultedTxns 1 = [] ∧ s.vectorOf trapping ≠ 0#64) ∧
    (let s := lab pathPair
     s.sliceAt 0 0 = some pathEnding ∧ s.gangOf 1 = some (labGang pathPair) ∧ (labGang pathPair).wait = .ready ∧
      (labGang pathPair).members.Nodup ∧ s.membersOf (labGang pathPair) = pathPair ∧ pathEnding.pathEnds = true ∧ pathEnding.stopped = false ∧
      (pathPair.map fun x => x.pathEnds) = [true, true, false]) ∧
    ∀ x ∈ (lab pathPair).membersOf (labGang pathPair), Claims.still (lab pathPair) x :=
  by refine ⟨?_, ?_, ?_, ?_, ?_, ?_, ?_, by unfold Claims.still; decide +kernel⟩ <;> decide +kernel

/-! ### Witnesses: gangs, presences, waves -/

/-- An entry of a node, of rank 0. -/
def entry (id : Nat) (kind : EntryKind) : Entry := ⟨id, kind, 0#16, 0#64, 0#128⟩

/-- A node with a descriptor and entries. -/
def node (n : BitVec 16) (d : BitVec 512) (es : List Entry) : NodeRec := ⟨n, d, es, 0#48, 0#48, 0#48, 0#48⟩

/-- Context 0 has room for 64 units of images. -/
def roomy (s : State) : State := s.setCtx 0 { s.ctx 0 with savelen := 0xC50000#64 }

/-- The gang of one slice, parked on its empty s[4]. -/
def parkedGang : Gang := { labGang [lacking] with wait := .parked 1 (.s 4) }

/-- The gang of two slices, parked on the empty s[4] of the second, and the machine in which it may be swapped out: the units of its
images lie in one page at 3 MiB. -/
def parkedPair : Gang := { labGang lackingPair with wait := .parked 2 (.s 4) }

def leavingPair : State := paged (roomy { lab lackingPair with gangs := [parkedPair] }) 0xC10000 0x30000F

/-- Slice 1 in an image of the save arena. -/
def savedSlice : Slice := { labSlice 0#32 0 with place := .saved }

/-- The image of the presence of the wave on core 0. -/
def image : Presence :=
  ⟨0#32, 0, 0, ⟨0#32, 0, 65536, 0, 64, 0, 4⟩, [], [], [], [], [], [], [{ labGang (one 0#32) with wait := .held false }], [], none, [], true⟩

/-- A swapped-out gang of slice 1, whose image is in unit 0. -/
def parked : Park := ⟨parkedGang, 0, 0#32, 0#128, [⟨1, 0, []⟩], true⟩

/-- A wave that needs more scratchpad than a core has, of one block, which domain 0 owns. -/
def hungry : Wave := { labWave with num := 7#32, n := 8, spadU := 1000, blocks := [⟨0, 0⟩], rank := 0xFFF0#16 }

/-- The LAUNCH record of a wave with one staging descriptor: 4 KiB from line 0 of the global window to the share's start. -/
def stagedRecord : BitVec 512 := ((1#512 <<< 192) ||| (1#512 <<< 32))

/-- A task of context 0 with a record. -/
def task (record : BitVec 512) : Task := ⟨3, 0, record, 0#64, 0x1000#16, [], .waiting, none, 0#32, none, [], [], 0⟩

/-- The wave stands in the wave leaf of core 0, no segment staged; its source lies in one page of the global window. -/
def staging : State :=
  { lab (one 0#32) with
    waves := [{ labWave with task := 3 }], tasks := [task stagedRecord], nodes := [node (waveLeaf 0) 0#512 [entry 8 (.wave 0#32 (some 0))]]
    lines := (List.range 32).map cachedLine }

theorem test_witness_GangSteps :
    (let s : State := { half with regangs := [⟨4, 0#32, 0#32, 4#64, [1], true⟩] }
     s.regangs.find? (fun x => x.id == 4 && x.timed) = some ⟨4, 0#32, 0#32, 4#64, [1], true⟩ ∧
       ∃ x ∈ s.slices, x.sid = 1 ∧ x.place = .resident) ∧
    (parkedPair ∈ leavingPair.gangs ∧ leavingPair.maySwap parkedPair = true ∧ leavingPair.membersOf parkedPair = lackingPair ∧
       (∀ x ∈ leavingPair.gangs, x.core = 0 → x.octet = 0 → leavingPair.maySwap x = true → x = parkedPair ∨ parkedPair.since < x.since) ∧
       (∀ x ∈ lackingPair, x.stack.length ≤ 12 ∧ x.sup.length ≤ 4) ∧
       (match exec (.gangSwapOut 0 0) leavingPair with
        | .next t => t.parks.map (fun p => (p.ctx, p.image.map fun i => (i.sid, i.unit))) == [(0, [(1, 0), (2, 1)])]
        | _ => false) = true) ∧
    (let s : State := paged (roomy { lab [{ labSlice 0#32 0 with place := .swapped }] with
       gangs := [], parks := [parked], nodes := [node (waveLeaf 0) 0#512 [entry 8 (.gang 9)]] }) 0xC10000 0x30000F
     s.nextReturn 0 = some (.gang parked 0 8) ∧ (s.slice? 1).isSome = true ∧ parked.gang.members.contains 1 = true ∧
       s.walk (s.asidOf 0) (s.arenaVa 0 (unitOff 0)) = .leaf ⟨0x300000, 0, false, true, true, true⟩) ∧
    (let s : State := roomy { lab (one 0#32) with
      waves := [labWave, hungry], nodes := [node (waveLeaf 0) (1#512 <<< 64) [{ entry 8 (.wave 0#32 none) with rank := 0x10#16 }]] }
     s.wave? 7#32 = some hungry ∧ hungry.lowBlock 0 = some ⟨0, 0⟩ ∧ s.isIn 0 0 = true ∧ s.online.getLsbD 0 = true ∧
       (∀ j ∈ coresOf 0, s.canPlace j hungry = false) ∧ (coresOf 0).find? (fun j => s.wavePasses j hungry) = some 0 ∧
       s.victim 0 = some (labWave, { entry 8 (.wave 0#32 none) with rank := 0x10#16 }) ∧ s.saveReady 0 0#32 = true ∧
       (s.slices.map (·.sid)).Nodup) ∧
    (let s : State := { lab [savedSlice] with
      gangs := [], presences := [image], nodes := [node (waveLeaf 0) 0#512 [entry 8 (.presence 0#32)]], cores := State.reset.cores }
     (∃ h m, s.nextReturn 0 = some (.presence image h m 8)) ∧ (∀ x ∈ (s.readPresence image).2.slices, x.late = false) ∧
       (s.core 0).spad.wf = true ∧ (s.readPresence image).1.spad.wf = true) ∧
    (staging.stagingEntry 0 = some (entry 8 (.wave 0#32 (some 0)), 0#32, 0) ∧
      (stagingPieces (staging.waveRecord 0#32))[0]? = some (0, 0) ∧
      staging.rangeHeld (coreDie 0) (staging.asidOf (staging.ctxOfWave 0#32)) 0 4096 .r = false ∧ staging.fab.copying = false ∧
      (match staging.readErr (coreDie 0) (staging.ctxOfWave 0#32) 0 4096 with
       | .ok r => (r.2.core 0).spad.wf
       | .error _ => false) = true ∧ (staging.core 0).retired = false) :=
  by
  refine ⟨?_, ?_, ?_, ?_, ⟨⟨⟨0#32, 0, 65536, 0, 64, 0, 0⟩, [(0, 0)], ?_⟩, ?_⟩, ?_⟩ <;> decide +kernel

/-- Nothing is on its way in the machine that saves a gang, and no table of its context stands in the units its images take. -/
theorem test_witness_GangSteps_settled :
    Settled leavingPair ∧ Placed leavingPair 0 [0, 1] (fun n => 0x300000 + 4096 * n) := by
  refine ⟨⟨⟨rfl, by decide +kernel⟩, rfl, rfl, by decide +kernel⟩, by decide, fun h same n hn k hk => ?_⟩
  refine ⟨⟨0x300000, 0, false, true, true, true⟩, ?_, rfl, ?_⟩
  · refine (State.walk_congr (s := leavingPair) h _ _ rfl fun pa hpa => readBytes_congr fun c _ hc => same c fun i hi => ?_).trans ?_
    · have clear : ∀ n ∈ [0, 1], ∀ k ∈ [0, waitsOff], ∀ pa ∈ leavingPair.walkReads (leavingPair.asidOf 0)
          (leavingPair.arenaVa 0 (unitOff n) + k), pa + 8 ≤ 0x300000 ∨ 0x302000 ≤ pa := by decide +kernel
      have := clear n hn k (by simpa using hk) pa hpa
      have : i = 0 ∨ i = 1 := by simpa using hi
      omega
    · have leaf : ∀ n ∈ [0, 1], ∀ k ∈ [0, waitsOff], leavingPair.walk (leavingPair.asidOf 0) (leavingPair.arenaVa 0 (unitOff n) + k) =
          .leaf ⟨0x300000, 0, false, true, true, true⟩ := by decide +kernel
      exact leaf n hn k (by simpa using hk)
  · have : ∀ n ∈ [0, 1], ∀ k ∈ [0, waitsOff], 0x300000 + (leavingPair.arenaVa 0 (unitOff n) + k) % 2 ^ pageShift 0 = 0x300000 + 4096 * n + k := by
      decide +kernel
    exact this n hn k (by simpa using hk)

/-- A wave with two blocks that domain 0 owns. -/
def twoBlocks : Wave := { labWave with num := 7#32, n := 16, dies := 3#4, blocks := [⟨0, 0⟩, ⟨1, 0⟩] }

theorem test_witness_PlacementSteps :
    (let s : State := { lab (one 0#32) with waves := [labWave, twoBlocks], launches := State.reset.launches.set 0 [entry 8 (.wave 7#32 none)] }
     (s.listed 0).findSome? (fun p => ((coresOf 0).find? fun k => s.canPlace k p.1).map fun k => (k, p)) = some (0, twoBlocks, ⟨0, 0⟩)) ∧
    (let s : State := { lab (one 0#32) with waves := [labWave, twoBlocks] }
     s.wave? 7#32 = some twoBlocks ∧ twoBlocks.dies.getLsbD 1 = true ∧ s.isIn 0 1 = true ∧ twoBlocks.owned 1 = [] ∧
       ∃ k ∈ coresOf 1, s.canPlace k twoBlocks = true) ∧
    (let s : State := { lab (one 0#32) with
      serving := [⟨matrixLeaf 0, matrixLeaf 0, 8, some (matrixLeaf 0)⟩]
      nodes := [node (matrixLeaf 0) (1#512 <<< 64) [{ entry 6 (.octet 1) with rank := 0xFFF0#16 }, entry 8 (.octet 0)]] }
     leafEngine (matrixLeaf 0) = some (matrixLeaf 0) ∧ s.serving? (matrixLeaf 0) = some ⟨matrixLeaf 0, matrixLeaf 0, 8, some (matrixLeaf 0)⟩ ∧
       s.servedEntry ⟨matrixLeaf 0, matrixLeaf 0, 8, some (matrixLeaf 0)⟩ = some (entry 8 (.octet 0))) :=
  ⟨by decide +kernel, by decide +kernel, by decide +kernel⟩

/-! ### Witnesses: engines, tiles, the rank tree -/

/-- A descriptor in little-endian order (R240). -/
def desc (src dst : DWord) (w4 w5 w6 ctl : Word) : List Byte :=
  toBytes 8 src.toNat ++ toBytes 8 dst.toNat ++ toBytes 4 w4.toNat ++ toBytes 4 w5.toNat ++ toBytes 4 w6.toNat ++ toBytes 4 ctl.toNat

/-- A command of slice 1 in queue 2 of core 0. -/
def command (kind : CmdKind) (d : List Byte) (checked : Bool) (unit : Nat) : Cmd :=
  ⟨6, 0, 0, 2, 0, 0#32, 1, kind, true, 7, none, d, List.replicate 4 0#8, true, checked, unit, 0#8⟩

/-- The small machine with a command at the head of a leaf of cluster 0, which its engine performs. -/
def performing (leaf : BitVec 16) (c : Cmd) : State :=
  { lab (one 0#32) with
    cmds := [c], serving := [⟨leaf, leaf, 8, none⟩], nodes := [node leaf 0#512 [entry 8 (.command 6)]]
    txns := [⟨7, .token 6, 0, 0, 0#32, 4, true, [⟨1, 0, 4#64, 15#4, [.s 12], 0#32, false⟩], [], none, [], 0, false⟩] }

/-- CPY of 64 bytes within the scratchpad; with BEN set, its barrier word is at 0x40. -/
def copyCmd (checked : Bool) (unit : Nat) (ctl : Word) : Cmd :=
  command .cpy (desc 0xFE00000000000100#64 0xFE00000000000200#64 64#32 0#32 0#32 ctl) checked unit

/-- CPYS of two rows of 32 bytes, 64 bytes apart at its source; CPYAM of 16 FP32 elements with its amax word at 0x400; CBDC of 4 indices
to E4M3 with their scale at 0x400; SHLD of shell table 3. -/
def engineCmds : List Cmd :=
  [copyCmd false 0 0#32, copyCmd true 0 0#32,
   command .cpys (desc 0xFE00000000000100#64 0xFE00000000000200#64 0x100020#32 64#32 32#32 0#32) false 0,
   command .cpyam (desc 0xFE00000000000100#64 0xFE00000000000200#64 64#32 0x400#32 0xFE000000#32 0#32) false 0,
   command .cbdc (desc 0xFE00000000000100#64 0xFE00000000000200#64 4#32 0x400#32 0xFE000000#32 0#32) false 0,
   command (.shld 3) (List.replicate 1024 5#8) false 0]

/-- A copy of 64 bytes between the scratchpad and the global window. -/
def crossCmd (out : Bool) : Cmd :=
  command .cpy (if out then desc 0xFE00000000000100#64 0x20#64 64#32 0#32 0#32 0#32 else desc 0x20#64 0xFE00000000000100#64 64#32 0#32 0#32 0#32)
    false 0

/-- GATH or SCAT of three rows of 64 bytes within the scratchpad, the index list at 0x400: index 2, a row left out, and index 1. -/
def gatherCmd (kind : CmdKind) (checked : Bool) : Cmd :=
  { command kind (desc 0xFE00000000000100#64 0xFE00000000000200#64 3#32 0x400#32 64#32 0#32) checked 0 with index := [] }

/-- The machine that performs it. -/
def gathering (kind : CmdKind) : State :=
  let s := performing (gatherLeaf 0) (gatherCmd kind false)
  { s with cores := s.cores.set 0 { s.cores.get 0 with spad := writeBytes [] 0x400 (toBytes 4 2 ++ toBytes 4 0xFFFFFFFF ++ toBytes 4 1) } }

/-- The conditions on a command at the head of a leaf whose check passes now or has passed. -/
def goesReady (s : State) (leaf : BitVec 16) (c : Cmd) : Bool :=
  s.serving? leaf == some ⟨leaf, leaf, 8, none⟩ && s.servedEntry ⟨leaf, leaf, 8, none⟩ == some (entry 8 (.command 6)) && !s.fab.copying &&
    s.entryCmd (entry 8 (.command 6)) == some c && (if c.checked then c.err == 0#8 else s.checkCmd c == 0#8) && decide (c.unit < c.units) &&
    s.cmds == [c] && decide (c.core < 192) && (s.core c.core).spad.wf

theorem goes_of_ready (s : State) (leaf : BitVec 16) (c : Cmd) (h : goesReady s leaf c = true) :
    Claims.Serves s leaf (entry 8 (.command 6)) ∧ s.entryCmd (entry 8 (.command 6)) = some c ∧ Claims.Goes s c := by
  simp only [goesReady, Bool.and_eq_true, beq_iff_eq, Bool.not_eq_true', decide_eq_true_eq] at h
  obtain ⟨⟨⟨⟨⟨⟨⟨⟨h1, h2⟩, h3⟩, h4⟩, h5⟩, h6⟩, h7⟩, h8⟩, h9⟩ := h
  refine ⟨⟨⟨_, h1, h2, rfl⟩, h3⟩, h4, ?_, h6, ?_, h8, h9⟩
  · cases hc : c.checked <;> simp [hc] at h5 ⊢ <;> exact h5
  · rw [h7]; intro x hx _; exact List.mem_singleton.1 hx

theorem test_witness_EngineSteps_segments : ∀ c ∈ engineCmds, let s := performing (engineLeaf 0) c
    s.boardingDue 0 = false ∧ goesReady s (engineLeaf 0) c = true ∧
      ((c.kind = .cpy ∨ c.kind = .cpys ∨ c.kind = .cpyam) →
        ∀ p ∈ Claims.pieces c, windowOf p.1 = some .scratch ∧ windowOf p.2.1 = some .scratch) ∧
      (c.kind = .cpyam → windowOf (dAux c.d) = some .scratch) ∧
      (c.kind = .cbdc → ctlFmt (dCtl c.d) ≠ 3 ∧ windowOf (dSrc c.d) = some .scratch ∧ windowOf (dAux c.d) = some .scratch ∧
        windowOf (dDst c.d) = some .scratch) := by
  intro c h
  fin_cases h <;> decide +kernel

theorem test_witness_EngineSteps_global : ∀ out : Bool, let c := crossCmd out
    let s : State := { performing (engineLeaf 0) c with lines := [cachedLine 0] }
    s.boardingDue 0 = false ∧ goesReady s (engineLeaf 0) c = true ∧ c.kind = .cpy ∧ s.poison = [] ∧ min 4096 (dLen c.d - 4096 * c.unit) = 64 ∧
      windowOf (if out then dDst c.d else dSrc c.d) = some .global ∧ windowOf (if out then dSrc c.d else dDst c.d) = some .scratch ∧
      offsetOf (if out then dDst c.d else dSrc c.d) = 0x20 ∧ 0x20 / 128 = (0x20 + 64 - 1) / 128 ∧
      s.granted (viaDie (coreDie 0)) (s.asidOf 0) 0x20 .r = true ∧ s.granted (viaDie (coreDie 0)) (s.asidOf 0) 0x20 .w = true ∧
      (s.hit? (viaDie (coreDie 0)) (s.asidOf 0) 0x20).isSome = true ∧ s.writes = [] ∧ s.cdata.wf = true := by
  decide +kernel

/-- Two of the three rows move: by an index that is not all ones. -/
theorem test_witness_EngineSteps_rows : ∀ k ∈ [CmdKind.gath, .scat], let c := gatherCmd k false
    let s := gathering k
    goesReady s (gatherLeaf 0) c = true ∧ (Claims.blockRows s c).map (fun p => (offsetOf p.1, offsetOf p.2)) =
        (if k = .gath then [(0x180, 0x200), (0x140, 0x280)] else [(0x100, 0x280), (0x180, 0x240)]) ∧
      ∀ p ∈ Claims.blockRows s c, windowOf p.1 = some .scratch ∧ windowOf p.2 = some .scratch := by
  have near : ∀ k ∈ [CmdKind.gath, .scat], (Claims.blockRows (gathering k) (gatherCmd k false)).all
      (fun p => windowOf p.1 == some .scratch && windowOf p.2 == some .scratch) = true := by decide +kernel
  intro k h
  refine ⟨?_, ?_, fun p hp => by simpa using List.all_eq_true.1 (near k h) p hp⟩ <;> fin_cases h <;> decide +kernel

theorem test_witness_EngineSteps :
    (let s := performing (engineLeaf 0) (copyCmd false 0 1#32)
     s.boardingDue 0 = false ∧ Claims.Serves s (engineLeaf 0) (entry 8 (.command 6)) ∧
       s.entryCmd (entry 8 (.command 6)) = some (copyCmd false 0 1#32) ∧ (copyCmd false 0 1#32).fieldBad = true) ∧
    (let c := copyCmd true 1 0x80000040#32
     let s := performing (engineLeaf 0) c
     s.cmds.find? (fun x => x.id == c.id) = some c ∧ c.finished = true ∧ s.isSaved c.core c.wave = false ∧
       (s.txns.find? (fun t => t.id == c.txn && t.kind == .token c.id)).isSome = true ∧ ctlBen (dCtl c.d) = true ∧ s.boffBad c = false ∧
       (s.core c.core).spad.wf = true) ∧
    (let c : Cmd := { copyCmd true 1 0#32 with task := some 3 }
     let s := performing (engineLeaf 0) c
     s.cmds.find? (fun x => x.id == c.id) = some c ∧ c.finished = true ∧ s.isSaved c.core c.wave = false) :=
  ⟨⟨by decide +kernel, ⟨⟨⟨engineLeaf 0, engineLeaf 0, 8, none⟩, by decide +kernel⟩, rfl⟩, by decide +kernel⟩, by decide +kernel, by decide +kernel⟩

/-- The tile instructions whose elements `tileValue` gives: TMMA and TMMAT on integers, on FP16 and on MX elements, each with two K rows
or one; TTRN, TSCL and TADD on integers and on FP32; TZERO, TACCW, TACCL. -/
def tileOps : List TileOp :=
  [⟨1#4, 2#32, 0#32, 0x10000#32, 0x100#32, 4#64⟩, ⟨2#4, 2#32, 0#32, 0#32, 0x100#32, 4#64⟩, ⟨1#4, 2#32, 0#32, 0x10000#32, 0x40#32, 4#64⟩,
   ⟨2#4, 2#32, 0#32, 0#32, 0xA0#32, 4#64⟩, ⟨3#4, 2#32, 0#32, 0#32, 0#32, 4#64⟩, ⟨4#4, 2#32, 0#32, 3#32, 0x140#32, 4#64⟩,
   ⟨4#4, 2#32, 0#32, 3#32, 0#32, 4#64⟩, ⟨5#4, 2#32, 0#32, 15#32, 0#32, 4#64⟩, waitingAdd, { waitingAdd with mode := 0#32 },
   ⟨8#4, 2#32, 0#32, 15#32, 0#32, 4#64⟩, ⟨10#4, 2#32, 0#32, 0#32, 0x140#32, 4#64⟩, ⟨10#4, 2#32, 0#32, 0#32, 0x20#32, 4#64⟩]

/-- The small machine with a tile instruction at the head of octet 0, served by the array of core 0, which has done `row` of its K rows; a
TACCR's registers wait for it. -/
def tiling (x : TileEntry) (row : Nat) : State :=
  { lab (eight 0x140#32) with
    octets := [⟨0, 0, 0#32, [x], 0#32, row⟩], txns := [⟨11, .taccr 5, 0, 0, 0#32, 4, false, [⟨1, 0, 4#64, 15#4, [.v 3], 0#32, false⟩], [], none, [], 0, false⟩]
    serving := [⟨matrixLeaf 0, matrixLeaf 0, 8, none⟩], nodes := [node (matrixLeaf 0) 0#512 [entry 8 (.octet 0)]] }

/-- An instruction at the head of its queue, with younger ones that have passed it. -/
def heads (op : TileOp) (txn : Option Nat) : TileEntry := { queued op with open_ := false, later := 8, txn := txn }

theorem tiling_atArray (op : TileOp) (txn : Option Nat) (row : Nat) : Claims.AtArray (tiling (heads op txn) row) 0 0 (heads op txn) [] :=
  ⟨⟨entry 8 (.octet 0), ⟨⟨⟨matrixLeaf 0, matrixLeaf 0, 8, none⟩, rfl, rfl, rfl⟩, rfl⟩, rfl⟩, rfl, by decide, rfl, rfl, rfl, rfl⟩

theorem test_witness_TilePerformed : ∀ op ∈ tileOps, let s := tiling (heads op none) 0
    (Claims.tileValue (s.core 0) ((s.core 0).share 0#32) (s.octet 0 0).tsa op (heads op none).rows (s.octet 0 0).resume).isSome = true := by
  intro op h
  fin_cases h <;> decide +kernel

/-- TACCS of an FP32 and of an INT8 tile, TLDB of data and of scales with its second and last row next, TMXS, TACCR. -/
theorem test_witness_TilePerformed_others :
    (imageFmt (modeEtype 0#32)).isSome = true ∧ (imageFmt (modeEtype 0x100#32)).isSome = true ∧
    (let s := tiling (heads ⟨0#4, 0#32, 0x100#32, 0x10000#32, 0#32, 4#64⟩ none) 1
     ((s.core 0).share 0#32).rows + tdBrow 0x10000#32 + (s.octet 0 0).resume < 512 ∧ tdSide 0x10000#32 = false ∧ tdSide 0x410000#32 = true) ∧
    (let s := tiling (heads ⟨7#4, 0#32, 2#32, 5#32, 0#32, 4#64⟩ (some 11)) 0
     (s.txns.find? (fun t => t.id == 11)).map (fun u => u.parts.map (·.sid)) = some [1]) := by
  decide +kernel

/-- The record of a COPY for the copy engine of cluster 0, with its body at 0. -/
def copyRecord : BitVec 512 := (0x400#512 <<< 48) ||| (1#512 <<< 24)

/-- The record of a bundle with its body at 0. -/
def bundleRecord : BitVec 512 := 2#512 <<< 24

/-- A task at the head of inner node 0, of CAP 8. -/
def heading (k : Task) : State :=
  { lab (one 0#32) with
    tasks := [k], nodes := [node 0#16 (8#512 <<< 32) [entry 8 (.task 3)]]
    lines := (List.range 2).map cachedLine }

/-- A launch record at address 0: one slice on domain 0, entry 0x40. -/
def launching : State :=
  let s := heading (task 0#512)
  { s.setCtx 0 { s.ctx 0 with dmask := 15#4 } with
    cdata := writeLE [] 0 128 ((0x40#1024 ||| (8#1024 <<< 128) ||| (1#1024 <<< 160) : BitVec 1024)).toNat }

/-- A COPY whose body says where STAT goes, ready to finish. -/
def finishing : Task := { task copyRecord with phase := .ending 0x80000001#32, body := List.replicate 48 1#8 }

/-- Contexts 0 and 1 take turns on domain 0. -/
def sharing : State :=
  let s := lab (one 0#32)
  let s := s.setCtx 0 { s.ctx 0 with asid := some 0#16, sched := true, dmask := 1#4, savelen := 0xC50000#64 }
  s.setCtx 1 { s.ctx 1 with asid := some 1#16, sched := true, dmask := 1#4 }

theorem test_witness_TreeSteps :
    (let s : State := { lab (one 0#32) with nodes := [node 0#16 ((8#512 <<< 32) ||| (1#512 <<< 54)) [entry 8 (.task 3)]] }
     s.nodeKnown 0#16 = true ∧ descRefresh (s.node 0#16).desc ≠ 0) ∧
    (let k := task copyRecord
     let s := heading k
     isInner 0#16 = true ∧ s.nodeKnown 0#16 = true ∧ s.entries 0#16 = [entry 8 (.task 3)] ∧ s.task? 3 = some k ∧ s.releases 0 = true ∧
       recKind k.record = 1 ∧ s.isIn 0 (engineDomain (recTgt k.record)) = true ∧
       s.nodeRoom (s.nextNode 0#16 (recTgt k.record)) = true ∧ s.nextNode 0#16 (recTgt k.record) ≠ 0#16 ∧
       (∀ n ∈ s.nodes, n.node < 0#16 → s.goesInto n (s.nextNode 0#16 (recTgt k.record)) = false)) ∧
    (recKind 0#512 = 0 ∧ (match launching.launchPlan 0 0#512 with
      | .goes _ _ rs => rs.isEmpty
      | _ => false) = true ∧ launching.releases 0 = true) ∧
    (match (heading (task 0#512)).launchPlan 0 0#512 with
      | .refused st _ _ => st == 3#32
      | _ => false) = true ∧
    (let s := heading finishing
     s.task? 3 = some finishing ∧ s.dueStat finishing = some 0x80000001#32 ∧ s.writes = [] ∧ s.finishHeld finishing = false) ∧
    (let s : State := heading finishing
     finishing.host = none ∧ finishing.bundle = none ∧ recKind finishing.record = 1 ∧
       windowOf (recBody finishing.record + 40#64) = some .global ∧ offsetOf (recBody finishing.record + 40#64) = 40 ∧
       s.granted (viaDie 4) 0#16 40 .w = true ∧ (s.hit? (viaDie 4) 0#16 40).isSome = true ∧
       ({ finishing with body := List.replicate 48 0#8 } : Task).finishAt = some (40, 0#64)) ∧
    (let k : Task := { task bundleRecord with body := [1#8], chosen := [copyRecord] }
     let s := heading k
     recKind k.record = 2 ∧ s.task? 3 = some k ∧ s.releases 0 = true ∧ recTgt copyRecord ≠ 0#16 ∧
       (s.entries (recTgt copyRecord)).length < 64) ∧
    (let k : Task := { task bundleRecord with phase := .running, chosen := [copyRecord], done := [(0, 0x80050000#32)] }
     k.done.length = k.chosen.length ∧ k.firstFailure = some 0x80050000#32) ∧
    (let k : Task := { task bundleRecord with phase := .running, chosen := [copyRecord], done := [(0, 0x80000001#32)] }
     k.firstFailure = none ∧ bunPhases (BitVec.ofNat 1280 (ofBytes k.body)) ≤ k.phases + 1) ∧
    (let k : Task := { task bundleRecord with
       entry := 0#16, phase := .running, chosen := [copyRecord], done := [(0, 0x80000001#32)], body := [1#8, 0#8, 1#8, 0#8] }
     k.firstFailure = none ∧ k.phases + 1 < bunPhases (BitVec.ofNat 1280 (ofBytes k.body)) ∧ (heading k).nodeRoom k.entry = true) ∧
    (sharing.turnOf 0 = some 0 ∧ sharing.nextTurn 0 0 = some 1 ∧
      (∀ p ∈ sharing.presencesOn 0 0, sharing.saveReady p.1 p.2.num = true) ∧
      sharing.unitsFit 0 ((sharing.presencesOn 0 0).map fun p => sharing.presenceUnits p.1 p.2).sum = true) :=
  by and_intros <;> decide +kernel

/-! ### Witnesses: the host -/

/-- A packet by its operation and arguments, without a buffer list. -/
def packet (op a0 a1 a2 a3 : Nat) : Nat := op + 2 ^ 64 * a0 + 2 ^ 128 * a1 + 2 ^ 192 * a2 + 2 ^ 256 * a3

/-- The small machine with a packet at the head of queue 0 of function 0: its ring at 0x1000 of host memory, its completion ring at
0x8000, 4 KiB of granted global memory in the caches, `bytes` at the start of it. -/
def hosting (p : Nat) (bytes : Nat) : State :=
  let s := lab (one 0#32)
  let q : HostQueue := ⟨0x1000#64, 0x42#32, 1#32, 0#32, 0x8000#64, 2#32, 0#32, 0#32, 0, [], []⟩
  let s := s.setCtx 0 { s.ctx 0 with
    asid := some 0#16, gbase := 0#64, glen := 0x1000#64, hwbase := 0#64, hwlen := 0x10000#64, queues := (s.ctx 0).queues.set 0 q }
  { s with
    hostMem := writeLE [] 0x1000 320 p, lines := (List.range 32).map cachedLine, cdata := writeLE [] 0 256 bytes
    nodes := [node 0#16 (8#512 <<< 32) []] }

/-- The conditions of `Performs`, for the head packet. -/
def headPerforms (s : State) (op : Nat) : Bool :=
  s.queueReady 0 0 && slotOp (s.headSlot 0 0) == op && s.packetFault 0 (s.headSlot 0 0) == none && !s.packetHeld 0 (s.headSlot 0 0) &&
    slotNbl (s.headSlot 0 0) == 0

theorem performs_of_head (s : State) (op : Nat) (h : headPerforms s op = true) : Claims.Performs s 0 0 op (s.headSlot 0 0) := by
  simp only [headPerforms, Bool.and_eq_true, beq_iff_eq, Bool.not_eq_true'] at h
  exact ⟨rfl, h.1.1.1.1, h.1.1.1.2, h.1.1.2, h.1.2, h.2⟩

/-- The header of a native object of one line of code, with one entry at 128 and no tables (R67). -/
def objectHead (fver : Nat) : Nat := 0x5A464331 * 2 ^ 224 + fver * 2 ^ 208 + 2 ^ 192 + 64 * 2 ^ 160 + 128 * 2 ^ 128

/-- LOAD of that object, 136 bytes at 0x2000 of host memory, to 0x100. -/
def loading (fver : Nat) : State :=
  let s := hosting (packet 2 0x2000 0x100 136 0) 0
  { s with hostMem := writeLE s.hostMem 0x2000 32 (objectHead fver) }

/-- What LOAD finds: whether its bytes could be put, and its status. -/
def loadResult (fver : Nat) : Bool × Nat × Nat :=
  let s := loading fver
  let o := readBytes s.hostMem 0x2000 136
  let w := (s.advanceHead 0 0).putBytes 0 0x100 o
  (w.1 && !hdrPortable (objHeader o), (w.2.invalidateRange (s.asidOf 0) 0x100 136).loadStatus 0 o 0#64)

/-- The conditions of the clause on DMA within a line, in the direction named. -/
def dmaReady (s : State) (out : Bool) : Prop :=
  headPerforms s 0x03 = true ∧ slotArg (s.headSlot 0 0) 1 = 0x40#64 ∧ windowOf 0x40#64 = some .global ∧ 0x40 / 128 = (0x40 + 8 - 1) / 128 ∧
    0 < ((slotArg (s.headSlot 0 0) 2).extractLsb' 0 32).toNat ∧ (slotArg (s.headSlot 0 0) 2).getLsbD 32 = out ∧
    (s.hit? (viaDie 4) 0#16 0x40).isSome = true ∧ s.poison = [] ∧ s.granted (viaDie 4) 0#16 0x40 .w = true ∧
    s.granted (viaDie 4) 0#16 0x40 .r = true ∧ s.landing? 0 0x40 = none ∧ s.writes = [] ∧ s.cdata.wf = true

/-- DMA of 8 bytes at 0x40, into the device or out of it. -/
def moving (dir : Nat) : State := hosting (packet 3 0x2000 0x40 (8 + 2 ^ 32 * dir) 0) 0

/-- A portable object of one NOP, with one entry at record 0, that the translator's cache holds as one line of NOPs. -/
def portableBits : Nat := objectHead 1 + 2 ^ 216 - 56 * 2 ^ 160 - 56 * 2 ^ 128

/-- LOAD of the object, 80 bytes, its lines to 0x400. -/
def loadingPortable : State :=
  let s := hosting (packet 2 0x2000 0x100 80 0x400) 0
  let m := writeLE s.hostMem 0x2000 32 portableBits
  { s with hostMem := m, ldcfg := 3#32, cached := [⟨readBytes m 0x2000 80, List.replicate 64 0#8, [4#32]⟩] }

set_option maxRecDepth 10000 in
theorem test_witness_HostPackets_portable :
    let s := loadingPortable
    let o := readBytes s.hostMem 0x2000 80
    let w := (s.advanceHead 0 0).putBytes 0 0x100 o
    let v := w.2.invalidateRange (s.asidOf 0) 0x100 80
    headPerforms s 0x02 = true ∧ hdrPortable (objHeader o) = true ∧ w.1 = true ∧ v.loadStatus 0 o 0x400#64 = (0, 0) ∧
      leavesGlobal 0x400#64 (hdrCodesz (objHeader o) + 64) = false ∧ (v.putNative 0 o 0x100 0x400).1 = true := by
  decide +kernel

theorem test_witness_HostPackets :
    Claims.Performs (hosting (packet 4 0 0 0 0) 0) 0 0 0x04 ((hosting (packet 4 0 0 0 0) 0).headSlot 0 0) ∧
    (let s := hosting (packet 1 0 0 0 0) (0xFFFF * 2 ^ 48)
     Claims.Performs s 0 0 0x01 (s.headSlot 0 0) ∧ slotArg (s.headSlot 0 0) 1 = 0#64 ∧ s.nodeKnown 0#16 = true ∧ isInner 0#16 = true ∧
       descCtx (s.node 0#16).desc = 0 ∧ (s.advanceHead 0 0).recordPoisoned 0 0#64 = false ∧
       (match (s.advanceHead 0 0).readRecord 4 0 0#64 with
        | some (bs, v) => (v.recordBad (BitVec.ofNat 512 (ofBytes bs)) (some 0#16)).isNone && v.nodeRoom 0#16
        | none => false) = true) ∧
    (let s := hosting (packet 1 0 0 0 0) 0
     Claims.Performs s 0 0 0x01 (s.headSlot 0 0) ∧ (s.advanceHead 0 0).recordPoisoned 0 0#64 = false ∧
       ((s.advanceHead 0 0).pushTask 4 0 0#64 0#32 (some 0)).2.1 = none) ∧
    (dmaReady (moving 0) false ∧ dmaReady (moving 1) true ∧ (moving 0).online ≠ 0#4 ∧ dmaReady { moving 0 with online := 0#4 } false) ∧
    (let s := hosting (packet 3 0x2000 0x40 0 0) 0
     Claims.Performs s 0 0 0x03 (s.headSlot 0 0) ∧ ((slotArg (s.headSlot 0 0) 2).extractLsb' 0 32).toNat = 0) ∧
    (let s : State := { moving 0 with ctxs := (moving 0).ctxs.set 0 { (moving 0).ctx 0 with glen := 0xFFFFFFFFFFFFFFFF#64 } }
     let u : State := { s with hostMem := writeLE [] 0x1000 320 (packet 3 0x2000 scratchAddr.toNat 8 0) }
     Claims.Performs u 0 0 0x03 (u.headSlot 0 0) ∧ windowOf (slotArg (u.headSlot 0 0) 1) ≠ some .global) ∧
    (let j : HostJob := ⟨0, 0, 0#2560, .writes [5] (Claims.plainly 0#8)⟩
     let s : State := hosting 0 0
     let s := s.setCtx 0 { s.ctx 0 with queues := (s.ctx 0).queues.set 0 { s.queue 0 0 with jobs := [j] } }
     (s.queue 0 0).jobs = [j] ∧ j.cq = (s.queue 0 0).cqtail.toNat ∧ s.writes = []) ∧
    (∀ v ∈ [0, 1], Claims.Performs (loading v) 0 0 0x02 ((loading v).headSlot 0 0) ∧
      slotArg ((loading v).headSlot 0 0) 1 = 0x100#64 ∧ slotArg ((loading v).headSlot 0 0) 2 = 136#64 ∧ leavesGlobal 0x100#64 136 = false) ∧
    (loadResult 1 = (true, 0, 0) ∧ loadResult 0 = (true, 1, 0)) ∧
    (let s := hosting 0xFF 0
     s.queueReady 0 0 = true ∧ slotMalformed (s.headSlot 0 0) = true) ∧
    (let s := hosting (packet 3 0x2000 0x1000 8 0) 0
     s.queueReady 0 0 = true ∧ slotOp (s.headSlot 0 0) = 0x03 ∧ slotMalformed (s.headSlot 0 0) = false ∧ (s.ctx 0).asid ≠ none ∧
       s.capFault 0 (s.headSlot 0 0) = some 16) := by
  refine ⟨performs_of_head _ _ (by decide +kernel), ⟨performs_of_head _ _ (by decide +kernel), by decide +kernel⟩,
    ⟨performs_of_head _ _ (by decide +kernel), by decide +kernel⟩, ?_, ⟨performs_of_head _ _ (by decide +kernel), by decide +kernel⟩,
    ⟨performs_of_head _ _ (by decide +kernel), by decide +kernel⟩, by decide +kernel, ?_, by decide +kernel, by decide +kernel, by decide +kernel⟩
  · unfold dmaReady
    refine ⟨?_, ?_, ?_, ?_⟩ <;> decide +kernel
  · intro v h
    fin_cases h <;> exact ⟨performs_of_head _ _ (by decide +kernel), by decide +kernel⟩

/-- A context record of ASID 5 (R325), at 0x2000 of host memory: roots in their stacks, the smallest save arena. -/
def recordBits (asid : Nat) : Nat :=
  asid + 0xC20000 * 2 ^ 128 + ((List.range 8).map fun k => (k * 2 ^ 36) * 2 ^ (768 + 64 * k)).sum

/-- CTX of context 3. -/
def recording (bits : Nat) : State :=
  let s := hosting (packet 0x0B 0x2000 3 0 0) 0
  { s with hostMem := writeLE s.hostMem 0x2000 256 bits }

/-- The record with its rule image at 0x400, and a grant of 4 KiB, or none. -/
def ruledBits (glen : Nat) : Nat := recordBits 5 + 0x400 * 2 ^ 64 + glen * 2 ^ 512

/-- A field of the packet's object is read. -/
def fieldRead (s : State) (n : Nat) : Option (List Byte) :=
  match (s.advanceHead 0 0).readField 0 (slotArg (s.headSlot 0 0) 0) n with
  | .ok r => some r.1
  | .error _ => none

theorem test_witness_HostTables :
    (∀ d ∈ [0, 2 ^ 80], let s := hosting (packet 5 0 5 0 0) d
      headPerforms s 0x05 = true ∧ fieldRead s 64 = some (toBytes 64 d) ∧ isInner 5#16 = true ∧
        s.descRefused 5#16 (BitVec.ofNat 512 d) = decide (d ≠ 0)) ∧
    (∀ x ∈ [0xE000, 0], let s := hosting (packet 6 0 0x107 0 0) x
      headPerforms s 0x06 = true ∧ fieldRead s 32 = some (toBytes 32 x) ∧ progOk (BitVec.ofNat 256 x) = decide (x ≠ 0)) ∧
    (let s := hosting (packet 7 0 3 0 0) 0
     headPerforms s 0x07 = true ∧ fieldRead s 16 = some (toBytes 16 0) ∧ homeRefused s.online 0#128 = false) ∧
    (let s := hosting (packet 8 0 0x30000F 0 0) 0
     let t := s.setCtx 0 { s.ctx 0 with roots := Vector.ofFn fun k : Fin 8 => BitVec.ofNat 64 (k.val * 2 ^ 36) }
     headPerforms t 0x08 = true ∧ slotArg (t.headSlot 0 0) 2 = 0#64 ∧ t.sealed = [] ∧ t.hbm.wf = true ∧
       ∀ k < 8, t.root 0 k / 2 ^ 36 = k ∧ t.root 0 k % 2 ^ 20 = 0) ∧
    (let s := hosting (packet 9 0x2000 1 4 0) 0
     headPerforms { s with hostMem := writeLE s.hostMem 0x2000 8 0x400000 } 0x09 = true) ∧
    (∀ a ∈ [5, 0], headPerforms (recording (recordBits a)) 0x0B = true ∧
      ((recording (recordBits a)).advanceHead 0 0).recordRefused 3 0x2000#64 (BitVec.ofNat 2048 (recordBits a)) = decide (a = 0)) ∧
    (let s := hosting (packet 0x0C 0x2000 1 0 0) 0
     headPerforms s 0x0C = true ∧ s.online.getLsbD 1 = true) ∧
    (let s := hosting (packet 0x0D 0 1 0 0) 0
     headPerforms s 0x0D = true ∧ s.domainGone 1 = false) ∧
    (let s : State := { hosting (packet 0x0D 0 1 0 0) 0 with skipped := 2#4 }
     headPerforms s 0x0D = true ∧ s.domainGone 1 = true) := by
  refine ⟨?_, ?_, ?_, ?_, ?_, ?_, ?_, ?_, ?_⟩ <;> decide +kernel

/-- A record that names a rule image: one that can be read, and one whose grant does not reach it. -/
theorem test_witness_HostTables_record : ∀ g ∈ [0x1000, 0],
    let s := recording (ruledBits g)
    let r : BitVec 2048 := BitVec.ofNat 2048 (ruledBits g)
    headPerforms s 0x0B = true ∧ r.extractLsb' 64 64 ≠ 0#64 ∧ (s.advanceHead 0 0).recordRefused 3 0x2000#64 r = false ∧
      (match ((s.advanceHead 0 0).withRecord 3 r).recordRules 3 r with
       | .ok _ => decide (g ≠ 0)
       | .error _ => decide (g = 0)) = true := by
  intro g h
  fin_cases h <;> decide +kernel

/-- The rule image whose first entry is `x`. -/
def ruleBytes (x : Nat) : List Byte := toBytes 32 x ++ List.replicate 2016 0#8

set_option maxRecDepth 10000 in
theorem test_witness_HostTables_rules : ∀ x ∈ [0, 0xFFFFFFFF], let s := hosting (packet 10 0 0 0 0) x
    headPerforms s 0x0A = true ∧ fieldRead s 2048 = some (ruleBytes x) ∧
      (imageRefused (ruleImage (ruleBytes x))).isSome = decide (x ≠ 0) := by
  intro x h
  fin_cases h <;> exact ⟨by decide +kernel, by decide +kernel, by decide +kernel⟩

/-! ### Witnesses: registers, the debugger, the fabric, the network -/

theorem test_witness_HostRegisters :
    (let s := hosting 0 0
     (s.queue 0 0).en = true ∧ (s.queue 0 1).en = false ∧ s.ldcfg.getLsbD 2 = false) ∧
    (let s := lab (one 0#32)
     (∀ q, (s.queue 0 q).en = false) ∧ s.apctl.getLsbD 16 = false ∧ s.sealed = [] ∧ s.poison = [] ∧ (0x10#39).toNat + 1 ≤ 2 ^ 39) ∧
    (let s : State := { lab (one 0#32) with apctl := 0x10000#32 }
     s.apctl.getLsbD 16 = true ∧ s.apctl.extractLsb' 0 16 = 0#16 ∧ (s.ctx 0).key = 0) ∧
    (State.reset.fab.quota = 0#16 ∧ (3#32).extractLsb' 0 16 ≠ 0#16) ∧
    (let s := (lab (one 0#32)).setCtx 0 { (lab (one 0#32)).ctx 0 with pcsel := Vector.replicate 8 0x101#32 }
     (s.ctx 0).timed 0 = true ∧ s.releases 0 = true ∧ ((s.ctx 0).pccnt.get 0).toNat < 2 ^ 48) ∧
    (let w : Wave := { labWave with ranges := [⟨0#64, 1#32, 0⟩, ⟨0x10000#64, 1#32, 3⟩] }
     let s : State := { lab (one 0#32) with waves := [w] }
     s.wave? 0#32 = some w ∧ w.ranges[0]? = some ⟨0#64, 1#32, 0⟩ ∧ w.ranges[1]? = some ⟨0x10000#64, 1#32, 3⟩ ∧ s.online.getLsbD 0 = true ∧
       s.lastReport 0#32 0 0 = none ∧ s.lastReport 0#32 1 0 = none ∧ s.reportHeld 0 = false ∧ 4 * 16383 < 65536 ∧ 3 * 65536 < 4 * 49153) := by
  decide +kernel

/-- Slice 1, which the debugger has stopped; an outstanding load fills s[4]. -/
def stoppedSlice : Slice := { (labSlice 0#32 0).setFull (.s 4) false with stopped := true }

theorem test_witness_DebugSteps :
    (lab (one 0#32)).dbgSlice 0 ⟨1#8, 0#7⟩ = none ∧
    (let s : State := { lab (one 0#32) with waves := [{ labWave with attached := true }] }
     s.dbgSlice 0 ⟨0#8, 0#7⟩ = some (labSlice 0#32 0) ∧ s.slice? 1 = some (labSlice 0#32 0) ∧ (labSlice 0#32 0).stopped = false ∧
       (labSlice 0#32 0).pend = none ∧ modeSup (labSlice 0#32 0).mode = false ∧ s.wave? 0#32 = some { labWave with attached := true }) ∧
    (modeSup (labSlice 0x1000000#32 0).mode = true ∧
      (lab (one 0x1000000#32)).dbgSlice 0 ⟨0#8, 0#7⟩ = some (labSlice 0x1000000#32 0)) ∧
    (let s : State := { lab [stoppedSlice] with txns := [txn (.load none) 4 scratchAddr 0#64 [.s 4]] }
     s.dbgSlice 0 ⟨0#8, 0#7⟩ = some stoppedSlice ∧ s.slice? 1 = some stoppedSlice ∧ stoppedSlice.stopped = true ∧
       (∀ x ∈ s.slices, x.late = false) ∧
       (stoppedSlice.s.get 4).full = false ∧ s.producing 1 (.s 4) = true ∧ (stoppedSlice.s.get 5).full = true) := by
  decide +kernel

/-- The small machine with a change of its fabric engine. -/
def fabric (f : Fabric → Fabric) : State := { lab (one 0#32) with fab := f (lab (one 0#32)).fab }

/-- The descriptor of a window of 64 KiB at 0, of context 0, rule OWNER of peer 2. -/
def ownedWindow : BitVec 256 := (65536#256 <<< 128) ||| (2#256 <<< 64) ||| 1#256

/-- A remote store of peer 2 to that window. -/
def landing (step : DWord) : LandEntry := ⟨2#9, 0, 0x10#47, .stx, 5#32, step, 7⟩

/-- An operation of slice 1 that the fabric engine has sent to peer 2. -/
def fabOp (kind : FabKind) : FabOp := ⟨3, 0, 0, 1, kind, .peer 2#9, 0x10#47, 5#32, 5, 0, true, false⟩

/-- A WAKE to mailbox 4 of context 0. -/
def wakeMsg (deferred : Bool) : WakeMsg := ⟨2#9, 0, 4, deferred, 5#32, 0#64, 7⟩

theorem test_witness_FabricSteps :
    (let s := fabric fun f => { f with arriving := true, step := 1 }
     s.fab.arriving = true ∧ s.fab.copying = false ∧ ∀ o ∈ s.fab.ops, o.step + 1 = s.fab.step → o.acked = true) ∧
    (let s := fabric fun f => { f with arrivalSent := true, step := 1 }
     s.fab.arrivalSent = true ∧ (0#64).toNat = s.fab.crossed ∧ s.fab.crossed < s.fab.step ∧ s.loadsBefore s.fab.crossed = false ∧
       s.fab.banks.get (stepBank 0) = [] ∧ s.fab.banks.get (stepBank 1) = [] ∧ s.fab.ldxHeld = []) ∧
    (({ landing 0#64 with peer := 1#9 } : LandEntry).peer < (landing 0#64).peer) ∧
    (let s := fabric fun f => { f with inForce := f.inForce.set 0 ownedWindow }
     let d := s.fab.inForce.get ((landing 0#64).off.extractLsb' 41 6).toFin
     (landing 0#64).step.toNat = s.fab.crossed ∧ lwEn d = true ∧ ((landing 0#64).off.extractLsb' 0 41).toNat < lwLen d ∧ lwCtx d = 0 ∧
       lwRule d = 0 ∧ (landing 0#64).peer = lwOwner d ∧ (s.fab.banks.get (stepBank s.fab.crossed)).length < 256 * s.fab.bankSize) ∧
    (let s := fabric id
     lwEn (s.fab.inForce.get ((landing 0#64).off.extractLsb' 41 6).toFin) = false) ∧
    ((fabric id).fab.crossed < (1#64).toNat ∧ (1#64).toNat ≤ (fabric id).fab.crossed + 1) ∧
    (let s : State := { fabric fun f => { f with inForce := f.inForce.set 0 ownedWindow } with lines := [cachedLine 0] }
     let d := s.fab.inForce.get 0
     lwBase d + 0x10 = 0x10 ∧ s.granted (viaDie 4) (s.asidOf 0) 0x10 .r = true ∧ (s.hit? (viaDie 4) (s.asidOf 0) 0x10).isSome = true ∧
       0x10 / 128 = (0x10 + 3) / 128) ∧
    (let s := (fabric id).setCtx 0 { (fabric id).ctx 0 with asid := some 0#16 }
     s.tagOk 0#64 = true ∧ (s.ctx 0).asid ≠ none ∧ ((s.ctx 0).mailboxes.get 4).pend = false ∧ s.waiters 0 4 = [] ∧
       (wakeMsg true).deferred = true ∧ (wakeMsg false).deferred = false) ∧
    (let s := (fabric id).setCtx 0 { (fabric id).ctx 0 with asid := some 0#16, mailboxes := Vector.replicate 64 ⟨1#32, true⟩ }
     s.tagOk 0#64 = true ∧ ((s.ctx 0).mailboxes.get 4).pend = true) ∧
    (let t : Txn := { txn (.waitw 4) 4 0#64 0#64 [.s 4] with lanes := [] }
     let s : State := { (fabric id).setCtx 0 { (fabric id).ctx 0 with asid := some 0#16 } with txns := [t] }
     s.waiters 0 4 = [t]) ∧
    (∀ k ∈ [FabKind.stx, .ldx], let s : State := { fabric fun f => { f with ops := [fabOp k] } with
        txns := [txn .ldx 4 0x0100000000000010#64 0#64 [.v 1]] }
      s.fab.ops.find? (fun x => x.seq == (fabOp k).seq) = some (fabOp k) ∧ (fabOp k).sent = true ∧ (fabOp k).dest = .peer 2#9 ∧
        (fabOp k).acked = false ∧
        s.txns.find? (fun t => t.id == (fabOp k).txn) = some (txn .ldx 4 0x0100000000000010#64 0#64 [.v 1]) ∧
        s.slice? 1 = some (labSlice 0#32 0)) ∧
    (State.reset.tsc.toNat + 1000 < (5000#64).toNat ∧
      (0#64).toNat + 1000 < ({ State.reset with tsc := 5000#64 } : State).tsc.toNat) ∧
    (let o : FabOp := { fabOp .stx with sent := false }
     let s : State := { fabric fun f => { f with ops := [o] } with nodes := [node (fabricLeaf 3) 0#512 [entry 8 (.packet 3)]] }
     s.planeFits 3 48 = true ∧ s.fab.copying = false ∧ s.entries (fabricLeaf 3) = [entry 8 (.packet 3)] ∧
       s.fab.ops.find? (fun x => x.seq == o.seq) = some o) ∧
    (let s : State := { fabric fun f => { f with replies := [⟨3, 0, 2#9, 7, 5#32⟩] } with
       nodes := [node (fabricLeaf 3) 0#512 [entry 8 (.packet 3)]] }
     s.planeFits 3 48 = true ∧ s.fab.copying = false ∧ s.entries (fabricLeaf 3) = [entry 8 (.packet 3)] ∧ (∀ x ∈ s.fab.ops, x.seq ≠ 3) ∧
       s.fab.replies.find? (fun x => x.id == 3) = some ⟨3, 0, 2#9, 7, 5#32⟩) ∧
    (let s := fabric fun f => { f with copying := true, ckstat := 1#4 }
     s.fab.copying = true ∧ s.fab.ckstat = 1#4 ∧ s.lines = [] ∧ s.writes = []) ∧
    (let s := fabric fun f => { f with copying := true, ckstat := 2#4 }
     s.fab.copying = true ∧ s.fab.ckstat = 2#4) ∧
    (let o := { fabOp .stx with sent := false }
     let s := fabric fun f => { f with ops := [o] }
     s.fab.ops = [o] ∧ o.acked = false ∧ o.dest = .peer 2#9 ∧ o.kind = .stx) ∧
    (fabric id).fab.copying = false := by
  and_intros <;> decide +kernel

/-- A READ of 8 bytes to address 0, its counter pair at 0x20. -/
def readReq : NetReq := ⟨5, 0, .read, 0#64, 0x100#64, 0x20#64, 8, 3#12, true, false, false⟩

/-- The small machine with a request, the first line of page 0 in the caches. -/
def asking (r : NetReq) : State :=
  { lab (one 0#32) with
    netReqs := [r], lines := [cachedLine 0], nodes := [node networkLeaf 0#512 [entry 8 (.request 5)]] }

/-- The object a request names is read. -/
def objectRead (s : State) (r : NetReq) : Bool :=
  match s.readObject r.ctx r.laddr r.len with
  | .ok _ => true
  | .error _ => false

/-- The same machine with endpoint 3 given to context 0. -/
def reached : State := { asking readReq with endpoints := writeLE [] 96 32 1 }

theorem test_witness_NetworkSteps :
    (∀ k ∈ [NetKind.read, .send, .write], let r := { readReq with kind := k }
      let s := asking r
      s.entries networkLeaf = [entry 8 (.request 5)] ∧ s.fab.copying = false ∧ s.netReqs.find? (fun x => x.id == 5) = some r ∧
        s.netHeld 0 r.laddr r.len .r = false ∧ objectRead s r = true ∧ objectRead { s with lines := [] } r = false) ∧
    (let r : NetReply := ⟨5, 0, .readReply 7 [1#8]⟩
     let s : State := { asking readReq with netReqs := [], netReplies := [r] }
     s.entries networkLeaf = [entry 8 (.request r.id)] ∧ s.fab.copying = false ∧ (∀ x ∈ s.netReqs, x.id ≠ r.id) ∧
       s.netReplies.find? (fun x => x.id == r.id) = some r) ∧
    (fabric fun f => { f with copying := true }).fab.copying = true ∧
    ((lab (one 0#32)).fab.copying = false ∧ reached.fab.copying = false ∧ (asking readReq).fab.copying = false) ∧
    ((lab (one 0#32)).matchRecv 3#12 9#64 = none ∧ (lab (one 0#32)).endpointCtx 3#12 = none) ∧
    (let r : NetReq := { readReq with kind := .recv }
     let s := asking r
     s.matchRecv 3#12 0x100#64 = some r ∧ s.receiptHeld (.send 3#12 0x100#64 [1#8]) = false ∧
       s.receiptHeld (.send 3#12 0x100#64 (List.replicate 9 1#8)) = false ∧ [1#8].length ≤ r.len ∧ r.len < (List.replicate 9 1#8).length) ∧
    (reached.endpointCtx 3#12 = some 0 ∧ reached.receiptHeld (.write 3#12 0#64 [1#8]) = false ∧
      reached.receiptHeld (.readRequest 3#12 0#64 8 5) = false ∧ objectRead reached readReq = true) ∧
    (let s := asking readReq
     s.readFor 5 = some readReq ∧ readReq.len = (List.replicate 8 1#8).length ∧
       s.receiptHeld (.readReply 5 (List.replicate 8 1#8)) = false) ∧
    (∀ r ∈ [{ readReq with kind := NetKind.send }, { readReq with kind := NetKind.write }, { readReq with placed := true },
        { readReq with kind := .recv, placed := true }, { readReq with failed := true }],
      let s := asking r
      s.netReqs.find? (fun x => x.id == r.id) = some r ∧ s.fab.copying = false ∧ s.writes = [] ∧ s.addHeld r.ctx r.cntr = false ∧
        (r.kind = .send ∧ r.sent = true ∨ r.kind = .write ∧ r.sent = true ∨ r.kind = .read ∧ r.sent = true ∧ r.placed = true ∨
          r.kind = .recv ∧ r.placed = true ∨ r.failed = true) ∧
        r.cntr.toNat % 8 = 0 ∧ windowOf r.cntr = some .global ∧ s.cdata.wf = true ∧ offsetOf r.cntr = 0x20 ∧
        ∀ die : Fin 5, s.granted (viaDie die) (s.asidOf 0) 0x20 .w = true ∧ (s.hit? (viaDie die) (s.asidOf 0) 0x20).isSome = true) := by
  refine ⟨?_, ?_, ?_, ?_, ?_, ?_, ?_, ?_, ?_⟩ <;> decide +kernel

/-- A WAITV of slice 1 on the scratchpad, with a threshold. -/
def waitvOf (v : Word) : Txn := txn (.waitv v) 4 scratchAddr 0#64 [.s 4]

theorem test_witness_NetworkSteps_reached :
    Due (pending (waitvOf 0#32)) (waitvOf 0#32) ∧ (pending (waitvOf 0#32)).inSaved (waitvOf 0#32) = false ∧ (0#32 - 0#32).toNat < 2 ^ 31 :=
  ⟨⟨by decide +kernel, by decide +kernel, by decide +kernel, by decide +kernel⟩, by decide +kernel, by decide +kernel⟩

theorem test_witness_NetworkSteps_below :
    Due (pending (waitvOf 1#32)) (waitvOf 1#32) ∧ (pending (waitvOf 1#32)).inSaved (waitvOf 1#32) = false ∧ 2 ^ 31 ≤ (0#32 - 1#32).toNat ∧
      Due (pending (waitvOf 0x80000000#32)) (waitvOf 0x80000000#32) ∧ 2 ^ 31 ≤ (0#32 - 0x80000000#32).toNat :=
  ⟨⟨by decide +kernel, by decide +kernel, by decide +kernel, by decide +kernel⟩, by decide +kernel, by decide +kernel,
   ⟨by decide +kernel, by decide +kernel, by decide +kernel, by decide +kernel⟩, by decide +kernel⟩

theorem test_witness_scratchAddr : windowOf scratchAddr = some .scratch := by decide +kernel


/-! ### Witnesses: the trust die, every step -/

/-- The small machine with a change of its trust die. -/
def trusted (f : Trust → Trust) : State := { lab (one 0#32) with trust := f (lab (one 0#32)).trust }

/-- The machine while a boot step runs, with a boot record. -/
def bootingAt (k : Fin 13) (record : BitVec 64) : State := trusted fun t => { t with power := .booting k, record := record }

/-- The machine in the recovery mode, its fetch begun. -/
def recovering (commit : Bool) : State := trusted fun t => { t with power := .recovery 12, rcvstat := 1#4, commit := commit, rcvlen := 16#32 }

theorem test_witness_BootSteps :
    (∀ k, (lab (one 0#32)).trust.power ≠ .booting k) ∧
    (∀ k ∈ [(0 : Fin 13), 12, 1, 5], let s := bootingAt k 0#64
      s.trust.power = .booting k ∧ k ≠ 11 ∧ s.trust.stepCount k.val < 2 ∧ s.online ≠ 0#4 ∧ s.trust.lostDomains ≠ 15#4) ∧
    (let s := bootingAt 1 0x20#64
     s.trust.power = .booting 1 ∧ s.trust.stepCount 1 = 2) ∧
    (let s := bootingAt 10 0x20000000000#64
     s.trust.power = .booting 10 ∧ s.trust.stepCount 10 = 2) ∧
    (∀ d : Fin 4, let s := bootingAt (Fin.ofNat 13 (d.val + 1)) (0x2#64 <<< (4 * (d.val + 2)))
      s.trust.power = .booting (Fin.ofNat 13 (d.val + 1)) ∧ s.trust.stepCount (d.val + 1) < 2 ∧ s.trust.stepCount (d.val + 2) = 2 ∧
        s.trust.stepCount (d.val + 3) < 2 ∧ s.trust.stepCount (if d.val = 3 then 2 else d.val + 7) < 2 ∧
        s.online &&& ~~~(1#4 <<< d.val) ≠ 0#4) ∧
    (({ State.reset.trust with retiredNow := [] } : Trust).lostDomains ≠ 15#4 ∧ State.reset.trust.lostDomains ≠ 15#4) ∧
    (∀ c : Bool, (recovering c).trust.power = .recovery 12 ∧ (recovering c).trust.rcvstat = 1#4 ∧
      (recovering c).trust.rcvlen.toNat ≤ 2 ^ 26 ∧ (recovering c).online ≠ 0#4 ∧ (recovering c).trust.commit = c) ∧
    (∀ k, (lab (one 0#32)).trust.power ≠ .recovery k) := by
  refine ⟨?_, ?_, ?_, ?_, ?_, ?_, ?_, ?_⟩ <;> decide +kernel

theorem test_witness_TrustSteps :
    (∀ st ∈ [Tdisp.unlocked, .locked, .run], (((lab (one 0#32)).setCtx 1 { (lab (one 0#32)).ctx 1 with tdisp := st }).ctx 1).tdisp = st) ∧
    ((trusted fun t => { t with spdm := ⟨true, true, true, true, false, 0, []⟩ }).trust.spdm.algs = true ∧
      (trusted fun t => { t with spdm := ⟨true, true, true, true, true, 0, []⟩ }).trust.spdm.finished = true ∧
      State.reset.trust.spdm.algs = false) := by
  decide +kernel

/-- An error of a structure. -/
def errorOf (unit : ErrUnit) (uncorrected : Bool) (consumer : ErrConsumer) : ErrorEvent := ⟨unit, 3#32, uncorrected, 0x80#64, 0#16, consumer⟩

/-- The machine while structure 3 of a kind is tested. -/
def testing (unit : ErrUnit) : State := trusted fun t => { t with tests := [(unit, 3#32, 0)] }

theorem test_witness_EnvironmentSteps :
    (∀ t ∈ (lab (one 0#32)).trust.tests, ¬ (t.1 = (errorOf .tuiquelLane false .none).unit ∧ t.2.1 = (errorOf .tuiquelLane false .none).loc)) ∧
    (lab (one 0#32)).trust.tests = [] ∧
    (∀ u ∈ [ErrUnit.core, .tuiquelLane], (testing u).trust.tests = [(u, 3#32, 0)] ∧
      (testing u).trust.tests.any (fun t => t.1 == (errorOf u false .none).unit && t.2.1 == (errorOf u false .none).loc) = true) ∧
    ((errorOf .hbmFrame true .none).unit = .hbmFrame ∧ (errorOf .core false .none).loc.toNat < 192) ∧
    (let s := lab (one 0#32)
     s.sliceAt 0 0 = some (labSlice 0#32 0) ∧ s.wave? (labSlice 0#32 0).wave = some labWave ∧ labWave.ended = none) ∧
    ((lab (one 0#32)).core 0).flips = [] ∧ (1500 ≤ 3600 ∧ 1499 < 1500 ∧ 3600 < 3601) := by
  decide +kernel

theorem test_witness_StepKeepsMemory :
    State.reset.memWf = true ∧ (match step (State.reset.withFetchWord 32 0) with
      | .next _ => true
      | _ => false) = true := by
  refine ⟨?_, ?_⟩ <;> decide +kernel

theorem test_witness_EncodeDecode : decodeWords [0x203F0000#32, 0xDEADBEEF#32] = .ok (.li 63 0xDEADBEEF#32) := by decide +kernel

end Sys2Proof.Tests
end

namespace Sys2Proof.Machine

set_option Elab.async false

/-- The core of any number at reset is a core at reset. -/
theorem State.core_of_reset (k : Nat) : State.reset.core k = CoreRec.reset := by
  show ((Vector.replicate 192 CoreRec.reset).toList).getD k CoreRec.reset = CoreRec.reset
  rw [Vector.toList_replicate, List.getD_eq_getElem?_getD, List.getElem?_replicate]
  split <;> rfl

/-- The context of any function at reset is a context whose record has never been written. -/
theorem State.ctx_of_reset (c : Fin 17) : State.reset.ctx c = Ctx.reset := by
  simp [State.ctx, State.reset]

/-- A mailbox of a context whose record has never been written holds 0 and is not pending (R98). -/
theorem Ctx.mailbox_of_reset (m : Fin 64) : Ctx.reset.mailboxes.get m = ⟨0#32, false⟩ := by
  simp [Ctx.reset, Vector.get]

/-- Settles O6: every core and every context at reset is one record, whose fields are read off. -/
theorem resetState : Obligations.ResetState := by
  refine ⟨fun k => ?_, rfl, rfl, rfl, rfl, rfl, fun c => ⟨?_, fun m => ?_⟩⟩
  · rw [State.core_of_reset]
    exact ⟨rfl, rfl, rfl, rfl⟩
  · rw [State.ctx_of_reset]
    rfl
  · rw [State.ctx_of_reset, Ctx.mailbox_of_reset]
    exact ⟨rfl, rfl⟩

/-- The bytes written are the bytes read back. -/
theorem readBytes_writeBytes {m : Mem} (h : m.wf = true) (a : Nat) (bs : List Byte) :
    readBytes (writeBytes m a bs) a bs.length = bs := by
  refine List.ext_getElem (readBytes_length _ _ _) fun i h1 h2 => ?_
  simp only [readBytes, List.getElem_map, List.getElem_range]
  exact memRead_writeBytes_inside h a bs h2

/-- A canonical memory reads other than 0 exactly at the addresses it lists: its entries can be told from its reads. -/
theorem Mem.mem_iff_memRead {m : Mem} (h : m.wf = true) (a : Nat) (b : Byte) :
    (a, b) ∈ m ↔ memRead m a = b ∧ b ≠ 0#8 := by
  constructor
  · intro hb
    exact ⟨memRead_listed h hb, (Mem.wf_iff.mp h).2 _ hb⟩
  · rintro ⟨rfl, hb⟩
    by_contra hn
    refine hb (memRead_unlisted fun x hx e => hn ?_)
    obtain ⟨k, v⟩ := x
    cases e
    rwa [memRead_listed h hx]

/-- Two memories in canonical form that read alike are one: they list the same entries, each in rising order. -/
theorem Mem.ext_of_memRead {m n : Mem} (hm : m.wf = true) (hn : n.wf = true) (h : ∀ a, memRead m a = memRead n a) : m = n := by
  have same : ∀ x : Host.Cell, x ∈ m ↔ x ∈ n := fun ⟨a, b⟩ => by
    rw [Mem.mem_iff_memRead hm, Mem.mem_iff_memRead hn, h]
  have rise : ∀ {l : Mem}, l.wf = true → l.Pairwise fun x y => x.1 < y.1 := fun hl => (Mem.wf_iff.mp hl).1
  have nodup : ∀ {l : Mem}, l.wf = true → l.Nodup := fun hl => (rise hl).imp fun hlt e => absurd (e ▸ hlt) (Nat.lt_irrefl _)
  have perm : m.Perm n := (List.perm_ext_iff_of_nodup (nodup hm) (nodup hn)).mpr same
  exact perm.eq_of_pairwise (fun _ _ _ _ h1 h2 => absurd h1 (Nat.lt_asymm h2)) (rise hm) (rise hn)

/-- Settles O39, by the rules of a write of bytes and the entries a canonical memory can have. -/
theorem memoryLaws : Obligations.MemoryLaws := by
  refine ⟨fun m a bs h => ⟨writeBytes_wf h a bs, readBytes_writeBytes h a bs, ?_, ?_⟩, fun m n => Mem.ext_of_memRead⟩
  · exact fun b hb => memRead_writeBytes_outside h a bs hb
  · intro n hn
    rw [ofBytes_toBytes, Nat.mod_eq_of_lt hn]

end Sys2Proof.Machine

namespace Sys2Proof.Machine

set_option Elab.async false

/-! ## Canonical memories (O7, O60)

`State.MemWf` is `State.memWf` by its parts. For every function `f` of the model that gives a state there is one lemma `State.MemWf.f`:
the state it gives is well-formed when the one it takes is. Most functions leave the memories alone (`State.MemWf.frame`) or are put
together of such functions (`.ite`, `.foldl`); the others write a memory by `writeBytes`, `memClear`, `memCopy` or `moveRows`. -/

/-! ### Well-formed memories -/

/-- Writing a number keeps the canonical form. -/
theorem writeLE_wf {m : Mem} (h : m.wf = true) (a n x : Nat) : (writeLE m a n x).wf = true := writeBytes_wf h a _

/-- Every memory of a core is in canonical form. -/
structure CoreRec.MemWf (r : CoreRec) : Prop where
  spad : r.spad.wf = true
  accm : r.accm.wf = true
  bdata : r.bdata.wf = true
  bside : r.bside.wf = true

/-- Every memory of a saved presence is in canonical form. -/
structure Presence.MemWf (p : Presence) : Prop where
  spad : p.spad.wf = true
  accm : p.accm.wf = true
  bdata : p.bdata.wf = true
  bside : p.bside.wf = true

/-- Every memory of the machine is in canonical form: `State.memWf` by its parts. -/
structure State.MemWf (s : State) : Prop where
  hbm : s.hbm.wf = true
  cdata : s.cdata.wf = true
  hostMem : s.hostMem.wf = true
  endpoints : s.endpoints.wf = true
  cores : ∀ r ∈ s.cores, r.MemWf
  presences : ∀ p ∈ s.presences, p.MemWf
  ctxs : ∀ c ∈ s.ctxs, c.shells.wf = true

/-- The memories of the machine, with the records that hold some of them. -/
def State.mems (s : State) : (Mem × Mem × Mem × Mem) × Vector CoreRec 192 × List Presence × Vector Ctx 17 :=
  ((s.hbm, s.cdata, s.hostMem, s.endpoints), s.cores, s.presences, s.ctxs)

theorem CoreRec.memWf_iff {r : CoreRec} : r.memWf = true ↔ r.MemWf := by
  simp only [CoreRec.memWf, Bool.and_eq_true, and_assoc]
  exact ⟨fun ⟨a, b, c, d⟩ => ⟨a, b, c, d⟩, fun ⟨a, b, c, d⟩ => ⟨a, b, c, d⟩⟩

theorem Presence.memWf_iff {p : Presence} : p.memWf = true ↔ p.MemWf := by
  simp only [Presence.memWf, Bool.and_eq_true, and_assoc]
  exact ⟨fun ⟨a, b, c, d⟩ => ⟨a, b, c, d⟩, fun ⟨a, b, c, d⟩ => ⟨a, b, c, d⟩⟩

theorem State.memWf_iff {s : State} : s.memWf = true ↔ s.MemWf := by
  simp only [State.memWf, Bool.and_eq_true, and_assoc, Vector.all_eq_true_iff_forall_mem, List.all_eq_true, CoreRec.memWf_iff,
    Presence.memWf_iff]
  exact ⟨fun ⟨a, b, c, d, e, f, g⟩ => ⟨a, b, c, d, e, f, g⟩, fun ⟨a, b, c, d, e, f, g⟩ => ⟨a, b, c, d, e, f, g⟩⟩

/-- A step that goes on leaves every memory in canonical form. -/
def Kept (o : Host.Outcome State Fault Refusal) : Prop := ∀ t, o = .next t → t.MemWf

theorem Kept.next {t : State} (h : t.MemWf) : Kept (.next t) := fun _ e => Host.Outcome.next.inj e ▸ h

theorem CoreRec.MemWf.reset : CoreRec.reset.MemWf := ⟨rfl, rfl, rfl, rfl⟩

/-- A core whose memories are another's is as well-formed. -/
theorem CoreRec.MemWf.frame {q r : CoreRec} (h : r.MemWf)
    (e : (q.spad, q.accm, q.bdata, q.bside) = (r.spad, r.accm, r.bdata, r.bside)) : q.MemWf := by
  simp only [Prod.mk.injEq] at e
  obtain ⟨e1, e2, e3, e4⟩ := e
  exact ⟨e1 ▸ h.spad, e2 ▸ h.accm, e3 ▸ h.bdata, e4 ▸ h.bside⟩

/-- A presence whose memories are another's is as well-formed. -/
theorem Presence.MemWf.frame {p q : Presence} (h : p.MemWf)
    (e : (q.spad, q.accm, q.bdata, q.bside) = (p.spad, p.accm, p.bdata, p.bside)) : q.MemWf := by
  simp only [Prod.mk.injEq] at e
  obtain ⟨e1, e2, e3, e4⟩ := e
  exact ⟨e1 ▸ h.spad, e2 ▸ h.accm, e3 ▸ h.bdata, e4 ▸ h.bside⟩

protected theorem Presence.MemWf.ite {c : Prop} [Decidable c] {p q : Presence} (hp : p.MemWf) (hq : q.MemWf) :
    (if c then p else q).MemWf := by
  split <;> assumption

theorem State.MemWf.reset : State.reset.MemWf where
  hbm := rfl
  cdata := rfl
  hostMem := rfl
  endpoints := rfl
  cores r hr := by
    obtain ⟨-, rfl⟩ := Vector.mem_replicate.mp hr
    exact .reset
  presences := nofun
  ctxs c hc := by
    obtain ⟨-, rfl⟩ := Vector.mem_replicate.mp hc
    rfl

namespace State.MemWf

variable {s : State}

/-! ### How a state is put together -/

/-- A state with the memories of another is as well-formed. -/
theorem frame {t : State} (h : s.MemWf) (e : t.mems = s.mems) : t.MemWf := by
  simp only [State.mems, Prod.mk.injEq] at e
  obtain ⟨⟨e1, e2, e3, e4⟩, e5, e6, e7⟩ := e
  exact ⟨e1 ▸ h.hbm, e2 ▸ h.cdata, e3 ▸ h.hostMem, e4 ▸ h.endpoints, e5 ▸ h.cores, e6 ▸ h.presences, e7 ▸ h.ctxs⟩

protected theorem ite {p : Prop} [Decidable p] {t : State} (hs : s.MemWf) (ht : t.MemWf) : (if p then s else t).MemWf := by
  split <;> assumption

/-- A choice between two results that each carry a state. -/
theorem iteAt {α : Type} (get : α → State) {p : Prop} [Decidable p] {x y : α} (hx : (get x).MemWf) (hy : (get y).MemWf) :
    (get (if p then x else y)).MemWf := by
  split <;> assumption

protected theorem foldl {α : Type} {f : State → α → State} {l : List α} (h : s.MemWf)
    (keeps : ∀ {t x}, t.MemWf → (f t x).MemWf) : (l.foldl f s).MemWf :=
  List.foldlRecOn (motive := State.MemWf) l f h fun _ ht _ _ => keeps ht

/-- A fold that carries a state and something else. -/
protected theorem foldlWith {α β : Type} {f : β × State → α → β × State} {l : List α} {b : β} (h : s.MemWf)
    (keeps : ∀ {c t x}, t.MemWf → (f (c, t) x).2.MemWf) : (l.foldl f (b, s)).2.MemWf :=
  List.foldlRecOn (motive := fun r : β × State => r.2.MemWf) l f h fun _ ht _ _ => keeps ht

/-- A fold that carries a state and something else, the state first. -/
protected theorem foldlFst {α β : Type} {f : State × β → α → State × β} {l : List α} {b : β} (h : s.MemWf)
    (keeps : ∀ {c t x}, t.MemWf → (f (t, c) x).1.MemWf) : (l.foldl f (s, b)).1.MemWf :=
  List.foldlRecOn (motive := fun r : State × β => r.1.MemWf) l f h fun _ ht _ _ => keeps ht

/-- A fold that may fail. -/
protected theorem foldlOption {α : Type} {f : Option State → α → Option State} {l : List α} (h : s.MemWf)
    (none : ∀ x, f none x = none) (keeps : ∀ {t u x}, t.MemWf → f (some t) x = some u → u.MemWf) {t : State}
    (e : l.foldl f (some s) = some t) : t.MemWf := by
  refine List.foldlRecOn (motive := fun o : Option State => ∀ t, o = some t → t.MemWf) l f (fun _ e => Option.some.inj e ▸ h)
    (fun o ho x _ t e => ?_) t e
  cases o with
  | none => rw [none] at e; cases e
  | some u => exact keeps (ho u rfl) e

/-! ### Records -/

theorem core {k : Nat} (h : s.MemWf) : (s.core k).MemWf := by
  rw [State.core, List.getD_eq_getElem?_getD]
  cases hk : s.cores.toList[k]? with
  | none => exact .reset
  | some r => exact h.cores r (Vector.mem_toList_iff.mp (List.mem_of_getElem? hk))

theorem setCore {k : Nat} {r : CoreRec} (h : s.MemWf) (hr : r.MemWf) : (s.setCore k r).MemWf := by
  refine { h with cores := fun x hx => ?_ }
  obtain ⟨i, hi, rfl⟩ := Vector.mem_iff_getElem.mp hx
  simp only [State.setCore, Vector.getElem_setIfInBounds]
  split
  · exact hr
  · exact h.cores _ (Vector.getElem_mem hi)

theorem ctx {c : Fin 17} (h : s.MemWf) : (s.ctx c).shells.wf = true := h.ctxs _ (Vector.mem_of_getElem rfl)

theorem setCtx {c : Fin 17} {x : Ctx} (h : s.MemWf) (hx : x.shells.wf = true) : (s.setCtx c x).MemWf :=
  { h with ctxs := fun y hy => (Vector.mem_or_eq_of_mem_set (hi := c.isLt) hy).elim (h.ctxs y) (· ▸ hx) }

end State.MemWf

/-- Settles O7: at reset every memory is empty (`State.MemWf.reset`). -/
theorem resetMemory : Obligations.ResetMemory := State.memWf_iff.mpr .reset

namespace State.MemWf

variable {s : State}

/-! ### Counters, TLBs, lines (R254–R271, R328) -/

theorem addCount {c k n} (h : s.MemWf) : (s.addCount c k n).MemWf := by
  unfold State.addCount
  extract_lets x v y t
  have ht : t.MemWf := h.setCtx h.ctx
  exact .ite (h.setCtx h.ctx) (.ite ht (ht.frame rfl))

theorem foldTimed {c k} (h : s.MemWf) : (s.foldTimed c k).MemWf := .ite (h.addCount.frame rfl) h

theorem countEvent {c dom ev n} (h : s.MemWf) : (s.countEvent c dom ev n).MemWf := .ite h (h.foldl addCount)

theorem countOf {asid dom ev n} (h : s.MemWf) : (s.countOf asid dom ev n).MemWf := by
  unfold State.countOf
  split
  · exact h.countEvent
  · exact h

theorem dropTlb {asid va} (h : s.MemWf) : (s.dropTlb asid va).MemWf := h.frame rfl

theorem dropTlbAt {ctl asid va} (h : s.MemWf) : (s.dropTlbAt ctl asid va).MemWf := h.frame rfl

theorem putTlb {e} (h : s.MemWf) : (s.putTlb e).MemWf := h.frame rfl

theorem physWrite {key pa bs} (h : s.MemWf) : (s.physWrite key pa bs).MemWf := by
  unfold State.physWrite
  split
  · exact { h with hbm := writeBytes_wf h.hbm _ _ }
  · exact { h with hbm := writeBytes_wf (memFold_wf (fun _ hn => writeBytes_wf hn _ _) _ h.hbm) _ _ }

theorem physPut {key pa bs} (h : s.MemWf) : (s.physPut key pa bs).MemWf :=
  .ite { h with hbm := memSplice_wf h.hbm _ _ } h.physWrite

theorem evictBits {c tag va} (h : s.MemWf) : (s.evictBits c tag va).MemWf := h.frame rfl

theorem makeRoom {c asid va} (h : s.MemWf) : (s.makeRoom c asid va).MemWf := by
  unfold State.makeRoom
  extract_lets
  split
  · exact h
  · split
    · exact h.evictBits
    · exact h

theorem hold {tag va bs} (h : s.MemWf) : (s.hold tag va bs).MemWf := h.foldl fun h => h.makeRoom.frame rfl

theorem countL2 {via asid} (h : s.MemWf) : (s.countL2 via asid).MemWf := by
  unfold State.countL2
  cases viaL2 via with
  | none => exact h
  | some d => exact h.countOf

theorem countMisses {via asid va at_} (h : s.MemWf) : (s.countMisses via asid va at_).MemWf := by
  unfold State.countMisses
  split
  · exact .ite h.countOf.countOf.countOf h.countOf
  · exact .ite h.countOf.countOf.countOf h.countOf
  · exact .ite h.countOf.countOf h

theorem writeBack {l} (h : s.MemWf) : (s.writeBack l).MemWf := .ite (h.countOf.physWrite.frame rfl) h

theorem dropLine {l} (h : s.MemWf) : (s.dropLine l).MemWf := { h with cdata := memClear_wf h.cdata _ _ }

theorem dropLines {ls} (h : s.MemWf) : (s.dropLines ls).MemWf := by
  induction ls generalizing s with
  | nil => exact h
  | cons l t ih => exact ih h.writeBack.dropLine

theorem readLine {tag k pa} (h : s.MemWf) : (s.readLine tag k pa).MemWf := { h with cdata := writeBytes_wf h.cdata _ _ }

theorem fillLine {via asid va} (h : s.MemWf) : (s.fillLine via asid va).MemWf := by
  unfold State.fillLine
  split
  · exact h.countMisses.hold
  · split
    · exact h
    · refine hold ?_
      split
      · exact .ite h.countMisses h.countMisses.dropLine.readLine
      · exact h.countMisses.readLine

/-! ### The dies' views and flushes (R266, R269–R271) -/

theorem settleWrites {fuel} (h : s.MemWf) : (State.settleWrites fuel s).MemWf := by
  induction fuel generalizing s with
  | zero => exact h
  | succ n ih =>
    unfold State.settleWrites
    split
    · exact h
    · exact ih { h with cdata := writeBytes_wf h.cdata _ _ }

theorem dieWrite {by_ seen die asid va bytes} (h : s.MemWf) : (s.dieWrite by_ seen die asid va bytes).MemWf :=
  settleWrites (h.frame rfl)

theorem placeWrite {w} (h : s.MemWf) : (s.placeWrite w).MemWf := h.frame rfl

theorem applyWrite {w die} (h : s.MemWf) : (s.applyWrite w die).MemWf := settleWrites (h.frame rfl)

theorem forceWrites {tag lo len} (h : s.MemWf) : (s.forceWrites tag lo len).MemWf := settleWrites (h.frame rfl)

theorem flushTag {tag lo len} (h : s.MemWf) : (s.flushTag tag lo len).MemWf := h.forceWrites.dropLines.frame rfl

theorem flushRange {asid lo len} (h : s.MemWf) : (s.flushRange asid lo len).MemWf := h.flushTag.flushTag

/-! ### Granted accesses (R256, R261) -/

theorem installLeaf {via asid va l} (h : s.MemWf) : (s.installLeaf via asid va l).MemWf := by
  unfold State.installLeaf
  extract_lets t
  have ht : t.MemWf := h.putTlb
  split
  · exact ht
  · exact ht.frame rfl

theorem tryGrant {via asid va a t} (h : s.MemWf) (e : s.tryGrant via asid va a = some t) : t.MemWf := by
  unfold State.tryGrant at e
  split at e
  · exact Option.some.inj e ▸ h.countL2.fillLine
  · split at e
    · cases e
    · split at e
      · split at e
        · exact Option.some.inj e ▸ h.installLeaf.countL2.fillLine
        · cases e
      · cases e
      · cases e

theorem grantRange {via asid va n a t} (h : s.MemWf) (e : s.grantRange via asid va n a = some t) : t.MemWf :=
  h.foldlOption (fun _ => rfl) (fun h e => h.tryGrant e) e

theorem gRead {die asid va n r} (h : s.MemWf) (e : s.gRead die asid va n = some r) : r.2.MemWf := by
  unfold State.gRead at e
  split at e
  · cases e
  · next hg => exact Option.some.inj e ▸ h.grantRange hg

theorem gWrite {die asid va bs t} (h : s.MemWf) (e : s.gWrite die asid va bs = some t) : t.MemWf := by
  refine h.foldlOption (fun _ => rfl) (fun h e => ?_) e
  dsimp only at e
  split at e
  · cases e
  · next hg => exact Option.some.inj e ▸ (h.tryGrant hg).dieWrite

/-! ### Time and the error log (R85, R337) -/

theorem tick (h : s.MemWf) : s.tick.MemWf := h.frame rfl

theorem logError {e} (h : s.MemWf) : (s.logError e).MemWf := h.frame rfl

theorem logMalformed {c pa} (h : s.MemWf) : (s.logMalformed c pa).MemWf := h.tick.logError

theorem logWalk {c va} (h : s.MemWf) : (s.logWalk c va).MemWf := by
  unfold State.logWalk
  split
  · exact h.logMalformed
  · exact h
  · exact h

theorem logRange {die c va n a} (h : s.MemWf) : (s.logRange die c va n a).MemWf := by
  unfold State.logRange
  split
  · exact h.logWalk
  · exact h

/-! ### Landing windows (R347–R350, R357, R359) -/

theorem failPeer {cx p} (h : s.MemWf) : (s.failPeer cx p).MemWf := .ite h (h.setCtx h.ctx)

theorem modAcc {t f} (h : s.MemWf) : (s.modAcc t f).MemWf := h.frame rfl

theorem pushEntry {e} (h : s.MemWf) : (s.pushEntry e).MemWf := h.frame rfl

theorem noteReject {t p r} (h : s.MemWf) : (s.noteReject t p r).MemWf := by
  unfold State.noteReject
  split
  · exact h
  · exact h.modAcc
  · exact h.modAcc
  · exact h.modAcc
  · exact h.countEvent.modAcc

theorem receiveEntry {e} (h : s.MemWf) : (s.receiveEntry e).1.MemWf := by
  unfold State.receiveEntry
  extract_lets t r
  split
  · split
    · exact h.pushEntry
    · exact h.noteReject (r := .full)
  · split
    · exact h.pushEntry
    · exact h.noteReject (r := r)

theorem captureWord {cx w va data} (h : s.MemWf) : (s.captureWord cx w va data).MemWf := by
  have hr {e} := (h.frame (t := { s with nextId := s.nextId + 1 }) rfl).receiveEntry (e := e)
  unfold State.captureWord
  extract_lets
  split
  · exact hr
  · exact hr
  · exact hr.failPeer

/-! ### Slices -/

theorem putSlice {x} (h : s.MemWf) : (s.putSlice x).MemWf := h.frame rfl

theorem modSlice {sid f} (h : s.MemWf) : (s.modSlice sid f).MemWf := h.frame rfl

end State.MemWf
end Sys2Proof.Machine

namespace Sys2Proof.Machine

set_option Elab.async false
namespace State.MemWf

variable {s : State}

/-! ### Accesses of slices (R34, R145, R149, R158–R162, R176) -/

theorem installed {asid lo len} (h : s.MemWf) : (s.installed asid lo len).MemWf := h.frame rfl

theorem keepTranslations (h : s.MemWf) : s.keepTranslations.MemWf := .ite (h.frame rfl) h

theorem writeSpad {core a bs} (h : s.MemWf) : (s.writeSpad core a bs).MemWf :=
  h.setCore { h.core (k := core) with spad := writeBytes_wf h.core.spad _ _ }

theorem writeWindow {by_ seen core wave asid a bs} (h : s.MemWf) : (s.writeWindow by_ seen core wave asid a bs).MemWf := by
  unfold State.writeWindow
  split
  · exact h.writeSpad
  · exact h.setCore { h.core (k := core) with accm := writeBytes_wf h.core.accm _ _ }
  · exact h.fillLine.dieWrite

theorem fillKept {asid va e} (h : s.MemWf) : (s.fillKept asid va e).MemWf := by
  unfold State.fillKept
  extract_lets
  split
  · exact h
  · exact h.readLine

theorem fillLanes {t ls} (h : s.MemWf) : (s.fillLanes t ls).MemWf := by
  refine h.foldl fun {x l} h => .ite ?_ h
  extract_lets via y
  have hy : y.MemWf := fillLine (.ite h h.countL2)
  split
  · exact hy.fillKept
  · exact hy

theorem noteBytes {sids die asid va n} (h : s.MemWf) : (s.noteBytes sids die asid va n).MemWf := .ite h (h.frame rfl)

theorem barCopies {t} (h : s.MemWf) : (s.barCopies t).MemWf := .ite h (h.frame rfl)

theorem noteRead {t ls} (h : s.MemWf) : (s.noteRead t ls).MemWf := by
  unfold State.noteRead
  extract_lets x u sids v
  have hu : u.MemWf := h.barCopies
  have hv : v.MemWf := hu.foldl fun h => .ite h.noteBytes h
  exact .ite hu (hv.frame rfl)

theorem noteAcquire {t} (h : s.MemWf) : (s.noteAcquire t).MemWf := by
  refine .ite (.ite (.foldl ?_ fun h => h.modSlice) ?_) h
  · exact h.frame rfl
  · exact h.frame rfl

theorem fillParts {ps vs} (h : s.MemWf) : (s.fillParts ps vs).MemWf := h.foldl fun h => h.modSlice

theorem fillWord {p x} (h : s.MemWf) : (s.fillWord p x).MemWf := h.modSlice

theorem dropTxn {id} (h : s.MemWf) : (s.dropTxn id).MemWf := h.frame rfl

theorem keepCopy {t va o} (h : s.MemWf) : (s.keepCopy t va o).MemWf := by
  unfold State.keepCopy
  split
  · exact .ite (h.frame rfl) h
  · exact h

theorem noteCopy {sids c} (h : s.MemWf) : (s.noteCopy sids c).MemWf := h.frame rfl

theorem atomStep {t a f} (h : s.MemWf) : (s.atomStep t a f).2.MemWf := by
  unfold State.atomStep
  split
  · split
    · exact (h.frame (t := { s with ticks := s.ticks + 1 }) rfl).noteCopy
    · exact h.fillLine.barCopies.dieWrite.keepCopy
  · exact h.writeWindow

theorem reduceAt {t op ty a} (h : s.MemWf) : (s.reduceAt t op ty a).1.MemWf := by
  unfold State.reduceAt
  split
  · exact h
  · exact h.atomStep

theorem reduceAll {t op ty as_} (h : s.MemWf) : (s.reduceAll t op ty as_).1.MemWf := h.foldlFst fun h => h.reduceAt

theorem passAll {t op ls} (h : s.MemWf) : (s.passAll t op ls).1.MemWf := h.foldlFst fun h => h.atomStep

theorem keepLanes {ps vs} (h : s.MemWf) : (s.keepLanes ps vs).MemWf := h.foldl fun h => h.modSlice

theorem captureStore {cx w va size data old} (h : s.MemWf) : (s.captureStore cx w va size data old).MemWf :=
  .ite h.captureWord (.ite h.captureWord.captureWord h.captureWord)

theorem performStore {t ls} (h : s.MemWf) : (s.performStore t ls).MemWf := by
  refine .foldl h.barCopies fun {x l} h => ?_
  split
  · exact h.captureStore
  · exact h.writeWindow

theorem performLanes {t ls ps} (h : s.MemWf) : (s.performLanes t ls ps).MemWf := by
  unfold State.performLanes
  split
  · exact h.fillLanes.performStore
  · split
    · exact h.fillLanes.passAll.fillParts
    · exact h.fillLanes.reduceAll.fillParts
  · split
    · exact h.fillLanes.atomStep.fillParts
    · exact h.fillLanes
  · exact h.fillLanes.noteRead.fillParts

theorem completeAccess {t} (h : s.MemWf) : (s.completeAccess t).MemWf := by
  have last {r : State} (hr : r.MemWf) : ((r.dropTxn t.id).noteAcquire t).MemWf := hr.dropTxn.noteAcquire
  unfold State.completeAccess
  split
  · extract_lets now u r rest s1
    have hr : r.1.MemWf := h.fillLanes.passAll
    split
    · exact hr.keepLanes.frame rfl
    · exact .ite (last (.foldl hr.keepLanes fun h => h.modSlice)) (last h.performLanes)
  · exact last h.performLanes

/-! ### Octets, gangs, crews (R40–R45, R186–R193) -/

theorem setOctet {o} (h : s.MemWf) : (s.setOctet o).MemWf := h.frame rfl

theorem flushPoint {core oct} (h : s.MemWf) : (s.flushPoint core oct).MemWf := by
  unfold State.flushPoint
  extract_lets o
  split
  · exact h
  · exact h.setOctet.setCtx h.ctx

theorem flushSlice {x} (h : s.MemWf) : (s.flushSlice x).MemWf := h.flushPoint

theorem modGang {gid f} (h : s.MemWf) : (s.modGang gid f).MemWf := h.frame rfl

theorem setWait {gid w} (h : s.MemWf) : (s.setWait gid w).MemWf := h.frame rfl

theorem startWait {gid w} (h : s.MemWf) : (s.startWait gid w).MemWf := h.frame rfl

theorem wakeGang {gid} (h : s.MemWf) : (s.wakeGang gid).MemWf := h.frame rfl

theorem regroup (h : s.MemWf) : s.regroup.MemWf := by
  unfold State.regroup
  extract_lets t r
  have ht : t.MemWf := h.foldl fun h => h.flushPoint
  exact ht.frame rfl

theorem wakeAll (h : s.MemWf) : s.wakeAll.MemWf := by
  unfold State.wakeAll
  extract_lets t
  have ht : t.MemWf := h.foldl fun h => h.wakeGang
  exact .ite (h.frame rfl) (.ite (ht.frame rfl) ht)

theorem dropFences (h : s.MemWf) : s.dropFences.MemWf := h.frame rfl

theorem settle (h : s.MemWf) : s.settle.MemWf := h.dropFences.wakeAll.regroup

theorem leaveGang {sids w} (h : s.MemWf) : (s.leaveGang sids w).MemWf := by
  unfold State.leaveGang
  split
  · exact h
  · exact h.frame rfl

theorem setBar {core a w} (h : s.MemWf) : (s.setBar core a w).MemWf := h.writeSpad

theorem releaseWaiters {core a} (h : s.MemWf) : (s.releaseWaiters core a).MemWf := by
  refine .foldl ?_ fun h => h.wakeGang
  exact h.frame rfl

theorem flipBar {core a} (h : s.MemWf) : (s.flipBar core a).MemWf := h.setBar.releaseWaiters

theorem arrive {core a} (h : s.MemWf) : (s.arrive core a).MemWf := .ite h.flipBar h.setBar

theorem setCrew {core c e} (h : s.MemWf) : (s.setCrew core c e).MemWf := h.setCore (h.core.frame rfl)

theorem joinCrew {x c} (h : s.MemWf) : (s.joinCrew x c).MemWf := by
  unfold State.joinCrew
  extract_lets t
  have ht : t.MemWf := h.modSlice
  split
  · exact h
  · split
    · exact ht.setCrew
    · split
      · exact ht
      · exact ht.setBar

theorem leaveCrew {x c} (h : s.MemWf) : (s.leaveCrew x c).MemWf := by
  unfold State.leaveCrew
  extract_lets t u
  have ht : t.MemWf := h.modSlice
  have hu : u.MemWf := by
    unfold u
    split
    · exact ht
    · exact .ite ht.setBar.flipBar ht.setBar
  exact .ite h (.ite hu.setCrew hu)

theorem leaveCrews {x} (h : s.MemWf) : (s.leaveCrews x).MemWf := by
  refine h.foldl fun h => ?_
  split
  · exact h.leaveCrew
  · exact h

/-! ### Ends of slices and waves (R89, R183) -/

theorem closeRegang {i} (h : s.MemWf) : (s.closeRegang i).MemWf := by
  refine .foldl ?_ fun h => ?_
  · exact h.frame rfl
  · refine flushPoint ?_
    exact h.frame rfl

theorem closeRegangs (h : s.MemWf) : s.closeRegangs.MemWf := h.foldl fun h => h.closeRegang

theorem freeShares {core} (h : s.MemWf) : (s.freeShares core).MemWf := .ite h (h.setCore (h.core.frame rfl))

theorem releaseFaults {sid} (h : s.MemWf) : (s.releaseFaults sid).MemWf := h.frame rfl

theorem forgetSlot {x} (h : s.MemWf) : (s.forgetSlot x).MemWf := .ite h (h.frame rfl)

theorem endSlice {sid} (h : s.MemWf) : (s.endSlice sid).MemWf := by
  unfold State.endSlice
  split
  · exact h
  · extract_lets t u v
    have ht : t.MemWf := h.leaveCrews.releaseFaults.forgetSlot
    have hu : u.MemWf := ht.frame rfl
    exact .ite hu.closeRegangs.freeShares.flushPoint hu.closeRegangs.freeShares

theorem keepCmds {kept} (h : s.MemWf) : (s.keepCmds kept).MemWf := h.frame rfl

/-- Presences that are dropped leave the others' memories. -/
theorem dropPresences {p : Presence → Bool} (h : s.MemWf) : ({ s with presences := s.presences.filter p } : State).MemWf :=
  { h with presences := fun q hq => h.presences q (List.mem_of_mem_filter hq) }

theorem endWave {wave e} (h : s.MemWf) : (s.endWave wave e).MemWf := by
  refine .foldl (keepCmds ?_) fun h => h.endSlice
  exact (h.dropPresences (p := fun p => p.wave != wave)).frame rfl

theorem endOnCores {on index} (h : s.MemWf) : (s.endOnCores on index).MemWf := by
  refine h.foldl fun h => ?_
  split
  · exact h.endWave
  · exact h

/-! ### Late faults (R167, R169) -/

theorem removePart {id sid} (h : s.MemWf) : (s.removePart id sid).MemWf := h.frame rfl

theorem dropOp {sid t} (h : s.MemWf) : (s.dropOp sid t).MemWf := by
  refine removePart ?_
  have hf {ps : List Part} {w} : (ps.foldl (fun (x : State) p => x.fillWord p w) s).MemWf := h.foldl fun h => h.fillWord
  split
  · exact hf.frame rfl
  · exact hf

theorem concludeFault {sid t} (h : s.MemWf) : (s.concludeFault sid t).MemWf := by
  have fill {u : State} {ps : List Part} (hu : u.MemWf) : (ps.foldl (fun (x : State) p => x.fillWord p 0#32) u).MemWf :=
    hu.foldl fun h => h.fillWord
  unfold State.concludeFault
  extract_lets good ps stays u
  have hu : u.MemWf := by
    unfold u
    split
    · exact .ite h h.performLanes
    · exact .ite h h.performLanes
    · exact .ite h h.performLanes
    · exact .ite h h.performLanes
    · refine fill ?_
      exact h.frame rfl
    · exact fill h
  exact .ite (hu.frame rfl) hu.removePart

end State.MemWf
end Sys2Proof.Machine

namespace Sys2Proof.Machine

set_option Elab.async false
namespace State.MemWf

variable {s : State}

/-! ### Trap entry (R164–R169, R176) -/

theorem entryDone {gid} (h : s.MemWf) : (s.entryDone gid).MemWf := by
  unfold State.entryDone
  split
  · exact h
  · exact .ite h h.setWait

theorem entryOver {sid} (h : s.MemWf) : (s.entryOver sid).MemWf := by
  unfold State.entryOver
  split
  · exact h
  · exact h.entryDone

theorem partHeld {sid} (h : s.MemWf) : (s.partHeld sid).MemWf := by
  unfold State.partHeld
  split
  · exact h
  · exact .ite h h.leaveGang.entryDone

theorem concludeAll {sid ts t} (h : s.MemWf) (e : s.concludeAll sid ts = some t) : t.MemWf := by
  induction ts generalizing s with
  | nil => exact Option.some.inj e ▸ h
  | cons u rest ih =>
    unfold State.concludeAll at e
    split at e
    · exact ih h.concludeFault e
    · cases e

theorem endPoisoned {wave core a pc} (h : s.MemWf) : (s.endPoisoned wave core a pc).MemWf := h.endWave

theorem doEntry {x r} (h : s.MemWf) : (s.doEntry x r).MemWf := by
  unfold State.doEntry
  split
  · exact .ite h.modSlice.entryOver h.flushSlice.modSlice.entryOver
  · extract_lets drops rec_
    have hd : (drops.foldl (fun y u => y.dropOp x.sid u) s).MemWf := h.foldl fun h => h.dropOp
    split
    · exact h
    · exact h.endPoisoned
    · next e _ => exact (hd.concludeAll e).countEvent.flushSlice.modSlice.entryOver

theorem tryEnter {sid} (h : s.MemWf) : (s.tryEnter sid).MemWf := by
  unfold State.tryEnter
  split
  · exact h
  · split
    · exact h
    · exact .ite h.endPoisoned (.ite h.endWave (.ite (.ite h.doEntry (.ite h.endWave h.doEntry)) (.ite h.partHeld h)))

theorem noteFetchFault {sid r} (h : s.MemWf) : (s.noteFetchFault sid r).MemWf := by
  unfold State.noteFetchFault
  split
  · exact h
  · extract_lets asid t
    have ht : t.MemWf := h.logWalk
    exact .ite (ht.frame rfl) h

theorem raiseAll {ts} (h : s.MemWf) : (s.raiseAll ts).MemWf :=
  .foldl (.foldl (leaveGang (h.foldl fun h => h.noteFetchFault)) fun h => h.modSlice) fun h => h.tryEnter

theorem raiseTrap {sid r} (h : s.MemWf) : (s.raiseTrap sid r).MemWf := h.raiseAll

/-! ### Issue (R33–R36, R376) -/

theorem readTokens {sid us} (h : s.MemWf) : (s.readTokens sid us).MemWf := .ite h (h.frame rfl)

theorem advance {k c ms} (h : s.MemWf) : (s.advance k c ms).MemWf := h.foldl fun h => modSlice (.ite h.readTokens h)

theorem stopSlice {sid case} (h : s.MemWf) : (s.stopSlice sid case).MemWf := by
  unfold State.stopSlice
  split
  · exact h
  · extract_lets cx note dbg t
    have ht : t.MemWf := h.frame rfl
    exact ht.flushSlice.modSlice

theorem afterIssue {c ms} (h : s.MemWf) : (s.afterIssue c ms).MemWf := by
  unfold State.afterIssue
  extract_lets t u
  have ht : t.MemWf := h.foldl fun h => .ite h.stopSlice h
  have hu : u.MemWf := by
    unfold u
    split
    · split
      · exact .ite ht.wakeGang ht
      · exact ht
    · exact ht
  exact hu.frame rfl

theorem issue {k hold perform} (h : s.MemWf) (keeps : ∀ {c ms} {t : State}, t.MemWf → (perform c ms t).MemWf) :
    (s.issue k hold perform).MemWf := by
  have hf {ms : List Slice} : (ms.foldl State.flushSlice s).MemWf := h.foldl flushSlice
  unfold State.issue
  split
  · exact h
  · split
    · exact h.frame rfl
    · extract_lets ms
      split
      · exact h.raiseAll.frame rfl
      · exact hf.frame rfl
      · exact h.frame rfl
      · exact (keeps h.advance).afterIssue

theorem issueLocal {k f} (h : s.MemWf) : (s.issueLocal k f).MemWf := h.issue fun h => h.foldl fun h => h.modSlice

/-! ### Fetch (R49–R66, R377) -/

theorem putCode {l} (h : s.MemWf) : (s.putCode l).MemWf := h.frame rfl

theorem codeLine {core asid pc l t} (h : s.MemWf) (e : s.codeLine core asid pc = .line l t) : t.MemWf := by
  unfold State.codeLine at e
  split at e
  · extract_lets va at e
    split at e
    · cases e
      exact h
    · split at e
      · next hg =>
        split at e
        · cases e
        · cases e
          exact (h.tryGrant hg).putCode
      · split at e
        · cases e
        · split at e <;> cases e
  · cases e
  · cases e

theorem targetRead {x a} (h : s.MemWf) : (s.targetRead x a).MemWf := by
  unfold State.targetRead
  split
  · next e => exact h.codeLine e
  · exact h

/-- What a fetch brings before it finds an instruction. -/
theorem fetch_instr {g c i t} (h : s.MemWf) (e : s.fetch g = .instr c i t) : t.MemWf := by
  unfold State.fetch at e
  split at e
  · cases e
  · extract_lets ms c0 at e
    split at e
    · cases e
    · split at e
      · cases e
      · cases e
      · next hl =>
        extract_lets c fs at e
        split at e
        · split at e
          · obtain ⟨-, -, rfl⟩ := FetchRes.instr.inj e
            exact h.codeLine hl
          · cases e
        · cases e

/-- What a fetch brings before it traps. -/
theorem fetch_traps {g ts t} (h : s.MemWf) (e : s.fetch g = .traps ts t) : t.MemWf := by
  unfold State.fetch at e
  split at e
  · cases e
  · extract_lets ms c0 at e
    split at e
    · cases e
      exact h
    · split at e
      · cases e
      · cases e
        exact h
      · next hl =>
        extract_lets c fs at e
        split at e
        · split at e <;> cases e
        · cases e
          exact h.codeLine hl

/-! ### Groups 0x0 to 0x2 -/

theorem scalarOp {d a b f} (h : s.MemWf) : (s.scalarOp d a b f).MemWf := h.issueLocal

theorem writeCsr {x r w} (h : s.MemWf) : (s.writeCsr x r w).MemWf := by
  unfold State.writeCsr
  cases r
  case gtmo | swpt | quant => exact h.setCore (h.core.frame rfl)
  case crews | rgnpcl | rgnpch | rgncnt | slotid | waveid | nslice => exact h
  all_goals exact h.modSlice

theorem writeMode {x v} (h : s.MemWf) : (s.writeMode x v).MemWf := modSlice (.ite h h.flushSlice)

theorem popGang {g} (h : s.MemWf) : (s.popGang g).MemWf :=
  .ite h (.ite h.raiseAll (.ite h.setWait (h.foldl fun h => h.modSlice)))

theorem branchOp {cond srcs off} (h : s.MemWf) : (s.branchOp cond srcs off).MemWf :=
  h.issue fun h => h.foldl fun h => modSlice (h.foldl fun h => h.targetRead)

theorem wholeOp {srcs dst target link} (h : s.MemWf) : (s.wholeOp srcs dst target link).MemWf :=
  h.issue fun h => h.foldl fun h => h.targetRead.modSlice

theorem retSlice {x region} (h : s.MemWf) : (s.retSlice x region).MemWf := h.targetRead.releaseFaults.modSlice

theorem retOp {region} (h : s.MemWf) : (s.retOp region).MemWf := h.issue fun h => h.foldl fun h => h.retSlice

theorem exitSlice {x c} (h : s.MemWf) : (s.exitSlice x c).MemWf := by
  unfold State.exitSlice
  split
  · exact h.putSlice
  · exact h.putSlice
  · exact h.putSlice.retSlice
  · exact h.endSlice

theorem arriveRegang {c ms timed} (h : s.MemWf) : (s.arriveRegang c ms timed).MemWf := by
  unfold State.arriveRegang
  split
  · exact h
  · extract_lets ids inst
    split
    next t i e =>
    have ht : t.MemWf := by
      revert e
      cases inst <;> intro e
      · obtain ⟨rfl, -⟩ := Prod.mk.inj e
        exact h.frame rfl
      · obtain ⟨rfl, -⟩ := Prod.mk.inj e
        exact h.frame rfl
    exact .ite ht.setWait.closeRegang ht.setWait

/-! ### Groups 0x9 and 0xA at issue (R97, R142–R163, R186–R193) -/

theorem addTxn {kind x size scalar parts lanes} (h : s.MemWf) : (s.addTxn kind x size scalar parts lanes).MemWf := h.frame rfl

theorem markEmpty {sid dst} (h : s.MemWf) : (s.markEmpty sid dst).MemWf := h.modSlice

theorem gangTxn {c ms kind size dst lanes} (h : s.MemWf) : (s.gangTxn c ms kind size dst lanes).MemWf := by
  unfold State.gangTxn
  split
  · exact h
  · exact addTxn (h.foldl fun h => h.markEmpty)

theorem sliceTxns {c ms kind size dst lanes} (h : s.MemWf) : (s.sliceTxns c ms kind size dst lanes).MemWf :=
  h.foldl fun h => h.markEmpty.addTxn

theorem loadOp {acq size srcs dst addr} (h : s.MemWf) : (s.loadOp acq size srcs dst addr).MemWf := h.issue gangTxn

theorem storeOp {rel size srcs addr data} (h : s.MemWf) : (s.storeOp rel size srcs addr data).MemWf := h.issue gangTxn

theorem scalarLoad {acq d a} (h : s.MemWf) : (s.scalarLoad acq d a).MemWf := h.issue sliceTxns

theorem scalarStore {rel d a} (h : s.MemWf) : (s.scalarStore rel d a).MemWf := h.issue sliceTxns

theorem atomOp {op d a l read bUses data cmp} (h : s.MemWf) : (s.atomOp op d a l read bUses data cmp).MemWf := by
  unfold State.atomOp
  exact h.issue gangTxn

theorem atomVec {op d a b l} (h : s.MemWf) : (s.atomVec op d a b l).MemWf := h.atomOp

theorem fenceOp {acq rel sc} (h : s.MemWf) : (s.fenceOp acq rel sc).MemWf := h.issue fun h => h.foldl fun h => h.flushSlice.addTxn

theorem flushSlices {ms : List Slice} (h : s.MemWf) : (ms.foldl State.flushSlice s).MemWf := h.foldl flushSlice

theorem initBar {m crew off count} (h : s.MemWf) : (s.initBar m crew off count).MemWf := by
  unfold State.initBar
  extract_lets a
  split
  · exact h.setBar
  · split
    · exact h.setBar
    · exact h.setCrew.setBar

/-! ### Budgeted flips and barrier operations performed (R189, R191, R278) -/

theorem shiftFreq {core up} (h : s.MemWf) : (s.shiftFreq core up).MemWf := h.setCore (h.core.frame rfl)

theorem shiftRound {die wave n lag cs} (h : s.MemWf) : (s.shiftRound die wave n lag cs).MemWf := by
  unfold State.shiftRound
  extract_lets t
  have ht : t.MemWf := h.frame rfl
  exact .ite ht (ht.foldl fun h => .ite h.shiftFreq.shiftFreq h)

theorem closeRounds {fuel die wave} (h : s.MemWf) : (State.closeRounds fuel s die wave).MemWf := by
  induction fuel generalizing s with
  | zero => exact h
  | succ m ih =>
    unfold State.closeRounds
    extract_lets n flipped cs
    split
    · exact h
    · next lag _ =>
      have ht : (s.shiftRound die wave n lag cs).MemWf := h.shiftRound
      exact ih (ht.frame rfl)

theorem closeAllRounds (h : s.MemWf) : s.closeAllRounds.MemWf := by
  refine .foldl ?_ fun h => h.closeRounds
  exact h.frame rfl

theorem budgetFlip {core wave} (h : s.MemWf) : (s.budgetFlip core wave).MemWf := by
  unfold State.budgetFlip
  extract_lets t r u
  have hu : u.MemWf := h.tick.setCore (h.tick.core.frame rfl)
  exact .ite hu (hu.frame rfl)

theorem performBarr {t budg} (h : s.MemWf) : (s.performBarr t budg).MemWf := by
  refine h.foldl fun {x l} h => ?_
  extract_lets a ph flips y z
  have hz : z.MemWf := .ite h.arrive.budgetFlip h.arrive
  split
  · exact hz.fillWord
  · exact hz

theorem performBart {t phase} (h : s.MemWf) : (s.performBart t phase).MemWf := by
  refine h.foldl fun h => ?_
  extract_lets w
  split
  · exact h.fillWord
  · exact h

end State.MemWf
end Sys2Proof.Machine

namespace Sys2Proof.Machine

set_option Elab.async false
namespace State.MemWf

variable {s : State}

/-! ### The fabric at issue and its operations (R344, R353, R354) -/

theorem remoteOp {kind mc write srcs dst addr data} (h : s.MemWf) : (s.remoteOp kind mc write srcs dst addr data).MemWf :=
  h.issue gangTxn

theorem netOp {kind d a} (h : s.MemWf) : (s.netOp kind d a).MemWf := h.issue sliceTxns

theorem addFabOp {o} (h : s.MemWf) : (s.addFabOp o).MemWf := h.frame rfl

theorem acceptFabric {t} (h : s.MemWf) : (s.acceptFabric t).MemWf := by
  unfold State.acceptFabric
  split
  · exact dropTxn (h.foldl fun h => h.addFabOp)
  · split
    · exact h
    · extract_lets y
      have hy : y.MemWf := h.foldl fun h => h.addFabOp
      exact .ite hy.dropTxn (hy.frame rfl)

theorem laneReturn {o x} (h : s.MemWf) : (s.laneReturn o x).MemWf := by
  unfold State.laneReturn
  split
  · exact h
  · split
    · exact h
    · extract_lets t rest u
      have ht : t.MemWf := h.keepLanes
      have hu : u.MemWf := ht.frame rfl
      exact .ite hu (removePart (hu.foldl fun h => h.modSlice))

theorem modFabOp {seq f} (h : s.MemWf) : (s.modFabOp seq f).MemWf := h.frame rfl

theorem dropFabOp {seq} (h : s.MemWf) : (s.dropFabOp seq).MemWf := h.frame rfl

theorem dropOldOps (h : s.MemWf) : s.dropOldOps.MemWf := h.frame rfl

theorem arriveOne (h : s.MemWf) : s.arriveOne.MemWf := .ite (h.frame rfl) (h.frame rfl)

theorem completeXarr {t} (h : s.MemWf) : (s.completeXarr t).MemWf := dropTxn (arriveOne (h.foldl fun h => h.fillWord))

theorem completeXwait {t step} (h : s.MemWf) : (s.completeXwait t step).MemWf :=
  noteAcquire (dropTxn (h.foldl fun h => h.fillWord))

theorem completeXfence {t} (h : s.MemWf) : (s.completeXfence t).MemWf := by
  unfold State.completeXfence
  extract_lets ps src u v
  have hu : u.MemWf := h.setCtx h.ctx
  have hv : v.MemWf := hu.foldl fun h => h.writeWindow
  exact dropTxn (hv.foldl fun h => h.fillWord)

theorem readRecord {die c a r} (h : s.MemWf) (e : s.readRecord die c a = some r) : r.2.MemWf := by
  unfold State.readRecord at e
  split at e
  · exact h.gRead e
  · cases e

theorem logRecord {die c a} (h : s.MemWf) : (s.logRecord die c a).MemWf := .ite h.logRange h

theorem takeNet {die c post a} (h : s.MemWf) : (s.takeNet die c post a).2.MemWf := by
  unfold State.takeNet
  split
  · exact h.logRecord
  · next bs t e =>
    have ht : t.MemWf := h.readRecord e
    dsimp only
    cases netBadField post (recordOf bs) with
    | some k => exact ht
    | none =>
      cases netKind post ((recordOf bs).extractLsb' 0 4).toNat with
      | none => exact ht
      | some k => exact iteAt Prod.snd ht (iteAt Prod.snd ht (ht.frame rfl))

theorem completeNet {t post a} (h : s.MemWf) : (s.completeNet t post a).MemWf :=
  dropTxn (h.takeNet.foldl fun h => h.fillWord)

/-! ### The crossing (R343–R363) -/

theorem deliverWord {c m x} (h : s.MemWf) : (s.deliverWord c m x).MemWf := by
  unfold State.deliverWord
  split
  · exact dropTxn (h.foldl fun h => h.fillWord)
  · exact h.setCtx h.ctx

theorem send {o} (h : s.MemWf) : (s.send o).MemWf := h.frame rfl

theorem tellFailed {e} (h : s.MemWf) : (s.tellFailed e).MemWf := .ite h.failPeer h.send

theorem ownLine {asid va} (h : s.MemWf) : (s.ownLine asid va).MemWf := h.forceWrites

theorem writeThrough {asid va bs} (h : s.MemWf) : (s.writeThrough asid va bs).MemWf := by
  unfold State.writeThrough
  split
  · exact h
  · extract_lets t
    have ht : t.MemWf := { h with cdata := writeBytes_wf h.cdata _ _ }
    exact ht.writeBack.dropLine

/-- Two accesses granted one after the other. -/
theorem tryGrant_bind {via asid va a b t} (h : s.MemWf)
    (e : ((s.tryGrant via asid va a).bind fun u => u.tryGrant via asid va b) = some t) : t.MemWf := by
  obtain ⟨u, hu, ht⟩ := Option.bind_eq_some_iff.mp e
  exact (h.tryGrant hu).tryGrant ht

theorem applyAt {t es off} (h : s.MemWf) : (s.applyAt t es off).1.MemWf := by
  unfold State.applyAt
  extract_lets d mine cx asid va
  split
  · next lost u _ _ _ =>
    have hu : u.MemWf := .ite h h.logWalk
    exact hu.frame rfl
  · next u e =>
    extract_lets v x r w z
    have hz : z.MemWf := .ite (h.tryGrant_bind e).ownLine.writeThrough (h.tryGrant_bind e).ownLine.writeThrough.modAcc
    exact hz.foldl tellFailed

theorem applyBank {t} (h : s.MemWf) : (s.applyBank t).1.MemWf := h.foldlFst fun h => h.applyAt

theorem logDescriptors (h : s.MemWf) : s.logDescriptors.MemWf := by
  refine h.foldl fun h => .ite ?_ h
  split
  · exact h.logWalk
  · exact h

theorem takeDescriptors (h : s.MemWf) : s.takeDescriptors.MemWf := h.logDescriptors.frame rfl

theorem judgeEarly {t} (h : s.MemWf) : (s.judgeEarly t).MemWf := by
  refine .foldl (s := { s with fab := _ }) (h.frame rfl) fun h => .ite h.pushEntry ?_
  split
  · exact .ite h.pushEntry h.pushEntry.send
  · exact h.noteReject.tellFailed

theorem queueReply {c peer seq x} (h : s.MemWf) : (s.queueReply c peer seq x).MemWf := h.frame rfl

theorem serveLdx {r} (h : s.MemWf) : (s.serveLdx r).MemWf := by
  unfold State.serveLdx
  extract_lets d byte asid
  split
  · exact h.noteReject.send
  · split
    · next e => exact (h.gRead e).queueReply
    · exact h.logRange.frame rfl

theorem serveHeld (h : s.MemWf) : s.serveHeld.MemWf := by
  refine .foldl ?_ serveLdx
  exact h.frame rfl

theorem fillXwaits (h : s.MemWf) : s.fillXwaits.MemWf := by
  refine h.foldl fun h => ?_
  split
  · exact .ite h.completeXwait h
  · exact h

theorem deliverDeferred (h : s.MemWf) : s.deliverDeferred.MemWf := by
  refine .foldl ?_ fun h => h.deliverWord
  exact h.frame rfl

theorem sendReplies {rs} (h : s.MemWf) : (s.sendReplies rs).MemWf := h.foldl fun h => h.queueReply

theorem beginCheckpoint (h : s.MemWf) : s.beginCheckpoint.MemWf := .ite h (.ite (h.frame rfl) (h.frame rfl))

theorem crossing {t} (h : s.MemWf) : (s.crossing t).MemWf := by
  unfold State.crossing
  extract_lets r u word src v w x
  have hv : v.MemWf := (h.applyBank (t := t)).frame rfl
  have hx : x.MemWf := hv.send.takeDescriptors.serveHeld.fillXwaits.deliverDeferred.sendReplies.judgeEarly
  exact hx.dropOldOps.beginCheckpoint

theorem adjustTime {ref} (h : s.MemWf) : (s.adjustTime ref).MemWf := by
  unfold State.adjustTime
  split
  · exact h.frame rfl
  · split
    · exact h.frame rfl
    · exact h.tick

theorem failOp {o p} (h : s.MemWf) : (s.failOp o p).MemWf := .ite h.failPeer.laneReturn.dropFabOp h.failPeer.modFabOp

theorem answer {o p rejected reply} (h : s.MemWf) : (s.answer o p rejected reply).MemWf := by
  unfold State.answer
  split
  · extract_lets t
    have ht : t.MemWf := .ite h.failPeer h
    exact .ite ht.modFabOp ht
  · split
    · exact h.failOp
    · generalize o.kind = k
      cases k
      case ldx =>
        cases reply with
        | none => exact h
        | some x => exact h.laneReturn.dropFabOp
      case amxr =>
        cases reply with
        | none => exact h.modFabOp
        | some x => exact h.laneReturn.dropFabOp
      all_goals exact h.modFabOp

theorem writeBackAll (h : s.MemWf) : s.writeBackAll.MemWf := .foldl (h.foldl fun h => h.forceWrites) writeBack

/-! ### The steps of the fabric engine -/

theorem execCrossingApply {b} (h : s.MemWf) : Kept (execCrossingApply b s) := .next (.ite h.adjustTime.crossing h)

theorem execLandingEntryReceipt {e} (h : s.MemWf) : Kept (execLandingEntryReceipt e s) := by
  refine .next (.ite ?_ h)
  extract_lets r
  split
  · exact h.receiveEntry
  · exact h.receiveEntry.send

theorem execLdxRequestReceipt {r} (h : s.MemWf) : Kept (execLdxRequestReceipt r s) :=
  .next (.ite (.ite (h.frame rfl) h.serveLdx) h)

theorem execWakeReceipt {w} (h : s.MemWf) : Kept (execWakeReceipt w s) :=
  .next (.ite (.ite h.noteReject.send (.ite (h.frame rfl) h.send.deliverWord)) h)

theorem execFabricAck {id peer rejected reply} (h : s.MemWf) : Kept (execFabricAck id peer rejected reply s) := by
  refine .next ?_
  split
  · exact .ite h.answer h
  · exact h

theorem execPeerUnreachable {peer} (h : s.MemWf) : Kept (execPeerUnreachable peer s) :=
  .next (h.foldl fun h => h.modFabOp.failOp)

theorem execFxquotaWrite {val} (h : s.MemWf) : Kept (execFxquotaWrite val s) := by
  refine .next ?_
  extract_lets q src t f
  have ht : t.MemWf := .ite (h.frame rfl) h
  refine .ite (takeDescriptors ?_) (ht.frame rfl)
  exact ht.frame rfl

theorem execCheckpointStart {accepted} (h : s.MemWf) : Kept (execCheckpointStart accepted s) :=
  .next (.ite (.ite (h.writeBackAll.frame rfl) (h.frame rfl)) h)

/-! ### Vector instructions -/

theorem vecOp {srcs d early f} (h : s.MemWf) : (s.vecOp srcs d early f).MemWf := h.issueLocal

theorem vec2 {d a b m early f} (h : s.MemWf) : (s.vec2 d a b m early f).MemWf := h.vecOp

theorem vec1 {d a m early f} (h : s.MemWf) : (s.vec1 d a m early f).MemWf := h.vecOp

theorem vecCmp {p a b m early f} (h : s.MemWf) : (s.vecCmp p a b m early f).MemWf := h.issueLocal

theorem cvtOp {α d a m} {admits : EType → Option α} {ws k conv} (h : s.MemWf) : (s.cvtOp d a m admits ws k conv).MemWf := h.vec1

theorem crossOp {d srcs early hold f} (h : s.MemWf) : (s.crossOp d srcs early hold f).MemWf :=
  h.issue fun h => h.foldl fun h => h.modSlice

/-! ### Page-table entries and frames (R177, R265) -/

theorem writeLeaf {c size va e} (h : s.MemWf) : (s.writeLeaf c size va e).MemWf := by
  refine h.foldl fun h => ?_
  split
  · exact h.physWrite
  · exact h

theorem ptew {c va entry} (h : s.MemWf) : (s.ptew c va entry).2.MemWf := by
  unfold State.ptew
  extract_lets size asid base
  split
  · exact h
  · split
    · exact h
    · split
      · exact h
      · exact h.writeLeaf.dropTlb.installed

theorem takeFrame {c big dom} (h : s.MemWf) : (s.takeFrame c big dom).2.MemWf := by
  unfold State.takeFrame
  split
  · exact h
  · exact h.setCtx h.ctx

/-! ### The rank tree (R285–R300) -/

theorem setNode {n} (h : s.MemWf) : (s.setNode n).MemWf := h.frame rfl

theorem modEntries {node f} (h : s.MemWf) : (s.modEntries node f).MemWf := h.frame rfl

theorem dropEntry {node id} (h : s.MemWf) : (s.dropEntry node id).MemWf := h.frame rfl

theorem releaseEntry {node id} (h : s.MemWf) : (s.releaseEntry node id).MemWf := h.frame rfl

theorem countInsert {node k} (h : s.MemWf) : (s.countInsert node k).MemWf := h.countEvent

theorem serve {engine v} (h : s.MemWf) : (s.serve engine v).MemWf := h.frame rfl

theorem testHead {leaf} (h : s.MemWf) : (s.testHead leaf).MemWf := by
  unfold State.testHead
  split
  · split
    · extract_lets t n
      have ht : t.MemWf := h.frame rfl
      exact .ite (.ite ht.setNode ht) h
    · exact h
  · exact h

theorem testInsert {leaf id} (h : s.MemWf) : (s.testInsert leaf id).MemWf := .ite h.testHead h

theorem enterNode {node kind f t0} (h : s.MemWf) : (s.enterNode node kind f t0).MemWf := by
  unfold State.enterNode
  extract_lets t n t0' r src u
  have ht : t.MemWf := h.countInsert.tick
  have hu : u.MemWf := ht.frame rfl
  exact hu.testInsert

theorem enterAt {node kind rank f} (h : s.MemWf) : (s.enterAt node kind rank f).MemWf := by
  unfold State.enterAt
  extract_lets t n src u
  have ht : t.MemWf := h.countInsert.tick
  have hu : u.MemWf := ht.frame rfl
  exact hu.testInsert

theorem refreshNode {node} (h : s.MemWf) : (s.refreshNode node).MemWf := h.tick.setNode.testHead

theorem writeDesc {node d} (h : s.MemWf) : (s.writeDesc node d).MemWf := h.setNode

/-! ### Tasks (R290–R303) -/

theorem modTask {id f} (h : s.MemWf) : (s.modTask id f).MemWf := h.frame rfl

theorem newTask {c r entry host bundle phase} (h : s.MemWf) : (s.newTask c r entry host bundle phase).MemWf := h.tick.frame rfl

theorem pushTask {die c a node host} (h : s.MemWf) : (s.pushTask die c a node host).2.2.MemWf := by
  unfold State.pushTask
  refine iteAt (fun r : Word × Option Nat × State => r.2.2) h ?_
  split
  · exact h.logRecord
  · next bs t e =>
    have ht : t.MemWf := h.readRecord e
    dsimp only
    split
    · exact ht
    · exact iteAt (fun r : Word × Option Nat × State => r.2.2) ht ht.newTask.enterNode

theorem completeQpush {t a node} (h : s.MemWf) : (s.completeQpush t a node).MemWf :=
  dropTxn (h.pushTask.foldl fun h => h.fillWord)

end State.MemWf
end Sys2Proof.Machine

namespace Sys2Proof.Machine

set_option Elab.async false

/-! ### Results that may fail -/

/-- A result that carries a state whether it fails or not: its state is well-formed. -/
structure ResultWf {ε α : Type} (err : ε → State) (val : α → State) (r : Except ε α) : Prop where
  error : ∀ {e}, r = .error e → (err e).MemWf
  ok : ∀ {a}, r = .ok a → (val a).MemWf

/-- What a read that may fail leaves. -/
abbrev ReadWf {ε α : Type} (r : Except (ε × State) (α × State)) : Prop := ResultWf Prod.snd Prod.snd r

/-- What a write that may fail leaves. -/
abbrev WriteWf {ε : Type} (r : Except (ε × State) State) : Prop := ResultWf Prod.snd id r

namespace ResultWf

variable {ε α : Type} {err : ε → State} {val : α → State}

theorem of_error {e : ε} (h : (err e).MemWf) : ResultWf err val (.error e) := ⟨fun | rfl => h, nofun⟩

theorem of_ok {a : α} (h : (val a).MemWf) : ResultWf err val (.ok a) := ⟨nofun, fun | rfl => h⟩

protected theorem ite {p : Prop} [Decidable p] {r q : Except ε α} (hr : ResultWf err val r) (hq : ResultWf err val q) :
    ResultWf err val (if p then r else q) := by
  split <;> assumption

protected theorem foldl {β : Type} {f : Except ε α → β → Except ε α} {l : List β} {r : Except ε α} (h : ResultWf err val r)
    (keeps : ∀ {q x}, ResultWf err val q → ResultWf err val (f q x)) : ResultWf err val (l.foldl f r) :=
  List.foldlRecOn (motive := ResultWf err val) l f h fun _ hq _ _ => keeps hq

/-- What a read leaves is what a write leaves, its bytes apart. -/
theorem map_snd {β : Type} {r : Except (ε × State) (β × State)} (h : ReadWf r) : WriteWf (r.map (·.2)) := by
  cases r with
  | error e => exact .of_error (h.error rfl)
  | ok a => exact .of_ok (h.ok rfl)

end ResultWf

namespace State.MemWf

variable {s : State}

/-! ### Objects of global memory (R72, R290) -/

theorem readErr {die c va n} (h : s.MemWf) : ReadWf (s.readErr die c va n) := by
  unfold State.readErr
  split
  · next e => exact .ite (.of_error h) (.of_ok (h.gRead e))
  · exact .of_error h.logRange

theorem readObject {c a n} (h : s.MemWf) : ReadWf (s.readObject c a n) := .ite h.readErr (.of_error h)

theorem rangeList {c r e} (h : s.MemWf) (he : s.rangeList c r = .error e) : e.2.MemWf := by
  unfold State.rangeList at he
  extract_lets n a at he
  split at he
  · cases he
  · split at he
    · cases he
      exact h
    · split at he
      · next hr =>
        cases he
        exact h.readObject.error hr
      · split at he
        · cases he
        · cases he
          exact h

/-! ### Launches, bundles, tasks (R290–R303) -/

/-- What a refused launch leaves. -/
theorem launchPlan_refused {c rec st body t} (h : s.MemWf) (e : s.launchPlan c rec = .refused st body t) : t.MemWf := by
  unfold State.launchPlan at e
  split at e
  · cases e
  · split at e
    · next hr =>
      cases e
      exact h.readObject.error hr
    · extract_lets r dies at e
      split at e
      · cases e
        exact h
      · split at e
        · cases e
        · split at e
          · next hr =>
            cases e
            exact h.rangeList hr
          · split at e <;> cases e

theorem launch {task c rec rank r body ranges} (h : s.MemWf) : (s.launch task c rec rank r body ranges).MemWf := h.frame rfl

theorem endTask {id stat body} (h : s.MemWf) : (s.endTask id stat body).MemWf := h.modTask

theorem releaseHead {node} (h : s.MemWf) : (s.releaseHead node).MemWf := by
  unfold State.releaseHead
  split
  · exact h
  · split
    · split
      · exact h
      · refine .ite h (.ite (.ite h.releaseEntry.enterNode h) (.ite ?_ h))
        split
        · exact h
        · next e => exact (h.launchPlan_refused e).releaseEntry.endTask
        · exact h.releaseEntry.launch
    · exact h

theorem memberArray {c b} (h : s.MemWf) : ReadWf (s.memberArray c b) := by
  unfold State.memberArray
  split
  · exact .of_ok h
  · split
    · exact .of_error h
    · split
      · exact .of_error (h.readObject.error ‹_›)
      · next e =>
        split
        · exact .of_error (h.readObject.ok e)
        · exact .of_ok (h.readObject.ok e)

theorem chooseMembers {c b} (h : s.MemWf) : ReadWf (s.chooseMembers c b) := by
  unfold State.chooseMembers
  refine .ite (.of_error h) ?_
  split
  · next e => exact .of_error (h.memberArray.error e)
  · next e =>
    have ht := h.memberArray.ok e
    split
    · next e => exact .of_error (ht.readObject.error e)
    · next e => exact .ite (.of_error (ht.readObject.ok e)) (.of_ok (ht.readObject.ok e))

theorem mxrCores {c r e} (h : s.MemWf) (he : s.mxrCores c r = .error e) : e.2.MemWf := by
  unfold State.mxrCores at he
  split at he
  · next hr =>
    cases he
    exact h.readObject.error hr
  · split at he
    · cases he
    · cases he
      exact h

theorem startMember {c b i rank r} (h : s.MemWf) : (s.startMember c b i rank r).MemWf := by
  unfold State.startMember
  extract_lets id t
  have ht : t.MemWf := h.newTask
  refine .ite ?_ (.ite ht.enterNode ?_)
  · split
    · exact ht.launch
    · next e => exact (ht.launchPlan_refused e).endTask
    · exact ht
  · split
    · exact ht.foldl fun h => h.enterNode
    · next e => exact (ht.mxrCores e).endTask

theorem bundleBody {t} (h : s.MemWf) : ReadWf (s.bundleBody t) := .ite h.readObject (.of_ok h)

theorem startPhase {node e t} (h : s.MemWf) : (s.startPhase node e t).MemWf := by
  unfold State.startPhase
  refine .ite h ?_
  split
  · next hb => exact (h.bundleBody.error hb).releaseEntry.endTask
  · next body u hb =>
    have hu : u.MemWf := h.bundleBody.ok hb
    extract_lets b picked
    have hp : ReadWf picked := .ite hu.chooseMembers (.of_ok hu)
    clear_value picked
    split
    · exact h
    split
    · exact (hp.error rfl).releaseEntry.endTask
    · next ms v =>
      have hv : v.MemWf := hp.ok rfl
      exact .ite (.foldl hv.modTask.releaseEntry.modTask fun h => h.startMember) hv.modTask

theorem execBundlePhaseStart {node} (h : s.MemWf) : Kept (execBundlePhaseStart node s) := by
  refine .next ?_
  split
  · split
    · split
      · exact .ite h.startPhase h
      · exact h
    · exact h
  · exact h

theorem execBundlePhaseRetire {task} (h : s.MemWf) : Kept (execBundlePhaseRetire task s) := by
  refine .next ?_
  split
  · refine .ite ?_ h
    split
    · exact h.endTask
    · exact .ite (.ite h.modTask.enterNode h) h.endTask
  · exact h

theorem writeBackRange {asid lo len} (h : s.MemWf) : (s.writeBackRange asid lo len).MemWf := by
  unfold State.writeBackRange
  extract_lets t hit u
  have hu : u.MemWf := .foldl h.forceWrites.forceWrites writeBack
  exact hu.frame rfl

theorem invalidateRange {asid lo len} (h : s.MemWf) : (s.invalidateRange asid lo len).MemWf := by
  unfold State.invalidateRange
  extract_lets t
  have ht : t.MemWf := h.flushRange
  clear_value t
  exact ht.frame rfl

theorem bufferWork {asid e after} (h : s.MemWf) : (s.bufferWork asid e after).MemWf := by
  unfold State.bufferWork
  split
  · exact h.writeBackRange
  · exact h.writeBackRange
  · exact h.invalidateRange
  · exact h.invalidateRange
  · exact h.invalidateRange
  · exact h

theorem bufferList {c slot after} (h : s.MemWf) : (s.bufferList c slot after).1.MemWf := by
  refine h.foldlFst fun {d t x} h => ?_
  dsimp only
  split
  · exact h
  · split
    · exact h
    · split
      · exact h
      · split
        · exact h.bufferWork
        · exact h.logWalk

/-- The host's memory is replaced, and messages leave. -/
theorem putHost {m : Mem} {o : List OutMsg} (h : s.MemWf) (hm : m.wf = true) :
    ({ s with hostMem := m, out := o } : State).MemWf :=
  { h with hostMem := hm }

theorem writeCompletion {fn q idx cq slot k} (h : s.MemWf) : (s.writeCompletion fn q idx cq slot k).MemWf := by
  unfold State.writeCompletion
  extract_lets c hq hq' t
  have ht : t.MemWf := h.setCtx h.ctx
  exact ht.putHost (writeLE_wf ht.hostMem _ _ _)

theorem modQueue {fn q f} (h : s.MemWf) : (s.modQueue fn q f).MemWf := h.setCtx h.ctx

theorem finishPacket {fn q idx cq slot k before} (h : s.MemWf) : (s.finishPacket fn q idx cq slot k before).MemWf := by
  unfold State.finishPacket
  extract_lets r k'
  have hr : r.1.MemWf := h.bufferList
  split
  · exact hr.writeCompletion
  · exact hr.modQueue

theorem closeJobs {fn q} (h : s.MemWf) : (s.closeJobs fn q).MemWf := by
  refine h.foldl fun h => ?_
  split
  · exact h.modQueue.writeCompletion
  · exact h

theorem closeAllJobs (h : s.MemWf) : s.closeAllJobs.MemWf := h.foldl fun h => .ite h (h.foldl fun h => h.closeJobs)

theorem writeStat {c a stat} (h : s.MemWf) : (s.writeStat c a stat).MemWf := by
  refine .ite ?_ h
  split
  · next e => exact (h.gWrite e).forceWrites
  · exact h

theorem addAt? {c a t} (h : s.MemWf) (e : s.addAt? c a = some t) : t.MemWf := by
  unfold State.addAt? at e
  extract_lets asid va die at e
  split at e
  · cases e
  · obtain ⟨u, hu, rfl⟩ := Option.map_eq_some_iff.mp e
    exact (h.tryGrant hu).forceWrites.dieWrite

/-- One more at a counter, or another state where it cannot be reached. -/
theorem addAt?_getD {c a} {t : State} (h : s.MemWf) (ht : t.MemWf) : ((s.addAt? c a).getD t).MemWf := by
  cases e : s.addAt? c a with
  | none => exact ht
  | some u => exact h.addAt? e

theorem addOne {c a} (h : s.MemWf) : (s.addOne c a).MemWf := h.addAt?_getD (.ite h.logRange h)

theorem bumpCmpl {c a} (h : s.MemWf) : (s.bumpCmpl c a).MemWf := .ite h (h.addAt?_getD h)

theorem finishWrites {t stat} (h : s.MemWf) : (s.finishWrites t stat).MemWf := by
  unfold State.finishWrites
  split
  · exact h.writeStat.bumpCmpl
  · exact h

theorem finishMxr {b} (h : s.MemWf) : (s.finishMxr b).MemWf := h.frame rfl

theorem dropWave {w} (h : s.MemWf) : (s.dropWave w).MemWf := h.frame rfl

theorem completeHost {t stat ended before} (h : s.MemWf) : (s.completeHost t stat ended before).MemWf := by
  unfold State.completeHost
  split
  · exact h
  · split
    · exact h
    · next q j e =>
      extract_lets u
      have hu : u.MemWf := h.modQueue
      refine finishPacket ?_
      exact hu.frame rfl

theorem finishTask {t stat} (h : s.MemWf) : (s.finishTask t stat).MemWf := by
  unfold State.finishTask
  extract_lets before ended u v w x
  have hv : v.MemWf := .ite h.finishWrites.dropWave h.finishWrites
  have hw : w.MemWf := hv.frame rfl
  have hx : x.MemWf := by
    unfold x
    split
    · exact modTask (.ite hw.finishMxr hw)
    · exact hw
  exact hx.completeHost

theorem execTaskFinish {task} (h : s.MemWf) : Kept (execTaskFinish task s) := by
  refine .next ?_
  split
  · split
    · exact .ite h.finishTask h
    · exact h
  · exact h

/-! ### Engine commands (R233–R245) -/

theorem issueCmd {c kind chk q size m d a} (h : s.MemWf) : (s.issueCmd c kind chk q size m d a).MemWf :=
  h.frame rfl

theorem engineOp {kind chk q size align d a} (h : s.MemWf) : (s.engineOp kind chk q size align d a).MemWf :=
  h.issue fun h => h.foldl fun h => h.issueCmd

theorem execQfence {b} (h : s.MemWf) : Kept (execQfence b s) := by
  refine .next (h.issue fun h => h.foldl fun {t m} h => ?_)
  have hf : (t.flushSlice m).MemWf := h.flushSlice
  exact hf.frame rfl

theorem enterCommand {t id} (h : s.MemWf) : (s.enterCommand t id).MemWf := by
  have hf : (s.fillLanes t t.lanes).MemWf := h.fillLanes
  exact hf.frame rfl

theorem feedCommands (h : s.MemWf) : s.feedCommands.MemWf := by
  unfold State.feedCommands
  extract_lets t
  have ht : t.MemWf := h.foldl fun h => .ite h.enterNode h
  exact ht.frame rfl

theorem noteEngine {c va n a} (h : s.MemWf) : (s.noteEngine c va n a).MemWf := by
  unfold State.noteEngine
  extract_lets asid
  split
  · exact h.frame rfl
  · exact h

theorem engRead {c a n} (h : s.MemWf) : ReadWf (s.engRead c a n) := by
  unfold State.engRead
  split
  · exact .of_ok h
  · split
    · next e =>
      have ht := h.readErr.ok e
      exact .of_ok (.ite ht ht.noteBytes)
    · next e => exact .of_error (h.readErr.error e).noteEngine

theorem writePieces {c ps keep} (h : s.MemWf) : (s.writePieces c ps keep).MemWf := by
  refine h.foldl fun h => .ite ?_ h
  split
  · next e => exact (h.tryGrant e).dieWrite
  · exact h

theorem engWrite {c a bs} (h : s.MemWf) : WriteWf (s.engWrite c a bs) := by
  unfold State.engWrite
  split
  · exact .of_ok h.writeSpad
  · extract_lets va ps
    split
    · exact .ite (.of_error h.writePieces) (.of_ok h.writePieces)
    · exact .of_error h.writePieces.logRange.noteEngine

theorem readPieces {c ps} (h : s.MemWf) : ReadWf (s.readPieces c ps) := by
  refine .foldl (.of_ok h) fun hq => ?_
  split
  · exact .of_error (hq.error rfl)
  · have ht := hq.ok rfl
    split
    · next e => exact .of_error (ht.engRead.error e)
    · next e => exact .of_ok (ht.engRead.ok e)

theorem writeAll {c ps} (h : s.MemWf) : WriteWf (s.writeAll c ps) := by
  refine .foldl (.of_ok h) fun hq => ?_
  split
  · exact .of_error (hq.error rfl)
  · exact (hq.ok rfl).engWrite

theorem copySegment {c k} (h : s.MemWf) : ReadWf (s.copySegment c k) := by
  unfold State.copySegment
  split
  · next e => exact .of_error (h.readPieces.error e)
  · next e =>
    have ht := h.readPieces.ok e
    split
    · next e => exact .of_error (ht.writeAll.error e)
    · next e => exact .of_ok (ht.writeAll.ok e)

theorem cbdcSegment {c k} (h : s.MemWf) : ReadWf (s.cbdcSegment c k) := by
  unfold State.cbdcSegment
  extract_lets d fmt i0 n
  split
  · next e =>
    have ht := h.readPieces.ok e
    dsimp only
    split
    · next e => exact .of_error (ht.engWrite.error e)
    · next e => exact .of_ok (ht.engWrite.ok e)
  · next e => exact .of_ok (h.readPieces.ok e)
  · next e => exact .of_error (h.readPieces.error e)

theorem foldAmax {c x} (h : s.MemWf) : WriteWf (s.foldAmax c x) := by
  unfold State.foldAmax
  extract_lets a
  split
  · exact .of_ok h.writeSpad
  · split
    · exact .of_error h.logRange.noteEngine
    · next e => exact .ite (.of_error (h.tryGrant e)) (.of_ok (h.tryGrant e).dieWrite)

theorem moveRow {c n j} (h : s.MemWf) : WriteWf (s.moveRow c n j) := by
  refine .ite (.of_ok h) ?_
  split
  · next e => exact .of_error (h.engRead.error e)
  · next e => exact (h.engRead.ok e).engWrite

theorem gatherBlock {c k} (h : s.MemWf) : WriteWf (s.gatherBlock c k) := by
  refine .foldl (.of_ok h) fun hq => ?_
  split
  · exact .of_error (hq.error rfl)
  · exact (hq.ok rfl).moveRow

theorem loadShell {c tbl} (h : s.MemWf) : (s.loadShell c tbl).MemWf := h.setCtx (writeBytes_wf h.ctx _ _)

theorem performUnit {c k} (h : s.MemWf) : WriteWf (s.performUnit c k) := by
  unfold State.performUnit
  split
  · exact h.copySegment.map_snd
  · exact h.copySegment.map_snd
  · exact h.cbdcSegment.map_snd
  · split
    · next e => exact .of_error (h.copySegment.error e)
    · next e => exact (h.copySegment.ok e).foldAmax
  · exact h.gatherBlock
  · exact h.gatherBlock
  · exact .of_ok h.loadShell

theorem modCmd {id f} (h : s.MemWf) : (s.modCmd id f).MemWf := h.frame rfl

theorem runCmd {c} (h : s.MemWf) : (s.runCmd c).MemWf := by
  unfold State.runCmd
  extract_lets e c' t
  have ht : t.MemWf := h.modCmd
  refine .ite h.modCmd (.ite ht ?_)
  split
  · next e => exact (ht.performUnit.ok e).modCmd
  · next e => exact (ht.performUnit.error e).frame rfl

theorem takeCopy {cluster node e id} (h : s.MemWf) : (s.takeCopy cluster node e id).MemWf := by
  unfold State.takeCopy
  split
  · exact h.dropEntry
  · refine .ite h ?_
    split
    · next e => exact (h.readObject.error e).dropEntry.endTask
    · next e => exact (h.readObject.ok e).frame rfl

theorem countStall {core} (h : s.MemWf) : (s.countStall core).MemWf := h.frame rfl

theorem setStaged {core w n} (h : s.MemWf) : (s.setStaged core w n).MemWf := .ite h.modEntries.countStall h.modEntries

theorem stage {core} (h : s.MemWf) : (s.stage core).MemWf := by
  unfold State.stage
  split
  · exact h
  · extract_lets ps
    split
    · exact h.setStaged
    · refine .ite h ?_
      split
      · next e => exact (h.readErr.error e).endWave
      · next e => exact (h.readErr.ok e).writeSpad.setStaged

theorem running {engine r} (h : s.MemWf) (e : s.running engine = some r) : r.2.2.MemWf := by
  unfold State.running at e
  split at e
  · split at e
    · cases e
    · cases e
      exact h
  · split at e
    · cases e
      dsimp only
      exact h.serve
    · cases e

/-- What an engine runs: nothing while a checkpoint holds it. -/
theorem running_ite {p : Prop} [Decidable p] {engine r} (h : s.MemWf)
    (e : (if p then none else s.running engine) = some r) : r.2.2.MemWf := by
  split at e
  · cases e
  · exact h.running e

theorem runEngine {cluster engine} (h : s.MemWf) : (s.runEngine cluster engine).MemWf := by
  unfold State.runEngine
  split
  · exact h
  · next e =>
    have ht := h.running_ite e
    split
    · exact .ite ht ht.runCmd
    · split
      · exact ht.takeCopy
      · exact ht

theorem fillToken {c} (h : s.MemWf) : (s.fillToken c).MemWf := by
  unfold State.fillToken
  split
  · exact h
  · extract_lets x mark u v
    have hu : u.MemWf := h.foldl fun h => h.fillWord
    have hv : v.MemWf := .ite (hu.foldl fun h => h.modSlice) hu
    exact hv.frame rfl

theorem completeCmd {c} (h : s.MemWf) : (s.completeCmd c).MemWf := by
  unfold State.completeCmd
  extract_lets src t
  have ht : t.MemWf := h.frame rfl
  split
  · exact ht.modTask
  · exact freeShares (.ite ht.fillToken.arrive ht.fillToken)

theorem execCopyComplete {id} (h : s.MemWf) : Kept (execCopyComplete id s) := by
  refine .next ?_
  split
  · exact .ite h.completeCmd h
  · exact h

/-! ### The arena of saved images (R326) -/

theorem writeArena {c off bs} (h : s.MemWf) : (s.writeArena c off bs).MemWf := by
  unfold State.writeArena
  extract_lets va
  split
  · exact .ite h.flushRange.physPut h
  · exact h
  · exact h

theorem readArena {c off n r} (h : s.MemWf) (e : s.readArena c off n = some r) : r.2.MemWf := by
  unfold State.readArena at e
  extract_lets va at e
  split at e
  · split at e
    · exact Option.some.inj e ▸ h.flushRange
    · cases e
  · cases e
  · cases e

end State.MemWf
end Sys2Proof.Machine

namespace Sys2Proof.Machine

set_option Elab.async false

/-- Allocating a share clears ranges of the core's memories. -/
theorem CoreRec.MemWf.takeShare {r : CoreRec} {h : Share} (hr : r.MemWf) : (r.takeShare h).MemWf := by
  unfold CoreRec.takeShare
  constructor
  · exact memClear_wf hr.spad _ _
  · exact memClear_wf hr.accm _ _
  · dsimp only
    exact memFold_wf (fun _ hn => memClear_wf hn _ _) _ hr.bdata
  · dsimp only
    exact memFold_wf (fun _ hn => memClear_wf hn _ _) _ hr.bside

/-- The shares of a presence are copied into empty memories. -/
theorem State.presenceImage_memWf (s : State) (core : Nat) (w : Wave) (ms : List Slice) (areas : List (Nat × List Byte)) :
    (s.presenceImage core w ms areas).MemWf := by
  have empty : Mem.wf [] = true := rfl
  unfold State.presenceImage
  constructor
  · exact memCopy_wf _ _ empty _ _
  · exact memCopy_wf _ _ empty _ _
  · dsimp only
    exact moveRows_wf _ _ empty _ _ _ _
  · dsimp only
    exact moveRows_wf _ _ empty _ _ _ _

namespace State.MemWf

variable {s : State}

/-! ### Images of slices and presences (R45, R163, R326) -/

theorem takeLinks {sid bs} (h : s.MemWf) : (s.takeLinks sid bs).MemWf := h.frame rfl

theorem saveSlice {c unit x} (h : s.MemWf) : (s.saveSlice c unit x).MemWf := h.writeArena.writeArena

theorem syncSlice {c i} (h : s.MemWf) : (s.syncSlice c i).1.MemWf := by
  unfold State.syncSlice
  split
  · exact h
  · split
    · exact h
    · exact writeArena (writeArena (writeArena (h.foldl fun h => h.writeArena)))

theorem syncAll {c is} (h : s.MemWf) : (s.syncAll c is).1.MemWf := h.foldlFst fun h => h.syncSlice

/-- Changing fields of the presences other than their memories. -/
theorem mapPresences {f : Presence → Presence} (h : s.MemWf) (keeps : ∀ {p}, p.MemWf → (f p).MemWf) :
    ({ s with presences := s.presences.map f } : State).MemWf := by
  refine { h with presences := fun q hq => ?_ }
  obtain ⟨p, hp, rfl⟩ := List.mem_map.mp hq
  exact keeps (h.presences p hp)

theorem syncImages (h : s.MemWf) : s.syncImages.MemWf := by
  refine .foldl (.foldl h fun {x p} h => ?_) fun {x p} h => ?_
  · have hr : (x.syncAll p.ctx p.image).1.MemWf := h.syncAll
    exact hr.frame rfl
  · have hr : (x.syncAll p.ctx p.image).1.MemWf := h.syncAll
    exact hr.mapPresences fun hq => .ite (hq.frame rfl) hq

theorem readImages {c is} (h : s.MemWf) : (s.readImages c is).MemWf := by
  refine h.foldl fun h => ?_
  split
  · next e => exact (h.readArena e).modSlice.takeLinks
  · exact h

theorem writePresence {p} (h : s.MemWf) : (s.writePresence p).MemWf := h.foldl fun h => h.writeArena

theorem readUnits {c us} (h : s.MemWf) : (s.readUnits c us).2.MemWf := by
  refine h.foldlWith fun h => ?_
  split
  · next e =>
    have hr := h.readArena e
    exact hr
  · exact h

theorem readPresence {p} (h : s.MemWf) : (s.readPresence p).2.MemWf := by
  unfold State.readPresence
  extract_lets us n k sh head cmds src t u areas octs
  have ht : t.MemWf := (h.readUnits (c := p.ctx) (us := us.take 2)).frame rfl
  have ha : areas.2.MemWf := by
    refine .foldlWith ht.readImages fun h => ?_
    exact h.readUnits
  have ho : octs.2.MemWf := by
    refine .foldlWith ha fun h => ?_
    exact h.readUnits
  exact ho.readUnits

/-! ### Placement, swapping, returns (R40, R45, R276, R277) -/

theorem placeOn {core w b} (h : s.MemWf) : (s.placeOn core w b).MemWf := by
  unfold State.placeOn
  extract_lets r oct n id t ids u
  have ht : t.MemWf := by
    unfold t
    split
    · exact h.setCore h.core.takeShare
    · exact h
  have hu : u.MemWf := ht.frame rfl
  exact .ite hu hu.enterNode

theorem execBlockPlace {dom} (h : s.MemWf) : Kept (execBlockPlace dom s) := by
  refine .next ?_
  split
  · exact h.placeOn
  · exact h

theorem listAt {dom wave} (h : s.MemWf) : (s.listAt dom wave).MemWf := by
  unfold State.listAt
  split
  · exact h.frame rfl
  · exact h

theorem execStealRequest {dom wave} (h : s.MemWf) : Kept (execStealRequest dom wave s) := by
  refine .next ?_
  split
  · refine .ite (listAt ?_) h
    exact h.frame rfl
  · exact h

theorem swapOut {g} (h : s.MemWf) : (s.swapOut g).MemWf := by
  unfold State.swapOut
  extract_lets ms w c us img save entry t
  have ht : t.MemWf := h.foldl fun h => h.saveSlice
  exact ht.frame rfl

theorem execGangSwapOut {core octet} (h : s.MemWf) : Kept (execGangSwapOut core octet s) := by
  refine .next ?_
  split
  · exact h.flushPoint.swapOut
  · exact h

theorem pushPresence {p} (h : s.MemWf) : (s.pushPresence p).MemWf :=
  .ite (enterNode (h.mapPresences fun hq => .ite (hq.frame rfl) hq)) h

theorem feedReturns (h : s.MemWf) : s.feedReturns.MemWf := by
  refine .foldl (h.foldl fun h => .ite ?_ h) fun h => h.pushPresence
  split
  · refine enterAt ?_
    exact h.frame rfl
  · refine enterNode ?_
    exact h.frame rfl

theorem seatSlices {back slot} (h : s.MemWf) : (s.seatSlices back slot).MemWf := h.frame rfl

theorem returnGang {p oct} (h : s.MemWf) : (s.returnGang p oct).MemWf := by
  unfold State.returnGang
  extract_lets t
  have ht : t.MemWf := h.readImages.seatSlices
  exact ht.frame rfl

theorem readArea {x} (h : s.MemWf) : (s.readArea x).2.MemWf := by
  unfold State.readArea
  cases e : s.readArena (s.ctxOfWave x.wave) x.areaOff 512 with
  | none => exact h
  | some r => exact h.readArena e

theorem writeArea {x bs} (h : s.MemWf) : (s.writeArea x bs).MemWf := h.writeArena

theorem unissueParks {core w} (h : s.MemWf) : (s.unissueParks core w).MemWf := by
  refine h.foldl fun {x p} h => ?_
  extract_lets pc y
  have hy : y.MemWf := h.foldl fun h => h.writeArena
  exact hy.frame rfl

theorem pullEntries {core w} (h : s.MemWf) : (s.pullEntries core w).MemWf := h.frame rfl

/-! ### Presences saved and restored (R195, R304–R311) -/

theorem savePresence {core w} (h : s.MemWf) : (s.savePresence core w).MemWf := by
  unfold State.savePresence
  extract_lets gs t gangOfSid ids back u ms read img v src x
  have ht : t.MemWf := h.foldl fun h => h.flushPoint
  have hu : u.MemWf := ht.frame rfl
  have hr : read.2.MemWf := hu.foldlWith fun h => h.readArea
  have hv : v.MemWf := hr.writePresence.unissueParks.pullEntries
  have hx : x.MemWf := hv.setCore (hv.core.frame rfl)
  refine { hx with presences := fun q hq => ?_ }
  rcases List.mem_append.mp hq with hq | hq
  · exact hx.presences q hq
  · rw [List.mem_singleton.mp hq]
    exact State.presenceImage_memWf _ _ _ _ _

theorem rearm {sids} (h : s.MemWf) : (s.rearm sids).MemWf := h.frame rfl

theorem takeReports (h : s.MemWf) : s.takeReports.MemWf := by
  refine .ite h (h.foldl fun h => ?_)
  split
  · exact h
  · exact h.raiseAll

theorem restorePresence {p sh m entry} (h : s.MemWf) : (s.restorePresence p sh m entry).MemWf := by
  unfold State.restorePresence
  extract_lets read p' t r r' back sids u v w
  have ht : t.MemWf := h.readPresence
  have hr : r.MemWf := ht.core.takeShare
  have hr' : r'.MemWf := by
    unfold r'
    constructor
    · exact memCopy_wf _ _ hr.spad _ _
    · exact memCopy_wf _ _ hr.accm _ _
    · dsimp only
      exact moveRows_wf _ _ hr.bdata _ _ _ _
    · dsimp only
      exact moveRows_wf _ _ hr.bside _ _ _ _
  have hu : u.MemWf := (ht.setCore hr').rearm.seatSlices
  clear_value u
  have hv : v.MemWf := { hu with presences := fun q hq => hu.presences q (List.mem_of_mem_filter hq) }
  have hw : w.MemWf := hv.modEntries
  refine hw.foldl fun h => ?_
  split
  · exact h.writeArea
  · exact h

theorem execGangRestore {core} (h : s.MemWf) : Kept (execGangRestore core s) := by
  refine .next ?_
  split
  · exact h.dropEntry.returnGang
  · exact h

theorem execPresenceRestore {core} (h : s.MemWf) : Kept (execPresenceRestore core s) := by
  refine .next ?_
  split
  · exact h.restorePresence
  · exact h

/-! ### Pre-emption and the world switch (R300, R310, R311, R327) -/

theorem countPreempt {leaf} (h : s.MemWf) : (s.countPreempt leaf).MemWf := h.setNode

theorem returnVictim {core w} (h : s.MemWf) : (s.returnVictim core w).MemWf := by
  unfold State.returnVictim
  split
  · exact h.pushPresence.feedReturns
  · exact h.feedReturns

theorem execWavePreemption {dom wave} (h : s.MemWf) : Kept (execWavePreemption dom wave s) := by
  have ht {k v wave} : (((s.savePresence k v).countPreempt (waveLeaf k)).returnVictim k wave).MemWf :=
    h.savePresence.countPreempt.returnVictim
  refine .next ?_
  split
  · split
    · refine .ite ?_ h
      split
      · split
        · exact .ite (.ite ht.placeOn ht) h
        · exact h
      · exact h
    · exact h
  · exact h

theorem flushServed {node e} (h : s.MemWf) : (s.flushServed node e).MemWf := by
  unfold State.flushServed
  split
  · exact h.flushPoint
  · exact h

theorem execPreemptionStop {node} (h : s.MemWf) : Kept (execPreemptionStop node s) := by
  refine .next ?_
  split
  · split
    · exact .ite h.flushServed.serve h
    · exact h
  · exact h

theorem saveCounters {c} (h : s.MemWf) : (s.saveCounters c).MemWf := writeArena (h.foldl fun h => h.foldTimed)

theorem loadCounters {c} (h : s.MemWf) : (s.loadCounters c).MemWf := by
  unfold State.loadCounters
  split
  · next e => exact (h.readArena e).setCtx (h.readArena e).ctx
  · exact h

theorem execWorldSwitch {dom} (h : s.MemWf) : Kept (execWorldSwitch dom s) := by
  refine .next ?_
  split
  · split
    · next c _ _ n _ =>
      extract_lets ps t
      have ht : t.MemWf := h.foldl fun h => h.savePresence
      have hl : ((t.saveCounters c).loadCounters n).MemWf := ht.saveCounters.loadCounters
      exact .ite (hl.frame rfl) h
    · exact h
  · exact h

end State.MemWf
end Sys2Proof.Machine

namespace Sys2Proof.Machine

set_option Elab.async false

/-! ### Tile instructions on the memories of a core (R205–R212) -/

namespace CoreRec.MemWf

variable {r : CoreRec}

theorem putAccm {m : Mem} (hr : r.MemWf) (hm : m.wf = true) : ({ r with accm := m } : CoreRec).MemWf := { hr with accm := hm }

theorem setTile {h t f} (hr : r.MemWf) : (r.setTile h t f).MemWf := by
  unfold CoreRec.setTile
  exact hr.putAccm (writeBytes_wf hr.accm _ _)

theorem loadRow {h o row} (hr : r.MemWf) : (r.loadRow h o row).MemWf := by
  unfold CoreRec.loadRow
  split
  · refine ⟨hr.spad, hr.accm, hr.bdata, ?_⟩
    dsimp only
    generalize List.range 32 = js
    refine memFold_wf (fun _ hn => ?_) _ hr.bside
    exact writeBytes_wf hn _ _
  · refine ⟨hr.spad, hr.accm, ?_, hr.bside⟩
    dsimp only
    generalize List.range 32 = js
    refine memFold_wf (fun _ hn => ?_) _ hr.bdata
    exact writeBytes_wf hn _ _

theorem transpose {h o} (hr : r.MemWf) : (r.transpose h o).MemWf := hr.setTile.setTile

theorem zeroTiles {h o} (hr : r.MemWf) : (r.zeroTiles h o).MemWf := by
  unfold CoreRec.zeroTiles
  exact hr.putAccm (memClear_wf hr.accm _ _)

theorem writeRow {h o rows} (hr : r.MemWf) : (r.writeRow h o rows).MemWf := by
  unfold CoreRec.writeRow
  exact hr.putAccm (writeBytes_wf hr.accm _ _)

theorem storeTile {h o} (hr : r.MemWf) : (r.storeTile h o).MemWf := by
  unfold CoreRec.storeTile
  split
  · exact { hr with spad := writeBytes_wf hr.spad _ _ }
  · exact hr

theorem loadTile {h o} (hr : r.MemWf) : (r.loadTile h o).MemWf := by
  unfold CoreRec.loadTile
  split
  · exact hr.setTile
  · exact hr

theorem tileUnit {h tsa o rows row} (hr : r.MemWf) : (r.tileUnit h tsa o rows row).MemWf := by
  unfold CoreRec.tileUnit
  split
  · exact hr.loadRow
  · exact hr.setTile
  · exact hr.setTile
  · exact hr.transpose
  · exact hr.setTile
  · exact hr.zeroTiles
  · exact hr.setTile
  · exact hr.writeRow
  · exact hr.storeTile
  · exact hr.loadTile
  · exact hr

theorem replay {h addr os tsa} (hr : r.MemWf) : (Machine.replay h addr os r tsa).1.MemWf := by
  induction os generalizing r tsa with
  | nil => exact hr
  | cons o os ih =>
    unfold Machine.replay
    split
    · exact hr
    · exact ih (List.foldlRecOn (motive := CoreRec.MemWf) _ _ hr fun _ hx _ _ => hx.tileUnit)

end CoreRec.MemWf

/-! ### Records of a context that hold no memory of their own -/

theorem Ctx.loadRule_shells (c : Ctx) (index : Word) (e : BitVec 256) : (c.loadRule index e).2.shells = c.shells := by
  unfold Ctx.loadRule
  split
  · rfl
  · split <;> rfl

theorem Ctx.rwRead_shells (c : Ctx) (sel : RwSel) : (c.rwRead sel).2.shells = c.shells := by
  cases sel <;> rfl

namespace State.MemWf

variable {s : State}

/-! ### The matrix array and the rewrite stage (R200–R231) -/

theorem fillTaccr {core e} (h : s.MemWf) : (s.fillTaccr core e).MemWf := by
  unfold State.fillTaccr
  split
  · exact h
  · exact dropTxn (h.foldl fun h => h.modSlice)

theorem tileStep {core oct} (h : s.MemWf) : (s.tileStep core oct).MemWf := by
  unfold State.tileStep
  extract_lets o
  split
  · exact h
  · extract_lets t u v
    have ht : t.MemWf := h.setCore h.core.tileUnit
    have hu : u.MemWf := .ite ht.countEvent ht
    have hv : v.MemWf := hu.setOctet
    exact .ite hu.setOctet (.ite hv.fillTaccr hv)

theorem setNext {core e next} (h : s.MemWf) : (s.setNext core e next).MemWf := by
  unfold State.setNext
  split
  · exact h.modEntries
  · exact h

theorem runArray {core} (h : s.MemWf) : (s.runArray core).MemWf := by
  unfold State.runArray
  split
  · exact h
  · next e =>
    have ht := h.running_ite e
    dsimp only at ht
    split
    · exact h
    · exact .ite ht.tileStep.setNext ht.tileStep.setNext.serve.freeShares

theorem attempt {core oct cx wave} (h : s.MemWf) : (s.attempt core oct cx wave).MemWf := by
  unfold State.attempt
  extract_lets o c r c1
  have hc : c1.shells.wf = true := h.ctx
  clear_value c1
  split
  · exact h.setCtx hc
  · extract_lets g src c2 t
    have hc2 : c2.shells.wf = true := hc
    have ht : t.MemWf := (h.setCtx hc2).setOctet
    exact ht.frame rfl

theorem arriveTile {f c m rows txn} (h : s.MemWf) : (s.arriveTile f c m rows txn).MemWf := by
  unfold State.arriveTile
  extract_lets cx flushes t o e u v w
  have ht : t.MemWf := .ite h.flushPoint h
  have hu : u.MemWf := ht.setOctet
  have hv : v.MemWf := hu.frame rfl
  exact hv.attempt.setOctet

theorem tileOp {f} (h : s.MemWf) : (s.tileOp f).MemWf := by
  have hf {ms : List Slice} : (ms.foldl State.flushSlice s).MemWf := h.flushSlices
  unfold State.tileOp
  split
  · exact h
  · split
    · exact h.frame rfl
    · extract_lets k ms w t rows u
      have hw : w.MemWf := h.setWait
      split
      · exact h.raiseAll.frame rfl
      · exact hf.frame rfl
      · exact hw.frame rfl
      · split
        · exact h.frame rfl
        · have ht : t.MemWf := h.advance
          have hu : u.MemWf := by
            unfold u
            split
            · exact ht.gangTxn
            · exact ht
          exact hu.arriveTile.afterIssue

theorem flushIssuer (h : s.MemWf) : s.flushIssuer.MemWf := by
  unfold State.flushIssuer
  split
  · exact h.flushPoint
  · exact h

theorem performTrule {t index} (h : s.MemWf) : (s.performTrule t index).MemWf := by
  unfold State.performTrule
  extract_lets u
  have hu : u.MemWf := h.fillLanes
  split
  · refine dropTxn (.foldl (hu.setCtx ?_) fun h => h.fillWord)
    rw [Ctx.loadRule_shells]
    exact hu.ctx
  · exact hu.dropTxn

theorem performTrwq {t sel clr} (h : s.MemWf) : (s.performTrwq t sel clr).MemWf := by
  refine dropTxn (.foldl (.ite (h.setCtx ?_) h) fun h => h.fillWord)
  rw [Ctx.rwRead_shells]
  exact h.ctx

theorem tileError {core oct addr} (h : s.MemWf) : (s.tileError core oct addr).MemWf := by
  unfold State.tileError
  extract_lets o stop
  split
  · exact h
  · refine .ite h.endWave ?_
    extract_lets p t
    have ht : t.MemWf := (h.setCore h.core.replay).setOctet
    split
    · exact ht.endWave
    · exact freeShares (ht.setCtx ht.ctx)

/-! ### Senders of the package (R294, R364, R366) -/

theorem enterPacket {n dest} (h : s.MemWf) : (s.enterPacket n dest).MemWf := by
  unfold State.enterPacket
  refine .ite h ?_
  split
  · exact h.enterNode
  · exact h

theorem feedPackets (h : s.MemWf) : s.feedPackets.MemWf :=
  .foldl (h.foldl fun h => .ite h h.enterPacket) fun h => h.enterPacket

theorem sendHead {group plane} (h : s.MemWf) : (s.sendHead group plane).MemWf := by
  unfold State.sendHead
  split
  · exact h
  · split
    · extract_lets t u
      have ht : t.MemWf := h.dropEntry
      have hu : u.MemWf := ht.countEvent
      split
      · exact hu.modFabOp.send
      · exact hu.frame rfl
      · exact ht
    · exact h

theorem modReq {id f} (h : s.MemWf) : (s.modReq id f).MemWf := h.frame rfl

theorem enterNetwork {n} (h : s.MemWf) : (s.enterNetwork n).MemWf := .ite h h.enterNode

theorem feedRequests (h : s.MemWf) : s.feedRequests.MemWf :=
  .foldl (h.foldl fun h => .ite h h.enterNetwork) fun h => h.enterNetwork

theorem packetOf {r} (h : s.MemWf) : ResultWf id Prod.snd (s.packetOf r) := by
  have hd {f : List Byte → NetPacket} : ResultWf id Prod.snd (match s.readObject r.ctx r.laddr r.len with
      | .ok d => Except.ok (f d.1, d.2)
      | .error e => .error e.2) := by
    split
    · next e => exact .of_ok (h.readObject.ok e)
    · next e => exact .of_error (h.readObject.error e)
  unfold State.packetOf
  extract_lets data
  split
  · exact hd
  · exact hd
  · exact .of_ok h
  · exact .of_error h

theorem execNetworkPacketSend {port} (h : s.MemWf) : Kept (execNetworkPacketSend port s) := by
  refine .next ?_
  split
  · exact h
  · split
    · refine .ite h ?_
      split
      · extract_lets t
        have ht : t.MemWf := h.dropEntry
        split
        · exact ht.frame rfl
        · exact ht
      · refine .ite h ?_
        split
        · next e => exact (h.packetOf.ok e).dropEntry.modReq.send
        · next e =>
          have ht := h.packetOf.error e
          exact ht.dropEntry.modReq
    · exact h

theorem placeData {c a bs} (h : s.MemWf) : (s.placeData c a bs).2.MemWf := by
  unfold State.placeData
  refine .iteAt Prod.snd ?_ h
  split
  · next e => exact h.gWrite e
  · exact h.logRange

theorem placeFor {r bs} (h : s.MemWf) : (s.placeFor r bs).2.MemWf := h.placeData.modReq

theorem receivePacket {p} (h : s.MemWf) : (s.receivePacket p).MemWf := by
  unfold State.receivePacket
  split
  · split
    · exact .ite h.send h.placeFor.send
    · exact h.send
  · split
    · exact h.placeData.send
    · exact h.send
  · split
    · split
      · next e =>
        have ht := h.readObject.ok e
        exact ht.frame rfl
      · next e =>
        have ht := h.readObject.error e
        exact ht.send
    · exact h.send
  · split
    · exact .ite h h.placeFor
    · exact h

theorem execNetworkPacketReceipt {p} (h : s.MemWf) : Kept (execNetworkPacketReceipt p s) := .next (.ite h h.receivePacket)

theorem execNetworkRequestComplete {id failed} (h : s.MemWf) : Kept (execNetworkRequestComplete id failed s) := by
  refine .next ?_
  split
  · exact h
  · refine .ite ?_ h
    extract_lets t u
    have ht : t.MemWf := h.frame rfl
    have hu : u.MemWf := .ite ht.addOne ht
    exact hu.addOne

/-! ### Host queues (R317–R321) -/

theorem advanceHead {fn q} (h : s.MemWf) : (s.advanceHead fn q).MemWf := h.modQueue

theorem refusePacket {fn q p k} (h : s.MemWf) : (s.refusePacket fn q p k).MemWf := by
  unfold State.refusePacket
  extract_lets hq t
  have ht : t.MemWf := .ite h.modQueue h.advanceHead
  exact ht.writeCompletion

theorem performPacket {fn q op act} (h : s.MemWf) (keeps : ∀ {fn p} {t : State}, t.MemWf → (act fn p t).2.MemWf) :
    (s.performPacket fn q op act).MemWf := by
  unfold State.performPacket
  extract_lets p idx cq r e
  refine .ite h ?_
  split
  · exact h.refusePacket
  · refine .ite h ?_
    have hr : r.1.MemWf := h.bufferList
    split
    · exact hr.advanceHead.writeCompletion
    · have he : e.2.MemWf := keeps hr.advanceHead
      split
      · exact he.finishPacket
      · exact he.modQueue

theorem execMalformedPacket {fn q} (h : s.MemWf) : Kept (execMalformedPacket fn q s) := .next (.ite h.refusePacket h)

theorem pushAct {q fn p} (h : s.MemWf) : (Machine.pushAct q fn p s).2.MemWf := by
  unfold Machine.pushAct
  extract_lets r
  have hr : r.2.2.MemWf := h.pushTask
  refine .iteAt Prod.snd h ?_
  split
  · exact hr
  · exact hr

theorem execPush {fn q} (h : s.MemWf) : Kept (execPush fn q s) := .next (h.performPacket fun h => h.pushAct)

theorem execFlush {fn q} (h : s.MemWf) : Kept (execFlush fn q s) := .next (h.performPacket fun h => h)

theorem readField {fn a n} (h : s.MemWf) : ResultWf id Prod.snd (s.readField fn a n) := by
  unfold State.readField
  split
  · next e => exact .of_ok (h.readObject.ok e)
  · next e => exact .of_error (h.readObject.error e)

theorem nodeAct {fn p} (h : s.MemWf) : (Machine.nodeAct fn p s).2.MemWf := by
  unfold Machine.nodeAct
  split
  · next e => exact h.readField.error e
  · next e =>
    have ht := h.readField.ok e
    exact .iteAt Prod.snd ht ht.writeDesc

theorem execNode {fn q} (h : s.MemWf) : Kept (execNode fn q s) := .next (h.performPacket fun h => h.nodeAct)

theorem progAct {fn p} (h : s.MemWf) : (Machine.progAct fn p s).2.MemWf := by
  unfold Machine.progAct
  split
  · next e => exact h.readField.error e
  · next e =>
    have ht := h.readField.ok e
    exact .iteAt Prod.snd (ht.setCtx ht.ctx) ht

theorem execProg {fn q} (h : s.MemWf) : Kept (execProg fn q s) := .next (h.performPacket fun h => h.progAct)

theorem oldWord {c va} (h : s.MemWf) : (s.oldWord c va).2.MemWf := by
  unfold State.oldWord
  split
  · next e => exact h.gRead e
  · exact h

theorem captureBytes {c w va bs} (h : s.MemWf) : (s.captureBytes c w va bs).MemWf := h.foldl fun h => h.oldWord.captureWord

theorem dmaPiece {c va bs} (h : s.MemWf) : (s.dmaPiece c va bs).MemWf := by
  unfold State.dmaPiece
  split
  · exact h.captureBytes
  · cases e : s.gWrite 4 (s.asidOf c) va bs with
    | none => exact h
    | some t => exact h.gWrite e

theorem putBytes {c va bs} (h : s.MemWf) : (s.putBytes c va bs).2.MemWf := by
  unfold State.putBytes
  extract_lets ps t u
  have ht : t.MemWf := h.foldl fun h => h.dmaPiece
  have hu : u.MemWf := ht.logRange
  exact .iteAt Prod.snd ht (hu.frame rfl)

theorem dmaIn {c q host va n} (h : s.MemWf) : (s.dmaIn c q host va n).2.MemWf := by
  unfold State.dmaIn
  extract_lets bs
  split
  · exact h.putBytes
  · exact putBytes (h.frame rfl)

theorem dmaOut {c host va n} (h : s.MemWf) : (s.dmaOut c host va n).2.MemWf := by
  unfold State.dmaOut
  extract_lets ps t u
  have ht : t.MemWf := by
    refine .foldl h fun h => ?_
    split
    · next e =>
      have hy := h.gRead e
      exact { hy with hostMem := writeBytes_wf hy.hostMem _ _ }
    · exact h
  have hu : u.MemWf := ht.logRange
  exact .iteAt Prod.snd ht (hu.frame rfl)

theorem dmaAct {q fn p} (h : s.MemWf) : (Machine.dmaAct q fn p s).2.MemWf := by
  unfold Machine.dmaAct
  extract_lets n a r
  have hr : r.2.MemWf := .iteAt Prod.snd h.dmaOut h.dmaIn
  exact .iteAt Prod.snd h (.iteAt Prod.snd h hr)

theorem execDma {fn q} (h : s.MemWf) : Kept (execDma fn q s) := .next (h.performPacket fun h => h.dmaAct)

end State.MemWf
end Sys2Proof.Machine

namespace Sys2Proof.Machine

set_option Elab.async false

/-- A choice between two outcomes. -/
protected theorem Kept.ite {p : Prop} [Decidable p] {a b : Host.Outcome State Fault Refusal} (ha : Kept a) (hb : Kept b) :
    Kept (if p then a else b) := by
  split <;> assumption

/-- A context's record empties its shell tables. -/
theorem Ctx.withRecord_shells (c : Ctx) (r : BitVec 2048) (key : Nat) : (c.withRecord r key).shells = [] := rfl

namespace State.MemWf

variable {s : State}

/-! ### Code objects and the tables of a context (R69, R260, R320–R325) -/

theorem fromCache {o} (h : s.MemWf) : (s.fromCache o).2.MemWf := h.frame rfl

theorem putNative {fn o dest area} (h : s.MemWf) : (s.putNative fn o dest area).2.MemWf := by
  unfold State.putNative
  extract_lets r w
  have hw : w.2.MemWf := h.fromCache.putBytes
  exact .iteAt Prod.snd hw (hw.foldl fun h => h.putBytes)

theorem setRegions {c rs} (h : s.MemWf) : (s.setRegions c rs).MemWf := writeArena (h.setCtx h.ctx)

theorem loadAct {fn p} (h : s.MemWf) : (Machine.loadAct fn p s).2.MemWf := by
  unfold Machine.loadAct
  extract_lets n o a area w t hd size u
  have hw : w.2.MemWf := h.putBytes
  have ht : t.MemWf := hw.invalidateRange
  have hu : u.2.MemWf := ht.putNative
  clear_value w t u
  refine .iteAt Prod.snd h (.iteAt Prod.snd hw ?_)
  split
  · refine .iteAt Prod.snd (.iteAt Prod.snd ht (.iteAt Prod.snd hu ?_)) ht.setRegions
    dsimp only
    exact setRegions hu.invalidateRange.invalidateRange
  · exact ht

theorem execLoad {fn q} (h : s.MemWf) : Kept (execLoad fn q s) := .next (h.performPacket fun h => h.loadAct)

theorem moveGranules {change} (h : s.MemWf) (keeps : ∀ {t : State}, t.MemWf → (change t).MemWf) : (s.moveGranules change).MemWf :=
  keeps (dropLines (h.foldl fun h => h.forceWrites))

theorem setHome {c i d} (h : s.MemWf) : (s.setHome c i d).MemWf := writeArena (h.moveGranules fun h => h.setCtx h.ctx)

theorem homeAct {fn p} (h : s.MemWf) : (Machine.homeAct fn p s).2.MemWf := by
  unfold Machine.homeAct
  split
  · next e => exact h.readField.error e
  · next e =>
    have ht := h.readField.ok e
    exact .iteAt Prod.snd ht ht.setHome

theorem execHome {fn q} (h : s.MemWf) : Kept (execHome fn q s) := .next (h.performPacket fun h => h.homeAct)

theorem pteAct {fn p} (h : s.MemWf) : (Machine.pteAct fn p s).2.MemWf := by
  unfold Machine.pteAct
  extract_lets va level r size t
  have hr : r.2.MemWf := by
    refine .foldlWith h fun h => ?_
    split
    · exact h.physWrite
    · exact h
  exact .ite hr.installed hr

theorem execPte {fn q} (h : s.MemWf) : Kept (execPte fn q s) := .next (h.performPacket fun h => h.pteAct)

theorem zeroPhys {key pa n} (h : s.MemWf) : (s.zeroPhys key pa n).MemWf := { h with hbm := memClear_wf h.hbm _ _ }

theorem addFrame {c big dom pa} (h : s.MemWf) : (s.addFrame c big dom pa).MemWf := by
  unfold State.addFrame
  extract_lets n t
  have ht : t.MemWf := h.zeroPhys
  exact .ite h (ht.setCtx ht.ctx)

theorem poolAct {fn p} (h : s.MemWf) : (Machine.poolAct fn p s).2.MemWf := h.foldl fun h => h.addFrame

theorem execPool {fn q} (h : s.MemWf) : Kept (execPool fn q s) := .next (h.performPacket fun h => h.poolAct)

theorem rulesAct {fn p} (h : s.MemWf) : (Machine.rulesAct fn p s).2.MemWf := by
  unfold Machine.rulesAct
  split
  · next e => exact h.readField.error e
  · next e =>
    have ht := h.readField.ok e
    split
    · exact ht
    · dsimp only
      refine ht.setCtx ?_
      dsimp only
      exact ht.ctx

theorem execRules {fn q} (h : s.MemWf) : Kept (execRules fn q s) := .next (h.performPacket fun h => h.rulesAct)

theorem withRecord {c r} (h : s.MemWf) : (s.withRecord c r).MemWf := by
  have ht {key} : (s.setCtx c ((s.ctx c).withRecord r key)).MemWf := by
    refine h.setCtx ?_
    rw [Ctx.withRecord_shells]
    rfl
  exact ht.frame rfl

theorem recordRules {c r v} (h : s.MemWf) (e : s.recordRules c r = .ok v) : v.2.MemWf := by
  unfold State.recordRules at e
  split at e
  · cases e
  · split at e
    · cases e
    · next hr =>
      split at e
      · cases e
      · rw [← Except.ok.inj e]
        exact h.readField.ok hr

theorem emptyTables {c} (h : s.MemWf) : (s.emptyTables c).MemWf := h.setRegions.writeArena

theorem ctxAct {fn p} (h : s.MemWf) : (Machine.ctxAct fn p s).2.MemWf := by
  unfold Machine.ctxAct
  extract_lets a c r t
  have ht : t.MemWf := h.withRecord
  clear_value r t
  refine .iteAt Prod.snd h (.iteAt Prod.snd ht.emptyTables ?_)
  split
  · exact h
  · next e =>
    have hu := ht.recordRules e
    exact emptyTables (hu.setCtx hu.ctx)

theorem execCtx {fn q} (h : s.MemWf) : Kept (execCtx fn q s) := .next (h.performPacket fun h => h.ctxAct)

/-! ### Domains that leave and return (R280–R283) -/

theorem rewriteLeaf {p e} (h : s.MemWf) : (s.rewriteLeaf p e).MemWf := by
  refine dropTlb (h.foldl fun h => ?_)
  split
  · exact h.physWrite
  · exact h

theorem copyFrame {src dst n} (h : s.MemWf) : (s.copyFrame src dst n).MemWf := { h with hbm := memCopy_wf _ _ h.hbm _ _ }

theorem movePage {p dom t} (h : s.MemWf) (e : s.movePage p dom = some t) : t.MemWf := by
  unfold State.movePage at e
  split at e
  · cases e
  · extract_lets big at e
    split at e
    · cases e
    · cases e
      exact rewriteLeaf (h.copyFrame.setCtx h.ctx)

theorem strandPages {ps} (h : s.MemWf) : (s.strandPages ps).MemWf := h.foldl fun h => h.rewriteLeaf

theorem moveShared {p ps dom} (h : s.MemWf) : (s.moveShared p ps dom).1.MemWf := by
  unfold State.moveShared
  split
  · exact h.strandPages
  · next e => exact strandPages (.foldl (h.movePage e) fun h => h.rewriteLeaf)

theorem evacuatePage {x : Evacuation} {may p} (h : x.state.MemWf) : (Machine.evacuatePage x may p).state.MemWf := by
  unfold Machine.evacuatePage
  refine .iteAt Evacuation.state h ?_
  extract_lets ps t r
  have ht : t.MemWf := h.foldl fun h => h.flushTag
  have hr : r.1.MemWf := .iteAt Prod.fst ht.moveShared ht.strandPages
  exact hr

theorem evacuate {ps ms readable} (h : s.MemWf) : (s.evacuate ps ms readable).state.MemWf :=
  List.foldlRecOn (motive := fun x : Evacuation => x.state.MemWf) _ _ (h.frame rfl) fun _ hx _ _ => evacuatePage hx

theorem passOrphans (h : s.MemWf) : s.passOrphans.MemWf := h.frame rfl

theorem departDomain {d index} (h : s.MemWf) : (s.departDomain d index).MemWf := by
  unfold State.departDomain
  extract_lets t u v w
  have ht : t.MemWf := h.endOnCores
  have hu : u.MemWf := ht.foldl fun h => h.forceWrites
  have hv : v.MemWf := hu.moveGranules fun h => h.frame rfl
  have hw : w.MemWf := hv.foldl fun h => h.endWave
  exact hw.passOrphans

theorem offlineDomain {d ms readable index} (h : s.MemWf) : (s.offlineDomain d ms readable index).state.MemWf :=
  .iteAt Evacuation.state h h.departDomain.evacuate

theorem putRanges {fn a rs} (h : s.MemWf) : (s.putRanges fn a rs).2.MemWf :=
  { h with hostMem := memFold_wf (fun _ hn => writeBytes_wf hn _ _) _ h.hostMem }

theorem offlineAct {fn p} (h : s.MemWf) : (Machine.offlineAct fn p s).2.MemWf := h.offlineDomain.putRanges

theorem execOffline {fn q} (h : s.MemWf) : Kept (execOffline fn q s) := .next (h.performPacket fun h => h.offlineAct)

theorem onlineAct {fn p} (h : s.MemWf) : (Machine.onlineAct fn p s).2.MemWf := by
  refine .iteAt Prod.snd h ?_
  dsimp only
  exact h.moveGranules fun h => h.frame rfl

theorem execOnline {fn q} (h : s.MemWf) : Kept (execOnline fn q s) := .next (h.performPacket fun h => h.onlineAct)

/-! ### The debug interface (R178–R180) -/

theorem dbgOp {fn at_ f} (h : s.MemWf) (keeps : ∀ sl, (f sl).2.MemWf) : (s.dbgOp fn at_ f).MemWf := by
  unfold State.dbgOp
  split
  · exact h.frame rfl
  · next sl _ => exact (keeps sl).frame rfl

theorem stopEntering {x} (h : s.MemWf) : (s.stopEntering x).MemWf := by
  unfold State.stopEntering
  extract_lets cx note dbg t
  have ht : t.MemWf := h.frame rfl
  exact ht.flushSlice.modSlice

theorem execDbgStop {fn at_} (h : s.MemWf) : Kept (execDbgStop fn at_ s) :=
  .next (h.dbgOp fun _ => .ite h (.ite h.stopEntering h.stopSlice))

theorem resumeSlices {hit} (h : s.MemWf) : (s.resumeSlices hit).MemWf := takeReports (h.frame rfl)

theorem execDbgResume {fn at_} (h : s.MemWf) : Kept (execDbgResume fn at_ s) :=
  .next (h.dbgOp fun _ => .iteAt Prod.snd h.resumeSlices h)

theorem execDbgStep {fn at_} (h : s.MemWf) : Kept (execDbgStep fn at_ s) :=
  .next (h.dbgOp fun _ => .iteAt Prod.snd h.modSlice h)

theorem setAttached {w a} (h : s.MemWf) : (s.setAttached w a).MemWf := h.frame rfl

theorem execDbgAttach {fn at_} (h : s.MemWf) : Kept (execDbgAttach fn at_ s) := .next (h.dbgOp fun _ => h.setAttached)

theorem execDbgDetach {fn at_} (h : s.MemWf) : Kept (execDbgDetach fn at_ s) := by
  refine .next (h.dbgOp fun _ => ?_)
  dsimp only
  split
  · exact .ite h.setAttached.resumeSlices h
  · exact h

theorem execDbgRead {fn at_ scl reg} (h : s.MemWf) : Kept (execDbgRead fn at_ scl reg s) := by
  refine .next (h.dbgOp fun _ => ?_)
  dsimp only
  split
  · exact h
  · exact h.frame rfl

theorem discardFills {sid r} (h : s.MemWf) : (s.discardFills sid r).MemWf := h.frame rfl

theorem dbgPut {sid r mask x} (h : s.MemWf) : (s.dbgPut sid r mask x).MemWf := h.modSlice

theorem execDbgWrite {fn at_ scl reg lmask force data} (h : s.MemWf) : Kept (execDbgWrite fn at_ scl reg lmask force data s) := by
  refine .next (h.dbgOp fun _ => .iteAt Prod.snd h ?_)
  split
  · exact h
  · exact .iteAt Prod.snd h.dbgPut (.iteAt Prod.snd h h.discardFills.dbgPut)

theorem writeDbgcmd {fn v} (h : s.MemWf) : Kept (writeDbgcmd fn v s) := by
  unfold Machine.writeDbgcmd
  split
  · exact h.execDbgStop
  · exact h.execDbgResume
  · exact h.execDbgStep
  · exact h.execDbgRead
  · exact h.execDbgWrite
  · exact h.execDbgAttach
  · exact h.execDbgDetach
  · exact .next (h.frame rfl)

/-! ### The host's registers, counters and reports (R5, R268, R317, R324, R328) -/

theorem writeWindowReg {f length v} (h : s.MemWf) : (s.writeWindowReg f length v).MemWf := by
  refine .ite h (h.setCtx ?_)
  split <;> exact h.ctx

theorem writeCounter {f off v} (h : s.MemWf) : (s.writeCounter f off v).MemWf := by
  unfold State.writeCounter
  extract_lets c k t
  have ht : t.MemWf := h.foldTimed
  split
  · exact .ite (h.setCtx h.ctx) h
  · split
    · exact .ite (ht.setCtx ht.ctx) h
    · exact h.setCtx h.ctx

theorem writeQueueReg {f off v} (h : s.MemWf) : (s.writeQueueReg f off v).MemWf := by
  unfold State.writeQueueReg
  extract_lets q
  refine .ite h ?_
  split
  · exact h.modQueue
  · exact h.modQueue
  · exact h.modQueue
  · exact h

theorem writeFabricReg {off v} (h : s.MemWf) : (s.writeFabricReg off v).MemWf := by
  unfold State.writeFabricReg
  split
  · exact h.frame rfl
  · exact h.frame rfl
  · exact h.frame rfl
  · exact h.frame rfl
  · exact h

theorem writeRecoveryReg {off v} (h : s.MemWf) : (s.writeRecoveryReg off v).MemWf := by
  unfold State.writeRecoveryReg
  split
  · exact h.frame rfl
  · exact h.frame rfl
  · exact h.frame rfl
  · exact h

theorem execRegisterWrite {fn off val} (h : s.MemWf) : Kept (execRegisterWrite fn off val s) := by
  unfold Machine.execRegisterWrite
  extract_lets o
  refine .ite h.writeDbgcmd ?_
  · refine .next (.ite h.writeCounter (.ite h.writeQueueReg (.ite h (.ite h.writeWindowReg (.ite h.writeWindowReg (.ite ?_ (.ite ?_
      (.ite h.writeWindowReg (.ite h.writeRecoveryReg (.ite ?_ h.writeFabricReg))))))))))
    · exact h.frame rfl
    · exact .ite h (h.frame rfl)
    · exact { h with endpoints := writeLE_wf h.endpoints _ _ _ }

theorem execApertureAccess {off write count} (h : s.MemWf) : Kept (execApertureAccess off write count s) := by
  unfold Machine.execApertureAccess
  extract_lets pa
  refine .next ?_
  split
  · next k bs _ =>
    extract_lets cs t
    have ht : t.MemWf := h.physWrite
    exact ht.frame rfl
  · exact h.frame rfl
  · exact h.frame rfl
  · exact h.frame rfl

theorem execCounterOverflow {c k} (h : s.MemWf) : Kept (execCounterOverflow c k s) := .next (.ite h.addCount h)

theorem putReport {c r} (h : s.MemWf) : (s.putReport c r).MemWf := by
  unfold State.putReport
  extract_lets x asid full t
  have ht : t.MemWf := h.frame rfl
  refine .ite ht.addOne ?_
  split
  · next e => exact ht.readObject.error e
  · next bs u e =>
    have hu : u.MemWf := ht.readObject.ok e
    extract_lets va
    refine addOne ?_
    cases e : u.gWrite 4 asid va (toBytes 16 r.toNat) with
    | none => exact hu.logRange
    | some v => exact hu.gWrite e

theorem execReuseReport {wave range dom misses} (h : s.MemWf) : Kept (execReuseReport wave range dom misses s) := by
  refine .next ?_
  split
  · exact h
  · split
    · exact h
    · refine .ite h ?_
      extract_lets t u
      have ht : t.MemWf := h.tick
      have hu : u.MemWf := ht.putReport
      exact .ite ht (hu.frame rfl)

end State.MemWf
end Sys2Proof.Machine

namespace Sys2Proof.Machine

set_option Elab.async false

/-! ### Resets (R5, R331, R334) -/

/-- A package in reset has reset cores and contexts; only the host's memory and the given one are kept. -/
theorem State.MemWf.inReset {s : State} {hbm : Mem} {poison sealed t} (h : s.MemWf) (hm : hbm.wf = true) :
    (s.inReset hbm poison sealed t).MemWf where
  hbm := hm
  cdata := State.MemWf.reset.cdata
  hostMem := h.hostMem
  endpoints := State.MemWf.reset.endpoints
  cores r hr := by
    obtain ⟨i, hi, rfl⟩ := Vector.mem_iff_getElem.mp hr
    simp only [State.inReset, Vector.getElem_ofFn]
    exact CoreRec.MemWf.reset.frame rfl
  presences := State.MemWf.reset.presences
  ctxs := State.MemWf.reset.ctxs

namespace State.MemWf

variable {s : State}

theorem skipStep {k d} (h : s.MemWf) : (s.skipStep k d).MemWf := h.frame rfl

theorem bootFrom {fuel k} (h : s.MemWf) : (s.bootFrom fuel k).MemWf := by
  have hp {p} : ({ s with trust := { s.trust with power := p } } : State).MemWf := h.frame rfl
  induction fuel generalizing s k with
  | zero => exact hp
  | succ n ih =>
    unfold State.bootFrom
    refine .ite hp (.ite hp ?_)
    split
    · exact .ite hp hp
    · exact .ite (h.frame rfl) hp
    · exact .ite (ih h hp) hp
    · refine .ite (ih h.skipStep ?_) hp
      exact h.frame rfl

theorem restart {hbm poison sealed t} (h : s.MemWf) (hm : hbm.wf = true) : (s.restart hbm poison sealed t).MemWf :=
  bootFrom (h.inReset hm)

theorem bootNext {k} (h : s.MemWf) : (s.bootNext k).MemWf := bootFrom (h.frame rfl)

theorem planeResult {p ok} (h : s.MemWf) : (s.planeResult p ok).MemWf := by
  unfold State.planeResult
  extract_lets ps rest f tr t
  have ht : t.MemWf := h.frame rfl
  exact .ite h (.ite ht.bootNext ht)

theorem stepResult {k plane ok} (h : s.MemWf) : (s.stepResult k plane ok).MemWf := by
  refine .ite h.planeResult (.ite (.ite h.bootNext ?_) (.ite (bootNext ?_) (h.restart h.hbm)))
  · exact h.frame rfl
  · exact h.frame rfl

theorem execBootStepResult {step plane ok} (h : s.MemWf) : Kept (execBootStepResult step plane ok s) :=
  .next (.ite h.stepResult h)

theorem execPowerOn (h : s.MemWf) : Kept (execPowerOn s) := .next (h.restart rfl)

theorem execDeviceReset (h : s.MemWf) : Kept (execDeviceReset s) := .next (h.restart h.hbm)

theorem execRecoveryGo {commit} (h : s.MemWf) : Kept (execRecoveryGo commit s) := by
  refine .next ?_
  split
  · exact h.frame rfl
  · exact h

theorem execRecoveryFetchEnd {fetched passed} (h : s.MemWf) : Kept (execRecoveryFetchEnd fetched passed s) := by
  refine .next ?_
  split
  · exact h
  · refine .ite h (.ite ?_ (.ite ?_ (bootNext ?_)))
    · exact h.frame rfl
    · exact h.frame rfl
    · exact h.frame rfl

theorem execFirmwareUpdate {image} (h : s.MemWf) : Kept (execFirmwareUpdate image s) := by
  refine .next ?_
  split
  · exact h
  · exact h.frame rfl

/-! ### Functions and the trust die (R323, R331, R332) -/

theorem dropWork {c} (h : s.MemWf) : (s.dropWork c).MemWf := by
  unfold State.dropWork
  extract_lets ids ws t cs os ns mine
  have ht : t.MemWf := h.foldl fun h => h.endWave
  exact ht.frame rfl

theorem execFunctionReset {fn} (h : s.MemWf) : Kept (execFunctionReset fn s) := by
  unfold Machine.execFunctionReset
  extract_lets t c src fresh u
  have ht : t.MemWf := by
    unfold t
    split
    · exact h.dropWork.flushTag
    · exact h.dropWork
  have hf : fresh.shells.wf = true := by
    unfold fresh
    split <;> rfl
  have hu : u.MemWf := ht.setCtx hf
  exact .next (hu.frame rfl)

theorem execTdispLock {fn} (h : s.MemWf) : Kept (execTdispLock fn s) := .next (.ite (h.setCtx h.ctx) h)

theorem execTdispRun {fn} (h : s.MemWf) : Kept (execTdispRun fn s) := .next (.ite (h.setCtx h.ctx) h)

theorem spdmAnswer {req content} (h : s.MemWf) : (s.spdmAnswer req content).MemWf := h.frame rfl

theorem modSpdm {f} (h : s.MemWf) : (s.modSpdm f).MemWf := h.frame rfl

theorem spdmStep {req ok content f} (h : s.MemWf) : (s.spdmStep req ok content f).MemWf := .ite h.modSpdm.spdmAnswer h.spdmAnswer

theorem execFinish {verified} (h : s.MemWf) : Kept (execFinish verified s) := .next (.ite h.modSpdm.spdmAnswer h.spdmStep)

/-! ### Errors and retirement (R197, R198, R280, R336) -/

theorem startTest {u loc} (h : s.MemWf) : (s.startTest u loc).MemWf := by
  unfold State.startTest
  extract_lets tr t
  have ht : t.MemWf := h.frame rfl
  exact .ite h (.ite (ht.setCore (ht.core.frame rfl)) ht)

theorem consumeError {k} (h : s.MemWf) : (s.consumeError k).MemWf := by
  unfold State.consumeError
  extract_lets hit
  have hh {core slot case a} : (hit core slot case a).MemWf := by
    unfold hit
    split
    · exact h.endWave
    · exact h
  cases k with
  | none => exact h
  | registerFile | controlState | storeWord | bstackRow => exact hh
  | tileEntry => exact h.tileError

theorem poisonAt {u pa} (h : s.MemWf) : (s.poisonAt u pa).MemWf := .ite (h.frame rfl) h

theorem execErrorDetected {e} (h : s.MemWf) : Kept (execErrorDetected e s) := by
  unfold Machine.execErrorDetected
  extract_lets t u v
  have hv : v.MemWf := h.startTest.tick.logError
  exact .next (.ite hv.poisonAt.consumeError hv)

theorem retireCore {k index} (h : s.MemWf) : (s.retireCore k index).MemWf := by
  unfold State.retireCore
  extract_lets t r u leaf
  have ht : t.MemWf := h.endOnCores
  have hu : u.MemWf := keepCmds (ht.setCore (ht.core.frame rfl))
  exact hu.frame rfl

theorem retireFrame {frame} (h : s.MemWf) : (s.retireFrame frame).MemWf := by
  unfold State.retireFrame
  extract_lets ps t inside clean u
  have ht : t.MemWf := h.foldl fun h => h.flushTag
  have hu : u.MemWf := by
    refine { ht with ctxs := fun c hc => ?_ }
    obtain ⟨x, hx, rfl⟩ := Vector.mem_map.mp hc
    exact ht.ctxs x hx
  clear_value ps
  split
  · exact hu
  · exact hu.moveShared

theorem trimCache {c dom} (h : s.MemWf) : (s.trimCache c dom).MemWf := h.foldl fun h => h.evictBits

theorem retireUnit {u loc} (h : s.MemWf) : (s.retireUnit u loc).MemWf := by
  cases u with
  | core => exact h.retireCore
  | l2WayGroup | l3Bank => exact h.trimCache
  | hbmFrame => exact h.retireFrame
  | computeDie | baseDie => exact h.offlineDomain
  | tuiquelLane => exact h.frame rfl
  | dieToDie | pageTable => exact h

theorem execSelfTestEnd {unit loc pass} (h : s.MemWf) : Kept (execSelfTestEnd unit loc pass s) := by
  refine .next ?_
  split
  · exact h
  · extract_lets tr t r u
    have ht : t.MemWf := h.frame rfl
    have hu : u.MemWf := .ite (ht.setCore (ht.core.frame rfl)) ht
    exact .ite hu (retireUnit (hu.frame rfl))

theorem slowCore {k} (h : s.MemWf) : (s.slowCore k).MemWf := .ite h.shiftFreq h

theorem execFrequencyDecay {core} (h : s.MemWf) : Kept (execFrequencyDecay core s) := by
  unfold Machine.execFrequencyDecay
  extract_lets t r recent
  have ht : t.MemWf := h.tick
  refine .next (.ite ht (.ite ?_ (shiftFreq (ht.setCore (ht.core.frame rfl)))))
  exact ht.frame rfl

theorem execTempThrottle {die} (h : s.MemWf) : Kept (execTempThrottle die s) := by
  refine .next ?_
  split
  · exact h.foldl fun h => h.slowCore
  · exact h
  · exact h
  · exact h

theorem execTempShutdown {die} (h : s.MemWf) : Kept (execTempShutdown die s) := by
  unfold Machine.execTempShutdown
  extract_lets t x u
  have hu : u.MemWf := h.tick.logError
  exact .next (inReset (hu.frame rfl) rfl)

theorem execPcapSet {watts} (h : s.MemWf) : Kept (execPcapSet watts s) := by
  refine .next (.ite ?_ h)
  exact h.frame rfl

theorem execPcapLimitReached (h : s.MemWf) : Kept (execPcapLimitReached s) := .next (h.foldl fun h => h.slowCore)

/-! ### Outstanding operations (R34, R149, R176, R261) -/

theorem dropRead {t} (h : s.MemWf) : (s.dropRead t).MemWf := by
  unfold State.dropRead
  split
  · exact h.dropTxn.keepCmds
  · exact h.dropTxn

theorem unlessPoisoned {t perform} (h : s.MemWf) (keeps : ∀ {u : State}, u.MemWf → (perform u).MemWf) :
    (s.unlessPoisoned t perform).MemWf := by
  unfold State.unlessPoisoned
  split
  · exact h.dropRead.endPoisoned
  · exact keeps h

theorem fillPair {t x} (h : s.MemWf) : (s.fillPair t x).MemWf := h.foldl fun h => h.modSlice

theorem takeWord {t m} (h : s.MemWf) : (s.takeWord t m).MemWf :=
  .ite (dropTxn (.foldl (h.setCtx h.ctx) fun h => h.fillWord)) h

theorem readWait {t threshold} (h : s.MemWf) : (s.readWait t threshold).MemWf := by
  unfold State.readWait
  split
  · exact h.dropTxn
  · refine .ite h (h.unlessPoisoned fun {u} hu => ?_)
    have hn {t ls v ms} : ((u.fillLanes t ls).noteRead v ms).MemWf := hu.fillLanes.noteRead
    refine .ite (noteAcquire (dropTxn (hn.foldl fun h => h.fillWord))) hn

theorem completeTxn {t} (h : s.MemWf) : (s.completeTxn t).MemWf := by
  unfold State.completeTxn
  generalize t.kind = kind
  cases kind with
  | load | atomic | amaxx => exact .ite (h.unlessPoisoned fun h => h.completeAccess) h
  | barr => exact .ite h.performBarr.dropTxn h
  | bart => exact .ite h.performBart.dropTxn h
  | waitw => exact .ite h h.takeWord
  | waitv => exact h.readWait
  | qpush => exact .ite (h.unlessPoisoned fun h => h.noteRead.completeQpush) h
  | fpool => exact h.takeFrame.fillPair.dropTxn
  | ptew => exact dropTxn (h.ptew.foldl fun h => h.fillWord)
  | trule => exact .ite (h.unlessPoisoned fun h => h.noteRead.performTrule) h
  | trwq => exact h.performTrwq
  | command => exact .ite (h.unlessPoisoned fun h => h.noteRead.enterCommand) h
  | xarr => exact .ite h.completeXarr h
  | xwait => exact .ite h.completeXwait h
  | xfence => exact .ite h.completeXfence h
  | nsend | npost => exact .ite (h.unlessPoisoned fun h => h.noteRead.completeNet) h
  | store | fence | taccr | token | stx | amx | ldx | amxr | wake => exact h

theorem execRegisterFill {id} (h : s.MemWf) : Kept (execRegisterFill id s) := by
  refine .next ?_
  split
  · exact h.completeTxn
  · exact h

theorem execWaitvRecheck {id} (h : s.MemWf) : Kept (execWaitvRecheck id s) := by
  refine .next ?_
  split
  · split
    · exact h.readWait
    · exact h
  · exact h

theorem reachCore {t} (h : s.MemWf) : (s.reachCore t).MemWf := .ite (h.frame rfl) h

theorem execStoreDiePoint {id coreOnly} (h : s.MemWf) : Kept (execStoreDiePoint id coreOnly s) := by
  refine .next ?_
  split
  · exact h
  · refine .ite h ?_
    split
    · exact .ite h.reachCore (h.unlessPoisoned fun h => h.performLanes.dropTxn)
    · exact .ite h.acceptFabric h

theorem execWriteApplyAtDie {id die} (h : s.MemWf) : Kept (execWriteApplyAtDie id die s) := by
  refine .next ?_
  split
  · exact .ite h.applyWrite (.ite h.placeWrite h)
  · exact h

theorem dropLane {t l} (h : s.MemWf) : (s.dropLane t l).MemWf := by
  unfold State.dropLane
  split
  · exact h.frame rfl
  · exact h.frame rfl

theorem walkFault {t l g k} (h : s.MemWf) : (s.walkFault t l g k).MemWf := .ite h.dropLane (h.frame rfl)

theorem walkFor {t l} (h : s.MemWf) : (s.walkFor t l).MemWf := by
  unfold State.walkFor
  split
  · exact .ite h.installLeaf h.walkFault
  · exact h.walkFault
  · exact h.logMalformed.walkFault

theorem execPageWalk {asid va} (h : s.MemWf) : Kept (execPageWalk asid va s) := by
  refine .next (.ite h ?_)
  split
  · exact h.walkFor
  · exact h

theorem reportTo {sid} (h : s.MemWf) : (s.reportTo sid).MemWf := by
  unfold State.reportTo
  split
  · exact h
  · exact .ite h (.ite h.raiseTrap h.modSlice)

theorem execLateFaultReport {id} (h : s.MemWf) : Kept (execLateFaultReport id s) := by
  refine .next ?_
  split
  · exact h
  · exact h.foldl fun h => h.reportTo

theorem execTrapEntry {core slot} (h : s.MemWf) : Kept (execTrapEntry core slot s) := by
  refine .next ?_
  split
  · exact h.tryEnter
  · exact h

/-! ### What follows every step (R169, R215, R235, R304, R305) -/

theorem prune (h : s.MemWf) : s.prune.MemWf := by
  unfold State.prune
  extract_lets t
  have ht : t.MemWf := h.frame rfl
  exact .ite ht (ht.frame rfl)

theorem feedOctets (h : s.MemWf) : s.feedOctets.MemWf := h.foldl fun h => .ite h h.enterNode

theorem freeAllShares (h : s.MemWf) : s.freeAllShares.MemWf := h.foldl fun h => .ite h h.freeShares

theorem feedTree (h : s.MemWf) : s.feedTree.MemWf := h.prune.feedOctets.feedCommands.feedReturns.feedPackets.feedRequests

theorem feed (h : s.MemWf) : s.feed.MemWf :=
  h.feedTree.closeAllRounds.serveHeld.closeAllJobs.freeAllShares.keepTranslations.takeReports.syncImages

end State.MemWf
end Sys2Proof.Machine

namespace Sys2Proof.Machine

set_option Elab.async false
namespace State.MemWf

variable {s : State}

/-! ### Every instruction and step -/

theorem execPathEndPop {core slot} (h : s.MemWf) : Kept (execPathEndPop core slot s) := by
  refine .next ?_
  split
  · exact .ite h.popGang h
  · exact h

theorem execRegangTimeout {id} (h : s.MemWf) : Kept (execRegangTimeout id s) := by
  refine .next ?_
  split
  · exact .ite h.closeRegang h
  · exact h

/-- Every instruction and every step leaves the memories in canonical form. -/
theorem exec {i : Instr} (h : s.MemWf) : Kept (exec i s) := by
  cases i with
  | nop | fetst | li | addi | andi | ori | addp | addpi | getm | pref | vsel | plog | cbfly | vmovs => exact .next h.issueLocal
  | add | sub | mul | mulhs | mulhu | divs | divu | andS | orS | xorS | shl | shr | sar | mins | maxs | slt => exact .next h.scalarOp
  | bra | brp => exact .next h.branchOp
  | bri | call | calli | ret => exact .next h.wholeOp
  | retr | rett => exact .next h.retOp
  | exit => exact .next (h.issue fun h => h.foldl fun h => h.exitSlice)
  | yield => exact .next (h.issue wakeGang)
  | trap => exact .next (h.issue fun h => h.foldl fun h => h.stopSlice)
  | rgn | femrk | csrr | mxq | vred => exact .next (h.issue fun h => h.foldl fun h => h.modSlice)
  | regang => exact .next (h.issue arriveRegang)
  | ptew | fpool | waitw | waitv => exact .next (h.issue fun h => h.foldl fun h => h.markEmpty.addTxn)
  | csrw => exact .next (h.issue fun h => h.foldl fun h => h.writeCsr)
  | setm | setmi => exact .next (h.issue fun h => h.foldl fun h => h.writeMode)
  | rdts => exact .next (h.issue fun h => h.tick.foldl fun h => h.modSlice)
  | join => exact .next (h.issue fun h => h.foldl fun h => h.joinCrew)
  | leave => exact .next (h.issue fun h => h.foldl fun h => h.leaveCrew)
  | vadd | vsub | vmul | vmulh | vmad | vmin | vmax | vminu | vmaxu | vabsd | vand | vor | vxor | vandn | vshl | vshr | vsar | vrot
  | vdot4 | fadd | fsub | fmul | ffma | ffms | fmin | fmax | pack => exact .next h.vec2
  | vcmp | fcmp => exact .next h.vecCmp
  | vli | vbcs | ctwid | cmul | cfma | cconj => exact .next h.vecOp
  | vclz | vbitc | frcp | frsq | fexp2 | flog2 | fsin | fcos | ftanh | fclass | unpk | mxdq | cbd => exact .next h.vec1
  | fcvt | ftoi | itof => exact .next h.cvtOp
  | vballot | vpopc | vshuf | vbcast | vscan => exact .next h.crossOp
  | ldB | ldH | ldW | ldAcq => exact .next h.loadOp
  | stB | stH | stW | stRel => exact .next h.storeOp
  | lds | ldsAcq => exact .next h.scalarLoad
  | sts | stsRel => exact .next h.scalarStore
  | ldp | stp => exact .next (h.issue gangTxn)
  | amaxx | wake | xwait | qpush | trule | trwq => exact .next (h.issue sliceTxns)
  | atomAdd | atomMin | atomMax | atomAnd | atomOr | atomXor | atomXchg => exact .next h.atomVec
  | atomCas => exact .next h.atomOp
  | fence | fenceAcq | fenceRel => exact .next h.fenceOp
  | bari => exact .next (h.issue fun h => h.foldl fun h => h.flushSlice.initBar)
  | barr => exact .next (h.issue fun h => h.flushSlices.gangTxn)
  | barw => exact .next (h.issue fun h => .ite h.flushSlices h.flushSlices.startWait)
  | bart | xarr | xfence => exact .next (h.issue fun h => h.flushSlices.sliceTxns)
  | cpy | cpys | cbdc | cpyam | gath | scat | shld => exact .next h.engineOp
  | qfence => exact h.execQfence
  | tldb | tmma | tmmat | ttrn | tscl | tzero | tadd | taccr | taccw | taccs | taccl | tmxs => exact .next h.tileOp
  | tsync => exact .next (h.flushIssuer.issue fun h => h)
  | stx | ldx | amx | amxr => exact .next h.remoteOp
  | nsend | npost => exact .next h.netOp
  | pathEndPop => exact h.execPathEndPop
  | registerFill => exact h.execRegisterFill
  | regangTimeout => exact h.execRegangTimeout
  | gangSwapOut => exact h.execGangSwapOut
  | gangRestore => exact h.execGangRestore
  | lateFaultReport => exact h.execLateFaultReport
  | trapEntry => exact h.execTrapEntry
  | pageWalk => exact h.execPageWalk
  | storeDiePoint => exact h.execStoreDiePoint
  | writeApplyAtDie => exact h.execWriteApplyAtDie
  | reuseReport => exact h.execReuseReport
  | copySegment => exact .next (.ite h h.runEngine)
  | gatherBlock => exact .next h.runEngine
  | copyComplete => exact h.execCopyComplete
  | tilePerform => exact .next h.runArray
  | errorDetected => exact h.execErrorDetected
  | selfTestEnd => exact h.execSelfTestEnd
  | frequencyDecay => exact h.execFrequencyDecay
  | nodeRefresh => exact .next (.ite h.refreshNode h)
  | nodeRelease => exact .next (.ite h.releaseHead h)
  | preemptionStop => exact h.execPreemptionStop
  | blockPlace => exact h.execBlockPlace
  | stealRequest => exact h.execStealRequest
  | wavePreemption => exact h.execWavePreemption
  | presenceRestore => exact h.execPresenceRestore
  | stagingCopy => exact .next (.ite h h.stage)
  | taskFinish => exact h.execTaskFinish
  | bundlePhaseStart => exact h.execBundlePhaseStart
  | bundlePhaseRetire => exact h.execBundlePhaseRetire
  | worldSwitch => exact h.execWorldSwitch
  | counterOverflow => exact h.execCounterOverflow
  | qtailDoorbell | qcfgWrite | cqheadWrite => exact .next h.modQueue
  | push => exact h.execPush
  | load => exact h.execLoad
  | dma => exact h.execDma
  | flush => exact h.execFlush
  | node => exact h.execNode
  | prog => exact h.execProg
  | home => exact h.execHome
  | pte => exact h.execPte
  | pool => exact h.execPool
  | rules => exact h.execRules
  | ctx => exact h.execCtx
  | offline => exact h.execOffline
  | online => exact h.execOnline
  | dbgStop => exact h.execDbgStop
  | dbgResume => exact h.execDbgResume
  | dbgStep => exact h.execDbgStep
  | dbgRead => exact h.execDbgRead
  | dbgWrite => exact h.execDbgWrite
  | dbgAttach => exact h.execDbgAttach
  | dbgDetach => exact h.execDbgDetach
  | apertureAccess => exact h.execApertureAccess
  | registerWrite => exact h.execRegisterWrite
  | fxquotaWrite => exact h.execFxquotaWrite
  | checkpointGo => exact .next (.ite h (h.frame rfl))
  | fxidWrite | checkpointDone | deviceArrival => exact .next (.ite (h.frame rfl) h)
  | peerCrossingComplete | lwDescriptorWrite | bootRecordClear | hbmTempRefresh => exact .next (h.frame rfl)
  | crossingApply => exact h.execCrossingApply
  | landingEntryReceipt => exact h.execLandingEntryReceipt
  | ldxRequestReceipt => exact h.execLdxRequestReceipt
  | wakeReceipt => exact h.execWakeReceipt
  | fabricAck => exact h.execFabricAck
  | peerUnreachable => exact h.execPeerUnreachable
  | integrityRetry | retryRequestReceipt => exact .next h.send
  | timeBeacon => exact .next h.adjustTime
  | checkpointStart => exact h.execCheckpointStart
  | networkPacketReceipt => exact h.execNetworkPacketReceipt
  | networkRequestComplete => exact h.execNetworkRequestComplete
  | recoveryGo => exact h.execRecoveryGo
  | powerOn => exact h.execPowerOn
  | bootStepResult => exact h.execBootStepResult
  | deviceReset => exact h.execDeviceReset
  | functionReset => exact h.execFunctionReset
  | tdispLock => exact h.execTdispLock
  | tdispRun => exact h.execTdispRun
  | getVersion | getCapabilities | negotiateAlgorithms | getDigests | getCertificate | challenge | getMeasurements | keyExchange
  | keyUpdate => exact .next h.spdmStep
  | finish => exact h.execFinish
  | firmwareUpdate => exact h.execFirmwareUpdate
  | pcapSet => exact h.execPcapSet
  | tempThrottle => exact h.execTempThrottle
  | tempShutdown die => exact h.execTempShutdown (die := die)
  | dieToDieLinkRetraining => exact .next h
  | fabricPacketSend => exact .next (.ite h.sendHead h)
  | networkPacketSend port => exact h.execNetworkPacketSend (port := port)
  | malformedPacket => exact h.execMalformedPacket
  | pcapLimitReached => exact h.execPcapLimitReached
  | recoveryFetchEnd => exact h.execRecoveryFetchEnd
  | waitvRecheck => exact h.execWaitvRecheck

end State.MemWf
end Sys2Proof.Machine

namespace Sys2Proof.Machine

set_option Elab.async false
namespace State.MemWf

variable {s : State}

/-! ### The turn of a gang -/

theorem passOver {g} (h : s.MemWf) : (s.passOver g).MemWf := h.frame rfl

theorem gangTurn {g} (h : s.MemWf) : Kept (s.gangTurn g) := by
  unfold State.gangTurn
  extract_lets ms
  split
  · exact h.exec
  · exact .next h.raiseAll
  · split
    · next e => exact .next (h.fetch_traps e).raiseAll
    · exact .next h.setWait
    · next e =>
      have ht := h.fetch_instr e
      exact exec (ht.frame rfl)

/-! ### What is due with an empty agenda (log 2) -/

theorem dueTxns {f} (h : s.MemWf) (hf : f ∈ s.dueTxns) : Kept (f s) := by
  simp only [State.dueTxns, List.mem_append, List.mem_map, List.mem_flatMap, List.mem_cons, List.not_mem_nil, or_false] at hf
  obtain ⟨x, -, rfl⟩ | ⟨t, -, ⟨l, -, rfl⟩ | rfl | rfl | rfl⟩ := hf
  · exact h.execTrapEntry
  · exact h.execPageWalk
  · exact h.execLateFaultReport
  · exact h.execRegisterFill
  · exact h.execStoreDiePoint

theorem dueAtNode {n f} (h : s.MemWf) (hf : f ∈ Machine.dueAtNode n) : Kept (f s) := by
  unfold Machine.dueAtNode at hf
  split at hf
  · cases hf
  · split at hf
    · obtain rfl := List.mem_singleton.mp hf
      exact h.exec (i := .copySegment _)
    · obtain rfl := List.mem_singleton.mp hf
      exact h.exec (i := .copySegment _)
    · obtain rfl := List.mem_singleton.mp hf
      exact h.exec (i := .gatherBlock _)
    · cases hf

theorem dueEngines {f} (h : s.MemWf) (hf : f ∈ s.dueEngines) : Kept (f s) := by
  simp only [State.dueEngines, List.mem_append, List.mem_map, List.mem_flatMap] at hf
  obtain ((⟨w, -, d, -, rfl⟩ | ⟨o, -, rfl⟩) | ⟨n, -, hn⟩) | ⟨c, -, rfl⟩ := hf
  · exact h.execWriteApplyAtDie
  · exact h.exec (i := .tilePerform _)
  · exact h.dueAtNode hn
  · exact h.execCopyComplete

theorem dueArrivals {f} (h : s.MemWf) (hf : f ∈ s.dueArrivals) : Kept (f s) := by
  simp only [State.dueArrivals, List.mem_append, List.mem_map] at hf
  obtain ⟨n, -, rfl⟩ | ⟨t, -, rfl⟩ := hf
  · exact h.exec (i := .nodeRelease _)
  · exact h.execRegisterFill

theorem dueTree {f} (h : s.MemWf) (hf : f ∈ s.dueTree) : Kept (f s) := by
  simp only [State.dueTree, List.mem_append, List.mem_map, List.mem_flatMap, List.mem_filterMap, Option.map_eq_some_iff,
    List.mem_cons, List.not_mem_nil, or_false] at hf
  obtain (((((⟨v, -, n, -, rfl⟩ | ⟨t, -, rfl | rfl⟩) | ⟨n, -, rfl⟩) | ⟨d, -, rfl⟩) | ⟨k, -, rfl | rfl | rfl⟩) | ⟨d, -, rfl⟩) |
    ⟨d, -, p, -, rfl⟩ := hf
  · exact h.execPreemptionStop
  · exact h.execTaskFinish
  · exact h.execBundlePhaseRetire
  · exact h.execBundlePhaseStart
  · exact h.execWorldSwitch
  · exact h.exec (i := .stagingCopy _)
  · exact h.execGangRestore
  · exact h.execPresenceRestore
  · exact h.execBlockPlace
  · exact h.execWavePreemption

theorem dueFabric {f} (h : s.MemWf) (hf : f ∈ s.dueFabric) : Kept (f s) := by
  unfold State.dueFabric at hf
  rcases List.mem_cons.mp hf with rfl | hf
  · exact h.exec (i := .deviceArrival)
  rcases List.mem_append.mp hf with hf | hf
  · split at hf
    · cases hf
    · simp only [List.mem_flatMap, List.mem_map] at hf
      obtain ⟨g, -, i, -, rfl⟩ := hf
      exact h.exec (i := .fabricPacketSend _ _)
  · split at hf
    · cases hf
    · obtain rfl := List.mem_singleton.mp hf
      exact h.exec (i := .networkPacketSend 0)

theorem due {f} (h : s.MemWf) (hf : f ∈ s.due) : Kept (f s) := by
  simp only [State.due, List.mem_append] at hf
  obtain (((hf | hf) | hf) | hf) | hf := hf
  · exact h.dueArrivals hf
  · exact h.dueTxns hf
  · exact h.dueEngines hf
  · exact h.dueTree hf
  · exact h.dueFabric hf

theorem firstDue {fs t} (keeps : ∀ f ∈ fs, Kept (f s)) (e : s.firstDue fs = some t) : t.MemWf := by
  obtain ⟨f, hf, e⟩ := List.exists_of_findSome?_eq_some e
  split at e
  · next u hu =>
    split at e
    · cases e
    · exact Option.some.inj e ▸ keeps f hf u hu
  · cases e
  · cases e

/-! ### One step -/

theorem evictCode {core asid va} (h : s.MemWf) : (s.evictCode core asid va).MemWf := h.frame rfl

theorem turn (h : s.MemWf) : Kept s.turn := by
  have ha {a} : ({ s with agenda := a } : State).MemWf := h.frame rfl
  unfold State.turn
  split
  · exact ha.exec
  · split
    · exact ha.passOver.gangTurn
    · exact .next ha
  · exact .next ha.modGang
  · exact .next { h with hostMem := writeBytes_wf h.hostMem _ _ }
  · exact .next ha.evictBits
  · exact .next ha.dropTlbAt
  · exact .next ha.evictCode
  · split
    · next e => exact .next (firstDue (fun f hf => h.due hf) e)
    · split
      · exact h.passOver.gangTurn
      · exact .next h

end State.MemWf

/-! ### What follows a turn -/

theorem settleOutcome_next (s : State) : settleOutcome (.next s) = .next s.settle.feed := rfl

theorem settleOutcome_fault (f : Fault) : settleOutcome (.fault f) = .fault f := rfl

theorem settleOutcome_refused (r : Refusal) : settleOutcome (.refused r) = .refused r := rfl

/-- What follows a turn keeps the canonical form; an outcome without a next state has none to keep. -/
theorem Kept.settleOutcome {o : Host.Outcome State Fault Refusal} (h : Kept o) : Kept (settleOutcome o) := by
  cases o with
  | next s =>
    rw [settleOutcome_next]
    exact .next (h s rfl).settle.feed
  | fault f =>
    rw [settleOutcome_fault]
    exact h
  | refused r =>
    rw [settleOutcome_refused]
    exact h

/-- Settles O60: `State.MemWf`, the canonical form by its parts, is kept by every function of the model, so by every instruction and
step, by the turn that runs it and by what follows the turn. -/
theorem stepKeepsMemory : Obligations.StepKeepsMemory := fun _ t h e =>
  State.memWf_iff.mpr ((State.memWf_iff.mp h).turn.settleOutcome t e)

end Sys2Proof.Machine

namespace Sys2Proof.Machine

set_option Elab.async false

/-! ## The trust die's boot (O57)

The boot record's fields after `Trust.setStep`, the equations of `State.bootFrom`, `State.stepResult` and `State.restart`, and then the
clauses of the obligation, one theorem each. -/

/-! ### The boot record (R333) -/

namespace Trust

variable {t : Trust} {j k c : Nat} {st : BitVec 2}

/-- A bit of the record after a step's four bits are set. -/
theorem getLsbD_setStep {i : Nat} (hj : j < 16) (hi : i < 4) : (t.setStep k st c).record.getLsbD (4 * j + i) =
    if j = k then (st ++ BitVec.ofNat 2 (min c 2)).getLsbD i else t.record.getLsbD (4 * j + i) := by
  have hb : 4 * j + i < 64 := by omega
  have mask : (0xF : BitVec 64) = (BitVec.allOnes 4).setWidth 64 := rfl
  simp only [setStep, mask, BitVec.getLsbD_or, BitVec.getLsbD_and, BitVec.getLsbD_not, BitVec.getLsbD_shiftLeft,
    BitVec.getLsbD_setWidth, BitVec.getLsbD_allOnes, hb]
  split
  next e =>
    subst e
    have hi' : i < 64 := by omega
    simp [hi, hi']
  next ne =>
    rcases Nat.lt_or_gt_of_ne ne with h | h
    · have hlt : 4 * j + i < 4 * k := by omega
      simp [hlt]
    · have hnl : ¬ 4 * j + i < 4 * k := by omega
      have hge : ¬ 4 * j + i - 4 * k < 4 := by omega
      simp [hnl, hge, BitVec.getLsbD_of_ge _ _ (Nat.le_of_not_lt hge)]

/-- The two-bit field at a place of a step's four bits. -/
theorem extractLsb'_setStep {p : Nat} (hj : j < 16) (hp : p ≤ 2) : (t.setStep k st c).record.extractLsb' (4 * j + p) 2 =
    if j = k then (st ++ BitVec.ofNat 2 (min c 2)).extractLsb' p 2 else t.record.extractLsb' (4 * j + p) 2 := by
  refine BitVec.eq_of_getLsbD_eq fun i hi => ?_
  have h := getLsbD_setStep (t := t) (k := k) (c := c) (st := st) (i := p + i) hj (by omega)
  rw [← Nat.add_assoc] at h
  rw [BitVec.getLsbD_extractLsb', h]
  split <;> simp [BitVec.getLsbD_extractLsb']

theorem stepCount_setStep (hj : j < 16) : (t.setStep k st c).stepCount j = if j = k then min c 2 else t.stepCount j := by
  have h := extractLsb'_setStep (t := t) (k := k) (c := c) (st := st) (p := 0) hj (by omega)
  rw [Nat.add_zero] at h
  rw [stepCount, stepCount, h]
  split
  · rw [BitVec.extractLsb'_append_eq_of_add_le (by omega), BitVec.extractLsb'_eq_self, BitVec.toNat_ofNat]
    omega
  · rfl

theorem stepState_setStep_self (hk : k < 16) : (t.setStep k st c).stepState k = st := by
  rw [stepState, extractLsb'_setStep hk (by omega), if_pos rfl, BitVec.extractLsb'_append_eq_of_le (by omega), Nat.sub_self,
    BitVec.extractLsb'_eq_self]


theorem stepCount_setStep_self (hk : k < 16) : (t.setStep k st c).stepCount k = min c 2 := by
  rw [stepCount_setStep hk, if_pos rfl]

theorem stepCount_setStep_ne (hj : j < 16) (h : j ≠ k) : (t.setStep k st c).stepCount j = t.stepCount j := by
  rw [stepCount_setStep hj, if_neg h]

theorem stepState_setStep_ne (hj : j < 16) (h : j ≠ k) : (t.setStep k st c).stepState j = t.stepState j := by
  rw [stepState, stepState, extractLsb'_setStep hj (by omega), if_neg h]

/-- The measurements after a step has released its code (R331). -/
def release (t : Trust) (k : Nat) : Trust :=
  match stepMeasures k with
  | some i => t.setMeasured i (Config.measure i t.image)
  | none => t

theorem release_record (t : Trust) (k : Nat) : (t.release k).record = t.record := by
  unfold release
  split <;> rfl

@[simp] theorem release_stepCount (t : Trust) (k j : Nat) : (t.release k).stepCount j = t.stepCount j := by
  rw [stepCount, stepCount, release_record]

@[simp] theorem release_stepState (t : Trust) (k j : Nat) : (t.release k).stepState j = t.stepState j := by
  rw [stepState, stepState, release_record]

/-- The trust die when a step has succeeded: COUNT is clear, and what the step released is measured. -/
def done (t : Trust) (k : Nat) : Trust := (t.setStep k 0#2 0).release k

theorem done_stepCount_self (hk : k < 16) : (t.done k).stepCount k = 0 := by
  rw [done, release_stepCount, stepCount_setStep_self hk, Nat.zero_min]

theorem done_stepState_self (hk : k < 16) : (t.done k).stepState k = 0#2 := by
  rw [done, release_stepState, stepState_setStep_self hk]

theorem done_stepCount_ne (hj : j < 16) (h : j ≠ k) : (t.done k).stepCount j = t.stepCount j := by
  rw [done, release_stepCount, stepCount_setStep_ne hj h]

theorem mem_setMeasured (t : Trust) (i : Nat) (x : BitVec 384) : (i, x) ∈ (t.setMeasured i x).measured :=
  List.mem_append_right _ List.mem_cons_self

/-- What runs first in a boot (R334, R335): step 0, unless it has failed twice; with no domain left booting ends. -/
def startPower (t : Trust) : Power :=
  if t.lostDomains = 15#4 then .halted 0 else if t.stepCount 0 = 2 then .recovery 0 else .booting 0

end Trust

/-! ### The kinds of the steps (R333) -/

theorem stepKind_altered {k : Fin 13} (h : k = 1 ∨ k = 10) : stepKind k.val = .altered := by
  rcases h with rfl | rfl <;> rfl

/-- The step of domain d, and the other step that counts for it. -/
theorem stepKind_optional (d : Fin 4) : stepKind (d.val + 2) = .optional d (d.val + 6) := by
  revert d
  decide

/-- The step behind that of domain d: it is optional too. -/
theorem stepKind_next (d : Fin 4) : ∃ e, stepKind (d.val + 3) = .optional e (if d.val = 3 then 2 else d.val + 7) := by
  revert d
  decide

namespace State

variable {s : State} {n k : Nat}

/-! ### Going on with the boot (R334, R335) -/

/-- The state with another trust die. -/
def withTrust (s : State) (t : Trust) : State := { s with trust := t }

@[simp] theorem withTrust_trust (t : Trust) : (s.withTrust t).trust = t := rfl

/-- The state with the boot at another place. -/
def withPower (s : State) (p : Power) : State := s.withTrust { s.trust with power := p }

theorem skipStep_trust (s : State) (d : Fin 4) : (s.skipStep k d).trust = s.trust.setStep k 1#2 (s.trust.stepCount k) := rfl

theorem skipStep_online (s : State) (d : Fin 4) : (s.skipStep k d).online = s.online &&& ~~~(1#4 <<< d.val) := rfl

theorem skipStep_online_self (s : State) (d : Fin 4) : (s.skipStep k d).online.getLsbD d.val = false := by
  simp [skipStep_online]

theorem skipStep_skipped_self (s : State) (d : Fin 4) : (s.skipStep k d).skipped.getLsbD d.val = true := by
  simp [skipStep]

theorem bootFrom_offline (ho : s.online = 0#4) : s.bootFrom (n + 1) k = s.withPower (.halted (Fin.ofNat 13 (min k 12))) := by
  rw [bootFrom, if_pos ho]
  rfl

theorem bootFrom_done (ho : s.online ≠ 0#4) (hk : 13 ≤ k) : s.bootFrom (n + 1) k = s.withPower .up := by
  rw [bootFrom, if_neg ho, if_pos hk]
  rfl

theorem bootFrom_required (ho : s.online ≠ 0#4) (hk : k < 13) (hr : stepKind k = .required) : s.bootFrom (n + 1) k =
    s.withPower (if s.trust.stepCount k = 2 then .recovery (Fin.ofNat 13 k) else .booting (Fin.ofNat 13 k)) := by
  rw [bootFrom, if_neg ho, if_neg (Nat.not_le.mpr hk), hr]
  dsimp only
  split <;> rfl

/-- A required step with an alternate that has failed twice runs its alternate. -/
theorem bootFrom_altered (ho : s.online ≠ 0#4) (hk : k < 13) (ha : stepKind k = .altered) : s.bootFrom (n + 1) k =
    (if s.trust.stepCount k = 2 then s.withTrust (s.trust.setStep k 2#2 2) else s).withPower (.booting (Fin.ofNat 13 k)) := by
  rw [bootFrom, if_neg ho, if_neg (Nat.not_le.mpr hk), ha]
  dsimp only
  split <;> rfl

theorem bootFrom_skips {d other} (ho : s.online ≠ 0#4) (hk : k < 13) (hd : stepKind k = .optional d other)
    (hc : s.trust.stepCount k = 2) : s.bootFrom (n + 1) k = (s.skipStep k d).bootFrom n (k + 1) := by
  rw [bootFrom, if_neg ho, if_neg (Nat.not_le.mpr hk), hd]
  dsimp only
  rw [if_pos (.inl hc)]

theorem bootFrom_optional {d other} (ho : s.online ≠ 0#4) (hk : k < 13) (hd : stepKind k = .optional d other)
    (hc : s.trust.stepCount k < 2) (hc' : s.trust.stepCount other < 2) :
    s.bootFrom (n + 1) k = s.withPower (.booting (Fin.ofNat 13 k)) := by
  rw [bootFrom, if_neg ho, if_neg (Nat.not_le.mpr hk), hd]
  dsimp only
  rw [if_neg (by omega)]
  rfl

/-- A boot starts with every register reset, at the step that runs first. -/
theorem restart_eq (s : State) (hbm : Mem) (poison : List Nat) (sealed : List (Nat × Nat)) (t : Trust) :
    s.restart hbm poison sealed t = s.inReset hbm poison sealed (t.restart t.startPower) := by
  have lost (p : Power) : (t.restart p).lostDomains = t.lostDomains := rfl
  have online : (s.inReset hbm poison sealed (t.restart (.booting 0))).online = ~~~t.lostDomains := rfl
  have none : ~~~t.lostDomains = 0#4 ↔ t.lostDomains = 15#4 := BitVec.not_eq_comm
  rw [restart, Trust.startPower]
  by_cases h : t.lostDomains = 15#4
  · rw [if_pos h, bootFrom_offline (online ▸ none.mpr h)]
    rfl
  · rw [if_neg h, bootFrom_required (online ▸ mt none.mp h) (by decide) rfl]
    rfl

/-! ### The result of a step (R334) -/

theorem stepResult_success {plane} (h : k ≠ 11) (hc : s.trust.stepCount k < 2) :
    s.stepResult k plane true = (s.withTrust (s.trust.done k)).bootFrom 14 (k + 1) := by
  simp [stepResult, h, Nat.ne_of_lt hc]
  rfl

theorem stepResult_failure {plane} (h : k ≠ 11) (hc : s.trust.stepCount k < 2) : s.stepResult k plane false =
    s.restart s.hbm s.poison s.sealed (s.trust.setStep k (s.trust.stepState k) (s.trust.stepCount k + 1)) := by
  simp [stepResult, h, Nat.ne_of_lt hc]

theorem stepResult_alternate_failure {plane} (h : k ≠ 11) (ha : stepKind k = .altered) (hc : s.trust.stepCount k = 2) :
    s.stepResult k plane false = s.withPower (.halted (Fin.ofNat 13 k)) := by
  simp [stepResult, h, ha, hc, withPower, withTrust]

end State

theorem exec_bootStepResult {s : State} {k : Fin 13} {plane ok} (h : s.trust.power = .booting k) :
    exec (.bootStepResult k plane ok) s = .next (s.stepResult k.val plane ok) :=
  congrArg Host.Outcome.next (if_pos h)

theorem exec_bootStepResult_other {s : State} {k : Fin 13} {plane ok} (h : s.trust.power ≠ .booting k) :
    exec (.bootStepResult k plane ok) s = .next s :=
  congrArg Host.Outcome.next (if_neg h)

end Sys2Proof.Machine

namespace Sys2Proof.Machine

set_option Elab.async false

variable {s : State}

/-! ### Boot steps (R333, R334) -/

/-- Step 0 succeeds: its measurement is taken, and step 1 runs. -/
theorem boot_step0_success {plane} (hp : s.trust.power = .booting 0) (hc : s.trust.stepCount 0 < 2) (ho : s.online ≠ 0#4) :
    ∃ t, exec (.bootStepResult 0 plane true) s = .next t ∧ t.trust.power = .booting 1 ∧ t.trust.stepCount 0 = 0 ∧
      t.trust.stepState 0 = 0#2 ∧ (2, Config.measure 2 s.trust.image) ∈ t.trust.measured ∧ t.online = s.online := by
  have count : (s.trust.done 0).stepCount 0 = 0 := Trust.done_stepCount_self (by decide)
  have state : (s.trust.done 0).stepState 0 = 0#2 := Trust.done_stepState_self (by decide)
  have measured : (2, Config.measure 2 s.trust.image) ∈ (s.trust.done 0).measured := Trust.mem_setMeasured _ _ _
  have next : (s.withTrust (s.trust.done 0)).bootFrom 14 1 = _ := State.bootFrom_altered ho (by decide) rfl
  refine ⟨_, exec_bootStepResult hp, ?_⟩
  rw [Fin.val_zero, State.stepResult_success (by decide) hc, next]
  split
  · have count' : ((s.trust.done 0).setStep 1 2#2 2).stepCount 0 = 0 :=
      (Trust.stepCount_setStep_ne (by decide) (by decide)).trans count
    have state' : ((s.trust.done 0).setStep 1 2#2 2).stepState 0 = 0#2 :=
      (Trust.stepState_setStep_ne (by decide) (by decide)).trans state
    exact ⟨rfl, count', state', measured, rfl⟩
  · exact ⟨rfl, count, state, measured, rfl⟩

/-- Step 12 succeeds: the package is up, and only the trust die has changed. -/
theorem boot_step12_success {plane} (hp : s.trust.power = .booting 12) (hc : s.trust.stepCount 12 < 2) (ho : s.online ≠ 0#4) :
    ∃ t, exec (.bootStepResult 12 plane true) s = .next t ∧ t.trust.power = .up ∧ t.trust.stepCount 12 = 0 ∧
      (∀ j < 12, t.trust.stepCount j = s.trust.stepCount j) ∧ ({ t with trust := s.trust } : State) = s := by
  have next : (s.withTrust (s.trust.done 12)).bootFrom 14 13 = _ := State.bootFrom_done ho (by decide)
  refine ⟨_, (exec_bootStepResult hp).trans (congrArg _ ((State.stepResult_success (by decide) hc).trans next)), rfl, ?_, ?_, rfl⟩
  · exact Trust.done_stepCount_self (by decide)
  · exact fun j hj => Trust.done_stepCount_ne (by omega) (by omega)

/-- A step other than 11 fails the normal way: COUNT goes up by 1, and the boot starts again with every register reset. -/
theorem boot_step_failure {k : Fin 13} {plane} (hp : s.trust.power = .booting k) (hk : k ≠ 11) (hc : s.trust.stepCount k.val < 2)
    (hl : s.trust.lostDomains ≠ 15#4) : ∃ t, exec (.bootStepResult k plane false) s = .next t ∧
      t.trust.stepCount k.val = s.trust.stepCount k.val + 1 ∧ (∀ j < 13, j ≠ k.val → t.trust.stepCount j = s.trust.stepCount j) ∧
      t.trust.power = (if t.trust.stepCount 0 = 2 then .recovery 0 else .booting 0) ∧
      t.slices = [] ∧ t.txns = [] ∧ t.ctxs = State.reset.ctxs ∧ t.fab.planes = 0#144 ∧ t.hbm = s.hbm := by
  have hk' : k.val ≠ 11 := fun e => hk (Fin.ext e)
  refine ⟨_, (exec_bootStepResult hp).trans (congrArg _ ((State.stepResult_failure hk' hc).trans (State.restart_eq ..))), ?_, ?_, ?_,
    rfl, rfl, rfl, rfl, rfl⟩
  · have count := Trust.stepCount_setStep_self (t := s.trust) (k := k.val) (c := s.trust.stepCount k.val + 1)
      (st := s.trust.stepState k.val) (by omega)
    exact count.trans (by omega)
  · exact fun j hj hne => Trust.stepCount_setStep_ne (by omega) hne
  · exact if_neg hl

/-- The alternate of step 1 or 10 fails: booting ends. -/
theorem boot_alternate_failure {k : Fin 13} {plane} (hp : s.trust.power = .booting k) (hk : k = 1 ∨ k = 10)
    (hc : s.trust.stepCount k.val = 2) :
    exec (.bootStepResult k plane false) s = .next { s with trust := { s.trust with power := .halted k } } := by
  have hk' : k.val ≠ 11 := by omega
  have halted : s.withPower (.halted (Fin.ofNat 13 k.val)) = s.withPower (.halted k) := by
    rw [Fin.ofNat_val_eq_self]
  exact (exec_bootStepResult hp).trans
    (congrArg _ ((State.stepResult_alternate_failure hk' (stepKind_altered hk) hc).trans halted))

/-- The step in front of a domain's succeeds, and the domain's has failed twice: the domain is skipped. -/
theorem boot_skips_domain {d : Fin 4} {plane} {k : Fin 13} (hk : k.val = d.val + 1) (hp : s.trust.power = .booting k)
    (hc : s.trust.stepCount k.val < 2) (hd : s.trust.stepCount (d.val + 2) = 2) (hn : s.trust.stepCount (d.val + 3) < 2)
    (ho' : s.trust.stepCount (if d.val = 3 then 2 else d.val + 7) < 2) (ho : s.online &&& ~~~(1#4 <<< d.val) ≠ 0#4) : ∃ t,
    exec (.bootStepResult k plane true) s = .next t ∧ t.trust.stepState (d.val + 2) = 1#2 ∧ t.trust.stepCount (d.val + 2) = 2 ∧
      t.online.getLsbD d.val = false ∧ t.skipped.getLsbD d.val = true := by
  have hd4 : d.val < 4 := d.isLt
  have online : s.online ≠ 0#4 := fun e => ho (by rw [e, BitVec.zero_and])
  have count : (s.trust.done k.val).stepCount (d.val + 2) = 2 := (Trust.done_stepCount_ne (by omega) (by omega)).trans hd
  have kept {j : Nat} (hj : j < 16) (hk' : j ≠ k.val) (hd' : j ≠ d.val + 2) (h : s.trust.stepCount j < 2) :
      ((s.withTrust (s.trust.done k.val)).skipStep (d.val + 2) d).trust.stepCount j < 2 := by
    rw [State.skipStep_trust, Trust.stepCount_setStep_ne hj hd', State.withTrust_trust, Trust.done_stepCount_ne hj hk']
    exact h
  obtain ⟨e, he⟩ := stepKind_next d
  have next : (s.withTrust (s.trust.done k.val)).bootFrom 14 (k.val + 1) =
      ((s.withTrust (s.trust.done k.val)).skipStep (d.val + 2) d).withPower (.booting (Fin.ofNat 13 (d.val + 3))) := by
    rw [hk, Nat.add_assoc, ← hk]
    rw [State.bootFrom_skips (s := s.withTrust (s.trust.done k.val)) online (by omega) (stepKind_optional d) count]
    refine State.bootFrom_optional ho (by omega) he (kept (by omega) (by omega) (by omega) hn) (kept ?_ ?_ ?_ ho') <;> split <;> omega
  refine ⟨_, (exec_bootStepResult hp).trans
    (congrArg Host.Outcome.next ((State.stepResult_success (by omega) hc).trans next)), ?_, ?_, ?_, ?_⟩
  · exact Trust.stepState_setStep_self (by omega)
  · exact (Trust.stepCount_setStep_self (by omega)).trans (by rw [State.withTrust_trust, count, Nat.min_self])
  · exact State.skipStep_online_self (k := d.val + 2) _ d
  · exact State.skipStep_skipped_self (k := d.val + 2) _ d

/-! ### Power-on and reset (R5, R331, R339) -/

theorem powerOn_boots (s : State) : ∃ t, exec .powerOn s = .next t ∧ t.hbm = [] ∧ t.trust.retiredNow = [] ∧
    t.trust.retired = s.trust.retired ∧
    (({ s.trust with retiredNow := [] } : Trust).lostDomains ≠ 15#4 →
      t.trust.power = if s.trust.stepCount 0 = 2 then .recovery 0 else .booting 0) ∧ t.slices = [] ∧ t.ctxs = State.reset.ctxs :=
  ⟨_, congrArg Host.Outcome.next (State.restart_eq ..), rfl, rfl, rfl, fun hl => if_neg hl, rfl, rfl⟩

theorem deviceReset_boots (s : State) : ∃ t, exec .deviceReset s = .next t ∧ t.hbm = s.hbm ∧ t.trust.record = s.trust.record ∧
    t.trust.flash = s.trust.flash ∧
    (s.trust.lostDomains ≠ 15#4 → t.trust.power = if s.trust.stepCount 0 = 2 then .recovery 0 else .booting 0) ∧ t.slices = [] ∧
    t.txns = [] ∧ t.ctxs = State.reset.ctxs ∧ t.tsc = State.reset.tsc ∧ t.ldcfg = State.reset.ldcfg :=
  ⟨_, congrArg Host.Outcome.next (State.restart_eq ..), rfl, rfl, rfl, fun hl => if_neg hl, rfl, rfl, rfl, rfl, rfl⟩

/-! ### Recovery and update (R335, R338) -/

theorem Power.recovering_eq_none {p : Power} (h : ∀ k, p ≠ .recovery k) : p.recovering = none := by
  cases p with
  | recovery k => exact absurd rfl (h k)
  | _ => rfl

theorem exec_recoveryGo {commit k} (hp : s.trust.power = .recovery k) :
    exec (.recoveryGo commit) s = .next { s with trust := { s.trust with rcvstat := 1#4, commit := commit } } := by
  simp [exec, execRecoveryGo, hp, Power.recovering]

/-- The trust die when a recovery image has passed: it holds the image, and with COMMIT the flash does too. -/
def State.recovered (s : State) (k : Nat) : Trust :=
  let t : Trust := { s.trust with rcvstat := 2#4, image := s.recoveryImage }
  if s.trust.commit then { t.setStep k 0#2 0 with flash := s.recoveryImage } else t

section Fetch

variable {k : Fin 13} (hp : s.trust.power = .recovery k) (hr : s.trust.rcvstat = 1#4)
include hp hr

theorem exec_recoveryFetchEnd_not_fetched (passed : Bool) :
    exec (.recoveryFetchEnd false passed) s = .next { s with trust := { s.trust with rcvstat := 4#4 } } := by
  simp [exec, execRecoveryFetchEnd, hp, hr, Power.recovering]

variable (hl : s.trust.rcvlen.toNat ≤ 2 ^ 26)
include hl

theorem exec_recoveryFetchEnd_not_passed :
    exec (.recoveryFetchEnd true false) s = .next { s with trust := { s.trust with rcvstat := 3#4 } } := by
  have short : ¬ 67108864 < s.trust.rcvlen.toNat := by omega
  simp [exec, execRecoveryFetchEnd, hp, hr, short, Power.recovering]

theorem exec_recoveryFetchEnd_passed :
    exec (.recoveryFetchEnd true true) s = .next ((s.withTrust ((s.recovered k.val).release k.val)).bootFrom 14 (k.val + 1)) := by
  have short : ¬ 67108864 < s.trust.rcvlen.toNat := by omega
  have recovering : s.trust.power.recovering = some k := by rw [hp, Power.recovering]
  simp [exec, execRecoveryFetchEnd, recovering, hr, short]
  rfl

end Fetch

/-- A recovery image that passes at step 12 brings the package up. -/
theorem recovery_step12_passed (hp : s.trust.power = .recovery 12) (hr : s.trust.rcvstat = 1#4) (hl : s.trust.rcvlen.toNat ≤ 2 ^ 26)
    (ho : s.online ≠ 0#4) : ∃ t, exec (.recoveryFetchEnd true true) s = .next t ∧ t.trust.power = .up ∧ t.trust.rcvstat = 2#4 ∧
      t.trust.image = s.recoveryImage ∧ t.trust.flash = (if s.trust.commit then s.recoveryImage else s.trust.flash) ∧
      (s.trust.commit = true → t.trust.stepCount 12 = 0) ∧ (s.trust.commit = false → t.trust.record = s.trust.record) := by
  have next : (s.withTrust ((s.recovered 12).release 12)).bootFrom 14 13 = _ := State.bootFrom_done ho (by decide)
  refine ⟨_, (exec_recoveryFetchEnd_passed hp hr hl).trans (congrArg Host.Outcome.next next), rfl, ?_⟩
  cases hc : s.trust.commit with
  | false =>
    have kept : s.recovered 12 = { s.trust with rcvstat := 2#4, image := s.recoveryImage } := by simp [State.recovered, hc]
    rw [kept]
    exact ⟨rfl, rfl, rfl, nofun, fun _ => rfl⟩
  | true =>
    have kept : s.recovered 12 = { ({ s.trust with rcvstat := 2#4, image := s.recoveryImage } : Trust).setStep 12 0#2 0 with
        flash := s.recoveryImage } := by simp [State.recovered, hc]
    rw [kept]
    exact ⟨rfl, rfl, rfl, fun _ => Trust.stepCount_setStep_self (t := { s.trust with rcvstat := 2#4, image := s.recoveryImage })
      (by decide), nofun⟩

theorem exec_firmwareUpdate (image : List Byte) (h : ∀ k, s.trust.power ≠ .recovery k) :
    exec (.firmwareUpdate image) s = .next { s with trust := { s.trust with flash := image } } := by
  simp [exec, execFirmwareUpdate, Power.recovering_eq_none h]

theorem exec_firmwareUpdate_refused (image : List Byte) {k} (hp : s.trust.power = .recovery k) :
    exec (.firmwareUpdate image) s = .next s := by
  simp [exec, execFirmwareUpdate, hp, Power.recovering]

/-- Settles O57, clause by clause: what a step's result does, by the equations of `State.bootFrom` and the fields of the boot record;
what power-on and a reset leave, by `State.restart_eq`; recovery and update. -/
theorem bootSteps : Obligations.BootSteps :=
  ⟨fun _ => rfl, fun _ _ _ _ => exec_bootStepResult_other, fun _ _ => boot_step0_success, fun _ _ => boot_step12_success,
    fun _ _ _ => boot_step_failure, fun _ _ _ => boot_alternate_failure, fun _ _ _ _ => boot_skips_domain, powerOn_boots,
    deviceReset_boots, fun _ _ _ => exec_recoveryGo,
    fun _ _ hp hr => ⟨exec_recoveryFetchEnd_not_fetched hp hr, fun hl => ⟨exec_recoveryFetchEnd_not_passed hp hr hl,
      fun h12 ho => recovery_step12_passed (h12 ▸ hp) hr hl ho⟩⟩,
    fun _ image => ⟨exec_firmwareUpdate image, fun _ => exec_firmwareUpdate_refused image⟩⟩

end Sys2Proof.Machine

namespace Sys2Proof.Machine

/-! ## A step runs the instruction decoded at the PC (O4) -/

/-- A word of a line, by its list of words. -/
theorem words_getD (v : Vector Word 16) (i : Fin 16) : v.toList.getD i.val 0#32 = v.get i := by
  have h : i.val < v.toList.length := by simp
  rw [List.getD_eq_getElem _ _ h]
  simp [Vector.get]

/-- An aligned PC has the low bits 0. -/
theorem lowBits_eq_zero {pc : DWord} (h : pc.toNat % 4 = 0) : pc.extractLsb' 0 2 = 0#2 := by
  apply BitVec.eq_of_toNat_eq
  simpa [BitVec.extractLsb'_toNat] using h

end Sys2Proof.Machine

section

open Sys2Proof Sys2Proof.Machine

variable {s t : State} {g : Gang} {m : Slice} {ms : List Slice} {l : ILine} {i : Instr}

/-- The fields at the PC's word of the line decode to the instruction. -/
theorem FetchesAt.decodes (h : FetchesAt s g m ms l t i) : decodeRaw (lineRaw l (slotOf m.pc).val) = .ok i := by
  have hw := h.words
  simpa only [decodeWords, lineRaw, words_getD] using hw

/-- Every member finds the instruction there (R376). -/
theorem FetchesAt.finds (h : FetchesAt s g m ms l t i) {x : Slice} (hx : x ∈ m :: ms) :
    findAt l (slotOf m.pc).val x.mode = .instr i := by
  obtain ⟨v, hv⟩ := Option.isSome_iff_exists.mp h.version
  have mode : (opSupervisor ((l.words.get (slotOf m.pc)).extractLsb' 24 8) && !modeSup x.mode) = false := by
    rw [Bool.and_eq_false_iff, Bool.not_eq_false']
    cases hs : opSupervisor ((l.words.get (slotOf m.pc)).extractLsb' 24 8)
    · exact .inl rfl
    · exact .inr (h.mode hs x hx)
  have group : (v && groupBreach l (slotOf m.pc).val x.mode) = false ∧ (v && bypassMisuse l (slotOf m.pc).val) = false := by
    cases v
    · exact ⟨rfl, rfl⟩
    · simpa using h.group hv x hx
  simp only [findAt, hv, words_getD, h.decodes, if_neg h.starts, group.1, group.2, mode, Bool.false_eq_true, if_false]

/-- The gang fetches the instruction, with the latch of its line. -/
theorem FetchesAt.fetches (h : FetchesAt s g m ms l t i) : s.fetch g = .instr (latchOf g l m.pc) i t := by
  have noTrap : (((m :: ms).map fun x => (x, findAt l (slotOf m.pc).val x.mode)).filterMap fun f =>
      (f.2.trap? f.1 (latchOf g l m.pc)).map fun r => (f.1.sid, r)) = [] := by
    simp only [List.filterMap_eq_nil_iff, List.mem_map]
    rintro _ ⟨x, hx, rfl⟩
    simp only [h.finds hx, Found.trap?, Option.map_none]
  simp only [State.fetch, h.members, lowBits_eq_zero h.aligned, h.line, noTrap, h.finds List.mem_cons_self, ne_eq, not_true,
    if_false]

/-- The turn of a gang whose paths do not end and that has no late fault to take is exec of what it fetches. -/
theorem FetchesAt.turn (h : FetchesAt s g m ms l t i) :
    s.gangTurn g = exec i { t with cur := some (latchOf g l m.pc) } := by
  have path : (m :: ms).find? Slice.pathEnds = none := List.find?_eq_none.mpr fun x hx => by simp [(h.quiet x hx).2]
  have late : (m :: ms).filter (·.late) = [] := List.filter_eq_nil_iff.mpr fun x hx => by simp [(h.quiet x hx).1]
  simp only [State.gangTurn, h.members, path, late, h.fetches]

end

namespace Sys2Proof.Machine

/-- The next PC (R51): the words that fit behind word 0 are 15. -/
theorem nextPc_eq (h : Word) (pc : DWord) : nextPc h pc =
    if (slotOf pc).val + extCount h (slotOf pc).val 15 ≤ 14 then pc + BitVec.ofNat 64 (4 * (extCount h (slotOf pc).val 15 + 1))
    else (pc &&& ~~~63#64) + 68#64 := by
  have fit : ∀ n, (n + 1 ≤ 15) = (n ≤ 14) := fun n => propext (by omega)
  simp only [nextPc, fit]

/-- The turn the agenda gives a core is its next gang's. -/
theorem State.turn_issue {s : State} {k : Nat} {rest : List Turn} {g : Gang} (ha : s.agenda = .issue k :: rest)
    (hg : s.nextGang (fun x => x.core == k) = some g) : s.turn = (State.passOver { s with agenda := rest } g).gangTurn g := by
  simp only [State.turn, ha, hg]

/-- A step of the agenda without an instruction word is exec of it. -/
theorem State.turn_event {s : State} {i : Instr} {rest : List Turn} (ha : s.agenda = .event i :: rest) :
    s.turn = exec i { s with agenda := rest } := by
  simp only [State.turn, ha]

/-- Settles O4: the turn of the next gang, from the line it fetches to exec of what stands there. -/
theorem stepRunsDecoded : Obligations.StepRunsDecoded := by
  refine ⟨fun s k rest g m ms l t i ha hg hf => ?_, fun s i rest ha => congrArg settleOutcome (State.turn_event ha)⟩
  have turn := (State.turn_issue ha hg).trans hf.turn
  rw [latchOf, nextPc_eq] at turn
  exact congrArg settleOutcome turn

end Sys2Proof.Machine

namespace Sys2Proof.Machine
open Claims

/-! ## Waiting and trapping at empty registers (O24; R35, R36, R41) -/

/-! ### What the verdict on an instruction says of a member's registers -/

/-- What a member waits for at its registers (R35, R36): the first empty one to be written; else, if no empty source traps, the first
empty source. -/
theorem Slice.wait?_regVerdict (m : Slice) (c : Cur) (dst : List RegName) (us : List SrcUse) :
    (m.regVerdict c dst us).wait? = match dst.find? fun r => !m.isFull r with
      | some r => some r
      | none => if (us.find? fun u => !m.isFull u.reg && u.trap).isSome then none else (us.find? fun u => !m.isFull u.reg).map (·.reg) := by
  simp only [Slice.regVerdict, ← List.isSome_find?]
  cases dst.find? fun r => !m.isFull r with
  | some r => rfl
  | none =>
    cases (us.find? fun u => !m.isFull u.reg && u.trap).isSome with
    | true => simp only [if_true]; split <;> rfl
    | false =>
      cases us.find? fun u => !m.isFull u.reg with
      | some u => rfl
      | none => simp only [Bool.false_eq_true, if_false]; split <;> rfl

/-- What a member traps on at its registers (R35) where no full source holds a failed token: of the empty sources the first whose policy
is trap, if every register to be written is full. -/
theorem Slice.trap?_regVerdict {m : Slice} {dst : List RegName} {us : List SrcUse} (c : Cur)
    (h : ∀ u ∈ us, m.isFull u.reg = true → m.badToken u.reg = false) :
    (m.regVerdict c dst us).trap? = if (dst.find? fun r => !m.isFull r).isSome then none else
      (us.find? fun u => !m.isFull u.reg && u.trap).map (trapEmpty m c) := by
  have same : (us.find? fun u => (!m.isFull u.reg && u.trap) || (m.isFull u.reg && m.badToken u.reg)) =
      us.find? fun u => !m.isFull u.reg && u.trap := by
    refine List.find?_congr fun u hu => ?_
    cases hf : m.isFull u.reg with
    | true => simp [h u hu hf]
    | false => simp
  simp only [Slice.regVerdict, ← List.isSome_find?, same]
  cases dst.find? fun r => !m.isFull r with
  | some r => rfl
  | none =>
    cases ht : us.find? fun u => !m.isFull u.reg && u.trap with
    | some u =>
      have hu : m.isFull u.reg = false := by
        have := List.find?_some (p := fun u : SrcUse => !m.isFull u.reg && u.trap) ht
        simpa using (Bool.and_eq_true_iff.mp this).1
      simp [hu, Verdict.trap?]
    | none =>
      cases hu : us.find? fun u => !m.isFull u.reg with
      | some u => rfl
      | none =>
        have good : us.find? (fun u => m.badToken u.reg) = none := List.find?_eq_none.mpr fun u hm => by
          simp [h u hm (by simpa using List.find?_eq_none.mp hu u hm)]
        simp [good, Verdict.trap?]

/-! ### Scalar instructions -/

section Scalar

variable {e : Effect} (c : Cur) (m : Slice)

/-- A scalar-class instruction has no check but its registers'. -/
theorem Issue.verdict_regs (srcs : Slice → List SrcUse) (dst : Slice → List RegName) :
    (Issue.regs srcs dst).verdict c m = if guarded m then m.regVerdict c (dst m) (srcs m) else .go := by
  show (if guarded m then _ else _) = _
  split
  · show (match m.regVerdict c (dst m) (srcs m) with | .go => Verdict.go | v => v) = _
    cases m.regVerdict c (dst m) (srcs m) <;> rfl
  · rfl

variable (ha : e.acts = guarded)
include ha

theorem emptyTrap_eq : emptyTrap e m = if guarded m then if ((e.dst m).find? fun r => !m.isFull r).isSome then none else
    (e.uses m).find? fun u => !m.isFull u.reg && u.trap else none := by
  have full : (∀ r ∈ e.dst m, m.isFull r = true) ↔ ¬ ((e.dst m).find? fun r => !m.isFull r).isSome = true := by
    simp [List.find?_isSome]
  simp only [emptyTrap, ha, full]
  cases guarded m with
  | false => rfl
  | true => simp only [true_and, if_true, ite_not]

/-- The register a member waits for is the one its verdict names. -/
theorem wait?_verdict : ((Issue.regs e.uses e.dst).verdict c m).wait? = emptyWait e m := by
  rw [Issue.verdict_regs, emptyWait, emptyTrap_eq m ha, ha]
  cases guarded m with
  | false => rfl
  | true =>
    simp only [if_true, Slice.wait?_regVerdict]
    cases (e.dst m).find? fun r => !m.isFull r <;> rfl

/-- The trap a member raises names the source that traps. -/
theorem trap?_verdict (ht : guarded m = true → ∀ u ∈ e.uses m, m.isFull u.reg = true → m.badToken u.reg = false) :
    ((Issue.regs e.uses e.dst).verdict c m).trap? = (emptyTrap e m).map (trapEmpty m c) := by
  rw [Issue.verdict_regs, emptyTrap_eq m ha]
  cases hg : guarded m with
  | false => rfl
  | true =>
    simp only [if_true, Slice.trap?_regVerdict c (ht hg)]
    split <;> rfl

end Scalar

/-! ### The decision on the gang -/

section Decision

variable {s : State} {k : Issue} {hold : Cur → List Slice → State → Bool} {perform : Cur → List Slice → State → State} {c : Cur}
  {g : Gang} {ms : List Slice} (hi : Issuing s c g ms)
include hi

/-- What an instruction leaves that parks its gang (R45). -/
theorem State.issue_parks {x : Nat} {r : RegName} (h : k.decide_ c (hold c (ms.filter k.kind.acts) s) ms = .parks x r) :
    s.issue k hold perform = { (ms.foldl State.flushSlice s).startWait c.gid (.parked x r) with cur := none } := by
  simp only [State.issue, hi.latch, hi.gang, hi.members, h]

/-- What an instruction leaves that traps in some members (R41). -/
theorem State.issue_traps {ts : List (Nat × TrapRec)} (h : k.decide_ c (hold c (ms.filter k.kind.acts) s) ms = .traps ts) :
    s.issue k hold perform = { s.raiseAll ts with cur := none } := by
  simp only [State.issue, hi.latch, hi.gang, hi.members, h]

end Decision

/-- No check of a scalar-class instruction is decided by the code alone. -/
theorem Issue.gates_regs (srcs : Slice → List SrcUse) (dst : Slice → List RegName) (c : Cur) (ms : List Slice) :
    (ms.filterMap fun m => ((Issue.regs srcs dst).gateTrap c m).map fun t => (m.sid, t)) = [] := by
  simp [Issue.gateTrap, Issue.regs, noCheck]

/-- The first member that waits holds a scalar-class instruction (R41). -/
theorem Issue.decide_regs_parks {e : Effect} {c : Cur} {hold : Bool} {ms : List Slice} {x : Nat} {r : RegName} (ha : e.acts = guarded)
    (h : (ms.findSome? fun m => (emptyWait e m).map fun r => (m.sid, r)) = some (x, r)) :
    (Issue.regs e.uses e.dst).decide_ c hold ms = .parks x r := by
  have wait : firstWait (ms.map fun m => (m.sid, (Issue.regs e.uses e.dst).verdict c m)) = some (x, r) := by
    simp only [firstWait, List.findSome?_map, Function.comp_def, wait?_verdict c _ ha, h]
  simp [Issue.decide_, Issue.gates_regs, wait]

/-- With no member that waits, those trap whose source does (R35, R41). -/
theorem Issue.decide_regs_traps {e : Effect} {c : Cur} {hold : Bool} {ms : List Slice} (ha : e.acts = guarded)
    (hw : ∀ m ∈ ms, emptyWait e m = none)
    (ht : ∀ m ∈ ms, guarded m = true → ∀ u ∈ e.uses m, m.isFull u.reg = true → m.badToken u.reg = false)
    (hs : ∃ m ∈ ms, (emptyTrap e m).isSome = true) :
    (Issue.regs e.uses e.dst).decide_ c hold ms = .traps (ms.filterMap fun m => (emptyTrap e m).map fun u => (m.sid, trapEmpty m c u)) := by
  have wait : firstWait (ms.map fun m => (m.sid, (Issue.regs e.uses e.dst).verdict c m)) = none := by
    simp only [firstWait, List.findSome?_map, Function.comp_def, wait?_verdict c _ ha, List.findSome?_eq_none_iff]
    intro m hm
    rw [hw m hm]; rfl
  have trap : trapsOf (ms.map fun m => (m.sid, (Issue.regs e.uses e.dst).verdict c m)) =
      ms.filterMap fun m => (emptyTrap e m).map fun u => (m.sid, trapEmpty m c u) := by
    simp only [trapsOf, List.filterMap_map]
    refine List.filterMap_congr fun m hm => ?_
    simp only [Function.comp, trap?_verdict c m ha (ht m hm), Option.map_map]
    rfl
  have some : (ms.filterMap fun m => (emptyTrap e m).map fun u => (m.sid, trapEmpty m c u)) ≠ [] := by
    obtain ⟨m, hm, hu⟩ := hs
    obtain ⟨u, hu⟩ := Option.isSome_iff_exists.mp hu
    exact List.ne_nil_of_mem (List.mem_filterMap.mpr ⟨m, hm, by rw [hu]; rfl⟩)
  simp [Issue.decide_, Issue.gates_regs, wait, trap, some]

/-! ### Group 0x1 -/

/-- An instruction of group 0x1 is issued as its effect says: it acts where a lane is active, on the registers named. -/
theorem scalarTable_issue {i : Instr} {e : Effect} (h : scalarTable i = some e) (s : State) :
    e.acts = guarded ∧ ∃ f, exec i s = .next (s.issueLocal (Issue.regs e.uses e.dst) f) := by
  unfold scalarTable at h
  split at h <;> cases h <;> exact ⟨rfl, _, rfl⟩

/-- Settles O24: the verdict on each member says what it waits for or traps on, and the decision takes a wait first. -/
theorem emptyRegisters : Obligations.EmptyRegisters := by
  refine ⟨fun i e s c g ms x r he hi hw => ?_, fun i e s c g ms he hi hw ht hs => ?_⟩
  · obtain ⟨ha, f, hx⟩ := scalarTable_issue he s
    exact hx.trans (congrArg _ (State.issue_parks hi (Issue.decide_regs_parks ha hw)))
  · obtain ⟨ha, f, hx⟩ := scalarTable_issue he s
    exact hx.trans (congrArg _ (State.issue_traps hi (Issue.decide_regs_traps ha hw (ha ▸ ht) hs)))

end Sys2Proof.Machine

namespace Sys2Proof.Machine
open Claims

/-! ## Operations that an instruction leaves outstanding (O28; R34, R139, R144) -/

/-! ### The checks of an access (R139) -/

/-- An access that fits its window passes the check. -/
theorem checkAccess_fits {s : State} {m : Slice} {x : DWord} {b align : Nat} {admits : List Window} (h : fits s m x b align admits) :
    checkAccess s m.core m.wave x b admits align = none := by
  obtain ⟨w, first, last, inside, admitted, aligned⟩ := h
  simp [checkAccess, first, last, Nat.not_le.mpr inside, List.contains_iff_mem.mp admitted, aligned]

theorem State.scalarAccess_fits {s : State} {m : Slice} {x : DWord} {b align : Nat} {admits : List Window}
    (h : fits s m x b align admits) (c : Cur) (write : Bool) : s.scalarAccess m c x b admits align write = none := by
  rw [State.scalarAccess, checkAccess_fits h]; rfl

theorem State.laneAccess_fit {s : State} {m : Slice} {addr : Fin 4 → DWord} {b : Nat} {admits : List Window}
    (h : lanesFit s m addr b admits) (c : Cur) (write : Bool) : s.laneAccess m c addr b admits b write = none := by
  have bad : ((lanesOf m.active).filter fun i => (checkAccess s m.core m.wave (addr i) b admits b).isSome) = [] := by
    refine List.filter_eq_nil_iff.mpr fun i hi => ?_
    have active : m.active.getLsbD i.val = true := (List.mem_filter.mp hi).2
    simp [checkAccess_fits (h i active)]
  simp only [State.laneAccess, bad]

/-! ### Issue -/

/-- Nothing holds an instruction without a gate whose own check passes where it acts. -/
theorem Issue.clear_of_ready {k : Issue} {c : Cur} {m : Slice} (hv : k.kind.view m = m) (hs : k.sup = false) (hg : k.gate = noCheck)
    (ha : k.kind.acts m = true → m.ready (k.srcs m) (k.dst m) = true ∧ k.early c m = none)
    (hw : k.kind.acts m = false → k.kind.waits = true → m.calm (k.srcs m) (k.dst m) = true) : k.clear c m := by
  refine ⟨by simp [Issue.gateTrap, hs, hg, noCheck], ?_, ?_⟩
  · rw [hv]; exact ha
  · rw [hv]; exact hw

/-- What an instruction has to do to the machine whose members have moved on so that it completes with its launch. -/
structure Launching (l : Launch) (s : State) (c : Cur) (ms : List Slice) (t u : State) : Prop where
  slices : u.slices = (ms.filter l.acts).foldl (fun x m => modList x m.sid fun y => y.emptied (l.dst m)) t.slices
  txns : u.txns = s.txns ++ l.ops s c (ms.filter l.acts)
  nextId : u.nextId = s.nextId + (l.ops s c (ms.filter l.acts)).length
  beyond : u.beyondTxns = (if l.flush then (ms.filter l.acts).foldl State.flushSlice s else s).beyondTxns
  gangs : u.gangs = s.gangs

/-- An instruction that nothing holds and that launches its operations completes with them. -/
theorem Launches.of_issue {i : Instr} {l : Launch} {s : State} {k : Issue} {hold : Cur → List Slice → State → Bool}
    {perform : Cur → List Slice → State → State} {c : Cur} {g : Gang} {ms : List Slice} (hi : Issuing s c g ms)
    (hx : exec i s = .next (s.issue k hold perform)) (hacts : k.kind.acts = l.acts) (huses : k.srcs = l.uses)
    (hc : ∀ m ∈ ms, k.clear c m) (hh : hold c (ms.filter l.acts) s = false)
    (hp : Launching l s c ms (s.advance k c ms) (perform c (ms.filter l.acts) (s.advance k c ms))) : Launches i l s c ms := by
  rw [← hacts] at hh hp
  have law := State.issueTxns_law (dst := l.dst) (ops := l.ops s c (ms.filter l.acts)) hi hc hh
    ⟨by rw [hp.slices, hacts], hp.txns, hp.nextId, hp.beyond, hp.gangs⟩
  obtain ⟨members, others, txns, beyond, cur, gangs⟩ := law
  refine ⟨_, hx, fun m hm => ?_, others, txns, beyond, cur, gangs⟩
  rw [members m hm, hacts, huses, Launch.after, Issue.moved, hacts, huses]
  cases l.acts m <;> rfl

/-! ### What moving on leaves -/

section Advance

variable (s : State) (k : Issue) (c : Cur) (ms : List Slice)

@[simp] theorem State.advance_txns : (s.advance k c ms).txns = s.txns :=
  (congrArg State.txns (State.advance_beyond s k c ms) :)
@[simp] theorem State.advance_waves : (s.advance k c ms).waves = s.waves :=
  (congrArg State.waves (State.advance_beyond s k c ms) :)
@[simp] theorem State.advance_fab : (s.advance k c ms).fab = s.fab :=
  (congrArg State.fab (State.advance_beyond s k c ms) :)
@[simp] theorem State.advance_beyondTxns : (s.advance k c ms).beyondTxns = s.beyondTxns :=
  State.beyondTxns_of_beyond (State.advance_beyond s k c ms)
@[simp] theorem State.advance_ctxOfWave (w : Word) : (s.advance k c ms).ctxOfWave w = s.ctxOfWave w := by
  simp only [State.ctxOfWave, State.wave?, State.advance_waves]

end Advance

/-- States that agree but for slices, operations and names agree beyond the operations. -/
theorem State.beyondTxns_of_aside {u t : State}
    (h : ({ u with slices := [], txns := [], nextId := 0 } : State) = { t with slices := [], txns := [], nextId := 0 }) :
    u.beyondTxns = t.beyondTxns ∧ u.gangs = t.gangs :=
  ⟨(congrArg State.beyondTxns h :), (congrArg State.gangs h :)⟩

/-- The one operation of a gang is the launch of its acting members. -/
theorem Launching.gangTxn {l : Launch} {s : State} {c : Cur} {ms : List Slice} {k : Issue} {kind : TxnKind} {lanes : List LaneAcc}
    (he : l.each = false) (hf : l.flush = false) (hk : ∀ m, l.kind s m = kind)
    (hl : lanes = (ms.filter l.acts).flatMap l.lanes) :
    Launching l s c ms (s.advance k c ms) ((s.advance k c ms).gangTxn c (ms.filter l.acts) kind l.size l.dst lanes) := by
  have ops : (s.advance k c ms).gangOp c (ms.filter l.acts) kind l.size l.dst lanes = l.ops s c (ms.filter l.acts) := by
    simp only [Launch.ops, he, hl, hk]
    cases ms.filter l.acts with
    | nil => rfl
    | cons m t => simp only [State.gangOp, State.advance_nextId, State.advance_ctxOfWave, State.advance_fab]; rfl
  obtain ⟨slices, txns, nextId, rest⟩ := State.gangTxn_law (ms.filter l.acts) (s.advance k c ms) c kind l.size l.dst lanes
  obtain ⟨beyond, gangs⟩ := State.beyondTxns_of_aside rest
  rw [ops] at txns nextId
  refine ⟨slices, by simpa using txns, by simpa using nextId, ?_, gangs.trans (State.advance_gangs s k c ms)⟩
  rw [hf, beyond]
  exact State.advance_beyondTxns s k c ms

/-- An operation for each slice is the launch of the acting members. -/
theorem Launching.sliceTxns {l : Launch} {s : State} {c : Cur} {ms : List Slice} {k : Issue}
    (he : l.each = true) (hf : l.flush = false) :
    Launching l s c ms (s.advance k c ms)
      ((s.advance k c ms).sliceTxns c (ms.filter l.acts) (l.kind s) l.size l.dst l.lanes) := by
  have ops : (s.advance k c ms).sliceOps c s.nextId (ms.filter l.acts) (l.kind s) l.size l.dst l.lanes =
      l.ops s c (ms.filter l.acts) := by
    simp only [Launch.ops, he, State.sliceOps, State.advance_ctxOfWave, State.advance_fab, if_true]
    rw [List.zipIdx_eq_map_add]
    simp only [List.map_map]
    rfl
  obtain ⟨slices, txns, nextId, rest⟩ :=
    State.sliceTxns_law (ms.filter l.acts) (s.advance k c ms) c (l.kind s) l.size l.dst l.lanes
  obtain ⟨beyond, gangs⟩ := State.beyondTxns_of_aside rest
  rw [State.advance_nextId, ops] at txns
  have len : (l.ops s c (ms.filter l.acts)).length = (ms.filter l.acts).length := by simp [Launch.ops, he]
  refine ⟨slices, by simpa using txns, by simpa [len] using nextId, ?_, gangs.trans (State.advance_gangs s k c ms)⟩
  rw [hf, beyond]
  exact State.advance_beyondTxns s k c ms

/-! ### Loads (R145) -/

/-- A per-lane load without a gate and with nothing to hold it launches the accesses of its active lanes. -/
theorem launches_vload {i : Instr} {l : Launch} {s : State} {c : Cur} {g : Gang} {ms : List Slice} {acq : Option Scope} {size : Nat}
    {uses : Slice → List SrcUse} {dst : List RegName} {addr : Slice → Fin 4 → DWord} (hl : vload acq size uses dst addr = some l)
    (hx : exec i s = .next (s.loadOp acq size uses dst addr)) (hp : perLane i = true) (hi : Issuing s c g ms)
    (hr : ∀ m ∈ ms, l.acts m = true → m.ready (l.uses m) (l.dst m) = true ∧ l.need s m)
    (hw : ∀ m ∈ ms, rests i l.acts l.uses l.dst m) : Launches i l s c ms := by
  cases hl
  refine Launches.of_issue hi hx rfl rfl (fun m hm => Issue.clear_of_ready rfl rfl rfl (fun ha => ?_) fun ha _ => hw m hm ha hp) rfl
    (Launching.gangTxn rfl rfl (fun _ => rfl) rfl)
  obtain ⟨ready, fit⟩ := hr m hm ha
  exact ⟨ready, State.laneAccess_fit fit c false⟩

/-- A scalar load launches the one access of each acting slice. -/
theorem launches_sload {i : Instr} {l : Launch} {s : State} {c : Cur} {g : Gang} {ms : List Slice} {acq : Option Scope}
    {d : SReg} {a : SPairSrc} (hl : sload acq d a = some l) (hx : exec i s = .next (s.scalarLoad acq d a)) (hi : Issuing s c g ms)
    (hr : ∀ m ∈ ms, l.acts m = true → m.ready (l.uses m) (l.dst m) = true ∧ l.need s m) : Launches i l s c ms := by
  cases hl
  refine Launches.of_issue hi hx rfl rfl (fun m hm => Issue.clear_of_ready rfl rfl rfl (fun ha => ?_) nofun) rfl
    (Launching.sliceTxns rfl rfl)
  obtain ⟨ready, fit⟩ := hr m hm ha
  exact ⟨ready, State.scalarAccess_fits fit c false⟩

/-- Settles O28: every load is a per-lane or a scalar one. -/
theorem loadsIssue : Obligations.LoadsIssue := by
  intro i l s c g ms hl hi _ hr hw _
  cases i with
  | ldB d a b => exact launches_vload hl rfl rfl hi hr hw
  | ldH d a b => exact launches_vload hl rfl rfl hi hr hw
  | ldW d a b => exact launches_vload hl rfl rfl hi hr hw
  | ldAcq d a b => exact launches_vload hl rfl rfl hi hr hw
  | ldp d a b => exact launches_vload hl rfl rfl hi hr hw
  | lds d a h => exact launches_sload hl rfl hi hr
  | ldsAcq d a b => exact launches_sload hl rfl hi hr
  | _ => cases hl

end Sys2Proof.Machine

namespace Sys2Proof.Machine
open Claims

/-! ## A branch whose target is fetched while a counter counts (O17; R66, R86, R328) -/

/-- The small machine with nothing in its instruction cache, line 0 in the L2 of domain 0, and counter 0 of the physical function counting
the accesses that reach an L2 (event 0x03, R328). -/
def countedFetch : State :=
  { Tests.lab (Tests.one 0#32) with
    ilines := []
    lines := [⟨0#16, 0, 0, false, [⟨.l2 0, true, false, true⟩]⟩]
    ctxs := State.reset.ctxs.set 0 { Ctx.reset with pcsel := Ctx.reset.pcsel.set 0 0x103#32 } }

/-- BRA to word 5 of the same line. -/
def countedBranch : Instr := .bra ⟨4#16, 0#16⟩

/-- Counter 0 of the physical function. -/
def State.counter0 (s : State) : DWord := (s.ctx 0).pccnt.get 0

/-- A one-slice gang issues in the machine that counts. -/
theorem countedFetch_issuing :
    Issuing countedFetch Tests.labCur (Tests.labGang (Tests.one 0#32)) (Tests.one 0#32) :=
  ⟨rfl, by decide +kernel, by decide +kernel, by decide +kernel, by decide +kernel⟩

/-- What the fetch of the target comes to. -/
def CodeRes.starts (r : CodeRes) (i : Nat) : Bool :=
  match r with
  | .line l _ => headerCode (l.words.get 0) i != 2#2
  | _ => false

theorem countedFetch_reachable (m : Slice) (hm : m ∈ Tests.one 0#32) : reachable countedFetch m (target 4#64 4#16) := by
  obtain rfl : m = Tests.labSlice 0#32 0 := by simpa [Tests.one] using hm
  have h : (countedFetch.codeLine (Tests.labSlice 0#32 0).core (countedFetch.sliceAsid (Tests.labSlice 0#32 0)) (target 4#64 4#16)).starts
      (slotOf (target 4#64 4#16)).val = true := by decide +kernel
  refine ⟨by decide, ?_⟩
  generalize countedFetch.codeLine _ _ _ = r at h
  cases r with
  | line l t => exact ⟨l, t, rfl, by simpa [CodeRes.starts] using h⟩
  | held => cases h
  | fault g k => cases h

/-- The branch counts its fetch: the counter goes from 0 to 1. -/
theorem countedBranch_counts (t : State) (h : exec countedBranch countedFetch = .next t) : t.counter0 = 1#64 := by
  have e : (match exec countedBranch countedFetch with | .next u => u.counter0 | _ => 0#64) = 1#64 := by decide +kernel
  rwa [h] at e

/-- Every lane of the slice takes the branch, and its registers hold it in no way. -/
theorem countedBranch_goes (m : Slice) (hm : m ∈ Tests.one 0#32) :
    m.ready [] [] = true ∧ (taken countedBranch m ≠ 0#4 → reachable countedFetch m (target 4#64 4#16) ∧
      (m.amask &&& ~~~(taken countedBranch m) ≠ 0#4 →
        0#16 ≠ 0#16 ∧ reachable countedFetch m (target 4#64 0#16) ∧ 2 ≤ room m)) := by
  refine ⟨rfl, fun _ => ⟨countedFetch_reachable m hm, fun left => ?_⟩⟩
  obtain rfl : m = Tests.labSlice 0#32 0 := by simpa [Tests.one] using hm
  exact absurd (by decide +kernel) left

/-- Refutes O17: the fetch of a branch's target reaches the L2, and a counter of R328 that counts such accesses goes on; it is no cache. -/
theorem not_branches : ¬ Obligations.Branches := by
  intro h
  obtain ⟨t, ht, -, -, ⟨beyond, -⟩, -, -⟩ := h countedBranch _ countedFetch Tests.labCur _ _ rfl countedFetch_issuing (fun _ _ => trivial)
    (fun m hm _ => countedBranch_goes m hm) (fun m hm ha => nomatch ha)
  have same : t.counter0 = countedFetch.counter0 := (congrArg State.counter0 beyond :)
  rw [countedBranch_counts t ht] at same
  exact absurd same (by decide +kernel)

end Sys2Proof.Machine

namespace Sys2Proof.Machine
open Claims

/-! ## REGANG instances (O22; R42, R47, R93) -/

/-! ### Slices by rising slot -/

theorem insertSlot_map {f : Slice → Slice} (hf : ∀ x, (f x).slot = x.slot) (x : Slice) (l : List Slice) :
    insertSlot (f x) (l.map f) = (insertSlot x l).map f := by
  induction l with
  | nil => rfl
  | cons y t ih =>
    simp only [List.map_cons, insertSlot, hf, ih]
    split <;> rfl

/-- A change of slices that keeps their slots keeps their order. -/
theorem bySlot_map {f : Slice → Slice} (hf : ∀ x, (f x).slot = x.slot) (l : List Slice) : bySlot (l.map f) = (bySlot l).map f := by
  induction l with
  | nil => rfl
  | cons x t ih => exact (congrArg (insertSlot (f x)) ih).trans (insertSlot_map hf x _)

/-! ### Closing an instance -/

/-- The slices of an instance that stand in their slots. -/
def State.standing (s : State) (arrived : List Nat) : List Slice := (arrived.filterMap s.slice?).filter fun x => x.place == .resident

/-- Those of them that stand in an octet, by rising slot. -/
def inOctet (stand : List Slice) (core oct : Nat) : List Nat :=
  (bySlot (stand.filter fun y => y.core == core && y.oct == oct)).map (·.sid)

/-- The octets of some slices, each once. -/
def octetsOf (ms : List Slice) : List (Nat × Nat) :=
  ms.foldl (fun acc x => if acc.contains (x.core, x.oct) then acc else acc ++ [(x.core, x.oct)]) []

theorem mem_octetsOf {ms : List Slice} {x : Slice} (h : x ∈ ms) : (x.core, x.oct) ∈ octetsOf ms := by
  have grows (l : List Slice) (acc : List (Nat × Nat)) (o : Nat × Nat) (ho : o ∈ acc ∨ ∃ y ∈ l, (y.core, y.oct) = o) :
      o ∈ l.foldl (fun acc x => if acc.contains (x.core, x.oct) then acc else acc ++ [(x.core, x.oct)]) acc := by
    induction l generalizing acc with
    | nil => simpa using ho
    | cons y t ih =>
      refine ih _ ?_
      by_cases hy : (y.core, y.oct) ∈ acc <;> grind
  exact grows ms [] _ (.inr ⟨x, h, rfl⟩)

/-- The gang of an octet is formed (R42, R228). -/
def State.formGang (stand : List Slice) (t : State) (o : Nat × Nat) : State :=
  State.flushPoint { t with
    gangs := t.gangs ++ [⟨t.nextId, o.1, o.2, inOctet stand o.1 o.2, .ready, t.nextId, 0⟩], nextId := t.nextId + 1 } o.1 o.2

@[simp] theorem State.flushPoint_gangs (s : State) (core oct : Nat) : (s.flushPoint core oct).gangs = s.gangs :=
  State.flushPoint_field State.gangs (fun _ _ _ => rfl) s core oct

theorem State.formGang_gangs (stand : List Slice) (t : State) (o : Nat × Nat) :
    (t.formGang stand o).gangs = t.gangs ++ [⟨t.nextId, o.1, o.2, inOctet stand o.1 o.2, .ready, t.nextId, 0⟩] :=
  State.flushPoint_gangs ..

theorem State.formGang_field {β : Type} (p : State → β) (h : ∀ s : State, ∀ o x, p { s with octets := o, ctxs := x } = p s)
    (hg : ∀ s : State, ∀ g n, p { s with gangs := g, nextId := n } = p s) (stand : List Slice) (t : State) (o : Nat × Nat) :
    p (t.formGang stand o) = p t :=
  (State.flushPoint_field p h _ _ _).trans (hg t _ _)

/-- Closing an instance leaves it out, takes its slices from their gangs and forms a gang for each octet. -/
theorem State.closeRegang_eq (s : State) (i : RegangInst) : s.closeRegang i =
    (octetsOf (s.standing i.arrived)).foldl (State.formGang (s.standing i.arrived)) { s with
      regangs := s.regangs.filter fun r => r.id != i.id
      gangs := s.gangs.map fun g => { g with members := g.members.filter fun m => !i.arrived.contains m } } := rfl

theorem State.closeRegang_field {β : Type} (p : State → β) (h : ∀ s : State, ∀ o x, p { s with octets := o, ctxs := x } = p s)
    (hg : ∀ s : State, ∀ g n, p { s with gangs := g, nextId := n } = p s) (s : State) (i : RegangInst) :
    p (s.closeRegang i) = p { s with regangs := s.regangs.filter fun r => r.id != i.id } := by
  rw [State.closeRegang_eq, foldl_keeps p _ fun t o => State.formGang_field p h hg _ t o]
  exact hg { s with regangs := s.regangs.filter fun r => r.id != i.id } _ s.nextId

@[simp] theorem State.closeRegang_regangs (s : State) (i : RegangInst) :
    (s.closeRegang i).regangs = s.regangs.filter fun r => r.id != i.id :=
  State.closeRegang_field State.regangs (fun _ _ _ => rfl) (fun _ _ _ => rfl) s i
@[simp] theorem State.closeRegang_slices (s : State) (i : RegangInst) : (s.closeRegang i).slices = s.slices :=
  State.closeRegang_field State.slices (fun _ _ _ => rfl) (fun _ _ _ => rfl) s i

/-- A gang of each octet of a list stands once they are formed, and those before it still stand. -/
theorem State.mem_formGangs (stand : List Slice) (os : List (Nat × Nat)) (t : State) :
    (∀ h ∈ t.gangs, h ∈ (os.foldl (State.formGang stand) t).gangs) ∧
    ∀ o ∈ os, ∃ h ∈ (os.foldl (State.formGang stand) t).gangs,
      h.core = o.1 ∧ h.octet = o.2 ∧ h.wait = .ready ∧ h.members = inOctet stand o.1 o.2 := by
  induction os generalizing t with
  | nil => exact ⟨fun _ h => h, nofun⟩
  | cons o os ih =>
    obtain ⟨keeps, forms⟩ := ih (t.formGang stand o)
    rw [State.formGang_gangs] at keeps
    refine ⟨fun h hh => keeps h (List.mem_append_left _ hh), fun x hx => ?_⟩
    cases hx with
    | head => exact ⟨_, keeps _ (List.mem_append_right _ (.head _)), rfl, rfl, rfl, rfl⟩
    | tail _ hx => exact forms x hx

/-- The slices that stand in one octet form one gang in the order of their slots, ready to issue (R42). -/
theorem State.closeRegang_forms (s : State) (i : RegangInst) {x : Slice} (hx : x ∈ s.standing i.arrived) :
    ∃ h ∈ (s.closeRegang i).gangs, h.core = x.core ∧ h.octet = x.oct ∧ h.wait = .ready ∧
      h.members = inOctet (s.standing i.arrived) x.core x.oct :=
  (State.mem_formGangs (s.standing i.arrived) _ _).2 _ (mem_octetsOf hx)

/-! ### Arriving -/

section Arrive

variable (s : State) (pc : DWord) (m : Slice) (ids : List Nat) (timed : Bool)

/-- The open instance at a PC of a slice's block. -/
def State.instanceAt (pc : DWord) (m : Slice) : Option RegangInst :=
  s.regangs.find? fun r => r.wave == m.wave && r.block == m.block && r.pc == pc

/-- The name of the instance slices arrive at. -/
def State.arrivalId : Nat := ((s.instanceAt pc m).map (·.id)).getD s.nextId

/-- The instance once slices have arrived at it. -/
def State.arrival : RegangInst :=
  ⟨s.arrivalId pc m, m.wave, m.block, pc, (((s.instanceAt pc m).map (·.arrived)).getD []) ++ ids,
    (((s.instanceAt pc m).map (·.timed)).getD false) || timed⟩

/-- The instances once slices have arrived at theirs. -/
def State.arrivals : List RegangInst :=
  match s.instanceAt pc m with
  | some r => s.regangs.map fun x => if x.id == r.id then s.arrival pc m ids timed else x
  | none => s.regangs ++ [s.arrival pc m ids timed]

/-- The machine once slices of a gang have arrived: the gang waits in the instance. -/
def State.arrived (gid : Nat) : State :=
  State.setWait { s with
    regangs := s.arrivals pc m ids timed
    nextId := if (s.instanceAt pc m).isSome then s.nextId else s.nextId + 1 } gid (.regang (s.arrivalId pc m))

end Arrive

/-- The instance found is one of the block at the PC. -/
theorem State.instanceAt_some {s : State} {pc : DWord} {m : Slice} {r : RegangInst} (h : s.instanceAt pc m = some r) :
    r ∈ s.regangs ∧ r.wave = m.wave ∧ r.block = m.block ∧ r.pc = pc := by
  refine ⟨List.mem_of_find?_eq_some h, ?_⟩
  simpa [and_assoc] using List.find?_some h

/-- A gang that arrives waits in its instance, or closes it (R42, R47). -/
theorem State.arriveRegang_eq (s : State) (c : Cur) (m : Slice) (ms : List Slice) (timed : Bool) :
    s.arriveRegang c (m :: ms) timed =
      let i := s.arrival c.pc m ((m :: ms).map (·.sid)) timed
      let u := s.arrived c.pc m ((m :: ms).map (·.sid)) timed c.gid
      if u.regangFull i || (i.timed && (u.core m.core).gtmo == 0#20) then u.closeRegang i else u := by
  unfold State.arriveRegang State.arrived State.arrivals State.arrival State.arrivalId
  cases h : s.instanceAt c.pc m with
  | none =>
    have found : (s.regangs.find? fun r => r.wave == m.wave && r.block == m.block && r.pc == c.pc) = none := h
    simp only [found]
    rfl
  | some r =>
    have found : (s.regangs.find? fun r => r.wave == m.wave && r.block == m.block && r.pc == c.pc) = some r := h
    obtain ⟨-, hw, hb, hp⟩ := State.instanceAt_some h
    obtain ⟨id, _, _, _, arr, tm⟩ := r
    subst hw hb hp
    simp only [found]
    rfl

/-! ### Instructions without registers, lanes or checks -/

/-- What issue knows of such an instruction. -/
def Issue.plain : Issue := ⟨.always, false, fun _ => [], fun _ => [], noCheck, noCheck⟩

/-- A slice that has moved on if it is one of those named (R51). -/
def Slice.passed (nxt : DWord) (ids : List Nat) (x : Slice) : Slice := if x.sid ∈ ids then { x with pc := nxt } else x

section Passed

variable (nxt : DWord) (ids : List Nat) (x : Slice)

/-- Moving on changes the PC alone. -/
theorem Slice.passed_field {β : Type} (p : Slice → β) (h : ∀ x pc, p { x with pc := pc } = p x) : p (x.passed nxt ids) = p x := by
  unfold Slice.passed; split
  · exact h x nxt
  · rfl

@[simp] theorem Slice.passed_sid : (x.passed nxt ids).sid = x.sid := Slice.passed_field nxt ids x _ fun _ _ => rfl
@[simp] theorem Slice.passed_wave : (x.passed nxt ids).wave = x.wave := Slice.passed_field nxt ids x _ fun _ _ => rfl
@[simp] theorem Slice.passed_block : (x.passed nxt ids).block = x.block := Slice.passed_field nxt ids x _ fun _ _ => rfl
@[simp] theorem Slice.passed_core : (x.passed nxt ids).core = x.core := Slice.passed_field nxt ids x _ fun _ _ => rfl
@[simp] theorem Slice.passed_slot : (x.passed nxt ids).slot = x.slot := Slice.passed_field nxt ids x _ fun _ _ => rfl
@[simp] theorem Slice.passed_oct : (x.passed nxt ids).oct = x.oct := Slice.passed_field nxt ids x _ fun _ _ => rfl
@[simp] theorem Slice.passed_place : (x.passed nxt ids).place = x.place := Slice.passed_field nxt ids x _ fun _ _ => rfl

end Passed

/-- All members move on at once. -/
theorem State.advance_plain_slices (s : State) (c : Cur) (ms : List Slice) :
    (s.advance Issue.plain c ms).slices = s.slices.map (Slice.passed c.nxt (ms.map (·.sid))) := by
  have each (l : List Slice) : (ms.foldl (fun l m => modList l m.sid fun x => { x with pc := c.nxt }) l) =
      l.map (Slice.passed c.nxt (ms.map (·.sid))) := by
    induction ms generalizing l with
    | nil => exact (List.map_id _).symm
    | cons m t ih =>
      rw [List.foldl_cons, ih, modList, List.map_map]
      refine List.map_congr_left fun x _ => ?_
      by_cases hx : x.sid = m.sid <;> by_cases ht : m.sid ∈ t.map (·.sid) <;> simp [Slice.passed, hx, ht]
  rw [← each]
  exact slices_foldl ms _ _ (fun t m => by simp [Issue.plain, LaneKind.acts]; rfl) s

/-- A slice once the members have moved on. -/
theorem State.slice?_advance_plain (s : State) (c : Cur) (ms : List Slice) (b : Nat) :
    (s.advance Issue.plain c ms).slice? b = (s.slice? b).map (Slice.passed c.nxt (ms.map (·.sid))) := by
  simp only [State.slice?, State.advance_plain_slices, List.find?_map, Function.comp_def, Slice.passed_sid]

section Plain

variable {s : State} {c : Cur} {g : Gang} {ms : List Slice} (hi : Issuing s c g ms)
include hi

/-- Nothing holds such an instruction. -/
theorem State.issue_plain (perform : Cur → List Slice → State → State) :
    s.issue Issue.plain noHold perform = (perform c ms (s.advance Issue.plain c ms)).afterIssue c ms := by
  have acts : ms.filter Issue.plain.kind.acts = ms := List.filter_eq_self.mpr fun _ _ => rfl
  have clear : ∀ m ∈ ms, Issue.plain.clear c m := fun m _ => Issue.clear_of_ready rfl rfl rfl (fun _ => ⟨rfl, rfl⟩) nofun
  rw [State.issue_goes hi clear rfl, acts]

/-- A member has moved on. -/
theorem Issuing.passed {m : Slice} (hm : m ∈ ms) : (s.advance Issue.plain c ms).slice? m.sid = some { m with pc := c.nxt } := by
  rw [State.slice?_advance_plain, hi.mem hm]
  simp [Slice.passed, List.mem_map_of_mem hm]

/-- What an issue leaves whose instruction leaves the slices where they moved on to, and does not yield. -/
theorem State.afterIssue_passed {u : State} (hu : u.slices = (s.advance Issue.plain c ms).slices) (hy : c.yields = false) :
    u.afterIssue c ms = { u with cur := none } := by
  rw [State.afterIssue_free, hy]
  · rfl
  · intro m hm
    have : u.slice? m.sid = some { m with pc := c.nxt } := by rw [State.slice?, hu]; exact hi.passed hm
    rw [State.steps, this]
    exact hi.free m hm

end Plain

/-! ### REGANG (R93) -/

section Regang

variable {s : State} {c : Cur} {g : Gang} {m : Slice} {ms : List Slice} {timed : Bool}

/-- The machine once the members have moved on and arrived. -/
def regangArrived (s : State) (c : Cur) (m : Slice) (ms : List Slice) (timed : Bool) : State :=
  (s.advance Issue.plain c (m :: ms)).arrived c.pc m ((m :: ms).map (·.sid)) timed c.gid

@[simp] theorem State.advance_regangs (s : State) (k : Issue) (c : Cur) (ms : List Slice) : (s.advance k c ms).regangs = s.regangs :=
  (congrArg State.regangs (State.advance_beyond s k c ms) :)
@[simp] theorem State.advance_cores (s : State) (k : Issue) (c : Cur) (ms : List Slice) : (s.advance k c ms).cores = s.cores :=
  (congrArg State.cores (State.advance_beyond s k c ms) :)

/-- Moving on changes neither the instances nor the next name. -/
theorem State.arrival_advance (s : State) (k : Issue) (c : Cur) (l : List Slice) (pc : DWord) (m : Slice) (ids : List Nat) (timed : Bool) :
    (s.advance k c l).arrival pc m ids timed = s.arrival pc m ids timed := by
  simp only [State.arrival, State.arrivalId, State.instanceAt, State.advance_regangs, State.advance_nextId]

theorem regangArrived_regangs : (regangArrived s c m ms timed).regangs = s.arrivals c.pc m ((m :: ms).map (·.sid)) timed := by
  simp only [regangArrived, State.arrived, State.setWait_regangs, State.arrivals, State.arrival_advance, State.instanceAt,
    State.advance_regangs]

theorem regangArrived_gangs : (regangArrived s c m ms timed).gangs =
    s.gangs.map fun x => if x.gid = c.gid then { x with wait := .regang (s.arrivalId c.pc m) } else x := by
  simp only [regangArrived, State.arrived, State.setWait, State.modGang, State.advance_gangs, State.arrivalId, State.instanceAt,
    State.advance_regangs, State.advance_nextId, beq_iff_eq]

theorem regangArrived_core (k : Nat) : (regangArrived s c m ms timed).core k = s.core k := by
  show List.getD (s.advance Issue.plain c (m :: ms)).cores.toList k CoreRec.reset = _
  rw [State.advance_cores]; rfl

/-- Every slice of the block has arrived. -/
theorem regangArrived_full : (regangArrived s c m ms timed).regangFull (s.arrival c.pc m ((m :: ms).map (·.sid)) timed) = true ↔
    ∀ x ∈ s.slices, x.wave = m.wave → x.block = m.block →
      x.sid ∈ (s.arrival c.pc m ((m :: ms).map (·.sid)) timed).arrived := by
  have slices : (regangArrived s c m ms timed).slices = s.slices.map (Slice.passed c.nxt ((m :: ms).map (·.sid))) :=
    State.advance_plain_slices s c (m :: ms)
  simp only [State.regangFull, State.blockSlices, slices, List.all_filter, List.all_map, List.all_eq_true, Function.comp,
    Slice.passed_wave, Slice.passed_block, Slice.passed_sid, Bool.or_eq_true, Bool.not_eq_true', List.contains_eq_mem,
    decide_eq_true_eq, Bool.and_eq_false_iff]
  refine forall₂_congr fun x _ => ?_
  simp only [State.arrival, beq_eq_false_iff_ne, ne_eq]
  tauto

/-- The slices that stand are those that stood, moved on. -/
theorem regangArrived_standing (arrived : List Nat) : (regangArrived s c m ms timed).standing arrived =
    (s.standing arrived).map (Slice.passed c.nxt ((m :: ms).map (·.sid))) := by
  have found : (regangArrived s c m ms timed).slice? = fun b => (s.slice? b).map (Slice.passed c.nxt ((m :: ms).map (·.sid))) :=
    funext (State.slice?_advance_plain s c (m :: ms))
  simp only [State.standing, found, ← List.map_filterMap, List.filter_map, Function.comp_def, Slice.passed_place]

/-- The order of the slots of an octet stays as the slices move on. -/
theorem inOctet_passed (nxt : DWord) (ids : List Nat) (l : List Slice) (core oct : Nat) :
    inOctet (l.map (Slice.passed nxt ids)) core oct = inOctet l core oct := by
  simp only [inOctet, List.filter_map, Function.comp_def, Slice.passed_core, Slice.passed_oct, bySlot_map (Slice.passed_slot nxt ids),
    List.map_map, Slice.passed_sid]

/-- Whether the arrival closes the instance (R42, R47). -/
def regangCloses (s : State) (c : Cur) (m : Slice) (ms : List Slice) (timed : Bool) : Bool :=
  (regangArrived s c m ms timed).regangFull (s.arrival c.pc m ((m :: ms).map (·.sid)) timed) ||
    ((s.arrival c.pc m ((m :: ms).map (·.sid)) timed).timed && (s.core m.core).gtmo == 0#20)

theorem regangCloses_iff : regangCloses s c m ms timed = true ↔
    (∀ x ∈ s.slices, x.wave = m.wave → x.block = m.block → x.sid ∈ (s.arrival c.pc m ((m :: ms).map (·.sid)) timed).arrived) ∨
      (s.arrival c.pc m ((m :: ms).map (·.sid)) timed).timed = true ∧ (s.core m.core).gtmo = 0#20 := by
  rw [regangCloses, Bool.or_eq_true, Bool.and_eq_true, beq_iff_eq, regangArrived_full]

/-- What the members' arrival leaves: the gang waits in its instance, unless that closes. -/
def regangPerformed (s : State) (c : Cur) (m : Slice) (ms : List Slice) (timed : Bool) : State :=
  if regangCloses s c m ms timed then
    (regangArrived s c m ms timed).closeRegang (s.arrival c.pc m ((m :: ms).map (·.sid)) timed)
  else regangArrived s c m ms timed

theorem arriveRegang_advance :
    (s.advance Issue.plain c (m :: ms)).arriveRegang c (m :: ms) timed = regangPerformed s c m ms timed := by
  have core := regangArrived_core (s := s) (c := c) (m := m) (ms := ms) (timed := timed) m.core
  rw [State.arriveRegang_eq, State.arrival_advance, regangPerformed, regangCloses, ← core]
  rfl

theorem regangPerformed_slices : (regangPerformed s c m ms timed).slices = (s.advance Issue.plain c (m :: ms)).slices := by
  unfold regangPerformed
  split
  · exact State.closeRegang_slices _ _
  · rfl

variable (hi : Issuing s c g (m :: ms))
include hi

theorem exec_regang (hy : c.yields = false) : exec (.regang timed) s = .next { regangPerformed s c m ms timed with cur := none } := by
  have step := State.issue_plain hi fun c ms t => t.arriveRegang c ms timed
  rw [arriveRegang_advance, State.afterIssue_passed hi regangPerformed_slices hy] at step
  exact congrArg Host.Outcome.next step

/-- The members of the gang have moved on. -/
theorem regang_passed {y : Slice} (hm : y ∈ m :: ms) :
    State.slice? { regangPerformed s c m ms timed with cur := none } y.sid = some { y with pc := c.nxt } := by
  show (regangPerformed s c m ms timed).slice? y.sid = _
  rw [State.slice?, regangPerformed_slices]
  exact hi.passed hm

end Regang

/-- The instance arrived at is among those left. -/
theorem State.mem_arrivals (s : State) (pc : DWord) (m : Slice) (ids : List Nat) (timed : Bool) :
    s.arrival pc m ids timed ∈ s.arrivals pc m ids timed := by
  unfold State.arrivals
  cases h : s.instanceAt pc m with
  | none => simp
  | some r => exact List.mem_map.mpr ⟨r, (State.instanceAt_some h).1, by simp⟩

/-- The instances left once the one arrived at is closed. -/
theorem State.mem_arrivals_others {s : State} {pc : DWord} {m : Slice} {ids : List Nat} {timed : Bool} {r : RegangInst}
    (h : r ∈ s.arrivals pc m ids timed) (hr : r.id ≠ s.arrivalId pc m) :
    r ∈ s.regangs ∧ (s.instanceAt pc m).map (·.id) ≠ some r.id := by
  unfold State.arrivals at h
  cases hf : s.instanceAt pc m with
  | none =>
    simp only [hf, List.mem_append, List.mem_singleton] at h
    rcases h with h | rfl
    · exact ⟨h, nofun⟩
    · exact absurd rfl hr
  | some q =>
    have hq : s.arrivalId pc m = q.id := by simp [State.arrivalId, hf]
    rw [hq] at hr
    simp only [hf, List.mem_map] at h
    obtain ⟨x, hx, e⟩ := h
    split at e
    · exact absurd (e ▸ hq) hr
    · subst e
      exact ⟨hx, fun e => hr (Option.some.inj e).symm⟩

/-- With at most one instance of the block at the PC, none is left but the one arrived at. -/
theorem State.instance_unique {s : State} {pc : DWord} {m : Slice} {r : RegangInst} (hr : r ∈ s.regangs)
    (hn : (s.instanceAt pc m).map (·.id) ≠ some r.id)
    (hl : (s.regangs.filter fun r => r.wave == m.wave && r.block == m.block && r.pc == pc).length ≤ 1) :
    ¬ (r.wave = m.wave ∧ r.block = m.block ∧ r.pc = pc) := by
  rintro ⟨hw, hb, hp⟩
  have mem : r ∈ s.regangs.filter fun r => r.wave == m.wave && r.block == m.block && r.pc == pc :=
    List.mem_filter.mpr ⟨hr, by simp [hw, hb, hp]⟩
  have found : s.instanceAt pc m = (s.regangs.filter fun r => r.wave == m.wave && r.block == m.block && r.pc == pc).head? :=
    (List.head?_filter ..).symm
  generalize s.regangs.filter _ = l at mem hl found
  obtain ⟨x, rfl⟩ : ∃ x, l = [x] := List.length_eq_one_iff.mp (by have := List.length_pos_of_mem mem; omega)
  obtain rfl := List.mem_singleton.mp mem
  exact hn (by rw [found]; rfl)

/-- Settles O22: what REGANG leaves (`exec_regang`) while its instance stays open, and once it closes. -/
theorem regang : Obligations.Regang := by
  refine ⟨fun timed s c g m ms hi => ?_, fun timed s c g m ms hi => ?_⟩
  · intro old arrived timed' missing notimed hy
    have stays : ¬ regangCloses s c m ms timed = true := by
      rw [regangCloses_iff]
      rintro (full | ⟨timed, zero⟩)
      · obtain ⟨x, hx, hw, hb, hn⟩ := missing
        exact hn (full x hx hw hb)
      · exact notimed timed zero
    have left : regangPerformed s c m ms timed = regangArrived s c m ms timed := if_neg stays
    refine ⟨_, s.arrivalId c.pc m, exec_regang hi hy, fun y => regang_passed hi, ⟨s.arrival c.pc m ((m :: ms).map (·.sid)) timed, ?_, rfl⟩, ?_⟩
    · rw [left]
      exact regangArrived_regangs ▸ State.mem_arrivals ..
    · rw [left]
      exact regangArrived_gangs
  · intro old arrived timed' closes hy stand
    have left : regangPerformed s c m ms timed =
        (regangArrived s c m ms timed).closeRegang (s.arrival c.pc m ((m :: ms).map (·.sid)) timed) :=
      if_pos (regangCloses_iff.mpr closes)
    have others : ∀ r ∈ (regangPerformed s c m ms timed).regangs, r ∈ s.regangs ∧ old.map (·.id) ≠ some r.id := fun r hr => by
      rw [left, State.closeRegang_regangs, regangArrived_regangs, List.mem_filter, bne_iff_ne] at hr
      exact State.mem_arrivals_others hr.1 hr.2
    refine ⟨_, exec_regang hi hy, others, fun single r hr => State.instance_unique (others r hr).1 (others r hr).2 single, fun x hx => ?_⟩
    have stood : x.passed c.nxt ((m :: ms).map (·.sid)) ∈ (regangArrived s c m ms timed).standing arrived := by
      rw [regangArrived_standing]
      exact List.mem_map_of_mem hx
    obtain ⟨h, hh, core, oct, ready, members⟩ :=
      State.closeRegang_forms (regangArrived s c m ms timed) (s.arrival c.pc m ((m :: ms).map (·.sid)) timed) stood
    rw [Slice.passed_core] at core members
    rw [Slice.passed_oct] at oct members
    refine ⟨h, left ▸ hh, core, oct, ready, members.trans ?_⟩
    exact (congrArg (inOctet · x.core x.oct) (regangArrived_standing arrived)).trans (inOctet_passed ..)

end Sys2Proof.Machine

namespace Sys2Proof.Machine
open Claims

/-! ## What bringing lines in leaves alone (R66, R254, R255, R261, R328)

A line that comes in changes the lines, their data and the counters of R328: a view of the machine that sees none of these is kept
(`State.fillLine_keeps`). `State.uncached` is the machine apart from them, from the TLBs and from physical memory. -/

/-- A context apart from what its counters have counted. -/
def Ctx.uncounted (x : Ctx) : Ctx := { x with pccnt := Vector.replicate 8 0#64, pcovf := 0#8 }

/-- The machine apart from its caches, the memory behind them, and the counters with their interrupts. -/
def State.uncached (s : State) : State :=
  { s with
    tlb := [], lines := [], cdata := [], hbm := [], sealed := [], ilines := [], out := [], ctxs := s.ctxs.map Ctx.uncounted }

theorem State.setCtx_uncached (s : State) (c : Fin 17) {x : Ctx} (h : x.uncounted = (s.ctx c).uncounted) :
    (s.setCtx c x).uncached = s.uncached := by
  have ctxs : (s.ctxs.set c x).map Ctx.uncounted = s.ctxs.map Ctx.uncounted := by
    rw [Vector.map_set, h]
    apply Vector.ext
    intro i hi
    rw [Vector.getElem_set]
    split
    · next e => subst e; simp [State.ctx, Vector.get]
    · rfl
  unfold State.uncached State.setCtx
  dsimp only
  rw [ctxs]

/-- What a context is apart from its counters lies beyond the caches. -/
theorem State.ctx_of_uncached {s t : State} (h : t.uncached = s.uncached) (c : Fin 17) : (t.ctx c).uncounted = (s.ctx c).uncounted := by
  have ctxs : t.ctxs.map Ctx.uncounted = s.ctxs.map Ctx.uncounted := (congrArg State.ctxs h :)
  have at_ (u : State) : (u.ctx c).uncounted = (u.ctxs.map Ctx.uncounted).get c := by simp [State.ctx, Vector.get]
  rw [at_, at_, ctxs]

theorem State.asidOf_of_uncached {s t : State} (h : t.uncached = s.uncached) (c : Fin 17) : t.asidOf c = s.asidOf c := by
  have : (t.ctx c).asid = (s.ctx c).asid := (congrArg Ctx.asid (State.ctx_of_uncached h c) :)
  rw [State.asidOf, State.asidOf, this]

section Keeps

variable {β : Type} {p : State → β}

/-! ### Counters -/

section Counters

variable (hc : ∀ (s : State) (c : Fin 17) (x : Ctx), x.uncounted = (s.ctx c).uncounted → p (s.setCtx c x) = p s)
  (ho : ∀ (s : State) m, p { s with out := m } = p s)
include hc ho

theorem State.addCount_keeps (s : State) (c : Fin 17) (k : Fin 8) (n : Nat) : p (s.addCount c k n) = p s := by
  unfold State.addCount
  dsimp only
  split
  · exact hc s c _ rfl
  · split
    · exact hc s c _ rfl
    · exact (ho _ _).trans (hc s c _ rfl)

theorem State.countEvent_keeps (s : State) (c : Fin 17) (dom : Option Nat) (ev : BitVec 8) (n : Nat) : p (s.countEvent c dom ev n) = p s := by
  unfold State.countEvent
  dsimp only
  split
  · rfl
  · exact foldl_keeps p _ (fun t k => State.addCount_keeps hc ho t c k n) _ s

theorem State.countOf_keeps (s : State) (asid : BitVec 16) (dom : Nat) (ev : BitVec 8) (n : Nat) : p (s.countOf asid dom ev n) = p s := by
  unfold State.countOf
  split
  · exact State.countEvent_keeps hc ho s _ _ ev n
  · rfl

theorem State.countL2_keeps (s : State) (via : List Cache) (asid : BitVec 16) : p (s.countL2 via asid) = p s := by
  unfold State.countL2
  cases viaL2 via with
  | none => rfl
  | some d => exact State.countOf_keeps hc ho s asid d 3#8 1

theorem State.countMisses_keeps (s : State) (via : List Cache) (asid : BitVec 16) (va : Nat) (at_ : Option Cache) :
    p (s.countMisses via asid va at_) = p s := by
  have count := State.countOf_keeps hc ho
  unfold State.countMisses
  split <;> dsimp only <;> split <;> simp only [count]

end Counters

/-! ### Lines -/

section Lines

variable (hl : ∀ (s : State) l, p { s with lines := l } = p s)
include hl

theorem State.makeRoom_keeps (s : State) (c : Cache) (asid : BitVec 16) (va : Nat) : p (s.makeRoom c asid va) = p s := by
  unfold State.makeRoom
  extract_lets dom ls
  split
  · rfl
  · split
    · exact hl s _
    · rfl

theorem State.hold_keeps (s : State) (tag : BitVec 16) (va : Nat) (bs : List LineBits) : p (s.hold tag va bs) = p s := by
  unfold State.hold
  refine foldl_keeps p _ (fun t b => ?_) bs s
  exact (hl (t.makeRoom b.cache tag va) _).trans (State.makeRoom_keeps hl t b.cache tag va)

variable (hc : ∀ (s : State) (c : Fin 17) (x : Ctx), x.uncounted = (s.ctx c).uncounted → p (s.setCtx c x) = p s)
  (ho : ∀ (s : State) m, p { s with out := m } = p s)
  (hd : ∀ (s : State) l d, p { s with lines := l, cdata := d } = p s)
include hc ho hd

theorem State.fillLine_keeps (s : State) (via : List Cache) (asid : BitVec 16) (va : Nat) : p (s.fillLine via asid va) = p s := by
  have miss := State.countMisses_keeps hc ho s via asid va
  unfold State.fillLine
  split
  · exact (State.hold_keeps hl _ _ _ _).trans (miss _)
  · split
    · rfl
    · dsimp only
      refine (State.hold_keeps hl _ _ _ _).trans ?_
      split
      · split
        · exact miss none
        · exact ((hd _ _ _).trans (hd _ _ _)).trans (miss none)
      · exact (hd _ _ _).trans (miss none)

theorem State.fillLanes_keeps (s : State) (t : Txn) (ls : List LaneAcc) : p (s.fillLanes t ls) = p s := by
  unfold State.fillLanes
  refine foldl_keeps p _ (fun x l => ?_) ls s
  dsimp only
  split
  · have line : p (State.fillLine (if x.inL1 (x.txnVia t l.off) (s.txnAsid t) l.off && t.kind.acc == .r then x
        else x.countL2 (x.txnVia t l.off) (s.txnAsid t)) (x.txnVia t l.off) (s.txnAsid t) l.off) = p x := by
      refine (State.fillLine_keeps hl hc ho hd _ _ _ _).trans ?_
      split
      · rfl
      · exact State.countL2_keeps hc ho x _ _
    split
    · unfold State.fillKept
      dsimp only
      split
      · exact line
      · exact (hd _ _ _).trans line
    · exact line
  · rfl

end Lines

end Keeps

/-! ### The machine apart from its caches -/

section Uncached

variable (s : State)

@[simp] theorem State.countL2_uncached (via : List Cache) (asid : BitVec 16) : (s.countL2 via asid).uncached = s.uncached :=
  State.countL2_keeps (fun s c _ h => s.setCtx_uncached c h) (fun _ _ => rfl) s via asid

@[simp] theorem State.fillLine_uncached (via : List Cache) (asid : BitVec 16) (va : Nat) : (s.fillLine via asid va).uncached = s.uncached :=
  State.fillLine_keeps (fun _ _ => rfl) (fun s c _ h => s.setCtx_uncached c h) (fun _ _ => rfl) (fun _ _ _ => rfl) s via asid va

@[simp] theorem State.fillLanes_uncached (t : Txn) (ls : List LaneAcc) : (s.fillLanes t ls).uncached = s.uncached :=
  State.fillLanes_keeps (fun _ _ => rfl) (fun s c _ h => s.setCtx_uncached c h) (fun _ _ => rfl) (fun _ _ _ => rfl) s t ls

/-- Bringing lines in reads physical memory and writes none. -/
@[simp] theorem State.fillLanes_hbm (t : Txn) (ls : List LaneAcc) : (s.fillLanes t ls).hbm = s.hbm :=
  State.fillLanes_keeps (p := State.hbm) (fun _ _ => rfl) (fun _ _ _ _ => rfl) (fun _ _ => rfl) (fun _ _ _ => rfl) s t ls

@[simp] theorem State.installLeaf_uncached (via : List Cache) (asid : BitVec 16) (va : Nat) (l : Leaf) :
    (s.installLeaf via asid va l).uncached = s.uncached := by
  unfold State.installLeaf
  dsimp only
  split <;> rfl

/-- An access that is granted brings in what it needs. -/
theorem State.tryGrant_uncached {s t : State} {via : List Cache} {asid : BitVec 16} {va : Nat} {a : Acc}
    (h : s.tryGrant via asid va a = some t) : t.uncached = s.uncached := by
  unfold State.tryGrant at h
  split at h
  · cases h; simp
  · split at h
    · cases h
    · split at h
      · split at h
        · cases h; simp
        · cases h
      · cases h
      · cases h

/-- A line of code that is read comes into the caches. -/
theorem State.codeLine_uncached {s t : State} {core : Nat} {asid : BitVec 16} {pc : DWord} {l : ILine}
    (h : s.codeLine core asid pc = .line l t) : t.uncached = s.uncached := by
  unfold State.codeLine at h
  split at h
  · dsimp only at h
    split at h
    · cases h; rfl
    · split at h
      · next hg =>
        split at h
        · cases h
        · cases h
          exact (State.tryGrant_uncached hg :)
      · split at h
        · cases h
        · split at h <;> cases h
  · cases h
  · cases h

@[simp] theorem State.targetRead_uncached (sl : Slice) (a : DWord) : (s.targetRead sl a).uncached = s.uncached := by
  unfold State.targetRead
  cases h : s.codeLine sl.core (s.sliceAsid sl) a with
  | line l t => exact State.codeLine_uncached h
  | held => rfl
  | fault g k => rfl

end Uncached

end Sys2Proof.Machine

namespace Sys2Proof.Machine
open Claims

/-! ## Completing with an effect -/

/-- What the issue of an instruction leaves is what it performed, with the latch empty, where no member is stepped. -/
theorem State.issue_left {s : State} {k : Issue} {hold : Cur → List Slice → State → Bool} {perform : Cur → List Slice → State → State}
    {c : Cur} {g : Gang} {ms : List Slice} (hi : Issuing s c g ms) (hc : ∀ m ∈ ms, k.clear c m)
    (hh : hold c (ms.filter k.kind.acts) s = false)
    (hv : ∀ m ∈ ms, (perform c (ms.filter k.kind.acts) (s.advance k c ms)).steps m.sid = false) :
    let v := perform c (ms.filter k.kind.acts) (s.advance k c ms)
    (s.issue k hold perform).slices = v.slices ∧ (s.issue k hold perform).beyond = v.beyond ∧ (s.issue k hold perform).cur = none ∧
      (c.yields = false → (s.issue k hold perform).gangs = v.gangs ∧ (s.issue k hold perform).nextId = v.nextId) := by
  intro v
  rw [State.issue_goes hi hc hh]
  exact ⟨State.afterIssue_slices hv, State.afterIssue_beyond hv, State.afterIssue_cur hv, State.afterIssue_gangs hv⟩

/-- An instruction that nothing holds and that changes the members in which it acts as its effect says completes with that effect. -/
theorem Completes.of_issue {i : Instr} {e : Effect} {rest : Rest} {s : State} {k : Issue} {hold : Cur → List Slice → State → Bool}
    {perform : Cur → List Slice → State → State} {F : Slice → Slice → Slice} {c : Cur} {g : Gang} {ms : List Slice} (hi : Issuing s c g ms)
    (hx : exec i s = .next (s.issue k hold perform)) (hacts : k.kind.acts = e.acts) (huses : k.srcs = e.uses)
    (hc : ∀ m ∈ ms, k.clear c m) (hh : hold c (ms.filter e.acts) s = false) (hF : ∀ m x, (F m x).sid = x.sid)
    (hp : (perform c (ms.filter e.acts) (s.advance k c ms)).slices =
      (ms.filter e.acts).foldl (fun l m => modList l m.sid (F m)) (s.advance k c ms).slices)
    (hn : ∀ m ∈ ms, e.acts m = true → F m (moved e c m) = e.next s c ms m (moved e c m) ∧ (F m (moved e c m)).stepping = false)
    (hidle : ∀ m sl, idle i ms m sl = sl)
    (hr : ∀ t : State, t.beyond = (perform c (ms.filter e.acts) (s.advance k c ms)).beyond → rest s c (ms.filter e.acts) t)
    (hg : (perform c (ms.filter e.acts) (s.advance k c ms)).gangs = s.gangs ∧
      (perform c (ms.filter e.acts) (s.advance k c ms)).nextId = s.nextId) : Completes i e rest s c ms := by
  have stays (m : Slice) : k.moved c m = moved e c m := by rw [Issue.moved, moved, hacts, huses]
  rw [← hacts] at hh hp hr hg
  obtain ⟨members, others⟩ := hi.slice?_performed hF hp
  have unstepped : ∀ m ∈ ms, (perform c (ms.filter k.kind.acts) (s.advance k c ms)).steps m.sid = false := fun m hm => by
    rw [State.steps, members m hm, stays, Option.map_some, Option.getD_some]
    split
    · next ha => exact (hn m hm (hacts ▸ ha)).2
    · rw [← stays, Issue.moved_stepping]
      exact hi.free m hm
  obtain ⟨slices, beyond, cur, gangs⟩ := State.issue_left hi hc hh unstepped
  have found (b : Nat) : (s.issue k hold perform).slice? b =
      (perform c (ms.filter k.kind.acts) (s.advance k c ms)).slice? b := by
    rw [State.slice?, slices]; rfl
  refine ⟨_, hx, fun m hm => ?_, fun b hb => (found b).trans (others b hb), hacts ▸ hr _ beyond, cur, fun hy => ?_⟩
  · rw [found, members m hm, stays, hacts]
    cases ha : e.acts m with
    | true => exact congrArg some (hn m hm ha).1
    | false => exact congrArg some (hidle ..).symm
  · exact ⟨(gangs hy).1.trans hg.1, (gangs hy).2.trans hg.2⟩

/-- A slice that reads no source has only moved on. -/
theorem moved_plain {e : Effect} {m : Slice} (h : e.uses m = []) (c : Cur) : moved e c m = { m with pc := c.nxt } := by
  unfold moved
  rw [h]
  split <;> rfl

end Sys2Proof.Machine

namespace Sys2Proof.Machine
open Claims

/-! ## What crews leave alone (R43, R193) -/

/-- Releasing the waiters of a word changes the gangs and those parked alone. -/
theorem State.releaseWaiters_field {β : Type} (p : State → β)
    (h : ∀ (s : State) g k n, p { s with gangs := g, parks := k, nextId := n } = p s) (s : State) (core a : Nat) :
    p (s.releaseWaiters core a) = p s := by
  unfold State.releaseWaiters
  refine (foldl_keeps p _ (fun t g => ?_) _ _).trans ?_
  · exact h t _ t.parks _
  · exact h s _ _ s.nextId

section Crew

variable {β : Type} (p : State → β)
  (h : ∀ (s : State) x g k c n, p { s with slices := x, gangs := g, parks := k, cores := c, nextId := n } = p s)
include h

theorem State.setBar_field (s : State) (core a : Nat) (w : Word) : p (s.setBar core a w) = p s := h s s.slices s.gangs s.parks _ s.nextId

theorem State.flipBar_field (s : State) (core a : Nat) : p (s.flipBar core a) = p s :=
  (State.releaseWaiters_field p (fun s g k n => h s s.slices g k s.cores n) _ core a).trans (State.setBar_field p h s core a _)

theorem State.setCrew_field (s : State) (core : Nat) (c : Fin 32) (e : Option CrewEntry) : p (s.setCrew core c e) = p s :=
  h s s.slices s.gangs s.parks _ s.nextId

/-- A member that leaves a crew changes the slices, the cores, the gangs and those parked alone. -/
theorem State.leaveCrew_field (s : State) (sl : Slice) (c : Fin 32) : p (s.leaveCrew sl c) = p s := by
  unfold State.leaveCrew
  split
  · rfl
  · extract_lets t u
    have ht : p t = p s := h s _ s.gangs s.parks s.cores s.nextId
    have hu : p u = p s := by
      unfold u
      split
      · exact ht
      · dsimp only
        split
        · exact (State.flipBar_field p h _ _ _).trans ((State.setBar_field p h _ _ _ _).trans ht)
        · exact (State.setBar_field p h _ _ _ _).trans ht
    split
    · exact (State.setCrew_field p h _ _ _ _).trans hu
    · exact hu

theorem State.leaveCrews_field (s : State) (sl : Slice) : p (s.leaveCrews sl) = p s := by
  unfold State.leaveCrews
  refine foldl_keeps p _ (fun t c => ?_) _ s
  split
  · exact State.leaveCrew_field p h t _ c
  · rfl

end Crew

end Sys2Proof.Machine

namespace Sys2Proof.Machine
open Claims

/-! ## EXIT (O20; R89, R170, R174) -/

/-! ### What a pop leaves -/

section Pop

variable {β : Type} (p : Slice → β)
  (h : ∀ (x : Slice) (sup stack : List StackEntry) (amask : BitVec 4) (mode : Word) (pc : DWord),
    p { x with sup := sup, stack := stack, amask := amask, mode := mode, pc := pc } = p x)
  (hr : ∀ (x : Slice) (pc : DWord), p (x.regionEntry pc) = p x)
include h hr

/-- A pop changes the stack, the mask, MODE, the PC and the region alone. -/
theorem Slice.pop_field (x : Slice) : p x.pop = p x := by
  unfold Slice.pop Slice.setSegment
  split
  · rfl
  · dsimp only
    split <;> split
    · exact (hr _ _).trans (h x _ _ _ _ _)
    · exact h x _ x.stack _ _ _
    · exact (hr _ _).trans (h x _ _ _ _ _)
    · exact h x x.sup _ _ _ _

theorem Slice.popAll_field (n : Nat) (x : Slice) : p (x.popAll n) = p x := by
  induction n generalizing x with
  | zero => rfl
  | succ n ih =>
    unfold Slice.popAll
    split
    · rfl
    · exact (ih _).trans (Slice.pop_field p h hr x)

end Pop

@[simp] theorem Slice.popAll_sid (n : Nat) (x : Slice) : (x.popAll n).sid = x.sid := Slice.popAll_field _ (fun _ _ _ _ _ _ => rfl) (fun _ _ => rfl) n x
@[simp] theorem Slice.popAll_core (n : Nat) (x : Slice) : (x.popAll n).core = x.core := Slice.popAll_field _ (fun _ _ _ _ _ _ => rfl) (fun _ _ => rfl) n x
@[simp] theorem Slice.popAll_wave (n : Nat) (x : Slice) : (x.popAll n).wave = x.wave := Slice.popAll_field _ (fun _ _ _ _ _ _ => rfl) (fun _ _ => rfl) n x
@[simp] theorem Slice.popAll_taken (n : Nat) (x : Slice) : (x.popAll n).taken = x.taken := Slice.popAll_field _ (fun _ _ _ _ _ _ => rfl) (fun _ _ => rfl) n x
@[simp] theorem Slice.popAll_stepping (n : Nat) (x : Slice) : (x.popAll n).stepping = x.stepping :=
  Slice.popAll_field _ (fun _ _ _ _ _ _ => rfl) (fun _ _ => rfl) n x

/-! ### What EXIT comes to -/

section Plan

variable {m : Slice} (nxt : DWord)

/-- A lane of the mask is left. -/
theorem Slice.exitPlan_goesOn (h : m.amask &&& ~~~m.active ≠ 0#4) :
    m.exitPlan nxt = .goesOn (region { exited m m with pc := nxt } nxt) := if_pos h

variable (h : m.amask &&& ~~~m.active = 0#4)
include h

/-- Without one, what the paths left on the stack come to. -/
theorem Slice.exitPlan_pops : m.exitPlan nxt =
    if ((exited m m).popAll 16).amask ≠ 0#4 then .popped ((exited m m).popAll 16)
    else if modeSup m.mode && ((exited m m).popAll 16).savedMask.extractLsb' 0 4 ≠ 0#4 then
      .returns ((exited m m).popAll 16) ((exited m m).popAll 16).causeLate
    else .ends := if_neg (not_not.mpr h)

/-- A path on the stack has a lane. -/
theorem Slice.exitPlan_popped (hp : ((exited m m).popAll 16).amask ≠ 0#4) :
    m.exitPlan nxt = .popped ((exited m m).popAll 16) := (Slice.exitPlan_pops nxt h).trans (if_pos hp)

variable (hp : ((exited m m).popAll 16).amask = 0#4)
include hp

/-- The handler's lanes are gone, and the trapped slice has some. -/
theorem Slice.exitPlan_returns (hs : modeSup m.mode = true) (hb : (((exited m m).popAll 16).bank.get 3).val.extractLsb' 0 4 ≠ 0#4) :
    m.exitPlan nxt = .returns ((exited m m).popAll 16) (m.taken.getLsbD 7) := by
  have late : ((exited m m).popAll 16).causeLate = m.taken.getLsbD 7 := congrArg (BitVec.getLsbD · 7) (Slice.popAll_taken 16 _)
  rw [Slice.exitPlan_pops nxt h, if_neg (not_not.mpr hp), hs, late]
  exact if_pos (decide_eq_true hb)

/-- No lane is left. -/
theorem Slice.exitPlan_ends (hs : modeSup m.mode = false ∨ (((exited m m).popAll 16).bank.get 3).val.extractLsb' 0 4 = 0#4) :
    m.exitPlan nxt = .ends := by
  rw [Slice.exitPlan_pops nxt h, if_neg (not_not.mpr hp)]
  refine if_neg ?_
  rcases hs with hs | hs
  · simp [hs]
  · simp [Slice.savedMask, hs]

end Plan

/-! ### A slice with a lane left -/

/-- The slice EXIT leaves where it has a lane left (R89, R170). -/
def exitNext (c : Cur) (m : Slice) : Slice :=
  if m.amask &&& ~~~m.active = 0#4 then (exited m m).popAll 16 else region { exited m m with pc := c.nxt } c.nxt

@[simp] theorem exitNext_sid (c : Cur) (m : Slice) : (exitNext c m).sid = m.sid := by
  unfold exitNext; split
  · exact Slice.popAll_sid 16 _
  · rfl

@[simp] theorem exitNext_stepping (c : Cur) (m : Slice) : (exitNext c m).stepping = m.stepping := by
  unfold exitNext; split
  · exact Slice.popAll_stepping 16 _
  · rfl

/-- A lane of the slice is left: of its mask or of a path on its stack. -/
def laneLeft (m : Slice) : Prop := m.amask &&& ~~~m.active ≠ 0#4 ∨ ((exited m m).popAll 16).amask ≠ 0#4

theorem exitPlan_left {m : Slice} (h : laneLeft m) (c : Cur) :
    m.exitPlan c.nxt = .goesOn (exitNext c m) ∨ m.exitPlan c.nxt = .popped (exitNext c m) := by
  unfold exitNext
  by_cases hm : m.amask &&& ~~~m.active = 0#4
  · rw [if_pos hm]
    exact .inr (Slice.exitPlan_popped c.nxt hm (h.resolve_left (not_not.mpr hm)))
  · rw [if_neg hm]
    exact .inl (Slice.exitPlan_goesOn c.nxt hm)

/-- Such a slice goes on. -/
theorem State.exitSlice_left {m : Slice} (h : laneLeft m) (s : State) (c : Cur) : s.exitSlice m c = s.putSlice (exitNext c m) := by
  unfold State.exitSlice
  rcases exitPlan_left h c with e | e <;> rw [e]

/-- Nothing traps or holds EXIT in it once its accesses are translated, where it has to wait for them. -/
theorem State.exitTrap_left {s : State} {m : Slice} (h : laneLeft m) {c : Cur} (hs : m.exitWaits c.nxt = true → still s m) :
    s.exitTrap m c = none := by
  have late : (m.exitWaits c.nxt && !(s.faultedTxns m.sid).isEmpty) = false := by
    cases hw : m.exitWaits c.nxt with
    | false => rfl
    | true => simp [(hs hw).2]
  unfold State.exitTrap
  rw [late]
  rcases exitPlan_left h c with e | e <;> rw [e] <;> rfl

/-- What holds EXIT in a slice. -/
def State.exitHeld (s : State) (c : Cur) (m : Slice) : Bool :=
  (m.exitWaits c.nxt && !s.resolved m.sid) ||
    (match m.exitPlan c.nxt with
     | .returns u region => s.targetHeld u (u.retTarget region)
     | _ => false)

theorem State.exitHeld_left {s : State} {m : Slice} (h : laneLeft m) {c : Cur} (hs : m.exitWaits c.nxt = true → still s m) :
    s.exitHeld c m = false := by
  have waits : (m.exitWaits c.nxt && !s.resolved m.sid) = false := by
    cases hw : m.exitWaits c.nxt with
    | false => rfl
    | true => simp [(hs hw).1]
  unfold State.exitHeld
  rw [waits]
  rcases exitPlan_left h c with e | e <;> rw [e] <;> rfl

/-- What issue knows of EXIT. -/
def exitIssue (s : State) : Issue := ⟨.guarded, false, fun _ => [], fun _ => [], noCheck, fun c sl => s.exitTrap sl c⟩

theorem exec_exit (s : State) : exec .exit s = .next (s.issue (exitIssue s) (fun c ms t => ms.any fun m => t.exitHeld c m)
    fun c ms t => ms.foldl (fun x m => x.exitSlice m c) t) := rfl

/-- Nothing holds EXIT in a member whose own check passes. -/
theorem exitIssue_clear {s : State} {c : Cur} {m : Slice} (h : guarded m = true → s.exitTrap m c = none) : (exitIssue s).clear c m :=
  Issue.clear_of_ready rfl rfl rfl (fun ha => ⟨rfl, h ha⟩) nofun

/-- Putting slices in the place of members changes each of them, once. -/
theorem State.putSlices_slices (F : Slice → Slice) (hF : ∀ m, (F m).sid = m.sid) (ms : List Slice) (s : State) :
    (s.putSlices (ms.map F)).slices = ms.foldl (fun l m => modList l m.sid fun x => { F m with sid := x.sid }) s.slices := by
  rw [State.putSlices, List.foldl_map]
  refine slices_foldl ms _ _ (fun t m => ?_) s
  rw [State.putSlice_slices, modList, hF]
  refine List.map_congr_left fun x _ => ?_
  split
  · next hx =>
    have e : x.sid = (F m).sid := (eq_of_beq hx).trans (hF m).symm
    rw [e]
  · rfl

/-- It changes nothing else. -/
theorem State.putSlices_field {β : Type} (p : State → β) (h : ∀ (s : State) x, p (s.putSlice x) = p s) (l : List Slice) (s : State) :
    p (s.putSlices l) = p s := foldl_keeps p State.putSlice h l s

/-- EXIT where every acting member has a lane left. -/
theorem exit_left : Table exitTable fun _ => Claims.quiet := by
  intro i e s c g ms hi' hi _ hr _
  cases i with
  | exit =>
    cases hi'
    have acting : ∀ m ∈ ms.filter guarded, laneLeft m ∧ (m.exitWaits c.nxt = true → still s m) := fun m hm =>
      (hr m (List.mem_of_mem_filter hm) (List.mem_filter.mp hm).2).2
    have performed (t : State) : (ms.filter guarded).foldl (fun x m => x.exitSlice m c) t =
        t.putSlices ((ms.filter guarded).map (exitNext c)) := by
      rw [State.putSlices, List.foldl_map]
      exact List.foldl_ext _ _ _ fun x m hm => State.exitSlice_left (acting m hm).1 x c
    refine Completes.of_issue (F := fun m x => { exitNext c m with sid := x.sid }) hi (exec_exit s) rfl rfl (fun m hm => ?_) ?_
      (fun _ _ => rfl) ?_ (fun m hm ha => ?_) (fun _ _ => rfl) (fun t ht => ?_) ?_
    · exact exitIssue_clear fun ha =>
        have ⟨left, hs⟩ := acting m (List.mem_filter.mpr ⟨hm, ha⟩)
        State.exitTrap_left left hs
    · refine List.any_eq_false.mpr fun m hm => ?_
      rw [State.exitHeld_left (acting m hm).1 (acting m hm).2]
      exact Bool.false_ne_true
    · exact (congrArg State.slices (performed _)).trans (State.putSlices_slices (exitNext c) (exitNext_sid c) _ _)
    · have sid : ({ exitNext c m with sid := m.sid } : Slice) = exitNext c m := by rw [← exitNext_sid c m]
      rw [moved_plain rfl]
      exact ⟨sid, (exitNext_stepping c m).trans (hi.free m hm)⟩
    · show t.beyond = s.beyond
      rw [ht, performed]
      exact (State.putSlices_field State.beyond (fun _ _ => rfl) _ _).trans (State.advance_beyond ..)
    · rw [performed]
      exact ⟨(State.putSlices_field State.gangs (fun _ _ => rfl) _ _).trans (State.advance_gangs ..),
        (State.putSlices_field State.nextId (fun _ _ => rfl) _ _).trans (State.advance_nextId ..)⟩
  | _ => cases hi'

end Sys2Proof.Machine

namespace Sys2Proof.Machine
open Claims

/-! ### The end of a slice (R89) -/

/-- A slice that is gone: it stands in no place and in no gang. -/
structure State.Gone (s : State) (a : Nat) : Prop where
  slices : ∀ x ∈ s.slices, x.sid ≠ a
  gangs : ∀ g ∈ s.gangs, a ∉ g.members

namespace State.Gone

variable {s t : State} {a : Nat}

theorem slice? (h : s.Gone a) : s.slice? a = none := List.find?_eq_none.mpr fun x hx e => h.slices x hx (eq_of_beq e)

/-- What keeps the slices and the gangs keeps it gone. -/
theorem of_same (h : s.Gone a) (slices : t.slices = s.slices) (gangs : t.gangs = s.gangs) : t.Gone a :=
  ⟨slices ▸ h.slices, gangs ▸ h.gangs⟩

/-- No slice that is gone stands in an octet. -/
theorem notMem_inOctet (h : s.Gone a) (arrived : List Nat) (core oct : Nat) : a ∉ inOctet (s.standing arrived) core oct := by
  have sub (x : Slice) (l : List Slice) : x ∈ bySlot l → x ∈ l := by
    have ins (x y : Slice) (l : List Slice) : x ∈ insertSlot y l → x = y ∨ x ∈ l := by
      induction l with
      | nil => simp [insertSlot]
      | cons z t ih =>
        unfold insertSlot
        split <;> grind
    induction l with
    | nil => exact id
    | cons y t ih => exact fun hx => (ins x y _ hx).elim (· ▸ .head _) fun hx => .tail _ (ih hx)
  intro ha
  obtain ⟨x, hx, e⟩ := List.mem_map.mp ha
  obtain ⟨b, -, hb⟩ := List.mem_filterMap.mp (List.mem_of_mem_filter (List.mem_of_mem_filter (sub x _ hx)))
  exact h.slices x (List.mem_of_find?_eq_some hb) e

/-- A REGANG instance that closes keeps it gone. -/
theorem closeRegang (h : s.Gone a) (i : RegangInst) : (s.closeRegang i).Gone a := by
  have forms (os : List (Nat × Nat)) (t : State) (ht : ∀ g ∈ t.gangs, a ∉ g.members) :
      ∀ g ∈ (os.foldl (State.formGang (s.standing i.arrived)) t).gangs, a ∉ g.members := by
    induction os generalizing t with
    | nil => exact ht
    | cons o os ih =>
      refine ih _ fun g hg => ?_
      rw [State.formGang_gangs] at hg
      rcases List.mem_append.mp hg with hg | hg
      · exact ht g hg
      · rw [List.mem_singleton.mp hg]
        exact h.notMem_inOctet i.arrived o.1 o.2
  refine ⟨State.closeRegang_slices s i ▸ h.slices, ?_⟩
  rw [State.closeRegang_eq]
  refine forms _ _ fun g hg => ?_
  obtain ⟨g', hg', rfl⟩ := List.mem_map.mp hg
  exact fun ha => h.gangs g' hg' (List.mem_of_mem_filter ha)

theorem closeRegangs (h : s.Gone a) : s.closeRegangs.Gone a := by
  unfold State.closeRegangs
  generalize s.regangs.filter s.regangFull = l
  induction l generalizing s with
  | nil => exact h
  | cons i t ih => exact ih (h.closeRegang i)

theorem freeShares (h : s.Gone a) (core : Nat) : (s.freeShares core).Gone a := by
  unfold State.freeShares; dsimp only; split
  · exact h
  · exact h.of_same rfl rfl

theorem flushPoint (h : s.Gone a) (core oct : Nat) : (s.flushPoint core oct).Gone a :=
  h.of_same (State.flushPoint_field State.slices (fun _ _ _ => rfl) ..) (State.flushPoint_gangs ..)

/-- Leaving it out of the slices and of every gang makes it so. -/
theorem of_filter (slices : t.slices = s.slices.filter fun x => x.sid != a) (gangs : t.gangs = s.gangs.map fun g => g.without a) :
    t.Gone a := by
  refine ⟨fun x hx => ?_, fun g hg => ?_⟩
  · rw [slices] at hx
    exact bne_iff_ne.mp (List.mem_filter.mp hx).2
  · rw [gangs] at hg
    obtain ⟨g', -, rfl⟩ := List.mem_map.mp hg
    exact fun ha => absurd rfl (bne_iff_ne.mp (List.mem_filter.mp ha).2)

end State.Gone

theorem State.freeShares_waves (s : State) (core : Nat) : (s.freeShares core).waves = s.waves := by
  unfold State.freeShares; dsimp only; split <;> rfl

theorem State.closeRegangs_waves (s : State) : s.closeRegangs.waves = s.waves :=
  foldl_keeps State.waves State.closeRegang (fun t i => State.closeRegang_field State.waves (fun _ _ _ => rfl) (fun _ _ _ => rfl) t i) _ s

theorem State.forgetSlot_waves (s : State) (x : Slice) : (s.forgetSlot x).waves = s.waves := by
  unfold State.forgetSlot; split <;> rfl

/-- A slice that ends is gone, and its wave has one slice less to finish. -/
theorem State.endSlice_gone {s : State} {a : Nat} {x : Slice} (hx : s.slice? a = some x) :
    (s.endSlice a).Gone a ∧
      (s.endSlice a).waves = s.waves.map fun w => if w.num == x.wave then { w with live := w.live - 1 } else w := by
  unfold State.endSlice
  rw [hx]
  dsimp -zeta only
  extract_lets left ended closed
  have waves : left.waves = s.waves :=
    ((State.forgetSlot_waves _ x).trans (State.releaseFaults_waves _ a)).trans (State.leaveCrews_field State.waves (fun _ _ _ _ _ _ => rfl) s x)
  have slices : ended.slices = left.slices.filter fun x => x.sid != a := rfl
  have gangs : ended.gangs = left.gangs.map fun g => g.without a := rfl
  have live : ended.waves = left.waves.map fun w => if w.num == x.wave then { w with live := w.live - 1 } else w := rfl
  have endedGone : ended.Gone a := .of_filter slices gangs
  have gone : closed.Gone a := endedGone.closeRegangs.freeShares x.core
  have less : closed.waves = s.waves.map fun w => if w.num == x.wave then { w with live := w.live - 1 } else w :=
    ((State.freeShares_waves ..).trans (State.closeRegangs_waves ended)).trans (live.trans (congrArg (List.map _) waves))
  split
  · exact ⟨gone.flushPoint .., (State.flushPoint_field State.waves (fun _ _ _ => rfl) ..).trans less⟩
  · exact ⟨gone, less⟩

/-- The wave of a number once its slices left are one less. -/
theorem find?_live (l : List Wave) (n : Word) :
    (l.map fun w => if w.num == n then { w with live := w.live - 1 } else w).find? (fun w => w.num == n) =
      (l.find? fun w => w.num == n).map fun w => { w with live := w.live - 1 } := by
  induction l with
  | nil => rfl
  | cons w t ih =>
    simp only [List.map_cons, List.find?_cons, ih]
    cases hw : w.num == n <;> simp [hw]

/-! ### What follows the end of a slice -/

/-- A stop for the debugger changes no identity. -/
theorem State.Gone.stopSlice {s : State} {a : Nat} (h : s.Gone a) (b : Nat) (case : BitVec 8) : (s.stopSlice b case).Gone a := by
  unfold State.stopSlice
  split
  · exact h
  · next sl _ =>
    refine ⟨fun x hx => ?_, ?_⟩
    · rw [State.modSlice_slices, State.flushSlice_slices] at hx
      obtain ⟨y, hy, rfl⟩ := List.mem_map.mp hx
      have sid : (y.debugStop case).sid = y.sid := by unfold Slice.debugStop; dsimp only; split <;> rfl
      split
      · exact sid ▸ h.slices y hy
      · exact h.slices y hy
    · rw [State.modSlice_gangs, State.flushSlice_gangs]
      exact h.gangs

theorem State.stopSlice_waves (s : State) (b : Nat) (case : BitVec 8) : (s.stopSlice b case).waves = s.waves := by
  unfold State.stopSlice
  split
  · rfl
  · rw [State.modSlice_waves, State.flushSlice_waves]

theorem State.Gone.wakeGang {s : State} {a : Nat} (h : s.Gone a) (gid : Nat) : (s.wakeGang gid).Gone a := by
  refine ⟨h.slices, fun g hg => ?_⟩
  obtain ⟨y, hy, rfl⟩ := List.mem_map.mp hg
  split
  · exact h.gangs y hy
  · exact h.gangs y hy

/-- The stops of stepped slices bring none back, and leave the waves. -/
theorem State.Gone.stopStepped {s : State} {a : Nat} (h : s.Gone a) (ms : List Slice) :
    (ms.foldl (fun t m => if t.steps m.sid then t.stopSlice m.sid 3#8 else t) s).Gone a ∧
      (ms.foldl (fun t m => if t.steps m.sid then t.stopSlice m.sid 3#8 else t) s).waves = s.waves := by
  induction ms generalizing s with
  | nil => exact ⟨h, rfl⟩
  | cons m ms ih =>
    rw [List.foldl_cons]
    split
    · obtain ⟨gone, waves⟩ := ih (h.stopSlice m.sid 3#8)
      exact ⟨gone, waves.trans (State.stopSlice_waves ..)⟩
    · exact ih h

/-- What follows an instruction brings no slice back, and leaves the waves. -/
theorem State.Gone.afterIssue {s : State} {a : Nat} (h : s.Gone a) (c : Cur) (ms : List Slice) :
    (s.afterIssue c ms).Gone a ∧ (s.afterIssue c ms).waves = s.waves := by
  unfold State.afterIssue
  extract_lets t u
  have ht : t.Gone a ∧ t.waves = s.waves := h.stopStepped ms
  have hu : u.Gone a ∧ u.waves = s.waves := by
    unfold u
    split
    · split
      · split
        · exact ⟨ht.1.wakeGang _, ht.2⟩
        · exact ht
      · exact ht
    · exact ht
  exact ⟨hu.1.of_same rfl rfl, hu.2⟩

/-! ### What a handler returns to (R174) -/

/-- A reachable target neither traps nor waits for a page. -/
theorem reachable_free {s : State} {m : Slice} {a : DWord} (h : reachable s m a) (c : Cur) :
    s.targetTrap m c a = none ∧ s.targetHeld m a = false := by
  obtain ⟨aligned, l, t, line, starts⟩ := h
  unfold State.targetTrap State.targetHeld
  simp [lowBits_eq_zero aligned, line, starts]

/-- The checks of a return pass where the saved state is returnable. -/
theorem retTrap_returnable {s : State} {u : Slice} {r : Bool} (h : returnable s u (u.retTarget r) (!r)) (c : Cur) :
    s.retTrap u c r = none ∧ s.targetHeld u (u.retTarget r) = false := by
  obtain ⟨sup, legal, mask, late, reach, -, faults⟩ := h
  obtain ⟨trap, held⟩ := reachable_free reach c
  have high : u.savedMask.extractLsb' 4 28 = 0#28 := by
    have : u.savedMask.toNat < 16 := mask
    apply BitVec.eq_of_toNat_eq
    simp [BitVec.extractLsb'_toNat, Nat.shiftRight_eq_div_pow]
    omega
  have fail : u.retFail r = none := by
    have legal : modeLegal u.savedMode = true := legal
    unfold Slice.retFail Slice.causeLate
    cases r
    · have early := late rfl
      simp_all
    · simp [sup, legal, high]
  refine ⟨?_, held⟩
  unfold State.retTrap
  simp [fail, trap, faults]

/-- What a return leaves of a slice (R173). -/
theorem Slice.ret_eq (u : Slice) : u.ret true = region { u with
      stack := u.stack.drop (u.stack.length - u.rgnDepth), amask := u.rgnMask &&& (u.bank.get 3).val.setWidth 4
      mode := userMode u, pc := u.rgnpc } u.rgnpc ∧
    u.ret false = region { u with amask := (u.bank.get 3).val.setWidth 4, mode := userMode u, pc := u.tpc } u.tpc := by
  have low : u.savedMask.extractLsb' 0 4 = (u.bank.get 3).val.setWidth 4 := by
    simp [Slice.savedMask, BitVec.setWidth_eq_extractLsb']
  unfold Slice.ret
  rw [low]
  exact ⟨rfl, rfl⟩

@[simp] theorem Slice.ret_sid (u : Slice) (r : Bool) : (u.ret r).sid = u.sid := by cases r <;> rfl
@[simp] theorem Slice.ret_stepping (u : Slice) (r : Bool) : (u.ret r).stepping = u.stepping := by cases r <;> rfl

/-- The slices a return from a handler leaves. -/
theorem State.retSlice_slices (s : State) (u : Slice) (r : Bool) :
    ((s.putSlice u).retSlice u r).slices = modList s.slices u.sid fun x => { u with sid := x.sid }.ret r := by
  have read : ((s.putSlice u).targetRead u (u.retTarget r)).slices = (s.putSlice u).slices :=
    (congrArg State.slices (State.targetRead_uncached (s.putSlice u) u (u.retTarget r)) :)
  rw [State.retSlice, State.modSlice_slices, State.releaseFaults_slices, read, State.putSlice_slices, modList, modList, List.map_map]
  refine List.map_congr_left fun x _ => ?_
  by_cases hx : x.sid = u.sid <;> simp [hx]

section Last

variable {s : State} {c : Cur} {g : Gang} {ms : List Slice} {m : Slice} (hi : Issuing s c g ms) (act : ms.filter guarded = [m])
include hi act

/-- EXIT of a gang of which one member acts, and nothing traps or holds it. -/
theorem exit_one (trap : s.exitTrap m c = none) (held : s.exitHeld c m = false)
 :
    exec .exit s = .next (((s.advance (exitIssue s) c ms).exitSlice m c).afterIssue c ms) := by
  have acting : ms.filter (exitIssue s).kind.acts = [m] := act
  rw [exec_exit, State.issue_goes hi, acting]
  · rfl
  · refine fun x hx => exitIssue_clear fun ha => ?_
    have : x ∈ [m] := act ▸ List.mem_filter.mpr ⟨hx, ha⟩
    rw [List.mem_singleton.mp this]
    exact trap
  · rw [acting]
    exact (Bool.or_false _).trans held

/-- Such an EXIT that ends the slice. -/
theorem exit_ends (hs : still s m) (plan : m.exitPlan c.nxt = .ends) : ∃ t, exec .exit s = .next t ∧ t.Gone m.sid ∧
    t.waves = s.waves.map fun w => if w.num == m.wave then { w with live := w.live - 1 } else w := by
  have trap : s.exitTrap m c = none := by unfold State.exitTrap; simp [hs.2, plan]
  have held : s.exitHeld c m = false := by unfold State.exitHeld; simp [hs.1, plan]
  have hm : m ∈ ms := List.mem_of_mem_filter (act ▸ List.mem_singleton_self m)
  obtain ⟨gone, waves⟩ := State.endSlice_gone (hi.moved (exitIssue s) hm)
  have left := gone.afterIssue c ms
  refine ⟨_, exit_one hi act trap held, ?_⟩
  have ends : (s.advance (exitIssue s) c ms).exitSlice m c = (s.advance (exitIssue s) c ms).endSlice m.sid := by
    unfold State.exitSlice; rw [plan]
  have wave : ((exitIssue s).moved c m).wave = m.wave := by
    unfold Issue.moved; split <;> rfl
  rw [ends]
  refine ⟨left.1, left.2.trans (waves.trans ?_)⟩
  rw [wave, State.advance_waves]

/-- Such an EXIT that returns from the handler. -/
theorem exit_returns (hs : still s m) {u : Slice} {r : Bool} (plan : m.exitPlan c.nxt = .returns u r) (sid : u.sid = m.sid)
    (stepping : u.stepping = m.stepping) (back : returnable s u (u.retTarget r) (!r)) :
    ∃ t, exec .exit s = .next t ∧ t.slice? m.sid = some (u.ret r) := by
  obtain ⟨retTrap, held⟩ := retTrap_returnable back c
  have trap : s.exitTrap m c = none := by unfold State.exitTrap; simp [hs.2, plan, retTrap]
  have held : s.exitHeld c m = false := by unfold State.exitHeld; simp [hs.1, plan, held]
  have hm : m ∈ ms := List.mem_of_mem_filter (act ▸ List.mem_singleton_self m)
  have performed : ((s.advance (exitIssue s) c ms).exitSlice m c).slices =
      (ms.filter (exitIssue s).kind.acts).foldl (fun l x => modList l x.sid fun y => { u with sid := y.sid }.ret r)
        (s.advance (exitIssue s) c ms).slices := by
    have acting : ms.filter (exitIssue s).kind.acts = [m] := act
    rw [acting, List.foldl_cons, List.foldl_nil, ← sid]
    unfold State.exitSlice
    rw [plan]
    exact State.retSlice_slices ..
  obtain ⟨members, -⟩ := hi.slice?_performed (fun m x => Slice.ret_sid { u with sid := x.sid } r) performed
  have guards : (exitIssue s).kind.acts m = true := (List.mem_filter.mp (act ▸ List.mem_singleton_self m : m ∈ ms.filter guarded)).2
  have unstepped : ∀ x ∈ ms, ((s.advance (exitIssue s) c ms).exitSlice m c).steps x.sid = false := fun x hx => by
    rw [State.steps, members x hx, Option.map_some, Option.getD_some]
    split
    · rw [Slice.ret_stepping]
      exact stepping.trans (hi.free m hm)
    · exact (Issue.moved_stepping ..).trans (hi.free x hx)
  refine ⟨_, exit_one hi act trap held, ?_⟩
  rw [State.slice?, State.afterIssue_slices unstepped]
  refine (members m hm).trans ?_
  rw [if_pos guards, Issue.moved_sid, ← sid]

end Last

/-- Settles O20: an EXIT that leaves a lane (`exit_left`), ends the slice (`exit_ends`) or returns from the handler (`exit_returns`). -/
theorem exit : Obligations.Exit := by
  refine ⟨exit_left, ?_⟩
  intro s c g ms m hi act hs mask path u
  refine ⟨fun last => ?_, fun sup saved early back => ?_, fun sup saved late back => ?_⟩
  · obtain ⟨t, ht, gone, waves⟩ := exit_ends hi act hs (Slice.exitPlan_ends c.nxt mask path last)
    refine ⟨t, ht, gone.slice?, gone.gangs, fun w hw => ?_⟩
    have hw : (s.waves.find? fun x => x.num == m.wave) = some w := hw
    rw [State.wave?, waves, find?_live, hw]
    rfl
  · have plan := Slice.exitPlan_returns c.nxt mask path sup saved
    rw [early] at plan
    rw [← (Slice.ret_eq u).2]
    exact exit_returns hi act hs plan (Slice.popAll_sid 16 _) (Slice.popAll_stepping 16 _) back
  · have plan := Slice.exitPlan_returns c.nxt mask path sup saved
    rw [late] at plan
    rw [← (Slice.ret_eq u).1]
    exact exit_returns hi act hs plan (Slice.popAll_sid 16 _) (Slice.popAll_stepping 16 _) back

end Sys2Proof.Machine

namespace Sys2Proof.Machine
open Claims

/-! ## Crews and their barrier words (O16; R43, R189, R193) -/

/-! ### A core's record -/

section Core

variable (s : State) (k : Nat) (r : CoreRec)

/-- The record of a core after one core's is replaced. -/
theorem State.core_setCore (j : Nat) : (s.setCore k r).core j = if j = k ∧ k < 192 then r else s.core j := by
  unfold State.core State.setCore
  simp only [Vector.toList_setIfInBounds, List.getD_eq_getElem?_getD, List.getElem?_set, Vector.length_toList]
  by_cases hj : k = j
  · subst hj
    by_cases hk : k < 192
    · simp [hk]
    · simp [hk]
  · simp [hj, Ne.symm hj]

variable {k} in
theorem State.core_setCore_same (hk : k < 192) : (s.setCore k r).core k = r := by
  rw [State.core_setCore, if_pos ⟨rfl, hk⟩]

/-- The last record put in a core's place stands. -/
theorem State.setCore_setCore (r' : CoreRec) : (s.setCore k r).setCore k r' = s.setCore k r' := by
  unfold State.setCore
  simp

variable {k} in
/-- Beyond the cores no core has a record of its own. -/
theorem State.core_of_le (hk : 192 ≤ k) : s.core k = CoreRec.reset := by
  unfold State.core
  simp [List.getD_eq_getElem?_getD, hk]

/-- A core's own record changes nothing. -/
theorem State.setCore_core : s.setCore k (s.core k) = s := by
  have : s.cores.setIfInBounds k (s.core k) = s.cores := by
    apply Vector.ext
    intro i hi
    rw [Vector.getElem_setIfInBounds]
    split
    · next e =>
      subst e
      simp [State.core, List.getD_eq_getElem?_getD, hi]
    · rfl
  unfold State.setCore
  rw [this]

/-- A core's record is one of the records. -/
theorem State.core_congr {s t : State} (h : t.cores = s.cores) (k : Nat) : t.core k = s.core k := by
  unfold State.core; rw [h]

/-- What a core's new record leaves beyond the slices depends on what stood there. -/
theorem State.setCore_beyond {s t : State} (h : t.beyond = s.beyond) (k : Nat) (r : CoreRec) :
    (t.setCore k r).beyond = (s.setCore k r).beyond := by
  have keeps (u : State) : (u.setCore k r).beyond = { u.beyond with cores := u.cores.setIfInBounds k r } := rfl
  have cores : t.cores = s.cores := (congrArg State.cores h :)
  rw [keeps, keeps, h, cores]

end Core

theorem State.setCore_of_le (s : State) {k : Nat} (hk : 192 ≤ k) (r : CoreRec) : s.setCore k r = s := by
  unfold State.setCore
  rw [Vector.setIfInBounds_eq_of_size_le hk]

/-! ### Barrier words -/

section Word

variable (x : Word) (p : Bool) (n e : Nat)

/-- A bit of a barrier word made of its parts. -/
theorem getLsbD_barMake (i : Nat) : (barMake x p n e).getLsbD i =
    if i < 12 then (BitVec.ofNat 12 e).getLsbD i
    else if i < 24 then (BitVec.ofNat 12 n).getLsbD (i - 12)
    else if i < 25 then p
    else x.getLsbD i := by
  refine (BitVec.getLsbD_append (x := x.extractLsb' 25 7 ++ BitVec.ofBool p ++ BitVec.ofNat 12 n) (y := BitVec.ofNat 12 e)).trans ?_
  rw [BitVec.getLsbD_append, BitVec.getLsbD_append, BitVec.getLsbD_ofBool, BitVec.getLsbD_extractLsb']
  have top : 32 ≤ i → x.getLsbD i = false := BitVec.getLsbD_of_ge x i
  have index : 25 ≤ i → 25 + (i - 12 - 12 - 1) = i := by omega
  grind

@[simp] theorem barPhase_barMake : barPhase (barMake x p n e) = p := getLsbD_barMake x p n e 24

theorem barArr_barMake : barArr (barMake x p n e) = n % 4096 := by
  have : (barMake x p n e).extractLsb' 12 12 = BitVec.ofNat 12 n := BitVec.eq_of_getLsbD_eq fun i hi => by
    rw [BitVec.getLsbD_extractLsb', getLsbD_barMake, if_neg (by omega), if_pos (by omega), decide_eq_true hi, Nat.add_sub_cancel_left,
      Bool.true_and]
  exact (congrArg BitVec.toNat this).trans (BitVec.toNat_ofNat ..)

theorem barExp_barMake : barExp (barMake x p n e) = e % 4096 := by
  have : (barMake x p n e).extractLsb' 0 12 = BitVec.ofNat 12 e := BitVec.eq_of_getLsbD_eq fun i hi => by
    rw [BitVec.getLsbD_extractLsb', getLsbD_barMake, Nat.zero_add, if_pos hi, decide_eq_true hi, Bool.true_and]
  exact (congrArg BitVec.toNat this).trans (BitVec.toNat_ofNat ..)

/-- The reserved bits stay whatever is written last. -/
@[simp] theorem barMake_barMake (q : Bool) (n' e' : Nat) : barMake (barMake x p n e) q n' e' = barMake x q n' e' :=
  BitVec.eq_of_getLsbD_eq fun i _ => by
    rw [getLsbD_barMake, getLsbD_barMake, getLsbD_barMake]
    grind

theorem barArr_lt : barArr x < 4096 := (x.extractLsb' 12 12).isLt
theorem barExp_lt : barExp x < 4096 := (x.extractLsb' 0 12).isLt

/-- A word is made of its parts. -/
theorem barMake_self : barMake x (barPhase x) (barArr x) (barExp x) = x :=
  BitVec.eq_of_getLsbD_eq fun i _ => by
    rw [getLsbD_barMake, barExp, barArr, barPhase, BitVec.ofNat_toNat, BitVec.ofNat_toNat, BitVec.setWidth_eq, BitVec.setWidth_eq,
      BitVec.getLsbD_extractLsb', BitVec.getLsbD_extractLsb']
    grind

end Word

/-! ### A barrier word in its scratchpad -/

section Bar

variable {s : State} {k a : Nat}

/-- Writing a word changes the scratchpad of its core. -/
theorem State.core_setBar (hk : k < 192) (w : Word) :
    (s.setBar k a w).core k = { s.core k with spad := writeBytes (s.core k).spad a (toBytes 4 w.toNat) } :=
  State.core_setCore_same s _ hk

/-- The word written is read back. -/
theorem State.barWord_setBar (hs : s.MemWf) (hk : k < 192) (w : Word) : (s.setBar k a w).barWord k a = w := by
  have back := readBytes_writeBytes hs.core.spad a (toBytes 4 w.toNat) (m := (s.core k).spad)
  rw [toBytes_length] at back
  unfold State.barWord readLE
  rw [State.core_setBar hk]
  dsimp only
  rw [back, ofBytes_toBytes]
  exact BitVec.eq_of_toNat_eq (by simpa using w.isLt)

/-- The last word written stands. -/
theorem State.setBar_setBar (hs : s.MemWf) (hk : k < 192) (w w' : Word) : (s.setBar k a w).setBar k a w' = s.setBar k a w' := by
  have wf := hs.core (k := k).spad
  have one : writeBytes (writeBytes (s.core k).spad a (toBytes 4 w.toNat)) a (toBytes 4 w'.toNat) =
      writeBytes (s.core k).spad a (toBytes 4 w'.toNat) := by
    refine Mem.ext_of_memRead (writeBytes_wf (writeBytes_wf wf _ _) _ _) (writeBytes_wf wf _ _) fun b => ?_
    by_cases hb : b < a ∨ a + 4 ≤ b
    · rw [memRead_writeBytes_outside (writeBytes_wf wf _ _), memRead_writeBytes_outside wf, memRead_writeBytes_outside wf]
      all_goals simpa using hb
    · obtain ⟨i, rfl⟩ : ∃ i, b = a + i := ⟨b - a, by omega⟩
      have hi : i < (toBytes 4 w'.toNat).length := by simp; omega
      rw [memRead_writeBytes_inside (writeBytes_wf wf _ _) _ _ hi, memRead_writeBytes_inside wf _ _ hi]
  rw [State.setBar, State.writeSpad, State.core_setBar hk, one]
  exact State.setCore_setCore ..

end Bar

/-! ### Crews -/

section Join

variable {a : Fin 32}

/-- What the JOIN of n new members leaves of their crew's entry and word. -/
def State.joined (s : State) (k : Nat) (wave : Word) (a : Fin 32) (n : Nat) : State :=
  match s.crew k a with
  | none => s.setCrew k a (some ⟨wave, none, 0⟩)
  | some e => match s.crewWord k e with
    | none => s
    | some w =>
      s.setBar k w (barMake (s.barWord k w) (barPhase (s.barWord k w)) (barArr (s.barWord k w)) (min (barExp (s.barWord k w) + n) 4095))

section Joined

variable {s : State} {k : Nat} (wave : Word) (n : Nat)

theorem State.joined_free (h : s.crew k a = none) : s.joined k wave a n = s.setCrew k a (some ⟨wave, none, 0⟩) := by
  unfold State.joined; rw [h]

variable {e : CrewEntry} (h : s.crew k a = some e)
include h

theorem State.joined_unbound (hw : s.crewWord k e = none) : s.joined k wave a n = s := by
  unfold State.joined; rw [h]; dsimp only; rw [hw]

theorem State.joined_bound {w : Nat} (hw : s.crewWord k e = some w) : s.joined k wave a n =
    s.setBar k w (barMake (s.barWord k w) (barPhase (s.barWord k w)) (barArr (s.barWord k w)) (min (barExp (s.barWord k w) + n) 4095)) := by
  unfold State.joined; rw [h]; dsimp only; rw [hw]

end Joined

/-- JOIN in the slice of a member. -/
def joinSlice (a : Fin 32) (m x : Slice) : Slice :=
  if m.crews.getLsbD a.val then x else { x with crews := x.crews ||| (1#32 <<< a.val) }

theorem State.joinCrew_member {s : State} {m : Slice} (h : m.crews.getLsbD a.val = true) : s.joinCrew m a = s := if_pos h

theorem State.joinCrew_new {s : State} {m : Slice} (h : ¬ m.crews.getLsbD a.val = true) :
    s.joinCrew m a = (s.modSlice m.sid (joinSlice a m)).joined m.core m.wave a 1 := by
  have change : joinSlice a m = fun x => { x with crews := x.crews ||| (1#32 <<< a.val) } := funext fun x => if_neg h
  rw [change]
  exact if_neg h

/-- The entry and the word alone change. -/
theorem State.joined_field {β : Type} (p : State → β) (h : ∀ (s : State) c, p { s with cores := c } = p s) (s : State) (k : Nat)
    (wave : Word) (n : Nat) : p (s.joined k wave a n) = p s := by
  unfold State.joined
  split
  · exact h s _
  · split
    · rfl
    · exact h s _

theorem State.joinCrew_slices (s : State) (m : Slice) : (s.joinCrew m a).slices = modList s.slices m.sid (joinSlice a m) := by
  by_cases h : m.crews.getLsbD a.val = true
  · have : joinSlice a m = id := funext fun x => if_pos h
    rw [State.joinCrew_member h, this, modList]
    simp
  · rw [State.joinCrew_new h]
    exact State.joined_field State.slices (fun _ _ => rfl) _ _ _ _

theorem State.joinCrew_field {β : Type} (p : State → β) (h : ∀ (s : State) c, p { s with cores := c } = p s)
    (hs : ∀ (s : State) x, p { s with slices := x } = p s) (s : State) (m : Slice) : p (s.joinCrew m a) = p s := by
  by_cases hm : m.crews.getLsbD a.val = true
  · rw [State.joinCrew_member hm]
  · rw [State.joinCrew_new hm]
    exact (State.joined_field p h _ _ _ _).trans (hs s _)

/-- What a word's write leaves of its core's crews and shares. -/
theorem State.setBar_core (s : State) (k w : Nat) (x : Word) :
    ((s.setBar k w x).core k).crews = (s.core k).crews ∧ ((s.setBar k w x).core k).shares = (s.core k).shares := by
  rw [State.setBar, State.writeSpad, State.core_setCore]
  split <;> exact ⟨rfl, rfl⟩

/-- A crew's entry and its word's address lie in the core's crews and shares. -/
theorem State.crew_congr {s t : State} {k : Nat} (h : (t.core k).crews = (s.core k).crews) : t.crew k a = s.crew k a :=
  congrArg (·.get a) h

theorem State.crewWord_congr {s t : State} {k : Nat} (h : (t.core k).shares = (s.core k).shares) : t.crewWord k = s.crewWord k := by
  funext e
  unfold State.crewWord
  rw [h]

/-- A core beyond the last has no crew. -/
theorem State.crew_of_le {s : State} {k : Nat} (hk : 192 ≤ k) : s.crew k a = none := by
  unfold State.crew
  rw [State.core_of_le s hk]
  simp [CoreRec.reset]

/-- New members of a crew that is bound to a word, once one has joined (R193): each counts one more. -/
theorem State.joinCrews_word {k : Nat} {e : CrewEntry} {w : Nat} (hk : k < 192) (l : List Slice)
    (hl : ∀ m ∈ l, m.core = k ∧ ¬ m.crews.getLsbD a.val = true) {s : State} (hs : s.MemWf) (hc : s.crew k a = some e)
    (hw : s.crewWord k e = some w) (x : Word) :
    (l.foldl (fun t m => t.joinCrew m a) (s.setBar k w x)).beyond =
      (s.setBar k w (barMake x (barPhase x) (barArr x) (min (barExp x + l.length) 4095))).beyond := by
  induction l generalizing s x with
  | nil =>
    have : min (barExp x + 0) 4095 = barExp x := by have := barExp_lt x; omega
    rw [List.foldl_nil, List.length_nil, this, barMake_self]
  | cons m l ih =>
    obtain ⟨core, new⟩ := hl m (.head _)
    let u := s.modSlice m.sid (joinSlice a m)
    obtain ⟨crews, shares⟩ := State.setBar_core s k w x
    have crew : ((s.setBar k w x).modSlice m.sid (joinSlice a m)).crew k a = some e := (State.crew_congr crews).trans hc
    have word : ((s.setBar k w x).modSlice m.sid (joinSlice a m)).crewWord k e = some w :=
      (congrFun (State.crewWord_congr shares) e).trans hw
    have back : ((s.setBar k w x).modSlice m.sid (joinSlice a m)).barWord k w = x := State.barWord_setBar hs hk x
    have one : (s.setBar k w x).joinCrew m a =
        u.setBar k w (barMake x (barPhase x) (barArr x) (min (barExp x + 1) 4095)) := by
      rw [State.joinCrew_new new, core, State.joined_bound _ _ crew word, back]
      exact State.setBar_setBar (s := u) (hs.modSlice) hk x _
    have count : min (min (barExp x + 1) 4095 % 4096 + l.length) 4095 = min (barExp x + (m :: l).length) 4095 := by
      simp only [List.length_cons]; omega
    have arr : barArr x % 4096 = barArr x := Nat.mod_eq_of_lt (barArr_lt x)
    rw [List.foldl_cons, one, ih (fun x hx => hl x (.tail _ hx)) hs.modSlice hc hw, barPhase_barMake, barArr_barMake, barExp_barMake,
      barMake_barMake, count, arr]
    rfl

/-- New members of a crew without a word to count them: nothing is written. -/
theorem State.joinCrews_unbound {k : Nat} {e : CrewEntry} (l : List Slice)
    (hl : ∀ m ∈ l, m.core = k ∧ ¬ m.crews.getLsbD a.val = true) {s : State} (hc : s.crew k a = some e) (hw : s.crewWord k e = none) :
    (l.foldl (fun t m => t.joinCrew m a) s).beyond = s.beyond := by
  induction l generalizing s with
  | nil => rfl
  | cons m l ih =>
    obtain ⟨core, new⟩ := hl m (.head _)
    have crew : (s.modSlice m.sid (joinSlice a m)).crew k a = some e := hc
    have word : (s.modSlice m.sid (joinSlice a m)).crewWord k e = none := hw
    have one : s.joinCrew m a = s.modSlice m.sid (joinSlice a m) := by
      rw [State.joinCrew_new new, core, State.joined_unbound _ _ crew word]
    rw [List.foldl_cons, one, ih (fun x hx => hl x (.tail _ hx)) crew word]
    rfl

/-- Nothing is written for a core beyond the last. -/
theorem State.joinCrews_of_le {k : Nat} (hk : 192 ≤ k) (l : List Slice) (hl : ∀ m ∈ l, m.core = k) (s : State) :
    (l.foldl (fun t m => t.joinCrew m a) s).beyond = s.beyond := by
  induction l generalizing s with
  | nil => rfl
  | cons m l ih =>
    rw [List.foldl_cons, ih (fun x hx => hl x (.tail _ hx))]
    by_cases new : m.crews.getLsbD a.val = true
    · rw [State.joinCrew_member new]
    · rw [State.joinCrew_new new, State.joined_free _ _ (State.crew_of_le (hl m (.head _) ▸ hk))]
      exact (congrArg State.beyond (State.setCore_of_le (s.modSlice m.sid (joinSlice a m)) (hl m (.head _) ▸ hk) _)).trans rfl

/-- What the JOIN of new members leaves beyond the slices. -/
theorem State.joinCrews_beyond {m : Slice} {more : List Slice} {s : State} (hs : s.MemWf)
    (hl : ∀ x ∈ m :: more, x.core = m.core ∧ ¬ x.crews.getLsbD a.val = true) :
    ((m :: more).foldl (fun t x => t.joinCrew x a) s).beyond = (s.joined m.core m.wave a (m :: more).length).beyond := by
  have rest : ∀ x ∈ more, x.core = m.core ∧ ¬ x.crews.getLsbD a.val = true := fun x hx => hl x (.tail _ hx)
  let u := s.modSlice m.sid (joinSlice a m)
  have one : s.joinCrew m a = u.joined m.core m.wave a 1 := State.joinCrew_new (hl m (.head _)).2
  by_cases hk : m.core < 192
  · cases hc : s.crew m.core a with
    | none =>
      have own := State.core_setCore_same u { u.core m.core with crews := (u.core m.core).crews.set a (some ⟨m.wave, none, 0⟩) } hk
      have crew : (u.setCrew m.core a (some ⟨m.wave, none, 0⟩)).crew m.core a = some ⟨m.wave, none, 0⟩ :=
        (congrArg (fun r : CoreRec => r.crews.get a) own).trans (Vector.getElem_set_self ..)
      rw [List.foldl_cons, one, State.joined_free _ _ (s := u) hc, State.joined_free _ _ hc, State.joinCrews_unbound more rest crew rfl]
      rfl
    | some e =>
      cases hw : s.crewWord m.core e with
      | none =>
        rw [State.joined_unbound _ _ hc hw]
        exact State.joinCrews_unbound (m :: more) hl hc hw
      | some w =>
        have count : min (min (barExp (s.barWord m.core w) + 1) 4095 % 4096 + more.length) 4095 =
            min (barExp (s.barWord m.core w) + (m :: more).length) 4095 := by
          simp only [List.length_cons]; omega
        have arr : barArr (s.barWord m.core w) % 4096 = barArr (s.barWord m.core w) := Nat.mod_eq_of_lt (barArr_lt _)
        rw [List.foldl_cons, one, State.joined_bound _ _ (s := u) hc hw, State.joinCrews_word hk more rest (s := u) hs.modSlice hc hw,
          barPhase_barMake, barArr_barMake, barExp_barMake, barMake_barMake, State.joined_bound _ _ hc hw, ← count,
          show u.barWord m.core w = s.barWord m.core w from rfl, arr]
        rfl
  · have hk : 192 ≤ m.core := Nat.le_of_not_lt hk
    rw [State.joinCrews_of_le hk _ (fun x hx => (hl x hx).1), State.joined_free _ _ (State.crew_of_le hk)]
    exact congrArg State.beyond (State.setCore_of_le _ hk _).symm

/-- What it leaves beyond the slices depends on what stood there. -/
theorem State.joined_beyond {s t : State} (h : t.beyond = s.beyond) (k : Nat) (wave : Word) (n : Nat) :
    (t.joined k wave a n).beyond = (s.joined k wave a n).beyond := by
  have core : t.core k = s.core k := State.core_congr (congrArg State.cores h :) k
  cases hc : s.crew k a with
  | none =>
    rw [State.joined_free _ _ hc, State.joined_free _ _ ((State.crew_congr (congrArg _ core)).trans hc), State.setCrew, State.setCrew, core]
    exact State.setCore_beyond h k _
  | some e =>
    have hc' : t.crew k a = some e := (State.crew_congr (congrArg _ core)).trans hc
    have word : t.crewWord k e = s.crewWord k e := congrFun (State.crewWord_congr (congrArg _ core)) e
    cases hw : s.crewWord k e with
    | none => rw [State.joined_unbound _ _ hc hw, State.joined_unbound _ _ hc' (word.trans hw), h]
    | some w =>
      rw [State.joined_bound _ _ hc hw, State.joined_bound _ _ hc' (word.trans hw), State.barWord, State.barWord, core, State.setBar,
        State.setBar, State.writeSpad, State.writeSpad, core]
      exact State.setCore_beyond h k _

end Join

/-- What issue knows of JOIN. -/
def joinIssue (a : Fin 32) (s : State) : Issue := ⟨.guarded, false, fun _ => [], fun _ => [], noCheck, fun c sl =>
  match s.crew sl.core a with
  | some e => if e.wave = sl.wave then none else some (trapPrivilege sl c 3#8 (BitVec.ofNat 8 a.val))
  | none => none⟩

/-- The members of a gang stand in one core. -/
theorem Issuing.core {s : State} {c : Cur} {g : Gang} {ms : List Slice} (hi : Issuing s c g ms) {m : Slice} (hm : m ∈ ms) :
    m.core = g.core := by
  rw [← hi.members] at hm
  have := (List.mem_filter.mp hm).2
  simp only [Bool.and_eq_true, beq_iff_eq] at this
  exact this.2

/-- JOIN completes as its table says. -/
theorem join_completes {a : Fin 32} {s : State} {c : Cur} {g : Gang} {ms : List Slice} {e : Effect} (hi : Issuing s c g ms)
    (he : crewTable (.join a) = some e) (need : ∀ m ∈ ms, e.acts m = true → e.need s c m) :
    Completes (.join a) e (crewRest (.join a)) s c ms := by
  cases he
  refine Completes.of_issue (k := joinIssue a s) (F := joinSlice a) hi rfl rfl rfl (fun m hm => ?_) rfl (fun m x => ?_)
    (slices_foldl _ _ _ (fun t m => State.joinCrew_slices t m) _) (fun m hm ha => ?_) (fun _ _ => rfl) (fun t ht => ?_) ⟨?_, ?_⟩
  · refine Issue.clear_of_ready rfl rfl rfl (fun ha => ⟨rfl, ?_⟩) nofun
    have := (need m hm ha).2
    show (match s.crew m.core a with | some e => _ | none => none) = none
    split
    · next e he => exact if_pos (this e he)
    · rfl
  · unfold joinSlice; split <;> rfl
  · rw [moved_plain rfl]
    unfold joinSlice
    split
    · next h =>
      have bit : m.crews ||| (1#32 <<< a.val) = m.crews := BitVec.eq_of_getLsbD_eq fun i hi => by
        by_cases e : i = a.val
        · subst e; simp [h]
        · simp; omega
      exact ⟨congrArg (fun b => ({ m with pc := c.nxt, crews := b } : Slice)) bit.symm, hi.free m hm⟩
    · exact ⟨rfl, hi.free m hm⟩
  · have acting : ∀ m ∈ ms.filter guarded, m.core = g.core := fun m hm => hi.core (List.mem_of_mem_filter hm)
    have new (u : State) : (ms.filter guarded).foldl (fun t m => t.joinCrew m a) u =
        ((ms.filter guarded).filter fun m => !m.crews.getLsbD a.val).foldl (fun t m => t.joinCrew m a) u := by
      rw [List.foldl_filter (l := ms.filter guarded)]
      refine List.foldl_ext _ _ _ fun t m _ => ?_
      split
      · rfl
      · next h => exact State.joinCrew_member (by simpa using h)
    have beyond : t.beyond = (((ms.filter guarded).filter fun m => !m.crews.getLsbD a.val).foldl (fun t m => t.joinCrew m a)
      (s.advance (joinIssue a s) c ms)).beyond := ht.trans (congrArg State.beyond (new _))
    show match (ms.filter guarded).filter fun m => !m.crews.getLsbD a.val with | [] => _ | m :: more => _
    cases hl : (ms.filter guarded).filter fun m => !m.crews.getLsbD a.val with
    | nil =>
      rw [hl] at beyond
      exact beyond.trans (State.advance_beyond ..)
    | cons m more =>
      have joins : ∀ x ∈ m :: more, x.core = m.core ∧ ¬ x.crews.getLsbD a.val = true := fun x hx => by
        have hm : m ∈ m :: more := .head _
        rw [← hl] at hx hm
        exact ⟨(acting x (List.mem_of_mem_filter hx)).trans (acting m (List.mem_of_mem_filter hm)).symm, by
          simpa using (List.mem_filter.mp hx).2⟩
      have hm := List.mem_filter.mp (List.mem_of_mem_filter (hl ▸ List.mem_cons_self : m ∈ (ms.filter guarded).filter _))
      have wf : (s.advance (joinIssue a s) c ms).MemWf :=
        (State.memWf_iff.mp (need m hm.1 hm.2).1).frame (congrArg State.mems (State.advance_beyond s (joinIssue a s) c ms) :)
      rw [hl, State.joinCrews_beyond wf joins, State.joined_beyond (State.advance_beyond ..)] at beyond
      dsimp only
      split
      · next hc => rw [beyond, State.joined_free _ _ hc]
      · next e hc =>
        split
        · next hw => rw [beyond, State.joined_unbound _ _ hc hw]
        · next w hw => rw [beyond, State.joined_bound _ _ hc hw]
  · exact (foldl_keeps State.gangs _ (fun t m => State.joinCrew_field State.gangs (fun _ _ => rfl) (fun _ _ => rfl) t m) _ _).trans
      (State.advance_gangs ..)
  · exact (foldl_keeps State.nextId _ (fun t m => State.joinCrew_field State.nextId (fun _ _ => rfl) (fun _ _ => rfl) t m) _ _).trans
      (State.advance_nextId ..)

/-! ### LEAVE -/

section Leave

variable {a : Fin 32}

/-- A slice out of a crew. -/
def Slice.outOf (a : Fin 32) (x : Slice) : Slice := { x with crews := x.crews &&& ~~~(1#32 <<< a.val) }

/-- LEAVE in the slice of a member. -/
def leaveSlice (a : Fin 32) (m x : Slice) : Slice := if m.crews.getLsbD a.val then x.outOf a else x

/-- The entry of a crew without members is free. -/
def State.freeCrew (s : State) (k : Nat) (a : Fin 32) : State := if s.crewCount k a = 0 then s.setCrew k a none else s

/-- A crew's word once a member has left (R193). -/
def leftWord (x : Word) : Word :=
  if barArr x ≠ 0 ∧ barExp x - 1 ≤ barArr x then barMake x (!barPhase x) 0 (barExp x - 1) else barMake x (barPhase x) (barArr x) (barExp x - 1)

/-- A word expects one less, and its phase may complete. -/
def State.leaveWord (s : State) (k w : Nat) : State :=
  if barArr (s.barWord k w) ≠ 0 ∧ barExp (s.barWord k w) - 1 ≤ barArr (s.barWord k w) then
    (s.setBar k w (barMake (s.barWord k w) (barPhase (s.barWord k w)) (barArr (s.barWord k w)) (barExp (s.barWord k w) - 1))).flipBar k w
  else s.setBar k w (barMake (s.barWord k w) (barPhase (s.barWord k w)) (barArr (s.barWord k w)) (barExp (s.barWord k w) - 1))

section

variable {s : State} {m : Slice}

theorem State.leaveCrew_other (h : ¬ m.crews.getLsbD a.val = true) : s.leaveCrew m a = s := if_pos (by simpa using h)

theorem leaveSlice_member (h : m.crews.getLsbD a.val = true) :
    leaveSlice a m = Slice.outOf a := funext fun _ => if_pos h

variable (h : m.crews.getLsbD a.val = true)
include h

theorem State.leaveCrew_unbound (hw : (s.crew m.core a).bind (s.crewWord m.core) = none) :
    s.leaveCrew m a = (s.modSlice m.sid (leaveSlice a m)).freeCrew m.core a := by
  have word : ((s.modSlice m.sid (leaveSlice a m)).crew m.core a).bind ((s.modSlice m.sid (leaveSlice a m)).crewWord m.core) = none := hw
  rw [leaveSlice_member h] at word ⊢
  unfold Slice.outOf at word ⊢
  unfold State.leaveCrew
  rw [if_neg (by simpa using h)]
  dsimp only
  rw [word]
  rfl

theorem State.leaveCrew_bound {w : Nat} (hw : (s.crew m.core a).bind (s.crewWord m.core) = some w) :
    s.leaveCrew m a = ((s.modSlice m.sid (leaveSlice a m)).leaveWord m.core w).freeCrew m.core a := by
  have word : ((s.modSlice m.sid (leaveSlice a m)).crew m.core a).bind ((s.modSlice m.sid (leaveSlice a m)).crewWord m.core) = some w := hw
  rw [leaveSlice_member h] at word ⊢
  unfold Slice.outOf at word ⊢
  unfold State.leaveCrew
  rw [if_neg (by simpa using h)]
  dsimp only
  rw [word]
  rfl

end

/-- The cores once a word expects one less. -/
theorem State.leaveWord_cores {s : State} {k : Nat} (hs : s.MemWf) (hk : k < 192) (w : Nat) :
    (s.leaveWord k w).cores = (s.setBar k w (leftWord (s.barWord k w))).cores := by
  unfold State.leaveWord leftWord
  split
  · have exp : (barExp (s.barWord k w) - 1) % 4096 = barExp (s.barWord k w) - 1 := Nat.mod_eq_of_lt (by have := barExp_lt (s.barWord k w); omega)
    rw [State.flipBar, State.releaseWaiters_field State.cores (fun _ _ _ _ => rfl), State.barWord_setBar hs hk, State.setBar_setBar hs hk,
      barMake_barMake, barPhase_barMake, barExp_barMake, exp]
  · rfl

theorem State.leaveWord_slices (s : State) (k w : Nat) : (s.leaveWord k w).slices = s.slices := by
  unfold State.leaveWord
  split
  · exact State.releaseWaiters_field State.slices (fun _ _ _ _ => rfl) _ _ _
  · rfl

theorem State.freeCrew_field {β : Type} (p : State → β) (h : ∀ (s : State) c, p { s with cores := c } = p s) (s : State) (k : Nat) :
    p (s.freeCrew k a) = p s := by
  unfold State.freeCrew; split
  · exact h s _
  · rfl

/-- LEAVE takes the member's slice out of the crew. -/
theorem State.leaveCrew_slices (s : State) (m : Slice) : (s.leaveCrew m a).slices = modList s.slices m.sid (leaveSlice a m) := by
  by_cases h : m.crews.getLsbD a.val = true
  · cases hw : (s.crew m.core a).bind (s.crewWord m.core) with
    | none =>
      rw [State.leaveCrew_unbound h hw]
      exact State.freeCrew_field State.slices (fun _ _ => rfl) _ _
    | some w =>
      rw [State.leaveCrew_bound h hw]
      exact (State.freeCrew_field State.slices (fun _ _ => rfl) _ _).trans (State.leaveWord_slices ..)
  · have : leaveSlice a m = id := funext fun x => if_neg h
    rw [State.leaveCrew_other h, this, modList]
    simp

/-- A crew has no member where no slice of the core has its bit. -/
theorem State.crewCount_eq_zero (s : State) (k : Nat) :
    s.crewCount k a = 0 ↔ ∀ x ∈ s.slices, (x.core == k && x.crews.getLsbD a.val) = false := by
  rw [State.crewCount, List.length_eq_zero_iff, List.filter_eq_nil_iff]
  simp only [Bool.not_eq_true]

/-- What the LEAVE of members of a crew without a word has left, k their core: nothing, or the entry is free. -/
structure LeftTo (t₀ : State) (k : Nat) (a : Fin 32) (t : State) : Prop where
  gangs : t.gangs = t₀.gangs
  nextId : t.nextId = t₀.nextId
  beyond : t.beyond = t₀.beyond ∨ t.crewCount k a = 0 ∧ t.beyond = (t₀.setCrew k a none).beyond

/-- The entry is free exactly if no member is left. -/
def Freed (t₀ : State) (k : Nat) (a : Fin 32) (t : State) : Prop :=
  t.beyond = (if t.crewCount k a = 0 then t₀.setCrew k a none else t₀).beyond

section

variable {t₀ t : State} {k : Nat}

theorem Freed.leftTo (h : Freed t₀ k a t) (gangs : t.gangs = t₀.gangs) (nextId : t.nextId = t₀.nextId) : LeftTo t₀ k a t := by
  refine ⟨gangs, nextId, ?_⟩
  unfold Freed at h
  split at h
  · exact .inr ⟨‹_›, h⟩
  · exact .inl h

/-- An entry depends on what stood there. -/
theorem State.setCrew_beyond {s t : State} (h : t.beyond = s.beyond) (k : Nat) (e : Option CrewEntry) :
    (t.setCrew k a e).beyond = (s.setCrew k a e).beyond := by
  rw [State.setCrew, State.setCrew, State.core_congr (s := s) (t := t) (congrArg State.cores h :) k]
  exact State.setCore_beyond h k _

/-- The last entry written stands. -/
theorem State.setCrew_setCrew (s : State) (k : Nat) (e e' : Option CrewEntry) : (s.setCrew k a e).setCrew k a e' = s.setCrew k a e' := by
  by_cases hk : k < 192
  · rw [State.setCrew, State.setCrew, State.core_setCore_same _ _ hk, State.setCore_setCore]
    simp [State.setCrew]
  · rw [State.setCrew, State.setCrew, State.setCrew]
    simp only [State.setCore_of_le _ (Nat.le_of_not_lt hk)]

/-- The entry of a freed crew. -/
theorem State.crew_setCrew (s : State) (k : Nat) (e : Option CrewEntry) :
    (s.setCrew k a e).crew k a = if k < 192 then e else none := by
  split
  · next hk => exact (congrArg (fun r : CoreRec => r.crews.get a) (State.core_setCore_same s _ hk)).trans (Vector.getElem_set_self ..)
  · next hk => exact State.crew_of_le (Nat.le_of_not_lt hk)

/-- A crew's entry and its word lie beyond the slices. -/
theorem State.crewBind_congr {s t : State} (h : t.beyond = s.beyond) (k : Nat) :
    (t.crew k a).bind (t.crewWord k) = (s.crew k a).bind (s.crewWord k) := by
  have core : t.core k = s.core k := State.core_congr (congrArg State.cores h :) k
  rw [State.crew_congr (congrArg _ core), State.crewWord_congr (congrArg _ core)]

theorem LeftTo.unbound (h : LeftTo t₀ k a t) (hw : (t₀.crew k a).bind (t₀.crewWord k) = none) :
    (t.crew k a).bind (t.crewWord k) = none := by
  rcases h.beyond with h | ⟨-, h⟩
  · rw [State.crewBind_congr h, hw]
  · rw [State.crewBind_congr h, State.crew_setCrew]
    split <;> rfl

/-- One more member leaves. -/
theorem LeftTo.leave (h : LeftTo t₀ k a t) (hw : (t₀.crew k a).bind (t₀.crewWord k) = none) {m : Slice} (hm : m.core = k)
    (member : m.crews.getLsbD a.val = true) :
    Freed t₀ k a (t.leaveCrew m a) ∧ (t.leaveCrew m a).gangs = t₀.gangs ∧ (t.leaveCrew m a).nextId = t₀.nextId := by
  subst hm
  rw [State.leaveCrew_unbound member (h.unbound hw)]
  refine ⟨?_, (State.freeCrew_field State.gangs (fun _ _ => rfl) _ _).trans h.gangs,
    (State.freeCrew_field State.nextId (fun _ _ => rfl) _ _).trans h.nextId⟩
  have counted : ((t.modSlice m.sid (leaveSlice a m)).freeCrew m.core a).crewCount m.core a =
      (t.modSlice m.sid (leaveSlice a m)).crewCount m.core a := by
    rw [State.crewCount, State.freeCrew_field State.slices fun _ _ => rfl]; rfl
  unfold Freed
  rw [counted]
  unfold State.freeCrew
  rcases h.beyond with same | ⟨zero, freed⟩
  · split
    · exact State.setCrew_beyond (t := t.modSlice m.sid (leaveSlice a m)) same _ _
    · exact same
  · have still : (t.modSlice m.sid (leaveSlice a m)).crewCount m.core a = 0 := by
      rw [State.crewCount_eq_zero] at zero ⊢
      intro x hx
      rw [State.modSlice_slices, leaveSlice_member member] at hx
      obtain ⟨y, hy, rfl⟩ := List.mem_map.mp hx
      have := zero y hy
      split
      · simp only [Slice.outOf, BitVec.getLsbD_and, Bool.and_eq_false_iff] at this ⊢
        tauto
      · exact this
    rw [if_pos still, if_pos still]
    exact (State.setCrew_beyond (t := t.modSlice m.sid (leaveSlice a m)) freed _ _).trans
      (congrArg State.beyond (State.setCrew_setCrew t₀ m.core none none))

/-- Members of one core that leave a crew without a word. -/
theorem leaveCrews_unbound (hw : (t₀.crew k a).bind (t₀.crewWord k) = none) (l : List Slice)
    (hl : ∀ m ∈ l, m.core = k ∧ m.crews.getLsbD a.val = true) (h : LeftTo t₀ k a t) :
    LeftTo t₀ k a (l.foldl (fun t m => t.leaveCrew m a) t) ∧
      (l ≠ [] → Freed t₀ k a (l.foldl (fun t m => t.leaveCrew m a) t)) := by
  induction l generalizing t with
  | nil => exact ⟨h, fun n => absurd rfl n⟩
  | cons m l ih =>
    obtain ⟨freed, gangs, nextId⟩ := h.leave hw (hl m (.head _)).1 (hl m (.head _)).2
    obtain ⟨left, last⟩ := ih (fun x hx => hl x (.tail _ hx)) (freed.leftTo gangs nextId)
    refine ⟨left, fun _ => ?_⟩
    cases l with
    | nil => exact freed
    | cons x l => exact last nofun

end

end Leave

/-- An instruction that reads no source moves its members on alike. -/
theorem State.advance_unread (s : State) {k : Issue} (h : k.srcs = fun _ => []) (c : Cur) (ms : List Slice) :
    s.advance k c ms = s.advance Issue.plain c ms := by
  unfold State.advance
  refine List.foldl_ext _ _ _ fun t m _ => ?_
  have none (t : State) : t.readTokens m.sid [] = t := by
    unfold State.readTokens; simp
  simp only [h, none, Issue.plain, Slice.clearMarks, List.foldl_nil, ite_self]
  rfl

/-- Slices changed alike, those of the identities named. -/
theorem foldl_modList_map {f : Slice → Slice} (hf : ∀ x, (f x).sid = x.sid) (hi : ∀ x, f (f x) = f x) (l : List Slice) (ls : List Slice) :
    (l.foldl (fun ls m => modList ls m.sid f) ls) = ls.map fun x => if x.sid ∈ l.map (·.sid) then f x else x := by
  induction l generalizing ls with
  | nil => simp
  | cons m t ih =>
    rw [List.foldl_cons, ih, modList, List.map_map]
    refine List.map_congr_left fun x _ => ?_
    by_cases hx : x.sid = m.sid <;> by_cases ht : m.sid ∈ t.map (·.sid) <;> simp_all

/-- What issue knows of LEAVE. -/
def leaveIssue : Issue := Issue.regs (fun _ => []) fun _ => []

section

variable {a : Fin 32} {s : State} {c : Cur} {g : Gang} {ms : List Slice}

theorem leaveIssue_clear {m : Slice} : leaveIssue.clear c m := Issue.clear_of_ready rfl rfl rfl (fun _ => ⟨rfl, rfl⟩) nofun

/-- The crew's members on a core once some slices have left. -/
theorem crewCount_left (l : List Slice) (hl : ∀ m ∈ l, m.crews.getLsbD a.val = true) (k : Nat) {t : State}
    (ht : t.slices = l.foldl (fun ls m => modList ls m.sid (leaveSlice a m)) (s.advance leaveIssue c ms).slices) :
    t.crewCount k a = 0 ↔
      (s.slices.all fun x => !(x.core == k && x.crews.getLsbD a.val) || (l.map (·.sid)).contains x.sid) = true := by
  have same : l.foldl (fun ls m => modList ls m.sid (leaveSlice a m)) (s.advance leaveIssue c ms).slices =
      l.foldl (fun ls m => modList ls m.sid (Slice.outOf a)) (s.advance leaveIssue c ms).slices :=
    List.foldl_ext _ _ _ fun ls m hm => by rw [leaveSlice_member (hl m hm)]
  rw [same, foldl_modList_map (f := Slice.outOf a) (fun _ => rfl) (fun x => by simp [Slice.outOf, BitVec.and_assoc]), State.advance_unread s rfl,
    State.advance_plain_slices, List.map_map] at ht
  rw [State.crewCount_eq_zero, ht, List.forall_mem_map, List.all_eq_true]
  have crews (x : Slice) : (x.passed c.nxt (ms.map (·.sid))).crews = x.crews := Slice.passed_field _ _ x (·.crews) fun _ _ => rfl
  refine forall₂_congr fun x _ => ?_
  rw [Function.comp, Slice.passed_sid]
  by_cases hx : x.sid ∈ l.map (·.sid)
  · simp [hx, Slice.outOf]
  · simp [hx, crews, imp_iff_not_or]

variable (hi : Issuing s c g ms)
include hi

/-- LEAVE of a crew without a word completes as its table says. -/
theorem leave_completes {e : Effect} (he : crewTable (.leave a) = some e) (need : ∀ m ∈ ms, e.acts m = true → e.need s c m) :
    Completes (.leave a) e (crewRest (.leave a)) s c ms := by
  cases he
  let t₀ := s.advance leaveIssue c ms
  have needs : ∀ m ∈ ms.filter guarded, (s.crew m.core a).bind (s.crewWord m.core) = none := fun m hm =>
    need m (List.mem_of_mem_filter hm) (List.mem_filter.mp hm).2
  have members (u : State) : (ms.filter guarded).foldl (fun t m => t.leaveCrew m a) u =
      ((ms.filter guarded).filter fun m => m.crews.getLsbD a.val).foldl (fun t m => t.leaveCrew m a) u := by
    rw [List.foldl_filter (l := ms.filter guarded)]
    refine List.foldl_ext _ _ _ fun t m _ => ?_
    split
    · rfl
    · next h => exact State.leaveCrew_other h
  have left (m : Slice) (hm : m ∈ (ms.filter guarded).filter fun m => m.crews.getLsbD a.val) :=
    leaveCrews_unbound (t₀ := t₀) (k := m.core) ((State.crewBind_congr (State.advance_beyond ..) m.core).trans
      (needs m (List.mem_of_mem_filter hm))) ((ms.filter guarded).filter fun m => m.crews.getLsbD a.val)
      (fun x hx => ⟨(hi.core (List.mem_of_mem_filter (List.mem_of_mem_filter hx))).trans
        (hi.core (List.mem_of_mem_filter (List.mem_of_mem_filter hm))).symm, (List.mem_filter.mp hx).2⟩)
      (t := t₀) ⟨rfl, rfl, .inl rfl⟩
  have slices : ((ms.filter guarded).foldl (fun t m => t.leaveCrew m a) t₀).slices = _ :=
    slices_foldl _ _ _ (fun t m => State.leaveCrew_slices t m) t₀
  have quiet : ((ms.filter guarded).foldl (fun t m => t.leaveCrew m a) t₀).gangs = s.gangs ∧
      ((ms.filter guarded).foldl (fun t m => t.leaveCrew m a) t₀).nextId = s.nextId := by
    rw [members]
    cases hl : (ms.filter guarded).filter fun m => m.crews.getLsbD a.val with
    | nil => exact ⟨State.advance_gangs .., State.advance_nextId ..⟩
    | cons m more =>
      have h := (left m (hl ▸ List.mem_cons_self)).1
      rw [hl] at h
      exact ⟨h.gangs.trans (State.advance_gangs ..), h.nextId.trans (State.advance_nextId ..)⟩
  refine Completes.of_issue (k := leaveIssue) (F := leaveSlice a) hi rfl rfl rfl (fun m hm => leaveIssue_clear) rfl (fun m x => ?_)
    slices (fun m hm ha => ?_) (fun _ _ => rfl) (fun t ht => ?_) quiet
  · unfold leaveSlice; split <;> rfl
  · rw [moved_plain rfl]
    unfold leaveSlice
    split
    · exact ⟨rfl, hi.free m hm⟩
    · next h =>
      have bit : m.crews &&& ~~~(1#32 <<< a.val) = m.crews := BitVec.eq_of_getLsbD_eq fun i hi => by
        by_cases e : i = a.val
        · subst e; simpa using h
        · simp [hi]; omega
      exact ⟨congrArg (fun b => ({ m with pc := c.nxt, crews := b } : Slice)) bit.symm, hi.free m hm⟩
  · have beyond : t.beyond = _ := ht.trans (congrArg State.beyond (members t₀))
    show match (ms.filter guarded).filter fun m => m.crews.getLsbD a.val with | [] => _ | m :: more => _
    cases hl : (ms.filter guarded).filter fun m => m.crews.getLsbD a.val with
    | nil =>
      rw [hl] at beyond
      exact beyond.trans (State.advance_beyond ..)
    | cons m more =>
      have freed := (left m (hl ▸ List.mem_cons_self)).2 (by rw [hl]; nofun)
      rw [hl] at beyond freed
      unfold Freed at freed
      have count := crewCount_left (s := s) (c := c) (ms := ms) (m :: more) (fun x hx => by rw [← hl] at hx; exact (List.mem_filter.mp hx).2)
        m.core (slices_foldl (m :: more) _ _ (fun t m => State.leaveCrew_slices t m) t₀)
      dsimp only
      rw [beyond, freed]
      rw [if_congr count rfl rfl]
      split
      · exact State.setCrew_beyond (State.advance_beyond ..) _ _
      · exact State.advance_beyond ..

/-- LEAVE of a crew with a word, by the one member that acts. -/
theorem leave_bound {m : Slice} {e : CrewEntry} {w : Nat} (act : ms.filter guarded = [m]) (member : m.crews.getLsbD a.val = true)
    (hc : s.crew m.core a = some e) (hw : s.crewWord m.core e = some w) (hk : m.core < 192) (hs : s.MemWf) :
    ∃ t, exec (.leave a) s = .next t ∧
      (t.slice? m.sid).map (·.crews) = some (m.crews &&& ~~~(1#32 <<< a.val)) ∧
      t.barWord m.core w = leftWord (s.barWord m.core w) ∧ scratchKept s t [(m.core, w)] ∧
      t.crew m.core a = (if s.slices.all fun y => !(y.core == m.core && y.crews.getLsbD a.val) || y.sid == m.sid then none else some e) := by
  let t₀ := s.advance leaveIssue c ms
  have cores : t₀.cores = s.cores := State.advance_cores ..
  have core (k : Nat) : t₀.core k = s.core k := State.core_congr cores k
  have wf : t₀.MemWf := hs.frame (congrArg State.mems (State.advance_beyond s leaveIssue c ms) :)
  have bound : (t₀.crew m.core a).bind (t₀.crewWord m.core) = some w := by
    rw [State.crewBind_congr (State.advance_beyond ..), hc]; exact hw
  have hm : m ∈ ms := List.mem_of_mem_filter (act ▸ List.mem_singleton_self m)
  have guards : leaveIssue.kind.acts m = true := (List.mem_filter.mp (act ▸ List.mem_singleton_self m : m ∈ ms.filter guarded)).2
  have acting : ms.filter leaveIssue.kind.acts = [m] := act
  let perform : Cur → List Slice → State → State := fun _ ms t => ms.foldl (fun t m => t.leaveCrew m a) t
  have performed : perform c (ms.filter leaveIssue.kind.acts) t₀ = t₀.leaveCrew m a := by rw [acting]; rfl
  have slices : (perform c (ms.filter leaveIssue.kind.acts) t₀).slices = _ :=
    slices_foldl _ _ _ (fun t m => State.leaveCrew_slices t m) t₀
  have sids (m x : Slice) : (leaveSlice a m x).sid = x.sid := by unfold leaveSlice; split <;> rfl
  have steps (m x : Slice) : (leaveSlice a m x).stepping = x.stepping := by unfold leaveSlice; split <;> rfl
  obtain ⟨left, beyond, -, -⟩ := State.issue_left (k := leaveIssue) (hold := noHold) (perform := perform) hi (fun m _ => leaveIssue_clear) rfl
    (hi.unstepped sids steps slices)
  rw [performed] at left beyond
  have word : t₀.barWord m.core w = s.barWord m.core w := by unfold State.barWord; rw [core]
  -- The record of the core: the word written, and the crew's entry.
  let u := t₀.modSlice m.sid (leaveSlice a m)
  have written : ∀ k, (u.leaveWord m.core w).core k = (u.setBar m.core w (leftWord (s.barWord m.core w))).core k := fun k => by
    rw [← word]
    exact State.core_congr (State.leaveWord_cores (s := u) wf.modSlice hk w) k
  have final (k : Nat) : (s.issue leaveIssue noHold perform).core k = ((u.leaveWord m.core w).freeCrew m.core a).core k := by
    rw [← State.leaveCrew_bound member bound]
    exact State.core_congr (congrArg State.cores beyond :) k
  have spad (k : Nat) : ((s.issue leaveIssue noHold perform).core k).spad = ((u.setBar m.core w (leftWord (s.barWord m.core w))).core k).spad := by
    rw [final, ← written, State.freeCrew]
    split
    · rw [State.setCrew, State.core_setCore]
      split
      · next h => rw [h.1]
      · rfl
    · rfl
  refine ⟨_, rfl, ?_, ?_, fun k b hb => ?_, ?_⟩
  · have found := (hi.slice?_performed sids slices).1 m hm
    rw [performed] at found
    show ((s.issue leaveIssue noHold perform).slice? m.sid).map (·.crews) = _
    have crews : (leaveIssue.moved c m).crews = m.crews := by unfold Issue.moved; split <;> rfl
    rw [State.slice?, left, ← State.slice?, found, if_pos guards, leaveSlice_member member, ← crews]
    rfl
  · show State.barWord (s.issue leaveIssue noHold perform) m.core w = _
    rw [State.barWord, spad]
    exact State.barWord_setBar (s := u) wf.modSlice hk _
  · show memRead ((s.issue leaveIssue noHold perform).core k).spad b = _
    rw [spad]
    by_cases hkm : k = m.core
    · have out : ¬ (w ≤ b ∧ b < w + 4) := hb _ (.head _) hkm.symm
      rw [hkm, State.core_setBar (s := u) hk]
      refine (memRead_writeBytes_outside (wf.modSlice (f := leaveSlice a m)).core.spad _ _ ?_).trans ?_
      · rw [toBytes_length]; omega
      · exact congrArg (fun r : CoreRec => memRead r.spad b) (core m.core)
    · rw [State.setBar, State.writeSpad, State.core_setCore, if_neg fun h => hkm h.1]
      exact congrArg (fun r : CoreRec => memRead r.spad b) (core k)
  · show State.crew (s.issue leaveIssue noHold perform) m.core a = _
    have count := crewCount_left (s := s) (c := c) (ms := ms) [m] (by simpa using member) m.core (t := u.leaveWord m.core w)
      (State.leaveWord_slices ..)
    have entry : (u.leaveWord m.core w).crew m.core a = some e := by
      refine (State.crew_congr (s := s) ?_).trans hc
      rw [written, (State.setBar_core ..).1]
      exact congrArg CoreRec.crews (core m.core)
    have free : (s.issue leaveIssue noHold perform).crew m.core a = ((u.leaveWord m.core w).freeCrew m.core a).crew m.core a :=
      State.crew_congr (congrArg CoreRec.crews (final m.core))
    have one (x : Nat) : ([m].map (·.sid)).contains x = (x == m.sid) := by simp [beq_eq_decide]
    simp only [one] at count
    rw [free, State.freeCrew, ← if_congr count rfl rfl]
    split
    · rw [State.crew_setCrew, if_pos hk]
    · exact entry

end

/-- Settles O16: JOIN, LEAVE of a crew without a word, and LEAVE of a bound crew. -/
theorem crews : Obligations.Crews := by
  refine ⟨fun i e s c g ms he hi _ hr _ => ?_, fun a s c g ms m e w hi act member hc hw hk hs => ?_⟩
  · have need : ∀ m ∈ ms, e.acts m = true → e.need s c m := fun m hm ha => (hr m hm ha).2
    cases i with
    | join a => exact join_completes hi he need
    | leave a => exact leave_completes hi he need
    | _ => cases he
  · exact leave_bound hi act member hc hw hk (State.memWf_iff.mp hs)

end Sys2Proof.Machine

namespace Sys2Proof.Machine
open Claims

/-! ## The fill of a load (O40; R34, R144, R145, R149, R159) -/

/-! ### Which slices have read a value

`State.unread` is the machine apart from it: the `seen` of outstanding operations and of writes on their way, and the slices that a copy
of an atomic read answers no more. -/

/-- The machine apart from which slices have read what. -/
def State.unread (s : State) : State :=
  { s with
    txns := unseen s.txns, writes := s.writes.map fun w => { w with seen := [] }, copies := s.copies.map fun c => { c with barred := [] } }

theorem unseen_map (f : Txn → List Nat) (c : Txn → Bool) (l : List Txn) :
    unseen (l.map fun u => if c u then { u with seen := f u } else u) = unseen l := by
  simp only [unseen, List.map_map]
  refine List.map_congr_left fun u _ => ?_
  simp only [Function.comp]
  split <;> rfl

theorem unseen_filter (c : Txn → Bool) (h : ∀ u, c { u with seen := [] } = c u) (l : List Txn) :
    unseen (l.filter c) = (unseen l).filter c := by
  simp only [unseen, List.filter_map, Function.comp_def, h]

section Reads

variable (s : State)

@[simp] theorem State.barCopies_unread (t : Txn) : (s.barCopies t).unread = s.unread := by
  unfold State.barCopies
  split
  · rfl
  · unfold State.unread
    simp only [List.map_map, Function.comp_def]
    congr 1
    refine List.map_congr_left fun c _ => ?_
    split <;> rfl

@[simp] theorem State.noteBytes_unread (sids : List Nat) (die : Fin 5) (asid : BitVec 16) (va n : Nat) :
    (s.noteBytes sids die asid va n).unread = s.unread := by
  unfold State.noteBytes
  split
  · rfl
  · unfold State.unread
    simp only [List.map_map, Function.comp_def]
    congr 1
    refine List.map_congr_left fun w _ => ?_
    split <;> rfl

/-- Reading values changes what is known of who read them alone. -/
@[simp] theorem State.noteRead_unread (t : Txn) (ls : List LaneAcc) : (s.noteRead t ls).unread = s.unread := by
  unfold State.noteRead
  extract_lets x u sids v
  have hu : u.unread = s.unread := s.barCopies_unread x
  split
  · exact hu
  · have hv : v.unread = u.unread := foldl_keeps State.unread _ (fun y a => by split <;> simp) x.spans u
    refine Eq.trans ?_ (hv.trans hu)
    unfold State.unread
    dsimp only
    rw [unseen_map]

end Reads

/-! ### Slices changed by their identities -/

/-- Each slice named is changed as its entry says, once; no other changes. -/
theorem State.slice?_modSlices {α : Type} (key : α → Nat) (F : α → Slice → Slice) (hF : ∀ a x, (F a x).sid = x.sid) (l : List α)
    (hd : (l.map key).Nodup) (s : State) :
    (∀ a ∈ l, (l.foldl (fun t a => t.modSlice (key a) (F a)) s).slice? (key a) = (s.slice? (key a)).map (F a)) ∧
      ∀ b, b ∉ l.map key → (l.foldl (fun t a => t.modSlice (key a) (F a)) s).slice? b = s.slice? b := by
  induction l generalizing s with
  | nil => exact ⟨nofun, fun _ _ => rfl⟩
  | cons a l ih =>
    obtain ⟨fresh, hd⟩ := List.nodup_cons.mp hd
    obtain ⟨members, others⟩ := ih hd (s.modSlice (key a) (F a))
    refine ⟨fun b hb => ?_, fun b hb => ?_⟩
    · cases hb with
      | head => rw [List.foldl_cons, others _ fresh, State.slice?_modSlice _ _ _ _ (hF a), if_pos rfl]
      | tail _ hb =>
        have apart : key a ≠ key b := fun e => fresh (e ▸ List.mem_map_of_mem hb)
        rw [List.foldl_cons, members b hb, State.slice?_modSlice _ _ _ _ (hF a), if_neg apart]
    · simp only [List.map_cons, List.mem_cons, not_or] at hb
      obtain ⟨apart, hb⟩ := hb
      rw [List.foldl_cons, others b hb, State.slice?_modSlice _ _ _ _ (hF a), if_neg (Ne.symm apart)]

/-- Nothing but the slices changes. -/
theorem State.modSlices_field {α β : Type} (p : State → β) (h : ∀ (s : State) x, p { s with slices := x } = p s) (key : α → Nat)
    (F : α → Slice → Slice) (l : List α) (s : State) : p (l.foldl (fun t a => t.modSlice (key a) (F a)) s) = p s :=
  foldl_keeps p (fun t a => t.modSlice (key a) (F a)) (fun t _ => h t _) l s

@[simp] theorem Slice.fillCell_sid (x : Slice) (r : RegName) (mask : BitVec 4) (y : Lanes) : (x.fillCell r mask y).sid = x.sid := by
  cases r <;> rfl
@[simp] theorem Slice.fillCell_acqAt (x : Slice) (r : RegName) (mask : BitVec 4) (y : Lanes) : (x.fillCell r mask y).acqAt = x.acqAt := by
  cases r <;> rfl

theorem Slice.fillPart_sid (x : Slice) (p : Part) (mask : BitVec 4) (lo hi : Lanes) : (x.fillPart p mask lo hi).sid = x.sid := by
  unfold Slice.fillPart; split <;> simp
theorem Slice.fillPart_acqAt (x : Slice) (p : Part) (mask : BitVec 4) (lo hi : Lanes) : (x.fillPart p mask lo hi).acqAt = x.acqAt := by
  unfold Slice.fillPart; split <;> simp

/-! ### Noting an acquire (R151, R159) -/

section Acquire

variable (s : State) (t : Txn)

theorem State.noteAcquire_field {β : Type} (p : State → β) (h : ∀ (s : State) x l n, p { s with slices := x, txns := l, nextId := n } = p s) :
    p (s.noteAcquire t) = p s := by
  unfold State.noteAcquire
  split
  · dsimp only
    split
    · refine (foldl_keeps p _ (fun x q => ?_) t.parts _).trans ?_
      · exact h x _ x.txns x.nextId
      · exact h s s.slices _ _
    · exact h s s.slices _ s.nextId
  · rfl

theorem State.noteAcquire_unseen : unseen (s.noteAcquire t).txns = unseen s.txns := by
  unfold State.noteAcquire
  split
  · dsimp only
    split
    · refine (congrArg unseen (State.modSlices_field State.txns (fun _ _ => rfl) ..)).trans ?_
      exact unseen_map ..
    · exact unseen_map ..
  · rfl

/-- A slice for which an acquire has been performed. -/
def Slice.acquired (wide : Bool) (n : Nat) (x : Slice) : Slice := { x with acqAt := if wide then n else x.acqAt }

/-- An acquire of die scope or wider is noted in the slices of its operation. -/
theorem State.noteAcquire_slice? (hd : (t.parts.map (·.sid)).Nodup) :
    (∀ p ∈ t.parts, (s.noteAcquire t).slice? p.sid = (s.slice? p.sid).map (Slice.acquired t.kind.wideAcquire s.nextId)) ∧
      ∀ b, b ∉ t.parts.map (·.sid) → (s.noteAcquire t).slice? b = s.slice? b := by
  cases hw : t.kind.wideAcquire with
  | false =>
    have same : (s.noteAcquire t).slices = s.slices := by
      unfold State.noteAcquire
      rw [hw]
      split <;> rfl
    have found (b : Nat) : (s.noteAcquire t).slice? b = s.slice? b := by rw [State.slice?, same]; rfl
    have id : Slice.acquired false s.nextId = id := rfl
    rw [id]
    exact ⟨fun p _ => (found p.sid).trans (Option.map_id_apply ..).symm, fun b _ => found b⟩
  | true =>
    have wide : s.noteAcquire t = t.parts.foldl (fun x p => x.modSlice p.sid (Slice.acquired true s.nextId)) { s with
        nextId := s.nextId + 1
        txns := s.txns.map fun u => if u.atCore.isSome && u.core == t.core then { u with seen := t.parts.map (·.sid) ++ u.seen } else u } := by
      unfold State.noteAcquire
      rw [hw, Bool.or_true]
      rfl
    rw [wide]
    exact State.slice?_modSlices (·.sid) (fun _ => Slice.acquired true s.nextId) (fun _ _ => rfl) t.parts hd _

end Acquire

/-! ### What a load's lanes take -/

section Load

variable (s : State) (t : Txn)

/-- The lines a load needs have come in. -/
def State.broughtIn (s : State) (t : Txn) : State := s.fillLanes t t.lanes

/-- What the slice of a part takes: the bytes its lanes read. -/
def State.takes (s : State) (t : Txn) (p : Part) (x : Slice) : Slice :=
  x.fillPart p p.mask (Lanes.ofFn fun i => BitVec.ofNat 32 (loaded (s.broughtIn t) t (s.txnAsid t) p i))
    (Lanes.ofFn fun i => BitVec.ofNat 32 (loaded (s.broughtIn t) t (s.txnAsid t) p i / 2 ^ 32))

/-- The results of a load's lanes are what its part's slice takes. -/
theorem loadValues_results (p : Part) :
    p.results ((s.broughtIn t).loadValues t t.lanes) = loaded (s.broughtIn t) t (s.txnAsid t) p := by
  have asid : (s.broughtIn t).txnAsid t = s.txnAsid t := State.asidOf_of_uncached (s.fillLanes_uncached t t.lanes) t.ctx
  funext i
  unfold Part.results loaded State.loadValues
  rw [asid]
  cases hd : p.dst.any RegName.scalar with
  | true =>
    simp only [if_true, List.find?_map, Function.comp_def, Bool.true_or, Bool.and_true, Option.map_map]
    cases t.lanes.find? fun l => l.sid == p.sid <;> rfl
  | false =>
    simp only [Bool.false_eq_true, if_false, laneVal, List.find?_map, Function.comp_def, Bool.false_or]
    cases t.lanes.find? fun l => l.sid == p.sid && l.lane == i <;> rfl

/-- A load's fill. -/
theorem State.completeAccess_load {acq : Option Scope} (h : t.kind = .load acq) : s.completeAccess t =
    ((t.parts.foldl (fun y p => y.modSlice p.sid (s.takes t p)) ((s.broughtIn t).noteRead t t.lanes)).dropTxn t.id).noteAcquire t := by
  unfold State.completeAccess State.performLanes
  rw [h]
  dsimp only
  unfold State.fillParts State.takes
  simp only [← loadValues_results]
  rfl

variable {s t}

/-- The step of an operation that is due performs it. -/
theorem exec_registerFill_load {acq : Option Scope} (h : t.kind = .load acq) (due : Due s t) :
    exec (.registerFill t.id) s = .next (s.completeAccess t) := by
  have step : exec (.registerFill t.id) s = .next (s.completeTxn t) := by
    show execRegisterFill t.id s = _
    rw [execRegisterFill, due.here]
  rw [step, State.completeTxn, h]
  dsimp only
  rw [if_pos due.ready, State.unlessPoisoned, due.clean]

end Load

/-- Settles O40: the lines come in, the slices of the parts take the bytes, and the operation is off the list. -/
theorem loadFills : Obligations.LoadFills := by
  intro s t acq hk due v val
  let w := v.noteRead t t.lanes
  let x := t.parts.foldl (fun y p => y.modSlice p.sid (s.takes t p)) w
  have read : w.unread = v.unread := v.noteRead_unread t t.lanes
  have lines : v.uncached = s.uncached := s.fillLanes_uncached t t.lanes
  -- A view that sees neither slices nor operations nor who has read what is that of the lines brought in.
  have view {β : Type} (p : State → β) (hp : ∀ (s : State) x l n, p { s with slices := x, txns := l, nextId := n } = p s) :
      p ((x.dropTxn t.id).noteAcquire t) = p w := by
    refine (State.noteAcquire_field _ t p hp).trans ((hp x x.slices _ x.nextId).trans ?_)
    exact State.modSlices_field p (fun y l => hp y l y.txns y.nextId) _ _ t.parts w
  have slicesThere (b : Nat) : w.slice? b = s.slice? b := by
    have : w.slices = s.slices := (congrArg State.slices read :).trans (congrArg State.slices lines :)
    rw [State.slice?, this]; rfl
  have sids (p : Part) (m : Slice) : (s.takes t p m).sid = m.sid := Slice.fillPart_sid ..
  obtain ⟨takes, stay⟩ := State.slice?_modSlices (·.sid) (s.takes t) sids t.parts due.apart w
  obtain ⟨notes, rest⟩ := (x.dropTxn t.id).noteAcquire_slice? t due.apart
  have nextId : (x.dropTxn t.id).nextId = s.nextId :=
    (State.modSlices_field State.nextId (fun _ _ => rfl) (fun p : Part => p.sid) (s.takes t) t.parts w).trans
      ((congrArg State.nextId read :).trans (congrArg State.nextId lines :))
  have hbm : v.hbm = s.hbm := s.fillLanes_hbm t t.lanes
  refine ⟨_, (exec_registerFill_load hk due).trans (congrArg _ (s.completeAccess_load t hk)), fun p hp => ?_, fun b hb => ?_, ?_, ?_, ?_, ?_, ?_,
    ?_, ?_, ?_⟩
  · refine (notes p hp).trans ?_
    rw [nextId]
    show Option.map _ (x.slice? p.sid) = _
    rw [takes p hp, slicesThere, Option.map_map]
    refine congrArg (Option.map · (s.slice? p.sid)) (funext fun m => ?_)
    exact congrArg (fun a => { s.takes t p m with acqAt := if t.kind.wideAcquire then s.nextId else a }) (Slice.fillPart_acqAt ..)
  · exact (rest b hb).trans ((stay b hb).trans (slicesThere b))
  · rw [State.noteAcquire_unseen]
    have txns : unseen x.txns = unseen s.txns := by
      have : x.txns = w.txns := State.modSlices_field State.txns (fun _ _ => rfl) _ _ t.parts w
      rw [this]
      exact (congrArg State.txns read :).trans (congrArg (unseen ·.txns) lines :)
    show unseen (x.txns.filter fun u => u.id != t.id) = _
    rw [unseen_filter _ fun _ => rfl, txns, unseen_filter _ fun _ => rfl]
  · refine (congrArg (List.map _) (view State.writes fun _ _ _ _ => rfl)).trans ?_
    exact (congrArg State.writes read :).trans (congrArg (fun s : State => s.writes.map fun w => { w with seen := [] }) lines :)
  · exact (view State.hbm fun _ _ _ _ => rfl).trans (congrArg State.hbm read :)
  · exact (view State.cdata fun _ _ _ _ => rfl).trans (congrArg State.cdata read :)
  · intro a ha
    refine absurd ?_ ha
    exact congrArg (memRead · a) ((view State.hbm fun _ _ _ _ => rfl).trans ((congrArg State.hbm read :).trans hbm))
  · exact (view State.cores fun _ _ _ _ => rfl).trans ((congrArg State.cores read :).trans (congrArg State.cores lines :))
  · exact (view State.gangs fun _ _ _ _ => rfl).trans ((congrArg State.gangs read :).trans (congrArg State.gangs lines :))
  · exact (view State.ctxs fun _ _ _ _ => rfl).trans (congrArg State.ctxs read :)

end Sys2Proof.Machine

namespace Sys2Proof.Machine
open Claims

/-! ## Path ends (O45; R39, R170) -/

theorem popped_eq (m : Slice) : popped m = m.pop := by
  have same : entries m = m.segment := rfl
  unfold popped Slice.pop Slice.setSegment
  rw [same]
  cases m.segment <;> rfl

/-- The entries a path end restores (R39). -/
theorem unwound_eq (n : Nat) (m : Slice) : unwound (n + 1) m = m.pop.popAll n := by
  induction n generalizing m with
  | zero =>
    unfold unwound Slice.popAll
    rw [popped_eq]
    exact ite_self _
  | succ n ih =>
    rw [unwound, popped_eq, Slice.popAll]
    show (if m.pop.amask = 0#4 ∧ m.pop.segment ≠ [] then _ else _) = _
    by_cases h : m.pop.amask = 0#4 ∧ m.pop.segment ≠ []
    · rw [if_pos h, if_neg (by tauto), ih]
    · rw [if_neg h, if_pos (by tauto)]

@[simp] theorem Slice.endPath_sid (m : Slice) : m.endPath.sid = m.sid :=
  (Slice.popAll_sid 16 m.pop).trans (Slice.pop_field (·.sid) (fun _ _ _ _ _ _ => rfl) (fun _ _ => rfl) m)

/-- A member whose path ends, which the debugger does not hold. -/
def pops (x : Slice) : Bool := x.pathEnds && (!x.stopped || x.stepping)

/-- Where every member whose path ends has its accesses translated, each of them pops. -/
theorem State.popGang_still {s : State} {g : Gang} (h : ∀ x ∈ s.membersOf g, pops x = true → still s x) :
    s.popGang g = ((s.membersOf g).filter pops).foldl (fun t m => t.modSlice m.sid Slice.endPath) s := by
  have quiet : ∀ x ∈ (s.membersOf g).filter pops, still s x := fun x hx =>
    h x (List.mem_of_mem_filter hx) (List.mem_filter.mp hx).2
  unfold State.popGang
  extract_lets ms enters faulty
  have quiet : ∀ x ∈ ms, still s x := quiet
  have none : faulty = [] := List.filter_eq_nil_iff.mpr fun x hx => by simp [(quiet x (List.mem_of_mem_filter hx)).2]
  have held : (enters.any fun m => !s.resolved m.sid) = false :=
    List.any_eq_false.mpr fun x hx => by simp [(quiet x (List.mem_of_mem_filter hx)).1]
  show _ = ms.foldl (fun t m => t.modSlice m.sid Slice.endPath) s
  split
  · next e => rw [List.isEmpty_iff.mp e]; rfl
  · rw [none, held]
    rfl

/-- The turn of a path end (R39). -/
theorem pathEndPop {s : State} {core slot : Nat} {m : Slice} {g : Gang} (at_ : s.sliceAt core slot = some m) (gang : s.gangOf m.sid = some g)
    (ready : g.wait = .ready) (distinct : g.members.Nodup) (h : ∀ x ∈ s.membersOf g, pops x = true → still s x) :
    ∃ u, exec (.pathEndPop core slot) s = .next u ∧
      (∀ x ∈ s.membersOf g, u.slice? x.sid = some (if pops x then unwound 17 x else x)) ∧
      (∀ b, b ∉ (s.membersOf g).map (·.sid) → u.slice? b = s.slice? b) ∧ u.beyond = s.beyond ∧ u.gangs = s.gangs := by
  have step : exec (.pathEndPop core slot) s = .next (s.popGang g) := by
    show execPathEndPop core slot s = _
    rw [execPathEndPop, at_]
    dsimp only [Option.bind_some]
    rw [gang]
    exact congrArg Host.Outcome.next (if_pos ready)
  have nodup := State.members_distinct distinct (s := s)
  obtain ⟨members, others⟩ := State.slice?_modSlices (·.sid) (fun _ : Slice => Slice.endPath) (fun _ => Slice.endPath_sid)
    ((s.membersOf g).filter pops) ((List.filter_sublist.map _).nodup nodup) s
  have keeps {β : Type} (p : State → β) (hp : ∀ (s : State) x, p { s with slices := x } = p s) :
      p (((s.membersOf g).filter pops).foldl (fun t m => t.modSlice m.sid Slice.endPath) s) = p s :=
    State.modSlices_field p hp (fun m : Slice => m.sid) (fun _ => Slice.endPath) _ s
  refine ⟨_, step, ?_⟩
  rw [State.popGang_still h]
  refine ⟨fun x hx => ?_, fun b hb => others b fun e => hb ((List.filter_sublist.map _).subset e), keeps State.beyond fun _ _ => rfl,
    keeps State.gangs fun _ _ => rfl⟩
  split
  · next hp =>
    rw [members x (List.mem_filter.mpr ⟨hx, hp⟩), State.slice?_member hx, unwound_eq]
    rfl
  · next hp =>
    refine (others x.sid fun e => ?_).trans (State.slice?_member hx)
    obtain ⟨y, hy, same⟩ := List.mem_map.mp e
    exact hp (List.inj_on_of_nodup_map nodup (List.mem_of_mem_filter hy) hx same ▸ (List.mem_filter.mp hy).2)

/-! ## Trap entry (R167, R168) -/

/-- What ends the wait of a gang whose members enter changes gangs alone. -/
theorem State.entryOver_slices (s : State) (sid : Nat) : (s.entryOver sid).slices = s.slices := by
  unfold State.entryOver State.entryDone
  split
  · rfl
  · split
    · rfl
    · split <;> rfl

/-- A slice whose accesses are all translated enters its trap. -/
theorem trapEntry {s : State} {m : Slice} {r : TrapRec} (at_ : s.sliceAt m.core m.slot = some m) (here : s.slice? m.sid = some m)
    (pend : m.pend = some r) (early : r.late = false) (group : r.group ≠ 0xE#5) (user : modeSup m.mode = false)
    (resolved : s.resolved m.sid = true) (faults : s.faultedTxns m.sid = []) (vector : s.vectorOf m ≠ 0#64) :
    ∃ u, exec (.trapEntry m.core m.slot) s = .next u ∧ u.slice? m.sid = some (m.enter r false (s.saveArea m) (s.vectorOf m)) := by
  have none : s.faultsOf m.sid = [] := by unfold State.faultsOf; rw [faults]; rfl
  have step : exec (.trapEntry m.core m.slot) s = .next (s.doEntry m r) := by
    show execTrapEntry m.core m.slot s = _
    rw [execTrapEntry, at_]
    dsimp only
    unfold State.tryEnter
    rw [here]
    dsimp only
    rw [pend]
    simp [early, group, user, resolved, vector]
  refine ⟨_, step, ?_⟩
  unfold State.doEntry
  rw [none]
  simp only [early, Bool.false_eq_true, if_false]
  have sid (x : Slice) : (x.enter r false (s.saveArea m) (s.vectorOf m)).sid = x.sid := by
    unfold Slice.enter
    cases r.reg <;> simp
  rw [State.slice?, State.entryOver_slices]
  show ((s.flushSlice m).modSlice m.sid _).slice? m.sid = _
  rw [State.slice?_modSlice _ _ _ _ sid, if_pos rfl, State.slice?, State.flushSlice_slices, ← State.slice?, here]
  rfl

/-! ## Late faults (R169) -/

section Late

variable {s : State} {t : Txn} {p : Part} (here : s.txn? t.id = some t)
  (faulty : (t.parts.filter fun p => t.lanes.any fun l => l.sid == p.sid && s.laneFaulted t l) = [p])
include here faulty

/-- The one slice that has a fault takes the report. -/
theorem exec_lateFaultReport : exec (.lateFaultReport t.id) s = .next (s.reportTo p.sid) := by
  show execLateFaultReport t.id s = _
  rw [execLateFaultReport, here]
  dsimp only
  rw [faulty]
  rfl

end Late

section Report

variable {s : State} {a : Nat} {m : Slice} (found : s.slice? a = some m) (free : m.pend = none) (new : m.late = false)
include found free new

/-- A slice whose gang may issue, or that is stopped or has no slot, keeps the report. -/
theorem State.reportTo_kept (h : m.place ≠ .resident ∨ m.stopped = true ∨ s.gangOf a = none ∨ ∃ g, s.gangOf a = some g ∧ s.mayIssue g = true) :
    s.reportTo a = s.modSlice a fun x => { x with late := true } := by
  unfold State.reportTo
  rw [found]
  simp only [free, new, Option.isSome_none, Bool.or_self, Bool.false_eq_true, if_false]
  refine if_neg ?_
  rcases h with h | h | h | ⟨g, h, hg⟩
  · simp [h]
  · simp [h]
  · simp [h]
  · simp [h, hg]

/-- One whose gang issues nothing takes it at once. -/
theorem State.reportTo_taken {g : Gang} (place : m.place = .resident) (runs : m.stopped = false) (gang : s.gangOf a = some g)
    (idle : s.mayIssue g = false) : s.reportTo a = s.raiseTrap a (lateReport m) := by
  unfold State.reportTo
  rw [found]
  simp [free, new, place, runs, gang, idle]

end Report

/-! ## Page walks (R256, R261, R264, R171, R176) -/

/-! ### What a leaf that is installed grants -/

/-- The line an access hits, once a walk has given it the bits of a leaf in the caches it looked into. -/
def relined (via : List Cache) (x : Line) (e : Leaf) (y : Line) : Line :=
  if y.asid == x.asid && y.va == x.va then
    { y with bits := y.bits.map fun b => if via.contains b.cache then e.bits b.cache else b }
  else y

section Install

variable (s : State) (via : List Cache) (asid : BitVec 16) (va : Nat) (e : Leaf)

/-- The TLB entry of the leaf. -/
def State.leafEntry : TlbEntry := ⟨s.ctlOf asid va, asid, va / 2 ^ pageShift e.size * 2 ^ pageShift e.size, e⟩

/-- A list without the element given up is part of the list. -/
theorem mem_of_giveUp {α : Type} [DecidableEq α] {l all : List α} {n : Nat} {x : α} (h : x ∈ giveUp l all n) : x ∈ l := by
  unfold giveUp at h
  split at h
  · exact List.mem_of_mem_filter h
  · exact h

/-- The TLB entries a new one leaves stood before, in other TLBs or for other pages. -/
theorem State.putTlb_tlb (n : TlbEntry) : ∃ l, (s.putTlb n).tlb = l ++ [n] ∧ ∀ x ∈ l, x ∈ s.tlb ∧ (x.ctl == n.ctl && x.covers n.asid n.va) = false := by
  have kept {x : TlbEntry} (h : x ∈ (s.dropTlbAt n.ctl n.asid n.va).tlb) : x ∈ s.tlb ∧ (x.ctl == n.ctl && x.covers n.asid n.va) = false :=
    (List.mem_filter.mp h).imp id fun h => by simpa [imp_iff_not_or] using h
  refine ⟨_, rfl, fun x hx => ?_⟩
  split at hx
  · exact kept hx
  · exact kept (mem_of_giveUp hx)

/-- Where every entry of an address has the page size of a leaf, the leaf's entry translates it from then on. -/
theorem State.putTlb_finds (h : ∀ x ∈ s.tlb, x.covers asid va = true → x.leaf.size = e.size) :
    (s.putTlb (s.leafEntry asid va e)).tlb? asid va = some (s.leafEntry asid va e) := by
  obtain ⟨l, tlb, others⟩ := s.putTlb_tlb (s.leafEntry asid va e)
  have ctl : (s.putTlb (s.leafEntry asid va e)).ctlOf asid va = s.ctlOf asid va := rfl
  have none : (l.find? fun x => x.covers asid va && x.ctl == s.ctlOf asid va) = none := List.find?_eq_none.mpr fun x hx => by
    obtain ⟨mem, apart⟩ := others x hx
    rw [Bool.and_eq_true, beq_iff_eq]
    rintro ⟨covers, same⟩
    have size := h x mem covers
    -- What covers the address covers the page's first one.
    have base : x.covers asid (va / 2 ^ pageShift e.size * 2 ^ pageShift e.size) = true := by
      unfold TlbEntry.covers at covers ⊢
      rw [size] at covers ⊢
      rwa [Nat.mul_div_cancel _ (Nat.two_pow_pos _)]
    simp [State.leafEntry, same, base] at apart
  have own : ((s.leafEntry asid va e).covers asid va && (s.leafEntry asid va e).ctl == s.ctlOf asid va) = true := by
    simp [State.leafEntry, TlbEntry.covers]
  rw [State.tlb?, ctl, tlb, List.find?_append, none, List.find?_cons, own]
  rfl

variable {via e} in
/-- The bits of a line in a cache, once it has those of a leaf. -/
theorem relined_in? (x y : Line) (c : Cache) :
    (((relined via x e y).in? c).isNone = (y.in? c).isNone) ∧
      (c ∈ via → y = x → (y.in? c).isSome = true → (relined via x e y).in? c = some (relined via x e y, e.bits c)) := by
  have cache (b : LineBits) : (if via.contains b.cache then e.bits b.cache else b).cache = b.cache := by
    split <;> rfl
  unfold Line.in?
  refine ⟨?_, fun hc hy some => ?_⟩
  · unfold relined
    split
    · simp only [List.find?_map, Function.comp_def, cache, Option.isNone_map]
    · rfl
  · subst hy
    have bits : (relined via y e y).bits = y.bits.map fun b => if via.contains b.cache then e.bits b.cache else b := by
      unfold relined
      rw [if_pos (by simp)]
    obtain ⟨b, hb⟩ := Option.isSome_iff_exists.mp ((Option.isSome_map ..).symm.trans some)
    have same : b.cache = c := by simpa using List.find?_some hb
    rw [bits, List.find?_map]
    simp only [Function.comp_def, cache]
    rw [hb]
    simp [same, hc]

/-- The line an access hits grants what a leaf installed for it grants. -/
theorem hit_relined {A B : Option Line} {x : Line} {b : LineBits} (cs : List Cache) (sub : ∀ c ∈ cs, c ∈ via)
    (h : (cs.findSome? fun c => (A.bind (·.in? c)).or (B.bind (·.in? c))) = some (x, b)) :
    ∃ c, (cs.findSome? fun c => ((A.map (relined via x e)).bind (·.in? c)).or ((B.map (relined via x e)).bind (·.in? c))) =
      some (relined via x e x, e.bits c) := by
  have none (O : Option Line) (c : Cache) (hO : O.bind (·.in? c) = none) : (O.map (relined via x e)).bind (·.in? c) = none := by
    cases O with
    | none => rfl
    | some y => exact Option.isNone_iff_eq_none.mp ((relined_in? x y c).1.trans (Option.isNone_iff_eq_none.mpr hO))
  have hit (O : Option Line) (c : Cache) (hc : c ∈ via) (hO : O.bind (·.in? c) = some (x, b)) :
      (O.map (relined via x e)).bind (·.in? c) = some (relined via x e x, e.bits c) := by
    cases O with
    | none => cases hO
    | some y =>
      have hO : y.in? c = some (x, b) := hO
      have same : y = x := by
        obtain ⟨_, -, e⟩ := Option.map_eq_some_iff.mp hO
        exact (Prod.mk.inj e).1
      subst same
      exact (relined_in? y y c).2 hc rfl (by rw [hO]; rfl)
  induction cs with
  | nil => cases h
  | cons c cs ih =>
    rw [List.findSome?_cons] at h ⊢
    cases hA : A.bind (·.in? c) with
    | some p =>
      rw [hA] at h
      cases h
      rw [hit A c (sub c (.head _)) hA]
      exact ⟨c, rfl⟩
    | none =>
      rw [none A c hA]
      rw [hA] at h
      cases hB : B.bind (·.in? c) with
      | some p =>
        rw [hB] at h
        cases h
        rw [hit B c (sub c (.head _)) hB]
        exact ⟨c, rfl⟩
      | none =>
        rw [none B c hB]
        rw [hB] at h
        exact ih (fun c hc => sub c (.tail _ hc)) h

/-- A leaf that is installed grants what it grants. -/
theorem State.installLeaf_granted {a : Acc} (h : ∀ x ∈ s.tlb, x.covers asid va = true → x.leaf.size = e.size) (grants : e.grants a = true) :
    (s.installLeaf via asid va e).granted via asid va a = true := by
  unfold State.installLeaf
  cases hit : s.hit? via asid va with
  | none =>
    have miss : (s.putTlb (s.leafEntry asid va e)).hit? via asid va = none := hit
    show (s.putTlb (s.leafEntry asid va e)).granted via asid va a = true
    rw [State.granted, miss, s.putTlb_finds asid va e h]
    exact grants
  | some p =>
    obtain ⟨x, b⟩ := p
    show State.granted { s.putTlb (s.leafEntry asid va e) with lines := s.lines.map (relined via x e) } via asid va a = true
    have tagged (tag : BitVec 16) : State.tagged? { s.putTlb (s.leafEntry asid va e) with lines := s.lines.map (relined via x e) } tag va =
        (s.tagged? tag va).map (relined via x e) := by
      have keys (y : Line) : (relined via x e y).asid = y.asid ∧ (relined via x e y).va = y.va := by
        unfold relined; split <;> exact ⟨rfl, rfl⟩
      simp only [State.tagged?, List.find?_map, Function.comp_def, keys]
    obtain ⟨c, found⟩ := hit_relined via e via (fun _ hc => hc) hit
    rw [State.granted, State.hit?, tagged, tagged, found]
    cases a <;> exact grants

end Install

/-! ### The step -/

section Walk

variable {s : State} {asid : BitVec 16} {va : DWord} {t : Txn} {l : LaneAcc} (free : s.pageHeld asid (offsetOf va) = false)
  (lane : s.walkLane asid (offsetOf va) = some (t, l))
include free lane

/-- The walk is for the access found. -/
theorem exec_pageWalk : exec (.pageWalk asid va) s = .next (s.walkFor t l) := by
  show execPageWalk asid va s = _
  rw [execPageWalk, free, lane]
  rfl

/-- An access takes the leaf its walk ends in. -/
theorem pageWalk_grants {e : Leaf} (walk : s.walk (s.txnAsid t) l.off = .leaf e) (grants : e.grants t.kind.acc = true)
    (sizes : ∀ x ∈ s.tlb, x.covers (s.txnAsid t) l.off = true → x.leaf.size = e.size) :
    ∃ u, exec (.pageWalk asid va) s = .next u ∧
      u.txnGranted t l.off = true ∧ u.hbm = s.hbm ∧ u.cdata = s.cdata ∧ u.slices = s.slices ∧ u.txns = s.txns := by
  have step : s.walkFor t l = s.installLeaf (s.txnVia t l.off) (s.txnAsid t) l.off e := by
    rw [State.walkFor, walk]
    exact if_pos grants
  have keeps {β : Type} (p : State → β) (hp : ∀ (s : State) b x, p { s with tlb := b, lines := x } = p s) :
      p (s.installLeaf (s.txnVia t l.off) (s.txnAsid t) l.off e) = p s := by
    unfold State.installLeaf State.putTlb State.dropTlbAt
    dsimp only
    split
    · exact hp s _ s.lines
    · exact hp s _ _
  refine ⟨_, exec_pageWalk free lane, ?_⟩
  rw [step]
  refine ⟨?_, keeps _ fun _ _ _ => rfl, keeps _ fun _ _ _ => rfl, keeps _ fun _ _ _ => rfl, keeps _ fun _ _ _ => rfl⟩
  have via := keeps (fun u => (u.txnVia t l.off, u.txnAsid t)) fun _ _ _ => rfl
  rw [Prod.mk.injEq] at via
  rw [State.txnGranted, via.1, via.2]
  exact State.installLeaf_granted s _ _ _ e sizes grants

end Walk

/-- A fault of the walk is noted for the slice. -/
theorem State.walkFault_noted {s u : State} {t : Txn} {l : LaneAcc} (here : (s.slice? l.sid).isSome = true) (takes : t.discarded l.sid = false)
    (same : u.slices = s.slices) (ctxs : u.ctxs = s.ctxs) (g : BitVec 5) (k : BitVec 8) :
    u.walkFault t l g k = { u with firstFaults := u.firstFaults ++ [⟨s.txnAsid t, l.off / 65536, l.sid, none, g, k⟩] } := by
  have found : (u.slice? l.sid).isNone = false := by
    rw [State.slice?, same]
    exact (Option.not_isSome ..).symm.trans (congrArg not here)
  have asid : u.txnAsid t = s.txnAsid t := by
    unfold State.txnAsid State.asidOf State.ctx
    rw [ctxs]
  rw [State.walkFault, found, takes, asid]
  rfl

/-- Settles O45: the walk (`pageWalk_grants`, `walkFault_noted`), the report (`reportTo_kept`, `reportTo_taken`), the entry (`trapEntry`) and
the path end (`pathEndPop`). -/
theorem translationSteps : Obligations.TranslationSteps := by
  refine ⟨?_, ?_, ?_, ?_⟩
  · intro s asid va t l free lane fault
    refine ⟨fun e walk grants sizes => pageWalk_grants free lane walk grants sizes, fun here takes => ⟨fun g k faults => ?_, fun pa walk => ?_⟩⟩
    · rw [exec_pageWalk free lane, State.walkFor]
      rcases faults with walk | ⟨e, walk, refused, rfl, rfl⟩
      · rw [walk]
        exact congrArg _ (State.walkFault_noted here takes rfl rfl g k)
      · rw [walk]
        refine congrArg _ ((if_neg ?_).trans (State.walkFault_noted here takes rfl rfl 5#5 5#8))
        rw [refused]
        exact Bool.false_ne_true
    · rw [exec_pageWalk free lane, State.walkFor, walk]
      exact congrArg _ (State.walkFault_noted (u := s.logMalformed t.ctx pa) here takes rfl rfl 6#5 1#8)
  · intro s t p m here faulty found free new
    rw [exec_lateFaultReport here faulty]
    exact ⟨fun h => congrArg _ (State.reportTo_kept found free new h),
      fun g place runs gang idle => congrArg _ (State.reportTo_taken found free new place runs gang idle)⟩
  · intro s m r at_ here pend early group user resolved faults vector
    exact trapEntry at_ here pend early group user resolved faults vector
  · intro s core slot m g at_ gang ready distinct pops still
    exact pathEndPop at_ gang ready distinct still

end Sys2Proof.Machine

namespace Sys2Proof.Machine
open Claims

/-! ## The rank tree (O46, O47; R285–R300)

An entry changes the nodes, what the engines perform, the counters and the clock, and no more. -/

section Tree

variable {β : Type} (p : State → β)
  (h : ∀ (s : State) n v c o i x y z, p { s with
    nodes := n, serving := v, ctxs := c, out := o, nextId := i, tsc := x, tscPause := y, ticks := z } = p s)
include h

theorem State.setNode_field (s : State) (n : NodeRec) : p (s.setNode n) = p s :=
  h s _ s.serving s.ctxs s.out s.nextId s.tsc s.tscPause s.ticks

theorem State.modEntries_field (s : State) (node : BitVec 16) (f : List Entry → List Entry) : p (s.modEntries node f) = p s :=
  State.setNode_field p h s _

theorem State.testHead_field (s : State) (leaf : BitVec 16) : p (s.testHead leaf) = p s := by
  have served (s : State) (v : List Serving) : p { s with serving := v } = p s := h s s.nodes v s.ctxs s.out s.nextId s.tsc s.tscPause s.ticks
  unfold State.testHead
  split
  · split
    · split
      · extract_lets t n
        have ht : p t = p s := served s _
        split
        · exact (State.setNode_field p h t _).trans ht
        · exact ht
      · rfl
    · rfl
  · rfl

theorem State.testInsert_field (s : State) (leaf : BitVec 16) (id : Nat) : p (s.testInsert leaf id) = p s := by
  unfold State.testInsert; split
  · exact State.testHead_field p h s leaf
  · rfl

theorem State.countInsert_field (s : State) (node : BitVec 16) (k : EntryKind) : p (s.countInsert node k).tick = p s :=
  (h (s.countInsert node k) _ _ _ _ _ _ _ _).trans
    (State.countEvent_keeps (fun s _ _ _ => h s s.nodes s.serving _ s.out s.nextId s.tsc s.tscPause s.ticks)
      (fun s o => h s s.nodes s.serving s.ctxs o s.nextId s.tsc s.tscPause s.ticks) s _ _ _ _)

/-- An entry that enters a node. -/
theorem State.enterNode_field (s : State) (node : BitVec 16) (k : EntryKind) (f : BitVec 128) (t₀ : Option DWord) :
    p (s.enterNode node k f t₀) = p s := by
  unfold State.enterNode
  extract_lets t n t₁ r x u
  refine (State.testInsert_field p h u _ _).trans ?_
  refine Eq.trans ?_ (State.countInsert_field p h s node k)
  exact h t _ t.serving t.ctxs t.out _ t.tsc t.tscPause t.ticks

theorem State.enterAt_field (s : State) (node : BitVec 16) (k : EntryKind) (rank : BitVec 16) (f : BitVec 128) :
    p (s.enterAt node k rank f) = p s := by
  unfold State.enterAt
  extract_lets t n x u
  refine (State.testInsert_field p h u _ _).trans ?_
  refine Eq.trans ?_ (State.countInsert_field p h s node k)
  exact h t _ t.serving t.ctxs t.out _ t.tsc t.tscPause t.ticks

end Tree

/-! ## Placement (O47; R40, R44, R276) -/

/-- The slices of a block that is placed. -/
def placedSlices (s : State) (core : Nat) (w : Wave) (b : Block) : List Slice :=
  (List.range (min 8 (w.n - 8 * b.j))).map fun k =>
    Slice.create (s.nextId + k) w.num (BitVec.ofNat 32 (8 * b.j + k)) core (8 * (s.freeOct core).getD 0 + k) w.entry w.mode w.args

/-- The gang of a block that is placed. -/
def placedGang (s : State) (core : Nat) (w : Wave) (b : Block) : Gang :=
  ⟨s.nextId + 8, core, (s.freeOct core).getD 0, (List.range (min 8 (w.n - 8 * b.j))).map (s.nextId + ·), .ready, s.nextId + 8, 0⟩

/-- The waves with a block placed. -/
def withoutBlock (s : State) (w : Wave) (b : Block) : List Wave :=
  s.waves.map fun x => if x.num == w.num then { x with blocks := x.blocks.filter fun y => y.j != b.j } else x

/-- What the placement of a block leaves of slices, gangs and waves. -/
theorem State.placeOn_view (s : State) (core : Nat) (w : Wave) (b : Block) :
    ((s.placeOn core w b).slices, (s.placeOn core w b).gangs, (s.placeOn core w b).waves) =
      (s.slices ++ placedSlices s core w b, s.gangs ++ [placedGang s core w b], withoutBlock s w b) := by
  unfold State.placeOn
  extract_lets r oct n id t ids u
  have share : (t.slices, t.gangs, t.waves) = (s.slices, s.gangs, s.waves) := by
    unfold t; split <;> rfl
  have hu : (u.slices, u.gangs, u.waves) = (t.slices ++ placedSlices s core w b, t.gangs ++ [placedGang s core w b],
    withoutBlock t w b) := rfl
  have hw : (u.slices, u.gangs, u.waves) =
      (s.slices ++ placedSlices s core w b, s.gangs ++ [placedGang s core w b], withoutBlock s w b) := by
    obtain ⟨hs, hg, hv⟩ : t.slices = s.slices ∧ t.gangs = s.gangs ∧ t.waves = s.waves := by simpa only [Prod.mk.injEq] using share
    rw [hu, hs, hg, withoutBlock, hv, withoutBlock]
  split
  · exact hw
  · exact (State.enterNode_field (fun s => (s.slices, s.gangs, s.waves)) (fun _ _ _ _ _ _ _ _ _ => rfl) u _ _ _ _).trans hw

/-- BLOCK_PLACE: the first block some core takes is placed, as R44 says. -/
theorem blockPlace (s : State) (dom : Fin 4) (k : Nat) (w : Wave) (b : Block)
    (h : (s.listed dom.val).findSome? (fun p => ((coresOf dom.val).find? fun k => s.canPlace k p.1).map fun k => (k, p)) = some (k, w, b)) :
    exec (.blockPlace dom) s = .next (s.placeOn k w b) := by
  show execBlockPlace dom s = _
  rw [execBlockPlace, h]

/-- Each slice of a block that is placed, by its number. -/
theorem placedSlices_get {s : State} {k : Nat} {w : Wave} {b : Block} {i : Nat} {x : Slice} (h : (placedSlices s k w b)[i]? = some x) :
    x = Slice.create (s.nextId + i) w.num (BitVec.ofNat 32 (8 * b.j + i)) k (8 * (s.freeOct k).getD 0 + i) w.entry w.mode w.args := by
  simp only [placedSlices, List.getElem?_map, Option.map_eq_some_iff, List.getElem?_eq_some_iff, List.getElem_range] at h
  obtain ⟨j, ⟨_, rfl⟩, rfl⟩ := h
  rfl

/-- A scalar register at the creation of a slice. -/
theorem Slice.create_s (sid : Nat) (wave idx : Word) (core slot : Nat) (entry : DWord) (mode : Word) (args : Vector Word 16) (j : Fin 64) :
    (Slice.create sid wave idx core slot entry mode args).s.get j =
      ⟨if h : j.val < 16 then args.get ⟨j.val, h⟩ else 0#32, true, false⟩ := by
  simp only [Slice.create, Vector.get_ofFn]
  split <;> rfl

/-! ## The launch lists (O47; R276, R277) -/

theorem mem_insertFromTail (e : Entry) (es : List Entry) : e ∈ insertFromTail e es := by
  induction es with
  | nil => simp [insertFromTail]
  | cons x t ih => unfold insertFromTail; split <;> simp [ih]

theorem mem_insertEntry (es : List Entry) (e : Entry) : e ∈ insertEntry es e :=
  List.mem_reverse.mpr (mem_insertFromTail e es.reverse)

/-- A list into which the entry of a launch was inserted lists the launch. -/
theorem launchEntry_insert {wave : Word} {es fs : List Entry} {e : Entry} (h : launchEntry wave fs = some e) :
    (launchEntry wave (insertEntry es e)).isSome = true := by
  unfold launchEntry at h ⊢
  have mine := List.find?_some h
  exact List.find?_isSome.mpr ⟨e, mem_insertEntry es e, mine⟩

/-- A domain lists a wave that some domain lists. -/
theorem State.listAt_lists (s : State) (dom : Fin 4) (wave : Word) (d : Fin 4) (e : Entry)
    (h : launchEntry wave (s.launches.get d) = some e) : (launchEntry wave ((s.listAt dom wave).launches.get dom)).isSome = true := by
  unfold State.listAt
  split
  case h_1 e' _ found =>
    obtain ⟨k, _, hk⟩ := List.exists_of_findSome?_eq_some found
    simpa [Vector.get_eq_getElem] using launchEntry_insert (es := s.launches.get dom) hk
  case h_2 none' =>
    cases here : launchEntry wave (s.launches.get dom) with
    | some x => rfl
    | none =>
      have : ((List.finRange 4).findSome? fun k => launchEntry wave (s.launches.get k)).isSome = true :=
        List.findSome?_isSome_iff.mpr ⟨d, List.mem_finRange d, by rw [h]; rfl⟩
      obtain ⟨x, hx⟩ := Option.isSome_iff_exists.mp this
      exact absurd hx (none' x here)

theorem State.listAt_keeps (s : State) (dom : Fin 4) (wave : Word) (l : Vector (List Entry) 4) :
    ({ s.listAt dom wave with launches := l } : State) = { s with launches := l } := by
  unfold State.listAt; split <;> rfl

/-- A wave after a change of the waves of that number. -/
theorem wave?_map {l : List Wave} {n : Word} {w : Wave} {f : Wave → List Block} (h : l.find? (fun x => x.num == n) = some w) :
    ((l.map fun x => if x.num == n then { x with blocks := f x } else x).find? fun x => x.num == n).map (·.blocks) = some (f w) := by
  have same : ((fun x : Wave => x.num == n) ∘ fun x : Wave => if x.num == n then { x with blocks := f x } else x) =
      fun x => x.num == n := by
    funext x; simp only [Function.comp_apply]; split <;> rfl
  rw [List.find?_map, same, h, Option.map_some, Option.map_some, if_pos (List.find?_some (p := fun x : Wave => x.num == n) h)]

/-- The blocks of a wave after a steal from wave `w`: the thief owns the higher half of the blocks of the domain that had most. -/
def stolen (dom : Fin 4) (w x : Wave) : List Block :=
  let bs := w.owned (w.richest dom.val)
  x.blocks.map fun b => if bs.contains b && decide ((bs.filter fun x => b.j < x.j).length < (bs.length + 1) / 2) then { b with dom := dom } else b

/-! ## The engine of a leaf (O47; R300, R310) -/

theorem State.flushServed_field {β : Type} (p : State → β) (h : ∀ s : State, ∀ o x, p { s with octets := o, ctxs := x } = p s)
    (s : State) (node : BitVec 16) (e : Entry) : p (s.flushServed node e) = p s := by
  unfold State.flushServed
  split
  · exact State.flushPoint_field p h ..
  · rfl

/-- What an engine performs once it took an entry. -/
theorem State.serve_serving? (s : State) (g : BitVec 16) (v : Option (BitVec 16 × Nat)) :
    (s.serve g v).serving? g = v.map fun x => ⟨g, x.1, x.2, none⟩ := by
  cases v with
  | some x => simp [State.serve, State.serving?]
  | none => simp [State.serve, State.serving?]

/-- What the other engines perform. -/
theorem State.serve_serving?_of_ne (s : State) {g h : BitVec 16} (v : Option (BitVec 16 × Nat)) (ne : h ≠ g) :
    (s.serve g v).serving? h = s.serving? h := by
  have rest : (s.serving.filter fun x => x.engine != g).find? (fun x => x.engine == h) = s.serving.find? fun x => x.engine == h := by
    rw [List.find?_filter]
    congr 1; funext x
    by_cases hx : x.engine = h
    · simp [hx, ne]
    · simp [hx]
  cases v with
  | some x => simpa [State.serve, State.serving?, Ne.symm ne] using rest
  | none => exact rest

/-- Settles O47: each of the three steps by what its operation leaves. -/
theorem placementSteps : Obligations.PlacementSteps := by
  refine ⟨fun s dom k w b h => ?_, fun s dom w hw dies isin none_ some_ => ?_, fun s node g v e eng perf stands stop => ?_⟩
  · intro oct n
    have view := s.placeOn_view k w b
    simp only [Prod.mk.injEq] at view
    obtain ⟨hs, hg, hv⟩ := view
    refine ⟨_, placedSlices s k w b, blockPlace s dom k w b h, hs, by simp [placedSlices, n], fun i x hx => ?_,
      ⟨placedGang s k w b, by rw [hg]; simp, rfl, rfl, rfl, rfl⟩, fun x hx same y hy => ?_⟩
    · rw [placedSlices_get hx]
      exact ⟨rfl, rfl, rfl, rfl, rfl, rfl, rfl, rfl, rfl, rfl, rfl, rfl, rfl, rfl, rfl, fun j => Slice.create_s .., fun j => by simp [Slice.create]; rfl,
        fun j => by simp [Slice.create]⟩
    · rw [hv, withoutBlock, List.mem_map] at hx
      obtain ⟨z, _, rfl⟩ := hx
      split at hy
      · simpa using (List.mem_filter.mp hy).2
      · rename_i other
        split at same <;> simp_all
  · intro bs
    let t : State := { s with waves := s.waves.map fun x => if x.num == w.num then { x with blocks := stolen dom w x } else x }
    have goes : exec (.stealRequest dom w.num) s = .next (t.listAt dom w.num) := by
      show execStealRequest dom w.num s = _
      obtain ⟨k, hk, takes⟩ := some_
      rw [execStealRequest, hw]
      dsimp only
      rw [if_pos ⟨dies, isin, by rw [none_]; rfl, List.any_eq_true.mpr ⟨k, hk, takes⟩⟩]
      simp only [stolen, amongHighest, Bool.and_eq_true, decide_eq_true_eq, t]
    have keeps := State.listAt_keeps t dom w.num s.launches
    refine ⟨_, goes, ?_, fun d e he => State.listAt_lists _ dom w.num d e he, ?_⟩
    · have waves : (t.listAt dom w.num).waves = t.waves := (congrArg State.waves keeps :)
      rw [State.wave?, waves]
      exact wave?_map hw
    · exact (congrArg (fun u : State => ({ u with waves := s.waves } : State)) keeps :)
  · have goes : exec (.preemptionStop node) s =
        .next ((s.flushServed v.node e).serve g ((s.headId node).map fun id => (node, id))) := by
      show execPreemptionStop node s = _
      rw [execPreemptionStop, eng]
      dsimp only
      rw [perf, Option.bind_some, stands, Option.map_some]
      dsimp only
      rw [if_pos stop, State.flushServed_field (fun t => t.headId node) (fun _ _ _ => rfl)]
    have kept {β : Type} (p : State → β) (h : ∀ s : State, ∀ o x v, p { s with octets := o, ctxs := x, serving := v } = p s) (v') :
        p ((s.flushServed v.node e).serve g v') = p s :=
      (h (s.flushServed v.node e) _ _ _).trans (State.flushServed_field p (fun s o x => h s o x s.serving) s _ _)
    refine ⟨_, goes, ?_, fun h ne => ?_, kept State.nodes (fun _ _ _ _ => rfl) _, kept State.slices (fun _ _ _ _ => rfl) _,
      kept State.cores (fun _ _ _ _ => rfl) _, kept State.hbm (fun _ _ _ _ => rfl) _⟩
    · rw [State.serve_serving?, State.headId, Option.map_map, Option.map_map]
      rfl
    · rw [State.serve_serving?_of_ne _ _ ne, State.flushServed_field (fun t => t.serving? h) (fun _ _ _ => rfl)]

end Sys2Proof.Machine

namespace Sys2Proof.Machine
open Claims

/-! ## Ranges of memory, read, spliced in and copied -/

theorem readBytes_succ (m : Mem) (a n : Nat) : readBytes m a (n + 1) = memRead m a :: readBytes m (a + 1) n := by
  simp only [readBytes, List.range_succ_eq_map, List.map_cons, Nat.add_zero, List.map_map, List.cons.injEq, true_and]
  exact List.map_congr_left fun i _ => congrArg (memRead m) (by simp only [Nat.succ_eq_add_one]; omega)

/-- The bytes of a memory that lists nothing below their place, read in one pass. -/
theorem denseFrom_eq {m : Mem} (h : m.wf = true) {a : Nat} (n : Nat) (least : ∀ x ∈ m, a ≤ x.1) : denseFrom m a n = readBytes m a n := by
  induction n generalizing m a with
  | zero => rfl
  | succ n ih =>
    cases m with
    | nil => rw [readBytes_succ, denseFrom, ih h fun _ hx => nomatch hx]; rfl
    | cons c t =>
      obtain ⟨x, v⟩ := c
      obtain ⟨rise, nz⟩ := Mem.wf_iff.mp h
      obtain ⟨above, rise⟩ := List.pairwise_cons.mp rise
      have ht : Mem.wf t = true := Mem.wf_iff.mpr ⟨rise, fun y hy => nz y (.tail _ hy)⟩
      have hx : a ≤ x := least (x, v) (.head t)
      rw [readBytes_succ, denseFrom]
      split
      · next eq =>
        subst eq
        rw [ih ht fun y hy => above y hy, memRead, if_pos rfl]
        congr 1
        refine readBytes_congr fun c hc _ => ?_
        rw [memRead, if_neg (by omega)]
      · next ne =>
        rw [ih h fun y hy => ?_, memRead_unlisted fun y hy => ?_]
        · rcases List.mem_cons.mp hy with rfl | hy
          · exact (ne ·)
          · have := above y hy
            simp only at this
            omega
        · rcases List.mem_cons.mp hy with rfl | hy
          · simp only; omega
          · have := above y hy
            simp only at this
            omega

/-- The bytes of a range, read in one pass. -/
theorem denseBytes_eq {m : Mem} (h : m.wf = true) (a n : Nat) : denseBytes m a n = readBytes m a n := by
  have inside {x : Nat × Byte} : x ∈ memSlice m a n ↔ x ∈ m ∧ a ≤ x.1 ∧ x.1 < a + n := by simp [memSlice]
  rw [denseBytes, denseFrom_eq (memSlice_wf h a n) n fun x hx => (inside.mp hx).2.1]
  refine readBytes_congr fun c lo hi => ?_
  by_cases listed : ∃ b, (c, b) ∈ m
  · obtain ⟨b, hb⟩ := listed
    rw [memRead_listed h hb, memRead_listed (memSlice_wf h a n) (inside.mpr ⟨hb, lo, hi⟩)]
  · have no (x : Nat × Byte) (hx : x ∈ m) (e : x.1 = c) : False := listed ⟨x.2, e ▸ hx⟩
    rw [memRead_unlisted fun x hx e => no x hx e, memRead_unlisted fun x hx e => no x (inside.mp hx).1 e]

/-- Bytes that are spliced in are read back. -/
theorem readBytes_memSplice {m : Mem} (h : m.wf = true) (a : Nat) (bs : List Byte) : readBytes (memSplice m a bs) a bs.length = bs := by
  refine List.ext_getElem (by simp) fun i hi hi' => ?_
  simp only [readBytes, List.getElem_map, List.getElem_range]
  rw [memRead_memSplice h, if_pos ⟨by omega, by omega⟩, Nat.add_sub_cancel_left, List.getD_eq_getElem _ _ hi']

theorem memRead_memSplice_outside {m : Mem} (h : m.wf = true) {a c : Nat} {bs : List Byte} (out : c < a ∨ a + bs.length ≤ c) :
    memRead (memSplice m a bs) c = memRead m c := by
  rw [memRead_memSplice h, if_neg (by omega)]

/-- A memory whose entries are chosen by address. -/
theorem memRead_filter (m : Mem) (q : Nat → Bool) (a : Nat) :
    memRead (m.filter fun c => q c.1) a = if q a then memRead m a else 0#8 := by
  induction m with
  | nil => simp
  | cons c t ih =>
    obtain ⟨k, v⟩ := c
    by_cases hk : k = a
    · subst hk; cases hq : q k <;> simp_all [memRead]
    · cases hq : q k <;> simp [hq, memRead, hk, ih]

theorem memRead_memClear (m : Mem) (lo len a : Nat) : memRead (memClear m lo len) a = if lo ≤ a ∧ a < lo + len then 0#8 else memRead m a := by
  rw [memClear, memRead_filter m (fun x => !(decide (lo ≤ x) && decide (x < lo + len)))]
  by_cases h : lo ≤ a ∧ a < lo + len
  · simp [h]
  · rw [if_neg h, if_pos (by simp only [Bool.not_eq_true', Bool.and_eq_false_iff, decide_eq_false_iff_not]; omega)]

theorem memRead_memSlice (m : Mem) (lo len a : Nat) : memRead (memSlice m lo len) a = if lo ≤ a ∧ a < lo + len then memRead m a else 0#8 := by
  rw [memSlice, memRead_filter m (fun x => decide (lo ≤ x) && decide (x < lo + len))]
  simp

/-- The entries of a memory written to another, at their distance from `src` to `dst`. -/
theorem memRead_movedEntries {l : Mem} (hl : l.wf = true) {n : Mem} (hn : n.wf = true) {src dst : Nat} (from_ : ∀ x ∈ l, src ≤ x.1) (a : Nat) :
    memRead (l.foldl (fun m c => memWrite m (c.1 - src + dst) c.2) n) a =
      if dst ≤ a ∧ memRead l (a - dst + src) ≠ 0#8 then memRead l (a - dst + src) else memRead n a := by
  induction l generalizing n with
  | nil => simp
  | cons c t ih =>
    obtain ⟨k, v⟩ := c
    obtain ⟨rise, nz⟩ := Mem.wf_iff.mp hl
    obtain ⟨above, rise⟩ := List.pairwise_cons.mp rise
    have hk : src ≤ k := from_ (k, v) (.head t)
    have unlisted : memRead t k = 0#8 := memRead_unlisted fun x hx e => by have := above x hx; simp only at this; omega
    rw [List.foldl_cons, ih (Mem.wf_iff.mpr ⟨rise, fun y hy => nz y (.tail _ hy)⟩) (memWrite_wf hn _ v) fun x hx => from_ x (.tail _ hx),
      memRead_memWrite hn]
    by_cases ha : a = k - src + dst
    · have at_ : a - dst + src = k := by omega
      have : v ≠ 0#8 := nz (k, v) (.head t)
      have lo : dst ≤ a := by omega
      rw [at_, unlisted, if_neg (fun x => x.2 rfl), if_pos ha, memRead, if_pos rfl, if_pos ⟨lo, this⟩]
    · rw [if_neg ha]
      by_cases lo : dst ≤ a
      · have : memRead ((k, v) :: t) (a - dst + src) = memRead t (a - dst + src) := by
          rw [memRead, if_neg]
          intro e
          have := from_ (k, v) (.head t)
          omega
        rw [this]
      · simp [lo]

/-- A range copied from one memory over a range of another. -/
theorem memRead_memCopy {m n : Mem} (hm : m.wf = true) (hn : n.wf = true) (src dst len a : Nat) :
    memRead (memCopy m src n dst len) a = if dst ≤ a ∧ a < dst + len then memRead m (a - dst + src) else memRead n a := by
  rw [memCopy, memRead_movedEntries (memSlice_wf hm src len) (memClear_wf hn dst len) fun x hx => by
    simp only [memSlice, List.mem_filter, Bool.and_eq_true, decide_eq_true_eq] at hx; exact hx.2.1]
  rw [memRead_memSlice, memRead_memClear]
  by_cases lo : dst ≤ a
  · by_cases hi : a < dst + len
    · rw [if_pos (c := src ≤ _ ∧ _) ⟨by omega, by omega⟩, if_pos (c := dst ≤ a ∧ a < _) ⟨lo, hi⟩, if_pos (c := dst ≤ a ∧ a < _) ⟨lo, hi⟩]
      by_cases z : memRead m (a - dst + src) = 0#8
      · simp [z]
      · simp [z, lo]
    · rw [if_neg (c := src ≤ _ ∧ _) (by omega), if_neg (c := dst ≤ a ∧ a < _) (by omega)]
      simp [show ¬ a < dst + len from hi]
  · simp [lo]

/-! ## The arena (O46; R266, R326)

An access to the arena writes back what the caches hold of its range and changes physical memory. A view of the machine that sees
neither the caches, nor memory, nor the writes on their way, nor the counters, is kept. -/

section Arena

variable {β : Type} (p : State → β)
  (h : ∀ (s : State) n w d l c t m z x o, p { s with
    nextId := n, writes := w, cdata := d, lines := l, copies := c, tlb := t, hbm := m, sealed := z, ctxs := x, out := o } = p s)
include h

theorem State.settleWrites_field (n : Nat) (s : State) : p (State.settleWrites n s) = p s := by
  induction n generalizing s with
  | zero => rfl
  | succ n ih =>
    rw [State.settleWrites]
    split
    · rfl
    · exact (ih _).trans (h s s.nextId _ _ _ s.copies s.tlb s.hbm s.sealed s.ctxs s.out)

theorem State.forceWrites_field (s : State) (tag : BitVec 16) (lo len : Nat) : p (s.forceWrites tag lo len) = p s :=
  (State.settleWrites_field p h _ _).trans (h s _ _ s.cdata s.lines s.copies s.tlb s.hbm s.sealed s.ctxs s.out)

theorem State.physWrite_field (s : State) (key pa : Nat) (bs : List Byte) : p (s.physWrite key pa bs) = p s := by
  unfold State.physWrite
  split
  · exact h s s.nextId s.writes s.cdata s.lines s.copies s.tlb _ s.sealed s.ctxs s.out
  · exact h s s.nextId s.writes s.cdata s.lines s.copies s.tlb _ _ s.ctxs s.out

theorem State.physPut_field (s : State) (key pa : Nat) (bs : List Byte) : p (s.physPut key pa bs) = p s := by
  unfold State.physPut
  split
  · exact h s s.nextId s.writes s.cdata s.lines s.copies s.tlb _ s.sealed s.ctxs s.out
  · exact State.physWrite_field p h s key pa bs

theorem State.writeBack_field (s : State) (l : Line) : p (s.writeBack l) = p s := by
  have lines (s : State) (ls : List Line) : p { s with lines := ls } = p s :=
    h s s.nextId s.writes s.cdata ls s.copies s.tlb s.hbm s.sealed s.ctxs s.out
  unfold State.writeBack
  split
  · refine (lines _ _).trans ((State.physWrite_field p h _ _ _ _).trans (State.countOf_keeps (fun s c x _ => ?_) (fun s o => ?_) s _ _ _ _))
    · exact h s s.nextId s.writes s.cdata s.lines s.copies s.tlb s.hbm s.sealed _ s.out
    · exact h s s.nextId s.writes s.cdata s.lines s.copies s.tlb s.hbm s.sealed s.ctxs o
  · rfl

theorem State.dropLines_field (ls : List Line) (s : State) : p (s.dropLines ls) = p s := by
  induction ls generalizing s with
  | nil => rfl
  | cons l ls ih =>
    have drop (s : State) : p (s.dropLine l) = p s :=
      h s s.nextId s.writes _ _ s.copies s.tlb s.hbm s.sealed s.ctxs s.out
    exact (ih _).trans ((drop _).trans (State.writeBack_field p h s l))

theorem State.flushTag_field (s : State) (tag : BitVec 16) (lo len : Nat) : p (s.flushTag tag lo len) = p s := by
  unfold State.flushTag
  extract_lets u hit t
  exact (h t t.nextId t.writes t.cdata t.lines _ _ t.hbm t.sealed t.ctxs t.out).trans
    ((State.dropLines_field p h _ u).trans (State.forceWrites_field p h s tag lo len))

theorem State.flushRange_field (s : State) (asid : BitVec 16) (lo len : Nat) : p (s.flushRange asid lo len) = p s :=
  (State.flushTag_field p h _ _ lo len).trans (State.flushTag_field p h s asid lo len)

/-- What a write to the arena keeps. -/
theorem State.writeArena_field (s : State) (c : Fin 17) (off : Nat) (bs : List Byte) : p (s.writeArena c off bs) = p s := by
  unfold State.writeArena
  dsimp only
  split
  · split
    · exact (State.physPut_field p h _ _ _ bs).trans (State.flushRange_field p h s _ _ _)
    · rfl
  · rfl
  · rfl

/-- What a read of the arena keeps. -/
theorem State.readArena_field {s t : State} {c : Fin 17} {off n : Nat} {bs : List Byte} (e : s.readArena c off n = some (bs, t)) :
    p t = p s := by
  unfold State.readArena at e
  dsimp only at e
  split at e
  · split at e
    · cases e; exact State.flushRange_field p h s _ _ _
    · cases e
  · cases e
  · cases e

end Arena

/-! ### The arena while nothing is on its way and no key is in use -/

/-- A walk sees the contexts and physical memory alone. -/
theorem State.walk_of_same {s t : State} (ctxs : t.ctxs = s.ctxs) (hbm : t.hbm = s.hbm) (sealed : t.sealed = s.sealed)
    (asid : BitVec 16) (va : Nat) : t.walk asid va = s.walk asid va := by
  have hc (c : Fin 17) : t.ctx c = s.ctx c := by rw [State.ctx, State.ctx, ctxs]
  have hw : t.tableWord = s.tableWord := by
    funext pa
    unfold State.tableWord State.physRead State.blockBytes State.sealOf
    rw [hbm, sealed]
  have ha : t.ctxOfAsid asid = s.ctxOfAsid asid := by simp only [State.ctxOfAsid, hc]
  simp only [State.walk, ha, hw, hc]

theorem State.arenaVa_of_same {s t : State} (ctxs : t.ctxs = s.ctxs) (c : Fin 17) (off : Nat) : t.arenaVa c off = s.arenaVa c off := by
  simp only [State.arenaVa, State.ctx, ctxs]

theorem State.asidOf_of_same {s t : State} (ctxs : t.ctxs = s.ctxs) (c : Fin 17) : t.asidOf c = s.asidOf c := by
  simp only [State.asidOf, State.ctx, ctxs]

/-- What a flush leaves where nothing is on its way: the TLBs and the copies of atomic reads lose entries. -/
theorem Settled.flushTag {s : State} (q : Settled s) (tag : BitVec 16) (lo len : Nat) :
    ∃ c t, s.flushTag tag lo len = { s with copies := c, tlb := t } := by
  have force : s.forceWrites tag lo len = s := by
    unfold State.forceWrites
    simp only [q.writes, List.zipIdx_nil, List.map_nil, List.length_nil, Nat.zero_add, Nat.add_zero]
    rw [State.settleWrites]
    simp only [List.find?_nil]
    rw [← q.writes]
  unfold State.flushTag
  rw [force]
  extract_lets u hit t
  have none_ : t = s := by
    unfold t; rw [q.lines]; rfl
  rw [none_]
  exact ⟨_, _, rfl⟩

theorem Settled.flushRange {s : State} (q : Settled s) (asid : BitVec 16) (lo len : Nat) :
    ∃ c t, s.flushRange asid lo len = { s with copies := c, tlb := t } := by
  obtain ⟨c, t, h⟩ := Settled.flushTag q asid lo len
  obtain ⟨c', t', h'⟩ := Settled.flushTag (s := { s with copies := c, tlb := t }) ⟨q.plain, q.lines, q.writes, q.wf⟩ 0#16 lo len
  exact ⟨c', t', by rw [State.flushRange, h, h']⟩

theorem Settled.keyOf {s : State} (q : Settled s) (asid : BitVec 16) : s.keyOf asid = 0 := by
  unfold State.keyOf
  split
  · exact q.plain.2 0
  · cases s.ctxOfAsid asid with
    | none => rfl
    | some c => exact q.plain.2 c

/-- A write to a page of the arena that is mapped for writing puts the bytes in place. -/
theorem Settled.writeArena {s : State} (q : Settled s) {c : Fin 17} {off : Nat} {e : Leaf} (bs : List Byte)
    (walk : s.walk (s.asidOf c) (s.arenaVa c off) = .leaf e) (w : e.w = true) :
    Settled (s.writeArena c off bs) ∧ (s.writeArena c off bs).ctxs = s.ctxs ∧
      (s.writeArena c off bs).hbm = memSplice s.hbm (e.frame + s.arenaVa c off % 2 ^ pageShift e.size) bs := by
  obtain ⟨x, t, flush⟩  := Settled.flushRange q (s.asidOf c) (s.arenaVa c off) bs.length
  have key := Settled.keyOf (s := { s with copies := x, tlb := t }) ⟨q.plain, q.lines, q.writes, q.wf⟩
  have eq : s.writeArena c off bs = { s with
      copies := x, tlb := t, hbm := memSplice s.hbm (e.frame + s.arenaVa c off % 2 ^ pageShift e.size) bs } := by
    unfold State.writeArena
    dsimp only
    rw [walk]
    dsimp only
    rw [if_pos w, flush, key, State.physPut, if_pos (by simp [q.plain.1])]
  rw [eq]
  exact ⟨⟨q.plain, q.lines, q.writes, memSplice_wf q.wf _ _⟩, rfl, rfl⟩

/-- A read of a page of the arena that is mapped for reading gives the bytes that stand there. -/
theorem Settled.readArena {s : State} (q : Settled s) {c : Fin 17} {off : Nat} {e : Leaf} (n : Nat)
    (walk : s.walk (s.asidOf c) (s.arenaVa c off) = .leaf e) (r : e.r = true) :
    ∃ x t, s.readArena c off n =
      some (readBytes s.hbm (e.frame + s.arenaVa c off % 2 ^ pageShift e.size) n, { s with copies := x, tlb := t }) := by
  obtain ⟨x, t, flush⟩  := Settled.flushRange q (s.asidOf c) (s.arenaVa c off) n
  have key := Settled.keyOf (s := { s with copies := x, tlb := t }) ⟨q.plain, q.lines, q.writes, q.wf⟩
  refine ⟨x, t, ?_⟩
  unfold State.readArena
  dsimp only
  rw [walk]
  dsimp only
  rw [if_pos r, flush, key, State.physGet, if_pos (by simp [q.plain.1]), denseBytes_eq q.wf]

end Sys2Proof.Machine

namespace Sys2Proof.Machine
open Claims

/-! ## The regang timeout (O46; R42) -/

/-- REGANG_TIMEOUT: the instance is closed where every slice that arrived still stands. -/
theorem regangTimeout {s : State} {r : RegangInst} (found : s.regangs.find? (fun x => x.id == r.id && x.timed) = some r)
    (here : ∀ a ∈ r.arrived, ∃ x ∈ s.slices, x.sid = a ∧ x.place = .resident) :
    exec (.regangTimeout r.id) s = .next (s.closeRegang r) := by
  show execRegangTimeout r.id s = _
  rw [execRegangTimeout, found]
  dsimp only
  rw [if_pos]
  refine List.all_eq_true.mpr fun a ha => List.any_eq_true.mpr ?_
  obtain ⟨x, hx, sid, place⟩ := here a ha
  exact ⟨x, hx, by simp [sid, place]⟩

/-! ## Staging (O46; R306) -/

section Staging

variable {β : Type} (p : State → β)
  (h : ∀ (s : State) n v c o i x y z, p { s with
    nodes := n, serving := v, ctxs := c, out := o, nextId := i, tsc := x, tscPause := y, ticks := z } = p s)
include h

/-- How far a wave entry has been staged is a matter of its node. -/
theorem State.setStaged_field (s : State) (core : Nat) (w : Word) (n : Option Nat) : p (s.setStaged core w n) = p s := by
  unfold State.setStaged
  extract_lets t
  have ht : p t = p s := State.modEntries_field p h s _ _
  split
  · unfold State.countStall
    exact (h _ _ t.serving t.ctxs t.out t.nextId t.tsc t.tscPause _).trans ((State.setNode_field p h t _).trans ht)
  · exact ht

end Staging

/-- STAGING_COPY: the segment is read and written to its place in the wave's share. -/
theorem stagingCopy {s t : State} {core n src dst : Nat} {e : Entry} {w : Word} {bs : List Byte} (up : (s.core core).retired = false)
    (runs : s.fab.copying = false) (entry : s.stagingEntry core = some (e, w, n))
    (piece : (stagingPieces (s.waveRecord w))[n]? = some (src, dst))
    (free : s.rangeHeld (coreDie core) (s.asidOf (s.ctxOfWave w)) src 4096 .r = false)
    (reads : s.readErr (coreDie core) (s.ctxOfWave w) src 4096 = .ok (bs, t)) :
    exec (.stagingCopy core) s = .next ((t.writeSpad core (((t.core core).share w).spad + dst) bs).setStaged core w
      (if n + 1 < (stagingPieces (s.waveRecord w)).length then some (n + 1) else none)) := by
  show execStagingCopy core s = _
  rw [execStagingCopy, if_neg (by simp [up, runs]), State.stage, entry]
  dsimp only
  rw [piece]
  dsimp only
  rw [if_neg (by simp [free]), reads]

/-! ## The restore of a presence (O46; R304, R305, R326) -/

/-- A fold that carries a state beside what it collects keeps what its steps keep. -/
theorem foldl_snd_keeps {σ τ α β : Type} (p : σ → β) (G : τ × σ → α → τ × σ) (h : ∀ t m, p (G t m).2 = p t.2) (ms : List α) (s : τ × σ) :
    p (ms.foldl G s).2 = p s.2 := foldl_keeps (fun t : τ × σ => p t.2) G h ms s

section Read

variable {β : Type} (p : State → β)
  (h : ∀ (s : State) n w d l c t m z x o, p { s with
    nextId := n, writes := w, cdata := d, lines := l, copies := c, tlb := t, hbm := m, sealed := z, ctxs := x, out := o } = p s)
include h

theorem State.readUnits_field (c : Fin 17) (us : List (Nat × List Byte)) (s : State) : p (s.readUnits c us).2 = p s := by
  unfold State.readUnits
  refine foldl_snd_keeps p _ (fun t u => ?_) us ([], s)
  split
  · next bs v e => exact State.readArena_field p h e
  · rfl

variable (hi : ∀ (s : State) sid bs, p ((s.modSlice sid fun sl => sl.ofImage bs).takeLinks sid bs) = p s)
include hi

theorem State.readImages_field (c : Fin 17) (is : List SavedSlice) (s : State) : p (s.readImages c is) = p s := by
  unfold State.readImages
  refine foldl_keeps p _ (fun t i => ?_) is s
  split
  · next bs u e => exact (hi u _ _).trans (State.readArena_field p h e)
  · rfl

theorem State.readPresence_field (hc : ∀ (s : State) l, p { s with cmds := l } = p s) (s : State) (q : Presence) :
    p (s.readPresence q).2 = p s := by
  unfold State.readPresence
  extract_lets us n k sh head cmds u t t' areas octs rest
  have units (c : Fin 17) (us : List (Nat × List Byte)) (s : State) := State.readUnits_field p h c us s
  calc p rest.2 = p octs.2 := units _ _ _
    _ = p areas.2 := by
      refine foldl_snd_keeps p _ (fun t o => ?_) _ _
      exact units _ _ t.2
    _ = p t' := by
      refine foldl_snd_keeps p _ (fun t o => ?_) _ _
      exact units _ _ t.2
    _ = p t := State.readImages_field p h hi _ _ t
    _ = p head.2 := hc _ _
    _ = p s := units _ _ s

end Read

/-- What an image does not hold of a slice: its name, where it stands, its wave. -/
def Slice.seat (x : Slice) : Nat × Place × Nat × Nat × Word := (x.sid, x.place, x.slot, x.core, x.wave)

/-- The seats of the slices. -/
def State.seats (s : State) : List (Nat × Place × Nat × Nat × Word) := s.slices.map Slice.seat

theorem State.takeImage_seats (s : State) (sid : Nat) (bs : List Byte) :
    ((s.modSlice sid fun sl => sl.ofImage bs).takeLinks sid bs).seats = s.seats := by
  show (s.slices.map _).map Slice.seat = s.slices.map Slice.seat
  rw [List.map_map]
  refine List.map_congr_left fun x _ => ?_
  simp only [Function.comp_apply]
  split <;> rfl

theorem State.readPresence_seats (s : State) (q : Presence) : (s.readPresence q).2.seats = s.seats :=
  State.readPresence_field State.seats (fun _ _ _ _ _ _ _ _ _ _ _ => rfl) State.takeImage_seats (fun _ _ => rfl) s q

theorem State.readPresence_cores (s : State) (q : Presence) : (s.readPresence q).2.cores = s.cores :=
  State.readPresence_field State.cores (fun _ _ _ _ _ _ _ _ _ _ _ => rfl) (fun _ _ _ => rfl) (fun _ _ => rfl) s q

/-- Slices that come back, by their seats. -/
theorem places_seated (l : List Slice) (back : Nat × Place × Nat × Nat × Word → Bool) (slot : Nat → Nat) :
    places (l.map fun x => if back x.seat then { x with place := .resident, slot := slot x.slot } else x) =
      (l.map Slice.seat).map fun y => if back y then (y.1, .resident, slot y.2.2.1) else (y.1, y.2.1, y.2.2.1) := by
  rw [places, List.map_map, List.map_map]
  refine List.map_congr_left fun x _ => ?_
  simp only [Function.comp_apply]
  split <;> rfl

/-- The core of a presence that comes back, with its shares in place. -/
def restoredCore (r : CoreRec) (p : Presence) (h : Share) : CoreRec :=
  let r := r.takeShare h
  { r with
    spad := memCopy p.spad 0 r.spad h.spad h.spadLen
    accm := memCopy p.accm 0 r.accm (2048 * h.acct) (2048 * h.acctLen)
    bdata := moveRows p.bdata 0 r.bdata h.rows h.rowsLen 96 fun j k => bAddr j k 0
    bside := moveRows p.bside 0 r.bside h.rows h.rowsLen 8 fun j k => sideAddr j k 0 }

/-- What the restore of a presence leaves of slices, cores and presences. -/
theorem State.restorePresence_view (s : State) (p : Presence) (h : Share) (m : List (Nat × Nat)) (entry : Nat) :
    let v := s.readPresence p
    let t := s.restorePresence p h m entry
    (t.slices, t.cores, t.presences) =
      (v.2.slices.map fun x => if x.core == p.core && x.wave == p.wave && x.place == .saved then
          { x with place := .resident, slot := 8 * octMap m x.oct + x.slot % 8 } else x,
       v.2.cores.setIfInBounds p.core (restoredCore (v.2.core p.core) v.1 h),
       v.2.presences.filter fun q => !(q.core == p.core && q.wave == p.wave)) := by
  intro v t
  unfold t State.restorePresence
  extract_lets q u r r' back sids seated done staged
  have areas : (fun s : State => (s.slices, s.cores, s.presences)) (q.areas.foldl (fun x a => match x.slice? a.1 with
    | some sl => x.writeArea sl a.2
    | none => x) staged) = (staged.slices, staged.cores, staged.presences) := by
    refine foldl_keeps (fun s : State => (s.slices, s.cores, s.presences)) _ (fun x a => ?_) q.areas staged
    split
    · exact State.writeArena_field (fun s : State => (s.slices, s.cores, s.presences)) (fun _ _ _ _ _ _ _ _ _ _ _ => rfl) x _ _ _
    · rfl
  refine areas.trans ((State.modEntries_field (fun s : State => (s.slices, s.cores, s.presences)) (fun _ _ _ _ _ _ _ _ _ => rfl) done _ _).trans ?_)
  rfl

/-- The scratchpad share of a presence that comes back. -/
theorem restoredCore_spad {r : CoreRec} {p : Presence} {h : Share} (hr : r.spad.wf = true) (hp : p.spad.wf = true) (a : Nat) :
    memRead (restoredCore r p h).spad a = if h.spad ≤ a ∧ a < h.spad + h.spadLen then memRead p.spad (a - h.spad) else memRead r.spad a := by
  show memRead (memCopy p.spad 0 (memClear r.spad h.spad h.spadLen) h.spad h.spadLen) a = _
  rw [memRead_memCopy hp (memClear_wf hr _ _), memRead_memClear]
  split <;> rfl

/-- A presence that a core can restore is one saved from it. -/
theorem canReturn_presence {s : State} {core : Nat} {e : Entry} {p : Presence} {h : Share} {m : List (Nat × Nat)} {i : Nat}
    (r : s.canReturn core e = some (.presence p h m i)) : p.core = core := by
  unfold State.canReturn at r
  split at r
  · simp only [Option.bind_eq_some_iff, Option.map_eq_some_iff] at r
    obtain ⟨_, _, _, _, r⟩ := r
    cases r
  · simp only [Option.bind_eq_some_iff, Option.map_eq_some_iff] at r
    obtain ⟨q, found, _, _, _, _, r⟩ := r
    cases r
    have := List.find?_some found
    simp only [Bool.and_eq_true, beq_iff_eq] at this
    exact this.1.1
  · cases r

/-- PRESENCE_RESTORE: the presence of the first return entry that can be restored comes back. -/
theorem presenceRestore {s : State} {core entry : Nat} {p : Presence} {h : Share} {m : List (Nat × Nat)}
    (next : s.nextReturn core = some (.presence p h m entry)) :
    p.core = core ∧ exec (.presenceRestore core) s = .next (s.restorePresence p h m entry) := by
  constructor
  · obtain ⟨e, _, r⟩ := List.exists_of_findSome?_eq_some next
    exact canReturn_presence r
  · show execPresenceRestore core s = _
    rw [execPresenceRestore, next]

/-- What PRESENCE_RESTORE leaves (R304, R305, R326). -/
theorem presenceRestored (s : State) (core entry : Nat) (p : Presence) (h : Share) (m : List (Nat × Nat))
    (next : s.nextReturn core = some (.presence p h m entry)) :
    let v := s.readPresence p
    ∃ t, exec (.presenceRestore core) s = .next t ∧ (∀ q ∈ t.presences, ¬ (q.core = p.core ∧ q.wave = p.wave)) ∧
      places t.slices = s.slices.map (fun x => if x.core == p.core && x.wave == p.wave && x.place == .saved then
        (x.sid, .resident, 8 * octMap m x.oct + x.slot % 8) else (x.sid, x.place, x.slot)) ∧
      (core < 192 → (s.core core).spad.wf = true → v.1.spad.wf = true →
        (∀ a, a < h.spadLen → memRead (t.core core).spad (h.spad + a) = memRead v.1.spad a) ∧
        ∀ a, a < h.spad ∨ h.spad + h.spadLen ≤ a → memRead (t.core core).spad a = memRead (s.core core).spad a) := by
  intro v
  obtain ⟨rfl, goes⟩ := presenceRestore next
  have view := s.restorePresence_view p h m entry
  simp only [Prod.mk.injEq] at view
  obtain ⟨slices, cores, presences⟩ := view
  refine ⟨_, goes, fun q hq => ?_, ?_, fun hk hs hv => ?_⟩
  · rw [presences, List.mem_filter] at hq
    simpa only [Bool.not_eq_true', Bool.and_eq_false_iff, beq_eq_false_iff_ne, not_and_or] using hq.2
  · rw [slices]
    refine (places_seated v.2.slices (fun y => y.2.2.2.1 == p.core && y.2.2.2.2 == p.wave && y.2.1 == .saved)
      fun n => 8 * octMap m (n / 8) + n % 8).trans ?_
    rw [show v.2.slices.map Slice.seat = s.slices.map Slice.seat from s.readPresence_seats p, List.map_map]
    rfl
  · have core : (s.restorePresence p h m entry).core p.core = restoredCore (s.core p.core) v.1 h := by
      have own : v.2.core p.core = s.core p.core := by rw [State.core, State.core, s.readPresence_cores p]
      have := State.core_setCore_same v.2 (restoredCore (s.core p.core) v.1 h) hk
      rw [← this, State.core, cores, own]
      rfl
    rw [core]
    constructor
    · intro a ha
      rw [restoredCore_spad hs hv, if_pos ⟨by omega, by omega⟩, Nat.add_sub_cancel_left]
    · intro a ha
      rw [restoredCore_spad hs hv, if_neg (by omega)]

end Sys2Proof.Machine

namespace Sys2Proof.Machine
open Claims

/-! ## Counts of pre-emptions at the nodes (O46; R300, R311) -/

theorem State.node_node (s : State) (j : BitVec 16) : (s.node j).node = j := by
  unfold State.node
  cases found : s.nodes.find? fun n => n.node == j with
  | none => rfl
  | some n => simpa using List.find?_some found

theorem State.node_setNode (s : State) (n : NodeRec) (j : BitVec 16) : (s.setNode n).node j = if j = n.node then n else s.node j := by
  unfold State.setNode State.node
  rw [List.find?_cons]
  by_cases e : j = n.node
  · simp [e]
  · have drop : (s.nodes.filter fun x => x.node != n.node).find? (fun x => x.node == j) = s.nodes.find? fun x => x.node == j := by
      rw [List.find?_filter]
      congr 1; funext x
      by_cases hx : x.node = j
      · simp [hx, e]
      · simp [hx]
    rw [if_neg e, show (n.node == j) = false from beq_false_of_ne (Ne.symm e)]
    exact congrArg (fun o : Option NodeRec => o.getD _) drop

/-- The pre-emptions counted at a node. -/
def State.preempts (s : State) (j : BitVec 16) : BitVec 48 := (s.node j).preempts

/-- A node that is replaced, its count kept. -/
theorem State.setNode_preempts (s : State) {n : NodeRec} (j : BitVec 16) (h : n.preempts = s.preempts n.node) :
    (s.setNode n).preempts j = s.preempts j := by
  rw [State.preempts, State.node_setNode]
  split
  · next e => rw [h, e]
  · rfl

/-- The test of a leaf counts at the leaf of an engine alone. -/
theorem State.testHead_preempts (s : State) (leaf : BitVec 16) {j : BitVec 16} (hj : leafEngine j = none) :
    (s.testHead leaf).preempts j = s.preempts j := by
  unfold State.testHead
  split
  · next e v _ engine =>
    split
    · split
      · extract_lets t n
        have ht : t.preempts j = s.preempts j := rfl
        split
        · by_cases same : j = leaf
          · subst same; rw [hj] at engine; cases engine
          · rw [State.preempts, State.node_setNode, if_neg (by rw [show n.node = leaf from t.node_node leaf]; exact same)]
            exact ht
        · exact ht
      · rfl
    · rfl
  · rfl

theorem State.countInsert_preempts (s : State) (node : BitVec 16) (k : EntryKind) (j : BitVec 16) :
    ((s.countInsert node k).tick).preempts j = s.preempts j :=
  State.countEvent_keeps (p := fun s => s.preempts j) (fun _ _ _ _ => rfl) (fun _ _ => rfl) s _ _ _ _

theorem State.testInsert_preempts (s : State) (leaf : BitVec 16) (id : Nat) {j : BitVec 16} (hj : leafEngine j = none) :
    (s.testInsert leaf id).preempts j = s.preempts j := by
  unfold State.testInsert; split
  · exact s.testHead_preempts leaf hj
  · rfl

/-- An entry that enters a node counts no pre-emption at a leaf without an engine. -/
theorem State.enterNode_preempts (s : State) (node : BitVec 16) (k : EntryKind) (f : BitVec 128) (t₀ : Option DWord) {j : BitVec 16}
    (hj : leafEngine j = none) : (s.enterNode node k f t₀).preempts j = s.preempts j := by
  unfold State.enterNode
  extract_lets t n t₁ r x u
  refine (u.testInsert_preempts _ _ hj).trans (Eq.trans ?_ (s.countInsert_preempts node k j))
  refine t.setNode_preempts j ?_
  rw [State.preempts]
  exact (congrArg (fun i => (t.node i).preempts) (t.node_node node)).symm

theorem State.enterAt_preempts (s : State) (node : BitVec 16) (k : EntryKind) (rank : BitVec 16) (f : BitVec 128) {j : BitVec 16}
    (hj : leafEngine j = none) : (s.enterAt node k rank f).preempts j = s.preempts j := by
  unfold State.enterAt
  extract_lets t n x u
  refine (u.testInsert_preempts _ _ hj).trans (Eq.trans ?_ (s.countInsert_preempts node k j))
  refine t.setNode_preempts j ?_
  rw [State.preempts]
  exact (congrArg (fun i => (t.node i).preempts) (t.node_node node)).symm

/-- The wave leaf of a core is of no engine that runs work of its own. -/
theorem leafEngine_waveLeaf {k : Nat} (h : k < 192) : leafEngine (waveLeaf k) = none := by
  have kind : nodeKind (waveLeaf k) = some (.wave k) := by
    have at_ : (waveLeaf k).toNat = 0x100 + 4 * k := by rw [waveLeaf, BitVec.toNat_ofNat]; omega
    unfold nodeKind
    rw [at_]
    dsimp only
    rw [if_neg (by omega), if_pos (by omega), show (0x100 + 4 * k - 0x100) % 4 = 0 by omega, show (0x100 + 4 * k - 0x100) / 4 = k by omega]
    rfl
  rw [leafEngine, kind]

/-! ## Entries that return to their leaves (O46; R45, R304, R311) -/

section Returns

variable {β : Type} (p : State → β)
  (enter : ∀ (s : State) leaf k f t, p (s.enterNode leaf k f t) = p s) (enterAt : ∀ (s : State) leaf k r f, p (s.enterAt leaf k r f) = p s)
  (pushed : ∀ (s : State) (a : Presence → Bool), p { s with presences := s.presences.map fun q => if a q then { q with pushed := true } else q } = p s)
  (parks : ∀ (s : State) l, p { s with parks := l } = p s)
include enter pushed

theorem State.pushPresence_field (s : State) (q : Presence) : p (s.pushPresence q) = p s := by
  unfold State.pushPresence
  dsimp only
  split
  · exact (enter _ _ _ _ _).trans (pushed s _)
  · rfl

include enterAt parks

theorem State.feedReturns_field (s : State) : p s.feedReturns = p s := by
  unfold State.feedReturns
  extract_lets t
  refine (foldl_keeps p _ (fun x q => State.pushPresence_field p enter pushed x q) _ t).trans ?_
  refine foldl_keeps p _ (fun x q => ?_) _ s
  dsimp only
  split
  · split
    · exact (enterAt _ _ _ _ _).trans (parks x _)
    · exact (enter _ _ _ _ _).trans (parks x _)
  · rfl

theorem State.returnVictim_field (s : State) (core : Nat) (w : Word) : p (s.returnVictim core w) = p s := by
  have feed := State.feedReturns_field p enter enterAt pushed parks
  unfold State.returnVictim
  split
  · exact (feed _).trans (State.pushPresence_field p enter pushed s _)
  · exact feed s

end Returns

/-- The presences, by their waves and cores. -/
def State.savedAt (s : State) : List (Word × Nat) := s.presences.map fun q => (q.wave, q.core)

/-- Marking entries as pushed does not move a presence. -/
theorem State.markPushed_savedAt (s : State) (a : Presence → Bool) :
    ({ s with presences := s.presences.map fun q => if a q then { q with pushed := true } else q } : State).savedAt = s.savedAt := by
  show (s.presences.map _).map _ = _
  rw [List.map_map]
  refine List.map_congr_left fun q _ => ?_
  simp only [Function.comp_apply]
  split <;> rfl

/-! ## A block that is placed (O46; R40) -/

section Place

variable {β : Type} (p : State → β)
  (enter : ∀ (s : State) leaf k f t, p (s.enterNode leaf k f t) = p s)
  (stand : ∀ (s : State) c l g w i, p { s with cores := c, slices := s.slices ++ l, gangs := g, waves := w, nextId := i } = p s)
include enter stand

theorem State.placeOn_field (s : State) (core : Nat) (w : Wave) (b : Block) (share : ∀ (s : State) c, p { s with cores := c } = p s) :
    p (s.placeOn core w b) = p s := by
  unfold State.placeOn
  extract_lets r oct n id t ids u
  have ht : p t = p s := by
    unfold t
    split
    · exact share s _
    · rfl
  have hu : p u = p s := (stand t t.cores _ _ _ _).trans ht
  split
  · exact hu
  · exact (enter u _ _ _ _).trans hu

end Place

/-! ## The save of a presence (O46; R311) -/

section Save

variable {β : Type} (p : State → β)
  (h : ∀ (s : State) n w d l c t m z x o, p { s with
    nextId := n, writes := w, cdata := d, lines := l, copies := c, tlb := t, hbm := m, sealed := z, ctxs := x, out := o } = p s)
include h

theorem State.writePresence_field (s : State) (q : Presence) : p (s.writePresence q) = p s := by
  unfold State.writePresence
  exact foldl_keeps p _ (fun x u => State.writeArena_field p h x _ _ _) _ s

/-- The areas of the slices of a presence, read one after another. -/
theorem State.readAreas_field (ms : List Slice) (acc : List (Nat × List Byte) × State) :
    p (ms.foldl (fun (acc : List (Nat × List Byte) × State) m =>
      let r := acc.2.readArea m
      (acc.1 ++ [(m.sid, r.1)], r.2)) acc).2 = p acc.2 := by
  refine foldl_snd_keeps p _ (fun acc m => ?_) ms acc
  show p (acc.2.readArea m).2 = p acc.2
  unfold State.readArea
  cases e : acc.2.readArena (acc.2.ctxOfWave m.wave) m.areaOff 512 with
  | none => rfl
  | some r => exact State.readArena_field p h (s := acc.2) e

variable (hp : ∀ (s : State) (a : Slice → Bool) (pc : DWord) (l : List Park), p { s with
  slices := s.slices.map fun m => if a m then { m with pc := pc } else m, parks := l } = p s)
include hp

theorem State.unissueParks_field (s : State) (core : Nat) (w : Word) : p (s.unissueParks core w) = p s := by
  unfold State.unissueParks
  extract_lets mine
  refine foldl_keeps p _ (fun x q => ?_) _ s
  exact (hp _ _ _ _).trans (foldl_keeps p _ (fun y i => State.writeArena_field p h y _ _ _) _ x)

end Save

/-- The names of the slices. -/
def State.sids (s : State) : List Nat := s.slices.map (·.sid)

/-- Taking a wave's work out of the leaves of a core counts nothing. -/
theorem State.pullEntries_preempts (s : State) (core : Nat) (w : Word) (j : BitVec 16) : (s.pullEntries core w).preempts j = s.preempts j := by
  unfold State.pullEntries
  extract_lets octs cids mine octMine cut at_ t
  have same (n : NodeRec) : (at_ n).node = n.node ∧ (at_ n).preempts = n.preempts := by
    unfold at_
    split
    · exact ⟨rfl, rfl⟩
    · split
      · exact ⟨rfl, rfl⟩
      · exact ⟨rfl, rfl⟩
  have names : ((fun n : NodeRec => n.node == j) ∘ at_) = fun n => n.node == j := by
    funext n; simp only [Function.comp_apply, (same n).1]
  show (((s.nodes.map at_).find? fun n => n.node == j).getD ⟨j, descReset j, [], 0#48, 0#48, 0#48, 0#48⟩).preempts =
    ((s.nodes.find? fun n => n.node == j).getD ⟨j, descReset j, [], 0#48, 0#48, 0#48, 0#48⟩).preempts
  rw [List.find?_map, names]
  cases s.nodes.find? fun n => n.node == j with
  | none => rfl
  | some n => exact (same n).2

theorem State.pullEntries_field {β : Type} (p : State → β) (h : ∀ (s : State) n v, p { s with nodes := n, serving := v } = p s) (s : State)
    (core : Nat) (w : Word) : p (s.pullEntries core w) = p s := by
  unfold State.pullEntries
  extract_lets octs cids mine octMine cut at_ t
  exact h s _ _

/-- The save of a presence leaves its image, counts no pre-emption, and its slices are saved. -/
theorem State.savePresence_view (s : State) (k : Nat) (w : Wave) :
    (w.num, k) ∈ (s.savePresence k w).savedAt ∧ (∀ j, (s.savePresence k w).preempts j = s.preempts j) ∧
      ∀ x ∈ s.presenceSlices k w.num, ∃ y, (s.savePresence k w).slice? x.sid = some y ∧ y.place = .saved := by
  unfold State.savePresence
  extract_lets gs t gangOfSid ids back u ms read img v r
  have flush {β : Type} (p : State → β) (h : ∀ s : State, ∀ o x, p { s with octets := o, ctxs := x } = p s) : p t = p s :=
    foldl_keeps p _ (fun x g => State.flushPoint_field p h x _ _) gs s
  have slices : t.slices = s.slices := flush State.slices fun _ _ _ => rfl
  have back_sid (x : Slice) : (back x).sid = x.sid := by unfold back; split <;> rfl
  have sids : v.sids = s.sids := by
    calc v.sids = read.2.sids := by
          refine (State.pullEntries_field State.sids (fun _ _ _ => rfl) _ _ _).trans
            ((State.unissueParks_field State.sids (fun _ _ _ _ _ _ _ _ _ _ _ => rfl) (fun s a pc l => ?_) _ _ _).trans
              (State.writePresence_field State.sids (fun _ _ _ _ _ _ _ _ _ _ _ => rfl) _ _))
          show (s.slices.map _).map (fun x : Slice => x.sid) = _
          rw [List.map_map]
          refine List.map_congr_left fun m _ => ?_
          simp only [Function.comp_apply]
          split <;> rfl
      _ = u.sids := State.readAreas_field State.sids (fun _ _ _ _ _ _ _ _ _ _ _ => rfl) ms ([], u)
      _ = s.sids := by
          show (t.slices.map back).map (fun x : Slice => x.sid) = _
          rw [List.map_map, slices]
          exact List.map_congr_left fun m _ => back_sid m
  refine ⟨?_, fun j => ?_, fun x hx => ?_⟩
  · show (w.num, k) ∈ (v.presences ++ [img]).map fun q => (q.wave, q.core)
    simp only [List.map_append, List.mem_append, List.map_cons, List.mem_cons]
    exact .inr (.inl rfl)
  · show v.preempts j = s.preempts j
    calc v.preempts j = read.2.preempts j :=
          (State.pullEntries_preempts _ _ _ j).trans
            ((State.unissueParks_field (fun s : State => s.preempts j) (fun _ _ _ _ _ _ _ _ _ _ _ => rfl) (fun _ _ _ _ => rfl) _ _ _).trans
              (State.writePresence_field (fun s : State => s.preempts j) (fun _ _ _ _ _ _ _ _ _ _ _ => rfl) _ _))
      _ = u.preempts j := State.readAreas_field (fun s : State => s.preempts j) (fun _ _ _ _ _ _ _ _ _ _ _ => rfl) ms ([], u)
      _ = s.preempts j := flush (fun s : State => s.preempts j) fun _ _ _ => rfl
  · have mine : ids.contains x.sid = true := by
      rw [List.contains_iff_mem]
      exact List.mem_map.mpr ⟨x, by rw [State.presenceSlices, slices]; exact hx, rfl⟩
    have here : x.sid ∈ v.sids := sids ▸ List.mem_map.mpr ⟨x, (List.mem_filter.mp hx).1, rfl⟩
    obtain ⟨y, hy, same⟩ := List.mem_map.mp here
    obtain ⟨z, found⟩ := Option.isSome_iff_exists.mp (List.find?_isSome (p := fun z : Slice => z.sid == x.sid) |>.mpr
      ⟨y, hy, by simpa using same⟩)
    have hz : z.sid = x.sid := by simpa using List.find?_some found
    refine ⟨{ z with place := .saved }, ?_, rfl⟩
    have kept : ((fun a : Slice => a.sid == x.sid) ∘ fun a => if ids.contains a.sid then { a with place := .saved } else a) =
        fun a => a.sid == x.sid := by
      funext a; simp only [Function.comp_apply]; split <;> rfl
    show (v.slices.map fun a => if ids.contains a.sid then { a with place := .saved } else a).find? (fun a => a.sid == x.sid) = _
    rw [List.find?_map, kept, found, Option.map_some, hz, if_pos mine]

/-! ## The pre-emption of a wave (O46; R300, R310, R311) -/

/-- WAVE_PREEMPTION, where the victim can be saved: its presence is saved, counted and its return entry pushed; the block is placed where
it can be now. -/
theorem wavePreemption {s : State} {dom : Fin 4} {w v : Wave} {b : Block} {k : Nat} {e : Entry} (hw : s.wave? w.num = some w)
    (low : w.lowBlock dom.val = some b) (isin : s.isIn w.ctx dom.val = true) (up : s.online.getLsbD dom.val = true)
    (full : ∀ j ∈ coresOf dom.val, s.canPlace j w = false) (pass : (coresOf dom.val).find? (fun j => s.wavePasses j w) = some k)
    (victim : s.victim k = some (v, e)) (ready : s.saveReady k v.num = true) :
    let t := ((s.savePresence k v).countPreempt (waveLeaf k)).returnVictim k v.num
    exec (.wavePreemption dom w.num) s = .next (if t.canPlace k w then t.placeOn k w b else t) := by
  intro t
  show execWavePreemption dom w.num s = _
  have none_ : (coresOf dom.val).any (fun k => s.canPlace k w) = false := by
    rw [List.any_eq_false]; intro j hj; rw [full j hj]; simp
  rw [execWavePreemption, hw]
  dsimp only
  rw [low]
  dsimp only
  rw [if_pos ⟨isin, up, by rw [none_]; rfl⟩, pass]
  dsimp only
  rw [victim]
  dsimp only
  rw [if_pos ready]

/-- What WAVE_PREEMPTION leaves of the victim. -/
theorem wavePreempted (s : State) (dom : Fin 4) (w v : Wave) (b : Block) (k : Nat) (e : Entry) (hw : s.wave? w.num = some w)
    (low : w.lowBlock dom.val = some b) (isin : s.isIn w.ctx dom.val = true) (up : s.online.getLsbD dom.val = true)
    (full : ∀ j ∈ coresOf dom.val, s.canPlace j w = false) (pass : (coresOf dom.val).find? (fun j => s.wavePasses j w) = some k)
    (victim : s.victim k = some (v, e)) (ready : s.saveReady k v.num = true) :
    ∃ t, exec (.wavePreemption dom w.num) s = .next t ∧ (∃ p ∈ t.presences, p.wave = v.num ∧ p.core = k) ∧
      (t.node (waveLeaf k)).preempts = (s.node (waveLeaf k)).preempts + 1#48 ∧
      ∀ x ∈ s.presenceSlices k v.num, ∃ y, t.slice? x.sid = some y ∧ y.place = .saved := by
  obtain ⟨saved, counts, places⟩ := s.savePresence_view k v
  have goes := wavePreemption hw low isin up full pass victim ready
  have hk : k < 192 := by
    obtain ⟨i, hi, rfl⟩ := List.mem_map.mp (List.mem_of_find?_eq_some pass)
    have := List.mem_range.mp hi
    omega
  have noEngine := leafEngine_waveLeaf hk
  let u := (s.savePresence k v).countPreempt (waveLeaf k)
  let t := u.returnVictim k v.num
  have treeSlices := State.returnVictim_field State.slices (fun s _ _ _ _ => State.enterNode_field State.slices (fun _ _ _ _ _ _ _ _ _ => rfl) s _ _ _ _)
    (fun s _ _ _ _ => State.enterAt_field State.slices (fun _ _ _ _ _ _ _ _ _ => rfl) s _ _ _ _) (fun _ _ => rfl) (fun _ _ => rfl) u k v.num
  have treeSaved := State.returnVictim_field State.savedAt
    (fun s _ _ _ _ => State.enterNode_field State.savedAt (fun _ _ _ _ _ _ _ _ _ => rfl) s _ _ _ _)
    (fun s _ _ _ _ => State.enterAt_field State.savedAt (fun _ _ _ _ _ _ _ _ _ => rfl) s _ _ _ _) State.markPushed_savedAt (fun _ _ => rfl) u k v.num
  have treeCounts := State.returnVictim_field (fun s => s.preempts (waveLeaf k)) (fun s _ _ _ _ => s.enterNode_preempts _ _ _ _ noEngine)
    (fun s _ _ _ _ => s.enterAt_preempts _ _ _ _ noEngine) (fun _ _ => rfl) (fun _ _ => rfl) u k v.num
  have counted : u.preempts (waveLeaf k) = s.preempts (waveLeaf k) + 1#48 := by
    rw [← counts]
    show ((s.savePresence k v).setNode _).preempts _ = _
    rw [State.preempts, State.node_setNode, if_pos (State.node_node _ _).symm]
    rfl
  have placed : ∃ l, (if t.canPlace k w then t.placeOn k w b else t).slices = t.slices ++ l := by
    split
    · exact ⟨_, (Prod.mk.inj (t.placeOn_view k w b)).1⟩
    · exact ⟨[], by simp⟩
  have savedAt : (if t.canPlace k w then t.placeOn k w b else t).savedAt = (s.savePresence k v).savedAt := by
    refine Eq.trans ?_ treeSaved
    split
    · exact State.placeOn_field State.savedAt (fun s _ _ _ _ => State.enterNode_field State.savedAt (fun _ _ _ _ _ _ _ _ _ => rfl) s _ _ _ _)
        (fun _ _ _ _ _ _ => rfl) t k w b fun _ _ => rfl
    · rfl
  have counted' : (if t.canPlace k w then t.placeOn k w b else t).preempts (waveLeaf k) = s.preempts (waveLeaf k) + 1#48 := by
    refine Eq.trans ?_ (treeCounts.trans counted)
    split
    · exact State.placeOn_field (fun s => s.preempts (waveLeaf k)) (fun s _ _ _ _ => s.enterNode_preempts _ _ _ _ noEngine)
        (fun _ _ _ _ _ _ => rfl) t k w b fun _ _ => rfl
    · rfl
  refine ⟨_, goes, ?_, counted', fun x hx => ?_⟩
  · obtain ⟨p, hp, same⟩ := List.mem_map.mp (savedAt ▸ saved)
    exact ⟨p, hp, (Prod.mk.inj same).1, (Prod.mk.inj same).2⟩
  · obtain ⟨l, hl⟩ := placed
    obtain ⟨y, hy, place⟩ := places x hx
    refine ⟨y, ?_, place⟩
    have found : t.slices.find? (fun z => z.sid == x.sid) = some y := (congrArg (List.find? _) treeSlices).trans hy
    rw [State.slice?, hl, List.find?_append, found, Option.some_or]

end Sys2Proof.Machine

namespace Sys2Proof.Machine
open Claims

/-! ## The return of a gang (O46; R45, R46, R191) -/

/-- A slice found by name, in a list whose slices have changed. -/
theorem findSid_map (l : List Slice) (f : Slice → Slice) (same : ∀ x, (f x).sid = x.sid) (b : Nat) :
    (l.map f).find? (fun x => x.sid == b) = (l.find? fun x => x.sid == b).map f := by
  have kept : ((fun x : Slice => x.sid == b) ∘ f) = fun x => x.sid == b := by
    funext x; simp only [Function.comp_apply, same]
  rw [List.find?_map, kept]

/-- A slice takes back what its image holds, where its page can be read. -/
def State.takeImage (s : State) (c : Fin 17) (i : SavedSlice) : State :=
  match s.readArena c (unitOff i.unit) 4096 with
  | some (bs, y) => (y.modSlice i.sid fun sl => sl.ofImage bs).takeLinks i.sid bs
  | none => s

theorem State.readImages_cons (s : State) (c : Fin 17) (i : SavedSlice) (is : List SavedSlice) :
    s.readImages c (i :: is) = (s.takeImage c i).readImages c is := rfl

theorem State.takeImage_of_read {s y : State} {c : Fin 17} {i : SavedSlice} {bs : List Byte}
    (e : s.readArena c (unitOff i.unit) 4096 = some (bs, y)) :
    s.takeImage c i = (y.modSlice i.sid fun sl => sl.ofImage bs).takeLinks i.sid bs := by
  rw [State.takeImage, e]

/-- The slices after an image is read: that of the image has what it holds. -/
theorem State.takeLinks_slice? (s : State) (sid : Nat) (bs : List Byte) (b : Nat) :
    ((s.modSlice sid fun sl => sl.ofImage bs).takeLinks sid bs).slice? b =
      (s.slice? b).map fun x => if x.sid == sid then x.ofImage bs else x :=
  findSid_map s.slices (fun x => if x.sid == sid then x.ofImage bs else x) (fun x => by split <;> rfl) b

/-- Images that are read change no slice but their own. -/
theorem State.readImages_slice? (c : Fin 17) {b : Nat} (is : List SavedSlice) (other : b ∉ is.map (·.sid)) (s : State) :
    (s.readImages c is).slice? b = s.slice? b := by
  induction is generalizing s with
  | nil => rfl
  | cons i is ih =>
    simp only [List.map_cons, List.mem_cons, not_or] at other
    rw [State.readImages_cons, ih other.2]
    unfold State.takeImage
    split
    · next bs y e =>
      have hy : y.slice? b = s.slice? b := State.readArena_field (fun s : State => s.slice? b) (fun _ _ _ _ _ _ _ _ _ _ _ => rfl) e
      rw [State.takeLinks_slice?, hy]
      cases found : s.slice? b with
      | none => rfl
      | some x =>
        have hx : x.sid = b := by simpa using List.find?_some found
        rw [Option.map_some, if_neg (by rw [hx]; simpa using other.1)]
    · rfl

/-- What stands in memory while images are read: nothing is on its way, and the contexts and memory are as they were. -/
structure Reads (s t : State) : Prop where
  settled : Settled t
  hbm : t.hbm = s.hbm
  ctxs : t.ctxs = s.ctxs

theorem Settled.takeImage {s : State} (q : Settled s) (c : Fin 17) (i : SavedSlice) : Reads s (s.takeImage c i) := by
  unfold State.takeImage
  split
  · next bs y e =>
    unfold State.readArena at e
    dsimp only at e
    split at e
    · split at e
      · obtain ⟨x, t, flush⟩ := Settled.flushRange q (s.asidOf c) (s.arenaVa c (unitOff i.unit)) 4096
        cases e
        rw [flush]
        exact ⟨⟨q.plain, q.lines, q.writes, q.wf⟩, rfl, rfl⟩
      · cases e
    · cases e
    · cases e
  · exact ⟨q, rfl, rfl⟩

theorem Reads.trans {s t u : State} (a : Reads s t) (b : Reads t u) : Reads s u := ⟨b.settled, b.hbm.trans a.hbm, b.ctxs.trans a.ctxs⟩

theorem Settled.readImages {s : State} (q : Settled s) (c : Fin 17) (is : List SavedSlice) : Reads s (s.readImages c is) := by
  induction is generalizing s with
  | nil => exact ⟨q, rfl, rfl⟩
  | cons i is ih =>
    have step := Settled.takeImage q c i
    rw [State.readImages_cons]
    exact Reads.trans step (ih step.settled)

/-- A slice whose image can be read takes what stands there. -/
theorem Settled.takeImage_slice? {s : State} (q : Settled s) {c : Fin 17} {i : SavedSlice} {x : Slice} {e : Leaf}
    (found : s.slice? i.sid = some x) (walk : s.walk (s.asidOf c) (s.arenaVa c (unitOff i.unit)) = .leaf e) (r : e.r = true) :
    (s.takeImage c i).slice? i.sid =
      some (x.ofImage (readBytes s.hbm (e.frame + s.arenaVa c (unitOff i.unit) % 2 ^ pageShift e.size) 4096)) := by
  obtain ⟨y, t, reads⟩ := Settled.readArena q 4096 walk r
  have hx : x.sid = i.sid := by simpa using List.find?_some found
  rw [State.takeImage_of_read reads, State.takeLinks_slice?]
  show (s.slice? i.sid).map _ = _
  rw [found, Option.map_some, if_pos (by simpa using hx)]

/-- Every slice of a list of images takes what its image holds. -/
theorem Settled.readImages_slice? {c : Fin 17} {i : SavedSlice} {x : Slice} {e : Leaf} {s : State} (is : List SavedSlice) (q : Settled s)
    (once : (is.map (·.sid)).Nodup) (hi : i ∈ is) (found : s.slice? i.sid = some x)
    (walk : s.walk (s.asidOf c) (s.arenaVa c (unitOff i.unit)) = .leaf e) (r : e.r = true) :
    (s.readImages c is).slice? i.sid =
      some (x.ofImage (readBytes s.hbm (e.frame + s.arenaVa c (unitOff i.unit) % 2 ^ pageShift e.size) 4096)) := by
  induction is generalizing s with
  | nil => cases hi
  | cons j is ih =>
    rw [List.map_cons, List.nodup_cons] at once
    obtain ⟨alone, once⟩ := once
    have step := Settled.takeImage q c j
    rw [State.readImages_cons]
    rcases List.mem_cons.mp hi with rfl | hi
    · rw [State.readImages_slice? c is alone]
      exact Settled.takeImage_slice? q found walk r
    · have other : i.sid ∉ [j].map (·.sid) := by
        simp only [List.map_cons, List.map_nil, List.mem_singleton]
        exact fun same => alone (same ▸ List.mem_map.mpr ⟨i, hi, rfl⟩)
      have va := State.arenaVa_of_same step.ctxs c (unitOff i.unit)
      rw [ih step.settled once hi ((State.readImages_slice? c [j] other s).trans found)
        (by rw [va, State.asidOf_of_same step.ctxs, State.walk_of_same step.ctxs step.hbm (step.settled.plain.1.trans q.plain.1.symm), walk]),
        va, step.hbm]

/-- GANG_RESTORE: the return entry leaves its leaf and the gang comes back. -/
theorem gangRestore {s : State} {core oct entry : Nat} {p : Park} (next : s.nextReturn core = some (.gang p oct entry)) :
    exec (.gangRestore core) s = .next ((s.dropEntry (waveLeaf core) entry).returnGang p oct) := by
  show execGangRestore core s = _
  rw [execGangRestore, next]

/-- A slice of a gang that comes back stands at its slot modulo 8 of the octet. -/
def Slice.seated (x : Slice) (oct : Nat) : Slice := { x with place := .resident, slot := 8 * oct + x.slot % 8 }

/-- What a gang that comes back waits for. -/
theorem GangWait.back_eq (w : GangWait) : w.back = match w with
    | .barw pc ws => if ws = [] then .ready else .barw pc ws
    | _ => .ready := by
  cases w with
  | barw pc ws => cases ws <;> rfl
  | ready => rfl
  | parked a b => rfl
  | regang a => rfl
  | held a => rfl
  | trap => rfl

/-- What GANG_RESTORE leaves (R45, R46, R191). -/
theorem gangRestored (s : State) (core oct entry : Nat) (p : Park) (next : s.nextReturn core = some (.gang p oct entry)) :
    ∃ t, exec (.gangRestore core) s = .next t ∧
      places t.slices = s.slices.map (fun x =>
        if p.gang.members.contains x.sid then (x.sid, .resident, 8 * oct + x.slot % 8) else (x.sid, x.place, x.slot)) ∧
      (∃ h ∈ t.gangs, h.members = p.gang.members ∧ h.octet = oct ∧ h.wait = match p.gang.wait with
        | .barw pc ws => if ws = [] then .ready else .barw pc ws
        | _ => .ready) ∧
      (∀ q ∈ t.parks, q.gang.gid ≠ p.gang.gid) ∧ t.cores = s.cores ∧
      (∀ b, b ∉ p.gang.members → b ∉ p.image.map (·.sid) → t.slice? b = s.slice? b) ∧
      (Settled s → t.hbm = s.hbm ∧ ((p.image.map (·.sid)).Nodup → ∀ i ∈ p.image, ∀ x e, s.slice? i.sid = some x →
        p.gang.members.contains i.sid = true → s.walk (s.asidOf p.ctx) (s.arenaVa p.ctx (unitOff i.unit)) = .leaf e → e.r = true →
        t.slice? i.sid = some { x.ofImage (readBytes s.hbm
          (e.frame + s.arenaVa p.ctx (unitOff i.unit) % 2 ^ pageShift e.size) 4096) with
            place := .resident, slot := 8 * oct + x.slot % 8 })) := by
  let d := s.dropEntry (waveLeaf core) entry
  let r := d.readImages p.ctx p.image
  let t := d.returnGang p oct
  have seats : r.seats = s.seats :=
    State.readImages_field State.seats (fun _ _ _ _ _ _ _ _ _ _ _ => rfl) State.takeImage_seats p.ctx p.image d
  have cores : r.cores = s.cores :=
    State.readImages_field State.cores (fun _ _ _ _ _ _ _ _ _ _ _ => rfl) (fun _ _ _ => rfl) p.ctx p.image d
  have slice (b : Nat) : t.slice? b = (r.slice? b).map fun x => if p.gang.members.contains x.sid then x.seated oct else x :=
    findSid_map r.slices (fun x => if p.gang.members.contains x.sid then x.seated oct else x) (fun x => by split <;> rfl) b
  refine ⟨t, gangRestore next, ?_, ⟨{ p.gang with octet := oct, wait := p.gang.wait.back, since := r.nextId, passed := 0 }, ?_, rfl, rfl,
    p.gang.wait.back_eq⟩, fun q hq => ?_, cores, fun b other img => ?_, fun q => ?_⟩
  · refine (places_seated r.slices (fun y => p.gang.members.contains y.1) fun n => 8 * oct + n % 8).trans ?_
    rw [show r.slices.map Slice.seat = s.slices.map Slice.seat from seats, List.map_map]
    rfl
  · exact List.mem_append_right _ (List.mem_singleton.mpr rfl)
  · simpa using (List.mem_filter.mp hq).2
  · rw [slice, show r.slice? b = s.slice? b from State.readImages_slice? p.ctx p.image img d]
    cases found : s.slice? b with
    | none => rfl
    | some x =>
      have hx : x.sid = b := by simpa using List.find?_some found
      rw [Option.map_some, if_neg (by rw [hx]; simpa using other)]
  · have qd : Settled d := ⟨q.plain, q.lines, q.writes, q.wf⟩
    refine ⟨(Settled.readImages qd p.ctx p.image).hbm, fun once i hi x e found mine walk reads => ?_⟩
    have hx : x.sid = i.sid := by simpa using List.find?_some found
    have took := Settled.readImages_slice? (c := p.ctx) p.image qd once hi found
      ((State.walk_of_same (s := s) (t := d) rfl rfl rfl _ _).trans walk) reads
    have seated (bs : List Byte) : (if p.gang.members.contains (x.ofImage bs).sid then (x.ofImage bs).seated oct else x.ofImage bs) =
        { x.ofImage bs with place := .resident, slot := 8 * oct + x.slot % 8 } :=
      if_pos (show p.gang.members.contains x.sid = true from hx ▸ mine)
    rw [slice, took, Option.map_some]
    exact congrArg some (seated _)

end Sys2Proof.Machine

namespace Sys2Proof.Machine
open Claims

/-! ## The swap-out of a gang (O46; R45, R46) -/

/-- The gang of a list that has waited longest, where it has waited longer than every other. -/
theorem longest_eq {g : Gang} {l : List Gang} (hg : g ∈ l) (most : ∀ x ∈ l, x = g ∨ g.since < x.since) : longest l = some g := by
  have fold (l : List Gang) (acc : Option Gang) (start : acc = some g ∨ g ∈ l) (hacc : ∀ h ∈ acc, h = g ∨ g.since < h.since)
      (most : ∀ x ∈ l, x = g ∨ g.since < x.since) : l.foldl (fun acc g => match acc with
        | none => some g
        | some h => if g.since < h.since then some g else some h) acc = some g := by
    induction l generalizing acc with
    | nil => exact start.resolve_right (fun h => nomatch h)
    | cons x l ih =>
      have hx := most x (.head l)
      have rest : ∀ y ∈ l, y = g ∨ g.since < y.since := fun y hy => most y (.tail _ hy)
      rw [List.foldl_cons]
      cases acc with
      | none =>
        refine ih _ ?_ (fun h hh => by cases hh; exact hx) rest
        rcases start with h | h
        · cases h
        · rcases List.mem_cons.mp h with rfl | h
          · exact .inl rfl
          · exact .inr h
      | some h =>
        have hh := hacc h rfl
        dsimp only
        split
        · next less =>
          refine ih _ ?_ (fun y hy => by cases hy; exact hx) rest
          rcases hx with rfl | hx
          · exact .inl rfl
          · rcases hh with rfl | hh
            · omega
            · rcases start with e | e
              · cases e; omega
              · rcases List.mem_cons.mp e with rfl | e
                · omega
                · exact .inr e
        · next less =>
          refine ih _ ?_ (fun y hy => by cases hy; exact hh) rest
          rcases hh with rfl | hh
          · exact .inl rfl
          · rcases start with e | e
            · cases e; omega
            · rcases List.mem_cons.mp e with rfl | e
              · omega
              · exact .inr e
  exact fold l none (.inr hg) (fun h hh => nomatch hh) most

/-! ### The units an image takes (log 15) -/

theorem State.takeUnits_nodup (s : State) (c : Fin 17) (n : Nat) : (s.takeUnits c n).Nodup :=
  ((List.nodup_range.filter _).sublist (List.take_sublist ..))

/-- Of as many units as are held and `n` more, `n` at least are free. -/
theorem State.takeUnits_length (s : State) (c : Fin 17) (n : Nat) : (s.takeUnits c n).length = n := by
  let used := s.unitsUsed c
  have held : ((List.range (used.length + n)).filter fun u => used.contains u).length ≤ used.length :=
    (List.subperm_of_subset (List.nodup_range.filter _) fun u hu => by simpa using (List.mem_filter.mp hu).2).length_le
  have all := List.length_eq_length_filter_add (l := List.range (used.length + n)) fun u => used.contains u
  rw [List.length_range] at all
  have free : n ≤ ((List.range (used.length + n)).filter fun u => !used.contains u).length := by omega
  rw [State.takeUnits, List.length_take]
  exact Nat.min_eq_left free

/-! ### The image of a slice -/

theorem padTo_length (n : Nat) (bs : List Byte) : (padTo n bs).length = max n bs.length := by
  simp only [padTo, List.length_append, List.length_replicate]; omega

theorem flatMap_length {α : Type} (l : List α) (f : α → List Byte) (n : Nat) (h : ∀ x ∈ l, (f x).length = n) :
    (l.flatMap f).length = n * l.length := by
  induction l with
  | nil => simp
  | cons x l ih =>
    rw [List.flatMap_cons, List.length_append, h x (.head l), ih fun y hy => h y (.tail _ hy), List.length_cons, Nat.mul_succ, Nat.add_comm]

theorem lanesBytes_length (l : Lanes) : (lanesBytes l).length = 16 := flatMap_length _ _ 4 fun _ _ => toBytes_length 4 _

section Lengths

variable {n : Nat}

theorem cellBytes_length (l : Vector SCell n) : (l.toList.flatMap fun c => toBytes 4 c.val.toNat).length = 4 * n := by
  rw [flatMap_length _ _ 4 fun _ _ => toBytes_length 4 _, Vector.length_toList]

theorem vectorBytes_length (l : Vector VCell n) : (l.toList.flatMap fun c => lanesBytes c.val).length = 16 * n := by
  rw [flatMap_length _ _ 16 fun _ _ => lanesBytes_length _, Vector.length_toList]

theorem laneRowsBytes_length (l : Vector Lanes n) : (l.toList.flatMap lanesBytes).length = 16 * n := by
  rw [flatMap_length _ _ 16 fun _ _ => lanesBytes_length _, Vector.length_toList]

end Lengths

theorem Slice.flagBytes_length (x : Slice) : x.flagBytes.length = 40 := by
  rw [Slice.flagBytes, List.length_append, toBytes_length, toBytes_length]

theorem Slice.smallBytes_length (x : Slice) : x.smallBytes.length = 8 := rfl

theorem Slice.stackBytes_length (x : Slice) (stack : x.stack.length ≤ 12) (sup : x.sup.length ≤ 4) : x.stackBytes.length = 192 := by
  have entries (l : List StackEntry) : (l.reverse.flatMap fun e => toBytes 12 e.word.toNat).length = 12 * l.length := by
    rw [flatMap_length _ _ 12 fun _ _ => toBytes_length 12 _, List.length_reverse]
  rw [Slice.stackBytes, List.length_append, padTo_length, padTo_length, entries, entries]
  omega

/-- An image is 2,432 bytes where the stacks are within their bounds. -/
theorem Slice.imageBytes_length (x : Slice) (stack : x.stack.length ≤ 12) (sup : x.sup.length ≤ 4) : x.imageBytes.length = 2432 := by
  unfold Slice.imageBytes
  repeat rw [List.length_append]
  rw [vectorBytes_length, vectorBytes_length, laneRowsBytes_length, cellBytes_length, cellBytes_length, x.flagBytes_length, List.length_map,
    Vector.length_toList, x.smallBytes_length, x.stackBytes_length stack sup]
  repeat rw [toBytes_length]

theorem State.regangBytes_length (s : State) (sid : Nat) : (s.regangBytes sid).length = 16 := by
  unfold State.regangBytes
  split
  · simp
  · exact toBytes_length 16 0

theorem Txn.waitBytes_length (t : Txn) (sid : Nat) : (t.waitBytes sid).length = 16 := by
  unfold Txn.waitBytes
  extract_lets reg addr
  split <;> simp

theorem State.waitsBytes_length (s : State) (sid : Nat) : (s.waitsBytes sid).length = 1024 := by
  rw [State.waitsBytes, padTo_length, flatMap_length _ _ 16 fun t _ => t.waitBytes_length sid, List.length_take]
  omega

/-! ### The images in memory -/

/-- Memory holds the image of a slice at a place: its registers and control state, its open instance, its armed waits. -/
structure Holds (s : State) (m : Mem) (at_ : Nat) (x : Slice) : Prop where
  image : readBytes m at_ (x.imageBytes ++ s.regangBytes x.sid).length = x.imageBytes ++ s.regangBytes x.sid
  waits : readBytes m (at_ + waitsOff) 1024 = s.waitsBytes x.sid

/-- A state in which images are being written: nothing is on its way, and all but memory that an image depends on is as it was. -/
structure Writes (s t : State) : Prop where
  settled : Settled t
  ctxs : t.ctxs = s.ctxs
  regangs : t.regangs = s.regangs
  txns : t.txns = s.txns

theorem Holds.congr {s : State} {m m' : Mem} {at_ : Nat} {x : Slice} (h : Holds s m at_ x) (fits : x.imageBytes.length ≤ 2432)
    (same : ∀ a, at_ ≤ a → a < at_ + 4096 → memRead m' a = memRead m a) : Holds s m' at_ x := by
  have short : (x.imageBytes ++ s.regangBytes x.sid).length ≤ 2448 := by
    rw [List.length_append, s.regangBytes_length]; omega
  constructor
  · exact (readBytes_congr fun c lo hi => same c lo (by omega)).trans h.image
  · exact (readBytes_congr fun c lo hi => same c (by omega) (by simp only [waitsOff] at hi; omega)).trans h.waits

/-- What a walk to a unit of the arena ends in, whatever the units hold. -/
def Mapped (s t : State) (c : Fin 17) (unit pa : Nat) : Prop :=
  ∀ k, k = 0 ∨ k = waitsOff → ∃ e, t.walk (s.asidOf c) (s.arenaVa c (unitOff unit) + k) = .leaf e ∧
    e.w = true ∧ e.frame + (s.arenaVa c (unitOff unit) + k) % 2 ^ pageShift e.size = pa + k

/-- A write to a unit of the arena. -/
theorem Writes.writeArena {s t : State} (h : Writes s t) {c : Fin 17} {unit pa k : Nat} (hk : k = 0 ∨ k = waitsOff) (bs : List Byte)
    (mapped : Mapped s t c unit pa) :
    Writes s (t.writeArena c (unitOff unit + k) bs) ∧ (t.writeArena c (unitOff unit + k) bs).hbm = memSplice t.hbm (pa + k) bs := by
  obtain ⟨e, walk, w, at_⟩ := mapped k hk
  have va : t.arenaVa c (unitOff unit + k) = s.arenaVa c (unitOff unit) + k := by
    rw [State.arenaVa_of_same h.ctxs, State.arenaVa, State.arenaVa, Nat.add_assoc]
  obtain ⟨settled, ctxs, hbm⟩ := Settled.writeArena h.settled (off := unitOff unit + k) (c := c) bs
    (by rw [va, State.asidOf_of_same h.ctxs]; exact walk) w
  refine ⟨⟨settled, ctxs.trans h.ctxs, ?_, ?_⟩, ?_⟩
  · exact (State.writeArena_field State.regangs (fun _ _ _ _ _ _ _ _ _ _ _ => rfl) t c _ bs).trans h.regangs
  · exact (State.writeArena_field State.txns (fun _ _ _ _ _ _ _ _ _ _ _ => rfl) t c _ bs).trans h.txns
  · rw [hbm, va, at_]

/-- A slice that is saved: its unit holds its image, and no byte beyond the unit changes. -/
theorem Writes.saveSlice {s t : State} (h : Writes s t) {c : Fin 17} {unit pa : Nat} {x : Slice} (fits : x.imageBytes.length ≤ 2432)
    (mapped : ∀ u : State, Writes s u → (∀ a, a < pa ∨ pa + 4096 ≤ a → memRead u.hbm a = memRead t.hbm a) → Mapped s u c unit pa) :
    Writes s (t.saveSlice c unit x) ∧ Holds s (t.saveSlice c unit x).hbm pa x ∧
      ∀ a, a < pa ∨ pa + 4096 ≤ a → memRead (t.saveSlice c unit x).hbm a = memRead t.hbm a := by
  have regang : t.regangBytes x.sid = s.regangBytes x.sid := by rw [State.regangBytes, State.regangBytes, h.regangs]
  have waits : t.waitsBytes x.sid = s.waitsBytes x.sid := by rw [State.waitsBytes, State.waitsBytes, State.waitsOf, State.waitsOf, h.txns]
  let bs := x.imageBytes ++ s.regangBytes x.sid
  have short : bs.length ≤ 2448 := by
    rw [List.length_append, s.regangBytes_length]; omega
  have first := h.writeArena (.inl rfl) bs (mapped t h fun _ _ => rfl)
  simp only [Nat.add_zero] at first
  obtain ⟨h₁, m₁⟩ := first
  have out₁ (a : Nat) (ha : a < pa ∨ pa + 4096 ≤ a) : memRead (t.writeArena c (unitOff unit) bs).hbm a = memRead t.hbm a := by
    rw [m₁]
    exact memRead_memSplice_outside h.settled.wf (by omega)
  obtain ⟨h₂, m₂⟩ := h₁.writeArena (.inr rfl) (s.waitsBytes x.sid) (mapped _ h₁ out₁)
  have eq : t.saveSlice c unit x = (t.writeArena c (unitOff unit) bs).writeArena c (unitOff unit + waitsOff) (s.waitsBytes x.sid) := by
    rw [State.saveSlice, regang, waits]
  have long := s.waitsBytes_length x.sid
  have far : waitsOff = 3072 := rfl
  rw [eq]
  refine ⟨h₂, ⟨?_, ?_⟩, fun a ha => ?_⟩
  · rw [m₂]
    refine (readBytes_congr fun a lo (hi : a < pa + bs.length) => memRead_memSplice_outside h₁.settled.wf (by omega)).trans ?_
    rw [m₁]
    exact readBytes_memSplice h.settled.wf _ bs
  · rw [m₂]
    conv_lhs => rw [← long]
    exact readBytes_memSplice h₁.settled.wf _ _
  · rw [m₂, memRead_memSplice_outside h₁.settled.wf (by omega)]
    exact out₁ a ha

/-- The images of a list of slices, each in a unit of its own that stands apart from the others. -/
theorem Writes.saveSlices {s : State} (q : Settled s) {c : Fin 17} {pa : Nat → Nat} {units : List Nat} (placed : Placed s c units pa) (l : List (Slice × Nat))
    {t : State} (h : Writes s t) (here : ∀ m ∈ l, m.2 ∈ units) (once : (l.map (·.2)).Nodup) (fits : ∀ m ∈ l, m.1.imageBytes.length ≤ 2432)
    (out : ∀ a, (∀ n ∈ units, a < pa n ∨ pa n + 4096 ≤ a) → memRead t.hbm a = memRead s.hbm a) :
    let u := l.foldl (fun x m => x.saveSlice c m.2 m.1) t
    (∀ m ∈ l, Holds s u.hbm (pa m.2) m.1) ∧ ∀ a, (∀ m ∈ l, a < pa m.2 ∨ pa m.2 + 4096 ≤ a) → memRead u.hbm a = memRead t.hbm a := by
  induction l generalizing t with
  | nil => exact ⟨fun m hm => (nomatch hm), fun _ _ => rfl⟩
  | cons m l ih =>
    rw [List.map_cons, List.nodup_cons] at once
    have unit := here m (.head l)
    have mapped (u : State) (hu : Writes s u) (same : ∀ a, a < pa m.2 ∨ pa m.2 + 4096 ≤ a → memRead u.hbm a = memRead t.hbm a) :
        Mapped s u c m.2 (pa m.2) := by
      intro k hk
      obtain ⟨e, walk, rest⟩ := placed.walks u.hbm (fun a ha => (same a (ha m.2 unit)).trans (out a ha)) m.2 unit k hk
      exact ⟨e, (State.walk_of_same (s := { s with hbm := u.hbm }) (t := u) hu.ctxs rfl
        (hu.settled.plain.1.trans q.plain.1.symm) _ _).trans walk, rest⟩
    obtain ⟨saved, holds, apart⟩ := h.saveSlice (fits m (.head l)) mapped
    obtain ⟨all, beyond⟩ := ih saved (fun x hx => here x (.tail _ hx)) once.2 (fun x hx => fits x (.tail _ hx))
      (fun a ha => (apart a (ha m.2 unit)).trans (out a ha))
    refine ⟨fun x hx => ?_, fun a ha => ?_⟩
    · rcases List.mem_cons.mp hx with rfl | hx
      · refine holds.congr (fits x (.head l)) fun a lo hi => beyond a fun y hy => ?_
        have other : x.2 ≠ y.2 := fun e => once.1 (e ▸ List.mem_map.mpr ⟨y, hy, rfl⟩)
        have := placed.apart x.2 unit y.2 (here y (.tail _ hy)) other
        omega
      · exact all x hx
    · exact (beyond a fun y hy => ha y (.tail _ hy)).trans (apart a (ha m (.head l)))

/-! ### The step GANG_SWAP_OUT -/

/-- The slices of a gang with the units of their images. -/
def State.swapImages (s : State) (g : Gang) : List (Slice × Nat) :=
  (s.membersOf g).zip (s.takeUnits (s.ctxOfWave (((s.membersOf g).head?.map (·.wave)).getD 0#32)) (s.membersOf g).length)

/-- The machine with the images of a gang written. -/
def State.imaged (s : State) (g : Gang) : State :=
  (s.swapImages g).foldl (fun x m => x.saveSlice (s.ctxOfWave (((s.membersOf g).head?.map (·.wave)).getD 0#32)) m.2 m.1) s

theorem State.imaged_field {β : Type} (p : State → β) (h : ∀ (s : State) n w d l c t m z x o, p { s with
    nextId := n, writes := w, cdata := d, lines := l, copies := c, tlb := t, hbm := m, sealed := z, ctxs := x, out := o } = p s)
    (s : State) (g : Gang) : p (s.imaged g) = p s :=
  foldl_keeps p _ (fun t _ => (State.writeArena_field p h _ _ _ _).trans (State.writeArena_field p h t _ _ _)) _ s

/-- A member of a gang is the slice of its name. -/
theorem State.slice?_of_member {s : State} {g : Gang} {m : Slice} (h : m ∈ s.membersOf g) : s.slice? m.sid = some m := by
  obtain ⟨id, _, found⟩ := List.mem_filterMap.mp (List.mem_filter.mp h).1
  have : m.sid = id := by simpa using List.find?_some found
  rw [this, found]

/-- GANG_SWAP_OUT: the gang that has been parked longest is swapped out; its octet's queue is empty, so that there is nothing to flush. -/
theorem gangSwapOut {s : State} {g : Gang} (hg : g ∈ s.gangs) (may : s.maySwap g = true)
    (most : ∀ x ∈ s.gangs, x.core = g.core → x.octet = g.octet → s.maySwap x = true → x = g ∨ g.since < x.since) :
    exec (.gangSwapOut g.core g.octet) s = .next (s.swapOut g) := by
  have idle : s.flushPoint g.core g.octet = s := by
    have queue : (s.octet g.core g.octet).queue = [] := by
      simp only [State.maySwap, Bool.and_eq_true, List.isEmpty_iff] at may
      exact may.1.2
    rw [State.flushPoint, queue]
    rfl
  show execGangSwapOut g.core g.octet s = _
  rw [execGangSwapOut, longest_eq (g := g)]
  · dsimp only
    rw [idle]
  · simp [hg, may]
  · intro x hx
    simp only [List.mem_filter, Bool.and_eq_true, beq_iff_eq] at hx
    exact most x hx.1 hx.2.1.1 hx.2.1.2 hx.2.2

/-- What GANG_SWAP_OUT leaves (R45, R46). -/
theorem gangSwappedOut (s : State) (core octet : Nat) (g : Gang) (hg : g ∈ s.gangs) (hk : g.core = core) (ho : g.octet = octet)
    (may : s.maySwap g = true)
    (most : ∀ x ∈ s.gangs, x.core = core → x.octet = octet → s.maySwap x = true → x = g ∨ g.since < x.since) :
    ∃ t p, exec (.gangSwapOut core octet) s = .next t ∧ t.gangs = s.gangs.filter (fun x => x.gid != g.gid) ∧ t.parks = s.parks ++ [p] ∧
      p.gang = g ∧ p.image.map (·.sid) = (s.membersOf g).map (·.sid) ∧
      t.slices = s.slices.map (fun x => if g.members.contains x.sid then { x with place := .swapped } else x) ∧ t.cores = s.cores ∧
      ∀ pa, Settled s → Placed s p.ctx (p.image.map (·.unit)) pa →
        (∀ x ∈ s.membersOf g, x.stack.length ≤ 12 ∧ x.sup.length ≤ 4) →
        (∀ i ∈ p.image, ∀ x, s.slice? i.sid = some x →
          let bs := x.imageBytes ++ s.regangBytes x.sid
          readBytes t.hbm (pa i.unit) bs.length = bs ∧ readBytes t.hbm (pa i.unit + waitsOff) 1024 = s.waitsBytes x.sid) ∧
        ∀ a, (∀ i ∈ p.image, a < pa i.unit ∨ pa i.unit + 4096 ≤ a) → memRead t.hbm a = memRead s.hbm a := by
  subst hk ho
  let w := ((s.membersOf g).head?.map (·.wave)).getD 0#32
  let c := s.ctxOfWave w
  let us := s.takeUnits c (s.membersOf g).length
  let l := s.swapImages g
  have members : l.map (·.1) = s.membersOf g := List.map_fst_zip (Nat.le_of_eq (s.takeUnits_length c _).symm)
  have units : l.map (·.2) = us := List.map_snd_zip (Nat.le_of_eq (s.takeUnits_length c _))
  refine ⟨s.swapOut g, ⟨g, c, w, s.parkEntry g ((s.ctx c).save + BitVec.ofNat 64 (unitOff (us.getD 0 0))),
    l.map fun m => ⟨m.1.sid, m.2, m.1.shown⟩, false⟩, gangSwapOut hg may most, ?_, ?_, rfl, ?_, ?_, ?_, fun pa q placed bound => ?_⟩
  · exact congrArg (List.filter _) (State.imaged_field State.gangs (fun _ _ _ _ _ _ _ _ _ _ _ => rfl) s g)
  · exact congrArg (· ++ _) (State.imaged_field State.parks (fun _ _ _ _ _ _ _ _ _ _ _ => rfl) s g)
  · rw [← members, List.map_map, List.map_map]
    rfl
  · exact congrArg (List.map _) (State.imaged_field State.slices (fun _ _ _ _ _ _ _ _ _ _ _ => rfl) s g)
  · exact State.imaged_field State.cores (fun _ _ _ _ _ _ _ _ _ _ _ => rfl) s g
  · have unitsOf : (l.map fun m => (⟨m.1.sid, m.2, m.1.shown⟩ : SavedSlice)).map (·.unit) = us := by
      rw [← units, List.map_map]; rfl
    have placed' : Placed s c us pa := unitsOf ▸ placed
    have member (m : Slice × Nat) (hm : m ∈ l) : m.1 ∈ s.membersOf g := members ▸ List.mem_map.mpr ⟨m, hm, rfl⟩
    obtain ⟨holds, out⟩ := Writes.saveSlices q placed' l ⟨q, rfl, rfl, rfl⟩ (fun m hm => units ▸ List.mem_map.mpr ⟨m, hm, rfl⟩)
      (units ▸ s.takeUnits_nodup c _)
      (fun m hm => Nat.le_of_eq (m.1.imageBytes_length (bound _ (member m hm)).1 (bound _ (member m hm)).2)) fun _ _ => rfl
    refine ⟨fun i hi x found => ?_, fun a ha => out a fun m hm => ha _ (List.mem_map.mpr ⟨m, hm, rfl⟩)⟩
    obtain ⟨m, hm, rfl⟩ := List.mem_map.mp hi
    obtain rfl : m.1 = x := Option.some.inj ((State.slice?_of_member (member m hm)).symm.trans found)
    exact ⟨(holds m hm).image, (holds m hm).waits⟩

end Sys2Proof.Machine

namespace Sys2Proof.Machine
open Claims

/-! ## The steps that move gangs and presences (O46) -/

/-- Settles O46: each of the six steps by what its operation leaves. -/
theorem gangSteps : Obligations.GangSteps := by
  refine ⟨fun s r found here => ?_, gangSwappedOut, gangRestored, fun s dom w v b k e hw low isin up full pass victim ready _ =>
    wavePreempted s dom w v b k e hw low isin up full pass victim ready, presenceRestored,
    fun s t core n src dst e w bs up hk runs entry piece free reads wf => ?_⟩
  · intro stand
    refine ⟨_, regangTimeout found here, fun x hx => ?_, s.closeRegang_slices r, fun x hx => s.closeRegang_forms r hx⟩
    rw [State.closeRegang_regangs, List.mem_filter] at hx
    simpa using hx.2
  · let a := ((t.core core).share w).spad + dst
    have staged {β : Type} (p : State → β) (h : ∀ (s : State) n v c o i x y z, p { s with
        nodes := n, serving := v, ctxs := c, out := o, nextId := i, tsc := x, tscPause := y, ticks := z } = p s) (n) :
        p ((t.writeSpad core a bs).setStaged core w n) = p (t.writeSpad core a bs) := State.setStaged_field p h _ _ _ _
    refine ⟨_, stagingCopy up runs entry piece free reads, ?_, staged State.slices (fun _ _ _ _ _ _ _ _ _ => rfl) _,
      staged State.hbm (fun _ _ _ _ _ _ _ _ _ => rfl) _⟩
    rw [staged (fun s => s.core core) (fun _ _ _ _ _ _ _ _ _ => rfl), State.writeSpad, State.core_setCore_same t _ hk]
    exact readBytes_writeBytes wf _ bs

end Sys2Proof.Machine

namespace Sys2Proof.Machine
open Claims

/-! ## Instructions that change only their own slices (R33, R51) -/

/-! ### What a write to a slice leaves alone -/

section Writes

variable (x : Slice)

@[simp] theorem Slice.setCell_sid (r : RegName) (v : Word) : (x.setCell r v).sid = x.sid := by cases r <;> rfl
@[simp] theorem Slice.setCell_stepping (r : RegName) (v : Word) : (x.setCell r v).stepping = x.stepping := by cases r <;> rfl
@[simp] theorem Slice.setS_sid (d : SReg) (v : Word) : (x.setS d v).sid = x.sid := Slice.setCell_sid ..
@[simp] theorem Slice.setS_stepping (d : SReg) (v : Word) : (x.setS d v).stepping = x.stepping := Slice.setCell_stepping ..
@[simp] theorem Slice.setPair_sid (d : SPairReg) (v : DWord) : (x.setPair d v).sid = x.sid := by simp [Slice.setPair]
@[simp] theorem Slice.setPair_stepping (d : SPairReg) (v : DWord) : (x.setPair d v).stepping = x.stepping := by simp [Slice.setPair]
@[simp] theorem Slice.setFull_stepping (r : RegName) (b : Bool) : (x.setFull r b).stepping = x.stepping := by cases r <;> rfl

@[simp] theorem moved_stepping (e : Effect) (c : Cur) (m : Slice) : (moved e c m).stepping = m.stepping := by
  unfold moved
  split <;> simp

end Writes

/-! ### Completing with its effect -/

section Effect

variable {i : Instr} {e : Effect} {s : State} {k : Issue} {c : Cur} {g : Gang} {ms : List Slice} (hi : Issuing s c g ms)
include hi

/-- An instruction that nothing holds and that changes each member in which it acts by itself, as its effect says, completes with that
effect and changes nothing beyond the slices. The change may read the machine once all members have moved on. -/
theorem Completes.of_slices {hold : Cur → List Slice → State → Bool} {f : Cur → State → Slice → Slice → Slice}
    (hx : exec i s = .next (s.issue k hold fun c l t => l.foldl (fun x m => x.modSlice m.sid (f c t m)) t))
    (hacts : k.kind.acts = e.acts) (huses : k.srcs = e.uses) (hc : ∀ m ∈ ms, k.clear c m) (hh : hold c (ms.filter e.acts) s = false)
    (sid : ∀ t m x, (f c t m x).sid = x.sid) (stepping : ∀ t m x, (f c t m x).stepping = x.stepping)
    (hn : ∀ m ∈ ms, e.acts m = true → f c (s.advance k c ms) m (moved e c m) = e.next s c ms m (moved e c m))
    (hidle : ∀ m sl, idle i ms m sl = sl) : Completes i e Claims.quiet s c ms := by
  let t := s.advance k c ms
  have keeps {β : Type} (p : State → β) (h : ∀ (u : State) x, p { u with slices := x } = p u) :
      p ((ms.filter e.acts).foldl (fun x m => x.modSlice m.sid (f c t m)) t) = p t :=
    State.modSlices_field p h (·.sid) (f c t) _ t
  refine Completes.of_issue (F := f c t) hi hx hacts huses hc hh (sid t) (slices_foldl _ _ _ (fun _ _ => rfl) t)
    (fun m hm ha => ⟨hn m hm ha, ?_⟩) hidle (fun u hu => ?_) ⟨?_, ?_⟩
  · rw [stepping, moved_stepping, hi.free m hm]
  · exact hu.trans ((keeps State.beyond fun _ _ => rfl).trans (State.advance_beyond ..))
  · exact (keeps State.gangs fun _ _ => rfl).trans (State.advance_gangs ..)
  · exact (keeps State.nextId fun _ _ => rfl).trans (State.advance_nextId ..)

/-- A scalar-class instruction whose registers are ready completes with the change it makes. -/
theorem Completes.of_regs {f : Slice → Slice → Slice} (hx : exec i s = .next (s.issueLocal (Issue.regs e.uses e.dst) f))
    (ha : e.acts = guarded) (hr : ∀ m ∈ ms, e.acts m = true → m.ready (e.uses m) (e.dst m) = true)
    (sid : ∀ m x, (f m x).sid = x.sid) (stepping : ∀ m x, (f m x).stepping = x.stepping)
    (hn : ∀ m ∈ ms, f m (moved e c m) = e.next s c ms m (moved e c m)) (hidle : ∀ m sl, idle i ms m sl = sl) :
    Completes i e Claims.quiet s c ms :=
  Completes.of_slices (f := fun _ _ => f) hi hx ha.symm rfl
    (fun m hm => Issue.clear_of_ready rfl rfl rfl (fun h => ⟨hr m hm (ha ▸ h), rfl⟩) nofun) rfl (fun _ => sid) (fun _ => stepping)
    (fun m hm _ => hn m hm) hidle

end Effect

/-! ## The scalar arithmetic (O8; R79) -/

/-! ### Words as integers -/

section Words

variable (x y : Word)

theorem add_eq_ofInt : x + y = BitVec.ofInt 32 (x.toInt + y.toInt) := by
  rw [BitVec.ofInt_add, BitVec.ofInt_toInt, BitVec.ofInt_toInt]

theorem sub_eq_ofInt : x - y = BitVec.ofInt 32 (x.toInt - y.toInt) := by
  apply BitVec.eq_of_toInt_eq
  rw [BitVec.toInt_sub, BitVec.toInt_ofInt]

theorem mul_eq_ofInt : x * y = BitVec.ofInt 32 (x.toInt * y.toInt) := by
  rw [BitVec.ofInt_mul, BitVec.ofInt_toInt, BitVec.ofInt_toInt]

/-- The high half of a doubleword is its integer divided by 2^32. -/
theorem highHalf_ofInt (p : Int) : (BitVec.ofInt 64 p).extractLsb' 32 32 = BitVec.ofInt 32 (p / 2 ^ 32) := by
  apply BitVec.eq_of_toNat_eq
  simp only [BitVec.extractLsb'_toNat, BitVec.toNat_ofInt, Nat.shiftRight_eq_div_pow]
  omega

theorem mulHighS_eq : mulHighS x y = BitVec.ofInt 32 (x.toInt * y.toInt / 2 ^ 32) := by
  rw [← highHalf_ofInt, BitVec.ofInt_mul]
  rfl

theorem mulHighU_eq : mulHighU x y = BitVec.ofNat 32 (x.toNat * y.toNat / 2 ^ 32) := by
  have fits : x.toNat * y.toNat < 2 ^ 64 := (Nat.mul_lt_mul'' x.isLt y.isLt).trans_eq (by norm_num)
  apply BitVec.eq_of_toNat_eq
  simp only [mulHighU, BitVec.extractLsb'_toNat, BitVec.toNat_mul, BitVec.toNat_setWidth_of_le (by decide : 32 ≤ 64),
    BitVec.toNat_ofNat, Nat.shiftRight_eq_div_pow, Nat.mod_eq_of_lt fits]

theorem divSigned_eq : divSigned x y = if y = 0#32 then 0xFFFFFFFF#32 else BitVec.ofInt 32 (x.toInt.tdiv y.toInt) := by
  refine if_congr Iff.rfl rfl ?_
  apply BitVec.eq_of_toInt_eq
  rw [BitVec.toInt_sdiv, BitVec.toInt_ofInt]

theorem divUnsigned_eq : divUnsigned x y = if y = 0#32 then 0xFFFFFFFF#32 else BitVec.ofNat 32 (x.toNat / y.toNat) := by
  refine if_congr Iff.rfl rfl ?_
  rw [← BitVec.toNat_udiv, BitVec.ofNat_toNat, BitVec.setWidth_eq]

theorem shl_eq (n : Nat) : x <<< n = if n < 32 then BitVec.ofNat 32 (x.toNat * 2 ^ n) else 0#32 := by
  split
  · apply BitVec.eq_of_toNat_eq
    rw [BitVec.toNat_shiftLeft, BitVec.toNat_ofNat, Nat.shiftLeft_eq]
  · next h => exact BitVec.shiftLeft_eq_zero (by omega)

theorem shr_eq (n : Nat) : x >>> n = if n < 32 then BitVec.ofNat 32 (x.toNat / 2 ^ n) else 0#32 := by
  split
  · rw [← Nat.shiftRight_eq_div_pow, ← BitVec.toNat_ushiftRight, BitVec.ofNat_toNat, BitVec.setWidth_eq]
  · next h => exact BitVec.ushiftRight_eq_zero (by omega)

theorem sshiftRight_eq_ofInt (n : Nat) : x.sshiftRight n = BitVec.ofInt 32 (x.toInt / 2 ^ n) := by
  rw [BitVec.sshiftRight, Int.shiftRight_eq_div_pow]
  rfl

theorem slt_iff : x.slt y = true ↔ x.toInt < y.toInt := by simp [BitVec.slt]

theorem smaller_eq : (if x.slt y then x else y) = BitVec.ofInt 32 (min x.toInt y.toInt) := by
  simp only [slt_iff]
  split
  · next h => rw [min_eq_left h.le, BitVec.ofInt_toInt]
  · next h => rw [min_eq_right (not_lt.mp h), BitVec.ofInt_toInt]

theorem larger_eq : (if x.slt y then y else x) = BitVec.ofInt 32 (max x.toInt y.toInt) := by
  simp only [slt_iff]
  split
  · next h => rw [max_eq_right h.le, BitVec.ofInt_toInt]
  · next h => rw [max_eq_left (not_lt.mp h), BitVec.ofInt_toInt]

end Words

/-! ### The instructions -/

/-- A two-source scalar instruction completes with the word its operation gives. -/
theorem completes_scalar2 {i : Instr} {e : Effect} {d : SReg} {a b : SSrc} {f f' : Word → Word → Word} (he : scalar2 d a b f = some e)
    {s : State} {c : Cur} {g : Gang} {ms : List Slice} (hx : exec i s = .next (s.scalarOp d a b f')) (hf : ∀ x y, f' x y = f x y)
    (hi : Issuing s c g ms) (hr : ∀ m ∈ ms, e.acts m = true → m.ready (e.uses m) (e.dst m) = true ∧ e.need s c m)
    (hidle : ∀ m sl, idle i ms m sl = sl) : Completes i e Claims.quiet s c ms := by
  obtain rfl : f' = f := funext₂ hf
  cases he
  exact Completes.of_regs hi hx rfl (fun m hm ha => (hr m hm ha).1) (fun _ _ => Slice.setS_sid ..) (fun _ _ => Slice.setS_stepping ..)
    (fun _ _ => rfl) hidle

/-- Settles O8: each instruction writes the word of its operation, which is the one of the integer arithmetic. -/
theorem scalarArithmetic : Obligations.ScalarArithmetic := by
  refine ⟨fun i e s c g ms he hi _ hr _ => ?_, fun i e he => ?_⟩
  · have op {i : Instr} {d : SReg} {a b : SSrc} {f f' : Word → Word → Word} (he : scalar2 d a b f = some e)
        (hx : exec i s = .next (s.scalarOp d a b f')) (hidle : ∀ m sl, idle i ms m sl = sl) (hf : ∀ x y, f' x y = f x y) :=
      completes_scalar2 he hx hf hi hr hidle
    unfold scalarTable at he
    cases i with
    | add => exact op he rfl (fun _ _ => rfl) add_eq_ofInt
    | sub => exact op he rfl (fun _ _ => rfl) sub_eq_ofInt
    | mul => exact op he rfl (fun _ _ => rfl) mul_eq_ofInt
    | mulhs => exact op he rfl (fun _ _ => rfl) mulHighS_eq
    | mulhu => exact op he rfl (fun _ _ => rfl) mulHighU_eq
    | divs => exact op he rfl (fun _ _ => rfl) divSigned_eq
    | divu => exact op he rfl (fun _ _ => rfl) divUnsigned_eq
    | andS => exact op he rfl (fun _ _ => rfl) fun _ _ => rfl
    | orS => exact op he rfl (fun _ _ => rfl) fun _ _ => rfl
    | xorS => exact op he rfl (fun _ _ => rfl) fun _ _ => rfl
    | shl => exact op he rfl (fun _ _ => rfl) fun x y => shl_eq x y.toNat
    | shr => exact op he rfl (fun _ _ => rfl) fun x y => shr_eq x y.toNat
    | sar => exact op he rfl (fun _ _ => rfl) fun x y => sshiftRight_eq_ofInt x _
    | mins => exact op he rfl (fun _ _ => rfl) smaller_eq
    | maxs => exact op he rfl (fun _ _ => rfl) larger_eq
    | slt => exact op he rfl (fun _ _ => rfl) fun x y => if_congr (slt_iff x y) rfl rfl
    | _ => cases he
  · cases i with
    | add | sub | mul | mulhs | mulhu | divs | divu | andS | orS | xorS | shl | shr | sar | mins | maxs | slt => rfl
    | _ => cases he

end Sys2Proof.Machine

namespace Sys2Proof.Machine
open Claims

/-! ## Literals, pairs, MODE and control registers read, and the plain instructions (O9; R63, R80–R84, R92, R95, R96, R146) -/

section Literals

variable {i : Instr} {e : Effect} {s : State} {c : Cur} {g : Gang} {ms : List Slice} (hi : Issuing s c g ms)
  (hr : ∀ m ∈ ms, e.acts m = true → m.ready (e.uses m) (e.dst m) = true ∧ e.need s c m) (hidle : ∀ m sl, idle i ms m sl = sl)
include hi hr hidle

/-- A scalar instruction completes with the word it gives. -/
theorem completes_scalar1 {d : SReg} {uses : Slice → List SrcUse} {f : Slice → Word} (he : scalar1 d uses f = some e)
    (hx : exec i s = .next (s.issueLocal (Issue.regs uses fun m => [m.sname d]) fun m x => x.setS d (f m))) :
    Completes i e Claims.quiet s c ms := by
  cases he
  exact Completes.of_regs hi hx rfl (fun m hm ha => (hr m hm ha).1) (fun _ _ => Slice.setS_sid ..) (fun _ _ => Slice.setS_stepping ..)
    (fun _ _ => rfl) hidle

/-- A scalar instruction that writes a pair completes with the doubleword it gives. -/
theorem completes_pair1 {d : SPairReg} {uses : Slice → List SrcUse} {f : Slice → DWord} (he : pair1 d uses f = some e)
    (hx : exec i s = .next (s.issueLocal (Issue.regs uses fun m => m.pairNames d) fun m x => x.setPair d (f m))) :
    Completes i e Claims.quiet s c ms := by
  cases he
  exact Completes.of_regs hi hx rfl (fun m hm ha => (hr m hm ha).1) (fun _ _ => Slice.setPair_sid ..)
    (fun _ _ => Slice.setPair_stepping ..) (fun _ _ => rfl) hidle

end Literals

/-! ### Control registers (R82, R83) -/

/-- A control register of a slice reads the same in machines that agree on the cores and the waves. -/
theorem State.readCsr_congr {s t : State} (cores : t.cores = s.cores) (waves : t.waves = s.waves) (m : Slice) (r : Csr) :
    t.readCsr m r = s.readCsr m r := by
  have core := State.core_congr cores m.core
  have wave : t.nslice m.wave = s.nslice m.wave := by unfold State.nslice State.wave?; rw [waves]
  cases r <;> simp only [State.readCsr, core, wave]

/-- A register that the slice's mode may access raises no trap (R83). -/
theorem csrCheck_permitted {r : Csr} {needs : Bool} {m : Slice} (h : needs = true → modeSup m.mode = true) (c : Cur) :
    csrCheck r needs c m = none := by
  cases needs with
  | false => rfl
  | true => simp [csrCheck, h rfl]

theorem guarded_iff {m : Slice} : guarded m = true ↔ m.active ≠ 0#4 := by simp [guarded]

section Plain

variable {e : Effect} {s : State} {c : Cur} {g : Gang} {ms : List Slice} (hi : Issuing s c g ms)
  (hr : ∀ m ∈ ms, e.acts m = true → m.ready (e.uses m) (e.dst m) = true ∧ e.need s c m)
include hi hr

/-- CSRR completes with the register's value (R83). -/
theorem completes_csrr {d : SReg} {b : Csr} (he : literalTable (.csrr d b) = some e) (hp : ∀ m ∈ ms, permitted (.csrr d b) m) :
    Completes (.csrr d b) e Claims.quiet s c ms := by
  cases he
  let k : Issue := ⟨.guarded, false, fun _ => [], fun m => [m.sname d], noCheck, csrCheck b (csrTrap b)⟩
  refine Completes.of_slices (k := k) (f := fun _ t m x => x.setS d (t.readCsr m b)) hi rfl rfl rfl (fun m hm => ?_) rfl
    (fun _ _ _ => Slice.setS_sid ..) (fun _ _ _ => Slice.setS_stepping ..) (fun m _ _ => ?_) fun _ _ => rfl
  · exact Issue.clear_of_ready rfl rfl rfl
      (fun ha => ⟨(hr m hm ha).1, csrCheck_permitted (hp m hm (guarded_iff.mp ha)) c⟩) nofun
  · have cores : (s.advance k c ms).cores = s.cores := (congrArg State.cores (State.advance_beyond s k c ms) :)
    rw [State.readCsr_congr cores (State.advance_waves ..)]

/-- RGN enters a region where every access of the slice is translated (R92, R170). -/
theorem completes_rgn (he : plainTable .rgn = some e) : Completes .rgn e Claims.quiet s c ms := by
  cases he
  refine Completes.of_slices (f := fun c _ _ x => x.regionEntry c.nxt) hi rfl rfl rfl (fun m hm => ?_) ?_ (fun _ _ _ => rfl)
    (fun _ _ _ => rfl) (fun m _ _ => ?_) fun _ _ => rfl
  · exact Issue.clear_of_ready rfl rfl rfl (fun _ => ⟨rfl, by simp [(hr m hm rfl).2.2]⟩) nofun
  · refine List.any_eq_false.mpr fun m hm => ?_
    simp [(hr m (List.mem_of_mem_filter hm) rfl).2.1]
  · rw [moved_plain rfl]
    rfl

/-- FEMRK marks its register once nothing outstanding is to fill it (R96). -/
theorem completes_femrk {r : FullReg} {full : Bool} (he : plainTable (.femrk r full) = some e) :
    Completes (.femrk r full) e Claims.quiet s c ms := by
  cases he
  refine Completes.of_slices (f := fun _ _ m x => x.setFull (m.fullName r) full) hi rfl rfl rfl
    (fun m hm => Issue.clear_of_ready rfl rfl rfl (fun ha => ⟨(hr m hm ha).1, rfl⟩) nofun) ?_ (fun _ _ _ => Slice.setFull_sid ..)
    (fun _ _ _ => Slice.setFull_stepping ..) (fun _ _ _ => rfl) fun _ _ => rfl
  refine List.any_eq_false.mpr fun m hm => ?_
  obtain ⟨hm, ha⟩ := List.mem_filter.mp hm
  simpa using (hr m hm ha).2

end Plain

/-- Settles O9: the literal and pair forms write the value of their operation; the others change what their own rules say. -/
theorem literalsAndPlainControl : Obligations.LiteralsAndPlainControl := by
  refine ⟨fun i e s c g ms he hi hp hr _ => ?_, fun i e s c g ms he hi _ hr _ => ?_⟩
  · unfold literalTable at he
    cases i with
    | li | addi | andi | ori | getm => exact completes_scalar1 hi hr (fun _ _ => rfl) he rfl
    | addp | addpi => exact completes_pair1 hi hr (fun _ _ => rfl) he rfl
    | csrr => exact completes_csrr hi hr he hp
    | _ => cases he
  · cases i with
    | nop =>
      cases he
      exact Completes.of_slices (f := fun _ _ _ x => x) hi rfl rfl rfl
        (fun m _ => Issue.clear_of_ready rfl rfl rfl (fun _ => ⟨rfl, rfl⟩) nofun) rfl (fun _ _ _ => rfl) (fun _ _ _ => rfl)
        (fun _ _ _ => rfl) fun _ _ => rfl
    | rgn => exact completes_rgn hi hr he
    | fetst | pref =>
      cases he
      exact Completes.of_regs hi rfl rfl (fun m hm ha => (hr m hm ha).1) (fun _ _ => rfl) (fun _ _ => rfl) (fun _ _ => rfl) fun _ _ => rfl
    | femrk => exact completes_femrk hi hr he
    | _ => cases he

end Sys2Proof.Machine

namespace Sys2Proof.Machine
open Claims

/-! ## Writes of control registers, MODE and the read of the time-stamp counter (O15; R82–R85) -/

/-! ### CSRW (R82, R83) -/

section Csr

variable (t : State) (m : Slice) (b : Csr) (x : Word)

theorem modList_same (ls : List Slice) (a : Nat) : modList ls a (fun y => y) = ls := by simp [modList]

/-- What CSRW leaves of the slices: its own slice's register. -/
theorem State.writeCsr_slices : (t.writeCsr m b x).slices = modList t.slices m.sid (csrSlice b x) := by
  cases b with
  | fstat | tcause | tdet0 | tdet1 | tdet2 | tpcl | tpch => rfl
  | _ => exact (modList_same ..).symm

theorem State.writeCsr_gangs : (t.writeCsr m b x).gangs = t.gangs := by cases b <;> rfl
theorem State.writeCsr_nextId : (t.writeCsr m b x).nextId = t.nextId := by cases b <;> rfl

/-- What CSRW leaves beyond the slices: its core's register. -/
theorem State.writeCsr_beyond : (t.writeCsr m b x).beyond = (t.setCore m.core (csrCore b x (t.core m.core))).beyond := by
  have same : t.beyond = (t.setCore m.core (t.core m.core)).beyond := by rw [State.setCore_core]
  cases b with
  | gtmo | swpt | quant => rfl
  | _ => exact same

theorem csrSlice_sid (y : Slice) : (csrSlice b x y).sid = y.sid := by cases b <;> rfl
theorem csrSlice_stepping (y : Slice) : (csrSlice b x y).stepping = y.stepping := by cases b <;> rfl

/-- The last value written to a core's register stands. -/
theorem csrCore_csrCore (y : Word) (r : CoreRec) : csrCore b x (csrCore b y r) = csrCore b x r := by cases b <;> rfl

end Csr

/-- The core's register as the last of these members writes it. -/
def State.csrWritten (s : State) (b : Csr) (v : Slice → Word) (l : List Slice) : State :=
  match l.getLast? with
  | some m => s.setCore m.core (csrCore b (v m) (s.core m.core))
  | none => s

/-- One more member of the core writes the register over what the others left there. -/
theorem State.csrWritten_concat (s : State) (b : Csr) (v : Slice → Word) {l : List Slice} {m : Slice} (hl : ∀ y ∈ l, y.core = m.core) :
    (s.csrWritten b v l).setCore m.core (csrCore b (v m) ((s.csrWritten b v l).core m.core)) = s.csrWritten b v (l ++ [m]) := by
  unfold State.csrWritten
  rw [List.getLast?_concat]
  cases last : l.getLast? with
  | none => rfl
  | some y =>
    dsimp only
    rw [hl y (List.mem_of_getLast? last)]
    by_cases hm : m.core < 192
    · rw [State.core_setCore_same _ _ hm, csrCore_csrCore, State.setCore_setCore]
    · simp only [State.setCore_of_le _ (Nat.le_of_not_lt hm)]

/-- What CSRW of the members of one core leaves beyond the slices. -/
theorem State.writeCsrs_beyond {s t : State} (h : t.beyond = s.beyond) (b : Csr) (v : Slice → Word) {k : Nat} (l : List Slice)
    (hk : ∀ m ∈ l, m.core = k) : (l.foldl (fun u m => u.writeCsr m b (v m)) t).beyond = (s.csrWritten b v l).beyond := by
  induction l using List.reverseRecOn with
  | nil => exact h
  | append_singleton l m ih =>
    have before := ih fun x hx => hk x (List.mem_append_left _ hx)
    have cores : (l.foldl (fun u m => u.writeCsr m b (v m)) t).cores = (s.csrWritten b v l).cores := (congrArg State.cores before :)
    have one : ∀ y ∈ l, y.core = m.core := fun y hy => (hk y (List.mem_append_left _ hy)).trans (hk m (by simp)).symm
    rw [List.foldl_concat, State.writeCsr_beyond, State.setCore_beyond before, State.core_congr cores, State.csrWritten_concat s b v one]

/-! ### SETM and SETMI (R84, R228) -/

theorem State.writeMode_slices (t : State) (m : Slice) (v : Word) :
    (t.writeMode m v).slices = modList t.slices m.sid fun x => { x with mode := modeWrite m.mode v } := by
  unfold State.writeMode
  split <;> simp

theorem State.writeMode_gangs (t : State) (m : Slice) (v : Word) : (t.writeMode m v).gangs = t.gangs := by
  unfold State.writeMode
  split <;> simp

theorem State.writeMode_nextId (t : State) (m : Slice) (v : Word) : (t.writeMode m v).nextId = t.nextId := by
  unfold State.writeMode
  split <;> simp

/-- What writing MODE leaves beyond the slices: the flush point of a change of RPERM. -/
theorem State.writeMode_beyond (t : State) (m : Slice) (v : Word) :
    (t.writeMode m v).beyond = if (modeRperm m.mode != modeRperm v) = true then (t.flushSlice m).beyond else t.beyond := by
  unfold State.writeMode
  by_cases h : modeRperm m.mode = modeRperm v <;> simp [h]

/-- The flush points of those members whose RPERM changes. -/
theorem State.writeModes_beyond {s t : State} (h : t.beyond = s.beyond) (v : Slice → Word) (l : List Slice) :
    (l.foldl (fun u m => u.writeMode m (v m)) t).beyond =
      ((l.filter fun m => modeRperm m.mode != modeRperm (v m)).foldl State.flushSlice s).beyond := by
  induction l generalizing s t with
  | nil => exact h
  | cons m l ih =>
    rw [List.foldl_cons, List.filter_cons]
    split
    · next hm =>
      refine ih ?_
      rw [State.writeMode_beyond, if_pos hm]
      exact State.flushSlice_beyond h m
    · next hm =>
      refine ih ?_
      rw [State.writeMode_beyond, if_neg hm]
      exact h

section Complete

variable {e : Effect} {s : State} {c : Cur} {g : Gang} {ms : List Slice} (hi : Issuing s c g ms)
  (hr : ∀ m ∈ ms, e.acts m = true → m.ready (e.uses m) (e.dst m) = true ∧ e.need s c m)
include hi

/-- An instruction that writes MODE completes with the modes it writes. -/
theorem completes_mode {i : Instr} {k : Issue} (v : Slice → Word)
    (hx : exec i s = .next (s.issue k noHold fun _ l t => l.foldl (fun x m => x.writeMode m (v m)) t)) (hacts : k.kind.acts = e.acts)
    (huses : k.srcs = e.uses) (hc : ∀ m ∈ ms, k.clear c m)
    (hn : ∀ m sl, e.next s c ms m sl = { sl with mode := modeWrite m.mode (v m) }) (hidle : ∀ m sl, idle i ms m sl = sl) :
    Completes i e (fun s _ l t => t.beyond = ((l.filter fun m => modeRperm m.mode != modeRperm (v m)).foldl State.flushSlice s).beyond)
      s c ms := by
  refine Completes.of_issue (F := fun m x => { x with mode := modeWrite m.mode (v m) }) hi hx hacts huses hc rfl (fun _ _ => rfl)
    (slices_foldl _ (fun t m => t.writeMode m (v m)) _ (fun t m => State.writeMode_slices t m (v m)) _)
    (fun m hm _ => ⟨(hn m _).symm, ?_⟩) hidle (fun t ht => ?_) ⟨?_, ?_⟩
  · exact (moved_stepping e c m).trans (hi.free m hm)
  · exact ht.trans (State.writeModes_beyond (State.advance_beyond ..) v _)
  · exact (foldl_keeps State.gangs (fun t m => t.writeMode m (v m)) (fun t m => State.writeMode_gangs t m _) _ _).trans
      (State.advance_gangs ..)
  · exact (foldl_keeps State.nextId (fun t m => t.writeMode m (v m)) (fun t m => State.writeMode_nextId t m _) _ _).trans
      (State.advance_nextId ..)

include hr

/-- CSRW completes with the register it writes. -/
theorem completes_csrw {a : SSrc} {b : Csr} (he : writeTable (.csrw a b) = some e) (hp : ∀ m ∈ ms, permitted (.csrw a b) m) :
    Completes (.csrw a b) e (writeRest (.csrw a b)) s c ms := by
  cases he
  refine Completes.of_issue (k := ⟨.guarded, false, fun m => m.ssUses a 1, fun _ => [], noCheck, csrCheck b (csrWriteSup b)⟩)
    (F := fun m => csrSlice b (written a m)) hi rfl rfl rfl (fun m hm => ?_) rfl (fun _ _ => csrSlice_sid ..)
    (slices_foldl _ (fun t m => t.writeCsr m b (written a m)) _ (fun t m => State.writeCsr_slices t m b (written a m)) _)
    (fun m hm _ => ⟨rfl, ?_⟩) (fun _ _ => rfl) (fun t ht => ?_) ⟨?_, ?_⟩
  · exact Issue.clear_of_ready rfl rfl rfl
      (fun ha => ⟨(hr m hm ha).1, csrCheck_permitted (hp m hm (guarded_iff.mp ha)) c⟩) nofun
  · rw [csrSlice_stepping, moved_stepping, hi.free m hm]
  · exact ht.trans (State.writeCsrs_beyond (State.advance_beyond ..) b (written a) _ fun m hm => hi.core (List.mem_of_mem_filter hm))
  · exact (foldl_keeps State.gangs (fun t m => t.writeCsr m b (written a m)) (fun t m => State.writeCsr_gangs t m b _) _ _).trans
      (State.advance_gangs ..)
  · exact (foldl_keeps State.nextId (fun t m => t.writeCsr m b (written a m)) (fun t m => State.writeCsr_nextId t m b _) _ _).trans
      (State.advance_nextId ..)

end Complete

/-! ### RDTS (R85) -/

/-- The counter never goes back. -/
theorem State.tick_tsc_le (s : State) : s.tsc.toNat ≤ s.tick.tsc.toNat := by
  have later (n : DWord) : s.tsc.toNat ≤ (if n.toNat < s.tsc.toNat then s.tsc else n).toNat := by
    split
    · exact Nat.le_refl _
    · next h => exact Nat.le_of_not_lt h
  exact later _

/-- RDTS completes with the counter as it has gone on. -/
theorem completes_rdts {d : SPairReg} {e : Effect} {s : State} {c : Cur} {g : Gang} {ms : List Slice} (hi : Issuing s c g ms)
    (he : writeTable (.rdts d) = some e) (hr : ∀ m ∈ ms, e.acts m = true → m.ready (e.uses m) (e.dst m) = true ∧ e.need s c m) :
    Completes (.rdts d) e (writeRest (.rdts d)) s c ms := by
  cases he
  let k : Issue := Issue.regs (fun _ => []) fun m => m.pairNames d
  have counter : (s.advance k c ms).tick.tsc = s.tick.tsc := (congrArg (fun u : State => u.tick.tsc) (State.advance_beyond s k c ms) :)
  have keeps {β : Type} (p : State → β) (h : ∀ (u : State) x, p { u with slices := x } = p u) (l : List Slice) (u : State) :
      p (l.foldl (fun x m => x.modSlice m.sid fun y => y.setPair d u.tsc) u) = p u :=
    State.modSlices_field p h (·.sid) (fun _ y => y.setPair d u.tsc) l u
  refine Completes.of_issue (k := k) (F := fun _ x => x.setPair d (s.advance k c ms).tick.tsc) hi rfl rfl rfl
    (fun m hm => Issue.clear_of_ready rfl rfl rfl (fun ha => ⟨(hr m hm ha).1, rfl⟩) nofun) rfl (fun _ _ => Slice.setPair_sid ..)
    (slices_foldl _ _ _ (fun _ _ => rfl) _) (fun m hm _ => ⟨?_, ?_⟩) (fun _ _ => rfl) (fun t ht => ?_) ⟨?_, ?_⟩
  · rw [counter]
  · rw [Slice.setPair_stepping, moved_plain rfl]
    exact hi.free m hm
  · have ticked : t.beyond = s.tick.beyond := by
      refine ht.trans ((keeps State.beyond (fun _ _ => rfl) _ _).trans ?_)
      exact congrArg (fun u : State => u.tick) (State.advance_beyond s k c ms)
    have tsc : t.tsc = s.tick.tsc := (congrArg State.tsc ticked :)
    exact ⟨tsc ▸ s.tick_tsc_le, tsc,
      congrArg (fun u : State => ({ u with tsc := s.tsc, tscPause := s.tscPause, ticks := s.ticks } : State)) ticked⟩
  · exact (keeps State.gangs (fun _ _ => rfl) _ _).trans
      (State.advance_gangs ..)
  · exact (keeps State.nextId (fun _ _ => rfl) _ _).trans
      (State.advance_nextId ..)

/-- Settles O15: each writes its slices as its table says, and leaves elsewhere what `writeRest` says. -/
theorem controlWrites : Obligations.ControlWrites := by
  intro i e s c g ms he hi hp hr _
  cases i with
  | csrw => exact completes_csrw hi hr he hp
  | setm a =>
    cases he
    refine completes_mode hi (written a) rfl rfl rfl (fun m hm => Issue.clear_of_ready rfl rfl rfl (fun ha => ?_) nofun) (fun _ _ => rfl)
      fun _ _ => rfl
    obtain ⟨ready, legal⟩ := hr m hm ha
    exact ⟨ready, if_pos legal⟩
  | setmi lit =>
    cases he
    exact completes_mode hi (fun _ => lit) rfl rfl rfl
      (fun m hm => Issue.clear_of_ready rfl rfl rfl (fun ha => ⟨(hr m hm ha).1, rfl⟩) nofun) (fun _ _ => rfl) fun _ _ => rfl
  | rdts => exact completes_rdts hi he hr
  | _ => cases he

end Sys2Proof.Machine

namespace Sys2Proof.Machine
open Claims

/-! ## YIELD (O21; R54, R90) -/

/-- In a version 1 line an instruction that must end its group (R54), without extension words, whose own code is not 0b11 and which is
not the line's last, breaks the restriction. -/
theorem groupBreach_of_unended {l : ILine} {i : Nat} (hi : i < 15) (hends : endsGroup (lineRaw l i).op = true)
    (hcode : headerCode (l.words.get 0) i ≠ 3#2) (hnext : headerCode (l.words.get 0) (i + 1) ≠ 2#2) (mode : Word) :
    groupBreach l i mode = true := by
  have alone : extCount (l.words.get 0) i 15 = 0 := if_neg fun h => hnext h.2
  have more : ¬ 15 < i + 0 + 1 := by omega
  simp [groupBreach, alone, more, hends, hcode]

/-- The operation of a line's word stands in its top byte (R61). -/
theorem lineRaw_op {l : ILine} {i : Nat} {w : Word} (h : l.words.toList[i]? = some w) : (lineRaw l i).op = w.extractLsb' 24 8 := by
  unfold lineRaw
  rw [List.getD_eq_getElem?_getD, h]
  rfl

/-- A gang gone to the tail of its rank at a moment (R48). -/
def Gang.tail (gid n : Nat) (x : Gang) : Gang := if x.gid = gid then { x with wait := .ready, since := n, passed := 0 } else x

/-- The last time a gang goes to the tail stands. -/
theorem Gang.tail_tail (gid n n' : Nat) (x : Gang) : (x.tail gid n).tail gid n' = x.tail gid n' := by
  unfold Gang.tail
  by_cases h : x.gid = gid <;> simp [h]

theorem State.wakeGang_tail (s : State) (gid : Nat) : (s.wakeGang gid).gangs = s.gangs.map (Gang.tail gid s.nextId) := by
  simp only [State.wakeGang_gangs, beq_iff_eq]
  rfl

/-- A gang that goes to the tail of its rank stands there after the instruction, which sends it there once more where it yields. -/
theorem State.afterIssue_tail {s : State} {c : Cur} {ms : List Slice} (hv : ∀ m ∈ ms, (s.wakeGang c.gid).steps m.sid = false) :
    ∃ n, s.nextId ≤ n ∧ ((s.wakeGang c.gid).afterIssue c ms).gangs = s.gangs.map (Gang.tail c.gid n) := by
  have once : ∃ n, s.nextId ≤ n ∧ (s.wakeGang c.gid).gangs = s.gangs.map (Gang.tail c.gid n) :=
    ⟨s.nextId, le_rfl, s.wakeGang_tail _⟩
  rw [State.afterIssue_free hv]
  dsimp only
  split
  · split
    · split
      · refine ⟨s.nextId + 1, by omega, ?_⟩
        rw [State.wakeGang_tail, State.wakeGang_tail, List.map_map]
        exact List.map_congr_left fun x _ => x.tail_tail ..
      · exact once
    · exact once
  · exact once

/-- Settles O21: the breach is that of `endsGroup`; YIELD changes nothing but the place of its gang, once or, with a yielding code, twice. -/
theorem yieldTail : Obligations.YieldTail := by
  refine ⟨fun l i mode _ hi hw hc hn => groupBreach_of_unended hi ?_ ?_ hn mode, fun s c g ms hi => ?_⟩
  · rw [lineRaw_op hw]
    decide
  · rw [hc]
    decide
  · let t := s.advance Issue.plain c ms
    have unstepped : ∀ m ∈ ms, (t.wakeGang c.gid).steps m.sid = false := fun m hm => by
      have stands : (t.wakeGang c.gid).slice? m.sid = some { m with pc := c.nxt } := hi.passed hm
      rw [State.steps, stands]
      exact hi.free m hm
    have slices : ((t.wakeGang c.gid).afterIssue c ms).slices = t.slices := State.afterIssue_slices unstepped
    have found (b : Nat) : ((t.wakeGang c.gid).afterIssue c ms).slice? b = t.slice? b := congrArg (List.find? _) slices
    obtain ⟨n, hn, gangs⟩ := State.afterIssue_tail unstepped
    rw [State.advance_nextId] at hn
    rw [State.advance_gangs] at gangs
    refine ⟨_, n, congrArg Host.Outcome.next (State.issue_plain hi fun c _ t => t.wakeGang c.gid), fun m hm => ?_, fun b hb => ?_, hn,
      gangs, ?_⟩
    · exact (found _).trans (hi.passed hm)
    · rw [found, State.slice?_advance_plain]
      cases hs : s.slice? b with
      | none => rfl
      | some x => simp [Slice.passed, State.slice?_sid hs, hb]
    · exact (State.afterIssue_beyond unstepped).trans (State.advance_beyond ..)

end Sys2Proof.Machine

namespace Sys2Proof.Machine
open Claims

/-! ## TRAP (O23; R91, R166, R179) -/

/-! ### An instruction with nothing but a check of its own -/

/-- The issue of a scalar-class instruction that reads and writes no register: its check alone can trap. -/
def Issue.checked (early : Cur → Slice → Option TrapRec) : Issue := ⟨.guarded, false, fun _ => [], fun _ => [], noCheck, early⟩

section Checked

variable {early : Cur → Slice → Option TrapRec} {c : Cur}

/-- A member lets it issue where it has no active lane or the check passes. -/
theorem Issue.clear_checked {m : Slice} (h : guarded m = true → early c m = none) : (Issue.checked early).clear c m :=
  Issue.clear_of_ready rfl rfl rfl (fun ha => ⟨rfl, h ha⟩) nofun

theorem Issue.verdict_checked {m : Slice} {r : TrapRec} (h : early c m = some r) :
    (Issue.checked early).verdict c m = if guarded m then .trap r else .go := by
  show (if guarded m then (match early c m with | some t => Verdict.trap t | none => .go) else .go) = _
  rw [h]

/-- Where the check holds up every member, those with an active lane trap together (R41, R376). -/
theorem Issue.decide_checked {T : Slice → TrapRec} {ms : List Slice} (he : ∀ m ∈ ms, early c m = some (T m)) (hold : Bool)
    (hne : ms.filter guarded ≠ []) :
    (Issue.checked early).decide_ c hold ms = .traps ((ms.filter guarded).map fun m => (m.sid, T m)) := by
  have gates : (ms.filterMap fun m => ((Issue.checked early).gateTrap c m).map fun t => (m.sid, t)) = [] := by
    simp [Issue.gateTrap, Issue.checked, noCheck]
  have wait : firstWait (ms.map fun m => (m.sid, (Issue.checked early).verdict c m)) = none := by
    simp only [firstWait, List.findSome?_map, List.findSome?_eq_none_iff]
    intro m hm
    rw [Function.comp, Issue.verdict_checked (he m hm)]
    cases guarded m <;> rfl
  have trap : trapsOf (ms.map fun m => (m.sid, (Issue.checked early).verdict c m)) = (ms.filter guarded).map fun m => (m.sid, T m) := by
    rw [trapsOf, List.filterMap_map, ← List.filterMap_eq_map, List.filterMap_filter]
    refine List.filterMap_congr fun m hm => ?_
    rw [Function.comp, Issue.verdict_checked (he m hm)]
    cases guarded m <;> rfl
  simp [Issue.decide_, gates, wait, trap, hne]

end Checked

/-! ### The stop of a slice (R179) -/

theorem Slice.debugStop_sid (x : Slice) (case : BitVec 8) : (x.debugStop case).sid = x.sid := by
  unfold Slice.debugStop; dsimp only; split <;> rfl
theorem Slice.debugStop_pc (x : Slice) (case : BitVec 8) : (x.debugStop case).pc = x.pc := by
  unfold Slice.debugStop; dsimp only; split <;> rfl
theorem Slice.debugStop_stepping (x : Slice) (case : BitVec 8) : (x.debugStop case).stepping = false := by
  unfold Slice.debugStop; dsimp only; split <;> rfl
theorem Slice.debugStop_stopped (x : Slice) (case : BitVec 8) : (x.debugStop case).stopped = true := by
  unfold Slice.debugStop; dsimp only; split <;> rfl

/-- Of the slices only the one that stops changes. -/
theorem State.stopSlice_slices (s : State) (a : Nat) (case : BitVec 8) :
    (s.stopSlice a case).slices = modList s.slices a fun x => x.debugStop case := by
  unfold State.stopSlice
  cases h : s.slice? a with
  | none =>
    refine ((List.map_congr_left fun x hx => ?_).trans (List.map_id _)).symm
    rw [if_neg (List.find?_eq_none.mp h x hx), id]
  | some x => simp [modList]

/-- Settles O23: the check of TRAP holds up every member, or, in a wave a debugger is attached to, none; what it then does is a stop. -/
theorem softwareTrap : Obligations.SoftwareTrap := by
  intro code s c g ms hi
  let early : Cur → Slice → Option TrapRec := fun c m =>
    if code = 0xFFFF#16 ∧ s.attached m then none else some (trapSoft m c code)
  let k : Issue := Issue.checked early
  let stop : Cur → List Slice → State → State := fun _ l t => l.foldl (fun x m => x.stopSlice m.sid 2#8) t
  have hx : exec (.trap code) s = .next (s.issue k noHold stop) := rfl
  have stops : (stop c (ms.filter guarded) (s.advance k c ms)).slices =
      (ms.filter guarded).foldl (fun l m => modList l m.sid fun x => x.debugStop 2#8) (s.advance k c ms).slices :=
    slices_foldl _ (fun x m => x.stopSlice m.sid 2#8) (fun _ x => x.debugStop 2#8) (fun t m => t.stopSlice_slices m.sid _) _
  obtain ⟨members, -⟩ := hi.slice?_performed (k := k) (fun _ x => x.debugStop_sid 2#8) stops
  have unstepped : ∀ m ∈ ms, (stop c (ms.filter guarded) (s.advance k c ms)).steps m.sid = false := fun m hm => by
    rw [State.steps, members m hm, Option.map_some, Option.getD_some]
    split
    · exact Slice.debugStop_stepping ..
    · exact (Issue.moved_stepping ..).trans (hi.free m hm)
  refine ⟨fun hcode hne => ?_, fun hnone => ?_, fun hcode hat => ?_⟩
  · have check : ∀ m ∈ ms, early c m = some (trapSoft m c code) := fun m hm => if_neg fun ⟨same, att⟩ =>
      hcode.elim (fun other => other same) fun free => by simp [free m hm] at att
    rw [hx, State.issue_traps hi (Issue.decide_checked check _ hne)]
    rfl
  · have silent : ∀ m ∈ ms, guarded m = false := fun m hm => by simpa using List.filter_eq_nil_iff.mp hnone m hm
    obtain ⟨slices, beyond, -, -⟩ := State.issue_left (perform := stop) (hold := noHold) hi
      (fun m hm => Issue.clear_checked fun ha => absurd ha (by simp [silent m hm])) rfl unstepped
    refine ⟨_, hx, fun m hm => ?_, ?_⟩
    · rw [State.slice?, slices]
      refine (members m hm).trans ?_
      have acts : k.kind.acts m = false := silent m hm
      rw [acts, Issue.moved, acts]
      rfl
    · refine beyond.trans ?_
      have empty : ms.filter k.kind.acts = [] := hnone
      rw [empty]
      exact State.advance_beyond ..
  · have clear : ∀ m ∈ ms, k.clear c m := fun m hm => Issue.clear_checked fun _ => if_pos ⟨hcode, hat m hm⟩
    obtain ⟨slices, -, -, -⟩ := State.issue_left (perform := stop) (hold := noHold) hi clear rfl unstepped
    refine ⟨_, hx, fun m hm ha => ?_⟩
    have stopped : (s.issue k noHold stop).slice? m.sid = some ((k.moved c m).debugStop 2#8) := by
      rw [State.slice?, slices]
      exact (members m hm).trans (congrArg some (if_pos ha))
    rw [stopped, Option.map_some, Option.map_some, Slice.debugStop_stopped, Slice.debugStop_pc]
    exact ⟨rfl, rfl⟩

end Sys2Proof.Machine

namespace Sys2Proof.Machine
open Claims

/-! ## Launches after a flush point, and those of the supervisor (O31, O32; R97–R100, R152, R175, R177, R189, R191, R228, R230, R231) -/

/-! ### Flush points of the acting members (R228) -/

/-- The machine once the members have passed the flush point of an instruction that is one. -/
def State.flushed (t : State) (flush : Bool) (ms : List Slice) : State := if flush then ms.foldl State.flushSlice t else t

section Flushed

variable (t : State) (flush : Bool) (ms : List Slice)

/-- What a flush point keeps, all of them keep. -/
theorem State.flushed_field {β : Type} (p : State → β) (h : ∀ t m, p (t.flushSlice m) = p t) : p (t.flushed flush ms) = p t := by
  cases flush with
  | false => rfl
  | true => exact foldl_keeps p State.flushSlice h ms t

@[simp] theorem State.flushed_slices : (t.flushed flush ms).slices = t.slices := t.flushed_field _ _ _ State.flushSlice_slices
@[simp] theorem State.flushed_txns : (t.flushed flush ms).txns = t.txns := t.flushed_field _ _ _ State.flushSlice_txns
@[simp] theorem State.flushed_gangs : (t.flushed flush ms).gangs = t.gangs := t.flushed_field _ _ _ State.flushSlice_gangs
@[simp] theorem State.flushed_nextId : (t.flushed flush ms).nextId = t.nextId := t.flushed_field _ _ _ State.flushSlice_nextId
@[simp] theorem State.flushed_fab : (t.flushed flush ms).fab = t.fab := t.flushed_field _ _ _ State.flushSlice_fab
@[simp] theorem State.flushed_ctxOfWave (w : Word) : (t.flushed flush ms).ctxOfWave w = t.ctxOfWave w :=
  t.flushed_field _ _ (·.ctxOfWave w) fun t m => by simp only [State.ctxOfWave, State.wave?, State.flushSlice_waves]

/-- What the flush points leave beyond the slices depends on what stood there. -/
theorem State.flushed_beyond {s t : State} (h : t.beyond = s.beyond) : (t.flushed flush ms).beyond = (s.flushed flush ms).beyond := by
  cases flush with
  | false => exact h
  | true =>
    show (ms.foldl State.flushSlice t).beyond = (ms.foldl State.flushSlice s).beyond
    induction ms generalizing s t with
    | nil => exact h
    | cons m ms ih => exact ih (State.flushSlice_beyond h m)

end Flushed

/-! ### What is launched past them -/

section Launching

variable {l : Launch} {s : State} {c : Cur} {ms : List Slice} {k : Issue}

/-- The one operation of a gang past its flush point is the launch of its acting members. -/
theorem Launching.gangTxn_flushed {kind : TxnKind} {lanes : List LaneAcc} (he : l.each = false) (hk : ∀ m, l.kind s m = kind)
    (hl : lanes = (ms.filter l.acts).flatMap l.lanes) :
    Launching l s c ms (s.advance k c ms)
      (((s.advance k c ms).flushed l.flush (ms.filter l.acts)).gangTxn c (ms.filter l.acts) kind l.size l.dst lanes) := by
  let t := (s.advance k c ms).flushed l.flush (ms.filter l.acts)
  have ops : t.gangOp c (ms.filter l.acts) kind l.size l.dst lanes = l.ops s c (ms.filter l.acts) := by
    simp only [Launch.ops, he, hl, hk]
    cases hm : ms.filter l.acts with
    | nil => rfl
    | cons m r =>
      simp only [State.gangOp, t, State.flushed_nextId, State.flushed_ctxOfWave, State.flushed_fab, State.advance_nextId,
        State.advance_ctxOfWave, State.advance_fab]
      rfl
  obtain ⟨slices, txns, nextId, rest⟩ := State.gangTxn_law (ms.filter l.acts) t c kind l.size l.dst lanes
  obtain ⟨beyond, gangs⟩ := State.beyondTxns_of_aside rest
  rw [ops] at txns nextId
  refine ⟨by simpa [t] using slices, by simpa [t] using txns, by simpa [t] using nextId, beyond.trans ?_, by simpa [t] using gangs⟩
  exact State.beyondTxns_of_beyond (State.flushed_beyond _ _ (State.advance_beyond s k c ms))

/-- An operation for each slice past its flush point is the launch of the acting members. -/
theorem Launching.sliceTxns_flushed (he : l.each = true) :
    Launching l s c ms (s.advance k c ms)
      (((s.advance k c ms).flushed l.flush (ms.filter l.acts)).sliceTxns c (ms.filter l.acts) (l.kind s) l.size l.dst l.lanes) := by
  let t := (s.advance k c ms).flushed l.flush (ms.filter l.acts)
  have ops : t.sliceOps c s.nextId (ms.filter l.acts) (l.kind s) l.size l.dst l.lanes = l.ops s c (ms.filter l.acts) := by
    simp only [Launch.ops, he, State.sliceOps, t, State.flushed_ctxOfWave, State.flushed_fab, State.advance_ctxOfWave,
      State.advance_fab, if_true]
    rw [List.zipIdx_eq_map_add, List.map_map]
    rfl
  have len : (l.ops s c (ms.filter l.acts)).length = (ms.filter l.acts).length := by simp [Launch.ops, he]
  obtain ⟨slices, txns, nextId, rest⟩ := State.sliceTxns_law (ms.filter l.acts) t c (l.kind s) l.size l.dst l.lanes
  obtain ⟨beyond, gangs⟩ := State.beyondTxns_of_aside rest
  have name : t.nextId = s.nextId := by simp [t]
  rw [name, ops] at txns
  refine ⟨by simpa [t] using slices, by simpa [t] using txns, by simpa [t, len] using nextId, beyond.trans ?_, by simpa [t] using gangs⟩
  exact State.beyondTxns_of_beyond (State.flushed_beyond _ _ (State.advance_beyond s k c ms))

end Launching

/-- An instruction that launches an operation of each slice completes once nothing holds it. -/
theorem Launches.of_each {i : Instr} {l : Launch} {s : State} {k : Issue} {hold : Cur → List Slice → State → Bool} {c : Cur} {g : Gang}
    {ms : List Slice} (hi : Issuing s c g ms)
    (hx : exec i s = .next (s.issue k hold fun c ms t => (t.flushed l.flush ms).sliceTxns c ms (l.kind s) l.size l.dst l.lanes))
    (he : l.each = true) (hacts : k.kind.acts = l.acts) (huses : k.srcs = l.uses) (hc : ∀ m ∈ ms, k.clear c m)
    (hh : hold c (ms.filter l.acts) s = false) : Launches i l s c ms :=
  Launches.of_issue hi hx hacts huses hc hh (Launching.sliceTxns_flushed he)

/-- In a member whose mode permits it, nothing holds a supervisor's instruction without a gate whose own check passes where it acts. -/
theorem Issue.clear_of_permitted {k : Issue} {c : Cur} {m : Slice} (hv : k.kind.view m = m) (hs : modeSup m.mode = true)
    (hg : k.gate = noCheck) (ha : k.kind.acts m = true → m.ready (k.srcs m) (k.dst m) = true ∧ k.early c m = none)
    (hw : k.kind.waits = false) : k.clear c m := by
  refine ⟨by simp [Issue.gateTrap, hs, hg, noCheck], ?_, ?_⟩
  · rw [hv]; exact ha
  · intro _ waits
    exact absurd waits (by simp [hw])

/-! ### Fences (R152, R273) -/

@[simp] theorem State.flushSlice_writes (s : State) (m : Slice) : (s.flushSlice m).writes = s.writes :=
  State.flushPoint_field State.writes (fun _ _ _ => rfl) s _ _

/-- A flush point and an operation that joins the list do not meet. -/
theorem State.flushSlice_addTxn (s : State) (m y : Slice) (kind : TxnKind) (size : Nat) (scalar : Bool) (parts : List Part)
    (lanes : List LaneAcc) :
    (s.addTxn kind y size scalar parts lanes).flushSlice m = (s.flushSlice m).addTxn kind y size scalar parts lanes := by
  unfold State.flushSlice State.flushPoint
  have same : (s.addTxn kind y size scalar parts lanes).octet m.core m.oct = s.octet m.core m.oct := rfl
  simp only [same]
  split <;> rfl

theorem State.foldl_flushSlice_addTxn (ms : List Slice) (s : State) (y : Slice) (kind : TxnKind) (size : Nat) (scalar : Bool)
    (parts : List Part) (lanes : List LaneAcc) : ms.foldl State.flushSlice (s.addTxn kind y size scalar parts lanes) =
      (ms.foldl State.flushSlice s).addTxn kind y size scalar parts lanes := by
  induction ms generalizing s with
  | nil => rfl
  | cons m ms ih => rw [List.foldl_cons, State.flushSlice_addTxn, ih, List.foldl_cons]

theorem State.markEmpty_nil (s : State) (a : Nat) : s.markEmpty a [] = s := by
  simp [State.markEmpty, State.modSlice]

/-- Flush points between the operations, which do not depend on them, come to the same as flush points before them. -/
theorem State.flush_each (K : State → Slice → TxnKind) (hflush : ∀ t m y, K (t.flushSlice y) m = K t m)
    (hadd : ∀ t kind y size scalar parts lanes m, K (State.addTxn t kind y size scalar parts lanes) m = K t m) (c : Cur) (size : Nat)
    (ms : List Slice) (t : State) :
    ms.foldl (fun x m => (x.flushSlice m).addTxn (K x m) m size true [m.part c []] []) t =
      (ms.foldl State.flushSlice t).sliceTxns c ms (K t) size (fun _ => []) fun _ => [] := by
  induction ms generalizing t with
  | nil => rfl
  | cons m ms ih =>
    have same : K ((t.flushSlice m).addTxn (K t m) m size true [m.part c []] []) = K t := funext fun y => by rw [hadd, hflush]
    rw [List.foldl_cons, ih, same, State.foldl_flushSlice_addTxn, List.foldl_cons]
    conv_rhs => rw [State.sliceTxns, List.foldl_cons, State.markEmpty_nil]
    rfl

/-- A fence waits for the writes by their names and the dies they are applied at, not by whose they are. -/
theorem State.fenceWrites_of_beyond {s t : State} (h : t.beyond = s.beyond) (m : Slice) (full : Bool) (sc : Scope) :
    t.fenceWrites m full sc = awaited s m full sc := by
  let nameless (w : DieWrite) : DieWrite := { w with by_ := [] }
  have names (l : List DieWrite) (p : DieWrite → Bool) (hp : ∀ w, p (nameless w) = p w) :
      (l.filter p).map (·.id) = ((l.map nameless).filter p).map (·.id) := by
    rw [List.filter_map, List.map_map, show p ∘ nameless = p from funext hp]
    rfl
  have writes : t.writes.map nameless = s.writes.map nameless := (congrArg State.writes h :)
  simp only [State.fenceWrites, awaited, Bool.and_eq_true, Bool.or_eq_true, beq_iff_eq]
  refine if_congr Iff.rfl ?_ rfl
  rw [names _ _ fun _ => rfl, writes, ← names _ _ fun _ => rfl]

end Sys2Proof.Machine

namespace Sys2Proof.Machine
open Claims

/-- The fences of the members launch what they would past all their flush points. -/
theorem launches_fence {i : Instr} {l : Launch} {acq rel : Bool} {sc : Scope} (hl : fenceOf acq rel sc = some l) {s : State} {c : Cur}
    {g : Gang} {ms : List Slice} (hx : exec i s = .next (s.fenceOp acq rel sc)) (hi : Issuing s c g ms) : Launches i l s c ms := by
  cases hl
  refine Launches.of_issue (k := Issue.plain) hi hx rfl rfl (fun m _ => Issue.clear_of_ready rfl rfl rfl (fun _ => ⟨rfl, rfl⟩) nofun) rfl ?_
  rw [State.flush_each (fun t m => .fence acq rel sc (t.fenceWrites m (acq && rel) sc))
    (fun t m y => by rw [State.fenceWrites, State.flushSlice_writes, State.fenceWrites])
    fun _ _ _ _ _ _ _ _ => rfl]
  have waits : (fun m => (s.advance Issue.plain c ms).fenceWrites m (acq && rel) sc) = fun m => awaited s m (acq && rel) sc :=
    funext fun m => State.fenceWrites_of_beyond (State.advance_beyond ..) m _ sc
  simp only [congrFun waits]
  exact Launching.sliceTxns_flushed rfl

/-- No wait of a slice with fewer than four is held (R97). -/
theorem waitHold_free {s : State} {ms : List Slice} (h : fourWaits s ms) (c : Cur) : waitHold c ms s = false :=
  List.any_eq_false.mpr fun m hm => by simpa using h m hm

/-- No push is held that its core has room for (R97). -/
theorem pushHold_free {s : State} {ms : List Slice} (h : pushRoom s ms) (c : Cur) : pushHold c ms s = false := by
  cases ms with
  | nil => rfl
  | cons m ms => exact decide_eq_false (Nat.not_lt.mpr (h m (List.mem_cons_self ..)))

/-- Settles O31: each launches its operations past the flush point of its members, where it is one. -/
theorem syncIssue : Obligations.SyncIssue := by
  intro i l s c g ms hl hi _ hr _ hroom
  cases i with
  | fence | fenceAcq | fenceRel => exact launches_fence hl rfl hi
  | barr d a b =>
    cases hl
    refine Launches.of_issue hi rfl rfl rfl (fun m hm => Issue.clear_of_ready rfl rfl rfl (fun ha => ?_) nofun) rfl
      (Launching.gangTxn_flushed rfl (fun _ => rfl) List.map_eq_flatMap)
    obtain ⟨ready, fit⟩ := hr m hm ha
    exact ⟨ready, State.scalarAccess_fits fit c false⟩
  | bart d a b =>
    cases hl
    refine Launches.of_each hi rfl rfl rfl rfl (fun m hm => Issue.clear_of_ready rfl rfl rfl (fun ha => ?_) nofun) rfl
    obtain ⟨ready, fit⟩ := hr m hm ha
    exact ⟨ready, State.scalarAccess_fits fit c false⟩
  | waitw d a =>
    cases hl
    exact Launches.of_each hi rfl rfl rfl rfl
      (fun m hm => Issue.clear_of_ready rfl rfl rfl (fun ha => ⟨(hr m hm ha).1, rfl⟩) nofun) (waitHold_free hroom c)
  | waitv d a b =>
    cases hl
    refine Launches.of_each hi rfl rfl rfl rfl (fun m hm => Issue.clear_of_ready rfl rfl rfl (fun ha => ?_) nofun)
      (waitHold_free hroom c)
    obtain ⟨ready, fit⟩ := hr m hm ha
    exact ⟨ready, State.scalarAccess_fits fit c false⟩
  | _ => cases hl

/-- Settles O32: each launches an operation of each slice; the supervisor's own are permitted in every member. -/
theorem systemIssue : Obligations.SystemIssue := by
  intro i l s c g ms hl hi hp hr _ hroom
  cases i with
  | ptew d a b =>
    cases hl
    exact Launches.of_each hi rfl rfl rfl rfl
      (fun m hm => Issue.clear_of_permitted rfl (hp m hm) rfl (fun ha => ⟨(hr m hm ha).1, rfl⟩) rfl) rfl
  | fpool d a b =>
    cases hl
    exact Launches.of_each hi rfl rfl rfl rfl
      (fun m hm => Issue.clear_of_permitted rfl (hp m hm) rfl (fun ha => ⟨(hr m hm ha).1, rfl⟩) rfl) rfl
  | trule d a b =>
    cases hl
    refine Launches.of_each hi rfl rfl rfl rfl (fun m hm => Issue.clear_of_permitted rfl (hp m hm) rfl (fun ha => ?_) rfl) rfl
    obtain ⟨ready, fit⟩ := hr m hm ha
    exact ⟨ready, State.scalarAccess_fits fit c false⟩
  | trwq d a b =>
    cases hl
    exact Launches.of_each hi rfl rfl rfl rfl
      (fun m hm => Issue.clear_of_ready rfl rfl rfl (fun ha => ⟨(hr m hm ha).1, rfl⟩) nofun) rfl
  | qpush d a b =>
    cases hl
    exact Launches.of_each hi rfl rfl rfl rfl
      (fun m hm => Issue.clear_of_ready rfl rfl rfl (fun ha => ⟨(hr m hm ha).1, rfl⟩) nofun) (pushHold_free hroom c)
  | _ => cases hl

end Sys2Proof.Machine

namespace Sys2Proof.Machine
open Claims

/-! ## A WAITV is an acquire (O56; R99, R150) -/

/-- The small machine with a WAITV whose word has reached its threshold, 0. -/
def reachedWait : State := Tests.pending (Tests.waitvOf 0#32)

/-- The moment of the latest acquire of the slice that waits. -/
def State.acquired (s : State) : Option Nat := (s.slice? 1).map (·.acqAt)

/-- The WAITV that fills is the latest acquire of its slice (R99). -/
theorem reachedWait_acquires (u : State) (h : exec (.waitvRecheck (Tests.waitvOf 0#32).id) reachedWait = .next u) :
    u.acquired = some 10 := by
  have e : (match exec (.waitvRecheck (Tests.waitvOf 0#32).id) reachedWait with | .next u => u.acquired | _ => none) = some 10 := by
    decide +kernel
  rwa [h] at e

/-- Before it fills, the slice has made no acquire. -/
theorem reachedWait_fresh : reachedWait.acquired = some 0 := by decide +kernel

/-- Refutes O56: a WAITV that fills leaves in its slice not only the word and its full bit but, as the acquire it is, its moment too. -/
theorem not_networkSteps : ¬ Obligations.NetworkSteps := by
  intro h
  obtain ⟨-, -, -, -, -, -, -, -, -, -, waitv⟩ := h
  obtain ⟨due, unsaved, reached⟩ := Tests.test_witness_NetworkSteps_reached
  obtain ⟨fills, -⟩ := waitv reachedWait (Tests.waitvOf 0#32) 0#32 ⟨1, 0, 0, Tests.scratchAddr, 0#64, 0#32, none⟩
    ⟨1, 0, 4#64, 1#4, [.s 4], 0#32, false⟩ 4 due rfl rfl rfl rfl unsaved Tests.test_witness_scratchAddr
  obtain ⟨u, hu, slice, -⟩ := fills (by decide +kernel)
  have kept : u.acquired = reachedWait.acquired := by
    rw [State.acquired, slice, Option.map_map]
    rfl
  rw [reachedWait_acquires u hu, reachedWait_fresh] at kept
  exact absurd kept (by decide)

end Sys2Proof.Machine

namespace Sys2Proof.Machine
open Claims

/-! ## Vector instructions (R33, R36, R103) -/

/-! ### What a write of a vector instruction leaves alone -/

section Writes

variable (x : Slice)

@[simp] theorem Slice.setReg_sid (r : VReg) (k : BitVec 4) (v : Lanes) : (x.setReg r k v).sid = x.sid := by cases r <;> rfl
@[simp] theorem Slice.setReg_stepping (r : VReg) (k : BitVec 4) (v : Lanes) : (x.setReg r k v).stepping = x.stepping := by cases r <;> rfl
@[simp] theorem Slice.setV_sid (d : VDst) (k : BitVec 4) (v : Lanes) : (x.setV d k v).sid = x.sid := by
  unfold Slice.setV
  split <;> simp [Slice.shiftW]
@[simp] theorem Slice.setV_stepping (d : VDst) (k : BitVec 4) (v : Lanes) : (x.setV d k v).stepping = x.stepping := by
  unfold Slice.setV
  split <;> simp [Slice.shiftW]
@[simp] theorem Slice.raise_sid (f : Flags) : (x.raise f).sid = x.sid := rfl
@[simp] theorem Slice.raise_stepping (f : Flags) : (x.raise f).stepping = x.stepping := rfl
@[simp] theorem writeV_sid (d : VDst) (m : Slice) (f : Fin 4 → Word × Flags) : (writeV d m x f).sid = x.sid := by simp [writeV]
@[simp] theorem writeV_stepping (d : VDst) (m : Slice) (f : Fin 4 → Word × Flags) : (writeV d m x f).stepping = x.stepping := by
  simp [writeV]

/-- Lanes without an exception raise none. -/
@[simp] theorem Slice.raise_none (k : BitVec 4) : x.raise (flagsOf k fun _ => Flags.none) = x := by
  have none : flagsOf k (fun _ => Flags.none) = Flags.none := List.foldl_fixed' (fun _ => rfl) _
  have zero : Flags.none.bits = 0#32 := by decide
  rw [none, Slice.raise, zero, BitVec.or_zero]

end Writes

/-! ### Checks at issue (R105, R125) -/

/-- An element type that is admitted raises no arithmetic trap. -/
theorem arithCheck_none {α : Type} {admits : EType → Option α} {m : Slice} (h : (admits (modeEtype m.mode)).isSome = true) (c : Cur) :
    arithCheck admits c m = none := if_pos h

/-- A convertible element type and part index raise no trap. -/
theorem cvtCheck_none {α : Type} {admits : EType → Option α} {ws k : Nat} {m : Slice} (h : convertible admits ws k m) (c : Cur) :
    cvtCheck admits ws k c m = none := by
  obtain ⟨admitted, part⟩ := h
  simp only [cvtCheck, arithCheck_none admitted]
  exact if_neg (Nat.not_le.mpr part)

/-! ### Completing -/

/-- The issue of a per-lane instruction with the registers of its effect. -/
def laneIssue (e : Effect) (early : Cur → Slice → Option TrapRec) : Issue := ⟨.perLane, false, e.uses, e.dst, noCheck, early⟩

section Lanes

variable {i : Instr} {e : Effect} {s : State} {c : Cur} {g : Gang} {ms : List Slice} {early : Cur → Slice → Option TrapRec}
  (hi : Issuing s c g ms) (hr : ∀ m ∈ ms, e.acts m = true → m.ready (e.uses m) (e.dst m) = true ∧ e.need s c m)
  (hw : ∀ m ∈ ms, rests i e.acts e.uses e.dst m) (hp : perLane i = true)
include hr hw hp

/-- Nothing holds a per-lane instruction whose own check its need answers. -/
theorem laneIssue_clear (ha : e.acts = guarded) (he : ∀ m, e.need s c m → early c m = none) :
    ∀ m ∈ ms, (laneIssue e early).clear c m := by
  intro m hm
  refine Issue.clear_of_ready rfl rfl rfl (fun acts => ?_) fun idles _ => hw m hm (ha ▸ idles) hp
  obtain ⟨ready, need⟩ := hr m hm (ha ▸ acts)
  exact ⟨ready, he m need⟩

include hi

/-- A per-lane instruction that nothing holds and that changes each member in which it acts as its effect says completes with that
effect. The change may read the acting members and the machine once all members have moved on. -/
theorem Completes.of_lanes {hold : Cur → List Slice → State → Bool} {f : Cur → List Slice → State → Slice → Slice → Slice}
    (hx : exec i s = .next (s.issue (laneIssue e early) hold fun c l t => l.foldl (fun x m => x.modSlice m.sid (f c l t m)) t))
    (ha : e.acts = guarded) (he : ∀ m, e.need s c m → early c m = none) (hh : hold c (ms.filter guarded) s = false)
    (sid : ∀ c l t m x, (f c l t m x).sid = x.sid) (stepping : ∀ c l t m x, (f c l t m x).stepping = x.stepping)
    (hn : ∀ m x, f c (ms.filter guarded) (s.advance (laneIssue e early) c ms) m x = e.next s c ms m x)
    (hidle : ∀ m sl, idle i ms m sl = sl) : Completes i e Claims.quiet s c ms := by
  obtain ⟨members, others, beyond, cur, gangs⟩ :=
    State.issueSlices_law hi (laneIssue_clear hr hw hp ha he) hh sid stepping rfl
  have stays (m : Slice) : (laneIssue e early).moved c m = moved e c m := by rw [Issue.moved, moved, ha]; rfl
  refine ⟨_, hx, fun m hm => (members m hm).trans ?_, others, beyond, cur, gangs⟩
  rw [stays, hidle, ha]
  exact congrArg some (if_congr Iff.rfl (hn m _) rfl)

variable (hidle : ∀ m sl, idle i ms m sl = sl)
include hidle

/-- A per-lane instruction that changes each member in which it acts by itself completes with the change. -/
theorem Completes.of_ownLanes {f : Slice → Slice → Slice} (hx : exec i s = .next (s.issueLocal (laneIssue e early) f))
    (ha : e.acts = guarded) (he : ∀ m, e.need s c m → early c m = none) (sid : ∀ m x, (f m x).sid = x.sid)
    (stepping : ∀ m x, (f m x).stepping = x.stepping) (hn : ∀ m x, f m x = e.next s c ms m x) : Completes i e Claims.quiet s c ms :=
  Completes.of_lanes (hold := noHold) (f := fun _ _ _ => f) hi hr hw hp hx ha he rfl (fun _ _ _ => sid) (fun _ _ _ => stepping) hn hidle

/-- A vector instruction whose lanes depend on its own slice completes with them. -/
theorem completes_vector {d : VDst} {uses : Slice → List SrcUse} {need : Slice → Prop} {f f' : Slice → Fin 4 → Word × Flags}
    (h : vector d uses need f = some e) (hx : exec i s = .next (s.vecOp uses d early f')) (he : ∀ m, need m → early c m = none)
    (hf : ∀ sl j, f' sl j = f sl j) : Completes i e Claims.quiet s c ms := by
  obtain rfl : f' = f := funext₂ hf
  cases h
  exact Completes.of_ownLanes (f := fun m sl => writeV d m sl (f' m)) hi hr hw hp hidle hx rfl he (fun _ _ => writeV_sid ..)
    (fun _ _ => writeV_stepping ..) fun _ _ => rfl

/-- A two-source instruction completes with the form of its lanes' words. -/
theorem completes_vector2 {d : VDst} {a b : VSrc} {m : Option Modifier} {need : Slice → Prop}
    {f f' : Slice → Word → Word → Word → Word × Flags} (h : vector2 d a b m need f = some e)
    (hx : exec i s = .next (s.vec2 d a b m early f')) (he : ∀ m, need m → early c m = none)
    (hf : ∀ sl x y z, f' sl x y z = f sl x y z) : Completes i e Claims.quiet s c ms :=
  completes_vector hi hr hw hp hidle h hx he fun _ _ => hf ..

/-- A one-source instruction completes with the form of its lanes' words. -/
theorem completes_vector1 {d : VDst} {a : VSrc} {m : Option Modifier} {need : Slice → Prop}
    {f f' : Slice → Word → Word → Word × Flags} (h : vector1 d a m need f = some e)
    (hx : exec i s = .next (s.vec1 d a m early f')) (he : ∀ m, need m → early c m = none)
    (hf : ∀ sl x z, f' sl x z = f sl x z) : Completes i e Claims.quiet s c ms :=
  completes_vector hi hr hw hp hidle h hx he fun _ _ => hf ..

end Lanes

end Sys2Proof.Machine

namespace Sys2Proof.Machine
open Claims

/-! ## The integer vector instructions (O10; R104, R109–R114) -/

/-! ### Elements (R9, R110) -/

/-- An operation on elements that raises nothing packs its results. -/
theorem elemOp_none (w : Nat) (a b d : Word) (f : Nat → Nat → Nat → Nat) :
    elemOp w a b d (fun x y z => (f x y z, Flags.none)) =
      word (packElems w ((List.range (32 / w)).map fun j => f (elem w a j) (elem w b j) (elem w d j))) := by
  simp only [elemOp, List.map_map, List.foldl_map, Function.comp_def, word]
  rw [List.foldl_fixed' fun _ => rfl]

theorem intForm_eq (m : Option Modifier) (op : Int → Int → Int → Int) (sl : Slice) (a b d : Word) :
    intForm m op sl a b d = onInts sl m a b d op := by
  simp only [intForm, onInts, elemOp_none]

theorem patForm_eq (op : Nat → Nat → Nat → Nat) (sl : Slice) (a b d : Word) : patForm op sl a b d = onElems sl a b op := by
  simp only [patForm, onElems, elemOp_none]

/-! ### VCMP (R112) -/

theorem elem_lt (w : Nat) (x : Word) (j : Nat) : elem w x j < 2 ^ w := Nat.mod_lt _ (Nat.two_pow_pos w)

/-- Patterns of n bits are different where their signed values are. -/
theorem intOfBits_inj {n x y : Nat} (hx : x < 2 ^ n) (hy : y < 2 ^ n) : intOfBits x n = intOfBits y n ↔ x = y := by
  have cast : (2 ^ n : Int) = ((2 ^ n : Nat) : Int) := by norm_num
  simp only [intOfBits, Nat.mod_eq_of_lt hx, Nat.mod_eq_of_lt hy, cast]
  generalize 2 ^ n = p at hx hy ⊢
  generalize 2 ^ (n - 1) = q
  split <;> split <;> omega

theorem icondHolds_eq (k : ICond) {n x y : Nat} (hx : x < 2 ^ n) (hy : y < 2 ^ n) : icondHolds k n x y = icond k n x y := by
  cases k with
  | eq => simp only [icondHolds, icond, intOfBits_inj hx hy, beq_eq_decide]
  | ne => simp only [icondHolds, icond, ne_eq, intOfBits_inj hx hy, bne, beq_eq_decide, decide_not]
  | _ => rfl

/-- The bits of the lanes put together one after another. -/
theorem foldl_bits4 (f : Fin 4 → Bool) :
    (List.finRange 4).foldl (fun acc i => acc ||| ((BitVec.ofBool (f i)).setWidth 4 <<< i.val)) 0#4 = bits4 f := by
  have all : ∀ b0 b1 b2 b3 : Bool, (((0#4 ||| (BitVec.ofBool b0).setWidth 4 <<< 0) ||| (BitVec.ofBool b1).setWidth 4 <<< 1) |||
      (BitVec.ofBool b2).setWidth 4 <<< 2) ||| (BitVec.ofBool b3).setWidth 4 <<< 3 =
      BitVec.ofBool b3 ++ BitVec.ofBool b2 ++ BitVec.ofBool b1 ++ BitVec.ofBool b0 := by decide
  exact all (f 0) (f 1) (f 2) (f 3)

/-! ### VSEL (R113) -/

/-- A slice as VSEL sees it has the same mode but for the guard, so the same storage behind each scalar number. -/
theorem LaneKind.view_maskOnly_modeSup (m : Slice) : modeSup (LaneKind.maskOnly.view m).mode = modeSup m.mode := by
  simp [modeSup, LaneKind.view]

section View

variable (m : Slice) (a b : VSrc) (w : Option Modifier)

/-- A slice as VSEL sees it reads the same registers. -/
theorem twoUses_view : twoUses a b w (LaneKind.maskOnly.view m) = twoUses a b w m := by
  simp only [twoUses, Slice.clampUses, Slice.sname, LaneKind.view_maskOnly_modeSup]

theorem Slice.isFull_view (r : RegName) : (LaneKind.maskOnly.view m).isFull r = m.isFull r := by cases r <;> rfl
theorem Slice.badToken_view (r : RegName) : (LaneKind.maskOnly.view m).badToken r = m.badToken r := by cases r <;> rfl

variable (us : List SrcUse) (dst : List RegName)

theorem Slice.ready_view : (LaneKind.maskOnly.view m).ready us dst = m.ready us dst := by
  simp only [Slice.ready, funext (Slice.isFull_view m), Slice.badToken_view]

theorem Slice.calm_view : (LaneKind.maskOnly.view m).calm us dst = m.calm us dst := by
  simp only [Slice.calm, funext (Slice.isFull_view m)]

end View

section Integer

variable {e : Effect} {s : State} {c : Cur} {g : Gang} {ms : List Slice} (hi : Issuing s c g ms)
  (hr : ∀ m ∈ ms, e.acts m = true → m.ready (e.uses m) (e.dst m) = true ∧ e.need s c m)
include hi hr

/-- VCMP completes with the predicate bits of its condition (R112). -/
theorem completes_vcmp {d : ICmp} {a b : VSrc} {m : Option Modifier} (h : integerTable (.vcmp d a b m) = some e)
    (hw : ∀ o ∈ ms, rests (.vcmp d a b m) e.acts e.uses e.dst o) : Completes (.vcmp d a b m) e Claims.quiet s c ms := by
  cases h
  refine Completes.of_ownLanes (early := noCheck) hi hr hw rfl (fun _ _ => rfl) rfl rfl (fun _ _ => rfl) ?_ ?_ fun o x => ?_
  · exact fun _ _ => rfl
  · exact fun _ _ => rfl
  · simp only [Slice.raise_none, foldl_bits4, icondHolds_eq _ (elem_lt ..) (elem_lt ..)]

/-- PLOG completes with the bits of its operation (R114). -/
theorem completes_plog {d : PLogD} {a b : PReg} {m : Option Modifier} (h : integerTable (.plog d a b m) = some e)
    (hw : ∀ o ∈ ms, rests (.plog d a b m) e.acts e.uses e.dst o) : Completes (.plog d a b m) e Claims.quiet s c ms := by
  cases h
  exact Completes.of_ownLanes (early := noCheck) (f := fun sl t => t.setP d.p sl.active (plogBits d.op (sl.p.get a) (sl.p.get b)))
    hi hr hw rfl (fun _ _ => rfl) rfl rfl (fun _ _ => rfl) (fun _ _ => rfl) (fun _ _ => rfl) fun _ _ => rfl

/-- VSEL completes in every member with a lane in its active mask (R113). -/
theorem completes_vsel {d : VDst} {a b : VSrc} {m : Option Modifier} (h : integerTable (.vsel d a b m) = some e)
    (hw : ∀ o ∈ ms, rests (.vsel d a b m) e.acts e.uses e.dst o) : Completes (.vsel d a b m) e Claims.quiet s c ms := by
  cases h
  refine Completes.of_slices (f := fun _ _ sl t => t.setV d sl.amask (Lanes.merge sl.guardBits (sl.readV a.reg) (sl.readV b.reg))) hi rfl
    rfl rfl (fun o ho => ⟨rfl, fun ha => ⟨?_, rfl⟩, fun ha _ => ?_⟩) rfl (fun _ _ _ => Slice.setV_sid ..)
    (fun _ _ _ => Slice.setV_stepping ..) (fun _ _ _ => rfl) fun _ _ => rfl
  · exact (congrArg (fun us => Slice.ready _ us _) (twoUses_view ..)).trans ((Slice.ready_view ..).trans (hr o ho ha).1)
  · exact (congrArg (fun us => Slice.calm _ us _) (twoUses_view ..)).trans ((Slice.calm_view ..).trans (hw o ho ha rfl))

end Integer

/-- Settles O10: each instruction writes the lanes, or the predicate, of its operation on the elements. -/
theorem vectorInteger : Obligations.VectorInteger := by
  intro i e s c g ms he hi _ hr hw
  unfold integerTable at he
  cases i with
  | vadd | vsub | vmul | vmad =>
    exact completes_vector2 hi hr hw rfl (fun _ _ => rfl) he rfl (fun _ _ => rfl) fun sl x y z => intForm_eq _ _ sl x y z
  | vmulh | vmin | vmax | vminu | vmaxu | vabsd | vshl | vshr | vsar | vrot =>
    exact completes_vector2 hi hr hw rfl (fun _ _ => rfl) he rfl (fun _ _ => rfl) fun sl x y z => patForm_eq _ sl x y z
  | vand | vor | vxor | vandn | vdot4 =>
    exact completes_vector2 hi hr hw rfl (fun _ _ => rfl) he rfl (fun _ _ => rfl) fun _ _ _ _ => rfl
  | vclz | vbitc =>
    exact completes_vector1 hi hr hw rfl (fun _ _ => rfl) he rfl (fun _ _ => rfl) fun sl x z => patForm_eq _ sl x 0#32 z
  | vli | vbcs => exact completes_vector hi hr hw rfl (fun _ _ => rfl) he rfl (fun _ _ => rfl) fun _ _ => rfl
  | vcmp => exact completes_vcmp hi hr he hw
  | vsel => exact completes_vsel hi hr he hw
  | plog => exact completes_plog hi hr he hw
  | _ => cases he

end Sys2Proof.Machine

namespace Sys2Proof.Machine
open Claims

/-! ## The complex instructions (O12; R120–R123) -/

/-- CBFLY completes with both registers of its pair and the exceptions of its roundings (R122). -/
theorem completes_cbfly {d : VPairDst} {a : VPairSrc} {b : VSrc} {m : Option Modifier} {e : Effect} {s : State} {c : Cur} {g : Gang}
    {ms : List Slice} (h : complexTable (.cbfly d a b m) = some e) (hi : Issuing s c g ms)
    (hr : ∀ o ∈ ms, e.acts o = true → o.ready (e.uses o) (e.dst o) = true ∧ e.need s c o)
    (hw : ∀ o ∈ ms, rests (.cbfly d a b m) e.acts e.uses e.dst o) : Completes (.cbfly d a b m) e Claims.quiet s c ms := by
  cases h
  refine Completes.of_ownLanes (early := arithCheck Machine.complexFmt) hi hr hw rfl (fun _ _ => rfl) rfl rfl
    (fun _ need => arithCheck_none need c) ?_ ?_ fun _ _ => rfl
  · exact fun _ _ => by simp
  · exact fun _ _ => by simp

/-- Settles O12: each instruction writes the lanes of its complex elements, or of its twiddle factor. -/
theorem vectorComplex : Obligations.VectorComplex := by
  intro i e s c g ms he hi _ hr hw
  unfold complexTable at he
  cases i with
  | cmul | cfma | cconj =>
    exact completes_vector hi hr hw rfl (fun _ _ => rfl) he rfl (fun _ need => arithCheck_none need c) fun _ _ => rfl
  | cbfly => exact completes_cbfly he hi hr hw
  | ctwid => exact completes_vector hi hr hw rfl (fun _ _ => rfl) he rfl (fun _ _ => rfl) fun _ _ => rfl
  | _ => cases he

end Sys2Proof.Machine

namespace Sys2Proof.Machine
open Claims

/-! ## The conversions (O13; R124–R131) -/

/-- The block of MXQ is that of the members with an active lane. -/
theorem mxBlock_acting (l : List Slice) (a : VSrc) (mode : Word) : mxBlock (l.filter guarded) a mode = mxBlock l a mode := by
  induction l with
  | nil => rfl
  | cons m t ih =>
    rw [List.filter_cons]
    split
    · exact congrArg _ ih
    · next h =>
      have off : m.active = 0#4 := by simpa [guarded] using h
      have none : lanesOf m.active = [] := by rw [off]; decide
      simp only [mxBlock, List.flatMap_cons, none, List.map_nil, List.nil_append]
      exact ih

/-- What MXQ makes of a slice, given the members of its block (R129). -/
def mxqSlice (d : VDst) (a : VSrc) (l : List Slice) (o sl : Slice) : Slice :=
  let f := (mxFmt (modeEtype o.mode)).getD .e4m3
  writeV d o sl fun i =>
    mxqLane o.mode f (mxScale o.mode f (mxBlock l a o.mode)) (decFp .fp32 (modeFtz o.mode) ((o.readV a.reg).get i).toNat)

theorem mxqSlice_acting (d : VDst) (a : VSrc) (l : List Slice) : mxqSlice d a (l.filter guarded) = mxqSlice d a l := by
  funext o sl
  simp only [mxqSlice, mxBlock_acting]

section Conversion

variable {e : Effect} {s : State} {c : Cur} {g : Gang} {ms : List Slice} (hi : Issuing s c g ms)
  (hr : ∀ m ∈ ms, e.acts m = true → m.ready (e.uses m) (e.dst m) = true ∧ e.need s c m)
include hi hr

/-- A conversion completes with the elements of its part (R125). -/
theorem completes_conversion {i : Instr} {α : Type} {d : VDst} {a : VSrc} {m : Option Modifier} {admits : EType → Option α} {ws k : Nat}
    {conv : Slice → Nat → Nat × Flags} (hw : ∀ o ∈ ms, rests i e.acts e.uses e.dst o) (hp : perLane i = true)
    (hidle : ∀ m sl, idle i ms m sl = sl) (h : conversion d a m ws k (convertible admits ws k) conv = some e)
    (hx : exec i s = .next (s.cvtOp d a m admits ws k conv)) : Completes i e Claims.quiet s c ms :=
  completes_vector1 hi hr hw hp hidle h hx (fun _ need => cvtCheck_none need c) fun _ _ _ => rfl

/-- MXQ completes with the scale of its block and the elements under it (R129). -/
theorem completes_mxq {d : VDst} {a : VSrc} {m : Option Modifier} (h : convertTable (.mxq d a m) = some e)
    (hw : ∀ o ∈ ms, rests (.mxq d a m) e.acts e.uses e.dst o) : Completes (.mxq d a m) e Claims.quiet s c ms := by
  cases h
  exact Completes.of_lanes (early := arithCheck mxFmt) (hold := noHold) (f := fun _ l _ => mxqSlice d a l) hi hr hw rfl rfl rfl
    (fun _ need => arithCheck_none need c) rfl (fun _ _ _ _ _ => writeV_sid ..) (fun _ _ _ _ _ => writeV_stepping ..)
    (fun o x => congrFun₂ (mxqSlice_acting d a ms) o x) fun _ _ => rfl

end Conversion

/-- Settles O13: each instruction writes the lanes of its conversion. -/
theorem conversions : Obligations.Conversions := by
  intro i e s c g ms he hi _ hr hw
  unfold convertTable at he
  cases i with
  | fcvt | ftoi | itof => exact completes_conversion hi hr hw rfl (fun _ _ => rfl) he rfl
  | pack =>
    exact completes_vector2 hi hr hw rfl (fun _ _ => rfl) he rfl (fun _ need => arithCheck_none need c) fun _ _ _ _ => rfl
  | unpk | mxdq =>
    exact completes_vector1 hi hr hw rfl (fun _ _ => rfl) he rfl (fun _ need => arithCheck_none need c) fun _ _ _ => rfl
  | mxq => exact completes_mxq hi hr he hw
  | cbd =>
    cases he
    exact Completes.of_ownLanes (early := noCheck) hi hr hw rfl (fun _ _ => rfl) rfl rfl (fun _ _ => rfl) (fun _ _ => writeV_sid ..)
      (fun _ _ => writeV_stepping ..) fun _ _ => rfl
  | _ => cases he

end Sys2Proof.Machine

namespace Sys2Proof.Machine
open Claims

/-! ## The cross-lane instructions (O14; R132–R137) -/

/-! ### What moving on leaves of a slice's lanes -/

section Moved

variable (k : Issue) (c : Cur) (m : Slice)

/-- Moving on changes no field of a slice but its PC and the check marks of its scalars. -/
theorem Issue.moved_keeps {β : Type} (p : Slice → β) (hm : ∀ sl r, p (sl.clearMark r) = p sl)
    (hpc : ∀ sl pc, p { sl with pc := pc } = p sl) :
    p (k.moved c m) = p m := by
  unfold Issue.moved
  rw [hpc]
  split
  · exact Slice.clearMarks_keeps p hm ..
  · rfl

@[simp] theorem Issue.moved_core : (k.moved c m).core = m.core :=
  Issue.moved_keeps k c m Slice.core (fun _ r => by cases r <;> rfl) fun _ _ => rfl
@[simp] theorem Issue.moved_place : (k.moved c m).place = m.place :=
  Issue.moved_keeps k c m Slice.place (fun _ r => by cases r <;> rfl) fun _ _ => rfl
@[simp] theorem Issue.moved_mode : (k.moved c m).mode = m.mode :=
  Issue.moved_keeps k c m Slice.mode (fun _ r => by cases r <;> rfl) fun _ _ => rfl
@[simp] theorem Issue.moved_p : (k.moved c m).p = m.p :=
  Issue.moved_keeps k c m Slice.p (fun _ r => by cases r <;> rfl) fun _ _ => rfl
@[simp] theorem Issue.moved_active : (k.moved c m).active = m.active :=
  Issue.moved_keeps k c m Slice.active (fun _ r => by cases r <;> rfl) fun _ _ => rfl
@[simp] theorem Issue.moved_pos : (k.moved c m).pos = m.pos :=
  Issue.moved_keeps k c m Slice.pos (fun _ r => by cases r <;> rfl) fun _ _ => rfl
@[simp] theorem Issue.moved_readV (r : VSrcReg) : (k.moved c m).readV r = m.readV r :=
  Issue.moved_keeps k c m (fun x => x.readV r) (fun _ x => by cases x <;> cases r <;> rfl) fun _ _ => by cases r <;> rfl

end Moved

/-- The gang of the latch, once its members have moved on (R132). -/
theorem Issuing.gangMembers_advance {s : State} {c : Cur} {g : Gang} {ms : List Slice} (hi : Issuing s c g ms) (k : Issue) :
    (s.advance k c ms).gangMembers c = ms.map (k.moved c) := by
  let p (x : Slice) : Bool := x.place == .resident && x.core == g.core
  have gang : (s.advance k c ms).gang? c.gid = some g := by
    rw [State.gang?, State.advance_gangs]
    exact hi.gang
  have kept (x : Slice) : p (k.moved c x) = p x := by simp [p]
  have member (a : Nat) (ha : a ∈ g.members) :
      ((s.advance k c ms).slice? a).filter p = ((s.slice? a).filter p).map (k.moved c) := by
    by_cases hs : a ∈ ms.map (·.sid)
    · obtain ⟨m, hm, rfl⟩ := List.mem_map.mp hs
      have pm : p m = true := (List.mem_filter.mp (hi.members.symm ▸ hm : m ∈ s.membersOf g)).2
      rw [hi.moved k hm, hi.mem hm, Option.filter_some_pos ((kept m).trans pm), Option.filter_some_pos pm, Option.map_some]
    · have none : (s.slice? a).filter p = none := by
        refine Option.filter_eq_none_iff.mpr fun x hx px => hs ?_
        have mem : x ∈ ms := hi.members ▸ List.mem_filter.mpr ⟨List.mem_filterMap.mpr ⟨a, ha, hx⟩, px⟩
        exact List.mem_map.mpr ⟨x, mem, State.slice?_sid hx⟩
      rw [hi.moved_other k hs, none]
      rfl
  have before : (g.members.filterMap s.slice?).filter p = ms := hi.members
  rw [State.gangMembers, gang]
  conv_rhs => rw [← before]
  show (g.members.filterMap (s.advance k c ms).slice?).filter p = _
  rw [List.filter_filterMap, List.filter_filterMap, List.map_filterMap]
  exact List.filterMap_congr member

/-! ### What the lanes in scope give (R132–R135) -/

section Scope

variable (k : Issue) (c : Cur) (ms : List Slice) (m : Slice)

theorem ballotBits_moved (p : PReg) : ballotBits p (ms.map (k.moved c)) = ballotBits p ms := by
  simp only [ballotBits, List.foldl_map, Issue.moved_active, Issue.moved_p, Issue.moved_pos]

theorem activeLanes_moved (r : VSrcReg) : activeLanes (ms.map (k.moved c)) r = activeLanes ms r := by
  refine List.map_congr_left fun j _ => ?_
  rw [List.find?_map]
  simp only [Function.comp_def, Issue.moved_pos]
  cases ms.find? fun x => x.pos == j / 4 with
  | none => rfl
  | some x => simp only [Option.map_some, Issue.moved_active, Issue.moved_readV]

theorem laneOf_moved (r : VSrcReg) (j : Nat) : laneOf (ms.map (k.moved c)) r j = laneOf ms r j := by
  unfold laneOf
  rw [List.find?_map]
  simp only [Function.comp_def, Issue.moved_pos]
  cases ms.find? fun x => x.pos == j / 4 with
  | none => rfl
  | some x => simp only [Option.map_some, Issue.moved_readV]

/-- The lane of the octet that a lane number names (R134). -/
theorem laneOf_eq (r : VSrcReg) (j : Nat) : laneOf ms r j = octetLane ms r j := by
  unfold laneOf octetLane Slice.pos
  cases ms.find? fun x => x.slot % 8 == j / 4 with
  | none => rfl
  | some x =>
    have lane : Fin.ofNat 4 j = Fin.ofNat 4 (j % 4) := Fin.ext (Nat.mod_mod ..).symm
    dsimp only
    rw [lane, ← ite_not]
    simp only [Nat.not_le]

theorem scopeOf_moved (gang : Bool) : scopeOf gang (ms.map (k.moved c)) (k.moved c m) = (scopeOf gang ms m).map (k.moved c) := by
  cases gang <;> rfl

theorem redTree_moved (b : RedB) (r : VSrcReg) : redTree b r (ms.map (k.moved c)) (k.moved c m) = redTree b r ms m := by
  simp only [redTree, scopeOf_moved, activeLanes_moved, Issue.moved_mode]

/-- The ballot of a member that stands as at issue among members that have moved on. -/
theorem ballotBits_scope (gang : Bool) (p : PReg) :
    ballotBits p (scopeOf gang (ms.map (k.moved c)) m) = ballotBits p (if gang then ms else [m]) := by
  cases gang with
  | true => exact ballotBits_moved ..
  | false => rfl

/-- The lanes in the scope of a member that stands as at issue among members that have moved on. -/
theorem activeLanes_scope (gang : Bool) (r : VSrcReg) :
    activeLanes (scopeOf gang (ms.map (k.moved c)) m) r = activeLanes (if gang then ms else [m]) r := by
  cases gang with
  | true => exact activeLanes_moved ..
  | false => rfl

theorem popcount'_eq (n : Nat) (x : Word) : execVpopc.popcount' n x.toNat = (List.range n).countP fun j => x.getLsbD j := by
  rw [List.countP_eq_length_filter]
  rfl

end Scope

/-! ### Completing -/

section Cross

variable {i : Instr} {e : Effect} {s : State} {c : Cur} {g : Gang} {ms : List Slice} (hi : Issuing s c g ms)
include hi

/-- An instruction that nothing holds and that changes every member of its gang, each as its effect says or leaves it, completes with that
effect. -/
theorem Completes.of_members {k : Issue} {hold : Cur → List Slice → State → Bool} {perform : Cur → List Slice → State → State}
    {F : Slice → Slice → Slice} (hx : exec i s = .next (s.issue k hold perform)) (hacts : k.kind.acts = e.acts)
    (huses : k.srcs = e.uses) (hc : ∀ m ∈ ms, k.clear c m) (hh : hold c (ms.filter k.kind.acts) s = false)
    (sid : ∀ m x, (F m x).sid = x.sid) (stepping : ∀ m x, (F m x).stepping = x.stepping)
    (hp : perform c (ms.filter k.kind.acts) (s.advance k c ms) = ms.foldl (fun x m => x.modSlice m.sid (F m)) (s.advance k c ms))
    (hn : ∀ m ∈ ms, F m (moved e c m) = if e.acts m then e.next s c ms m (moved e c m) else idle i ms m (moved e c m)) :
    Completes i e Claims.quiet s c ms := by
  let t := s.advance k c ms
  let v := ms.foldl (fun x m => x.modSlice m.sid (F m)) t
  have keeps {β : Type} (p : State → β) (h : ∀ (u : State) x, p { u with slices := x } = p u) : p v = p t :=
    State.modSlices_field p h (·.sid) F ms t
  have slices : v.slices = ms.foldl (fun l m => modList l m.sid (F m)) t.slices := slices_foldl _ _ _ (fun _ _ => rfl) t
  have found (b : Nat) := find?_foldl_modList ms F sid hi.nodup t.slices b
  rw [← slices] at found
  have members : ∀ m ∈ ms, v.slice? m.sid = some (F m (k.moved c m)) := fun m hm => by
    have at_ := found m.sid
    rw [find?_member hi.nodup hm] at at_
    exact at_.trans (congrArg (Option.map (F m)) (hi.moved k hm))
  have others : ∀ b, b ∉ ms.map (·.sid) → v.slice? b = s.slice? b := fun b hb => by
    have at_ := found b
    rw [find?_absent hb] at at_
    exact at_.trans (hi.moved_other k hb)
  have unstepped : ∀ m ∈ ms, v.steps m.sid = false := fun m hm => by
    rw [State.steps, members m hm, Option.map_some, Option.getD_some, stepping, Issue.moved_stepping]
    exact hi.free m hm
  have stays (m : Slice) : k.moved c m = moved e c m := by rw [Issue.moved, moved, hacts, huses]
  obtain ⟨left, beyond, cur, gangs⟩ := State.issue_left (perform := perform) hi hc hh (hp ▸ unstepped)
  rw [hp] at left beyond gangs
  have same (b : Nat) : (s.issue k hold perform).slice? b = v.slice? b := by
    rw [State.slice?, left]
    rfl
  refine ⟨_, hx, fun m hm => ?_, fun b hb => (same b).trans (others b hb), ?_, cur, fun hy => ⟨?_, ?_⟩⟩
  · rw [same, members m hm, stays, hn m hm]
  · exact beyond.trans ((keeps State.beyond fun _ _ => rfl).trans (State.advance_beyond ..))
  · exact (gangs hy).1.trans ((keeps State.gangs fun _ _ => rfl).trans (State.advance_gangs ..))
  · exact (gangs hy).2.trans ((keeps State.nextId fun _ _ => rfl).trans (State.advance_nextId ..))

variable {early : Cur → Slice → Option TrapRec}
  (hr : ∀ m ∈ ms, e.acts m = true → m.ready (e.uses m) (e.dst m) = true ∧ e.need s c m)
  (hw : ∀ m ∈ ms, rests i e.acts e.uses e.dst m)
include hr hw

/-- A vector instruction whose lanes depend on the gang's members completes with them. -/
theorem completes_crossing {d : VDst} {uses : List SrcUse} {need : State → Cur → Slice → Prop}
    {f f' : List Slice → Slice → Fin 4 → Word × Flags} {hold : Cur → List Slice → State → Bool} (hp : perLane i = true)
    (hidle : ∀ m sl, idle i ms m sl = sl) (h : crossing d uses need f = some e)
    (hx : exec i s = .next (s.crossOp d (fun _ => uses) early hold f')) (he : ∀ m, need s c m → early c m = none)
    (hh : (∀ m ∈ ms.filter guarded, need s c m) → hold c (ms.filter guarded) s = false)
    (hf : ∀ (k : Issue) m j, f' (ms.map (k.moved c)) m j = f ms m j) :
    Completes i e Claims.quiet s c ms := by
  cases h
  refine Completes.of_lanes (early := early) (f := fun c _ t m sl => writeV d m sl (f' (t.gangMembers c) m)) hi hr hw hp hx rfl he
    (hh fun m hm => ?_) (fun _ _ _ _ _ => writeV_sid ..) (fun _ _ _ _ _ => writeV_stepping ..) (fun m x => ?_) hidle
  · exact (hr m (List.mem_of_mem_filter hm) (List.mem_filter.mp hm).2).2
  · rw [hi.gangMembers_advance, funext (hf _ m)]

end Cross

/-- A shuffle does not wait where each member that acts finds the source of every member of the gang full (R136). -/
theorem gangEmpty_free {a : VSrc} {s : State} {c : Cur} {l : List Slice} (h : ∀ m ∈ l, gangFull a s c m) :
    gangEmpty a c l s = false := by
  cases l with
  | nil => rfl
  | cons m t =>
    have full := h m List.mem_cons_self
    refine Bool.and_eq_false_iff.mpr (.inr ?_)
    simpa [List.any_eq_false, gangFull] using full

/-! ### VRED (R135, R137) -/

theorem redSlice_sid (d : VDst) (a : VSrc) (b : RedB) (l : List Slice) (m x : Slice) : (redSlice d a b l m x).sid = x.sid := by
  unfold redSlice
  dsimp only
  split
  · simp
  · split <;> rfl

theorem redSlice_stepping (d : VDst) (a : VSrc) (b : RedB) (l : List Slice) (m x : Slice) :
    (redSlice d a b l m x).stepping = x.stepping := by
  unfold redSlice
  dsimp only
  split
  · simp
  · split <;> rfl

theorem redSlice_moved (d : VDst) (a : VSrc) (b : RedB) (k : Issue) (c : Cur) (ms : List Slice) (m : Slice) :
    redSlice d a b (ms.map (k.moved c)) (k.moved c m) = redSlice d a b ms m := by
  funext x
  simp only [redSlice, redTree_moved, Issue.moved_active, Issue.moved_mode]

/-- VRED completes with the value of its tree, and with the exceptions in every member in its scope. -/
theorem completes_vred {d : VDst} {a : VSrc} {b : RedB} {e : Effect} {s : State} {c : Cur} {g : Gang} {ms : List Slice}
    (h : crossTable (.vred d a b) = some e) (hi : Issuing s c g ms)
    (hr : ∀ m ∈ ms, e.acts m = true → m.ready (e.uses m) (e.dst m) = true ∧ e.need s c m)
    (hw : ∀ m ∈ ms, rests (.vred d a b) e.acts e.uses e.dst m) : Completes (.vred d a b) e Claims.quiet s c ms := by
  cases h
  refine Completes.of_members (F := redSlice d a b ms) hi rfl rfl rfl
    (laneIssue_clear (early := arithCheck (redAdmits b.op)) hr hw rfl rfl fun _ need => arithCheck_none need c) rfl (redSlice_sid d a b ms)
    (redSlice_stepping d a b ms) ?_ fun m _ => rfl
  rw [hi.gangMembers_advance, List.foldl_map]
  simp only [redSlice_moved, Issue.moved_sid]

/-- Settles O14: each instruction writes what the lanes in its scope give, which moving on leaves as they stood at issue. -/
theorem crossLane : Obligations.CrossLane := by
  intro i e s c g ms he hi _ hr hw
  cases i with
  | vballot d p gang =>
    exact completes_crossing hi hr hw rfl (fun _ _ => rfl) he rfl (fun _ _ => rfl) (fun _ => rfl) fun k m _ =>
      congrArg word (ballotBits_scope k c ms m gang p)
  | vpopc d a all =>
    exact completes_crossing hi hr hw rfl (fun _ _ => rfl) he rfl (fun _ _ => rfl) (fun _ => rfl) fun _ _ _ =>
      congrArg (fun n => word (BitVec.ofNat 32 n)) (popcount'_eq ..)
  | vshuf d a b =>
    exact completes_crossing hi hr hw rfl (fun _ _ => rfl) he rfl (fun _ _ => rfl) gangEmpty_free fun k _ _ =>
      congrArg word ((laneOf_moved ..).trans (laneOf_eq ..))
  | vbcast d a j =>
    exact completes_crossing hi hr hw rfl (fun _ _ => rfl) he rfl (fun _ _ => rfl) gangEmpty_free fun k _ _ =>
      congrArg word ((laneOf_moved ..).trans (laneOf_eq ..))
  | vmovs =>
    cases he
    exact Completes.of_regs hi rfl rfl (fun m hm ha => (hr m hm ha).1) (fun _ _ => Slice.setS_sid ..) (fun _ _ => Slice.setS_stepping ..)
      (fun _ _ => rfl) fun _ _ => rfl
  | vscan d a b =>
    refine completes_crossing hi hr hw rfl (fun _ _ => rfl) he rfl (fun _ need => arithCheck_none need c) (fun _ => rfl) fun k m j => ?_
    rw [activeLanes_scope]
    rfl
  | vred => exact completes_vred he hi hr hw
  | _ => cases he

end Sys2Proof.Machine

namespace Sys2Proof.Machine
open Claims

/-! ## Stores and atomics at issue (O29, O30; R34, R139, R144, R145, R155–R159, R162, R350) -/

/-! ### Landing windows (R350) -/

/-- Lanes that name no active landing window trap on none. -/
theorem State.landingTrap_clear {s : State} {m : Slice} {addr : Fin 4 → DWord} (h : clearOfLanding s m addr) (c : Cur) (case : BitVec 8) :
    s.landingTrap m c addr case = none := by
  have none_ : ((lanesOf m.active).find? fun i => s.inLanding m (addr i)) = none := by
    refine List.find?_eq_none.mpr fun i hi => ?_
    have active : m.active.getLsbD i.val = true := (List.mem_filter.mp hi).2
    simp [h i active]
  rw [State.landingTrap, none_]

theorem State.scalarLandingTrap_clear {s : State} {m : Slice} {x : DWord} (h : s.inLanding m x = false) (c : Cur) :
    s.scalarLandingTrap m c x = none := by
  rw [State.scalarLandingTrap, h]; rfl

/-! ### The use of an atomic (R158, R159) -/

theorem atomIsRead_iff {op : AtomOp} {ret : Bool} {b : VSrcReg} :
    atomIsRead op ret b = true ↔ ret = true ∧ (op = .add ∨ op = .or ∨ op = .xor) ∧ b = .z := by
  simp [atomIsRead, and_assoc, or_assoc]

/-- The use an atomic of one vector is performed with is the one it is outstanding with. -/
theorem atomUse_atomIsRead (op : AtomOp) (d : Option VReg) (b : VSrcReg) (u : AtomUse) :
    atomUse (atomIsRead op d.isSome b) u = useOf op d b u := by
  simp only [useOf, ← atomIsRead_iff]
  cases atomIsRead op d.isSome b <;> cases u <;> rfl

/-! ### Per-lane and scalar accesses -/

section Access

variable {i : Instr} {l : Launch} {s : State} {c : Cur} {g : Gang} {ms : List Slice} (hi : Issuing s c g ms)
  (hr : ∀ m ∈ ms, l.acts m = true → m.ready (l.uses m) (l.dst m) = true ∧ l.need s m)
include hi hr

/-- A scalar access launches an operation of each slice in which it acts where its check passes there. -/
theorem Launches.of_scalars {early : Cur → Slice → Option TrapRec}
    (hx : exec i s = .next (s.issue ⟨.guarded, false, l.uses, l.dst, noCheck, early⟩ noHold
      fun c ms t => (t.flushed l.flush ms).sliceTxns c ms (l.kind s) l.size l.dst l.lanes))
    (hacts : l.acts = guarded) (he : l.each = true) (pass : ∀ m, l.need s m → early c m = none) : Launches i l s c ms := by
  refine Launches.of_each hi hx he hacts.symm rfl (fun m hm => Issue.clear_of_ready rfl rfl rfl (fun ha => ?_) nofun) rfl
  obtain ⟨ready, need⟩ := hr m hm (hacts ▸ ha)
  exact ⟨ready, pass m need⟩

theorem launches_sstore {rel : Option Scope} {d : SSrc} {a : SPairSrc} (hl : sstore rel d a = some l)
    (hx : exec i s = .next (s.scalarStore rel d a)) : Launches i l s c ms := by
  cases hl
  exact Launches.of_scalars hi hr hx rfl rfl fun m fit => State.scalarAccess_fits fit c true

variable (hw : ∀ m ∈ ms, rests i l.acts l.uses l.dst m) (hp : perLane i = true)
include hw hp

/-- A per-lane access of a gang launches its one operation where its check passes in every member in which it acts. -/
theorem Launches.of_lanes {early : Cur → Slice → Option TrapRec} {kind : TxnKind}
    (hx : exec i s = .next (s.issue ⟨.perLane, false, l.uses, l.dst, noCheck, early⟩ noHold
      fun c ms t => t.gangTxn c ms kind l.size l.dst (ms.flatMap l.lanes)))
    (hacts : l.acts = guarded) (he : l.each = false) (hf : l.flush = false) (hk : ∀ m, l.kind s m = kind)
    (pass : ∀ m, l.need s m → early c m = none) : Launches i l s c ms := by
  refine Launches.of_issue hi hx hacts.symm rfl (fun m hm => Issue.clear_of_ready rfl rfl rfl (fun ha => ?_) fun ha _ => ?_) rfl
    (Launching.gangTxn he hf hk rfl)
  · obtain ⟨ready, need⟩ := hr m hm (hacts ▸ ha)
    exact ⟨ready, pass m need⟩
  · exact hw m hm (hacts ▸ ha) hp

/-- A per-lane store passes its check where its lanes fit and, below a word, name no landing window (R145, R350). -/
theorem launches_vstore {rel : Option Scope} {size : Nat} {uses : Slice → List SrcUse} {addr data : Slice → Fin 4 → DWord}
    (hl : vstore rel size uses addr data = some l) (hx : exec i s = .next (s.storeOp rel size uses addr data)) : Launches i l s c ms := by
  cases hl
  refine Launches.of_lanes hi hr hw hp hx rfl rfl rfl (fun _ => rfl) fun m need => ?_
  obtain ⟨fit, clear⟩ := need
  refine Option.or_eq_none_iff.mpr ⟨State.laneAccess_fit fit c true, ?_⟩
  split
  · next small => exact State.landingTrap_clear (clear small) c _
  · rfl

/-- An atomic passes its check where its lanes fit and name no landing window (R157, R350). -/
theorem launches_atomic {op : AtomOp} {d : Option VReg} {a : SPairSrc} {bUses : List SrcUse} {lit : AtomLit} {use : AtomUse} {read : Bool}
    {data cmp : Slice → Fin 4 → Word} (hl : atomic op d a bUses lit use data cmp = some l)
    (hx : exec i s = .next (s.atomOp op d a lit read bUses data cmp)) (huse : atomUse read lit.use = use)
    (returns : read = true → d.isSome = true) : Launches i l s c ms := by
  cases hl
  have reads : (d.isSome || read) = d.isSome := Bool.or_eq_left_iff_imp.mpr returns
  refine Launches.of_lanes hi hr hw hp
    (early := fun c m => (s.laneAccess m c (m.vecAddr a lit.off) 4 atomWindows 4 true).or (s.landingTrap m c (m.vecAddr a lit.off) 4#8))
    (hx.trans ?_) rfl rfl rfl (fun _ => rfl) fun m need => ?_
  · unfold State.atomOp
    rw [huse, reads]
    cases d <;> rfl
  · obtain ⟨fit, clear⟩ := need
    exact Option.or_eq_none_iff.mpr ⟨State.laneAccess_fit fit c true, State.landingTrap_clear clear c _⟩

/-- An atomic of one vector returns the old words where it is an atomic read. -/
theorem launches_atomic1 {op : AtomOp} {d : Option VReg} {a : SPairSrc} {b : VSrc} {lit : AtomLit} (hl : atomic1 op d a b lit = some l)
    (hx : exec i s = .next (s.atomVec op d a b lit)) : Launches i l s c ms :=
  launches_atomic hi hr hw hp hl hx (atomUse_atomIsRead ..) fun read => (atomIsRead_iff.mp read).1

end Access

/-- Settles O29: every store is a per-lane or a scalar one. -/
theorem storesIssue : Obligations.StoresIssue := by
  intro i l s c g ms hl hi _ hr hw _
  cases i with
  | stB | stH | stW | stRel | stp => exact launches_vstore hi hr hw rfl hl rfl
  | sts | stsRel => exact launches_sstore hi hr hl rfl
  | _ => cases hl

/-- Settles O30: every atomic is one of a vector, the CAS of a pair, or AMAXX. -/
theorem atomicsIssue : Obligations.AtomicsIssue := by
  intro i l s c g ms hl hi _ hr hw _
  cases i with
  | atomAdd | atomMin | atomMax | atomAnd | atomOr | atomXor | atomXchg => exact launches_atomic1 hi hr hw rfl hl rfl
  | atomCas d a b lit =>
    have use : atomUse false lit.use = if lit.use = .nonOrdering ∨ lit.use = .quantum then .unpaired else lit.use := by
      cases lit.use <;> rfl
    exact launches_atomic hi hr hw rfl hl rfl use nofun
  | amaxx d a b =>
    cases hl
    refine Launches.of_scalars hi hr rfl rfl rfl fun m need => ?_
    obtain ⟨fit, clear⟩ := need
    exact Option.or_eq_none_iff.mpr ⟨State.scalarAccess_fits fit c true, State.scalarLandingTrap_clear clear c⟩
  | _ => cases hl

end Sys2Proof.Machine

namespace Sys2Proof.Machine
open Claims

/-! ## A store performed (O41; R144, R145, R149, R153, R254, R255, R269) -/

/-! ### Lines that are in place (R254, R255)

An access whose line a cache holds moves copies of lines between caches and counts; it brings no location in and drops none. -/

/-- What names a location. -/
def Line.key (l : Line) : BitVec 16 × Nat := (l.asid, l.va)

/-- The locations that have a line. -/
def State.located (s : State) : List (BitVec 16 × Nat) := s.lines.map Line.key

/-- A cache holds a copy of a line. -/
abbrev Line.copied (l : Line) (c : Cache) : Prop := ∃ b ∈ l.bits, b.cache = c

/-- A cache holds the line of a location. -/
def State.holdsIn (s : State) (tag : BitVec 16) (va : Nat) (c : Cache) : Prop := ∃ l, s.tagged? tag va = some l ∧ l.copied c

theorem Line.in?_isSome (l : Line) (c : Cache) : (l.in? c).isSome = true ↔ l.copied c := by
  simp [Line.in?, Line.copied]

theorem State.holdsIn_iff {s : State} {tag : BitVec 16} {va : Nat} {c : Cache} :
    s.holdsIn tag va c ↔ ((s.tagged? tag va).bind (·.in? c)).isSome = true := by
  unfold State.holdsIn
  cases s.tagged? tag va with
  | none => simp
  | some l => simp [Line.in?_isSome]

theorem State.tagged?_key {s : State} {tag : BitVec 16} {va : Nat} {l : Line} (h : s.tagged? tag va = some l) :
    l.asid = tag ∧ l.va = va / 128 * 128 := by
  simpa using List.find?_some h

/-- An access hits where a cache it looks into holds the line of its own ASID or a global one. -/
theorem State.hit?_isSome {s : State} {via : List Cache} {asid : BitVec 16} {va : Nat} :
    (s.hit? via asid va).isSome = true ↔ ∃ c ∈ via, s.holdsIn asid va c ∨ s.holdsIn 0#16 va c := by
  unfold State.hit?
  simp only [List.findSome?_isSome_iff, Option.isSome_or, Bool.or_eq_true, State.holdsIn_iff]

/-- What an access hits is held by a cache it looks into, as a line of its own ASID or a global one. -/
theorem State.hit?_holds {s : State} {via : List Cache} {asid : BitVec 16} {va : Nat} {l : Line} {b : LineBits}
    (h : s.hit? via asid va = some (l, b)) : b.cache ∈ via ∧ s.holdsIn l.asid va b.cache ∧ (l.asid = asid ∨ l.asid = 0#16) := by
  have inCache {tag : BitVec 16} {c : Cache} (hc : (s.tagged? tag va).bind (·.in? c) = some (l, b)) :
      b.cache = c ∧ l.asid = tag ∧ s.holdsIn tag va c := by
    obtain ⟨x, tagged, held⟩ := Option.bind_eq_some_iff.mp hc
    obtain ⟨y, found, e⟩ := Option.map_eq_some_iff.mp held
    cases e
    exact ⟨by simpa using List.find?_some found, (State.tagged?_key tagged).1, State.holdsIn_iff.mpr (by rw [hc]; rfl)⟩
  obtain ⟨c, hc, found⟩ := List.exists_of_findSome?_eq_some h
  rcases Option.or_eq_some_iff.mp found with own | ⟨-, glob⟩
  · obtain ⟨rfl, rfl, held⟩ := inCache own
    exact ⟨hc, held, .inl rfl⟩
  · obtain ⟨rfl, tag, held⟩ := inCache glob
    exact ⟨hc, tag ▸ held, .inr tag⟩

/-- The ASID an address's location is tagged with, from the locations there are. -/
theorem State.tagOf_eq (s : State) (asid : BitVec 16) (va : Nat) : s.tagOf asid va =
    if (asid, va / 128 * 128) ∉ s.located ∧ (0#16, va / 128 * 128) ∈ s.located then 0#16 else asid := by
  have isSome (tag : BitVec 16) : (s.tagged? tag va).isSome = true ↔ (tag, va / 128 * 128) ∈ s.located := by
    simp [State.tagged?, State.located, Line.key]
  simp only [← isSome]
  unfold State.tagOf State.loc?
  cases own : s.tagged? asid va with
  | some l => simp [(State.tagged?_key own).1]
  | none =>
    cases glob : s.tagged? 0#16 va with
    | some l => simp [(State.tagged?_key glob).1]
    | none => simp

/-- Addresses of one line are tagged alike. -/
theorem State.tagOf_line (s : State) (asid : BitVec 16) {va va' : Nat} (h : va / 128 = va' / 128) : s.tagOf asid va = s.tagOf asid va' := by
  rw [State.tagOf_eq, State.tagOf_eq, h]

/-- Where an access hits, its address has a location. -/
theorem State.loc?_of_hit {s : State} {via : List Cache} {asid : BitVec 16} {va : Nat} (h : (s.hit? via asid va).isSome = true) :
    (s.loc? asid va).isSome = true := by
  obtain ⟨c, -, held⟩ := State.hit?_isSome.mp h
  unfold State.loc?
  rw [Option.isSome_or, Bool.or_eq_true]
  exact held.imp (fun ⟨_, e, _⟩ => by rw [e]; rfl) fun ⟨_, e, _⟩ => by rw [e]; rfl

section Relined

variable {s t : State} {f : Line → Line} (h : t.lines = s.lines.map f) (hf : ∀ l, (f l).key = l.key)
include h hf

theorem State.located_map : t.located = s.located := by
  unfold State.located
  rw [h, List.map_map]
  exact List.map_congr_left fun l _ => hf l

/-- A cache holds a line still where the line keeps its copy there. -/
theorem State.holdsIn_map {tag : BitVec 16} {va : Nat} {c : Cache}
    (hb : ∀ l : Line, l.copied c → (f l).copied c) (held : s.holdsIn tag va c) : t.holdsIn tag va c := by
  obtain ⟨l, found, copy⟩ := held
  have keys (x : Line) : (f x).asid = x.asid ∧ (f x).va = x.va := Prod.mk.inj (hf x)
  refine ⟨f l, ?_, hb l copy⟩
  unfold State.tagged? at found ⊢
  rw [h, List.find?_map]
  simp only [Function.comp_def, keys, found, Option.map_some]

end Relined

/-- A line once a cache has taken a copy of a location's line, in place of the one it had. -/
def Line.taken (tag : BitVec 16) (va : Nat) (b : LineBits) (l : Line) : Line :=
  if l.asid == tag && l.va == va / 128 * 128 then { l with bits := b :: l.bits.filter fun x => x.cache != b.cache } else l

theorem Line.taken_key (tag : BitVec 16) (va : Nat) (b : LineBits) (l : Line) : (l.taken tag va b).key = l.key := by
  unfold Line.taken; split <;> rfl

/-- The copies in other caches stay. -/
theorem Line.taken_copy (tag : BitVec 16) (va : Nat) (b : LineBits) (l : Line) {c : Cache} (apart : b.cache ≠ c)
    (copy : l.copied c) : (l.taken tag va b).copied c := by
  obtain ⟨x, mem, rfl⟩ := copy
  unfold Line.taken
  split
  · exact ⟨x, .tail _ (List.mem_filter.mpr ⟨mem, by simpa using apart.symm⟩), rfl⟩
  · exact ⟨x, mem, rfl⟩

section Hold

variable (s : State) (tag : BitVec 16) (va : Nat)

/-- A full cache gives up a copy of its own; no location goes. -/
theorem State.makeRoom_lines (c : Cache) : ∃ f : Line → Line, (s.makeRoom c tag va).lines = s.lines.map f ∧ (∀ l, (f l).key = l.key) ∧
    ∀ (l : Line) (d : Cache), d ≠ c → l.copied d → (f l).copied d := by
  unfold State.makeRoom
  extract_lets dom ls
  split
  · exact ⟨id, (List.map_id _).symm, fun _ => rfl, fun _ _ _ copy => copy⟩
  · split
    · refine ⟨_, rfl, fun l => ?_, fun l d apart copy => ?_⟩
      · split <;> rfl
      · obtain ⟨b, mem, rfl⟩ := copy
        split
        · exact ⟨b, List.mem_filter.mpr ⟨mem, by simpa using apart⟩, rfl⟩
        · exact ⟨b, mem, rfl⟩
    · exact ⟨id, (List.map_id _).symm, fun _ => rfl, fun _ _ _ copy => copy⟩

/-- Caches that take the line of a location change no location, and no copy in another cache. -/
theorem State.hold_lines (bs : List LineBits) : (s.hold tag va bs).located = s.located ∧
    ∀ tag' va' c, (∀ b ∈ bs, b.cache ≠ c) → s.holdsIn tag' va' c → (s.hold tag va bs).holdsIn tag' va' c := by
  unfold State.hold
  induction bs generalizing s with
  | nil => exact ⟨rfl, fun _ _ _ _ held => held⟩
  | cons b bs ih =>
    obtain ⟨f, lines, keys, keep⟩ := s.makeRoom_lines tag va b.cache
    obtain ⟨located, holds⟩ := ih { s.makeRoom b.cache tag va with lines := (s.makeRoom b.cache tag va).lines.map (Line.taken tag va b) }
    refine ⟨located.trans ((State.located_map rfl (Line.taken_key tag va b)).trans (State.located_map lines keys)),
      fun tag' va' c apart held => ?_⟩
    obtain ⟨first, rest⟩ := List.forall_mem_cons.mp apart
    refine holds tag' va' c rest (State.holdsIn_map rfl (Line.taken_key tag va b) (fun l => Line.taken_copy tag va b l first) ?_)
    exact State.holdsIn_map lines keys (fun l => keep l c first.symm) held

end Hold

/-- One machine is another with copies moved between caches and events counted: the locations, their data and what lies beyond the caches
are the same. -/
structure Recopied (s t : State) : Prop where
  located : t.located = s.located
  cdata : t.cdata = s.cdata
  hbm : t.hbm = s.hbm
  uncached : t.uncached = s.uncached

section Recopied

variable {s t u : State} {via : List Cache} {asid : BitVec 16} {va : Nat}

theorem Recopied.trans (h : Recopied s t) (h' : Recopied t u) : Recopied s u :=
  ⟨h'.located.trans h.located, h'.cdata.trans h.cdata, h'.hbm.trans h.hbm, h'.uncached.trans h.uncached⟩

theorem Recopied.tagOf (h : Recopied s t) (asid : BitVec 16) (va : Nat) : t.tagOf asid va = s.tagOf asid va := by
  rw [State.tagOf_eq, State.tagOf_eq, h.located]

/-- A count of events changes no line. -/
theorem State.countL2_lines (s : State) (via : List Cache) (asid : BitVec 16) : (s.countL2 via asid).lines = s.lines :=
  State.countL2_keeps (p := State.lines) (fun _ _ _ _ => rfl) (fun _ _ => rfl) s via asid

theorem State.countMisses_lines (s : State) (via : List Cache) (asid : BitVec 16) (va : Nat) (c : Option Cache) :
    (s.countMisses via asid va c).lines = s.lines :=
  State.countMisses_keeps (p := State.lines) (fun _ _ _ _ => rfl) (fun _ _ => rfl) s via asid va c

/-- Machines with the same lines hit alike. -/
theorem State.hit?_congr (h : t.lines = s.lines) : t.hit? via asid va = s.hit? via asid va := by
  simp only [State.hit?, State.tagged?, h]

theorem Recopied.countL2 (s : State) (via : List Cache) (asid : BitVec 16) : Recopied s (s.countL2 via asid) where
  located := congrArg (List.map Line.key) (s.countL2_lines via asid)
  cdata := State.countL2_keeps (p := State.cdata) (fun _ _ _ _ => rfl) (fun _ _ => rfl) s via asid
  hbm := State.countL2_keeps (p := State.hbm) (fun _ _ _ _ => rfl) (fun _ _ => rfl) s via asid
  uncached := s.countL2_uncached via asid

/-- An access that hits brings copies of its line nearer, and hits again. -/
theorem State.fillLine_hit (h : (s.hit? via asid va).isSome = true) :
    Recopied s (s.fillLine via asid va) ∧ ((s.fillLine via asid va).hit? via asid va).isSome = true := by
  obtain ⟨⟨l, b⟩, hit⟩ := Option.isSome_iff_exists.mp h
  obtain ⟨near, held, tag⟩ := State.hit?_holds hit
  let counted := s.countMisses via asid va (some b.cache)
  let bs := (via.takeWhile (· != b.cache)).map fun c => { b with cache := c }
  have fill : s.fillLine via asid va = counted.hold l.asid va bs := by
    unfold State.fillLine; rw [hit]
  have lines : counted.lines = s.lines := s.countMisses_lines via asid va _
  have apart : ∀ x ∈ bs, x.cache ≠ b.cache := by
    intro x hx
    obtain ⟨c, hc, rfl⟩ := List.mem_map.mp hx
    simpa using List.mem_takeWhile_imp hc
  obtain ⟨located, holds⟩ := counted.hold_lines l.asid va bs
  refine ⟨⟨?_, ?_, ?_, s.fillLine_uncached via asid va⟩, ?_⟩
  · rw [fill, located]
    exact congrArg (List.map Line.key) lines
  · rw [fill, State.hold_keeps (p := State.cdata) fun _ _ => rfl]
    exact State.countMisses_keeps (p := State.cdata) (fun _ _ _ _ => rfl) (fun _ _ => rfl) s via asid va _
  · exact State.fillLine_keeps (p := State.hbm) (fun _ _ => rfl) (fun _ _ _ _ => rfl) (fun _ _ => rfl) (fun _ _ _ => rfl) s via asid va
  · rw [fill, State.hit?_isSome]
    have still : (counted.hold l.asid va bs).holdsIn l.asid va b.cache := by
      refine holds _ _ _ apart ?_
      unfold State.holdsIn State.tagged? at held ⊢
      rwa [lines]
    exact ⟨b.cache, near, tag.imp (fun e : l.asid = asid => e ▸ still) fun e : l.asid = 0#16 => e ▸ still⟩

/-- An operation of one lane that is performed at its core and hits there finds its line in place. -/
theorem State.fillLanes_hit {t : Txn} {l : LaneAcc} (hk : t.kind.atHome = false) (hg : windowOf l.addr = some .global)
    (h : (s.hit? (viaCore t.core) (s.txnAsid t) l.off).isSome = true) :
    Recopied s (s.fillLanes t [l]) ∧ ((s.fillLanes t [l]).hit? (viaCore t.core) (s.txnAsid t) l.off).isSome = true := by
  have via : s.txnVia t l.off = viaCore t.core := by
    rw [State.txnVia, hk]; rfl
  let counted := if s.inL1 (viaCore t.core) (s.txnAsid t) l.off && t.kind.acc == .r then s else s.countL2 (viaCore t.core) (s.txnAsid t)
  have count : Recopied s counted ∧ counted.lines = s.lines := by
    unfold counted
    split
    · exact ⟨⟨rfl, rfl, rfl, rfl⟩, rfl⟩
    · exact ⟨Recopied.countL2 .., s.countL2_lines ..⟩
  obtain ⟨same, lines⟩ := count
  let filled := counted.fillLine (viaCore t.core) (s.txnAsid t) l.off
  obtain ⟨fill, again⟩ : Recopied counted filled ∧ (filled.hit? (viaCore t.core) (s.txnAsid t) l.off).isSome = true :=
    State.fillLine_hit ((congrArg Option.isSome (State.hit?_congr lines)).trans h)
  have eq : s.fillLanes t [l] = filled := by
    have kept (e : Leaf) : filled.fillKept (s.txnAsid t) l.off e = filled := by
      obtain ⟨x, there⟩ := Option.isSome_iff_exists.mp (State.loc?_of_hit again)
      unfold State.fillKept
      rw [there]
    simp only [State.fillLanes, List.foldl_cons, List.foldl_nil, hg, beq_self_eq_true, if_true, via]
    cases l.xlat with
    | none => rfl
    | some e => exact kept e
  rw [eq]
  exact ⟨same.trans fill, again⟩

end Recopied

/-! ### A write on its way (R269) -/

/-- The byte a die reads with no write on its way stands in the line. -/
theorem State.viewByte_still {s : State} (h : s.writes = []) (die : Fin 5) (asid : BitVec 16) (va : Nat) :
    s.viewByte die asid va = memRead s.cdata (lineKey (s.tagOf asid va) va) := by
  rw [State.viewByte, h]; rfl

/-- The byte a die reads with one write on its way: that write's, where it is applied and covers it. -/
theorem State.viewByte_one {s : State} {w : DieWrite} (h : s.writes = [w]) (die : Fin 5) (asid : BitVec 16) (va : Nat) :
    s.viewByte die asid va =
      if w.covers (s.tagOf asid va) va = true ∧ w.applied.getLsbD die.val = true then w.bytes.getD (va - w.va) 0#8
      else memRead s.cdata (lineKey (s.tagOf asid va) va) := by
  rw [State.viewByte, h, shownWrite]
  simp only [List.foldl_cons, List.foldl_nil, Bool.and_eq_true]
  split_ifs <;> rfl

theorem DieWrite.covers_iff {w : DieWrite} {tag : BitVec 16} {va : Nat} :
    w.covers tag va = true ↔ w.asid = tag ∧ w.va ≤ va ∧ va < w.va + w.bytes.length := by
  simp [DieWrite.covers, and_assoc]

/-- The write that a store of a die leaves on its way. -/
def State.ownWrite (s : State) (by_ seen : List Nat) (die : Fin 5) (asid : BitVec 16) (va : Nat) (bytes : List Byte) : DieWrite :=
  ⟨s.nextId, s.tagOf asid va, va, bytes, die, 1#5 <<< die.val, [], by_, seen, s.home asid va,
    if s.home asid va = die.val then some s.nextId else none⟩

theorem State.ownWrite_applied (s : State) (by_ seen : List Nat) (die : Fin 5) (asid : BitVec 16) (va : Nat) (bytes : List Byte)
    (die' : Fin 5) : (s.ownWrite by_ seen die asid va bytes).applied.getLsbD die'.val = decide (die' = die) := by
  revert die die'
  unfold State.ownWrite
  dsimp only
  decide

/-- The command die has yet to apply the write of another die, so it is not settled. -/
theorem State.ownWrite_unsettled (s t : State) (by_ seen : List Nat) {die : Fin 5} (hd : die ≠ 4) (asid : BitVec 16) (va : Nat)
    (bytes : List Byte) : t.settled (s.ownWrite by_ seen die asid va bytes) = false := by
  have up : t.diesUp.getLsbD 4 = true := by
    unfold State.diesUp
    rw [BitVec.getLsbD_append]; rfl
  have yet : (s.ownWrite by_ seen die asid va bytes).applied.getLsbD 4 = false :=
    (s.ownWrite_applied by_ seen die asid va bytes 4).trans (decide_eq_false hd.symm)
  have apart : (s.ownWrite by_ seen die asid va bytes).applied &&& t.diesUp ≠ t.diesUp := fun all => by
    have bit := congrArg (·.getLsbD 4) all
    rw [BitVec.getLsbD_and, up, yet] at bit
    cases bit
  simp [State.settled, apart]

/-- A write of a die, with no other before it, is on its way. -/
theorem State.dieWrite_first {s : State} (h : s.writes = []) (by_ seen : List Nat) {die : Fin 5} (hd : die ≠ 4) (asid : BitVec 16)
    (va : Nat) (bytes : List Byte) :
    s.dieWrite by_ seen die asid va bytes = { s with nextId := s.nextId + 1, writes := [s.ownWrite by_ seen die asid va bytes] } := by
  unfold State.dieWrite
  simp only [h, List.filter_nil, List.map_nil, List.length_nil, List.nil_append, Nat.zero_add]
  rw [State.settleWrites, List.find?_singleton]
  have waits := s.ownWrite_unsettled { s with nextId := s.nextId + 1, writes := [s.ownWrite by_ seen die asid va bytes] } by_ seen hd asid va
    bytes
  unfold State.ownWrite at waits ⊢
  rw [waits]
  rfl

section View

variable {s : State} (h : s.writes = []) (by_ seen : List Nat) {die : Fin 5} (hd : die ≠ 4) (asid : BitVec 16) (va : Nat)
  (bytes : List Byte)
include h hd

/-- The bytes the dies show once a die has written, with no other write on its way. -/
theorem State.viewByte_dieWrite (die' : Fin 5) (asid' : BitVec 16) (va' : Nat) :
    (s.dieWrite by_ seen die asid va bytes).viewByte die' asid' va' =
      if die' = die ∧ s.tagOf asid' va' = s.tagOf asid va ∧ va ≤ va' ∧ va' < va + bytes.length then bytes.getD (va' - va) 0#8
      else s.viewByte die' asid' va' := by
  rw [State.dieWrite_first h by_ seen hd, State.viewByte_one rfl, State.viewByte_still h, State.ownWrite_applied]
  refine if_congr ?_ rfl rfl
  rw [DieWrite.covers_iff, decide_eq_true_iff]
  exact ⟨fun ⟨⟨tag, range⟩, own⟩ => ⟨own, tag.symm, range⟩, fun ⟨own, tag, range⟩ => ⟨⟨tag.symm, range⟩, own⟩⟩

/-- A die reads what it has written into one line. -/
theorem State.viewBytes_dieWrite (hl : va / 128 = (va + bytes.length - 1) / 128) :
    (s.dieWrite by_ seen die asid va bytes).viewBytes die asid va bytes.length = bytes := by
  refine List.ext_getElem (by simp [State.viewBytes]) fun i h1 h2 => ?_
  have line : s.tagOf asid (va + i) = s.tagOf asid va := s.tagOf_line asid (by omega)
  simp only [State.viewBytes, List.getElem_map, List.getElem_range]
  rw [State.viewByte_dieWrite h by_ seen hd, if_pos ⟨rfl, line, by omega, by omega⟩, Nat.add_sub_cancel_left]
  exact List.getD_eq_getElem _ _ h2

end View

/-! ### Performing a store -/

theorem State.barCopies_eq (s : State) (t : Txn) : ∃ c, s.barCopies t = { s with copies := c } := by
  unfold State.barCopies
  split
  · exact ⟨_, rfl⟩
  · exact ⟨_, rfl⟩

/-- A store of one lane that no landing window captures writes its bytes to its window; the copies of atomic reads may be barred. -/
theorem State.performStore_one {s : State} {t : Txn} {l : LaneAcc} (h : windowOf l.addr = some .global → s.landing? t.ctx l.off = none) :
    ∃ c, s.performStore t [l] = State.writeWindow { s with copies := c } (t.parts.map (·.sid)) t.seen t.core t.wave (s.txnAsid t) l.addr
      (toBytes t.size l.data.toNat) := by
  obtain ⟨c, bar⟩ := s.barCopies_eq { t with lanes := [l] }
  refine ⟨c, ?_⟩
  have free : (if windowOf l.addr == some .global then State.landing? { s with copies := c } t.ctx l.off else none) = none := by
    split
    · next hg => exact h (by simpa using hg)
    · rfl
  have last : lastLanes [l] = [l] := rfl
  unfold State.performStore
  rw [bar]
  simp only [last, List.foldl_cons, List.foldl_nil, free]
  rfl

/-- A store to the global window that hits in its core's caches is a write of its die. -/
theorem State.writeWindow_global {s : State} {core : Nat} {asid : BitVec 16} {a : DWord} (hg : windowOf a = some .global)
    (hit : (s.hit? (viaCore core) asid (offsetOf a)).isSome = true) (by_ seen : List Nat) (wave : Word) (bs : List Byte) :
    ∃ v, Recopied s v ∧ s.writeWindow by_ seen core wave asid a bs = v.dieWrite by_ seen (coreDie core) asid (offsetOf a) bs := by
  refine ⟨_, (State.fillLine_hit hit).1, ?_⟩
  unfold State.writeWindow
  rw [hg]

theorem State.writeWindow_scratch {s : State} {core : Nat} {wave : Word} {a : DWord} (hs : windowOf a = some .scratch) (by_ seen : List Nat)
    (asid : BitVec 16) (bs : List Byte) :
    s.writeWindow by_ seen core wave asid a bs = s.writeSpad core (((s.core core).share wave).spad + offsetOf a) bs := by
  unfold State.writeWindow
  rw [hs]

/-- The cores stand on the base dies (R1). -/
theorem coreDie_ne_command {core : Nat} (h : core < 192) : coreDie core ≠ 4 := by
  refine Fin.ne_of_val_ne ?_
  show core / 48 % 5 ≠ 4
  omega

section Perform

variable {s : State} {t : Txn} {rel : Option Scope} (hk : t.kind = .store rel) (due : Due s t)
include hk due

/-- The step of a store that is due performs it. -/
theorem exec_storeDiePoint_store :
    exec (.storeDiePoint t.id false) s = .next (((s.fillLanes t t.lanes).performStore t t.lanes).dropTxn t.id) := by
  show execStoreDiePoint t.id false s = _
  unfold execStoreDiePoint
  rw [due.here]
  simp only [due.ready, hk, State.unlessPoisoned, due.clean, State.performLanes, Bool.not_true, Bool.false_eq_true, if_false]

/-- The core point of a store that is due is the next one. -/
theorem exec_storeDiePoint_core {l : LaneAcc} (one : t.lanes = [l]) (hg : windowOf l.addr = some .global)
    (free : s.landing? t.ctx l.off = none) : exec (.storeDiePoint t.id true) s = .next { s with
      nextId := s.nextId + 1
      txns := s.txns.map fun u => if u.id == t.id then { u with atCore := u.atCore.or (some s.nextId) } else u } := by
  show execStoreDiePoint t.id true s = _
  unfold execStoreDiePoint State.reachCore
  rw [due.here]
  simp [due.ready, hk, one, hg, free]

end Perform

section Window

variable {s : State} {t : Txn} {rel : Option Scope} {l : LaneAcc} (hk : t.kind = .store rel) (due : Due s t) (one : t.lanes = [l])
include hk due one

/-- A store to the scratchpad writes its bytes there. -/
theorem exec_storeDiePoint_scratch (hs : windowOf l.addr = some .scratch) : ∃ c, exec (.storeDiePoint t.id false) s = .next
    ((State.writeSpad { s with copies := c } t.core (((s.core t.core).share t.wave).spad + offsetOf l.addr)
      (toBytes t.size l.data.toNat)).dropTxn t.id) := by
  have lines : s.fillLanes t [l] = s := by
    simp [State.fillLanes, hs]
  obtain ⟨c, perform⟩ := s.performStore_one (t := t) (l := l) fun hg => by simp [hs] at hg
  refine ⟨c, ?_⟩
  rw [exec_storeDiePoint_store hk due, one, lines, perform, State.writeWindow_scratch hs]
  rfl

/-- A store to the global window that hits in its core's caches is a write of its die, to a machine that differs in the copies of lines and
of atomic reads. -/
theorem exec_storeDiePoint_global (hg : windowOf l.addr = some .global) (free : s.landing? t.ctx l.off = none)
    (hit : (s.hit? (viaCore t.core) (s.txnAsid t) l.off).isSome = true) : ∃ c v, Recopied { s with copies := c } v ∧
      exec (.storeDiePoint t.id false) s = .next ((v.dieWrite (t.parts.map (·.sid)) t.seen (coreDie t.core) (s.txnAsid t) l.off
        (toBytes t.size l.data.toNat)).dropTxn t.id) := by
  obtain ⟨same, again⟩ := State.fillLanes_hit (t := t) (l := l) (by rw [hk]; rfl) hg hit
  let v := s.fillLanes t [l]
  have landing : v.landing? t.ctx l.off = none := by
    have : v.fab = s.fab := (congrArg State.fab same.uncached :)
    rwa [State.landing?, this]
  have asid : v.txnAsid t = s.txnAsid t := State.asidOf_of_uncached same.uncached t.ctx
  obtain ⟨c, perform⟩ := v.performStore_one fun _ => landing
  obtain ⟨w, near, write⟩ := State.writeWindow_global (s := { v with copies := c }) hg again (t.parts.map (·.sid)) t.seen t.wave
    (toBytes t.size l.data.toNat)
  have start : Recopied { s with copies := c } { v with copies := c } :=
    ⟨same.located, same.cdata, same.hbm, congrArg (fun x : State => { x with copies := c }) same.uncached⟩
  refine ⟨c, w, start.trans near, ?_⟩
  rw [exec_storeDiePoint_store hk due, one, perform, asid, write]
  rfl

end Window

/-- Settles O41: a store to the scratchpad is a write of bytes there, one to the global window a write of its die with no other before it;
its core point is the next of the order of all core points (log 8). -/
theorem storePerformed : Obligations.StorePerformed := by
  intro s t rel l hk due one data base
  have len : data.length = t.size := toBytes_length ..
  refine ⟨fun hs hc wf => ?_, fun hg free hit still line hc => ?_, exec_storeDiePoint_core hk due one⟩
  · obtain ⟨c, run⟩ := exec_storeDiePoint_scratch hk due one hs
    refine ⟨_, run, ?_⟩
    let u := (State.writeSpad { s with copies := c } t.core base data).dropTxn t.id
    have own : u.core t.core = { s.core t.core with spad := writeBytes (s.core t.core).spad base data } := State.core_setCore_same _ _ hc
    have spad : (u.core t.core).spad = writeBytes (s.core t.core).spad base data := congrArg CoreRec.spad own
    refine ⟨?_, fun a ha => ?_, fun k hk => ?_, rfl, rfl, rfl, rfl, rfl⟩
    · exact (congrArg₂ (readBytes · base ·) spad len.symm).trans (readBytes_writeBytes wf base data)
    · exact (congrArg (memRead · a) spad).trans (memRead_writeBytes_outside wf base data (len ▸ ha))
    · exact (State.core_setCore _ _ _ k).trans (if_neg fun h => hk h.1)
  · obtain ⟨c, v, same, run⟩ := exec_storeDiePoint_global hk due one hg free hit
    have alone : v.writes = [] := (congrArg State.writes same.uncached :).trans still
    have die := coreDie_ne_command hc
    let by_ := t.parts.map (·.sid)
    have first := State.dieWrite_first alone by_ t.seen die (s.txnAsid t) l.off data
    have tag (asid : BitVec 16) (va : Nat) : v.tagOf asid va = s.tagOf asid va := same.tagOf asid va
    refine ⟨_, run, ?_, fun d asid va away => ?_, ?_, ?_, ?_⟩
    · have shown := State.viewBytes_dieWrite alone by_ t.seen die (s.txnAsid t) l.off data (len.symm ▸ line)
      rwa [len] at shown
    · refine (State.viewByte_dieWrite alone by_ t.seen die (s.txnAsid t) l.off data d asid va).trans ?_
      rw [if_neg (by rwa [tag, tag, len]), State.viewByte_still alone, State.viewByte_still still, tag, same.cdata]
    · exact (congrArg State.hbm first).trans same.hbm
    · exact (congrArg State.cores first).trans (congrArg State.cores same.uncached :)
    · exact (congrArg State.slices first).trans (congrArg State.slices same.uncached :)

end Sys2Proof.Machine

namespace Sys2Proof.Machine
open Claims

/-! ## A return that is fetched while a counter counts (O19; R66, R173, R328) -/

/-- The machine that counts its fetches, its slice in a handler whose trapped region began at word 1 of line 0. -/
def countedHandler : State := { countedFetch with slices := [Tests.handling] }

theorem countedHandler_issuing :
    Issuing countedHandler Tests.labCur (Tests.labGang [Tests.handling]) [Tests.handling] :=
  ⟨rfl, by decide +kernel, by decide +kernel, by decide +kernel, by decide +kernel⟩

/-- Where the line at an aligned target lets an instruction start, the target is reachable. -/
theorem reachable_of_starts {s : State} {m : Slice} {a : DWord} (aligned : a.toNat % 4 = 0)
    (h : (s.codeLine m.core (s.sliceAsid m) a).starts (slotOf a).val = true) : reachable s m a := by
  refine ⟨aligned, ?_⟩
  cases e : s.codeLine m.core (s.sliceAsid m) a with
  | line l t => exact ⟨l, t, rfl, by simpa [e, CodeRes.starts] using h⟩
  | held => rw [e] at h; cases h
  | fault g k => rw [e] at h; cases h

/-- The handler may return to the region. -/
theorem countedHandler_returnable : returnable countedHandler Tests.handling Tests.handling.rgnpc false :=
  ⟨by decide +kernel, by decide +kernel, by decide +kernel, nofun, reachable_of_starts (by decide) (by decide +kernel), by decide +kernel,
    by decide +kernel⟩

/-- The return counts its fetch: the counter goes from 0 to 1. -/
theorem countedHandler_counts (t : State) (h : exec .retr countedHandler = .next t) : t.counter0 = 1#64 := by
  have e : (match exec .retr countedHandler with | .next u => u.counter0 | _ => 0#64) = 1#64 := by decide +kernel
  rwa [h] at e

/-- Refutes O19: the fetch of the instruction returned to reaches the L2, and a counter of R328 that counts such accesses goes on; it is no
cache. -/
theorem not_handlerReturns : ¬ Obligations.HandlerReturns := by
  intro h
  have one : ∀ m ∈ [Tests.handling], m = Tests.handling := fun _ => List.mem_singleton.mp
  obtain ⟨t, ht, -, -, ⟨beyond, -⟩, -, -⟩ := h .retr _ countedHandler Tests.labCur _ _ rfl countedHandler_issuing
    (fun m hm => one m hm ▸ (by decide +kernel : modeSup Tests.handling.mode = true))
    (fun m hm _ => one m hm ▸ ⟨rfl, countedHandler_returnable⟩) (fun m hm ha => nomatch ha)
  have same : t.counter0 = countedHandler.counter0 := (congrArg State.counter0 beyond :)
  rw [countedHandler_counts t ht] at same
  exact absurd same (by decide +kernel)

end Sys2Proof.Machine
namespace Sys2Proof.Machine

/-! ## Every step goes on (O5; R164) -/

/-- An operation of DBGCMD goes on, whichever it is (R178). -/
theorem writeDbgcmd_next (fn : Fin 17) (v : DWord) (s : State) : ∃ t, writeDbgcmd fn v s = .next t := by
  unfold writeDbgcmd
  extract_lets
  split <;> exact ⟨_, rfl⟩

/-- A write of a register goes on: of DBGCMD as its operation does, of any other as it is. -/
theorem execRegisterWrite_next (fn : Fin 17) (off : BitVec 32) (val : DWord) (s : State) :
    ∃ t, execRegisterWrite fn off val s = .next t := by
  by_cases h : off.toNat = 0x900
  · obtain ⟨t, ht⟩ := writeDbgcmd_next fn val s
    exact ⟨t, (if_pos h).trans ht⟩
  · exact ⟨_, if_neg h⟩

/-- Settles O5: what every meaning in the model answers is a next state; a write of DBGCMD answers that of a debug operation. -/
theorem neverStops : Obligations.NeverStops := by
  intro i s
  cases i with
  | registerWrite fn off val => exact execRegisterWrite_next fn off val s
  | _ => exact ⟨_, rfl⟩

end Sys2Proof.Machine

namespace Sys2Proof.Machine
open Claims

/-! ## A trap is raised (O26, O27; R41, R164–R168) -/

/-- Of the slices one alone has changed. -/
theorem State.slice?_of_modList {s t : State} {m : Slice} {f : Slice → Slice} (here : s.slice? m.sid = some m)
    (h : t.slices = modList s.slices m.sid f) (hf : ∀ x, (f x).sid = x.sid) :
    t.slice? m.sid = some (f m) ∧ ∀ b, b ≠ m.sid → t.slice? b = s.slice? b := by
  have found (b : Nat) : t.slice? b = if m.sid = b then (s.slice? b).map f else s.slice? b := by
    rw [State.slice?, h]
    exact find?_modList s.slices m.sid b f hf
  refine ⟨?_, fun b other => (found b).trans (if_neg (Ne.symm other))⟩
  rw [found, if_pos rfl, here]
  rfl

/-- A slice whose trap is pending. -/
def Slice.raised (r : TrapRec) (x : Slice) : Slice := { x with pend := some r }

/-- The machine whose slice has left its gang with its trap pending (R41, R176). -/
def State.raised (s : State) (a : Nat) (r : TrapRec) : State :=
  ((s.noteFetchFault a r).leaveGang [a] .trap).modSlice a (Slice.raised r)

theorem State.raiseTrap_eq (s : State) (a : Nat) (r : TrapRec) : s.raiseTrap a r = (s.raised a r).tryEnter a := rfl

/-- Noting the fault of a fetch changes the pages faulted on first and, where an entry is malformed, the log with its time (R176, R264). -/
theorem State.noteFetchFault_field {β : Type} (p : State → β)
    (h : ∀ (s : State) f n x k y, p { s with firstFaults := f, ticks := n, tsc := x, tscPause := k, trust := y } = p s)
    (s : State) (a : Nat) (r : TrapRec) : p (s.noteFetchFault a r) = p s := by
  have log (c : Fin 17) (va : Nat) : p (s.logWalk c va) = p s := by
    unfold State.logWalk
    split
    · exact h s s.firstFaults _ _ _ _
    · rfl
    · rfl
  unfold State.noteFetchFault
  split
  · rfl
  · dsimp only
    split
    · exact (h _ _ _ _ _ _).trans (log _ _)
    · rfl

/-- Only the traps of a page's walk are faults of a fetch (R166, R176). -/
theorem State.noteFetchFault_other (s : State) (a : Nat) {r : TrapRec} (h : r.group.toNat < 5 ∨ 7 < r.group.toNat) :
    s.noteFetchFault a r = s := by
  unfold State.noteFetchFault
  split
  · rfl
  · refine if_neg fun fetch => ?_
    have walk : r.group = 6#5 ∨ r.group = 7#5 ∨ r.group = 5#5 := by simp at fetch; tauto
    rcases walk with e | e | e <;> simp [e] at h

/-- Members that leave their gang change gangs and REGANG instances alone. -/
theorem State.leaveGang_field {β : Type} (p : State → β)
    (h : ∀ (s : State) g i n, p { s with gangs := g, regangs := i, nextId := n } = p s) (s : State) (sids : List Nat) (w : GangWait) :
    p (s.leaveGang sids w) = p s := by
  unfold State.leaveGang
  split
  · rfl
  · exact h s _ _ _

section Raised

variable {s : State} {m : Slice} {r : TrapRec}

/-- What sees none of the slices, gangs, late faults and logs is kept. -/
theorem State.raised_field {β : Type} (p : State → β)
    (h : ∀ (s : State) f n x k y l g i j, p { s with
      firstFaults := f, ticks := n, tsc := x, tscPause := k, trust := y, slices := l, gangs := g, regangs := i, nextId := j } = p s)
    (s : State) (a : Nat) (r : TrapRec) : p (s.raised a r) = p s := by
  refine ((h _ _ _ _ _ _ _ _ _ _).trans (State.leaveGang_field p (fun s g i n => ?_) _ _ _)).trans
    (State.noteFetchFault_field p (fun s f n x k y => ?_) s a r)
  · exact h s s.firstFaults s.ticks s.tsc s.tscPause s.trust s.slices g i n
  · exact h s f n x k y s.slices s.gangs s.regangs s.nextId

/-- Of the slices only the one that traps changes: its trap is pending. -/
theorem State.raised_slices (s : State) (a : Nat) (r : TrapRec) :
    (s.raised a r).slices = modList s.slices a (Slice.raised r) := by
  unfold State.raised
  rw [State.modSlice_slices, State.leaveGang_field State.slices (fun _ _ _ _ => rfl),
    State.noteFetchFault_field State.slices (fun _ _ _ _ _ _ => rfl)]

theorem State.raised_slice? (here : s.slice? m.sid = some m) : (s.raised m.sid r).slice? m.sid = some (m.raised r) :=
  (State.slice?_of_modList here (State.raised_slices s m.sid r) fun _ => rfl).1

/-- A slice without an access has none to wait for. -/
theorem still_of_no_lanes (h : ∀ t ∈ s.txns, ∀ l ∈ t.lanes, l.sid ≠ m.sid) : still s m := by
  refine ⟨List.all_eq_true.mpr fun t ht => List.all_eq_true.mpr fun l hl => ?_, List.filter_eq_nil_iff.mpr fun t ht some => ?_⟩
  · simp [h t ht l hl]
  · obtain ⟨l, hl, faulty⟩ := List.any_eq_true.mp some
    simp [h t ht l hl] at faulty

/-- A trap that is no fault of a fetch changes slices, gangs and REGANG instances alone. -/
theorem State.raised_other_field {β : Type} (p : State → β)
    (h : ∀ (s : State) l g i n, p { s with slices := l, gangs := g, regangs := i, nextId := n } = p s) (s : State) (a : Nat)
    (group : r.group.toNat < 5 ∨ 7 < r.group.toNat) : p (s.raised a r) = p s := by
  unfold State.raised
  rw [State.noteFetchFault_other s a group]
  exact (h _ _ _ _ _).trans (State.leaveGang_field p (fun s g i n => h s s.slices g i n) s _ _)

/-- A slice that had nothing to wait for has nothing to wait for once its trap is pending, unless the trap is a fault of its own. -/
theorem State.raised_still (h : (∀ t ∈ s.txns, ∀ l ∈ t.lanes, l.sid ≠ m.sid) ∨
      (s.faultedTxns m.sid = [] ∧ s.resolved m.sid = true ∧ (r.group.toNat < 5 ∨ 7 < r.group.toNat))) :
    still (s.raised m.sid r) m := by
  rcases h with idle | ⟨faults, resolved, group⟩
  · have txns : (s.raised m.sid r).txns = s.txns := State.raised_field State.txns (fun _ _ _ _ _ _ _ _ _ _ => rfl) s m.sid r
    exact still_of_no_lanes (txns ▸ idle)
  · exact ⟨(State.raised_other_field (·.resolved m.sid) (fun _ _ _ _ _ => rfl) s m.sid group).trans resolved,
      (State.raised_other_field (·.faultedTxns m.sid) (fun _ _ _ _ _ => rfl) s m.sid group).trans faults⟩

end Raised

/-! ### Entry (R167, R168) -/

/-- A slice whose accesses are all translated enters its pending trap. -/
theorem State.tryEnter_slice? {s : State} {m : Slice} {r : TrapRec} (here : s.slice? m.sid = some m) (pend : m.pend = some r)
    (early : r.late = false) (group : r.group ≠ 0xE#5) (user : modeSup m.mode = false) (quiet : still s m)
    (vector : s.vectorOf m ≠ 0#64) :
    (s.tryEnter m.sid).slice? m.sid = some (m.enter r false (s.saveArea m) (s.vectorOf m)) := by
  have none : s.faultsOf m.sid = [] := by unfold State.faultsOf; rw [quiet.2]; rfl
  have enters : s.tryEnter m.sid =
      ((s.flushSlice m).modSlice m.sid fun x => x.enter r false (s.saveArea m) (s.vectorOf m)).entryOver m.sid := by
    unfold State.tryEnter
    simp [here, pend, group, user, quiet.1, early, vector, State.doEntry, none]
  have sid (x : Slice) : (x.enter r false (s.saveArea m) (s.vectorOf m)).sid = x.sid := by
    unfold Slice.enter
    cases r.reg <;> simp
  refine (State.slice?_of_modList here ?_ sid).1
  rw [enters, State.entryOver_slices, State.modSlice_slices, State.flushSlice_slices]

/-- The registers a slice enters its handler with. -/
theorem Slice.enter_eq (m : Slice) {r : TrapRec} (early : r.late = false) (save vector : DWord) :
    (m.raised r).enter r false save vector = { (r.reg.map m.clearMark).getD m with
      tcause := 0#12 ++ m.amask ++ r.lanes ++ 0#7 ++ r.group
      tdet := r.case ++ r.field ++ r.mid ++ r.low
      tpc := r.tpc
      taken := r.case ++ 0#3 ++ r.group
      bank := #v[⟨save.setWidth 32, true, false⟩, ⟨save.extractLsb' 32 32, true, false⟩, ⟨m.mode, true, false⟩,
        ⟨m.amask.setWidth 32, true, false⟩]
      mode := (m.mode ||| 0x01000000#32) &&& ~~~0x10#32
      amask := r.lanes, sup := [], pc := vector, pend := none, late := false } := by
  have taken : r.case ++ BitVec.ofBool false ++ 0#2 = r.case ++ 0#3 := BitVec.append_assoc
  unfold Slice.enter causeWord
  rw [early, taken]
  cases r.reg with
  | none => rfl
  | some n => cases n <;> rfl

end Sys2Proof.Machine

namespace Sys2Proof
open Machine Claims

/-- Settles O26: the trap is pending (`State.raised`), and the slice, whose accesses are all translated, enters its handler. -/
theorem trapEntry : Obligations.TrapEntry := by
  intro s m r here quiet user vector early group x
  have save : (s.raised m.sid r).saveArea (m.raised r) = s.saveArea m :=
    State.raised_field (·.saveArea m) (fun _ _ _ _ _ _ _ _ _ _ => rfl) s m.sid r
  have there : (s.raised m.sid r).vectorOf (m.raised r) = s.vectorOf m :=
    State.raised_field (·.vectorOf m) (fun _ _ _ _ _ _ _ _ _ _ => rfl) s m.sid r
  have pending : (s.raised m.sid r).slice? (m.raised r).sid = some (m.raised r) := State.raised_slice? here
  have quiet : still (s.raised m.sid r) (m.raised r) := State.raised_still quiet
  have vector : (s.raised m.sid r).vectorOf (m.raised r) ≠ 0#64 := there.symm ▸ vector
  have enters := State.tryEnter_slice? pending rfl early group user quiet vector
  rw [save, there] at enters
  exact enters.trans (congrArg some (Slice.enter_eq m early _ _))

end Sys2Proof

namespace Sys2Proof.Machine
open Claims

/-! ## What becomes of slices and waves where traps are taken and slices end (O27, O54; R164–R172, R176, R183) -/

/-- What of a slice no trap changes: its identity, its wave, and whether the debugger holds it. -/
def Slice.badge (x : Slice) : Nat × Word × Bool := (x.sid, x.wave, x.stopped)

/-- What of a wave no trap changes: its number, and whether a debugger is attached. -/
def Wave.badge (w : Wave) : Word × Bool := (w.num, w.attached)

/-- The slices and the waves. -/
def State.crowd (s : State) : List Slice × List Wave := (s.slices, s.waves)

/-- `t` comes of `s`: no slice has been added, and those left, and the waves, are what they were. -/
structure State.Follows (s t : State) : Prop where
  slices : t.slices.map Slice.badge ⊆ s.slices.map Slice.badge
  waves : t.waves.map Wave.badge = s.waves.map Wave.badge

/-! ### What accesses leave alone -/

section Accesses

variable (s : State)

theorem State.fillLine_crowd (via : List Cache) (asid : BitVec 16) (va : Nat) : (s.fillLine via asid va).crowd = s.crowd :=
  (congrArg State.crowd (s.fillLine_uncached via asid va) :)

theorem State.fillLanes_crowd (t : Txn) (ls : List LaneAcc) : (s.fillLanes t ls).crowd = s.crowd :=
  (congrArg State.crowd (s.fillLanes_uncached t ls) :)

theorem State.noteRead_crowd (t : Txn) (ls : List LaneAcc) : (s.noteRead t ls).crowd = s.crowd :=
  (congrArg State.crowd (s.noteRead_unread t ls) :)

theorem State.barCopies_crowd (t : Txn) : (s.barCopies t).crowd = s.crowd := (congrArg State.crowd (s.barCopies_unread t) :)

theorem State.countEvent_crowd (c : Fin 17) (dom : Option Nat) (ev : BitVec 8) (n : Nat) : (s.countEvent c dom ev n).crowd = s.crowd :=
  State.countEvent_keeps (fun _ _ _ _ => rfl) (fun _ _ => rfl) s c dom ev n

theorem State.dieWrite_crowd (by_ seen : List Nat) (die : Fin 5) (asid : BitVec 16) (va : Nat) (bs : List Byte) :
    (s.dieWrite by_ seen die asid va bs).crowd = s.crowd :=
  (State.settleWrites_field State.crowd (fun _ _ _ _ _ _ _ _ _ _ _ => rfl) _ _).trans rfl

theorem State.writeWindow_crowd (by_ seen : List Nat) (core : Nat) (wave : Word) (asid : BitVec 16) (a : DWord) (bs : List Byte) :
    (s.writeWindow by_ seen core wave asid a bs).crowd = s.crowd := by
  unfold State.writeWindow
  dsimp only
  split
  · rfl
  · rfl
  · exact (State.dieWrite_crowd ..).trans (s.fillLine_crowd ..)

theorem State.keepCopy_crowd (t : Txn) (va : Nat) (o : Word) : (s.keepCopy t va o).crowd = s.crowd := by
  unfold State.keepCopy
  split
  · split <;> rfl
  · rfl

theorem State.atomStep_crowd (t : Txn) (a : DWord) (f : Word → Word) : (s.atomStep t a f).2.crowd = s.crowd := by
  unfold State.atomStep
  dsimp only
  split
  · split
    · rfl
    · exact (State.keepCopy_crowd ..).trans ((State.dieWrite_crowd ..).trans ((State.barCopies_crowd ..).trans (s.fillLine_crowd ..)))
  · exact s.writeWindow_crowd ..

theorem State.reduceAt_crowd (t : Txn) (op : AtomOp) (ty : AtomTy) (a : DWord) : (s.reduceAt t op ty a).1.crowd = s.crowd := by
  unfold State.reduceAt
  split
  · rfl
  · exact s.atomStep_crowd ..

theorem State.reduceAll_crowd (t : Txn) (op : AtomOp) (ty : AtomTy) (as_ : List DWord) : (s.reduceAll t op ty as_).1.crowd = s.crowd := by
  refine foldl_keeps (fun r : State × List (LaneAcc × Nat) => r.1.crowd) _ (fun r a => ?_) as_ (s, [])
  exact r.1.reduceAt_crowd ..

theorem State.passAll_crowd (t : Txn) (op : AtomOp) (ls : List LaneAcc) : (s.passAll t op ls).1.crowd = s.crowd :=
  foldl_keeps (fun r : State × List (LaneAcc × Nat) => r.1.crowd) _ (fun r _ => r.1.atomStep_crowd ..) ls (s, [])

theorem State.noteReject_crowd (n : Nat) (peer : BitVec 9) (r : Receipt) : (s.noteReject n peer r).crowd = s.crowd := by
  cases r with
  | full => exact s.countEvent_crowd ..
  | accepted | range | owner | fault => rfl

theorem State.receiveEntry_crowd (e : LandEntry) : (s.receiveEntry e).1.crowd = s.crowd := by
  unfold State.receiveEntry
  extract_lets n r
  split
  · split
    · rfl
    · exact s.noteReject_crowd ..
  · split
    · rfl
    · exact s.noteReject_crowd ..

theorem State.captureWord_crowd (cx : Fin 17) (w : Fin 64) (va : Nat) (data : Word) : (s.captureWord cx w va data).crowd = s.crowd := by
  unfold State.captureWord
  extract_lets off e r
  have received : r.1.crowd = s.crowd := State.receiveEntry_crowd { s with nextId := s.nextId + 1 } e
  split
  · exact received
  · exact received
  · unfold State.failPeer
    dsimp only
    split
    · exact received
    · exact received

theorem State.captureStore_crowd (cx : Fin 17) (w : Fin 64) (va size : Nat) (data : DWord) (old : Nat → Word) :
    (s.captureStore cx w va size data old).crowd = s.crowd := by
  unfold State.captureStore
  dsimp only
  split
  · exact s.captureWord_crowd ..
  · split
    · exact (State.captureWord_crowd ..).trans (s.captureWord_crowd ..)
    · exact s.captureWord_crowd ..

theorem State.performStore_crowd (t : Txn) (ls : List LaneAcc) : (s.performStore t ls).crowd = s.crowd := by
  refine (foldl_keeps State.crowd _ (fun x l => ?_) _ _).trans (s.barCopies_crowd _)
  split
  · exact x.captureStore_crowd ..
  · exact x.writeWindow_crowd ..

end Accesses

/-! ### Steps that keep what no trap changes -/

theorem Slice.fillPart_badge (x : Slice) (p : Part) (mask : BitVec 4) (lo hi : Lanes) : (x.fillPart p mask lo hi).badge = x.badge := by
  have cell (x : Slice) (r : RegName) (y : Lanes) : (x.fillCell r mask y).badge = x.badge := by cases r <;> rfl
  unfold Slice.fillPart
  split
  · rfl
  · exact cell ..
  · exact (cell ..).trans (cell ..)

theorem Slice.enter_badge (x : Slice) (r : TrapRec) (more : Bool) (save vector : DWord) : (x.enter r more save vector).badge = x.badge := by
  unfold Slice.enter
  cases r.reg with
  | none => rfl
  | some n => cases n <;> rfl

theorem leaveSlice_badge (a : Fin 32) (m x : Slice) : (leaveSlice a m x).badge = x.badge := by
  unfold leaveSlice
  split <;> rfl

namespace State.Follows

variable {s t u : State}

theorem refl (s : State) : s.Follows s := ⟨List.Subset.refl _, rfl⟩

/-- What keeps the slices and the waves. -/
theorem same (h : s.Follows t) (e : u.crowd = t.crowd) : s.Follows u := by
  obtain ⟨slices, waves⟩ := Prod.mk.inj e
  exact ⟨slices ▸ h.slices, waves ▸ h.waves⟩

/-- What changes one slice in nothing that counts here. -/
theorem modList {a : Nat} {f : Slice → Slice} (h : s.Follows t) (hf : ∀ x, (f x).badge = x.badge)
    (slices : u.slices = modList t.slices a f) (waves : u.waves = t.waves) : s.Follows u := by
  refine ⟨?_, waves ▸ h.waves⟩
  have kept : u.slices.map Slice.badge = t.slices.map Slice.badge := by
    rw [slices, Machine.modList, List.map_map]
    refine List.map_congr_left fun x _ => ?_
    simp only [Function.comp]
    split
    · exact hf x
    · rfl
  exact kept ▸ h.slices

theorem modSlice {a : Nat} {f : Slice → Slice} (h : s.Follows t) (hf : ∀ x, (f x).badge = x.badge) : s.Follows (t.modSlice a f) :=
  h.modList hf rfl rfl

protected theorem ite {p : Prop} [Decidable p] (ht : s.Follows t) (hu : s.Follows u) : s.Follows (if p then t else u) := by
  split <;> assumption

protected theorem foldl {α : Type} {f : State → α → State} {l : List α} (h : s.Follows t)
    (keeps : ∀ {t x}, s.Follows t → s.Follows (f t x)) : s.Follows (l.foldl f t) :=
  List.foldlRecOn (motive := s.Follows) l f h fun _ ht _ _ => keeps ht

theorem fillParts {ps : List Part} {vs : List (LaneAcc × Nat)} (h : s.Follows t) : s.Follows (t.fillParts ps vs) :=
  h.foldl fun h => h.modSlice fun x => x.fillPart_badge ..

theorem fillWord {p : Part} {w : Word} (h : s.Follows t) : s.Follows (t.fillWord p w) := h.modSlice fun x => x.fillPart_badge ..

/-- Loads, stores and atomics performed (R145, R149, R158). -/
theorem performLanes {x : Txn} {ls : List LaneAcc} {ps : List Part} (h : s.Follows t) : s.Follows (t.performLanes x ls ps) := by
  have lines : s.Follows (t.fillLanes x ls) := h.same (t.fillLanes_crowd x ls)
  unfold State.performLanes
  dsimp only
  split
  · exact lines.same (State.performStore_crowd ..)
  · split
    · exact (lines.same (State.passAll_crowd ..)).fillParts
    · exact (lines.same (State.reduceAll_crowd ..)).fillParts
  · split
    · exact (lines.same (State.atomStep_crowd ..)).fillParts
    · exact lines
  · exact (lines.same (State.noteRead_crowd ..)).fillParts

/-! ### Ends of slices and waves (R89, R164) -/

theorem leaveCrews {x : Slice} (h : s.Follows t) : s.Follows (t.leaveCrews x) := by
  refine h.foldl fun {u c} h => ?_
  split
  · exact h.modList (leaveSlice_badge c _) (State.leaveCrew_slices ..) (State.leaveCrew_field State.waves (fun _ _ _ _ _ _ => rfl) ..)
  · exact h

theorem closeRegangs (h : s.Follows t) : s.Follows t.closeRegangs :=
  h.foldl fun h => h.same (State.closeRegang_field State.crowd (fun _ _ _ => rfl) (fun _ _ _ => rfl) _ _)

theorem flushPoint {core oct : Nat} (h : s.Follows t) : s.Follows (t.flushPoint core oct) :=
  h.same (State.flushPoint_field State.crowd (fun _ _ _ => rfl) ..)

theorem flushSlice {x : Slice} (h : s.Follows t) : s.Follows (t.flushSlice x) := h.flushPoint

theorem freeShares {core : Nat} (h : s.Follows t) : s.Follows (t.freeShares core) := .ite h (h.same rfl)

theorem releaseFaults {a : Nat} (h : s.Follows t) : s.Follows (t.releaseFaults a) := h.same rfl

theorem forgetSlot {x : Slice} (h : s.Follows t) : s.Follows (t.forgetSlot x) := .ite h (h.same rfl)

/-- Slices that are gone, and waves that end, leave the others what they were. -/
theorem fewer {p : Slice → Bool} {f : Wave → Wave} (h : s.Follows t) (hf : ∀ w, (f w).badge = w.badge)
    (slices : u.slices = t.slices.filter p) (waves : u.waves = t.waves.map f) : s.Follows u := by
  have kept : u.waves.map Wave.badge = t.waves.map Wave.badge := by
    rw [waves, List.map_map]
    exact List.map_congr_left fun w _ => hf w
  refine ⟨?_, kept.trans h.waves⟩
  rw [slices]
  exact List.Subset.trans (List.filter_sublist.map _).subset h.slices

theorem endSlice {a : Nat} (h : s.Follows t) : s.Follows (t.endSlice a) := by
  unfold State.endSlice
  split
  · exact h
  · next x _ =>
    extract_lets left ended closed
    have hl : s.Follows left := h.leaveCrews.releaseFaults.forgetSlot
    have he : s.Follows ended := hl.fewer (fun w => by split <;> rfl) rfl rfl
    have hc : s.Follows closed := he.closeRegangs.freeShares
    exact .ite hc.flushPoint hc

theorem endWave {n : Word} {e : WaveEnd} (h : s.Follows t) : s.Follows (t.endWave n e) := by
  unfold State.endWave
  extract_lets close kept u
  have badges (w : Wave) : (close w).badge = w.badge := by unfold close; split <;> rfl
  have hu : s.Follows u := h.fewer (p := fun _ => true) badges (by simp [u, State.keepCmds]) rfl
  exact hu.foldl fun h => h.endSlice

/-! ### Trap entry (R164–R172) -/

theorem dropOp {a : Nat} {x : Txn} (h : s.Follows t) : s.Follows (t.dropOp a x) := by
  have filled : s.Follows ((x.parts.filter fun p => p.sid == a).foldl (fun y p => y.fillWord p x.kind.dropWord) t) :=
    h.foldl fun h => h.fillWord
  unfold State.dropOp
  dsimp only
  split
  · exact filled.same rfl
  · exact filled.same rfl

theorem concludeFault {a : Nat} {x : Txn} (h : s.Follows t) : s.Follows (t.concludeFault a x) := by
  have fill {u : State} {ps : List Part} (hu : s.Follows u) : s.Follows (ps.foldl (fun (x : State) p => x.fillWord p 0#32) u) :=
    hu.foldl fun h => h.fillWord
  unfold State.concludeFault
  extract_lets good ps stays u
  have hu : s.Follows u := by
    unfold u
    split
    · exact .ite h h.performLanes
    · exact .ite h h.performLanes
    · exact .ite h h.performLanes
    · exact .ite h h.performLanes
    · exact fill (h.same rfl)
    · exact fill h
  exact .ite (hu.same rfl) (hu.same rfl)

theorem concludeAll {a : Nat} {ts : List Txn} (h : s.Follows t) (e : t.concludeAll a ts = some u) : s.Follows u := by
  induction ts generalizing t with
  | nil => exact Option.some.inj e ▸ h
  | cons x rest ih =>
    unfold State.concludeAll at e
    split at e
    · exact ih h.concludeFault e
    · cases e

theorem leaveGang {sids : List Nat} {w : GangWait} (h : s.Follows t) : s.Follows (t.leaveGang sids w) :=
  h.same (State.leaveGang_field State.crowd (fun _ _ _ _ => rfl) ..)

theorem entryDone {gid : Nat} (h : s.Follows t) : s.Follows (t.entryDone gid) := by
  unfold State.entryDone
  split
  · exact h
  · exact .ite h (h.same rfl)

theorem entryOver {a : Nat} (h : s.Follows t) : s.Follows (t.entryOver a) := by
  unfold State.entryOver
  split
  · exact h
  · exact h.entryDone

theorem partHeld {a : Nat} (h : s.Follows t) : s.Follows (t.partHeld a) := by
  unfold State.partHeld
  split
  · exact h
  · exact .ite h h.leaveGang.entryDone

theorem doEntry {m : Slice} {r : TrapRec} (h : s.Follows t) : s.Follows (t.doEntry m r) := by
  unfold State.doEntry
  split
  · exact .ite (h.modSlice (by exact fun _ => rfl)).entryOver (h.flushSlice.modSlice fun x => x.enter_badge ..).entryOver
  · extract_lets drops rec_
    have hd : s.Follows (drops.foldl (fun y u => y.dropOp m.sid u) t) := h.foldl fun h => h.dropOp
    split
    · exact h
    · exact h.endWave
    · next e _ =>
      exact (((hd.concludeAll e).same (State.countEvent_crowd ..)).flushSlice.modSlice fun x => x.enter_badge ..).entryOver

theorem tryEnter {a : Nat} (h : s.Follows t) : s.Follows (t.tryEnter a) := by
  unfold State.tryEnter
  split
  · exact h
  · split
    · exact h
    · exact .ite h.endWave (.ite h.endWave (.ite (.ite h.doEntry (.ite h.endWave h.doEntry)) (.ite h.partHeld h)))

theorem noteFetchFault {a : Nat} {r : TrapRec} (h : s.Follows t) : s.Follows (t.noteFetchFault a r) :=
  h.same (State.noteFetchFault_field State.crowd (fun _ _ _ _ _ _ => rfl) t a r)

theorem raiseAll {ts : List (Nat × TrapRec)} (h : s.Follows t) : s.Follows (t.raiseAll ts) :=
  .foldl (.foldl (leaveGang (h.foldl fun h => h.noteFetchFault)) fun h => h.modSlice (by exact fun _ => rfl)) fun h => h.tryEnter

/-- Reports that are taken (R169). -/
theorem takeReports (h : s.Follows t) : s.Follows t.takeReports := by
  refine .ite h (h.foldl fun h => ?_)
  split
  · exact h
  · exact h.raiseAll

end State.Follows

end Sys2Proof.Machine

namespace Sys2Proof.Machine
open Claims

/-! ## The end of a wave (O27; R164, R166) -/

/-- What of the waves goes by their numbers is found by them. -/
theorem find?_wave {β : Type} {f : Wave → β} {l k : List Wave} (h : l.map (fun w => (w.num, f w)) = k.map fun w => (w.num, f w))
    (n : Word) : (l.find? fun w => w.num == n).map f = (k.find? fun w => w.num == n).map f := by
  have found (l : List Wave) : (l.find? fun w => w.num == n).map f =
      ((l.map fun w => (w.num, f w)).find? fun x => x.1 == n).map (·.2) := by
    rw [List.find?_map, Option.map_map]
    rfl
  rw [found, found, h]

/-- The wave of a number once the waves of that number have changed. -/
theorem find?_modWave {f : Wave → Wave} (hf : ∀ w, (f w).num = w.num) (l : List Wave) (n : Word) :
    (l.map fun w => if w.num == n then f w else w).find? (fun w => w.num == n) = (l.find? fun w => w.num == n).map f := by
  induction l with
  | nil => rfl
  | cons w t ih =>
    simp only [List.map_cons, List.find?_cons, ih]
    cases hw : w.num == n <;> simp [hw, hf]

/-- A slice that ends is one less for its wave, and changes no wave otherwise. -/
theorem State.endSlice_waves {β : Type} (q : Wave → β) (hq : ∀ (w : Wave) n, q { w with live := n } = q w) (s : State) (a : Nat) :
    (s.endSlice a).waves.map q = s.waves.map q := by
  cases hx : s.slice? a with
  | none => rw [State.endSlice, hx]
  | some x =>
    rw [(State.endSlice_gone hx).2, List.map_map]
    refine List.map_congr_left fun w _ => ?_
    simp only [Function.comp]
    split
    · exact hq w _
    · rfl

/-- No slice of the identity is left. -/
theorem State.endSlice_absent (s : State) (a : Nat) : ∀ x ∈ (s.endSlice a).slices, x.sid ≠ a := by
  cases hx : s.slice? a with
  | none =>
    rw [State.endSlice, hx]
    exact fun x h e => List.find?_eq_none.mp hx x h (beq_iff_eq.mpr e)
  | some x => exact (State.endSlice_gone hx).1.slices

/-- Where slices of a wave end and it has no others, none is left. -/
theorem State.endSlices_absent {n : Word} (ls : List Slice) (s : State) (h : ∀ x ∈ s.slices, x.wave = n → x.sid ∈ ls.map (·.sid)) :
    ∀ x ∈ (ls.foldl (fun t x => t.endSlice x.sid) s).slices, x.wave ≠ n := by
  induction ls generalizing s with
  | nil => exact fun x hx e => absurd (h x hx e) List.not_mem_nil
  | cons y ls ih =>
    refine ih (s.endSlice y.sid) fun x hx wave => ?_
    obtain ⟨z, hz, same⟩ := List.mem_map.mp ((State.Follows.refl s).endSlice.slices (List.mem_map_of_mem hx))
    obtain ⟨sid, same⟩ := Prod.mk.inj same
    have old := h z hz ((Prod.mk.inj same).1.trans wave)
    rw [sid] at old
    exact (List.mem_cons.mp old).resolve_left (s.endSlice_absent y.sid x hx)

/-- A wave that ends has no slice left. -/
theorem State.endWave_absent (s : State) (n : Word) (e : WaveEnd) : ∀ x ∈ (s.endWave n e).slices, x.wave ≠ n :=
  State.endSlices_absent _ _ fun _ hx wave => List.mem_map_of_mem (List.mem_filter.mpr ⟨hx, beq_iff_eq.mpr wave⟩)

/-- The number of a wave, and how it has ended. -/
def Wave.ending (w : Wave) : Word × Option WaveEnd := (w.num, w.ended)

/-- The first end of a wave stands. -/
theorem State.endWave_ended (s : State) (n : Word) (e : WaveEnd) :
    ((s.endWave n e).wave? n).map (·.ended) = (s.wave? n).map fun w => w.ended.or (some e) := by
  unfold State.endWave
  extract_lets close keep u
  have kept : ((u.slices.filter fun x => x.wave == n).foldl (fun (t : State) (x : Slice) => t.endSlice x.sid) u).waves.map Wave.ending =
      u.waves.map Wave.ending :=
    foldl_keeps (fun t : State => t.waves.map Wave.ending) _
      (fun t (x : Slice) => State.endSlice_waves Wave.ending (fun _ _ => rfl) t x.sid) _ u
  refine (find?_wave kept n).trans ?_
  have closed := find?_modWave (f := fun w => { w with ended := w.ended.or (some e), blocks := [], live := 0 }) (fun _ => rfl) s.waves n
  exact (congrArg (Option.map (·.ended)) closed).trans (Option.map_map ..)

/-! ### A trap in a handler -/

/-- A trap that is pending in a handler ends the wave. -/
theorem State.tryEnter_handler {s : State} {m : Slice} {r : TrapRec} (here : s.slice? m.sid = some m) (pend : m.pend = some r)
    (early : r.late = false) (group : r.group ≠ 0xE#5) (sup : modeSup m.mode = true) :
    s.tryEnter m.sid = s.endWave m.wave (m.trapEnd r) := by
  unfold State.tryEnter
  simp [here, pend, early, group, sup]

/-- The fields of the trap that is handled, one after another. -/
theorem append_fields (x : BitVec 16) (case : BitVec 8) (group : BitVec 5) : x ++ (case ++ 0#3 ++ group) = x ++ case ++ 0#3 ++ group := by
  have first : x ++ case ++ 0#3 = x ++ (case ++ 0#3) := BitVec.append_assoc
  have second : x ++ (case ++ 0#3) ++ group = x ++ (case ++ 0#3 ++ group) := BitVec.append_assoc
  rw [first, second]

/-- The end of the double fault (R166): the trap that is nested, and the one being handled as it was taken. -/
theorem Slice.trapEnd_handler {m : Slice} (sup : modeSup m.mode = true) (r : TrapRec) : m.trapEnd r = ⟨0#8 ++ r.case ++ 0x0F#8 ++ 1#8,
    r.case ++ 0#3 ++ r.group ++ m.taken.extractLsb' 8 8 ++ 0#3 ++ m.taken.extractLsb' 0 5 ++ r.tpc, r.tpc, m.core, none⟩ := by
  have nested : r.case ++ (0#3 ++ r.group) = r.case ++ 0#3 ++ r.group := BitVec.append_assoc.symm
  have handled := append_fields (r.case ++ 0#3 ++ r.group) (m.taken.extractLsb' 8 8) (m.taken.extractLsb' 0 5)
  unfold Slice.trapEnd
  rw [if_pos sup, nested, doubleMid, handled]
  rfl

/-- Settles O27: the trap is pending (`State.raised`) in a handler, and the wave ends. -/
theorem doubleFault : Obligations.DoubleFault := by
  intro s m r w here sup early group wave first
  have ends : s.raiseTrap m.sid r = (s.raised m.sid r).endWave m.wave ((m.raised r).trapEnd r) :=
    State.tryEnter_handler (m := m.raised r) (State.raised_slice? here) rfl early group sup
  have there : (s.raised m.sid r).wave? m.wave = some w :=
    (State.raised_field (·.wave? m.wave) (fun _ _ _ _ _ _ _ _ _ _ => rfl) s m.sid r).trans wave
  have ended := (s.raised m.sid r).endWave_ended m.wave ((m.raised r).trapEnd r)
  rw [there, Option.map_some, first] at ended
  obtain ⟨v, found, ended⟩ := Option.map_eq_some_iff.mp ended
  rw [ends]
  refine ⟨?_, State.endWave_absent _ _ _⟩
  rw [found]
  exact ended.trans (congrArg some (Slice.trapEnd_handler (m := m.raised r) sup r))

end Sys2Proof.Machine

namespace Sys2Proof.Machine
open Claims

/-! ## The debugger (O54; R178–R180) -/

/-! ### Reach and status (R178) -/

/-- An entry of a vector after one has been set. -/
theorem get_set {α : Type} {n : Nat} (v : Vector α n) (i j : Fin n) (x : α) : (v.set i x).get j = if i = j then x else v.get j := by
  simp only [Vector.get_eq_getElem, Vector.getElem_set, Fin.ext_iff]

section Status

variable (s : State) (fn : Fin 17) (w : Option Word) (x : BitVec 8)

@[simp] theorem State.dbgStatus_slices : (s.dbgStatus fn w x).slices = s.slices := rfl

/-- The registers of the function that asked have the status. -/
@[simp] theorem State.dbgStatus_own : (s.dbgStatus fn w x).dbg.get fn = { s.dbg.get fn with status := x, last := w } :=
  (get_set ..).trans (if_pos rfl)

/-- A status is no reason of a stop. -/
@[simp] theorem State.dbgStatus_reason (c : Fin 17) : ((s.dbgStatus fn w x).dbg.get c).reason = (s.dbg.get c).reason := by
  refine (congrArg DebugRegs.reason (get_set ..)).trans ?_
  split
  · next e => rw [← e]
  · rfl

end Status

section Operation

variable {s : State} {fn : Fin 17} {at_ : DbgTarget} {f : Slice → BitVec 8 × State}

/-- An operation that reaches no slice answers 0x03. -/
theorem State.dbgOp_none (h : s.dbgSlice fn at_ = none) : s.dbgOp fn at_ f = s.dbgStatus fn none 3#8 := by
  unfold State.dbgOp
  rw [h]

/-- One that reaches a slice answers the status of what it does. -/
theorem State.dbgOp_some {m : Slice} (h : s.dbgSlice fn at_ = some m) {r : BitVec 8 × State} (hf : f m = r) :
    s.dbgOp fn at_ f = r.2.dbgStatus fn (some m.wave) r.1 := by
  unfold State.dbgOp
  rw [h, ← hf]

end Operation

/-! ### Stop (R179) -/

/-- The stop of a slice tells the physical function its reason. -/
theorem State.stopSlice_reason {s : State} {a : Nat} {m : Slice} (here : s.slice? a = some m) (case : BitVec 8) :
    ((s.stopSlice a case).dbg.get 0).reason = case.setWidth 4 := by
  unfold State.stopSlice
  rw [here]
  dsimp -zeta only
  extract_lets cx note dbg t
  have flushed : ((t.flushSlice m).modSlice a fun x => x.debugStop case).dbg = t.dbg :=
    State.flushPoint_field State.dbg (fun _ _ _ => rfl) t m.core m.oct
  have physical : dbg.get 0 = note (s.dbg.get 0) := (get_set s.dbg 0 0 _).trans (if_pos rfl)
  have told : t.dbg.get 0 = note (s.dbg.get 0) := by
    show (if cx = 0 then dbg else dbg.set cx (note (dbg.get cx))).get 0 = _
    split
    · exact physical
    · next other => rw [get_set, if_neg other, physical]
  rw [flushed, told]

/-- Outside a handler the trap registers of a slice that stops take the cause. -/
theorem Slice.debugStop_user {m : Slice} (h : modeSup m.mode = false) (case : BitVec 8) :
    (m.debugStop case).tpc = m.pc ∧ (m.debugStop case).tcause.extractLsb' 0 5 = 0xC#5 := by
  have low (x : BitVec 27) : (x ++ 0xC#5).extractLsb' 0 5 = 0xC#5 := by
    apply BitVec.eq_of_getLsbD_eq
    intro i hi
    rw [BitVec.getLsbD_extractLsb', Nat.zero_add, BitVec.getLsbD_append, if_pos hi, decide_eq_true hi, Bool.true_and]
  unfold Slice.debugStop
  simp only [h, Bool.false_eq_true, if_false]
  exact ⟨trivial, low _⟩

/-- In a handler they keep what they hold. -/
theorem Slice.debugStop_handler {m : Slice} (h : modeSup m.mode = true) (case : BitVec 8) :
    (m.debugStop case).tcause = m.tcause ∧ (m.debugStop case).tdet = m.tdet ∧ (m.debugStop case).tpc = m.tpc := by
  unfold Slice.debugStop
  simp [h]

/-! ### Resume and detach (R179) -/

/-- A slice that goes on. -/
def Slice.resumed (x : Slice) : Slice := { x with stopped := false, stepping := false }

/-- A slice that is to issue one instruction. -/
def Slice.stepped (x : Slice) : Slice := { x with stepping := true }

/-- The machine whose slices go on, the reports they held back not taken yet. -/
def State.released (s : State) (hit : Slice → Bool) : State := { s with slices := s.slices.map fun x => if hit x then x.resumed else x }

/-- Where no report is held back, slices that go on are all that changes. -/
theorem State.resumeSlices_early {s : State} (h : ∀ x ∈ s.slices, x.late = false) (hit : Slice → Bool) :
    s.resumeSlices hit = s.released hit := by
  refine if_pos (List.all_eq_true.mpr fun x hx => ?_)
  obtain ⟨y, hy, rfl⟩ := List.mem_map.mp hx
  split <;> simp [h y hy]

/-- Of the slices of a wave that goes on, none is stopped, whatever report is taken. -/
theorem State.resumeSlices_running (s : State) (n : Word) :
    ∀ x ∈ (s.resumeSlices fun x => x.wave == n).slices, x.wave = n → x.stopped = false := by
  intro x hx wave
  have follows : (s.released fun x => x.wave == n).Follows (s.resumeSlices fun x => x.wave == n) := (State.Follows.refl _).takeReports
  obtain ⟨y, hy, same⟩ := List.mem_map.mp (follows.slices (List.mem_map_of_mem hx))
  obtain ⟨-, same⟩ := Prod.mk.inj same
  obtain ⟨sameWave, stopped⟩ := Prod.mk.inj same
  rw [← stopped]
  obtain ⟨z, -, rfl⟩ := List.mem_map.mp hy
  split
  · rfl
  · next other =>
    rw [if_neg other] at sameWave
    exact absurd (beq_iff_eq.mpr (sameWave.trans wave)) other

/-- Slices that go on leave the waves attached or not, as they were. -/
theorem State.resumeSlices_attached (s : State) (hit : Slice → Bool) (n : Word) :
    ((s.resumeSlices hit).wave? n).map (·.attached) = (s.wave? n).map (·.attached) := by
  have follows : (s.released hit).Follows (s.resumeSlices hit) := (State.Follows.refl _).takeReports
  exact find?_wave follows.waves n

/-- A wave is attached, or not, as asked. -/
theorem State.setAttached_attached (s : State) (n : Word) (a : Bool) :
    ((s.setAttached n a).wave? n).map (·.attached) = (s.wave? n).map fun _ => a := by
  have set := find?_modWave (f := fun w => { w with attached := a }) (fun _ => rfl) s.waves n
  exact (congrArg (Option.map (·.attached)) set).trans (Option.map_map ..)

/-! ### Registers (R59, R60, R180) -/

/-- The fields below 96 name the vector registers (R59). -/
theorem dbgVec_v (n : Fin 96) : dbgVec (BitVec.ofNat 7 n.val) = some (.v n) := by
  have h : (BitVec.ofNat 7 n.val).toNat = n.val := Nat.mod_eq_of_lt (by omega)
  unfold dbgVec
  simp [h]

/-- Those below 64 name the scalar registers (R60). -/
theorem dbgScl_s (n : Fin 64) : dbgScl (BitVec.ofNat 7 n.val) = some (.s n) := by
  have h : (BitVec.ofNat 7 n.val).toNat = n.val := Nat.mod_eq_of_lt (by omega)
  unfold dbgScl
  simp [h]

theorem dbgCell_s (n : Fin 64) : dbgCell true (BitVec.ofNat 7 n.val) = some (.s n) := by
  unfold dbgCell
  simp [dbgScl_s]

/-- A slice with a value in a scalar register. -/
def Slice.holding (n : Fin 64) (x : Word) (m : Slice) : Slice := { m with s := m.s.set n ⟨x, true, false⟩ }

/-- The debugger's value in a scalar register, whatever lanes it names. -/
theorem State.dbgPut_s (s : State) (a : Nat) (n : Fin 64) (mask : BitVec 4) (x : Word) :
    s.dbgPut a (.s n) mask x = s.modSlice a (Slice.holding n x) := rfl

/-! ### Operations that reach a slice -/

section Reached

variable {s : State} {fn : Fin 17} {at_ : DbgTarget} {m : Slice} (reach : s.dbgSlice fn at_ = some m)
include reach

/-- A slice that runs stops. -/
theorem exec_dbgStop (runs : m.stopped = false) (free : m.pend = none) :
    exec (.dbgStop fn at_) s = .next ((s.stopSlice m.sid 1#8).dbgStatus fn (some m.wave) 0#8) :=
  congrArg Host.Outcome.next (State.dbgOp_some reach (r := (0#8, s.stopSlice m.sid 1#8)) (by simp [runs, free]))

theorem exec_dbgResume : exec (.dbgResume fn at_) s = .next
    (if m.stopped then (s.resumeSlices fun x => x.sid == m.sid).dbgStatus fn (some m.wave) 0#8 else s.dbgStatus fn (some m.wave) 2#8) := by
  refine congrArg Host.Outcome.next ((State.dbgOp_some reach rfl).trans ?_)
  cases m.stopped <;> rfl

theorem exec_dbgStep : exec (.dbgStep fn at_) s = .next
    (if m.stopped then (s.modSlice m.sid Slice.stepped).dbgStatus fn (some m.wave) 0#8
      else s.dbgStatus fn (some m.wave) 2#8) := by
  refine congrArg Host.Outcome.next ((State.dbgOp_some reach rfl).trans ?_)
  cases m.stopped <;> rfl

theorem exec_dbgAttach : exec (.dbgAttach fn at_) s = .next ((s.setAttached m.wave true).dbgStatus fn (some m.wave) 0#8) :=
  congrArg Host.Outcome.next (State.dbgOp_some reach rfl)

/-- The slices of a wave that was attached go on. -/
theorem exec_dbgDetach {w : Wave} (wave : s.wave? m.wave = some w) (attached : w.attached = true) : exec (.dbgDetach fn at_) s = .next
    (((s.setAttached m.wave false).resumeSlices fun x => x.wave == m.wave).dbgStatus fn (some m.wave) 0#8) :=
  congrArg Host.Outcome.next (State.dbgOp_some reach
    (r := (0#8, (s.setAttached m.wave false).resumeSlices fun x => x.wave == m.wave)) (by simp [wave, attached]))

/-- A register that is read is given with its full bit. -/
theorem exec_dbgRead {scl : Bool} {reg : BitVec 7} {x : Lanes} {r : RegName} (value : m.dbgValue scl reg = some x)
    (cell : dbgCell scl reg = some r) : exec (.dbgRead fn at_ scl reg) s = .next
      (State.dbgStatus { s with dbg := s.dbg.set fn { s.dbg.get fn with data := x, full := m.isFull r } } fn (some m.wave) 0#8) :=
  congrArg Host.Outcome.next (State.dbgOp_some reach
    (r := (0#8, { s with dbg := s.dbg.set fn { s.dbg.get fn with data := x, full := m.isFull r } })) (by simp [value, cell]))

section Write

variable {n : Fin 64} {mask : BitVec 4} {force : Bool} {x : Word}

/-- No register of a slice that runs is written. -/
theorem exec_dbgWrite_running (runs : m.stopped = false) :
    exec (.dbgWrite fn at_ true (BitVec.ofNat 7 n.val) mask force x) s = .next (s.dbgStatus fn (some m.wave) 2#8) :=
  congrArg Host.Outcome.next (State.dbgOp_some reach (r := (2#8, s)) (by simp [runs]))

variable (stopped : m.stopped = true)
include stopped

/-- Whether something is to fill the register yet. -/
theorem exec_dbgWrite_stopped : exec (.dbgWrite fn at_ true (BitVec.ofNat 7 n.val) mask force x) s = .next
    (if (m.s.get n).full || !s.producing m.sid (.s n) then (s.dbgPut m.sid (.s n) mask x).dbgStatus fn (some m.wave) 0#8
      else if force then ((s.discardFills m.sid (.s n)).dbgPut m.sid (.s n) mask x).dbgStatus fn (some m.wave) 0#8
      else s.dbgStatus fn (some m.wave) 1#8) := by
  refine congrArg Host.Outcome.next ((State.dbgOp_some reach rfl).trans ?_)
  have full : m.isFull (.s n) = (m.s.get n).full := rfl
  simp only [stopped, dbgCell_s, full]
  cases (m.s.get n).full || !s.producing m.sid (.s n) <;> cases force <;> rfl

/-- A register of a stopped slice is written where nothing is to fill it, or what is to fill it is discarded. -/
theorem exec_dbgWrite_puts (free : (m.s.get n).full = true ∨ s.producing m.sid (.s n) = false ∨ force = true) :
    ∃ v : State, v.slices = s.slices ∧ exec (.dbgWrite fn at_ true (BitVec.ofNat 7 n.val) mask force x) s =
      .next ((v.dbgPut m.sid (.s n) mask x).dbgStatus fn (some m.wave) 0#8) := by
  rw [exec_dbgWrite_stopped reach stopped]
  by_cases h : ((m.s.get n).full || !s.producing m.sid (.s n)) = true
  · exact ⟨s, rfl, congrArg _ (if_pos h)⟩
  · have forced : force = true := by
      rcases free with full | idle | forced
      · simp [full] at h
      · simp [idle] at h
      · exact forced
    exact ⟨s.discardFills m.sid (.s n), rfl, congrArg _ ((if_neg h).trans (if_pos forced))⟩

end Write

end Reached

/-- Settles O54, operation by operation, by what each leaves of the slices, the waves and the debug registers. -/
theorem debugSteps : Obligations.DebugSteps := by
  refine ⟨fun fn t s lost i hi => ?_, fun fn t s m reach here => ⟨fun runs free => ?_, ?_, ?_, ?_, fun w wave attached => ?_,
    fun n => ?_, fun n => ?_, fun n mask force x => ⟨fun runs => ?_, fun stopped free => ?_, fun stopped empty due gentle => ?_⟩⟩⟩
  · simp only [List.mem_cons, List.not_mem_nil, or_false] at hi
    rcases hi with rfl | rfl | rfl | rfl | rfl <;> exact congrArg Host.Outcome.next (State.dbgOp_none lost)
  · obtain ⟨found, others⟩ := State.slice?_of_modList here (s.stopSlice_slices m.sid 1#8) fun x => x.debugStop_sid 1#8
    refine ⟨_, _, exec_dbgStop reach runs free, found, m.debugStop_stopped 1#8, m.debugStop_pc 1#8,
      fun user => Slice.debugStop_user user 1#8, fun sup => Slice.debugStop_handler sup 1#8, others, ?_, ?_⟩
    · rw [State.dbgStatus_reason, State.stopSlice_reason here]
      rfl
    · rw [State.dbgStatus_own]
  · refine ⟨_, exec_dbgResume reach, ?_, fun runs => ?_, fun stopped early => ?_⟩
    · cases m.stopped <;> simp
    · simp [runs]
    · rw [if_pos stopped, State.resumeSlices_early early]
      exact State.slice?_of_modList here (f := Slice.resumed) rfl fun _ => rfl
  · refine ⟨_, exec_dbgStep reach, ?_, ?_⟩
    · cases m.stopped <;> simp
    · by_cases stopped : m.stopped = true
      · rw [if_pos stopped, if_pos stopped]
        exact State.slice?_of_modList here (f := Slice.stepped) rfl fun _ => rfl
      · rw [if_neg stopped, if_neg stopped]
        exact ⟨here, fun _ _ => rfl⟩
  · exact ⟨_, exec_dbgAttach reach, s.setAttached_attached m.wave true, rfl, by simp⟩
  · refine ⟨_, exec_dbgDetach reach wave attached, ?_, State.resumeSlices_running _ m.wave, by simp⟩
    refine (State.resumeSlices_attached _ _ m.wave).trans ?_
    rw [State.setAttached_attached, wave]
    rfl
  · have value : m.dbgValue false (BitVec.ofNat 7 n.val) = some (m.v.get n).val := by
      simp [Slice.dbgValue, dbgVec_v, Slice.readV]
    have cell : dbgCell false (BitVec.ofNat 7 n.val) = some (.v n) := by simp [dbgCell, dbgVec_v]
    refine ⟨_, exec_dbgRead reach value cell, ?_, ?_, ?_, rfl⟩ <;> simp [get_set, Slice.isFull]
  · have value : m.dbgValue true (BitVec.ofNat 7 n.val) = some (Lanes.all (m.s.get n).val) := by
      simp [Slice.dbgValue, dbgScl_s]
    refine ⟨_, exec_dbgRead reach value (dbgCell_s n), ?_, ?_, ?_, rfl⟩ <;> simp [get_set, Slice.isFull]
  · exact ⟨_, exec_dbgWrite_running reach runs, by simp, rfl⟩
  · obtain ⟨v, same, step⟩ := exec_dbgWrite_puts reach stopped free (mask := mask) (x := x)
    obtain ⟨found, others⟩ := State.slice?_of_modList (t := v.modSlice m.sid (Slice.holding n x)) here
      (congrArg (modList · m.sid (Slice.holding n x)) same) fun _ => rfl
    rw [State.dbgPut_s] at step
    exact ⟨_, step, found, by simp, others⟩
  · have waits : ¬ ((m.s.get n).full || !s.producing m.sid (.s n)) = true := by simp [empty, due]
    refine ⟨_, exec_dbgWrite_stopped reach stopped, ?_⟩
    rw [if_neg waits, if_neg (by simp [gentle])]
    exact ⟨rfl, rfl, by simp⟩

end Sys2Proof.Machine

namespace Sys2Proof.Machine
open Claims

/-! ## Barrier words at issue (O34; R188, R191, R193) -/

/-! ### Instructions that leave the slices to their move -/

section Unmoved

variable {s v : State} {k : Issue} {c : Cur} {g : Gang} {ms : List Slice} (hi : Issuing s c g ms)
  (hv : v.slices = (s.advance k c ms).slices)
include hi hv

/-- A member stands where it moved on to. -/
theorem Issuing.slice?_unmoved {m : Slice} (hm : m ∈ ms) : v.slice? m.sid = some (k.moved c m) := by
  rw [State.slice?, hv]; exact hi.moved k hm

/-- No member is stepped. -/
theorem Issuing.steps_unmoved : ∀ m ∈ ms, v.steps m.sid = false := fun m hm => by
  rw [State.steps, hi.slice?_unmoved hv hm, Option.map_some, Option.getD_some, Issue.moved_stepping]
  exact hi.free m hm

end Unmoved

/-! ### One BARI -/

/-- A crew table once a BARI has bound the crew's entry, if it names one that is bound to a wave (R193). -/
def boundCrews (d : Option (Fin 32)) (off n : Nat) (v : Vector (Option CrewEntry) 32) : Vector (Option CrewEntry) 32 :=
  match d with
  | none => v
  | some k => v.set k ((v.get k).map fun e => { e with word := some off, extra := n })

theorem boundCrews_get (d : Option (Fin 32)) (off n : Nat) (v : Vector (Option CrewEntry) 32) (k : Fin 32) :
    (boundCrews d off n v).get k = if d = some k then (v.get k).map fun e => { e with word := some off, extra := n } else v.get k := by
  cases d with
  | none => rfl
  | some j =>
    refine (get_set v j k _).trans ?_
    by_cases h : j = k
    · subst h; simp
    · simp [h]

/-- The last binding stands. -/
theorem boundCrews_boundCrews (d : Option (Fin 32)) (off n off' n' : Nat) (v : Vector (Option CrewEntry) 32) :
    boundCrews d off n (boundCrews d off' n' v) = boundCrews d off n v := by
  refine Vector.ext fun i hi => ?_
  have at_ (w : Vector (Option CrewEntry) 32) : w[i] = w.get ⟨i, hi⟩ := rfl
  rw [at_, at_, boundCrews_get, boundCrews_get, boundCrews_get]
  split
  · cases v.get ⟨i, hi⟩ <;> rfl
  · rfl

/-- A table in which the crew is free is left alone. -/
theorem boundCrews_free {k : Fin 32} {v : Vector (Option CrewEntry) 32} (h : v.get k = none) (off n : Nat) :
    boundCrews (some k) off n v = v := by
  refine Vector.ext fun i hi => ?_
  have at_ (w : Vector (Option CrewEntry) 32) : w[i] = w.get ⟨i, hi⟩ := rfl
  rw [at_, at_, boundCrews_get]
  split
  · next e => cases e; rw [h]; rfl
  · rfl

/-- A core's record once a BARI has written its word and bound its crew. -/
def CoreRec.initiated (r : CoreRec) (d : Option (Fin 32)) (off n at_ : Nat) (w : Word) : CoreRec :=
  { r with spad := writeBytes r.spad at_ (toBytes 4 w.toNat), crews := boundCrews d off n r.crews }

/-- The count a BARI starts from depends on the crew's entry and its members. -/
theorem initial_congr {s t : State} {m : Slice} (entry : ∀ k, (t.crew m.core k).isNone = (s.crew m.core k).isNone)
    (count : ∀ k, t.crewCount m.core k = s.crewCount m.core k) (d : Option (Fin 32)) (n : Nat) : initial t m d n = initial s m d n := by
  cases d with
  | none => rfl
  | some k => simp only [initial, entry, count]

/-- A BARI changes the record of its core alone. -/
theorem State.initBar_eq (s : State) (m : Slice) (d : Option (Fin 32)) (off n : Nat) (hk : m.core < 192) : s.initBar m d off n =
    s.setCore m.core ((s.core m.core).initiated d off n (((s.core m.core).share m.wave).spad + off) (BitVec.ofNat 32 (initial s m d n))) := by
  cases d with
  | none => rfl
  | some k =>
    cases h : s.crew m.core k with
    | none =>
      have free : boundCrews (some k) off n (s.core m.core).crews = (s.core m.core).crews := boundCrews_free h off n
      simp only [State.initBar, h, initial, Option.isNone_none, if_true, CoreRec.initiated, free]
      rfl
    | some e =>
      have entry : (s.core m.core).crews.get k = some e := h
      simp only [State.initBar, h, initial, Option.isNone_some, Bool.false_eq_true, if_false, CoreRec.initiated, boundCrews, entry]
      rw [State.setBar, State.writeSpad, State.setCrew, State.core_setCore_same _ _ hk, State.setCore_setCore]
      rfl

/-! ### The BARIs of a gang -/

/-- A BARI of a member, with the flush point it is (R188, R228). -/
def State.bari (d : Option (Fin 32)) (a : SPairSrc) (b : SSrc) (t : State) (m : Slice) : State :=
  (t.flushSlice m).initBar m d (offsetOf (m.readPair a.reg)) ((m.readSrc b.reg).extractLsb' 0 12).toNat

section Bari

variable (d : Option (Fin 32)) (a : SPairSrc) (b : SSrc)

theorem State.bari_core {t : State} {m : Slice} (hk : m.core < 192) (j : Nat) : (t.bari d a b m).core j =
    if j = m.core then (t.core m.core).initiated d (offsetOf (m.readPair a.reg)) ((m.readSrc b.reg).extractLsb' 0 12).toNat (barAddr t m a)
      (BitVec.ofNat 32 (initial t m d ((m.readSrc b.reg).extractLsb' 0 12).toNat)) else t.core j := by
  have cores : (t.flushSlice m).cores = t.cores := State.flushPoint_field State.cores (fun _ _ _ => rfl) t _ _
  have core (j : Nat) : (t.flushSlice m).core j = t.core j := State.core_congr cores j
  have start (n : Nat) : initial (t.flushSlice m) m d n = initial t m d n :=
    initial_congr (fun k => by rw [State.crew, core]; rfl) (fun k => by rw [State.crewCount, State.flushSlice_slices]; rfl) d n
  rw [State.bari, State.initBar_eq _ _ _ _ _ hk, State.core_setCore, core, core, start, barAddr]
  simp [hk]

theorem State.bari_field {β : Type} (p : State → β) (h : ∀ (s : State) o x, p { s with octets := o, ctxs := x } = p s)
    (hc : ∀ (s : State) c, p { s with cores := c } = p s) {t : State} {m : Slice} (hk : m.core < 192) : p (t.bari d a b m) = p t := by
  rw [State.bari, State.initBar_eq _ _ _ _ _ hk]
  exact (hc _ _).trans (State.flushPoint_field p h t _ _)

/-- What the BARIs of some slices of one core have left of the machine: of the last one, its word and its crew's entry. -/
structure Initiated (s t : State) (k : Nat) (l : List Slice) : Prop where
  wf : t.MemWf
  slices : t.slices = s.slices
  gangs : t.gangs = s.gangs
  shares : ∀ j, (t.core j).shares = (s.core j).shares
  crews : (t.core k).crews = match l.getLast? with
    | none => (s.core k).crews
    | some m => boundCrews d (offsetOf (m.readPair a.reg)) ((m.readSrc b.reg).extractLsb' 0 12).toNat (s.core k).crews
  word : ∀ m, l.getLast? = some m →
    t.barWord k (barAddr s m a) = BitVec.ofNat 32 (initial s m d ((m.readSrc b.reg).extractLsb' 0 12).toNat)
  kept : scratchKept s t (l.map fun m => (m.core, barAddr s m a))

variable {d a b} in
/-- One more BARI. -/
theorem Initiated.bari {s t : State} {k : Nat} {l : List Slice} (h : Initiated d a b s t k l) {m : Slice} (hm : m.core = k) (hk : k < 192) :
    Initiated d a b s (t.bari d a b m) k (l ++ [m]) := by
  subst hm
  have core := State.bari_core d a b (t := t) hk
  have addr : barAddr t m a = barAddr s m a := by simp only [barAddr, CoreRec.share, h.shares]
  have wf : (t.bari d a b m).MemWf := (h.wf.flushSlice).initBar
  have free (j : Fin 32) : (t.crew m.core j).isNone = (s.crew m.core j).isNone := by
    simp only [State.crew, h.crews]
    cases l.getLast? with
    | none => rfl
    | some y =>
      dsimp only
      rw [boundCrews_get]
      split
      · simp
      · rfl
  have start (n : Nat) : initial t m d n = initial s m d n := initial_congr free (fun k => by rw [State.crewCount, h.slices]; rfl) d n
  refine ⟨wf, ?_, ?_, fun j => ?_, ?_, fun y hy => ?_, fun j x hx => ?_⟩
  · exact (State.bari_field d a b State.slices (fun _ _ _ => rfl) (fun _ _ => rfl) hk).trans h.slices
  · exact (State.bari_field d a b State.gangs (fun _ _ _ => rfl) (fun _ _ => rfl) hk).trans h.gangs
  · rw [core]
    split
    · next e => rw [e]; exact h.shares m.core
    · exact h.shares j
  · rw [core, if_pos rfl, List.getLast?_concat]
    simp only [CoreRec.initiated, h.crews]
    cases l.getLast? with
    | none => rfl
    | some y => exact boundCrews_boundCrews ..
  · rw [List.getLast?_concat] at hy
    cases hy
    have back := State.barWord_setBar (a := barAddr s m a) h.wf hk (BitVec.ofNat 32 (initial s m d ((m.readSrc b.reg).extractLsb' 0 12).toNat))
    rw [← back, State.barWord, State.barWord, core, if_pos rfl, State.core_setBar hk, CoreRec.initiated, addr, start]
  · have before := h.kept j x fun w hw => hx w (by rw [List.map_append]; exact List.mem_append_left _ hw)
    rw [core]
    split
    · next e =>
      have out := hx (m.core, barAddr s m a) (by simp) e.symm
      rw [← before, e, CoreRec.initiated, addr]
      refine memRead_writeBytes_outside h.wf.core.spad _ _ ?_
      rw [toBytes_length]; omega
    · exact before

/-- The BARIs of some slices of a core, one after the other. -/
theorem Initiated.all {s : State} {k : Nat} (wf : s.MemWf) (hk : k < 192) (l : List Slice) (hl : ∀ m ∈ l, m.core = k) :
    Initiated d a b s (l.foldl (State.bari d a b) s) k l := by
  induction l using List.reverseRecOn with
  | nil => exact ⟨wf, rfl, rfl, fun _ => rfl, rfl, nofun, fun _ _ _ => rfl⟩
  | append_singleton l m ih =>
    rw [List.foldl_append]
    exact (ih fun x hx => hl x (List.mem_append_left _ hx)).bari (hl m (by simp)) hk

end Bari

/-! ### The issue of BARI and BARW -/

/-- What the members of a gang keep as they move on, the machine's slices keep. -/
theorem State.advance_slices_map {β : Type} (p : Slice → β) (hm : ∀ sl r, p (sl.clearMark r) = p sl)
    (hpc : ∀ sl pc, p { sl with pc := pc } = p sl) (s : State) (k : Issue) (c : Cur) (ms : List Slice) :
    (s.advance k c ms).slices.map p = s.slices.map p := by
  refine foldl_keeps (fun t : State => t.slices.map p) _ (fun t m => ?_) ms s
  show List.map p (State.modSlice _ _ _).slices = _
  rw [State.modSlice_slices, modList, List.map_map]
  have slices : (if k.kind.acts m then t.readTokens m.sid (k.srcs m) else t).slices = t.slices := by split <;> simp
  rw [slices]
  refine List.map_congr_left fun x _ => ?_
  rw [Function.comp]
  split
  · rw [hpc]
    split
    · exact Slice.clearMarks_keeps p hm ..
    · rfl
  · rfl

/-- Moving on changes no crew's members. -/
theorem State.crewCount_advance (s : State) (k : Issue) (c : Cur) (ms : List Slice) (core : Nat) (a : Fin 32) :
    (s.advance k c ms).crewCount core a = s.crewCount core a := by
  let p (x : Slice) : Bool := x.core == core && x.crews.getLsbD a.val
  have kept := State.advance_slices_map p (fun sl r => by cases r <;> rfl) (fun _ _ => rfl) s k c ms
  have count (l : List Slice) : (l.filter p).length = ((l.map p).filter id).length := by
    rw [List.filter_map, List.length_map]; rfl
  exact (count _).trans ((congrArg (fun l => (l.filter id).length) kept).trans (count _).symm)

/-- What issue knows of BARI. -/
def bariIssue (s : State) (d : Option (Fin 32)) (a : SPairSrc) (b : SSrc) : Issue :=
  ⟨.guarded, false, fun sl => sl.spUses a 1 ++ sl.ssUses b 2, fun _ => [], noCheck, fun c sl =>
    (s.barTrap sl c a).or (match d with
      | none => none
      | some k => match s.crew sl.core k with
        | some e => if e.wave = sl.wave then none else some (trapPrivilege sl c 3#8 (BitVec.ofNat 8 k.val))
        | none => none)⟩

/-- The check of BARI passes for a word in the scratchpad and a crew that is free or the wave's own (R187, R192, R193). -/
theorem bariIssue_early {s : State} {m : Slice} {d : Option (Fin 32)} {a : SPairSrc} (fit : fits s m (m.readPair a.reg) 4 4 [.scratch])
    (own : ∀ k, d = some k → ∀ e, s.crew m.core k = some e → e.wave = m.wave) (b : SSrc) (c : Cur) : (bariIssue s d a b).early c m = none := by
  have inside : s.barTrap m c a = none := State.scalarAccess_fits fit c false
  cases d with
  | none => simp only [bariIssue, inside, Option.none_or]
  | some k =>
    cases entry : s.crew m.core k with
    | none => simp only [bariIssue, inside, Option.none_or, entry]
    | some e => simp only [bariIssue, inside, Option.none_or, entry, own k rfl e entry, if_true]

section Issue

variable {s : State} {c : Cur} {g : Gang} {ms : List Slice} (hi : Issuing s c g ms) (hy : c.yields = false)
include hi hy

/-- What an instruction leaves that nothing holds, and that changes no slice beyond its move. -/
theorem Issuing.exec_unmoved {i : Instr} {k : Issue} {hold : Cur → List Slice → State → Bool} {perform : Cur → List Slice → State → State}
    {v : State} (hx : exec i s = .next (s.issue k hold perform)) (hc : ∀ m ∈ ms, k.clear c m) (hh : hold c (ms.filter k.kind.acts) s = false)
    (performs : perform c (ms.filter k.kind.acts) (s.advance k c ms) = v) (hv : v.slices = (s.advance k c ms).slices) :
    ∃ t, exec i s = .next t ∧ (∀ m ∈ ms, ∃ x, t.slice? m.sid = some x ∧ x.pc = c.nxt) ∧ t.beyond = v.beyond ∧ t.gangs = v.gangs := by
  subst performs
  obtain ⟨slices, beyond, -, gangs⟩ := State.issue_left (hold := hold) (perform := perform) hi hc hh (hi.steps_unmoved hv)
  exact ⟨_, hx, fun m hm => ⟨_, hi.slice?_unmoved (slices.trans hv) hm, k.moved_pc c m⟩, beyond, (gangs hy).1⟩

/-- What BARI leaves, when the slice `l` is the last that acts (R188, R193). -/
theorem exec_bari {d : Option (Fin 32)} {a : SPairSrc} {b : SSrc} {l : Slice} (last : (ms.filter guarded).getLast? = some l) (wf : s.MemWf)
    (ready : ∀ m ∈ ms, guarded m = true → m.ready (m.spUses a 1 ++ m.ssUses b 2) [] = true)
    (fit : ∀ m ∈ ms, guarded m = true → fits s m (m.readPair a.reg) 4 4 [.scratch])
    (here : l.core < 192) (goes : ∀ m ∈ ms, guarded m = true → s.mustWait (.store none) m (m.readPair a.reg) = false)
    (own : ∀ m ∈ ms, guarded m = true → ∀ k, d = some k → ∀ e, s.crew m.core k = some e → e.wave = m.wave) :
    let n := ((l.readSrc b.reg).extractLsb' 0 12).toNat
    ∃ t, exec (.bari d a b) s = .next t ∧ (∀ m ∈ ms, ∃ x, t.slice? m.sid = some x ∧ x.pc = c.nxt) ∧
      t.barWord l.core (barAddr s l a) = BitVec.ofNat 32 (initial s l d n) ∧
      scratchKept s t ((ms.filter guarded).map fun m => (m.core, barAddr s m a)) ∧
      (t.core l.core).crews = boundCrews d (offsetOf (l.readPair a.reg)) n (s.core l.core).crews ∧ t.gangs = s.gangs := by
  intro n
  let u := s.advance (bariIssue s d a b) c ms
  let v := (ms.filter guarded).foldl (State.bari d a b) u
  have acting (m : Slice) (hm : m ∈ ms.filter guarded) : m ∈ ms ∧ guarded m = true := List.mem_filter.mp hm
  have onCore : ∀ m ∈ ms.filter guarded, m.core = l.core := fun m hm =>
    (hi.core (acting m hm).1).trans (hi.core (acting l (List.mem_of_getLast? last)).1).symm
  have wfu : u.MemWf := wf.frame (congrArg State.mems (State.advance_beyond s (bariIssue s d a b) c ms) :)
  have done : Initiated d a b u v l.core (ms.filter guarded) := Initiated.all d a b wfu here _ onCore
  obtain ⟨t, run, moved, beyond, gangs⟩ := hi.exec_unmoved hy (i := .bari d a b) rfl
    (fun m hm => Issue.clear_of_ready (k := bariIssue s d a b) rfl rfl rfl
      (fun ha => ⟨ready m hm ha, bariIssue_early (fit m hm ha) (own m hm ha) b c⟩) nofun)
    (List.any_eq_false.mpr fun m hm => by rw [goes m (acting m hm).1 (acting m hm).2]; nofun) (v := v) rfl done.slices
  have core (j : Nat) : u.core j = s.core j := State.core_congr (State.advance_cores ..) j
  have final (j : Nat) : t.core j = v.core j := State.core_congr (congrArg State.cores beyond :) j
  have addr (m : Slice) : barAddr u m a = barAddr s m a := by simp only [barAddr, core]
  have start : initial u l d n = initial s l d n :=
    initial_congr (fun k => by rw [State.crew, core]; rfl) (fun k => State.crewCount_advance ..) d n
  refine ⟨t, run, moved, ?_, fun j x hx => ?_, ?_, gangs.trans (done.gangs.trans (State.advance_gangs ..))⟩
  · rw [State.barWord, final, ← addr, ← start]
    exact done.word l last
  · rw [final, ← core]
    exact done.kept j x (by simpa only [addr] using hx)
  · rw [final, done.crews, last, core]

/-- The words that the members of a BARW wait at: those that show the phase they name (R191). -/
def barWaits (s : State) (a : SPairSrc) (b : SSrc) (ms : List Slice) : List Slice :=
  ms.filter fun m => barPhase (s.barWord m.core (barAddr s m a)) == (m.readSrc b.reg).getLsbD 0

/-- What BARW leaves (R191): the gang waits at the words of the members that wait. -/
theorem exec_barw {a : SPairSrc} {b : SSrc} (ready : ∀ m ∈ ms, m.ready (m.spUses a 1 ++ m.ssUses b 2) [] = true)
    (fit : ∀ m ∈ ms, fits s m (m.readPair a.reg) 4 4 [.scratch]) (goes : ∀ m ∈ ms, s.mustWait (.load none) m (m.readPair a.reg) = false) :
    let waits := barWaits s a b ms
    ∃ t, exec (.barw a b) s = .next t ∧ (∀ m ∈ ms, ∃ x, t.slice? m.sid = some x ∧ x.pc = c.nxt) ∧
      t.gangs = (if waits = [] then s.gangs else s.gangs.map fun x =>
        if x.gid = c.gid then { x with wait := .barw c.pc (waits.map fun m => (m.sid, barAddr s m a)), since := s.nextId } else x) ∧
      t.cores = s.cores ∧ t.hbm = s.hbm ∧ t.cdata = s.cdata := by
  intro waits
  let k : Issue := ⟨.always, false, fun sl => sl.spUses a 1 ++ sl.ssUses b 2, fun _ => [], noCheck, fun c sl => s.barTrap sl c a⟩
  let u := ms.foldl State.flushSlice (s.advance k c ms)
  let v := if (barWaits u a b ms).isEmpty then u else
    u.startWait c.gid (.barw c.pc ((barWaits u a b ms).map fun m => (m.sid, barAddr u m a)))
  have every : ms.filter k.kind.acts = ms := List.filter_eq_self.mpr fun _ _ => rfl
  have uslices : u.slices = (s.advance k c ms).slices := State.flushed_slices _ true ms
  have vslices : v.slices = u.slices := by unfold v; split <;> rfl
  obtain ⟨t, run, moved, beyond, gangs⟩ := hi.exec_unmoved hy (i := .barw a b) rfl
    (fun m hm => Issue.clear_of_ready (k := k) rfl rfl rfl (fun _ => ⟨ready m hm, State.scalarAccess_fits (fit m hm) c false⟩) nofun)
    (by rw [every]; exact List.any_eq_false.mpr fun m hm => by rw [goes m hm]; nofun) (v := v) (by rw [every]; rfl) (vslices.trans uslices)
  have keeps {β : Type} (p : State → β) (h : ∀ (s : State) o x, p { s with octets := o, ctxs := x } = p s) : p u = p (s.advance k c ms) :=
    State.flushed_field _ true ms p fun t m => State.flushPoint_field p h t _ _
  have cores : u.cores = s.cores := (keeps State.cores fun _ _ _ => rfl).trans (State.advance_cores ..)
  have core (j : Nat) : u.core j = s.core j := State.core_congr cores j
  have addr (m : Slice) : barAddr u m a = barAddr s m a := by simp only [barAddr, core]
  have same : barWaits u a b ms = waits := by simp only [waits, barWaits, addr, State.barWord, core]
  have ugangs : u.gangs = s.gangs := (State.flushed_gangs _ true ms).trans (State.advance_gangs ..)
  have name : u.nextId = s.nextId := (State.flushed_nextId _ true ms).trans (State.advance_nextId ..)
  have unslept : v.beyond = u.beyond := by unfold v; split <;> rfl
  have left : t.beyond = u.beyond := beyond.trans unslept
  have started : (s.advance k c ms).beyond = s.beyond := State.advance_beyond ..
  refine ⟨t, run, moved, gangs.trans ?_, (congrArg State.cores left :).trans cores,
    (congrArg State.hbm left :).trans ((keeps State.hbm fun _ _ _ => rfl).trans (congrArg State.hbm started :)),
    (congrArg State.cdata left :).trans ((keeps State.cdata fun _ _ _ => rfl).trans (congrArg State.cdata started :))⟩
  unfold v
  rw [same]
  by_cases none : waits = []
  · simp [none, ugangs]
  · simp [none, State.startWait, State.modGang, ugangs, name, addr]

end Issue

/-- Settles O34. -/
theorem barrierWords : Obligations.BarrierWords := by
  refine ⟨fun d a b s c g ms l hi last wf hy ok => ?_, fun a b s c g ms hi hy ok => ?_⟩
  · have acting : l ∈ ms ∧ guarded l = true := List.mem_filter.mp (List.mem_of_getLast? last)
    obtain ⟨t, run, moved, word, kept, crews, gangs⟩ := exec_bari hi hy last (State.memWf_iff.mp wf)
      (fun m hm ha => (ok m hm ha).1) (fun m hm ha => (ok m hm ha).2.1) (ok l acting.1 acting.2).2.2.1
      (fun m hm ha => (ok m hm ha).2.2.2.1) (fun m hm ha => (ok m hm ha).2.2.2.2)
    exact ⟨t, run, moved, word, kept, fun k => by rw [State.crew, crews, boundCrews_get]; rfl, gangs⟩
  · obtain ⟨t, run, moved, gangs, rest⟩ := exec_barw hi hy (fun m hm => (ok m hm).1) (fun m hm => (ok m hm).2.1) fun m hm => (ok m hm).2.2
    exact ⟨t, s.nextId, run, moved, le_refl _, gangs, rest⟩

end Sys2Proof.Machine

namespace Sys2Proof.Machine
open Claims

/-! ## Arrivals at a barrier word (O44; R189, R191, R278) -/

/-! ### The word -/

/-- A barrier word once one more arrival has counted (R189). -/
def barArrived (w : Word) : Word :=
  if barExp w ≤ barArr w + 1 then barMake w (!barPhase w) 0 (barExp w) else barMake w (barPhase w) (barArr w + 1) (barExp w)

section Arrive

variable {s : State} {k a : Nat}

/-- The word written is read back from a scratchpad in canonical form. -/
theorem State.barWord_setBar_of_wf (wf : (s.core k).spad.wf = true) (hk : k < 192) (w : Word) : (s.setBar k a w).barWord k a = w := by
  have back := readBytes_writeBytes wf a (toBytes 4 w.toNat)
  rw [toBytes_length] at back
  unfold State.barWord readLE
  rw [State.core_setBar hk]
  dsimp only
  rw [back, ofBytes_toBytes]
  exact BitVec.eq_of_toNat_eq (by simpa using w.isLt)

/-- No byte outside the word changes. -/
theorem State.setBar_kept (wf : (s.core k).spad.wf = true) (hk : k < 192) (w : Word) : scratchKept s (s.setBar k a w) [(k, a)] := by
  intro j b out
  by_cases hj : j = k
  · subst hj
    rw [State.core_setBar hk]
    have outside : ¬ (a ≤ b ∧ b < a + 4) := out _ (List.mem_singleton_self _) rfl
    refine memRead_writeBytes_outside wf _ _ ?_
    rw [toBytes_length]; omega
  · rw [State.setBar, State.writeSpad, State.core_setCore, if_neg fun h => hj h.1]

/-- An arrival changes the cores as the writing of its word does. -/
theorem State.arrive_cores (s : State) (k a : Nat) : (s.arrive k a).cores = (s.setBar k a (barArrived (s.barWord k a))).cores := by
  unfold State.arrive barArrived
  dsimp only
  split
  · exact State.releaseWaiters_field State.cores (fun _ _ _ _ => rfl) _ k a
  · rfl

/-- An arrival changes the cores, the gangs and those parked alone. -/
theorem State.arrive_field {β : Type} (p : State → β) (h : ∀ (s : State) g k c n, p { s with gangs := g, parks := k, cores := c, nextId := n } = p s)
    (s : State) (k a : Nat) : p (s.arrive k a) = p s := by
  unfold State.arrive
  dsimp only
  split
  · exact (State.releaseWaiters_field p (fun s g k n => h s g k s.cores n) _ k a).trans (h s s.gangs s.parks _ s.nextId)
  · exact h s s.gangs s.parks _ s.nextId

/-- An arrival counts in its word, and changes no other byte of a scratchpad (R189). -/
theorem State.arrive_word (wf : (s.core k).spad.wf = true) (hk : k < 192) {t : State} (h : ∀ j, (t.core j).spad = ((s.arrive k a).core j).spad) :
    t.barWord k a = barArrived (s.barWord k a) ∧ scratchKept s t [(k, a)] := by
  have core (j : Nat) : (t.core j).spad = ((s.setBar k a (barArrived (s.barWord k a))).core j).spad :=
    (h j).trans (congrArg CoreRec.spad (State.core_congr (s.arrive_cores k a) j))
  refine ⟨?_, fun j b out => ?_⟩
  · rw [State.barWord, core]
    exact State.barWord_setBar_of_wf wf hk _
  · rw [core]
    exact State.setBar_kept wf hk _ j b out

end Arrive

/-! ### A budgeted flip (R278) -/

section Flip

variable (s : State) (k : Nat) (wave : Word)

/-- A budgeted flip is numbered on its core, and changes no other core. -/
theorem State.budgetFlip_core (j : Nat) : (s.budgetFlip k wave).core j = if j = k ∧ k < 192 then
    { s.core k with flips := ⟨wave, (s.core k).flipTimes wave ++ [s.tick.tsc]⟩ :: (s.core k).flips.filter fun f => f.wave != wave }
    else s.core j := by
  unfold State.budgetFlip
  dsimp only
  have split_ (t : State) (c : Bool) (r : List BudgetRounds) : (if c = true then t else { t with rounds := r }).core j = t.core j := by
    split <;> rfl
  rw [split_]
  exact State.core_setCore s.tick k _ j

theorem State.budgetFlip_field {β : Type} (p : State → β) (h : ∀ (s : State) c r, p { s with cores := c, rounds := r } = p s) :
    p (s.budgetFlip k wave) = p s.tick := by
  unfold State.budgetFlip
  dsimp only
  split
  · exact h s.tick _ s.tick.rounds
  · exact h s.tick _ _

end Flip

/-- The flips of a wave once one more is numbered first in the list. -/
theorem CoreRec.flipTimes_cons (r : CoreRec) (wave : Word) (ts : List DWord) (l : List FlipCount) :
    ({ r with flips := ⟨wave, ts⟩ :: l } : CoreRec).flipTimes wave = ts := by
  simp [CoreRec.flipTimes]

/-! ### Performing the operation -/

/-- A slice whose scalar register takes a word. -/
theorem Slice.fillPart_scalar (x : Slice) {p : Part} {n : Fin 64} (dst : p.dst = [.s n]) (mask : BitVec 4) (w : Word) (hi : Lanes) :
    x.fillPart p mask (Lanes.all w) hi = { x with s := x.s.set n ⟨w, true, false⟩ } := by
  rw [Slice.fillPart, dst]; rfl

/-- The slice of a part once its scalar register is filled. -/
theorem State.slice?_fillWord (s : State) {p : Part} {n : Fin 64} (dst : p.dst = [.s n]) (w : Word) :
    (s.fillWord p w).slice? p.sid = (s.slice? p.sid).map fun x => { x with s := x.s.set n ⟨w, true, false⟩ } := by
  rw [State.fillWord, State.slice?_modSlice _ _ _ _ fun x => Slice.fillPart_sid .., if_pos rfl]
  simp only [Slice.fillPart_scalar _ dst]

/-- The machine once an arrival of a wave at a word of a core has counted, as a flip too if it is budgeted and completes the phase (R189, R278). -/
def State.counted (s : State) (k a : Nat) (wave : Word) (budg : Bool) : State :=
  if budg && s.arrivalFlips k a then (s.arrive k a).budgetFlip k wave else s.arrive k a

section Counted

variable (s : State) {k a : Nat} (wave : Word) (budg : Bool)

/-- The flip changes no scratchpad. -/
theorem State.counted_spad (j : Nat) : ((s.counted k a wave budg).core j).spad = ((s.arrive k a).core j).spad := by
  unfold State.counted
  split
  · rw [State.budgetFlip_core]
    split
    · next h => rw [h.1]
    · rfl
  · rfl

theorem State.counted_slices : (s.counted k a wave budg).slices = s.slices := by
  have arrives : (s.arrive k a).slices = s.slices := State.arrive_field State.slices (fun _ _ _ _ _ => rfl) s k a
  unfold State.counted
  split
  · exact (State.budgetFlip_field _ k wave State.slices fun _ _ _ => rfl).trans arrives
  · exact arrives

/-- The flip counts at the time the step leaves (R278). -/
theorem State.counted_flipTimes (hk : k < 192) : ((s.counted k a wave budg).core k).flipTimes wave = (s.core k).flipTimes wave ++
    (if budg = true ∧ barExp (s.barWord k a) ≤ barArr (s.barWord k a) + 1 then [(s.counted k a wave budg).tsc] else []) := by
  have arrives : ((s.arrive k a).core k).flipTimes wave = (s.core k).flipTimes wave := by
    rw [State.core_congr (s.arrive_cores k a), State.core_setBar hk]; rfl
  unfold State.counted
  by_cases flips : budg = true ∧ barExp (s.barWord k a) ≤ barArr (s.barWord k a) + 1
  · have taken : (budg && s.arrivalFlips k a) = true := by simpa [State.arrivalFlips] using flips
    rw [if_pos taken, if_pos flips, State.budgetFlip_core, if_pos ⟨rfl, hk⟩, CoreRec.flipTimes_cons, arrives,
      State.budgetFlip_field _ k wave State.tsc fun _ _ _ => rfl]
  · have kept : ¬ (budg && s.arrivalFlips k a) = true := by simpa [State.arrivalFlips] using flips
    rw [if_neg kept, if_neg flips, arrives, List.append_nil]

end Counted

section Perform

variable {s : State} {t : Txn} {l : LaneAcc} {p : Part} (due : Due s t) (lane : t.lanes = [l]) (part : t.parts = [p]) (own : p.sid = l.sid)

include due in
/-- The step of an operation that is due completes it, where it may. -/
theorem exec_registerFill_due : exec (.registerFill t.id) s = .next (s.completeTxn t) := by
  show execRegisterFill t.id s = _
  rw [execRegisterFill, due.here]

include part own in
/-- The part of the one lane is the one part. -/
theorem partOf_lane : (t.parts.find? fun q => q.sid == l.sid) = some p := by
  simp [part, own]

include due lane part own

theorem exec_registerFill_barr {budg : Bool} (hk : t.kind = .barr budg) : exec (.registerFill t.id) s = .next
    (((s.counted t.core (s.spadAddr t.core t.wave l.addr) t.wave budg).fillWord p
      (if barPhase (s.barWord t.core (s.spadAddr t.core t.wave l.addr)) then 1#32 else 0#32)).dropTxn t.id) := by
  rw [exec_registerFill_due due, State.completeTxn, hk]
  dsimp only
  rw [if_pos due.ready, State.performBarr, lane, List.foldl_cons, List.foldl_nil, partOf_lane part own]
  rfl

theorem exec_registerFill_bart {ph : Bool} (hk : t.kind = .bart ph) : exec (.registerFill t.id) s = .next
    ((s.fillWord p (if barPhase (s.barWord t.core (s.spadAddr t.core t.wave l.addr)) = ph then 0#32 else 1#32)).dropTxn t.id) := by
  rw [exec_registerFill_due due, State.completeTxn, hk]
  dsimp only
  rw [if_pos due.ready, State.performBart, lane, List.foldl_cons, List.foldl_nil, partOf_lane part own]

end Perform

/-- Settles O44: the arrival of a BARR, and the test of a BART. -/
theorem barrierPerformed : Obligations.BarrierPerformed := by
  intro s t l p m n due lane part own dst found hk wf a w
  have fills (u : State) (same : u.slices = s.slices) (x : Word) :
      (u.fillWord p x).slice? p.sid = some { m with s := m.s.set n ⟨x, true, false⟩ } := by
    rw [State.slice?_fillWord u dst, State.slice?, same, ← State.slice?, found]; rfl
  refine ⟨fun budg kind => ?_, fun ph kind => ?_⟩
  · obtain ⟨word, kept⟩ := State.arrive_word wf hk (s.counted_spad (a := a) t.wave budg)
    exact ⟨_, _, exec_registerFill_barr due lane part own kind, fills _ (s.counted_slices t.wave budg) _, rfl, word, kept,
      s.counted_flipTimes t.wave budg hk⟩
  · exact ⟨_, _, exec_registerFill_bart due lane part own kind, fills s rfl _, rfl, rfl, rfl⟩

end Sys2Proof.Machine

namespace Sys2Proof.Machine
open Claims

/-! ## The environment (O59; R197, R198, R275, R278, R280, R336–R339) -/

/-! ### Detection (R197, R336, R337) -/

section Test

variable (s : State) (u : ErrUnit) (loc : Word)

/-- Whether a structure is under test. -/
def State.underTest : Bool := s.trust.tests.any fun t => t.1 == u && t.2.1 == loc

/-- A structure is under test when its unit and its place stand in a test. -/
theorem State.underTest_eq_false (h : ∀ t ∈ s.trust.tests, ¬ (t.1 = u ∧ t.2.1 = loc)) : s.underTest u loc = false :=
  List.any_eq_false.mpr fun t ht => by simpa using h t ht

variable {s u loc}

theorem State.startTest_running (h : s.underTest u loc = true) : s.startTest u loc = s := if_pos h

theorem State.startTest_new (h : s.underTest u loc = false) (hu : u ≠ .core) :
    s.startTest u loc = { s with trust := { s.trust with tests := s.trust.tests ++ [(u, loc, s.trust.logged)] } } := by
  have free : ¬ (s.trust.tests.any fun t => t.1 == u && t.2.1 == loc) = true := ne_true_of_eq_false h
  have other : ¬ (u == ErrUnit.core) = true := by simpa using hu
  rw [State.startTest, if_neg free]
  exact if_neg other

theorem State.startTest_core (h : s.underTest .core loc = false) (hl : loc.toNat < 192) :
    ((s.startTest .core loc).core loc.toNat).testing = true := by
  have free : ¬ (s.trust.tests.any fun t => t.1 == ErrUnit.core && t.2.1 == loc) = true := ne_true_of_eq_false h
  rw [State.startTest, if_neg free]
  exact congrArg CoreRec.testing (State.core_setCore_same _ _ hl)

variable (s u loc)

/-- The start of a test changes the tests and the core under test alone. -/
theorem State.startTest_field {β : Type} (p : State → β) (h : ∀ (s : State) c (l : List (ErrUnit × Word × Nat)),
    p { s with cores := c, trust := { s.trust with tests := l } } = p s) : p (s.startTest u loc) = p s := by
  unfold State.startTest
  split
  · rfl
  · dsimp only
    split
    · exact h s _ _
    · exact h s s.cores _

end Test

/-- The entry an error leaves in the log (R337). -/
def errorEntry (e : ErrorEvent) (tsc : DWord) : LogEntry :=
  ⟨tsc, e.addr, e.ctx, errLoc e.unit e.loc, unitCode e.unit, eventClass e, if e.uncorrected then 2#8 else 1#8⟩

/-- The machine once an error is logged, its test running (R336, R337). -/
def State.logged (s : State) (e : ErrorEvent) : State :=
  (s.startTest e.unit e.loc).tick.logError (errorEntry e (s.startTest e.unit e.loc).tick.tsc)

section Detected

variable (s : State) {e : ErrorEvent}

/-- What detection changes besides the structure's test: the time and the log. -/
theorem State.logged_field {β : Type} (p : State → β) (h : ∀ (s : State) c tr t q n,
    p { s with cores := c, trust := tr, tsc := t, tscPause := q, ticks := n } = p s) : p (s.logged e) = p s := by
  refine Eq.trans ?_ (State.startTest_field s e.unit e.loc p fun s c l => h s c _ s.tsc s.tscPause s.ticks)
  exact h (s.startTest e.unit e.loc) _ _ _ _ _

theorem exec_errorDetected : exec (.errorDetected e) s = .next
    (if e.uncorrected then ((s.logged e).poisonAt e.unit e.addr.toNat).consumeError e.consumer else s.logged e) := rfl

theorem exec_errorDetected_corrected (h : e.uncorrected = false) : exec (.errorDetected e) s = .next (s.logged e) := by
  rw [exec_errorDetected, if_neg (ne_true_of_eq_false h)]

theorem exec_errorDetected_uncorrected (h : e.uncorrected = true) : exec (.errorDetected e) s = .next
    (((s.logged e).poisonAt e.unit e.addr.toNat).consumeError e.consumer) := by
  rw [exec_errorDetected, if_pos h]

/-- Poisoning changes the poisoned units alone. -/
theorem State.poisonAt_field {β : Type} (p : State → β) (h : ∀ (s : State) l, p { s with poison := l } = p s) (u : ErrUnit) (pa : Nat) :
    p (s.poisonAt u pa) = p s := by
  unfold State.poisonAt
  split
  · exact h s _
  · rfl

/-- Data of a frame that cannot be read correctly is poisoned. -/
theorem State.poisonAt_frame (pa : Nat) : pa / 128 ∈ (s.poisonAt .hbmFrame pa).poison := by
  unfold State.poisonAt
  cases h : s.poison.contains (pa / 128) with
  | true => simpa using h
  | false => simp

end Detected

/-! ### Retirement (R198, R336) -/

section Retired

variable (s : State)

theorem State.forgetSlot_trust (x : Slice) : (s.forgetSlot x).trust = s.trust := by
  unfold State.forgetSlot; split <;> rfl

theorem State.freeShares_trust (core : Nat) : (s.freeShares core).trust = s.trust := by
  unfold State.freeShares; dsimp only; split <;> rfl

theorem State.closeRegangs_trust : s.closeRegangs.trust = s.trust :=
  foldl_keeps State.trust State.closeRegang (fun t i => State.closeRegang_field State.trust (fun _ _ _ => rfl) (fun _ _ _ => rfl) t i) _ s

/-- The end of a slice changes nothing of the trust die. -/
theorem State.endSlice_trust (a : Nat) : (s.endSlice a).trust = s.trust := by
  unfold State.endSlice
  cases hx : s.slice? a with
  | none => rfl
  | some x =>
    dsimp -zeta only
    extract_lets left ended closed
    have leaves : left.trust = s.trust :=
      ((State.forgetSlot_trust _ x).trans (State.releaseFaults_trust _ a)).trans (State.leaveCrews_field State.trust (fun _ _ _ _ _ _ => rfl) s x)
    have ends : ended.trust = left.trust := rfl
    have closes : closed.trust = s.trust := ((State.freeShares_trust ..).trans (State.closeRegangs_trust ended)).trans (ends.trans leaves)
    split
    · exact (State.flushPoint_field State.trust (fun _ _ _ => rfl) ..).trans closes
    · exact closes

/-- The end of a wave changes nothing of the trust die. -/
theorem State.endWave_trust (n : Word) (e : WaveEnd) : (s.endWave n e).trust = s.trust :=
  foldl_keeps State.trust _ (fun t (x : Slice) => t.endSlice_trust x.sid) _ _

theorem State.endOnCores_trust (on : Nat → Bool) (index : BitVec 16) : (s.endOnCores on index).trust = s.trust := by
  refine foldl_keeps State.trust _ (fun t w => ?_) s.waves s
  split
  · exact State.endWave_trust ..
  · rfl

/-- A retired core has no shares (R198). -/
theorem State.retireCore_core {k : Nat} (hk : k < 192) (index : BitVec 16) : (s.retireCore k index).core k =
    { (s.endOnCores (· == k) index).core k with retired := true, testing := false, shares := [] } :=
  State.core_setCore_same (s.endOnCores (· == k) index) _ hk

theorem State.retireCore_trust (k : Nat) (index : BitVec 16) : (s.retireCore k index).trust = s.trust := State.endOnCores_trust ..

variable {s}

/-- A structure that is not under test has none that ends. -/
theorem exec_selfTestEnd_untested {u : ErrUnit} {loc : Word} (h : ∀ t ∈ s.trust.tests, ¬ (t.1 = u ∧ t.2.1 = loc)) (pass : Bool) :
    exec (.selfTestEnd u loc pass) s = .next s := by
  have none : (s.trust.tests.find? fun t => t.1 == u && t.2.1 == loc) = none :=
    List.find?_eq_none.mpr fun t ht => by simpa using fun hu hl => h t ht ⟨hu, hl⟩
  show execSelfTestEnd u loc pass s = _
  rw [execSelfTestEnd, none]

section One

variable {u : ErrUnit} {loc : Word} {n : Nat} (h : s.trust.tests = [(u, loc, n)])
include h

/-- The one test is found. -/
theorem find?_test : (s.trust.tests.find? fun t => t.1 == u && t.2.1 == loc) = some (u, loc, n) := by simp [h]

/-- Once the one test has ended, none runs. -/
theorem filter_test : (s.trust.tests.filter fun x => x != (u, loc, n)) = [] := by simp [h]

end One

variable (s) in
/-- The machine once its last test has ended. -/
def State.untested : State := { s with trust := { s.trust with tests := [] } }

variable (s) in
/-- The machine once the last test, of a core, has ended: the core issues again (R198). -/
def State.coreTested (k : Nat) : State := s.untested.setCore k { s.core k with testing := false }

variable (s) in
/-- A structure that has failed its test joins the retirement record (R336). -/
def State.failed (u : ErrUnit) (loc : Word) (n : Nat) : State := { s with trust := (s.trust.markLasting u loc n).retire u loc }

theorem exec_selfTestEnd_core {loc : Word} {n : Nat} (h : s.trust.tests = [(.core, loc, n)]) (pass : Bool) :
    exec (.selfTestEnd .core loc pass) s = .next (if pass then s.coreTested loc.toNat else
      ((s.coreTested loc.toNat).failed .core loc n).retireUnit .core loc) := by
  show execSelfTestEnd .core loc pass s = _
  rw [execSelfTestEnd, find?_test h]
  dsimp only
  rw [filter_test h]
  cases pass <;> rfl

theorem exec_selfTestEnd_lane_failed {loc : Word} {n : Nat} (h : s.trust.tests = [(.tuiquelLane, loc, n)]) :
    exec (.selfTestEnd .tuiquelLane loc false) s = .next ((s.untested.failed .tuiquelLane loc n).retireUnit .tuiquelLane loc) := by
  show execSelfTestEnd .tuiquelLane loc false s = _
  rw [execSelfTestEnd, find?_test h]
  dsimp only
  rw [filter_test h]
  rfl

/-- A structure that is no frame joins the retirement record (R336). -/
theorem Trust.retire_retired (t : Trust) {u : ErrUnit} (h : u ≠ .hbmFrame) (loc : Word) :
    t.retire u loc = { t with retired := t.retired ++ [(u, loc)] } :=
  if_neg (by simp [h])

end Retired

/-! ### Frequency (R278, R338, R339) -/

section Frequency

variable (s : State)

/-- A core one step down, not below 2.2 GHz. -/
def CoreRec.slowed (r : CoreRec) : CoreRec := { r with freq := r.freq - if 22 < r.freq then 1 else 0 }

theorem State.slowCore_core (k : Nat) {j : Nat} (hj : j < 192) : (s.slowCore k).core j = if j = k then (s.core k).slowed else s.core j := by
  unfold State.slowCore
  by_cases high : 22 < (s.core k).freq
  · have down : (s.core k).slowed = { s.core k with freq := (s.core k).freq - 1 } := by rw [CoreRec.slowed, if_pos high]
    rw [if_pos high, down, State.shiftFreq, State.core_setCore]
    refine if_congr ⟨And.left, fun e => ⟨e, e ▸ hj⟩⟩ rfl rfl
  · have same : (s.core k).slowed = s.core k := by rw [CoreRec.slowed, if_neg high]; rfl
    rw [if_neg high, same]
    split
    · next e => rw [e]
    · rfl

/-- Each core of a list without repeats goes one step down. -/
theorem State.slowCores_core {l : List Nat} (hl : l.Nodup) {j : Nat} (hj : j < 192) :
    (l.foldl State.slowCore s).core j = if j ∈ l then (s.core j).slowed else s.core j := by
  induction l generalizing s with
  | nil => rfl
  | cons k l ih =>
    obtain ⟨new, hl⟩ := List.nodup_cons.mp hl
    rw [List.foldl_cons, ih (s.slowCore k) hl, State.slowCore_core s k hj]
    by_cases e : j = k
    · subst e
      simp [new]
    · simp [e]

/-- Slowing cores down changes nothing else. -/
theorem State.slowCores_rest (l : List Nat) : ({ l.foldl State.slowCore s with cores := s.cores } : State) = s := by
  refine foldl_keeps (fun t : State => ({ t with cores := s.cores } : State)) State.slowCore (fun t k => ?_) l s
  unfold State.slowCore
  split <;> rfl

/-- A core one step towards 2.7 GHz, at the time of the step. -/
def State.stepped (s : State) (k : Nat) (up : Bool) : State :=
  (s.setCore k { s.core k with decayed := s.tsc }).shiftFreq k up

theorem State.stepped_core {k : Nat} (hk : k < 192) (up : Bool) (j : Nat) : (s.stepped k up).core j = if j = k then
    { s.core k with decayed := s.tsc, freq := if up then (s.core k).freq + 1 else (s.core k).freq - 1 } else s.core j := by
  unfold State.stepped State.shiftFreq
  dsimp only
  rw [State.core_setCore_same _ _ hk, State.setCore_setCore, State.core_setCore]
  simp [hk]

/-- A core without flips in a step of FREQUENCY_DECAY (R278). -/
def State.decay (s : State) (k : Nat) : State :=
  if (s.tick.tsc - (s.core k).decayed).toNat < 100000 then s.tick
  else if (s.core k).freq < 27 then
    if Config.overLimit s.tick.ticks (dieOfCore k) then { s.tick with ticks := s.tick.ticks + 1 } else s.tick.stepped k true
  else if 27 < (s.core k).freq then s.tick.stepped k false
  else s.tick

theorem exec_frequencyDecay {k : Nat} (h : (s.core k).flips = []) : exec (.frequencyDecay k) s = .next (s.decay k) := by
  have core : s.tick.core k = s.core k := rfl
  have flips : ((s.core k).flips.any fun f => f.times.any fun x => decide ((s.tick.tsc - x).toNat < 100000)) = false := by rw [h]; rfl
  show execFrequencyDecay k s = _
  unfold execFrequencyDecay State.decay
  dsimp only
  rw [core, flips, Bool.or_false]
  generalize (s.tick.tsc - (s.core k).decayed).toNat = age
  by_cases recent : age < 100000
  · simp [recent]
  · rcases Nat.lt_trichotomy (s.core k).freq 27 with low | at_ | high
    · have other : ¬ (s.core k).freq = 27 := by omega
      by_cases limit : Config.overLimit s.tick.ticks (dieOfCore k) = true
      · rw [if_neg (by simp [recent, other]), if_pos ⟨low, limit⟩, if_neg recent, if_pos low, if_pos limit]
      · rw [if_neg (by simp [recent, other]), if_neg fun h => limit h.2, if_neg recent, if_pos low, if_neg limit, decide_eq_true low]
        rfl
    · simp [recent, at_]
    · have other : ¬ (s.core k).freq = 27 := by omega
      have above : ¬ (s.core k).freq < 27 := by omega
      rw [if_neg (by simp [recent, other]), if_neg fun h => above h.1, if_neg recent, if_neg above, if_pos high, decide_eq_false above]
      rfl

theorem State.decay_tsc (k : Nat) : (s.decay k).tsc = s.tick.tsc := by
  unfold State.decay
  split_ifs <;> rfl

theorem State.decay_slices (k : Nat) : (s.decay k).slices = s.slices := by
  unfold State.decay
  split_ifs <;> rfl

theorem State.decay_freq {k : Nat} (hk : k < 192) : ((s.decay k).core k).freq =
    if (s.tick.tsc - (s.core k).decayed).toNat < 100000 then (s.core k).freq
    else if (s.core k).freq < 27 then
      if Config.overLimit s.tick.ticks (dieOfCore k) then (s.core k).freq else (s.core k).freq + 1
    else if 27 < (s.core k).freq then (s.core k).freq - 1 else (s.core k).freq := by
  have steps (up : Bool) : ((s.tick.stepped k up).core k).freq = if up then (s.core k).freq + 1 else (s.core k).freq - 1 := by
    rw [State.stepped_core s.tick hk, if_pos rfl]; rfl
  unfold State.decay
  split_ifs
  · rfl
  · rfl
  · exact steps true
  · exact steps false
  · rfl

theorem State.decay_other {k j : Nat} (hk : k < 192) (h : j ≠ k) : (s.decay k).core j = s.core j := by
  have steps (up : Bool) : (s.tick.stepped k up).core j = s.core j := by rw [State.stepped_core s.tick hk, if_neg h]; rfl
  unfold State.decay
  split_ifs
  · rfl
  · rfl
  · exact steps true
  · exact steps false
  · rfl

end Frequency

/-! ### The steps of the obligation -/

/-- A new error of a lane starts its test, and its entry is the newest of the log. -/
theorem errorDetected_lane (s : State) (e : ErrorEvent) (corrected : e.uncorrected = false) (unit : e.unit = .tuiquelLane)
    (new : ∀ t ∈ s.trust.tests, ¬ (t.1 = e.unit ∧ t.2.1 = e.loc)) : ∃ t tsc, exec (.errorDetected e) s = .next t ∧
      t.trust.tests = s.trust.tests ++ [(e.unit, e.loc, s.trust.logged)] ∧
      t.trust.log = ((⟨tsc, e.addr, e.ctx, e.loc, 6#8, 1#8, 1#8⟩ : LogEntry) :: s.trust.log).take 4096 ∧ t.tsc = tsc ∧
      t.trust.logged = s.trust.logged + 1 ∧ s.tsc.toNat ≤ tsc.toNat ∧
      ({ t with trust := s.trust, tsc := s.tsc, tscPause := s.tscPause, ticks := s.ticks } : State) = s := by
  have starts := State.startTest_new (State.underTest_eq_false s e.unit e.loc new) (by rw [unit]; nofun)
  have entry (x : DWord) : errorEntry e x = ⟨x, e.addr, e.ctx, e.loc, 6#8, 1#8, 1#8⟩ := by
    simp [errorEntry, eventClass, errLoc, unitCode, unit, corrected]
  refine ⟨_, s.tick.tsc, exec_errorDetected_corrected s corrected, ?_⟩
  rw [State.logged, starts, entry]
  exact ⟨rfl, rfl, rfl, rfl, s.tick_tsc_le, rfl⟩

/-- The slice that consumed an uncorrected error ends its wave (R197). -/
theorem errorDetected_consumed (s : State) (e : ErrorEvent) {core slot : Nat} {m : Slice} {w : Wave} (uncorrected : e.uncorrected = true)
    (consumer : e.consumer = .registerFile core slot) (here : s.sliceAt core slot = some m) (wave : s.wave? m.wave = some w)
    (runs : w.ended = none) : ∃ t, exec (.errorDetected e) s = .next t ∧ ∃ k, (t.wave? m.wave).bind (·.ended) = some k ∧
      k.stat = endStat 0xE#5 1#8 ∧ k.pc = m.pc ∧ k.core = core := by
  let u := (s.logged e).poisonAt e.unit e.addr.toNat
  have keeps {β : Type} (p : State → β) (h : ∀ (s : State) c tr t q n l,
      p { s with cores := c, trust := tr, tsc := t, tscPause := q, ticks := n, poison := l } = p s) : p u = p s :=
    ((s.logged e).poisonAt_field p (fun s l => h s s.cores s.trust s.tsc s.tscPause s.ticks l) _ _).trans
      (s.logged_field p fun s c tr t q n => h s c tr t q n s.poison)
  have at_ : u.sliceAt core slot = some m := (keeps (·.sliceAt core slot) fun _ _ _ _ _ _ _ => rfl).trans here
  have there : u.wave? m.wave = some w := (keeps (·.wave? m.wave) fun _ _ _ _ _ _ _ => rfl).trans wave
  let k := WaveEnd.hardware 1#8 (u.trust.entryIndex fun _ => true) 0#64 m.pc core
  have ends : u.consumeError e.consumer = u.endWave m.wave k := by
    rw [consumer, State.consumeError]
    dsimp only
    rw [at_]
  have ended := u.endWave_ended m.wave k
  rw [there, Option.map_some, runs] at ended
  refine ⟨_, exec_errorDetected_uncorrected s uncorrected, k, ?_, rfl, rfl, rfl⟩
  rw [ends]
  obtain ⟨v, found, ended⟩ := Option.map_eq_some_iff.mp ended
  rw [found]
  exact ended

/-- A core that fails its test is retired (R198). -/
theorem selfTestEnd_core_failed (s : State) (loc : Word) (n : Nat) (h : s.trust.tests = [(.core, loc, n)]) (hl : loc.toNat < 192) :
    ∃ t, exec (.selfTestEnd .core loc false) s = .next t ∧
      (t.core loc.toNat).retired = true ∧ (t.core loc.toNat).testing = false ∧ (t.core loc.toNat).shares = [] ∧
      (.core, loc) ∈ t.trust.retired ∧ t.trust.tests = [] := by
  let u := (s.coreTested loc.toNat).failed .core loc n
  let t := u.retireCore loc.toNat (u.unitIndex .core loc)
  have core : t.core loc.toNat = { (u.endOnCores (· == loc.toNat) (u.unitIndex .core loc)).core loc.toNat with
    retired := true, testing := false, shares := [] } := u.retireCore_core hl _
  have trust : t.trust = { (s.coreTested loc.toNat).trust.markLasting .core loc n with
    retired := ((s.coreTested loc.toNat).trust.markLasting .core loc n).retired ++ [(.core, loc)] } :=
    (u.retireCore_trust loc.toNat _).trans (Trust.retire_retired _ (u := .core) nofun loc)
  refine ⟨t, exec_selfTestEnd_core h false, ?_⟩
  rw [core, trust]
  exact ⟨rfl, rfl, rfl, List.mem_append_right _ (List.mem_singleton_self _), rfl⟩

/-- A shutdown keeps its log entry (R338). -/
theorem tempShutdown_keeps (s : State) (die : DieId) : ∃ t e, exec (.tempShutdown die) s = .next t ∧ t.trust.power = .shutdown ∧
    t.slices = [] ∧ t.txns = [] ∧ t.trust.log = (e :: s.trust.log).take 4096 := ⟨_, _, rfl, rfl, rfl, rfl, rfl⟩

/-- The cores of a list that a limit slows down (R338, R339). -/
theorem slowCores_step (s : State) {l : List Nat} (hl : l.Nodup) {p : Nat → Prop} [DecidablePred p] (hp : ∀ k < 192, k ∈ l ↔ p k) :
    (∀ k : Fin 192, (l.foldl State.slowCore s).core k.val = { s.core k.val with
      freq := (s.core k.val).freq - if p k.val ∧ 22 < (s.core k.val).freq then 1 else 0 }) ∧
    ({ l.foldl State.slowCore s with cores := s.cores } : State) = s := by
  refine ⟨fun k => ?_, s.slowCores_rest l⟩
  rw [s.slowCores_core hl k.isLt]
  by_cases h : p k.val
  · rw [if_pos ((hp k.val k.isLt).mpr h), CoreRec.slowed]
    simp [h]
  · rw [if_neg fun m => h ((hp k.val k.isLt).mp m)]
    simp [h]

/-- Settles O59, step by step. -/
theorem environmentSteps : Obligations.EnvironmentSteps := by
  refine ⟨errorDetected_lane, fun s e running corrected => ?_, fun s e unit inside corrected idle => ?_,
    fun s e unit uncorrected consumer => ?_, fun s e core slot m w => errorDetected_consumed s e, fun s unit loc pass new => ?_,
    fun s loc n h => exec_selfTestEnd_core h true, selfTestEnd_core_failed, fun s loc n h => ?_, fun s k idle => ?_, fun s d => ?_,
    fun s die other => ?_, fun s => ?_, tempShutdown_keeps, fun _ _ => rfl, fun s w => ⟨fun low high => ?_, fun out => ?_⟩, fun _ _ _ => rfl⟩
  · refine ⟨_, exec_errorDetected_corrected s corrected, ?_⟩
    rw [State.logged, State.startTest_running running]
    exact ⟨rfl, rfl⟩
  · refine ⟨_, exec_errorDetected_corrected s corrected, ?_, s.logged_field State.slices fun _ _ _ _ _ _ => rfl,
      s.logged_field State.waves fun _ _ _ _ _ _ => rfl⟩
    rw [State.logged, unit]
    exact State.startTest_core (by rw [State.underTest, idle]; rfl) inside
  · refine ⟨_, exec_errorDetected_uncorrected s uncorrected, ?_⟩
    rw [consumer, unit]
    exact ⟨(s.logged e).poisonAt_frame _, ((s.logged e).poisonAt_field State.waves (fun _ _ => rfl) _ _).trans
      (s.logged_field State.waves fun _ _ _ _ _ _ => rfl)⟩
  · exact exec_selfTestEnd_untested new pass
  · refine ⟨_, exec_selfTestEnd_lane_failed h, rfl, ?_⟩
    have record := Trust.retire_retired (s.untested.trust.markLasting .tuiquelLane loc n) (u := .tuiquelLane) (by nofun) loc
    show _ ∈ ((s.untested.trust.markLasting .tuiquelLane loc n).retire .tuiquelLane loc).retired
    rw [record]
    exact List.mem_append_right _ (List.mem_singleton_self _)
  · refine ⟨_, exec_frequencyDecay s idle, s.decay_tsc k.val, ?_, fun j => s.decay_other k.isLt, s.decay_slices k.val⟩
    rw [s.decay_tsc]
    exact s.decay_freq k.isLt
  · have onDie (k : Nat) : k ∈ (List.range 48).map (fun i => 48 * d.val + i) ↔ k / 48 = d.val := by
      simp only [List.mem_map, List.mem_range]
      constructor
      · rintro ⟨i, hi, rfl⟩; omega
      · exact fun h => ⟨k % 48, by omega, by omega⟩
    exact ⟨_, rfl, slowCores_step s (List.nodup_range.map fun i j h => Nat.add_left_cancel h) fun k _ => onDie k⟩
  · cases die with
    | compute d => exact absurd rfl (other d)
    | trust => rfl
    | command => rfl
    | base d => rfl
  · obtain ⟨cores, rest⟩ := slowCores_step s (List.nodup_range (n := 192)) (p := fun _ => True) fun k hk => by simp [hk]
    exact ⟨_, rfl, by simpa using cores, rest⟩
  · show execPcapSet w s = _
    rw [execPcapSet, if_pos ⟨low, high⟩]
  · show execPcapSet w s = _
    rw [execPcapSet, if_neg (by omega)]

end Sys2Proof.Machine

namespace Sys2Proof.Machine
open Claims

/-! ## The engines' steps (O48; R194, R235–R243, R299) -/

/-! ### A unit of a command -/

/-- A command once its fields are checked and its index list taken (log 53). -/
def State.begun (s : State) (c : Cmd) : Cmd := { c with checked := true, index := indexList s c }

/-- The machine with the command checked. -/
def State.begin (s : State) (c : Cmd) : State := s.modCmd c.id fun _ => s.begun c

theorem State.indexBytes_eq (s : State) (c : Cmd) : s.indexBytes c =
    if c.kind = .gath ∨ c.kind = .scat then readBytes (s.core c.core).spad (shareOf s c + dIdx c.d) (4 * dLen c.d) else [] := by
  simp [State.indexBytes, CmdKind.gathers, shareOf]

theorem State.begun_of_checked {s : State} {c : Cmd} (h : c.checked = true) : s.begun c = c := by
  have index : indexList s c = c.index := if_pos h
  rw [State.begun, index, ← h]

theorem State.begun_of_unchecked {s : State} {c : Cmd} (h : c.checked = false) :
    s.begun c = { c with checked := true, index := s.indexBytes c } := by
  have index : indexList s c = s.indexBytes c := by rw [indexList, if_neg (by simp [h]), State.indexBytes_eq]
  rw [State.begun, index]

section Step

variable {s t : State} {c : Cmd} {e : Entry}

/-- A command that goes on is not finished. -/
theorem unfinished_of_goes (go : Goes s c) : c.finished = false := by
  have more := go.more
  rcases go.fine with ⟨-, err⟩ | ⟨checked, -⟩
  · simp [Cmd.finished, err, more]
  · simp [Cmd.finished, checked]

/-- An engine that serves a command's entry runs the command. -/
theorem State.runEngine_cmd (cluster : Nat) {engine : BitVec 16} (serves : Serves s engine e) (cmd : s.entryCmd e = some c)
    (unfinished : c.finished = false) : s.runEngine cluster engine = s.runCmd c := by
  obtain ⟨⟨v, serving, entry, stop⟩, free⟩ := serves
  have running : s.running engine = some (v.node, e, s) := by
    simp [State.running, serving, entry, stop]
  simp [State.runEngine, free, running, cmd, unfinished]

theorem exec_copySegment {cluster : Fin 24} (due : s.boardingDue cluster.val = false) (serves : Serves s (engineLeaf cluster.val) e)
    (cmd : s.entryCmd e = some c) (unfinished : c.finished = false) : exec (.copySegment cluster) s = .next (s.runCmd c) := by
  show execCopySegment cluster s = _
  rw [execCopySegment, due, if_neg Bool.false_ne_true, State.runEngine_cmd _ serves cmd unfinished]

theorem exec_gatherBlock {cluster : Fin 24} (serves : Serves s (gatherLeaf cluster.val) e)
    (cmd : s.entryCmd e = some c) (unfinished : c.finished = false) : exec (.gatherBlock cluster) s = .next (s.runCmd c) := by
  show execGatherBlock cluster s = _
  rw [execGatherBlock, State.runEngine_cmd _ serves cmd unfinished]

/-- A command that goes on performs its next unit where nothing holds it. -/
theorem State.runCmd_goes (go : Goes s c) (free : (s.begin c).unitHeld (s.begun c) c.unit = false)
    (unit : (s.begin c).performUnit (s.begun c) c.unit = .ok t) :
    s.runCmd c = t.modCmd c.id fun x => { x with unit := c.unit + 1 } := by
  have more : ¬ (s.begun c).units ≤ c.unit := Nat.not_le.mpr go.more
  have passed : (if c.checked then c.err else s.checkCmd c) = 0#8 := by
    rcases go.fine with ⟨checked, err⟩ | ⟨checked, err⟩ <;> simp [checked, err]
  have taken : (if c.checked then c else { c with checked := true, index := s.indexBytes c }) = s.begun c := by
    cases checked : c.checked with
    | true => exact (State.begun_of_checked checked).symm
    | false => exact (State.begun_of_unchecked checked).symm
  unfold State.runCmd
  simp only [passed, taken]
  have id : (s.begun c).id = c.id := rfl
  have at_ : (s.begun c).unit = c.unit := rfl
  have begin_ : s.modCmd c.id (fun _ => s.begun c) = s.begin c := rfl
  simp only [id, at_, begin_, more, free, unit]
  simp

/-- A command whose descriptor has a bad field ends with ERR 0x01 (R238, R240). -/
theorem State.runCmd_bad (unchecked : c.checked = false) (bad : c.fieldBad = true) :
    s.runCmd c = s.modCmd c.id fun x => { x with checked := true, err := 1#8 } := by
  have err : s.checkCmd c = 1#8 := by rw [State.checkCmd, bad]; rfl
  simp [State.runCmd, unchecked, err]

/-- The commands once the unit is counted. -/
theorem State.begin_counted_cmds (h : t.cmds = (s.begin c).cmds) :
    (t.modCmd c.id fun x => { x with unit := c.unit + 1 }).cmds = unitDone s c := by
  show t.cmds.map _ = _
  rw [h]
  show (s.cmds.map _).map _ = _
  rw [List.map_map]
  refine List.map_congr_left fun x _ => ?_
  by_cases hx : x.id = c.id
  · simp [hx, State.begun]
  · simp [hx]

end Step

/-! ### A scratchpad alone changes -/

/-- The machine with another store for a core's scratchpad. -/
def State.withSpad (s : State) (k : Nat) (m : Mem) : State := s.setCore k { s.core k with spad := m }

section Spad

variable (s : State) {k : Nat}

theorem State.withSpad_self : s.withSpad k (s.core k).spad = s := s.setCore_core k

theorem State.core_withSpad (hk : k < 192) (m : Mem) : (s.withSpad k m).core k = { s.core k with spad := m } := State.core_setCore_same _ _ hk

theorem State.writeSpad_withSpad (hk : k < 192) (m : Mem) (a : Nat) (bs : List Byte) :
    (s.withSpad k m).writeSpad k a bs = s.withSpad k (writeBytes m a bs) := by
  rw [State.writeSpad, State.core_withSpad s hk, State.withSpad, State.withSpad, State.setCore_setCore]

end Spad

section Scratch

variable (s : State) {c : Cmd} (hk : c.core < 192) (m : Mem)
include hk

/-- An engine reads its share of the scratchpad. -/
theorem State.engRead_scratch {a : DWord} (ha : windowOf a = some .scratch) (n : Nat) :
    (s.withSpad c.core m).engRead c a n = .ok (readBytes m (shareOf s c + offsetOf a) n, s.withSpad c.core m) := by
  unfold State.engRead
  rw [ha, State.core_withSpad s hk]
  rfl

/-- An engine writes its share of the scratchpad. -/
theorem State.engWrite_scratch {a : DWord} (ha : windowOf a = some .scratch) (bs : List Byte) :
    (s.withSpad c.core m).engWrite c a bs = .ok (s.withSpad c.core (writeBytes m (shareOf s c + offsetOf a) bs)) := by
  unfold State.engWrite
  rw [ha, State.core_withSpad s hk]
  dsimp only
  rw [State.writeSpad_withSpad s hk]
  rfl

theorem State.readPieces_scratch {ps : List (DWord × Nat)} (h : ∀ p ∈ ps, windowOf p.1 = some .scratch) :
    (s.withSpad c.core m).readPieces c ps =
      .ok (ps.map fun p => readBytes m (shareOf s c + offsetOf p.1) p.2, s.withSpad c.core m) := by
  unfold State.readPieces
  induction ps using List.reverseRecOn with
  | nil => rfl
  | append_singleton ps p ih =>
    rw [List.foldl_append, ih fun q hq => h q (List.mem_append_left _ hq)]
    simp only [List.foldl_cons, List.foldl_nil, State.engRead_scratch s hk m (h p (by simp)) p.2, List.map_append, List.map_cons,
      List.map_nil]

theorem State.writeAll_scratch {ps : List (DWord × List Byte)} (h : ∀ p ∈ ps, windowOf p.1 = some .scratch) :
    (s.withSpad c.core m).writeAll c ps =
      .ok (s.withSpad c.core (ps.foldl (fun x p => writeBytes x (shareOf s c + offsetOf p.1) p.2) m)) := by
  unfold State.writeAll
  induction ps using List.reverseRecOn with
  | nil => rfl
  | append_singleton ps p ih =>
    rw [List.foldl_append, ih fun q hq => h q (List.mem_append_left _ hq), List.foldl_append]
    exact State.engWrite_scratch s hk _ (h p (by simp)) p.2

end Scratch

/-- A unit that has changed the scratchpad of its core alone. -/
theorem moves_of_withSpad {s : State} {c : Cmd} (hk : c.core < 192) (m : Mem) :
    Moves s (((s.begin c).withSpad c.core m).modCmd c.id fun x => { x with unit := c.unit + 1 }) c m := by
  refine ⟨State.core_withSpad (s.begin c) hk m, fun k other => ?_, State.begin_counted_cmds rfl, rfl⟩
  exact (State.core_setCore (s.begin c) c.core _ k).trans (if_neg fun h => other h.1)

/-- A command that goes on and whose next unit changes the scratchpad of its core alone. -/
theorem State.runCmd_moves {s : State} {c : Cmd} (go : Goes s c) (free : (s.begin c).unitHeld (s.begun c) c.unit = false) {m : Mem}
    (unit : (s.begin c).performUnit (s.begun c) c.unit = .ok ((s.begin c).withSpad c.core m)) : Moves s (s.runCmd c) c m := by
  rw [State.runCmd_goes go free unit]
  exact moves_of_withSpad go.place m

/-! ### Segments in the scratchpad -/

/-- A unit whose accesses to the global window are not held goes on, where its amax word is in the scratchpad. -/
theorem State.unitHeld_free {s : State} {c : Cmd} {k : Nat} (h : ∀ p ∈ c.unitRanges k, windowOf p.1 = some .global →
    s.rangeHeld (coreDie c.core) (s.asidOf c.ctx) (offsetOf p.1) p.2.1 p.2.2 = false)
    (ha : c.kind = .cpyam → windowOf (dAux c.d) = some .scratch) : s.unitHeld c k = false := by
  unfold State.unitHeld
  dsimp only
  refine Bool.or_eq_false_iff.mpr ⟨List.any_eq_false.mpr fun p hp => by simpa using h p hp, ?_⟩
  by_cases am : c.kind = .cpyam
  · simp [ha am]
  · simp [am]

/-- A unit waits for no access to the scratchpad. -/
theorem State.unitHeld_scratch {s : State} {c : Cmd} {k : Nat} (h : ∀ p ∈ c.unitRanges k, windowOf p.1 = some .scratch)
    (ha : c.kind = .cpyam → windowOf (dAux c.d) = some .scratch) : s.unitHeld c k = false :=
  State.unitHeld_free (fun p hp glob => nomatch (h p hp).symm.trans glob) ha

/-- The pieces of a segment are the model's. -/
theorem Cmd.segment_eq_pieces (c : Cmd) : c.segment c.unit = pieces c := by
  unfold Cmd.segment pieces
  cases c.kind with
  | cpys =>
    simp only [rowPieces, List.map_filterMap]
    refine List.filterMap_congr fun r _ => ?_
    simp only [Nat.mul_add, Nat.mul_one, max_comm (r * dRowlen c.d), min_comm ((r + 1) * dRowlen c.d)]
    split <;> rfl
  | _ => rfl

section Segment

variable {s : State} {c : Cmd} (hk : c.core < 192)
  (hw : ∀ p ∈ pieces c, windowOf p.1 = some .scratch ∧ windowOf p.2.1 = some .scratch)
include hk hw

/-- A segment within the scratchpad is read whole, then written. -/
theorem State.copySegment_scratch : s.copySegment c c.unit = .ok ((sources (s.core c.core).spad (shareOf s c) (pieces c)).flatten,
    s.withSpad c.core (afterSegment (s.core c.core).spad (shareOf s c) (pieces c))) := by
  let m := (s.core c.core).spad
  have reads := State.readPieces_scratch s hk m (ps := (pieces c).map fun p => (p.1, p.2.2)) fun p hp => by
    obtain ⟨q, hq, rfl⟩ := List.mem_map.mp hp
    exact (hw q hq).1
  have writes := State.writeAll_scratch s hk m (ps := ((pieces c).map fun p => p.2.1).zip (sources m (shareOf s c) (pieces c))) fun p hp => by
    obtain ⟨q, hq, e⟩ := List.mem_map.mp (List.of_mem_zip hp).1
    exact e ▸ (hw q hq).2
  have src : (((pieces c).map fun p => (p.1, p.2.2)).map fun p => readBytes m (shareOf s c + offsetOf p.1) p.2) =
      sources m (shareOf s c) (pieces c) := List.map_map
  rw [State.withSpad_self, src] at reads
  rw [State.withSpad_self, List.zip_map_left, List.foldl_map] at writes
  unfold State.copySegment
  rw [Cmd.segment_eq_pieces, reads]
  dsimp only
  rw [List.zip_map_left, writes]
  rfl

end Segment

theorem amMagnitude_eq (elt x : Nat) : amMagnitude elt x = magnitude elt x := by
  unfold amMagnitude magnitude
  split_ifs <;> rfl

theorem amaxOf_eq (elt : Nat) (bs : List Byte) : amaxOf elt bs = largest elt bs := by
  unfold amaxOf largest
  simp only [List.foldl_map, amMagnitude_eq]
  rfl

section Kinds

variable {s : State} {c : Cmd}

section Copies

variable (hw : ∀ p ∈ pieces c, windowOf p.1 = some .scratch ∧ windowOf p.2.1 = some .scratch)
include hw

/-- The accesses of a segment within the scratchpad. -/
theorem Cmd.unitRanges_pieces (kind : c.kind = .cpy ∨ c.kind = .cpys ∨ c.kind = .cpyam) :
    ∀ p ∈ c.unitRanges c.unit, windowOf p.1 = some .scratch := by
  have ranges : c.unitRanges c.unit = (pieces c).flatMap fun p => [(p.1, p.2.2, .r), (p.2.1, p.2.2, .w)] := by
    rw [← Cmd.segment_eq_pieces]
    rcases kind with h | h | h <;> rw [Cmd.unitRanges, h]
  intro p hp
  rw [ranges] at hp
  obtain ⟨q, hq, mem⟩ := List.mem_flatMap.mp hp
  obtain rfl | rfl : p = _ ∨ p = _ := by simpa using mem
  · exact (hw q hq).1
  · exact (hw q hq).2

variable (go : Goes s c)
include go

/-- A segment of CPY or CPYS within the scratchpad (R241). -/
theorem State.runCmd_copy (kind : c.kind = .cpy ∨ c.kind = .cpys) :
    Moves s (s.runCmd c) c (afterSegment (s.core c.core).spad (shareOf s c) (pieces c)) := by
  have ranges := Cmd.unitRanges_pieces (c := s.begun c) hw (kind.imp_right .inl)
  refine State.runCmd_moves go (State.unitHeld_scratch ranges fun am => ?_) ?_
  · have : c.kind = .cpyam := am
    rcases kind with h | h <;> cases h.symm.trans this
  · have copy := State.copySegment_scratch (s := s.begin c) (c := s.begun c) go.place hw
    have unit : (s.begin c).performUnit (s.begun c) c.unit = ((s.begin c).copySegment (s.begun c) c.unit).map (·.2) := by
      have same : (s.begun c).kind = c.kind := rfl
      rcases kind with h | h <;> rw [State.performUnit, same, h]
    rw [unit]
    exact congrArg (Except.map (·.2)) copy

/-- A segment of CPYAM within the scratchpad (R241). -/
theorem State.runCmd_copyMax (kind : c.kind = .cpyam) (ha : windowOf (dAux c.d) = some .scratch) :
    let core := s.core c.core
    let m := afterSegment core.spad (shareOf s c) (pieces c)
    let a := shareOf s c + offsetOf (dAux c.d)
    let x := largest (ctlElt (dCtl c.d)) (sources core.spad (shareOf s c) (pieces c)).flatten
    Moves s (s.runCmd c) c (writeBytes m a (toBytes 4 (max x (readLE m a 4)))) := by
  intro core m a x
  have ranges := Cmd.unitRanges_pieces (c := s.begun c) hw (.inr (.inr kind))
  refine State.runCmd_moves go (State.unitHeld_scratch ranges fun _ => ha) ?_
  have copy : (s.begin c).copySegment (s.begun c) c.unit = .ok (_, (s.begin c).withSpad c.core m) :=
    State.copySegment_scratch (s := s.begin c) (c := s.begun c) go.place hw
  have fold : ((s.begin c).withSpad c.core m).foldAmax (s.begun c) x =
      .ok ((s.begin c).withSpad c.core (writeBytes m a (toBytes 4 (max x (readLE m a 4))))) := by
    have aux : windowOf (dAux (s.begun c).d) = some .scratch := ha
    have core_ := State.core_withSpad (s.begin c) go.place m
    unfold State.foldAmax
    dsimp only
    rw [aux]
    dsimp only
    show Except.ok (State.writeSpad _ c.core _ _) = _
    rw [State.writeSpad_withSpad _ go.place]
    simp only [State.begun, core_]
    rfl
  have same : (s.begun c).kind = c.kind := rfl
  rw [State.performUnit, same, kind]
  dsimp only
  rw [copy]
  dsimp only
  rw [amaxOf_eq]
  exact fold

end Copies

/-! ### CBDC -/

theorem cbdcBytes_eq {c : Cmd} (h : ctlFmt (dCtl c.d) ≠ 3) : cbdcBytes (ctlFmt (dCtl c.d)) = fmtWidth (cbdcFmt c) := by
  have small : ctlFmt (dCtl c.d) < 4 := ((dCtl c.d).extractLsb' 26 2).isLt
  unfold cbdcBytes cbdcFmt
  generalize ctlFmt (dCtl c.d) = f at h small ⊢
  interval_cases f
  · rfl
  · rfl
  · rfl
  · exact absurd rfl h

/-- A segment of CBDC within the scratchpad. -/
theorem State.cbdcSegment_scratch (s : State) {c : Cmd} (hk : c.core < 192) (fmt : ctlFmt (dCtl c.d) ≠ 3) :
    let z := fmtWidth (cbdcFmt c)
    let i := 4096 / z * c.unit
    let n := min (4096 / z) (dLen c.d - i)
    let idx := dSrc c.d + BitVec.ofNat 64 (2 * i)
    let scl := dAux c.d + BitVec.ofNat 64 (i / 4)
    let dst := dDst c.d + BitVec.ofNat 64 (i * z)
    let m := (s.core c.core).spad
    let bs := cbdcBytesOf s c (cbdcFmt c) n (readBytes m (shareOf s c + offsetOf idx) (2 * n))
      (readBytes m (shareOf s c + offsetOf scl) ((n + 3) / 4))
    windowOf idx = some .scratch → windowOf scl = some .scratch → windowOf dst = some .scratch →
    s.cbdcSegment c c.unit = .ok (bs, s.withSpad c.core (writeBytes m (shareOf s c + offsetOf dst) bs)) := by
  intro z i n idx scl dst m bs hi hs hd
  have width := cbdcBytes_eq fmt
  have span : c.cbdcSpan c.unit = (i, n) := by rw [Cmd.cbdcSpan, width]
  have reads : s.readPieces c (c.cbdcReads c.unit) =
      .ok ([readBytes m (shareOf s c + offsetOf idx) (2 * n), readBytes m (shareOf s c + offsetOf scl) ((n + 3) / 4)], s) := by
    have at_ := State.readPieces_scratch s hk m (ps := [(idx, 2 * n), (scl, (n + 3) / 4)]) (by simp [hi, hs])
    rw [State.withSpad_self] at at_
    rw [Cmd.cbdcReads, span]
    exact at_
  have write := State.engWrite_scratch s hk m hd bs
  rw [State.withSpad_self] at write
  unfold State.cbdcSegment
  rw [reads, span]
  dsimp only
  rw [width]
  show (match s.engWrite c dst bs with
    | .error e => Except.error e
    | .ok u => Except.ok (bs, u)) = _
  rw [write]

/-- A segment of CBDC within the scratchpad (R131, R241). -/
theorem State.runCmd_cbdc (go : Goes s c) (kind : c.kind = .cbdc) (fmt : ctlFmt (dCtl c.d) ≠ 3) :
    let z := fmtWidth (cbdcFmt c)
    let i := 4096 / z * c.unit
    let n := min (4096 / z) (dLen c.d - i)
    let idx := dSrc c.d + BitVec.ofNat 64 (2 * i)
    let scl := dAux c.d + BitVec.ofNat 64 (i / 4)
    let dst := dDst c.d + BitVec.ofNat 64 (i * z)
    let m := (s.core c.core).spad
    windowOf idx = some .scratch → windowOf scl = some .scratch → windowOf dst = some .scratch →
    Moves s (s.runCmd c) c (writeBytes m (shareOf s c + offsetOf dst) (cbdcBytesOf s c (cbdcFmt c) n
      (readBytes m (shareOf s c + offsetOf idx) (2 * n)) (readBytes m (shareOf s c + offsetOf scl) ((n + 3) / 4)))) := by
  intro z i n idx scl dst m hi hs hd
  have same : (s.begun c).kind = c.kind := rfl
  have reads : (s.begun c).unitRanges c.unit = [(idx, 2 * n, .r), (scl, (n + 3) / 4, .r)] := by
    have span : c.cbdcSpan c.unit = (i, n) := by rw [Cmd.cbdcSpan, cbdcBytes_eq fmt]
    rw [Cmd.unitRanges, same, kind]
    show (c.cbdcReads c.unit).map _ = _
    rw [Cmd.cbdcReads, span]
    rfl
  refine State.runCmd_moves go (State.unitHeld_scratch (fun p hp => ?_) fun am => nomatch kind.symm.trans am) ?_
  · rw [reads] at hp
    obtain rfl | rfl : p = _ ∨ p = _ := by simpa using hp
    · exact hi
    · exact hs
  · have segment := State.cbdcSegment_scratch (s.begin c) (c := s.begun c) go.place fmt hi hs hd
    rw [State.performUnit, same, kind]
    exact congrArg (Except.map (·.2)) segment

/-! ### SHLD -/

/-- SHLD loads its table in its one unit (R243). -/
theorem State.runCmd_shld (go : Goes s c) {tbl : Fin 8} (kind : c.kind = .shld tbl) : s.runCmd c =
    ((s.begin c).loadShell c tbl).modCmd c.id fun x => { x with unit := c.unit + 1 } := by
  have same : (s.begun c).kind = c.kind := rfl
  refine State.runCmd_goes go (State.unitHeld_scratch (fun p hp => ?_) fun am => nomatch kind.symm.trans am) ?_
  · rw [Cmd.unitRanges, same, kind] at hp
    cases hp
  · rw [State.performUnit, same, kind]
    rfl

/-! ### GATH and SCAT -/

/-- The rows of a block that have an index, as the model finds them: source and destination. -/
def Cmd.namedRows (c : Cmd) (k : Nat) : List (DWord × DWord) :=
  ((c.blockRows k).filter (·.2 != 0xFFFFFFFF#32)).map fun p => c.rowEnds p.1 p.2

theorem Cmd.blockRows_eq (c : Cmd) (k : Nat) : c.blockRows k =
    (List.range (min 64 (dLen c.d - 64 * k))).map fun i => (64 * k + i, fieldOf c.index (4 * (64 * k + i)) 4 32) := by
  refine List.ext_getElem (by simp [Cmd.blockRows, indexWords]) fun i _ _ => ?_
  simp [Cmd.blockRows, indexWords]

theorem namedRows_begun (s : State) (c : Cmd) : (s.begun c).namedRows c.unit = blockRows s c := by
  rw [Cmd.namedRows, ← List.filterMap_eq_map, List.filterMap_filter, Cmd.blockRows_eq, List.filterMap_map, blockRows]
  refine List.filterMap_congr fun i _ => ?_
  by_cases none_ : (fieldOf (indexList s c) (4 * (64 * c.unit + i)) 4 32 : Word) = 0xFFFFFFFF#32
  · simp [none_, State.begun]
  · by_cases kind : c.kind = .gath <;> simp [none_, Cmd.rowEnds, rowAddr, State.begun, Cmd.d, kind]

/-- A scratchpad after a row is moved within it. -/
def rowMoved (base z : Nat) (m : Mem) (p : DWord × DWord) : Mem :=
  writeBytes m (base + offsetOf p.2) (readBytes m (base + offsetOf p.1) z)

section Gather

variable (hk : c.core < 192)
include hk

/-- A row that has an index moves. -/
theorem State.moveRow_scratch (m : Mem) {n : Nat} {j : Word} (named : j ≠ 0xFFFFFFFF#32)
    (hw : windowOf (c.rowEnds n j).1 = some .scratch ∧ windowOf (c.rowEnds n j).2 = some .scratch) :
    (s.withSpad c.core m).moveRow c n j = .ok (s.withSpad c.core (rowMoved (shareOf s c) (dRowsz c.d) m (c.rowEnds n j))) := by
  rw [State.moveRow, if_neg named, State.engRead_scratch s hk m hw.1]
  exact State.engWrite_scratch s hk m hw.2 _

/-- A block within the scratchpad moves its rows in turn. -/
theorem State.gatherBlock_scratch {k : Nat} (hw : ∀ p ∈ c.namedRows k, windowOf p.1 = some .scratch ∧ windowOf p.2 = some .scratch) :
    s.gatherBlock c k =
      .ok (s.withSpad c.core ((c.namedRows k).foldl (rowMoved (shareOf s c) (dRowsz c.d)) (s.core c.core).spad)) := by
  unfold State.gatherBlock
  unfold Cmd.namedRows at hw ⊢
  generalize c.blockRows k = l at hw ⊢
  induction l using List.reverseRecOn with
  | nil => exact congrArg Except.ok s.withSpad_self.symm
  | append_singleton l p ih =>
    rw [List.filter_append, List.map_append] at hw ⊢
    rw [List.foldl_append, List.foldl_append, ih fun q hq => hw q (List.mem_append_left _ hq)]
    by_cases named : p.2 = 0xFFFFFFFF#32
    · simp [named, State.moveRow]
    · have ends := hw (c.rowEnds p.1 p.2) (by simp [named])
      simp [named, State.moveRow_scratch hk _ named ends]

end Gather

/-- A block of GATH or SCAT within the scratchpad (R241). -/
theorem State.runCmd_gather (go : Goes s c) (kind : c.kind = .gath ∨ c.kind = .scat)
    (hw : ∀ p ∈ blockRows s c, windowOf p.1 = some .scratch ∧ windowOf p.2 = some .scratch) :
    Moves s (s.runCmd c) c ((blockRows s c).foldl (rowMoved (shareOf s c) (dRowsz c.d)) (s.core c.core).spad) := by
  rw [← namedRows_begun] at hw ⊢
  have same : (s.begun c).kind = c.kind := rfl
  have ranges : (s.begun c).unitRanges c.unit = ((s.begun c).namedRows c.unit).flatMap fun p =>
      [(p.1, dRowsz c.d, .r), (p.2, dRowsz c.d, .w)] := by
    rw [Cmd.namedRows, List.flatMap_map]
    rcases kind with h | h <;> rw [Cmd.unitRanges, same, h] <;> rfl
  refine State.runCmd_moves go (State.unitHeld_scratch (fun p hp => ?_) fun am => ?_) ?_
  · rw [ranges] at hp
    obtain ⟨q, hq, mem⟩ := List.mem_flatMap.mp hp
    obtain rfl | rfl : p = _ ∨ p = _ := by simpa using mem
    · exact (hw q hq).1
    · exact (hw q hq).2
  · rcases kind with h | h <;> exact nomatch h.symm.trans am
  · have block := State.gatherBlock_scratch (s := s.begin c) (c := s.begun c) go.place hw
    rcases kind with h | h <;> rw [State.performUnit, same, h] <;> exact block

end Kinds

/-! ### A segment of CPY in one cached line of the global window -/

theorem lineChunks_line {va n : Nat} (pos : 0 < n) (line : va / 128 = (va + n - 1) / 128) : lineChunks (n + 1) va n = [(va, n)] := by
  have whole : min n (128 - va % 128) = n := by omega
  rw [lineChunks, if_neg pos.ne']
  dsimp only
  rw [whole, Nat.sub_self]
  cases n with
  | zero => rfl
  | succ n => rfl

/-- The bytes a die reads depend on the locations, the writes on their way and the lines' data. -/
theorem Recopied.viewBytes {s t : State} (h : Recopied s t) (die : Fin 5) (asid : BitVec 16) (va n : Nat) :
    t.viewBytes die asid va n = s.viewBytes die asid va n := by
  have writes : t.writes = s.writes := (congrArg State.writes h.uncached :)
  simp only [State.viewBytes, State.viewByte, h.tagOf, writes, h.cdata]

theorem State.noteBytes_eq (s : State) (sids : List Nat) (die : Fin 5) (asid : BitVec 16) (va n : Nat) :
    ∃ w, s.noteBytes sids die asid va n = { s with writes := w } := by
  unfold State.noteBytes
  split
  · exact ⟨_, rfl⟩
  · exact ⟨_, rfl⟩

/-- A segment of one piece. -/
theorem State.copySegment_one {s t u : State} {c : Cmd} {a b : DWord} {n : Nat} {bs : List Byte} (piece : pieces c = [(a, b, n)])
    (read : s.engRead c a n = .ok (bs, t)) (write : t.engWrite c b bs = .ok u) : s.copySegment c c.unit = .ok (bs, u) := by
  rw [State.copySegment, Cmd.segment_eq_pieces, piece]
  simp [State.readPieces, State.writeAll, read, write]

section Line

variable {s : State} {die : Fin 5} {asid : BitVec 16} {va n : Nat} {acc : Acc} (pos : 0 < n) (line : va / 128 = (va + n - 1) / 128)
  (granted : s.granted (viaDie die) asid va acc = true) (hit : (s.hit? (viaDie die) asid va).isSome = true)

include granted in
/-- A granted access that hits moves copies of lines alone. -/
theorem State.tryGrant_hit (hit : (s.hit? (viaDie die) asid va).isSome = true) :
    ∃ t, s.tryGrant (viaDie die) asid va acc = some t ∧ Recopied s t := by
  have again := (congrArg Option.isSome (State.hit?_congr (s.countL2_lines (viaDie die) asid) :
    (s.countL2 (viaDie die) asid).hit? (viaDie die) asid va = _)).trans hit
  exact ⟨_, by rw [State.tryGrant, if_pos granted], (Recopied.countL2 s (viaDie die) asid).trans (State.fillLine_hit again).1⟩

include pos line granted

theorem State.rangeHeld_granted : s.rangeHeld die asid va n acc = false := by
  simp [State.rangeHeld, lineChunks_line pos line, granted]

theorem State.rangeFault_granted : s.rangeFault die asid va n acc = none := by
  simp [State.rangeFault, lineChunks_line pos line, granted]

end Line

section Global

variable {s : State} {c : Cmd} {a : DWord} {n : Nat} (clean : s.poison = []) (pos : 0 < n)
  (line : offsetOf a / 128 = (offsetOf a + n - 1) / 128) (ha : windowOf a = some .global)
include clean pos line ha

/-- An engine reads what its die shows; the writes on their way may remember it, and copies of lines move. -/
theorem State.engRead_line (granted : s.granted (viaDie (coreDie c.core)) (s.asidOf c.ctx) (offsetOf a) .r = true)
    (hit : (s.hit? (viaDie (coreDie c.core)) (s.asidOf c.ctx) (offsetOf a)).isSome = true) :
    ∃ t w, Recopied s t ∧
      s.engRead c a n = .ok (s.viewBytes (coreDie c.core) (s.asidOf c.ctx) (offsetOf a) n, { t with writes := w }) := by
  obtain ⟨t, grant, same⟩ := State.tryGrant_hit granted hit
  have sound : s.poisoned (s.asidOf c.ctx) (offsetOf a) n = false := by simp [State.poisoned, clean]
  have read : s.readErr (coreDie c.core) c.ctx (offsetOf a) n =
      .ok (s.viewBytes (coreDie c.core) (s.asidOf c.ctx) (offsetOf a) n, t) := by
    simp [State.readErr, State.gRead, State.grantRange, lineChunks_line pos line, grant, sound, same.viewBytes]
  obtain ⟨w, note⟩ := t.noteBytes_eq [c.sid] (coreDie c.core) (s.asidOf c.ctx) (offsetOf a) n
  cases task : c.task.isSome with
  | true =>
    refine ⟨t, t.writes, same, ?_⟩
    simp [State.engRead, ha, read, task]
  | false =>
    refine ⟨t, w, same, ?_⟩
    simp [State.engRead, ha, read, task, note]

/-- An engine's write to a line is a write of its die. -/
theorem State.engWrite_line (granted : s.granted (viaDie (coreDie c.core)) (s.asidOf c.ctx) (offsetOf a) .w = true)
    (hit : (s.hit? (viaDie (coreDie c.core)) (s.asidOf c.ctx) (offsetOf a)).isSome = true) {bs : List Byte} (len : bs.length = n) :
    ∃ v, Recopied s v ∧ s.engWrite c a bs = .ok (v.dieWrite [c.id] [] (coreDie c.core) (s.asidOf c.ctx) (offsetOf a) bs) := by
  obtain ⟨v, grant, same⟩ := State.tryGrant_hit granted hit
  subst len
  have sound : s.poisoned (s.asidOf c.ctx) (offsetOf a) bs.length = false := by simp [State.poisoned, clean]
  refine ⟨v, same, ?_⟩
  simp [State.engWrite, ha, State.rangeFault_granted pos line granted, sound, State.writePieces, lineChunks_line pos line, grant]

end Global

section Copy

variable {s : State} {c : Cmd} (go : Goes s c) (kind : c.kind = .cpy)
include kind

theorem pieces_cpy : pieces c = [(dSrc c.d + BitVec.ofNat 64 (4096 * c.unit), dDst c.d + BitVec.ofNat 64 (4096 * c.unit),
    min 4096 (dLen c.d - 4096 * c.unit))] := by
  rw [pieces, kind]

theorem unitRanges_cpy {a b : DWord} {n : Nat} (piece : pieces c = [(a, b, n)]) : c.unitRanges c.unit = [(a, n, .r), (b, n, .w)] := by
  rw [Cmd.unitRanges, kind]
  dsimp only
  rw [Cmd.segment_eq_pieces, piece]
  rfl

include go

/-- A segment to be copied has a byte. -/
theorem segment_pos_of_goes : 0 < min 4096 (dLen c.d - 4096 * c.unit) := by
  have more : c.unit < (dLen c.d + 4095) / 4096 := by
    have := go.more
    rwa [Cmd.units, kind] at this
  omega

variable {a b : DWord} {n : Nat} (piece : pieces c = [(a, b, n)])
include piece

/-- The step of a CPY whose segment copies, no access to the global window held. -/
theorem State.runCmd_cpy {t : State} {bs : List Byte} (copy : (s.begin c).copySegment (s.begun c) c.unit = .ok (bs, t))
    (source : windowOf a = some .global → s.rangeHeld (coreDie c.core) (s.asidOf c.ctx) (offsetOf a) n .r = false)
    (dest : windowOf b = some .global → s.rangeHeld (coreDie c.core) (s.asidOf c.ctx) (offsetOf b) n .w = false) :
    s.runCmd c = t.modCmd c.id fun x => { x with unit := c.unit + 1 } := by
  have same : (s.begun c).kind = c.kind := rfl
  refine State.runCmd_goes go (State.unitHeld_free (fun p hp => ?_) fun am => nomatch kind.symm.trans am) ?_
  · have ranges : (s.begun c).unitRanges c.unit = _ := unitRanges_cpy (c := s.begun c) kind piece
    rw [ranges] at hp
    obtain rfl | rfl : p = _ ∨ p = _ := by simpa using hp
    · exact source
    · exact dest
  · rw [State.performUnit, same, kind]
    dsimp only
    rw [copy]
    rfl

variable (clean : s.poison = []) (pos : 0 < n)
include clean pos

/-- A segment of CPY from one cached line of the global window into the scratchpad (R241). -/
theorem State.runCmd_load (ha : windowOf a = some .global) (hb : windowOf b = some .scratch)
    (line : offsetOf a / 128 = (offsetOf a + n - 1) / 128)
    (granted : s.granted (viaDie (coreDie c.core)) (s.asidOf c.ctx) (offsetOf a) .r = true)
    (hit : (s.hit? (viaDie (coreDie c.core)) (s.asidOf c.ctx) (offsetOf a)).isSome = true) :
    ∃ t w, Recopied (s.begin c) t ∧ s.runCmd c = (State.withSpad { t with writes := w } c.core (writeBytes (s.core c.core).spad
      (shareOf s c + offsetOf b) (s.viewBytes (coreDie c.core) (s.asidOf c.ctx) (offsetOf a) n))).modCmd c.id
        fun x => { x with unit := c.unit + 1 } := by
  obtain ⟨t, w, same, read⟩ := State.engRead_line (s := s.begin c) (c := s.begun c) clean pos line ha granted hit
  let u : State := { t with writes := w }
  have cores : u.cores = s.cores := (congrArg State.cores same.uncached :)
  have core := State.core_congr cores c.core
  have share : shareOf u (s.begun c) = shareOf s c := congrArg (fun r : CoreRec => (r.share c.wave).spad) core
  have self : u.withSpad c.core (s.core c.core).spad = u := core ▸ State.withSpad_self u
  have write := State.engWrite_scratch u (c := s.begun c) go.place (s.core c.core).spad hb
    (s.viewBytes (coreDie c.core) (s.asidOf c.ctx) (offsetOf a) n)
  rw [share] at write
  have copy := State.copySegment_one (c := s.begun c) piece read ((congrArg (State.engWrite · (s.begun c) b _) self.symm).trans write)
  exact ⟨t, w, same, State.runCmd_cpy go kind piece copy (fun _ => State.rangeHeld_granted pos line granted)
    fun glob => nomatch hb.symm.trans glob⟩

/-- A segment of CPY from the scratchpad into one cached line of the global window (R241). -/
theorem State.runCmd_store (ha : windowOf a = some .scratch) (hb : windowOf b = some .global)
    (line : offsetOf b / 128 = (offsetOf b + n - 1) / 128)
    (granted : s.granted (viaDie (coreDie c.core)) (s.asidOf c.ctx) (offsetOf b) .w = true)
    (hit : (s.hit? (viaDie (coreDie c.core)) (s.asidOf c.ctx) (offsetOf b)).isSome = true) :
    ∃ v, Recopied (s.begin c) v ∧ s.runCmd c = (v.dieWrite [c.id] [] (coreDie c.core) (s.asidOf c.ctx) (offsetOf b)
      (readBytes (s.core c.core).spad (shareOf s c + offsetOf a) n)).modCmd c.id fun x => { x with unit := c.unit + 1 } := by
  have read := State.engRead_scratch (s.begin c) (c := s.begun c) go.place (s.core c.core).spad ha n
  have self : (s.begin c).withSpad (s.begun c).core (s.core c.core).spad = s.begin c := (s.begin c).withSpad_self
  rw [self] at read
  obtain ⟨v, same, write⟩ := State.engWrite_line (s := s.begin c) (c := s.begun c) clean pos line hb granted hit (readBytes_length ..)
  have copy := State.copySegment_one (c := s.begun c) piece read write
  exact ⟨v, same, State.runCmd_cpy go kind piece copy (fun glob => nomatch ha.symm.trans glob) fun _ =>
    State.rangeHeld_granted pos line granted⟩

end Copy

end Sys2Proof.Machine

namespace Sys2Proof.Machine
open Claims

/-! ## A command completes (O48; R194, R238, R239, R299) -/

/-! ### The token -/

/-- The machine a completed command is withdrawn from: its entry, the pages it faulted on first, and itself. -/
def State.withdrawn (s : State) (c : Cmd) : State :=
  { (s.retireEntry c).releaseFaults c.id with cmds := s.cmds.filter fun x => x.id != c.id }

/-- Whether a completed command arrives at its barrier word (R238). -/
def State.arrives (s : State) (c : Cmd) : Bool :=
  (match c.kind with
   | .shld _ => false
   | _ => ctlBen (dCtl c.d)) && !s.boffBad c

/-- The machine once a completed command has arrived at its barrier word, if it has one (R194). -/
def State.signalled (s : State) (c : Cmd) : State :=
  if s.arrives c then s.arrive c.core (shareOf s c + ctlBoff (dCtl c.d)) else s

section Complete

variable {s : State} {c : Cmd}

theorem State.completeCmd_task {id : Nat} (h : c.task = some id) :
    s.completeCmd c = (s.withdrawn c).modTask id fun t => { t with phase := .ending (doneWord c.err c.unit) } := by
  unfold State.completeCmd
  simp only [h]
  rfl

theorem State.completeCmd_slice (h : c.task = none) :
    s.completeCmd c = (((s.withdrawn c).fillToken c).signalled c).freeShares c.core := by
  unfold State.completeCmd
  simp only [h]
  rfl

/-- The step of a command that may complete. -/
theorem exec_copyComplete (found : s.cmds.find? (fun x => x.id == c.id) = some c) (finished : c.finished = true)
    (resident : s.isSaved c.core c.wave = false)
    (shown : ∀ w ∈ s.writes, c.id ∈ w.by_ → w.applied.getLsbD (coreDie c.core).val = true) :
    exec (.copyComplete c.id) s = .next (s.completeCmd c) := by
  have visible : s.writesShown c = true := by
    refine List.all_eq_true.mpr fun w hw => ?_
    by_cases own : c.id ∈ w.by_
    · simp [shown w hw own]
    · simp [own]
  show execCopyComplete c.id s = _
  simp [execCopyComplete, found, finished, resident, visible]

end Complete

/-- A slice whose scalar register takes a word. -/
def Slice.filled (n : Fin 64) (w : Word) (x : Slice) : Slice := { x with s := x.s.set n ⟨w, true, false⟩ }

/-- A slice whose scalar register takes the check mark (R239). -/
def Slice.marked (n : Fin 64) (x : Slice) : Slice := { x with s := x.s.set n { x.s.get n with mark := true } }

/-- A slice whose token holds the status word of a command, marked where the command is to check (R238, R239). -/
def Slice.tokened (n : Fin 64) (c : Cmd) (x : Slice) : Slice := { x with s := x.s.set n ⟨doneWord c.err c.unit, true, c.chk⟩ }

theorem Slice.tokened_unmarked {n : Fin 64} {c : Cmd} (h : c.chk = false) : Slice.tokened n c = Slice.filled n (doneWord c.err c.unit) := by
  unfold Slice.tokened Slice.filled
  rw [h]

theorem Slice.tokened_marked {n : Fin 64} {c : Cmd} (h : c.chk = true) :
    Slice.tokened n c = Slice.marked n ∘ Slice.filled n (doneWord c.err c.unit) := by
  funext x
  simp [Slice.tokened, Slice.marked, Slice.filled, h, get_set]

/-- Two changes of one slice are one. -/
theorem State.modSlice_modSlice (s : State) (a : Nat) {f : Slice → Slice} (hf : ∀ x, (f x).sid = x.sid) (g : Slice → Slice) :
    (s.modSlice a f).modSlice a g = s.modSlice a (g ∘ f) := by
  unfold State.modSlice
  dsimp only
  rw [List.map_map]
  refine congrArg (fun l : List Slice => { s with slices := l }) (List.map_congr_left fun x _ => ?_)
  by_cases hx : x.sid = a <;> simp [hx, hf]

/-- The token of a command in a scalar register is filled. -/
theorem State.fillToken_scalar (s : State) {c : Cmd} {t : Txn} {p : Part} {n : Fin 64}
    (found : s.txns.find? (fun t => t.id == c.txn && t.kind == .token c.id) = some t) (part : t.parts = [p]) (dst : p.dst = [.s n]) :
    s.fillToken c = { (s.modSlice p.sid (Slice.tokened n c)).dropTxn t.id with tokens := s.tokens ++ [(p.sid, .s n, c.id)] } := by
  have fill : s.fillWord p (doneWord c.err c.unit) = s.modSlice p.sid (Slice.filled n (doneWord c.err c.unit)) :=
    congrArg (s.modSlice p.sid) (funext fun x => x.fillPart_scalar dst ..)
  unfold State.fillToken
  rw [found]
  dsimp only
  simp only [part, dst, List.foldl_cons, List.foldl_nil, fill, List.flatMap_singleton, List.map_cons, List.map_nil]
  cases chk : c.chk with
  | false =>
    rw [Slice.tokened_unmarked chk]
    simp only [Bool.false_eq_true, if_false]
    rfl
  | true =>
    rw [Slice.tokened_marked chk, ← State.modSlice_modSlice _ _ (f := Slice.filled n _) fun _ => rfl]
    simp only [if_true]
    rfl

/-! ### The arrival, and the shares that become free -/

section Signal

variable (s : State) (c : Cmd)

theorem State.signalled_field {β : Type} (p : State → β)
    (h : ∀ (s : State) g k c n, p { s with gangs := g, parks := k, cores := c, nextId := n } = p s) : p (s.signalled c) = p s := by
  unfold State.signalled
  split
  · exact State.arrive_field p h s _ _
  · rfl

theorem State.signalled_silent (h : ctlBen (dCtl c.d) = false) : s.signalled c = s := by
  have silent : s.arrives c = false := by
    unfold State.arrives
    split
    · rfl
    · rw [h]; rfl
  rw [State.signalled, if_neg (by simp [silent])]

/-- A CPY that asks for it arrives, its word within the share (R238). -/
theorem State.signalled_cpy (kind : c.kind = .cpy) (h : ctlBen (dCtl c.d) = true) (within : s.boffBad c = false) :
    s.signalled c = s.arrive c.core (shareOf s c + ctlBoff (dCtl c.d)) := by
  have arrives : s.arrives c = true := by
    unfold State.arrives
    rw [kind, within]
    dsimp only
    rw [h]; rfl
  rw [State.signalled, if_pos arrives]

theorem State.freeShares_field {β : Type} (p : State → β) (h : ∀ (s : State) c, p { s with cores := c } = p s) (k : Nat) :
    p (s.freeShares k) = p s := by
  unfold State.freeShares
  dsimp only
  split
  · rfl
  · exact h s _

/-- The freeing of shares changes no byte of a scratchpad. -/
theorem State.freeShares_spad (k j : Nat) : ((s.freeShares k).core j).spad = (s.core j).spad := by
  unfold State.freeShares
  dsimp only
  split
  · rfl
  · rw [State.core_setCore]
    split
    · next h => rw [h.1]
    · rfl

end Signal

/-! ### The completion of a slice's command -/

/-- The machine once the token of a withdrawn command is filled. -/
def State.acknowledged (s : State) (c : Cmd) (t : Txn) (p : Part) (n : Fin 64) : State :=
  { ((s.withdrawn c).modSlice p.sid (Slice.tokened n c)).dropTxn t.id with tokens := s.tokens ++ [(p.sid, .s n, c.id)] }

section Slice

variable {s : State} {c : Cmd} {t : Txn} {p : Part} {n : Fin 64}

theorem State.completeCmd_scalar (own : c.task = none)
    (found : s.txns.find? (fun t => t.id == c.txn && t.kind == .token c.id) = some t) (part : t.parts = [p]) (dst : p.dst = [.s n]) :
    s.completeCmd c = ((s.acknowledged c t p n).signalled c).freeShares c.core := by
  have fill : (s.withdrawn c).fillToken c = s.acknowledged c t p n := (s.withdrawn c).fillToken_scalar found part dst
  rw [State.completeCmd_slice own, fill]

variable (s c t p n)

/-- What the arrival and the shares leave of the machine. -/
theorem State.completed_field {β : Type} (f : State → β)
    (h : ∀ (s : State) g k c n, f { s with gangs := g, parks := k, cores := c, nextId := n } = f s) :
    f (((s.acknowledged c t p n).signalled c).freeShares c.core) = f (s.acknowledged c t p n) :=
  (State.freeShares_field _ f (fun s x => h s s.gangs s.parks x s.nextId) _).trans (State.signalled_field _ c f h)

theorem State.acknowledged_cmds : (s.acknowledged c t p n).cmds = s.cmds.filter fun x => x.id != c.id := rfl
theorem State.acknowledged_txns : (s.acknowledged c t p n).txns = s.txns.filter fun x => x.id != t.id := rfl
theorem State.acknowledged_hbm : (s.acknowledged c t p n).hbm = s.hbm := rfl
theorem State.acknowledged_cores : (s.acknowledged c t p n).cores = s.cores := rfl

theorem State.slice?_acknowledged :
    (s.acknowledged c t p n).slice? p.sid = (s.slice? p.sid).map (Slice.tokened n c) :=
  (State.slice?_modSlice (s.withdrawn c) p.sid p.sid (Slice.tokened n c) fun _ => rfl).trans (if_pos rfl)

end Slice

/-- The phase of a task that ends with a status word. -/
theorem State.task?_modTask_phase (s : State) (id : Nat) (x : Phase) :
    ((s.modTask id fun t => { t with phase := x }).task? id).map (·.phase) = (s.task? id).map fun _ => x := by
  have same : (fun t : Task => t.id == id) ∘ (fun t : Task => if t.id == id then { t with phase := x } else t) = fun t => t.id == id := by
    funext t
    by_cases h : t.id = id <;> simp [h]
  unfold State.task? State.modTask
  rw [List.find?_map, same, Option.map_map]
  cases found : s.tasks.find? fun t => t.id == id with
  | none => rfl
  | some t =>
    have own : t.id = id := by simpa using List.find?_some found
    simp [own]

/-! ### Settlement -/

section Units

variable {s : State} {c : Cmd} (go : Goes s c)
include go

/-- The machine once SHLD has loaded its table (R243). -/
theorem runCmd_shld_loads {tbl : Fin 8} (kind : c.kind = .shld tbl) :
    (s.runCmd c).ctx c.ctx = { s.ctx c.ctx with shells := writeBytes (s.ctx c.ctx).shells (1024 * tbl.val) c.desc } ∧
    (∀ k, k ≠ c.ctx → (s.runCmd c).ctx k = s.ctx k) ∧ (s.runCmd c).cmds = unitDone s c ∧
    ({ s.runCmd c with ctxs := s.ctxs, cmds := s.cmds } : State) = s := by
  rw [State.runCmd_shld go kind]
  refine ⟨?_, fun k other => ?_, State.begin_counted_cmds rfl, rfl⟩
  · exact (get_set ..).trans (if_pos rfl)
  · exact (get_set ..).trans (if_neg other.symm)

variable (kind : c.kind = .cpy) (clean : s.poison = [])
include kind clean

/-- A segment of CPY that comes from one cached line is what the die shows there; no memory changes. -/
theorem runCmd_cpy_loads :
    let core := s.core c.core
    let die := coreDie c.core
    let asid := s.asidOf c.ctx
    let a := dSrc c.d + BitVec.ofNat 64 (4096 * c.unit)
    let b := dDst c.d + BitVec.ofNat 64 (4096 * c.unit)
    let n := min 4096 (dLen c.d - 4096 * c.unit)
    windowOf a = some .global → windowOf b = some .scratch → offsetOf a / 128 = (offsetOf a + n - 1) / 128 →
    s.granted (viaDie die) asid (offsetOf a) .r = true → (s.hit? (viaDie die) asid (offsetOf a)).isSome = true →
    let t := s.runCmd c
    t.core c.core = { core with spad := writeBytes core.spad (shareOf s c + offsetOf b) (s.viewBytes die asid (offsetOf a) n) } ∧
    (∀ k, k ≠ c.core → t.core k = s.core k) ∧ t.cmds = unitDone s c ∧ t.hbm = s.hbm ∧ t.cdata = s.cdata ∧ t.slices = s.slices := by
  intro core die asid a b n ha hb line granted hit t
  obtain ⟨u, w, same, run⟩ := State.runCmd_load go kind (pieces_cpy kind) clean (segment_pos_of_goes go kind) ha hb line granted hit
  let v : State := { u with writes := w }
  have cores : v.cores = s.cores := (congrArg State.cores same.uncached :)
  have cmds : v.cmds = (s.begin c).cmds := (congrArg State.cmds same.uncached :)
  let m := writeBytes core.spad (shareOf s c + offsetOf b) (s.viewBytes die asid (offsetOf a) n)
  have at_ : t = (v.withSpad c.core m).modCmd c.id fun x => { x with unit := c.unit + 1 } := run
  rw [at_]
  refine ⟨?_, fun k other => ?_, State.begin_counted_cmds cmds, same.hbm, same.cdata, (congrArg State.slices same.uncached :)⟩
  · have own : v.core c.core = core := State.core_congr cores c.core
    exact (State.core_withSpad v go.place m).trans (by rw [own])
  · exact ((State.core_setCore v c.core _ k).trans (if_neg fun h => other h.1)).trans (State.core_congr cores k)

/-- A segment of CPY that goes into one cached line is what its die shows there from then on; no other byte that a die shows changes. -/
theorem runCmd_cpy_stores (still : s.writes = []) :
    let core := s.core c.core
    let die := coreDie c.core
    let asid := s.asidOf c.ctx
    let a := dSrc c.d + BitVec.ofNat 64 (4096 * c.unit)
    let b := dDst c.d + BitVec.ofNat 64 (4096 * c.unit)
    let n := min 4096 (dLen c.d - 4096 * c.unit)
    windowOf a = some .scratch → windowOf b = some .global → offsetOf b / 128 = (offsetOf b + n - 1) / 128 →
    s.granted (viaDie die) asid (offsetOf b) .w = true → (s.hit? (viaDie die) asid (offsetOf b)).isSome = true →
    let t := s.runCmd c
    t.viewBytes die asid (offsetOf b) n = readBytes core.spad (shareOf s c + offsetOf a) n ∧
    (∀ d tag va, ¬ (d = die ∧ s.tagOf tag va = s.tagOf asid (offsetOf b) ∧ offsetOf b ≤ va ∧ va < offsetOf b + n) →
      t.viewByte d tag va = s.viewByte d tag va) ∧
    t.cmds = unitDone s c ∧ t.hbm = s.hbm ∧ t.cores = s.cores ∧ t.slices = s.slices := by
  intro core die asid a b n ha hb line granted hit t
  obtain ⟨v, same, run⟩ := State.runCmd_store go kind (pieces_cpy kind) clean (segment_pos_of_goes go kind) ha hb line granted hit
  let bs := readBytes core.spad (shareOf s c + offsetOf a) n
  let u := v.dieWrite [c.id] [] die asid (offsetOf b) bs
  have at_ : t = u.modCmd c.id fun x => { x with unit := c.unit + 1 } := run
  have len : bs.length = n := readBytes_length ..
  have alone : v.writes = [] := (congrArg State.writes same.uncached :).trans still
  have far : die ≠ 4 := coreDie_ne_command go.place
  have first : u = _ := State.dieWrite_first alone [c.id] [] far asid (offsetOf b) bs
  have tag (asid : BitVec 16) (va : Nat) : v.tagOf asid va = s.tagOf asid va := same.tagOf asid va
  rw [at_]
  refine ⟨?_, fun d g va away => ?_, State.begin_counted_cmds ?_, ?_, ?_, ?_⟩
  · have shown := State.viewBytes_dieWrite alone [c.id] [] far asid (offsetOf b) bs (len.symm ▸ line)
    rwa [len] at shown
  · refine (State.viewByte_dieWrite alone [c.id] [] far asid (offsetOf b) bs d g va).trans ?_
    rw [if_neg (by rwa [tag, tag, len]), State.viewByte_still alone, State.viewByte_still still, tag, same.cdata]
    rfl
  · exact (congrArg State.cmds first).trans (congrArg State.cmds same.uncached :)
  · exact (congrArg State.hbm first).trans same.hbm
  · exact (congrArg State.cores first).trans (congrArg State.cores same.uncached :)
  · exact (congrArg State.slices first).trans (congrArg State.slices same.uncached :)

end Units

section Done

variable {s : State} {c : Cmd}

/-- The completion of a command with its token in a scalar register (R194, R238, R239). -/
theorem completeCmd_token {t : Txn} {p : Part} {n : Fin 64} (own : c.task = none)
    (found : s.txns.find? (fun t => t.id == c.txn && t.kind == .token c.id) = some t) (part : t.parts = [p]) (dst : p.dst = [.s n]) :
    let u := s.completeCmd c
    u.slice? p.sid = (s.slice? p.sid).map (Slice.tokened n c) ∧
    u.cmds = s.cmds.filter (fun x => x.id != c.id) ∧ u.txns = s.txns.filter (fun x => x.id != t.id) ∧
    (p.sid, RegName.s n, c.id) ∈ u.tokens ∧ u.hbm = s.hbm ∧
    (ctlBen (dCtl c.d) = false → ∀ k, (u.core k).spad = (s.core k).spad) ∧
    (c.kind = .cpy → ctlBen (dCtl c.d) = true → s.boffBad c = false → c.core < 192 → (s.core c.core).spad.wf = true →
      let a := ((s.core c.core).share c.wave).spad + ctlBoff (dCtl c.d)
      u.barWord c.core a = barArrived (s.barWord c.core a) ∧ scratchKept s u [(c.core, a)]) := by
  intro u
  let v := s.acknowledged c t p n
  have done : u = (v.signalled c).freeShares c.core := State.completeCmd_scalar own found part dst
  have field {β : Type} (f : State → β) (h : ∀ (s : State) g k c n, f { s with gangs := g, parks := k, cores := c, nextId := n } = f s) :
      f u = f v := (congrArg f done).trans (State.completed_field s c t p n f h)
  have core (k : Nat) : v.core k = s.core k := State.core_congr (State.acknowledged_cores s c t p n) k
  have spad (k : Nat) : (u.core k).spad = ((v.signalled c).core k).spad := by rw [done, State.freeShares_spad]
  refine ⟨?_, ?_, ?_, ?_, ?_, fun silent k => ?_, fun kind asks within place wf => ?_⟩
  · exact (field (·.slice? p.sid) fun _ _ _ _ _ => rfl).trans (State.slice?_acknowledged s c t p n)
  · exact (field State.cmds fun _ _ _ _ _ => rfl).trans (State.acknowledged_cmds s c t p n)
  · exact (field State.txns fun _ _ _ _ _ => rfl).trans (State.acknowledged_txns s c t p n)
  · rw [field State.tokens fun _ _ _ _ _ => rfl]
    exact List.mem_append_right _ (List.mem_singleton_self _)
  · exact (field State.hbm fun _ _ _ _ _ => rfl).trans (State.acknowledged_hbm s c t p n)
  · rw [spad, State.signalled_silent v c silent, core]
  · have arrived : v.signalled c = v.arrive c.core (shareOf v c + ctlBoff (dCtl c.d)) :=
      State.signalled_cpy v c kind asks (by rw [State.boffBad, core]; exact within)
    have at_ : shareOf v c = ((s.core c.core).share c.wave).spad := by rw [shareOf, core]
    rw [at_] at arrived
    obtain ⟨word, kept⟩ := State.arrive_word (s := v) (by rw [core]; exact wf) place fun j => by rw [spad, arrived]
    refine ⟨by rw [word, State.barWord, core]; rfl, fun j b out => (kept j b out).trans (by rw [core])⟩

/-- The completion of a COPY task's command (R299). -/
theorem completeCmd_copyTask {id : Nat} (own : c.task = some id) :
    let u := s.completeCmd c
    (u.task? id).map (·.phase) = (s.task? id).map (fun _ => .ending (doneWord c.err c.unit)) ∧
    u.slices = s.slices ∧ u.cores = s.cores ∧ u.hbm = s.hbm := by
  intro u
  have done : u = _ := State.completeCmd_task own
  rw [done]
  exact ⟨State.task?_modTask_phase (s.withdrawn c) id _, rfl, rfl, rfl⟩

end Done

/-- Settles O48: units within the scratchpad of their core, segments in one cached line of the global window, bad descriptors, and the
completion of commands. -/
theorem engineSteps : Obligations.EngineSteps := by
  refine ⟨?_, ?_, ?_, ?_⟩
  · intro s cluster e c due serves cmd go core base die asid
    have run := exec_copySegment due serves cmd (unfinished_of_goes go)
    refine ⟨?_, ?_, ?_, ?_⟩
    · intro kind hw m
      refine ⟨fun other => ⟨_, run, State.runCmd_copy hw go ?_⟩, fun am ha => ⟨_, run, State.runCmd_copyMax hw go am ha⟩⟩
      exact kind.imp_right fun h => h.resolve_right other
    · exact fun kind fmt hi hs hd => ⟨_, run, State.runCmd_cbdc go kind fmt hi hs hd⟩
    · exact fun tbl kind => ⟨_, run, runCmd_shld_loads go kind⟩
    · intro kind clean a b n near
      refine ⟨?_, ?_⟩
      · rintro ha hb ⟨line, granted, hit⟩
        exact ⟨_, run, runCmd_cpy_loads go kind clean ha hb line granted hit⟩
      · rintro ha hb ⟨line, granted, hit⟩ still -
        exact ⟨_, run, runCmd_cpy_stores go kind clean still ha hb line granted hit⟩
  · intro s cluster e c due serves cmd unchecked bad
    rw [exec_copySegment due serves cmd (by simp [Cmd.finished, unchecked]), State.runCmd_bad unchecked bad]
    simp [State.modCmd]
  · intro s cluster e c serves cmd kind go hw
    exact ⟨_, exec_gatherBlock serves cmd (unfinished_of_goes go), State.runCmd_gather go kind hw⟩
  · intro s c found finished resident shown
    have run := exec_copyComplete found finished resident shown
    exact ⟨fun t p n own token part dst => ⟨_, run, completeCmd_token own token part dst⟩,
      fun id own => ⟨_, run, completeCmd_copyTask own⟩⟩

end Sys2Proof.Machine
